-- ==== Sys2Proof/Word.lean ====
section
/-! DEFINITION. The word types of the machine (R7, R14, R50). Bits are numbered from 0, the least significant. -/

namespace Sys2Proof

/-- One byte of memory. -/
abbrev Byte := BitVec 8

/-- One lane of one register, and one granule of code (R15, R50). -/
abbrev Word := BitVec 32

/-- A register pair, an address, a timeline value (R37, R249). -/
abbrev DWord := BitVec 64

/-- One bit for each of the 32 lanes (R134). -/
abbrev LaneMask := BitVec 32

/-- A register number, v0 to v255 (R58). -/
abbrev Reg := BitVec 8

end Sys2Proof
end

