-- ==== Sys2Proof/Config.lean ====
section
/-! DEFINITION. The free values: what the manual leaves open (see the assumption log), and the module's fixed counts (R5, R12, R14, R22).
Every free value is an opaque constant with no body, applied to a plain counter of the state or to the operands it
depends on; no proof can see what it is. -/

namespace Sys2Proof.Config

/-- Free choice number n: which of several allowed things happens (log 4). -/
opaque freeChoice : Nat → Nat

/-- Free 32-bit value number n: an open register value or lane choice (log 12). -/
opaque freeWord : Nat → Word

/-- Free byte number n: encoder output (R329 to R331; log 13). -/
opaque freeByte : Nat → Byte

/-- What the encode engines are free to choose in the headers of the unit that a command writes: command, element (R329, R331; log 13). -/
opaque encoderPick : Nat → Nat → Nat

/-- Where, modulo 4,096, the byte of a stream state lies that says which reference slots hold a frame (R329, R330; log 13). -/
opaque stateMaskAt : Nat

/-- Which of the results allowed by R203 a function-unit instruction gives: a fixed function of the instruction and the
input bits (log 11). -/
opaque fuPick : Nat → Word → Nat

/-- Which of the results allowed by R209 SMXUP gives in a lane: a fixed function of the row (mask, values) and the lane
(log 11). -/
opaque softmaxPick : LaneMask → List Word → Nat → Nat

def bays : Nat := 448
def trusses : Nat := 28
def sideBlocks : Nat := 256
def sideCrews : Nat := 32
def activeCrews : Nat := 8
def pendingCrews : Nat := 24
def copyEngines : Nat := 16
def encodeEngines : Nat := 2
/-- Half-accumulated lines that an L2 slice holds (R285). -/
def sliceLines : Nat := 8192
def stashPages : Nat := 256
def codeSlots : Nat := 16
def tlbEntries : Nat := 2048
def shadowStrokes : Nat := 32
def fqEntries : Nat := 4096
def kernelSlots : Nat := 16384
def treeSlots : Nat := 65536
def contexts : Nat := 1024
def queues : Nat := 4096
def umpires : Nat := 16
def ports : Nat := 64
def members : Nat := 768
def replayWindow : Nat := 4096
def waitTable : Nat := 512
def regEntries : Nat := 4096

end Sys2Proof.Config
end

