-- ==== Sys2Proof/Syntax.lean ====
section
/-! DEFINITION. The table of operations as one inductive: the crew instructions of the opcode map (R64), each with its decoded
fields (R55 to R63), and the machine's events (95_what_each_step_holds.md). Where an event happens (its crew, bay, kernel,
message) is the state's Place (Machine/Place.lean), as the crew that issues is for an instruction. -/

namespace Sys2Proof

/-- Encoded length (R50). -/
inductive Len where
  | l64 | l96 | l128
  deriving DecidableEq, Repr

/-- Predicate (pmode and vP, R56, R59). -/
inductive Pred where
  | always
  | nonzero (r : Reg)
  | zero (r : Reg)
  deriving DecidableEq, Repr

/-- The control fields of every instruction (R55, R57). -/
structure Ctl where
  len : Len
  stall : BitVec 4
  set : Option (Fin 12)
  wait : BitVec 12
  cut : Bool
  yield : Bool
  pred : Pred
  deriving DecidableEq, Repr

/-- Type codes (R62). -/
inductive Ty where
  | i32 | n32 | i64 | n64 | i16 | n16 | i8 | n8 | i4 | n4
  | f32 | f64 | f16 | bf16 | f16x2 | bf16x2
  | e2m1 | e2m3 | e3m2 | e4m3 | e5m2 | e8m0
  deriving DecidableEq, Repr

/-- Rounding modes (R38). -/
inductive Rnd where
  | rn | rz | rd | ru | rs
  deriving DecidableEq, Repr

/-- Conditions of the C family (R63). -/
inductive Cond where
  | eq | ne | lt | le | gt | ge | ord | uno
  deriving DecidableEq, Repr

/-- Access widths of the M family (R63). -/
inductive Width where
  | b8 | b16 | b32 | b64 | b128
  deriving DecidableEq, Repr

/-- Retention hints of the M family (R63). -/
inductive Hint where
  | none | stream | keep
  deriving DecidableEq, Repr

/-- Operations of ATOM, RED, LRED, LSCAN and XRED (R63). -/
inductive RmwOp where
  | add | min | max | and | or | xor | xchg | cas
  deriving DecidableEq, Repr

/-- Operations of SHFL (R63). -/
inductive ShflOp where
  | idx | up | down | xor
  deriving DecidableEq, Repr

/-- Operations of VOTE (R63). -/
inductive VoteOp where
  | all | any | uni
  deriving DecidableEq, Repr

/-- Operations of MATCH (R63). -/
inductive MatchOp where
  | any | all
  deriving DecidableEq, Repr

/-- Forms of SUMRD (R299). -/
inductive SumRdOp where
  | f64 | f32 | bf16 | e4m3
  deriving DecidableEq, Repr

/-- Forms of SUMRED (R300). -/
inductive SumRedOp where
  | f64 | f32
  deriving DecidableEq, Repr

/-- Special registers (R65). -/
inductive SReg where
  | em | lane | crew | kernel | bay | clock | time | progress | stroke | flags | allot | tag
  deriving DecidableEq, Repr

/-- Operand b under immediate code b (R60): a register, or imm32 in the 128-bit form. -/
inductive Src where
  | reg (r : Reg)
  | imm (v : Word)
  deriving DecidableEq, Repr

/-- The operations of the machine: one constructor for each row of the table of operations. -/
inductive Instr where
  -- control and mask
  | nop (k : Ctl)
  | bra (k : Ctl) (off : BitVec 14)
  | brx (k : Ctl) (a : Reg)
  | bdiv (k : Ctl) (a : Reg) (off : BitVec 14)
  | join (k : Ctl)
  | call (k : Ctl) (d : Reg) (off : BitVec 14)
  | ret (k : Ctl) (a : Reg)
  | exit (k : Ctl)
  | fjmp (k : Ctl) (a : Reg) (n : BitVec 14)
  | cfetch (k : Ctl) (a b : Reg) (n : BitVec 14)
  | cinv (k : Ctl) (n : BitVec 14)
  | trap (k : Ctl) (n : BitVec 14)
  | rte (k : Ctl)
  | bkpt (k : Ctl) (n : BitVec 14)
  | yieldHint (k : Ctl)
  | cut (k : Ctl)
  | emrd (k : Ctl) (d : Reg)
  | emwr (k : Ctl) (a : Reg)
  | allot (k : Ctl) (d a : Reg)
  | sread (k : Ctl) (d : Reg) (sr : SReg)
  | swrite (k : Ctl) (a : Reg)
  | lget (k : Ctl) (d a b : Reg)
  | lset (k : Ctl) (d a b : Reg)
  -- integer and logical
  | iadd (k : Ctl) (ty : Ty) (sat : Bool) (d a : Reg) (b : Src)
  | isub (k : Ctl) (ty : Ty) (sat : Bool) (d a : Reg) (b : Src)
  | iaddx (k : Ctl) (ty : Ty) (sat : Bool) (d a b c : Reg)
  | imul (k : Ctl) (ty : Ty) (d a : Reg) (b : Src)
  | imulh (k : Ctl) (ty : Ty) (d a : Reg) (b : Src)
  | imad (k : Ctl) (ty : Ty) (d a b c : Reg)
  | iabs (k : Ctl) (ty : Ty) (sat : Bool) (d a : Reg)
  | imin (k : Ctl) (ty : Ty) (d a : Reg) (b : Src)
  | imax (k : Ctl) (ty : Ty) (d a : Reg) (b : Src)
  | iclamp (k : Ctl) (ty : Ty) (d a b c : Reg)
  | icmp (k : Ctl) (ty : Ty) (cond : Cond) (d a : Reg) (b : Src)
  | isel (k : Ctl) (ty : Ty) (d a b c : Reg)
  | csub (k : Ctl) (ty : Ty) (d a : Reg) (b : Src)
  | lea (k : Ctl) (d a b : Reg) (n : BitVec 14)
  | mov (k : Ctl) (ty : Ty) (d a : Reg)
  | movi (k : Ctl) (d : Reg) (v : Word)
  | shl (k : Ctl) (ty : Ty) (d a : Reg) (b : Src)
  | shr (k : Ctl) (ty : Ty) (d a : Reg) (b : Src)
  | sar (k : Ctl) (ty : Ty) (d a : Reg) (b : Src)
  | shf (k : Ctl) (ty : Ty) (d a b c : Reg)
  | and (k : Ctl) (ty : Ty) (d a : Reg) (b : Src)
  | or (k : Ctl) (ty : Ty) (d a : Reg) (b : Src)
  | xor (k : Ctl) (ty : Ty) (d a : Reg) (b : Src)
  | andn (k : Ctl) (ty : Ty) (d a : Reg) (b : Src)
  | bfx (k : Ctl) (ty : Ty) (d a : Reg) (b : Src)
  | bfi (k : Ctl) (ty : Ty) (d a b c : Reg)
  | popc (k : Ctl) (ty : Ty) (d a : Reg)
  | clz (k : Ctl) (ty : Ty) (d a : Reg)
  | brev (k : Ctl) (ty : Ty) (d a : Reg)
  | prmt (k : Ctl) (d a b c : Reg)
  -- floating point
  | fadd (k : Ctl) (ty : Ty) (r : Rnd) (d a : Reg) (b : Src)
  | fsub (k : Ctl) (ty : Ty) (r : Rnd) (d a : Reg) (b : Src)
  | fmul (k : Ctl) (ty : Ty) (r : Rnd) (d a : Reg) (b : Src)
  | fma (k : Ctl) (ty : Ty) (r : Rnd) (d a b c : Reg)
  | fmin (k : Ctl) (ty : Ty) (d a : Reg) (b : Src)
  | fmax (k : Ctl) (ty : Ty) (d a : Reg) (b : Src)
  | fcmp (k : Ctl) (ty : Ty) (cond : Cond) (d a : Reg) (b : Src)
  | frnd (k : Ctl) (ty : Ty) (r : Rnd) (d a : Reg)
  | fclass (k : Ctl) (ty : Ty) (d a : Reg)
  | fscale (k : Ctl) (ty : Ty) (r : Rnd) (d a : Reg) (b : Src)
  | dadd (k : Ctl) (r : Rnd) (d a b : Reg)
  | dmul (k : Ctl) (r : Rnd) (d a b : Reg)
  | dfma (k : Ctl) (r : Rnd) (d a b c : Reg)
  | dcmp (k : Ctl) (cond : Cond) (d a b : Reg)
  -- dot products, conversion, random numbers
  | dotf4 (k : Ctl) (fmt : Ty) (s : BitVec 2) (d a b c : Reg)
  | dotf6 (k : Ctl) (fmt : Ty) (s : BitVec 2) (d a b c : Reg)
  | dotf8 (k : Ctl) (fmt : Ty) (s : BitVec 2) (d a b c : Reg)
  | doth (k : Ctl) (fmt : Ty) (d a b c : Reg)
  | doti8 (k : Ctl) (fmt : Ty) (d a b c : Reg)
  | doti4 (k : Ctl) (fmt : Ty) (d a b c : Reg)
  | cvt (k : Ctl) (dt st : Ty) (r : Rnd) (sat : Bool) (d a : Reg)
  | pack (k : Ctl) (dt st : Ty) (r : Rnd) (sat : Bool) (d a b c : Reg)
  | unpack (k : Ctl) (dt st : Ty) (r : Rnd) (d a b : Reg)
  | mxscale (k : Ctl) (st : Ty) (d a b : Reg)
  | rand (k : Ctl) (d a b : Reg)
  -- function unit and row statistics
  | fsint (k : Ctl) (d a : Reg)
  | fcost (k : Ctl) (d a : Reg)
  | fexp2 (k : Ctl) (d a : Reg)
  | flog2 (k : Ctl) (d a : Reg)
  | frcp (k : Ctl) (d a : Reg)
  | frsq (k : Ctl) (d a : Reg)
  | fsqrt (k : Ctl) (d a : Reg)
  | ftanh (k : Ctl) (d a : Reg)
  | rmax (k : Ctl) (ty : Ty) (d a : Reg)
  | rsum (k : Ctl) (ty : Ty) (r : Rnd) (d a : Reg)
  | rstat (k : Ctl) (d a : Reg)
  | smxup (k : Ctl) (d a : Reg)
  -- cross-lane
  | shfl (k : Ctl) (op : ShflOp) (ty : Ty) (d a b c : Reg)
  | ballot (k : Ctl) (d a b : Reg)
  | vote (k : Ctl) (op : VoteOp) (d a b : Reg)
  | lred (k : Ctl) (op : RmwOp) (ty : Ty) (d a b : Reg)
  | lscan (k : Ctl) (op : RmwOp) (ty : Ty) (d a b : Reg)
  | laneMatch (k : Ctl) (op : MatchOp) (ty : Ty) (d a b : Reg)
  | bcast (k : Ctl) (ty : Ty) (d a b c : Reg)
  | elect (k : Ctl) (d a : Reg)
  -- memory
  | ld (k : Ctl) (w : Width) (sx : Bool) (h : Hint) (d a : Reg) (off : Word)
  | st (k : Ctl) (w : Width) (h : Hint) (a b : Reg) (off : Word)
  | atom (k : Ctl) (op : RmwOp) (ty : Ty) (d a b c : Reg) (off : Word)
  | red (k : Ctl) (op : RmwOp) (ty : Ty) (a b : Reg) (off : Word)
  | mwait (k : Ctl) (cond : Cond) (ty : Ty) (a b : Reg) (off : Word)
  | pref (k : Ctl) (h : Hint) (a : Reg) (off : Word)
  | mfence (k : Ctl) (eng peer : Bool)
  -- sum line and matrix pipe
  | mma (k : Ctl) (fmt : Ty) (reuse : Bool) (s : BitVec 2) (d a b c : Reg)
  | mbatch (k : Ctl) (d : Reg)
  | sumdeclDecl (k : Ctl) (a b : Reg)
  | sumdeclFree (k : Ctl) (a : Reg)
  | sumdeclTl (k : Ctl) (a : Reg)
  | sumrd (k : Ctl) (op : SumRdOp) (d a : Reg) (off : Word)
  | sumrdClr (k : Ctl) (op : SumRdOp) (d a : Reg) (off : Word)
  | sumred (k : Ctl) (op : SumRedOp) (a b : Reg) (off : Word)
  | sumz (k : Ctl) (a b : Reg)
  | sumdrain (k : Ctl) (clr : Bool) (a b : Reg)
  | sumq (k : Ctl) (d a : Reg)
  -- barrier and engines
  | barinitPh (k : Ctl) (bent : Bool) (a b c : Reg)
  | barinitTl (k : Ctl) (a b c : Reg)
  | barinitEng (k : Ctl) (a b c : Reg)
  | arrive (k : Ctl) (bent : Bool) (a b : Reg)
  | expect (k : Ctl) (a b : Reg)
  | wait (k : Ctl) (a b : Reg)
  | tladvMax (k : Ctl) (a b : Reg)
  | tladvAdd (k : Ctl) (a b : Reg)
  | copy (k : Ctl) (a : Reg)
  | gather (k : Ctl) (a : Reg)
  | scatter (k : Ctl) (a : Reg)
  | encode (k : Ctl) (a : Reg)
  | batch (k : Ctl) (d : Reg)
  | barq (k : Ctl) (w : BitVec 2) (d a : Reg)
  -- token tree
  | tshape (k : Ctl) (d a b : Reg)
  | tfork (k : Ctl) (d a b c : Reg)
  | tprune (k : Ctl) (d a b : Reg)
  | tcommit (k : Ctl) (d a b : Reg)
  | tmask (k : Ctl) (d a b : Reg)
  | tmaskVfy (k : Ctl) (d a b : Reg)
  | tinfoLo (k : Ctl) (d a b : Reg)
  | tinfoHi (k : Ctl) (d a b : Reg)
  | tinfoTree (k : Ctl) (d a b : Reg)
  | tacc (k : Ctl) (d a b c : Reg)
  | tappend (k : Ctl) (d a b : Reg)
  | tnew (k : Ctl) (d a : Reg)
  | tfree (k : Ctl) (d a : Reg)
  -- page
  | pgpin (k : Ctl) (d a b : Reg)
  | pgunpin (k : Ctl) (d a b : Reg)
  | pgcowMark (k : Ctl) (d a b : Reg)
  | pgcowClear (k : Ctl) (d a b : Reg)
  | pgqNext (k : Ctl) (d a : Reg)
  | pgqDone (k : Ctl) (d a : Reg)
  | pgqFail (k : Ctl) (d a : Reg)
  | pgqInval (k : Ctl) (d a : Reg)
  | smap (k : Ctl) (d a b : Reg)
  | sflushWb (k : Ctl) (a b : Reg)
  | sflushInv (k : Ctl) (a b : Reg)
  -- link
  | xput (k : Ctl) (w : Width) (a b : Reg)
  | xget (k : Ctl) (w : Width) (d a : Reg)
  | xred (k : Ctl) (op : RmwOp) (ty : Ty) (a b : Reg) (s : BitVec 14)
  | xsigArr (k : Ctl) (a b : Reg)
  | xsigMax (k : Ctl) (a b : Reg)
  | xfence (k : Ctl)
  | xprobe (k : Ctl) (d a : Reg)
  -- launch and kernel
  | launch (k : Ctl) (d a : Reg)
  | qctlHold (k : Ctl) (d a : Reg)
  | qctlRelease (k : Ctl) (d a : Reg)
  | qctlFlush (k : Ctl) (d a : Reg)
  | qctlClass (k : Ctl) (d a b : Reg)
  | qctlQuery (k : Ctl) (d a : Reg)
  | kstopStop (k : Ctl) (d a : Reg)
  | kstopKill (k : Ctl) (d a : Reg)
  | kstopResume (k : Ctl) (d a : Reg)
  | kq (k : Ctl) (d a : Reg)
  | leave (k : Ctl) (d a : Reg)
  | notify (k : Ctl) (a b : Reg)
  | ckptCut (k : Ctl) (d a : Reg)
  | ckptBack (k : Ctl) (d a : Reg)
  -- debug
  | bpset (k : Ctl) (a b : Reg) (n : BitVec 14)
  | bpclr (k : Ctl) (n : BitVec 14)
  | stamp (k : Ctl) (d a : Reg)
  | trace (k : Ctl) (a b : Reg)
  -- events: boot, context and queue commands
  | moduleBoot
  | systemRecordWrite
  | ctxCreate
  | ctxActivate
  | ctxSuspend
  | suspensionComplete
  | ctxResume
  | ctxDestroy
  | ctxClear
  | unknownCommand
  | contextFault
  | queueOpen
  | queueHold
  | queueRelease
  | queueFlush
  | queueClose
  | queueReconf
  | rsvWrite
  -- events: Plofo
  | plofoAck
  | plofoWrite
  | plofoRead
  | plofoLaunch
  | plofoSignalArrive
  | plofoSignalRaise
  | plofoQuery
  | frameDrop
  | replayResendTimeout
  | telemetry
  -- events: cox, governor, placement
  | kernelDependenceMet
  | candidateAged
  | coxChoose
  | admissionGrant
  | governorRequest
  | coxPreempt
  | kernelPlacing
  | launchSegmentFetched
  | crewPlace
  | crewResident
  -- events: issue and units
  | pendingToActive
  | longStallSwap
  | pendingAgeSwap
  | swapComplete
  | issuePick
  | urgencyUpdate
  | resultWriteback
  | fuGroupServe
  | fuResultWrite
  -- events: traps, stops, retirement
  | preciseTrapEntry
  | impreciseFault
  | kernelStopMessage
  | crewSave
  | stopCutComplete
  | kernelRetire
  | crewExit
  -- events: strokes
  | strokeCommit
  | localCommit
  | signatureSquash
  | orderLogCheckpoint
  | replayDigestCheck
  | heldStrokeStart
  | shadowSpaceGrant
  | shadowDeadlockSquash
  | mwaitWake
  | waitTableRecheck
  -- events: pages
  | tlbWalk
  | faultQueueJoin
  | kvCopyOnWrite
  | checkpointCowCopy
  | kvCountFree
  -- events: matrix pipe, sums, leave, allotment
  | mmaAccept
  | mmaPipeFree
  | reductionApply
  | matrixBatchRaise
  | linePoisoned
  | leaveWindow
  | leaveRaiseAnswer
  | leaveGrantArrive
  | allotGrant
  | allotDeadlockFail
  -- events: engines, trees
  | engineUnitLand
  | engineCommandComplete
  | engineBatchRaise
  | cfetchComplete
  | encodeStart
  | encodeDone
  | crewCancel
  | treeNodesFree
  | templatePublish
  -- events: link
  | peerAccessPerform
  | xredCellApply
  | peerAck
  | portEnSet
  | portEnClear
  | portTrained
  | portTrainingTimeout
  | heartbeatArrive
  | heartbeatSend
  | heartbeatPeriodMissed
  | portRetryLimit
  | portSignalSeen
  -- events: power, background, debug
  | plimitWrite
  | thermalTripSet
  | thermalTripClear
  | hbmPatrolScrub
  | sramScrub
  | stampRecordWrite
  | pcSample
  -- events: reset input, flits
  | moduleReset
  | corruptedFlit
  deriving DecidableEq, Repr

end Sys2Proof
end

