-- ==== Sys2Proof/Machine/Form.lean ====
section
/-! DEFINITION. The encoding tables: codes of the fields (R38, R62, R63, R65), the opcode map (R64), the operand groups (R58)
and the forms each instruction accepts (its own description). Decode and WellFormed both read them. -/

namespace Sys2Proof

/-- Length code, bits 1:0 (R50). -/
def Len.code : Len → BitVec 2
  | .l64 => 0 | .l96 => 1 | .l128 => 2

/-- Granules of an instruction of this length (R50). -/
def Len.granules : Len → Nat
  | .l64 => 2 | .l96 => 3 | .l128 => 4

/-- Type code (R62). -/
def Ty.code : Ty → BitVec 5
  | .i32 => 0 | .n32 => 1 | .i64 => 2 | .n64 => 3 | .i16 => 4 | .n16 => 5 | .i8 => 6 | .n8 => 7
  | .i4 => 8 | .n4 => 9 | .f32 => 10 | .f64 => 11 | .f16 => 12 | .bf16 => 13 | .f16x2 => 14 | .bf16x2 => 15
  | .e2m1 => 16 | .e2m3 => 17 | .e3m2 => 18 | .e4m3 => 19 | .e5m2 => 20 | .e8m0 => 21

/-- Type named by a code; 10110 to 11111 are reserved (R62). -/
def Ty.ofCode? (c : BitVec 5) : Option Ty :=
  match c.toNat with
  | 0 => some .i32 | 1 => some .n32 | 2 => some .i64 | 3 => some .n64 | 4 => some .i16 | 5 => some .n16
  | 6 => some .i8 | 7 => some .n8 | 8 => some .i4 | 9 => some .n4 | 10 => some .f32 | 11 => some .f64
  | 12 => some .f16 | 13 => some .bf16 | 14 => some .f16x2 | 15 => some .bf16x2 | 16 => some .e2m1
  | 17 => some .e2m3 | 18 => some .e3m2 | 19 => some .e4m3 | 20 => some .e5m2 | 21 => some .e8m0
  | _ => none

/-- Rounding code (R38). -/
def Rnd.code : Rnd → BitVec 3
  | .rn => 0 | .rz => 1 | .rd => 2 | .ru => 3 | .rs => 4

def Rnd.ofCode? (c : BitVec 3) : Option Rnd :=
  match c.toNat with
  | 0 => some .rn | 1 => some .rz | 2 => some .rd | 3 => some .ru | 4 => some .rs | _ => none

/-- Condition code of the C family (R63). -/
def Cond.code : Cond → BitVec 3
  | .eq => 0 | .ne => 1 | .lt => 2 | .le => 3 | .gt => 4 | .ge => 5 | .ord => 6 | .uno => 7

def Cond.ofCode (c : BitVec 3) : Cond :=
  match c.toNat with
  | 0 => .eq | 1 => .ne | 2 => .lt | 3 => .le | 4 => .gt | 5 => .ge | 6 => .ord | _ => .uno

/-- Width code of the M family (R63). -/
def Width.code : Width → BitVec 3
  | .b8 => 0 | .b16 => 1 | .b32 => 2 | .b64 => 3 | .b128 => 4

def Width.ofCode? (c : BitVec 3) : Option Width :=
  match c.toNat with
  | 0 => some .b8 | 1 => some .b16 | 2 => some .b32 | 3 => some .b64 | 4 => some .b128 | _ => none

/-- Access width in bytes (R235). -/
def Width.bytes : Width → Nat
  | .b8 => 1 | .b16 => 2 | .b32 => 4 | .b64 => 8 | .b128 => 16

/-- Registers that hold one datum of this width (R63, R237). -/
def Width.regs : Width → Nat
  | .b8 => 1 | .b16 => 1 | .b32 => 1 | .b64 => 2 | .b128 => 4

def Hint.code : Hint → BitVec 2
  | .none => 0 | .stream => 1 | .keep => 2

def Hint.ofCode? (c : BitVec 2) : Option Hint :=
  match c.toNat with
  | 0 => some .none | 1 => some .stream | 2 => some .keep | _ => Option.none

/-- Op code of the O family (R63). -/
def RmwOp.code : RmwOp → BitVec 3
  | .add => 0 | .min => 1 | .max => 2 | .and => 3 | .or => 4 | .xor => 5 | .xchg => 6 | .cas => 7

def RmwOp.ofCode (c : BitVec 3) : RmwOp :=
  match c.toNat with
  | 0 => .add | 1 => .min | 2 => .max | 3 => .and | 4 => .or | 5 => .xor | 6 => .xchg | _ => .cas

def ShflOp.code : ShflOp → BitVec 3
  | .idx => 0 | .up => 1 | .down => 2 | .xor => 3

def ShflOp.ofCode? (c : BitVec 3) : Option ShflOp :=
  match c.toNat with
  | 0 => some .idx | 1 => some .up | 2 => some .down | 3 => some .xor | _ => none

def VoteOp.code : VoteOp → BitVec 3
  | .all => 0 | .any => 1 | .uni => 2

def VoteOp.ofCode? (c : BitVec 3) : Option VoteOp :=
  match c.toNat with
  | 0 => some .all | 1 => some .any | 2 => some .uni | _ => none

def MatchOp.code : MatchOp → BitVec 3
  | .any => 0 | .all => 1

def MatchOp.ofCode? (c : BitVec 3) : Option MatchOp :=
  match c.toNat with
  | 0 => some .any | 1 => some .all | _ => none

def SumRdOp.code : SumRdOp → BitVec 4
  | .f64 => 0 | .f32 => 1 | .bf16 => 2 | .e4m3 => 3

def SumRdOp.ofCode? (c : BitVec 4) : Option SumRdOp :=
  match c.toNat with
  | 0 => some .f64 | 1 => some .f32 | 2 => some .bf16 | 3 => some .e4m3 | _ => none

def SumRedOp.code : SumRedOp → BitVec 4
  | .f64 => 0 | .f32 => 1

def SumRedOp.ofCode? (c : BitVec 4) : Option SumRedOp :=
  match c.toNat with
  | 0 => some .f64 | 1 => some .f32 | _ => none

/-- Special-register number (R65). -/
def SReg.code : SReg → BitVec 14
  | .em => 0 | .lane => 1 | .crew => 2 | .kernel => 3 | .bay => 4 | .clock => 5 | .time => 6 | .progress => 7
  | .stroke => 8 | .flags => 9 | .allot => 10 | .tag => 11

def SReg.ofCode? (c : BitVec 14) : Option SReg :=
  match c.toNat with
  | 0 => some .em | 1 => some .lane | 2 => some .crew | 3 => some .kernel | 4 => some .bay | 5 => some .clock
  | 6 => some .time | 7 => some .progress | 8 => some .stroke | 9 => some .flags | 10 => some .allot | 11 => some .tag
  | _ => none

/-- Registers a special register is read into (R65). -/
def SReg.regs : SReg → Nat
  | .clock => 2 | .time => 2 | .stroke => 2
  | .em => 1 | .lane => 1 | .crew => 1 | .kernel => 1 | .bay => 1 | .progress => 1 | .flags => 1 | .allot => 1 | .tag => 1

/-- Registers of one operand of this type: a pair for a 64-bit type (R58). -/
def Ty.regs : Ty → Nat
  | .i64 => 2 | .n64 => 2 | .f64 => 2
  | .i32 => 1 | .n32 => 1 | .i16 => 1 | .n16 => 1 | .i8 => 1 | .n8 => 1 | .i4 => 1 | .n4 => 1 | .f32 => 1 | .f16 => 1
  | .bf16 => 1 | .f16x2 => 1 | .bf16x2 => 1 | .e2m1 => 1 | .e2m3 => 1 | .e3m2 => 1 | .e4m3 => 1 | .e5m2 => 1 | .e8m0 => 1

/-- The P column of R64. -/
inductive PCol where
  | none | lane | uniform
  deriving DecidableEq, Repr

/-- The Imm column of R64 with its value (R60); x is the X-family extension (R63). -/
inductive ImmF where
  | none
  | b (s : Src)
  | o (off : Word)
  | t (v : BitVec 14)
  | n (v : BitVec 14)
  | s (v : BitVec 14)
  | k (v : Word)
  | x (v : BitVec 14)
  deriving DecidableEq, Repr

/-- An operand field: a register and the size of its group (R58). -/
abbrev Opnd := Option (Reg × Nat)

/-- What the encoding of an instruction holds beside its control fields. -/
structure Enc where
  op : BitVec 8
  mod : BitVec 8
  d : Opnd := none
  a : Opnd := none
  b : Opnd := none
  c : Opnd := none
  imm : ImmF := .none
  deriving DecidableEq, Repr

/-- Minimum length and P column of an opcode (R64); none for a reserved opcode. -/
def opRow (op : BitVec 8) : Option (Len × PCol) :=
  match op.toNat with
  | 0x00 => some (.l64, .none) | 0x01 => some (.l96, .uniform) | 0x02 => some (.l64, .uniform)
  | 0x03 => some (.l96, .none) | 0x04 => some (.l64, .none) | 0x05 => some (.l96, .uniform)
  | 0x06 => some (.l64, .uniform) | 0x07 => some (.l64, .lane) | 0x08 => some (.l96, .none)
  | 0x09 => some (.l96, .none) | 0x0A => some (.l96, .none) | 0x0B => some (.l96, .uniform)
  | 0x0C => some (.l64, .none) | 0x0D => some (.l64, .none) | 0x0E => some (.l64, .none)
  | 0x0F => some (.l64, .none) | 0x10 => some (.l64, .none) | 0x11 => some (.l64, .none)
  | 0x12 => some (.l64, .none) | 0x13 => some (.l96, .lane) | 0x14 => some (.l96, .none)
  | 0x15 => some (.l64, .none) | 0x16 => some (.l64, .none)
  | 0x20 => some (.l64, .lane) | 0x21 => some (.l64, .lane) | 0x22 => some (.l96, .lane)
  | 0x23 => some (.l64, .lane) | 0x24 => some (.l64, .lane) | 0x25 => some (.l96, .lane)
  | 0x26 => some (.l64, .lane) | 0x27 => some (.l64, .lane) | 0x28 => some (.l64, .lane)
  | 0x29 => some (.l96, .lane) | 0x2A => some (.l64, .lane) | 0x2B => some (.l96, .lane)
  | 0x2C => some (.l64, .lane) | 0x2D => some (.l96, .lane) | 0x2E => some (.l64, .lane)
  | 0x2F => some (.l128, .lane)
  | 0x30 => some (.l64, .lane) | 0x31 => some (.l64, .lane) | 0x32 => some (.l64, .lane)
  | 0x33 => some (.l96, .lane) | 0x34 => some (.l64, .lane) | 0x35 => some (.l64, .lane)
  | 0x36 => some (.l64, .lane) | 0x37 => some (.l64, .lane) | 0x38 => some (.l64, .lane)
  | 0x39 => some (.l96, .lane) | 0x3A => some (.l64, .lane) | 0x3B => some (.l64, .lane)
  | 0x3C => some (.l64, .lane) | 0x3D => some (.l96, .lane)
  | 0x40 => some (.l64, .lane) | 0x41 => some (.l64, .lane) | 0x42 => some (.l64, .lane)
  | 0x43 => some (.l96, .lane) | 0x44 => some (.l64, .lane) | 0x45 => some (.l64, .lane)
  | 0x46 => some (.l64, .lane) | 0x47 => some (.l64, .lane) | 0x48 => some (.l64, .lane)
  | 0x49 => some (.l64, .lane) | 0x4A => some (.l64, .lane) | 0x4B => some (.l64, .lane)
  | 0x4C => some (.l96, .lane) | 0x4D => some (.l64, .lane)
  | 0x50 => some (.l96, .lane) | 0x51 => some (.l96, .lane) | 0x52 => some (.l96, .lane)
  | 0x53 => some (.l96, .lane) | 0x54 => some (.l96, .lane) | 0x55 => some (.l96, .lane)
  | 0x60 => some (.l96, .lane) | 0x61 => some (.l96, .lane) | 0x62 => some (.l96, .lane)
  | 0x63 => some (.l96, .lane) | 0x64 => some (.l64, .lane)
  | 0x68 => some (.l64, .lane) | 0x69 => some (.l64, .lane) | 0x6A => some (.l64, .lane)
  | 0x6B => some (.l64, .lane) | 0x6C => some (.l64, .lane) | 0x6D => some (.l64, .lane)
  | 0x6E => some (.l64, .lane) | 0x6F => some (.l64, .lane)
  | 0x70 => some (.l64, .none) | 0x71 => some (.l64, .none) | 0x72 => some (.l64, .none) | 0x73 => some (.l64, .none)
  | 0x78 => some (.l96, .none) | 0x79 => some (.l64, .none) | 0x7A => some (.l64, .none)
  | 0x7B => some (.l64, .none) | 0x7C => some (.l64, .none) | 0x7D => some (.l64, .none)
  | 0x7E => some (.l96, .none) | 0x7F => some (.l64, .none)
  | 0x80 => some (.l64, .lane) | 0x81 => some (.l64, .lane) | 0x82 => some (.l64, .lane)
  | 0x83 => some (.l64, .lane) | 0x84 => some (.l64, .none) | 0x85 => some (.l64, .lane) | 0x86 => some (.l64, .none)
  | 0x90 => some (.l96, .none) | 0x91 => some (.l64, .none) | 0x92 => some (.l64, .none)
  | 0x93 => some (.l64, .lane) | 0x94 => some (.l64, .lane) | 0x95 => some (.l64, .none)
  | 0x96 => some (.l64, .none) | 0x97 => some (.l64, .none)
  | 0xA0 => some (.l96, .none) | 0xA1 => some (.l64, .none) | 0xA2 => some (.l64, .none)
  | 0xA3 => some (.l64, .none) | 0xA4 => some (.l64, .none) | 0xA5 => some (.l64, .none)
  | 0xA6 => some (.l64, .none) | 0xA7 => some (.l64, .none) | 0xA8 => some (.l64, .none)
  | 0xA9 => some (.l64, .none) | 0xAA => some (.l64, .none)
  | 0xB0 => some (.l64, .none) | 0xB1 => some (.l96, .none) | 0xB2 => some (.l64, .none)
  | 0xB3 => some (.l64, .none) | 0xB4 => some (.l64, .none) | 0xB5 => some (.l64, .none)
  | 0xB6 => some (.l96, .none) | 0xB7 => some (.l64, .none) | 0xB8 => some (.l64, .none) | 0xB9 => some (.l64, .none)
  | 0xC0 => some (.l64, .none) | 0xC1 => some (.l64, .none) | 0xC2 => some (.l64, .none)
  | 0xC3 => some (.l64, .none) | 0xC4 => some (.l64, .none) | 0xC5 => some (.l64, .none)
  | 0xD0 => some (.l64, .lane) | 0xD1 => some (.l64, .lane) | 0xD2 => some (.l96, .lane)
  | 0xD3 => some (.l64, .none) | 0xD4 => some (.l64, .none) | 0xD5 => some (.l64, .none)
  | 0xE0 => some (.l64, .none) | 0xE1 => some (.l64, .none) | 0xE2 => some (.l64, .none)
  | 0xE3 => some (.l64, .none) | 0xE4 => some (.l64, .none) | 0xE5 => some (.l64, .none) | 0xE6 => some (.l64, .none)
  | 0xF0 => some (.l96, .none) | 0xF1 => some (.l96, .none) | 0xF2 => some (.l64, .none) | 0xF3 => some (.l64, .none)
  | _ => none

/-- T family, integer type: type, two zero bits, .sat (R63, R185). -/
def modTI (ty : Ty) (sat : Bool) : BitVec 8 := ty.code ++ 0#2 ++ BitVec.ofBool sat
/-- T family, float type: type, rounding code. -/
def modTF (ty : Ty) (r : Rnd) : BitVec 8 := ty.code ++ r.code
/-- T family with no rounding and no .sat. -/
def modT0 (ty : Ty) : BitVec 8 := ty.code ++ 0#3
def modC (ty : Ty) (c : Cond) : BitVec 8 := ty.code ++ c.code
def modO (op : BitVec 3) (ty : Ty) : BitVec 8 := op ++ ty.code
def modM (w : Width) (sx : Bool) (h : Hint) : BitVec 8 := w.code ++ BitVec.ofBool sx ++ h.code ++ 0#2
def modD (ty : Ty) (s : BitVec 2) : BitVec 8 := ty.code ++ s ++ 0#1
def modQ (ty : Ty) (reuse : Bool) (s : BitVec 2) : BitVec 8 := ty.code ++ BitVec.ofBool reuse ++ s
/-- F family: op, flags 59:56. -/
def modF (op : BitVec 4) (flags : BitVec 4 := 0) : BitVec 8 := op ++ flags
/-- X family extension: source type in bits 86:82, .sat in bit 87 (R63). -/
def extX (st : Ty) (sat : Bool) : BitVec 14 := 0#8 ++ BitVec.ofBool sat ++ st.code

/-- One register. -/
def r1 (r : Reg) : Opnd := some (r, 1)
def rN (n : Nat) (r : Reg) : Opnd := some (r, n)
/-- Operand b under immediate code b: no register in the immediate form. -/
def srcOpnd (n : Nat) : Src → Opnd
  | .reg r => some (r, n)
  | .imm _ => none
/-- Bit 56 as a flag nibble. -/
def flag56 (f : Bool) : BitVec 4 := 0#3 ++ BitVec.ofBool f

/-- d, a and an immediate-code-b operand of one type. -/
def encDAB (op md : BitVec 8) (nd na nb : Nat) (d a : Reg) (b : Src) : Enc :=
  ⟨op, md, rN nd d, rN na a, srcOpnd nb b, none, .b b⟩
/-- d, a, b, c of given sizes. -/
def encDABC (op md : BitVec 8) (nd na nb nc : Nat) (d a b c : Reg) : Enc :=
  ⟨op, md, rN nd d, rN na a, rN nb b, rN nc c, .none⟩
def encDA (op md : BitVec 8) (nd na : Nat) (d a : Reg) : Enc := ⟨op, md, rN nd d, rN na a, none, none, .none⟩
def encDAb (op md : BitVec 8) (nd na nb : Nat) (d a b : Reg) : Enc := ⟨op, md, rN nd d, rN na a, rN nb b, none, .none⟩
def encAB (op md : BitVec 8) (na nb : Nat) (a b : Reg) : Enc := ⟨op, md, none, rN na a, rN nb b, none, .none⟩
def encA (op md : BitVec 8) (na : Nat) (a : Reg) : Enc := ⟨op, md, none, rN na a, none, none, .none⟩
def encD (op md : BitVec 8) (nd : Nat) (d : Reg) : Enc := ⟨op, md, rN nd d, none, none, none, .none⟩
def enc0 (op md : BitVec 8) : Enc := ⟨op, md, none, none, none, none, .none⟩

/-- The encoding of a crew instruction (R55, R56, R63, R64); none for an event, which has no encoding. -/
def enc (i : Instr) : Option (Ctl × Enc) :=
  match i with
  | .nop k => some (k, enc0 0x00 0)
  | .bra k off => some (k, { enc0 0x01 0 with imm := .t off })
  | .brx k a => some (k, encA 0x02 0 1 a)
  | .bdiv k a off => some (k, { encA 0x03 0 1 a with imm := .t off })
  | .join k => some (k, enc0 0x04 0)
  | .call k d off => some (k, { encD 0x05 0 1 d with imm := .t off })
  | .ret k a => some (k, encA 0x06 0 1 a)
  | .exit k => some (k, enc0 0x07 0)
  | .fjmp k a n => some (k, { encA 0x08 0 1 a with imm := .n n })
  | .cfetch k a b n => some (k, { encAB 0x09 (modF 0) 2 2 a b with imm := .n n })
  | .cinv k n => some (k, { enc0 0x0A 0 with imm := .n n })
  | .trap k n => some (k, { enc0 0x0B 0 with imm := .n n })
  | .rte k => some (k, enc0 0x0C 0)
  | .bkpt k n => some (k, { enc0 0x0D 0 with imm := .n n })
  | .yieldHint k => some (k, enc0 0x0E 0)
  | .cut k => some (k, enc0 0x0F 0)
  | .emrd k d => some (k, encD 0x10 0 1 d)
  | .emwr k a => some (k, encA 0x11 0 1 a)
  | .allot k d a => some (k, encDA 0x12 0 1 1 d a)
  | .sread k d sr => some (k, { encD 0x13 0 sr.regs d with imm := .n sr.code })
  | .swrite k a => some (k, { encA 0x14 0 1 a with imm := .n 0x00B })
  | .lget k d a b => some (k, encDAb 0x15 0 1 1 1 d a b)
  | .lset k d a b => some (k, encDAb 0x16 0 1 1 1 d a b)
  | .iadd k ty sat d a b => some (k, encDAB 0x20 (modTI ty sat) ty.regs ty.regs ty.regs d a b)
  | .isub k ty sat d a b => some (k, encDAB 0x21 (modTI ty sat) ty.regs ty.regs ty.regs d a b)
  | .iaddx k ty sat d a b c => some (k, encDABC 0x22 (modTI ty sat) ty.regs ty.regs ty.regs ty.regs d a b c)
  | .imul k ty d a b => some (k, encDAB 0x23 (modT0 ty) ty.regs ty.regs ty.regs d a b)
  | .imulh k ty d a b => some (k, encDAB 0x24 (modT0 ty) ty.regs ty.regs ty.regs d a b)
  | .imad k ty d a b c => some (k, encDABC 0x25 (modT0 ty) ty.regs ty.regs ty.regs ty.regs d a b c)
  | .iabs k ty sat d a => some (k, encDA 0x26 (modTI ty sat) ty.regs ty.regs d a)
  | .imin k ty d a b => some (k, encDAB 0x27 (modT0 ty) ty.regs ty.regs ty.regs d a b)
  | .imax k ty d a b => some (k, encDAB 0x28 (modT0 ty) ty.regs ty.regs ty.regs d a b)
  | .iclamp k ty d a b c => some (k, encDABC 0x29 (modT0 ty) ty.regs ty.regs ty.regs ty.regs d a b c)
  | .icmp k ty cond d a b => some (k, encDAB 0x2A (modC ty cond) 1 ty.regs ty.regs d a b)
  | .isel k ty d a b c => some (k, encDABC 0x2B (modT0 ty) ty.regs ty.regs ty.regs 1 d a b c)
  | .csub k ty d a b => some (k, encDAB 0x2C (modT0 ty) ty.regs ty.regs ty.regs d a b)
  | .lea k d a b n => some (k, { encDAb 0x2D 0 2 2 1 d a b with imm := .n n })
  | .mov k ty d a => some (k, encDA 0x2E (modT0 ty) ty.regs ty.regs d a)
  | .movi k d v => some (k, { encD 0x2F 0 1 d with imm := .k v })
  | .shl k ty d a b => some (k, encDAB 0x30 (modT0 ty) ty.regs ty.regs 1 d a b)
  | .shr k ty d a b => some (k, encDAB 0x31 (modT0 ty) ty.regs ty.regs 1 d a b)
  | .sar k ty d a b => some (k, encDAB 0x32 (modT0 ty) ty.regs ty.regs 1 d a b)
  | .shf k ty d a b c => some (k, encDABC 0x33 (modT0 ty) 1 1 1 1 d a b c)
  | .and k ty d a b => some (k, encDAB 0x34 (modT0 ty) ty.regs ty.regs ty.regs d a b)
  | .or k ty d a b => some (k, encDAB 0x35 (modT0 ty) ty.regs ty.regs ty.regs d a b)
  | .xor k ty d a b => some (k, encDAB 0x36 (modT0 ty) ty.regs ty.regs ty.regs d a b)
  | .andn k ty d a b => some (k, encDAB 0x37 (modT0 ty) ty.regs ty.regs ty.regs d a b)
  | .bfx k ty d a b => some (k, encDAB 0x38 (modT0 ty) ty.regs ty.regs 1 d a b)
  | .bfi k ty d a b c => some (k, encDABC 0x39 (modT0 ty) ty.regs ty.regs ty.regs 1 d a b c)
  | .popc k ty d a => some (k, encDA 0x3A (modT0 ty) 1 ty.regs d a)
  | .clz k ty d a => some (k, encDA 0x3B (modT0 ty) 1 ty.regs d a)
  | .brev k ty d a => some (k, encDA 0x3C (modT0 ty) ty.regs ty.regs d a)
  | .prmt k d a b c => some (k, encDABC 0x3D 0 1 1 1 1 d a b c)
  | .fadd k ty r d a b => some (k, encDAB 0x40 (modTF ty r) 1 1 1 d a b)
  | .fsub k ty r d a b => some (k, encDAB 0x41 (modTF ty r) 1 1 1 d a b)
  | .fmul k ty r d a b => some (k, encDAB 0x42 (modTF ty r) 1 1 1 d a b)
  | .fma k ty r d a b c => some (k, encDABC 0x43 (modTF ty r) 1 1 1 1 d a b c)
  | .fmin k ty d a b => some (k, encDAB 0x44 (modT0 ty) 1 1 1 d a b)
  | .fmax k ty d a b => some (k, encDAB 0x45 (modT0 ty) 1 1 1 d a b)
  | .fcmp k ty cond d a b => some (k, encDAB 0x46 (modC ty cond) 1 1 1 d a b)
  | .frnd k ty r d a => some (k, encDA 0x47 (modTF ty r) 1 1 d a)
  | .fclass k ty d a => some (k, encDA 0x48 (modT0 ty) 1 1 d a)
  | .fscale k ty r d a b => some (k, encDAB 0x49 (modTF ty r) 1 1 1 d a b)
  | .dadd k r d a b => some (k, encDAb 0x4A (modTF .f64 r) 2 2 2 d a b)
  | .dmul k r d a b => some (k, encDAb 0x4B (modTF .f64 r) 2 2 2 d a b)
  | .dfma k r d a b c => some (k, encDABC 0x4C (modTF .f64 r) 2 2 2 2 d a b c)
  | .dcmp k cond d a b => some (k, encDAb 0x4D (modC .f64 cond) 1 2 2 d a b)
  | .dotf4 k f s d a b c => some (k, encDABC 0x50 (modD f s) 1 1 1 1 d a b c)
  | .dotf6 k f s d a b c => some (k, encDABC 0x51 (modD f s) 1 1 1 1 d a b c)
  | .dotf8 k f s d a b c => some (k, encDABC 0x52 (modD f s) 1 1 1 1 d a b c)
  | .doth k f d a b c => some (k, encDABC 0x53 (modD f 0) 1 1 1 1 d a b c)
  | .doti8 k f d a b c => some (k, encDABC 0x54 (modD f 0) 1 1 1 1 d a b c)
  | .doti4 k f d a b c => some (k, encDABC 0x55 (modD f 0) 1 1 1 1 d a b c)
  | .cvt k dt st r sat d a => some (k, { encDA 0x60 (modTF dt r) dt.regs st.regs d a with imm := .x (extX st sat) })
  | .pack k dt st r sat d a b c =>
    some (k, { encDABC 0x61 (modTF dt r) 1 1 1 1 d a b c with imm := .x (extX st sat) })
  | .unpack k dt st r d a b => some (k, { encDAb 0x62 (modTF dt r) dt.regs 1 1 d a b with imm := .x (extX st false) })
  | .mxscale k st d a b => some (k, { encDAb 0x63 (modT0 .e8m0) 1 1 1 d a b with imm := .x (extX st false) })
  | .rand k d a b => some (k, encDAb 0x64 0 4 2 4 d a b)
  | .fsint k d a => some (k, encDA 0x68 (modT0 .f32) 1 1 d a)
  | .fcost k d a => some (k, encDA 0x69 (modT0 .f32) 1 1 d a)
  | .fexp2 k d a => some (k, encDA 0x6A (modT0 .f32) 1 1 d a)
  | .flog2 k d a => some (k, encDA 0x6B (modT0 .f32) 1 1 d a)
  | .frcp k d a => some (k, encDA 0x6C (modT0 .f32) 1 1 d a)
  | .frsq k d a => some (k, encDA 0x6D (modT0 .f32) 1 1 d a)
  | .fsqrt k d a => some (k, encDA 0x6E (modT0 .f32) 1 1 d a)
  | .ftanh k d a => some (k, encDA 0x6F (modT0 .f32) 1 1 d a)
  | .rmax k ty d a => some (k, encDA 0x70 (modT0 ty) 1 1 d a)
  | .rsum k ty r d a => some (k, encDA 0x71 (modTF ty r) 1 1 d a)
  | .rstat k d a => some (k, encDA 0x72 (modT0 .f32) 2 1 d a)
  | .smxup k d a => some (k, encDA 0x73 (modT0 .f32) 1 1 d a)
  | .shfl k op ty d a b c => some (k, encDABC 0x78 (modO op.code ty) ty.regs ty.regs 1 1 d a b c)
  | .ballot k d a b => some (k, encDAb 0x79 0 1 1 1 d a b)
  | .vote k op d a b => some (k, encDAb 0x7A (modO op.code .n32) 1 1 1 d a b)
  | .lred k op ty d a b => some (k, encDAb 0x7B (modO op.code ty) ty.regs ty.regs 1 d a b)
  | .lscan k op ty d a b => some (k, encDAb 0x7C (modO op.code ty) ty.regs ty.regs 1 d a b)
  | .laneMatch k op ty d a b => some (k, encDAb 0x7D (modO op.code ty) 1 ty.regs 1 d a b)
  | .bcast k ty d a b c => some (k, encDABC 0x7E (modT0 ty) ty.regs ty.regs 1 1 d a b c)
  | .elect k d a => some (k, encDA 0x7F 0 1 1 d a)
  | .ld k w sx h d a off => some (k, { encDA 0x80 (modM w sx h) w.regs 2 d a with imm := .o off })
  | .st k w h a b off => some (k, { encAB 0x81 (modM w false h) 2 w.regs a b with imm := .o off })
  | .atom k op ty d a b c off =>
    some (k, ⟨0x82, modO op.code ty, rN ty.regs d, rN 2 a, rN ty.regs b,
      if op = .cas then rN ty.regs c else none, .o off⟩)
  | .red k op ty a b off => some (k, { encAB 0x83 (modO op.code ty) 2 ty.regs a b with imm := .o off })
  | .mwait k cond ty a b off => some (k, { encAB 0x84 (modC ty cond) 2 ty.regs a b with imm := .o off })
  | .pref k h a off => some (k, { encA 0x85 (modM .b8 false h) 2 a with imm := .o off })
  | .mfence k eng peer => some (k, enc0 0x86 (modF 0 (0#2 ++ BitVec.ofBool peer ++ BitVec.ofBool eng)))
  | .mma k f reuse s d a b c =>
    some (k, ⟨0x90, modQ f reuse s, rN 2 d, rN 64 a, rN 2 b,
      if f = .f16 ∨ f = .bf16 then none else rN 8 c, .none⟩)
  | .mbatch k d => some (k, encD 0x91 (modF 0) 1 d)
  | .sumdeclDecl k a b => some (k, encAB 0x92 (modF 0) 2 1 a b)
  | .sumdeclFree k a => some (k, encA 0x92 (modF 1) 2 a)
  | .sumdeclTl k a => some (k, encA 0x92 (modF 2) 2 a)
  | .sumrd k op d a off =>
    some (k, { encDA 0x93 (modF op.code) (if op = .f64 then 2 else 1) 2 d a with imm := .o off })
  | .sumrdClr k op d a off =>
    some (k, { encDA 0x93 (modF op.code 1) (if op = .f64 then 2 else 1) 2 d a with imm := .o off })
  | .sumred k op a b off =>
    some (k, { encAB 0x94 (modF op.code) 2 (if op = .f64 then 2 else 1) a b with imm := .o off })
  | .sumz k a b => some (k, encAB 0x95 (modF 0) 2 1 a b)
  | .sumdrain k clr a b => some (k, encAB 0x96 (modF 0 (flag56 clr)) 2 2 a b)
  | .sumq k d a => some (k, encDA 0x97 (modF 0) 1 2 d a)
  | .barinitPh k bent a b c => some (k, ⟨0xA0, modF 0 (flag56 bent), none, rN 2 a, r1 b, r1 c, .none⟩)
  | .barinitTl k a b c => some (k, ⟨0xA0, modF 1, none, rN 2 a, r1 b, r1 c, .none⟩)
  | .barinitEng k a b c => some (k, ⟨0xA0, modF 2, none, rN 2 a, r1 b, r1 c, .none⟩)
  | .arrive k bent a b => some (k, encAB 0xA1 (modF 0 (flag56 bent)) 2 1 a b)
  | .expect k a b => some (k, encAB 0xA2 (modF 0) 2 1 a b)
  | .wait k a b => some (k, encAB 0xA3 (modF 0) 2 2 a b)
  | .tladvMax k a b => some (k, encAB 0xA4 (modF 0) 2 2 a b)
  | .tladvAdd k a b => some (k, encAB 0xA4 (modF 1) 2 2 a b)
  | .copy k a => some (k, encA 0xA5 (modF 0) 8 a)
  | .gather k a => some (k, encA 0xA6 (modF 0) 8 a)
  | .scatter k a => some (k, encA 0xA7 (modF 0) 8 a)
  | .encode k a => some (k, encA 0xA8 (modF 0) 8 a)
  | .batch k d => some (k, encD 0xA9 (modF 0) 1 d)
  | .barq k w d a => some (k, encDA 0xAA (modF (0#2 ++ w)) 2 2 d a)
  | .tshape k d a b => some (k, encDAb 0xB0 (modF 0) 1 2 1 d a b)
  | .tfork k d a b c => some (k, encDABC 0xB1 (modF 0) 1 1 1 2 d a b c)
  | .tprune k d a b => some (k, encDAb 0xB2 (modF 0) 1 1 1 d a b)
  | .tcommit k d a b => some (k, encDAb 0xB3 (modF 0) 1 1 1 d a b)
  | .tmask k d a b => some (k, encDAb 0xB4 (modF 0) 1 1 1 d a b)
  | .tmaskVfy k d a b => some (k, encDAb 0xB4 (modF 1) 1 1 1 d a b)
  | .tinfoLo k d a b => some (k, encDAb 0xB5 (modF 0) 2 1 1 d a b)
  | .tinfoHi k d a b => some (k, encDAb 0xB5 (modF 1) 2 1 1 d a b)
  | .tinfoTree k d a b => some (k, encDAb 0xB5 (modF 2) 2 1 1 d a b)
  | .tacc k d a b c => some (k, encDABC 0xB6 (modF 0) 1 1 1 1 d a b c)
  | .tappend k d a b => some (k, encDAb 0xB7 (modF 0) 1 1 1 d a b)
  | .tnew k d a => some (k, encDA 0xB8 (modF 0) 1 1 d a)
  | .tfree k d a => some (k, encDA 0xB9 (modF 0) 1 1 d a)
  | .pgpin k d a b => some (k, encDAb 0xC0 (modF 0) 1 2 1 d a b)
  | .pgunpin k d a b => some (k, encDAb 0xC1 (modF 0) 1 2 1 d a b)
  | .pgcowMark k d a b => some (k, encDAb 0xC2 (modF 0) 1 2 2 d a b)
  | .pgcowClear k d a b => some (k, encDAb 0xC2 (modF 1) 1 2 2 d a b)
  | .pgqNext k d a => some (k, encDA 0xC3 (modF 0) 1 2 d a)
  | .pgqDone k d a => some (k, encDA 0xC3 (modF 1) 1 2 d a)
  | .pgqFail k d a => some (k, encDA 0xC3 (modF 2) 1 2 d a)
  | .pgqInval k d a => some (k, encDA 0xC3 (modF 3) 1 2 d a)
  | .smap k d a b => some (k, encDAb 0xC4 (modF 0) 1 2 1 d a b)
  | .sflushWb k a b => some (k, encAB 0xC5 (modF 0) 2 1 a b)
  | .sflushInv k a b => some (k, encAB 0xC5 (modF 1) 2 1 a b)
  | .xput k w a b => some (k, encAB 0xD0 (modM w false .none) 2 w.regs a b)
  | .xget k w d a => some (k, encDA 0xD1 (modM w false .none) w.regs 2 d a)
  | .xred k op ty a b s => some (k, { encAB 0xD2 (modO op.code ty) 2 ty.regs a b with imm := .s s })
  | .xsigArr k a b => some (k, encAB 0xD3 (modF 0) 2 1 a b)
  | .xsigMax k a b => some (k, encAB 0xD3 (modF 1) 2 1 a b)
  | .xfence k => some (k, enc0 0xD4 (modF 0))
  | .xprobe k d a => some (k, encDA 0xD5 (modF 0) 1 1 d a)
  | .launch k d a => some (k, encDA 0xE0 (modF 0) 1 2 d a)
  | .qctlHold k d a => some (k, encDA 0xE1 (modF 0) 1 1 d a)
  | .qctlRelease k d a => some (k, encDA 0xE1 (modF 1) 1 1 d a)
  | .qctlFlush k d a => some (k, encDA 0xE1 (modF 2) 1 1 d a)
  | .qctlClass k d a b => some (k, encDAb 0xE1 (modF 3) 1 1 1 d a b)
  | .qctlQuery k d a => some (k, encDA 0xE1 (modF 4) 1 1 d a)
  | .kstopStop k d a => some (k, encDA 0xE2 (modF 0) 1 1 d a)
  | .kstopKill k d a => some (k, encDA 0xE2 (modF 1) 1 1 d a)
  | .kstopResume k d a => some (k, encDA 0xE2 (modF 2) 1 1 d a)
  | .kq k d a => some (k, encDA 0xE3 (modF 0) 2 1 d a)
  | .leave k d a => some (k, encDA 0xE4 (modF 0) 1 1 d a)
  | .notify k a b => some (k, encAB 0xE5 (modF 0) 2 1 a b)
  | .ckptCut k d a => some (k, encDA 0xE6 (modF 0) 1 2 d a)
  | .ckptBack k d a => some (k, encDA 0xE6 (modF 1) 1 2 d a)
  | .bpset k a b n => some (k, { encAB 0xF0 (modF 0) 2 1 a b with imm := .n n })
  | .bpclr k n => some (k, { enc0 0xF1 (modF 0) with imm := .n n })
  | .stamp k d a => some (k, encDA 0xF2 (modF 0) 1 2 d a)
  | .trace k a b => some (k, encAB 0xF3 (modF 0) 1 1 a b)
  | .moduleBoot | .systemRecordWrite | .ctxCreate | .ctxActivate | .ctxSuspend | .suspensionComplete
  | .ctxResume | .ctxDestroy | .ctxClear | .unknownCommand | .contextFault | .queueOpen | .queueHold
  | .queueRelease | .queueFlush | .queueClose | .queueReconf | .rsvWrite | .plofoAck | .plofoWrite
  | .plofoRead | .plofoLaunch | .plofoSignalArrive | .plofoSignalRaise | .plofoQuery | .frameDrop
  | .replayResendTimeout | .telemetry | .kernelDependenceMet | .candidateAged | .coxChoose | .admissionGrant
  | .governorRequest | .coxPreempt | .kernelPlacing | .launchSegmentFetched | .crewPlace | .crewResident
  | .pendingToActive | .longStallSwap | .pendingAgeSwap | .swapComplete | .issuePick | .urgencyUpdate
  | .resultWriteback | .fuGroupServe | .fuResultWrite | .preciseTrapEntry | .impreciseFault
  | .kernelStopMessage | .crewSave | .stopCutComplete | .kernelRetire | .crewExit | .strokeCommit
  | .localCommit | .signatureSquash | .orderLogCheckpoint | .replayDigestCheck | .heldStrokeStart
  | .shadowSpaceGrant | .shadowDeadlockSquash | .mwaitWake | .waitTableRecheck | .tlbWalk
  | .faultQueueJoin | .kvCopyOnWrite | .checkpointCowCopy | .kvCountFree | .mmaAccept | .mmaPipeFree
  | .reductionApply | .matrixBatchRaise | .linePoisoned | .leaveWindow | .leaveRaiseAnswer
  | .leaveGrantArrive | .allotGrant | .allotDeadlockFail | .engineUnitLand | .engineCommandComplete
  | .engineBatchRaise | .cfetchComplete | .encodeStart | .encodeDone | .crewCancel | .treeNodesFree
  | .templatePublish | .peerAccessPerform | .xredCellApply | .peerAck | .portEnSet | .portEnClear
  | .portTrained | .portTrainingTimeout | .heartbeatArrive | .heartbeatSend | .heartbeatPeriodMissed
  | .portRetryLimit | .portSignalSeen | .plimitWrite | .thermalTripSet | .thermalTripClear
  | .hbmPatrolScrub | .sramScrub | .stampRecordWrite | .pcSample | .moduleReset | .corruptedFlit =>
    none

/-- Float types of the vector unit (R189). -/
def Ty.vf (t : Ty) : Bool := t == .f32 || t == .f16x2 || t == .bf16x2
def Ty.int4 (t : Ty) : Bool := t == .i32 || t == .n32 || t == .i64 || t == .n64
def Ty.uns (t : Ty) : Bool := t == .n32 || t == .n64
def Ty.sgn (t : Ty) : Bool := t == .i32 || t == .i64
/-- The integer types (R28). -/
def Ty.isInt (t : Ty) : Bool :=
  t == .i32 || t == .n32 || t == .i64 || t == .n64 || t == .i16 || t == .n16 || t == .i8 || t == .n8 || t == .i4 || t == .n4
/-- Types of CVT (R196). -/
def Ty.cvt (t : Ty) : Bool :=
  t == .i8 || t == .n8 || t == .i16 || t == .n16 || t.int4 || t == .f16 || t == .bf16 || t == .f32 || t == .f64 || t == .e8m0
/-- Packed formats of PACK and UNPACK (R197). -/
def Ty.packFloat (t : Ty) : Bool :=
  t == .e2m1 || t == .e2m3 || t == .e3m2 || t == .e4m3 || t == .e5m2 || t == .f16x2 || t == .bf16x2
def Ty.packInt (t : Ty) : Bool := t == .i16 || t == .n16 || t == .i8 || t == .n8 || t == .i4 || t == .n4
/-- Element formats of a scaled block (R199). -/
def Ty.mx (t : Ty) : Bool := t == .e2m1 || t == .e2m3 || t == .e3m2 || t == .e4m3 || t == .e5m2
/-- Rounding codes of every instruction but PACK (R38). -/
def Rnd.plain (r : Rnd) : Bool := r != .rs
/-- Conditions of the integer types (R63). -/
def Cond.int (c : Cond) : Bool := c != .ord && c != .uno
/-- Operations of RED, LRED, LSCAN and XRED (R63). -/
def RmwOp.red (op : RmwOp) : Bool := op != .xchg && op != .cas
/-- Op and type pairs of ATOM and RED (R238). -/
def rmwTy (op : RmwOp) (t : Ty) : Bool :=
  match op with
  | .add => t.int4 || t == .f32 || t == .f64
  | .min | .max => t.int4
  | .and | .or | .xor | .xchg | .cas => t.uns

/-- The modifier values an instruction's description accepts (R66, step 6), and the fields of this constructor that its form
does not use, which must be zero (step 7). -/
def accepts (i : Instr) : Bool :=
  match i with
  | .iadd _ t _ _ _ _ | .isub _ t _ _ _ _ | .iaddx _ t _ _ _ _ _ => t.int4
  | .imul _ t _ _ _ | .imulh _ t _ _ _ | .imad _ t _ _ _ _ | .imin _ t _ _ _ | .imax _ t _ _ _ | .iclamp _ t _ _ _ _ => t.int4
  | .iabs _ t _ _ _ => t.sgn
  | .icmp _ t c _ _ _ => t.int4 && c.int
  | .isel _ t _ _ _ _ | .csub _ t _ _ _ | .mov _ t _ _ | .shl _ t _ _ _ | .shr _ t _ _ _ => t.uns
  | .sar _ t _ _ _ => t.sgn
  | .shf _ t _ _ _ _ => t == .n32
  | .lea _ _ _ _ n => n.extractLsb' 5 9 == 0#9
  | .and _ t _ _ _ | .or _ t _ _ _ | .xor _ t _ _ _ | .andn _ t _ _ _ => t.uns
  | .bfx _ t _ _ _ => t.int4
  | .bfi _ t _ _ _ _ | .popc _ t _ _ | .clz _ t _ _ | .brev _ t _ _ => t.uns
  | .fadd _ t r _ _ _ | .fsub _ t r _ _ _ | .fmul _ t r _ _ _ | .fma _ t r _ _ _ _ | .frnd _ t r _ _ | .fscale _ t r _ _ _ =>
    t.vf && r.plain
  | .fmin _ t _ _ _ | .fmax _ t _ _ _ | .fclass _ t _ _ => t.vf
  | .fcmp _ t _ _ _ _ => t.vf
  | .dadd _ r _ _ _ | .dmul _ r _ _ _ | .dfma _ r _ _ _ _ => r.plain
  | .dotf4 _ f _ _ _ _ _ => f == .e2m1
  | .dotf6 _ f _ _ _ _ _ => f == .e2m3 || f == .e3m2
  | .dotf8 _ f _ _ _ _ _ => f == .e4m3 || f == .e5m2
  | .doth _ f _ _ _ _ => f == .f16 || f == .bf16
  | .doti8 _ f _ _ _ _ => f == .i8 || f == .n8
  | .doti4 _ f _ _ _ _ => f == .i4 || f == .n4
  | .cvt _ dt st r sat _ _ =>
    dt.cvt && st.cvt && !(dt == .e8m0 && st.isInt) && !(st == .e8m0 && dt.isInt) && r.plain &&
    (if dt == .e8m0 then (r == .rz || r == .ru) && !sat else !(dt.isInt && st.isInt) || r == .rn)
  | .pack _ dt st r _ _ _ _ _ =>
    (dt.packFloat && st == .f32) || (dt.packInt && (st == .i32 || st == .n32) && r == .rn)
  | .unpack _ dt st r _ _ _ =>
    r.plain && ((st.packFloat && (dt == .f32 || dt == .f16 || dt == .bf16 || dt == .f64)) ||
      (st.packInt && (dt == .i32 || dt == .n32 || dt == .f32 || dt == .f64)))
  | .mxscale _ st _ _ _ => st.mx
  | .rmax _ t _ _ => t == .f32 || t == .i32 || t == .n32
  | .rsum _ t r _ _ => (t == .f32 && r.plain) || ((t == .i32 || t == .n32) && r == .rn)
  | .shfl _ _ t _ _ _ _ => t.uns
  | .lred _ op t _ _ _ | .lscan _ op t _ _ _ => op.red && t.int4
  | .laneMatch _ _ t _ _ _ | .bcast _ t _ _ _ _ => t.uns
  | .ld _ w sx _ _ _ _ => !sx || w == .b8 || w == .b16
  | .atom _ op t _ _ _ c _ => rmwTy op t && (op == .cas || c == 0#8)
  | .red _ op t _ _ _ => op.red && rmwTy op t
  | .mwait _ c t _ _ _ => t.int4 && c.int
  | .mfence _ eng peer => eng || peer
  | .cfetch _ _ _ n => n.extractLsb' 9 5 == 0#5
  | .cinv _ n | .fjmp _ _ n => n.extractLsb' 4 10 == 0#10
  | .mma _ f _ s _ _ _ c =>
    (f == .e2m1 && s.toNat < 2) || f == .e2m3 || f == .e3m2 || f == .e4m3 || f == .e5m2 || f == .i8 ||
      ((f == .f16 || f == .bf16) && s == 0#2 && c == 0#8)
  | .xred _ op t _ _ s =>
    op.red && ((t.int4 && s == 0#14) || ((t == .f16 || t == .bf16 || t == .f32 || t == .f64) && op == .add))
  | _ => true

/-- The least length of an instruction (R64); ATOM.cas needs 96 bits, for c. -/
def minLen (i : Instr) (e : Enc) : Nat :=
  match i with
  | .atom _ .cas _ _ _ _ _ _ => 3
  | _ => match opRow e.op with
    | some (l, _) => l.granules
    | none => 5

/-- Whether an immediate fits the chosen length (R60). -/
def immFits (l : Len) : ImmF → Bool
  | .none => true
  | .b (.reg _) => l != .l128
  | .b (.imm _) => l == .l128
  | .o off => match l with
    | .l64 => off == 0#32
    | .l96 => off == (off.truncate 14).signExtend 32
    | .l128 => true
  | .t _ => l != .l64
  | .n v => l != .l64 || v == 0#14
  | .s _ => l != .l64
  | .k _ => l == .l128
  | .x _ => l != .l64

/-- Whether a predicate may stand at this length and P column (R56, R59). -/
def predFits (l : Len) (p : PCol) : Pred → Bool
  | .always => true
  | .nonzero _ => l != .l64 && p != .none
  | .zero _ => l != .l64 && p != .none

/-- Whether an operand group is aligned to its size and ends at v255 or below (R58): 64 registers start at a multiple of 8,
at most 192. -/
def groupOk : Opnd → Bool
  | none => true
  | some (r, n) => if n = 64 then r.toNat % 8 = 0 && r.toNat ≤ 192 else r.toNat % n = 0 && r.toNat + n ≤ 256

end Sys2Proof
end

