-- ==== Sys2Proof/Machine/Exact.lean ====
section
/-! DEFINITION. Number formats, exact values and the one rounding of the machine (02_numbers.md, R28 to R49). A value is a sign,
a fraction and a power of two, so that every sum, product and quotient is exact and rounding happens once, where a rule says. -/

namespace Sys2Proof.Machine

/-- A floating-point format (R29): exponent and mantissa widths, bias, infinity, the magnitude of its largest finite value,
and its canonical NaN (R32), if it has one. -/
structure Fmt where
  e : Nat
  m : Nat
  bias : Nat
  inf : Bool
  maxCode : Nat
  nan : Option Nat
  deriving DecidableEq, Repr

def Fmt.width (f : Fmt) : Nat := 1 + f.e + f.m

def e2m1 : Fmt := ⟨2, 1, 1, false, 0x7, none⟩
def e2m3 : Fmt := ⟨2, 3, 1, false, 0x1F, none⟩
def e3m2 : Fmt := ⟨3, 2, 3, false, 0x1F, none⟩
def e4m3 : Fmt := ⟨4, 3, 7, false, 0x7E, some 0x7F⟩
def e5m2 : Fmt := ⟨5, 2, 15, true, 0x7B, some 0x7E⟩
def f16 : Fmt := ⟨5, 10, 15, true, 0x7BFF, some 0x7E00⟩
def bf16 : Fmt := ⟨8, 7, 127, true, 0x7F7F, some 0x7FC0⟩
def f32 : Fmt := ⟨8, 23, 127, true, 0x7F7F_FFFF, some 0x7FC0_0000⟩
def f64 : Fmt := ⟨11, 52, 1023, true, 0x7FEF_FFFF_FFFF_FFFF, some 0x7FF8_0000_0000_0000⟩

/-- The float format of a type, or of a packed type's element (R62). -/
def fmtOf : Ty → Option Fmt
  | .e2m1 => some e2m1 | .e2m3 => some e2m3 | .e3m2 => some e3m2 | .e4m3 => some e4m3 | .e5m2 => some e5m2
  | .f16 => some f16 | .f16x2 => some f16 | .bf16 => some bf16 | .bf16x2 => some bf16 | .f32 => some f32 | .f64 => some f64
  | .i32 => none | .n32 => none | .i64 => none | .n64 => none | .i16 => none | .n16 => none | .i8 => none | .n8 => none
  | .i4 => none | .n4 => none | .e8m0 => none

/-- The canonical NaN, +0 where the format has none (R32, R42). -/
def Fmt.nanBits (f : Fmt) : Nat := f.nan.getD 0

/-- An exact value: (−1)^neg × n / d × 2^e with d positive, an infinity, or NaN. Zero keeps its sign. -/
inductive Num where
  | nan
  | inf (neg : Bool)
  | fin (neg : Bool) (n d : Nat) (e : Int)
  deriving DecidableEq, Repr

/-- An integer as an exact value. -/
def Num.ofInt (i : Int) : Num := .fin (decide (i < 0)) i.natAbs 1 0

def Num.zero : Num := .fin false 0 1 0

/-- value(x, fmt) (R30, R68). -/
def Fmt.val (f : Fmt) (x : Nat) : Num :=
  let x := x % 2 ^ f.width
  let neg := decide (2 ^ (f.e + f.m) ≤ x)
  let code := x % 2 ^ (f.e + f.m)
  let E := code / 2 ^ f.m
  let M := code % 2 ^ f.m
  if f.inf && E = 2 ^ f.e - 1 then (if M = 0 then .inf neg else .nan)
  else if f.maxCode < code then .nan
  else if E = 0 then .fin neg M 1 (1 - (f.bias : Int) - f.m)
  else .fin neg (2 ^ f.m + M) 1 ((E : Int) - f.bias - f.m)

/-- value(e, e8m0) (R34). -/
def e8m0Val (x : Nat) : Num :=
  let x := x % 256
  if x = 255 then .nan else .fin false 1 1 ((x : Int) - 127)

/-- n × 2^k as a fraction: numerator and denominator factors. -/
def pow2n (k : Int) : Nat := if 0 ≤ k then 2 ^ k.toNat else 1
def pow2d (k : Int) : Nat := if 0 ≤ k then 1 else 2 ^ (-k).toNat

/-- floor(log2 (n / d × 2^e)) of a positive value. -/
def flog2 (n d : Nat) (e : Int) : Int :=
  let L : Int := (n.log2 : Int) - d.log2
  (if d * pow2n L ≤ n * pow2d L then L else L - 1) + e

/-- Whether rounding a quotient q with remainder r over D goes away from zero (R38, R41). -/
def roundsUp (mode : Rnd) (rand : Nat) (neg : Bool) (q r D : Nat) : Bool :=
  match mode with
  | .rn => decide (D < 2 * r) || (decide (2 * r = D) && q % 2 = 1)
  | .rz => false
  | .rd => neg && decide (r ≠ 0)
  | .ru => !neg && decide (r ≠ 0)
  | .rs => decide (65536 ≤ r * 65536 / D + rand % 65536)

/-- |x| / 2^q rounded to an integer, for |x| = n / d × 2^e. -/
def roundQ (mode : Rnd) (rand : Nat) (neg : Bool) (n d : Nat) (e q : Int) : Nat :=
  let N := n * pow2n (e - q)
  let D := d * pow2d (e - q)
  let quo := N / D
  if roundsUp mode rand neg quo (N % D) D then quo + 1 else quo

/-- The magnitude that overflow gives (R40): infinity or the largest finite value. -/
def overflowCode (f : Fmt) (mode : Rnd) (sat neg : Bool) : Nat :=
  if !f.inf || sat then f.maxCode
  else match mode with
    | .rn => f.maxCode + 1
    | .rz => f.maxCode
    | .rd => if neg then f.maxCode + 1 else f.maxCode
    | .ru => if neg then f.maxCode else f.maxCode + 1
    | .rs => f.maxCode

/-- The magnitude code of a finite value rounded by step 1 of R39; it may exceed the largest finite code. -/
def roundCode (f : Fmt) (mode : Rnd) (rand : Nat) (neg : Bool) (n d : Nat) (e : Int) : Nat :=
  if n = 0 then 0 else
    let emin : Int := 1 - f.bias
    let fl := flog2 n d e
    let ex := if fl < emin then emin else fl
    let M := roundQ mode rand neg n d e (ex - f.m)
    -- M < 2^m only below the smallest normal; a carry to 2^(m+1) moves to the next exponent by itself
    if M < 2 ^ f.m then M else ((ex + f.bias).toNat - 1) * 2 ^ f.m + M

/-- round_to(x, fmt, mode) with the random value of .rs and .sat (R39 to R41, R68). -/
def Fmt.round (f : Fmt) (mode : Rnd) (x : Num) (sat : Bool := false) (rand : Nat := 0) : Nat :=
  let sgn (neg : Bool) (c : Nat) : Nat := (if neg then 2 ^ (f.e + f.m) else 0) + c
  match x with
  | .nan => f.nanBits
  | .inf neg => sgn neg (if f.inf && !sat then f.maxCode + 1 else f.maxCode)
  | .fin neg n d e =>
    let c := roundCode f mode rand neg n d e
    sgn neg (if f.maxCode < c then overflowCode f mode sat neg else c)

/-- Sum of two exact values; an exact zero sum of opposite signs is −0 only under .rd (R39). -/
def Num.add (mode : Rnd) (x y : Num) : Num :=
  match x, y with
  | .nan, _ => .nan
  | _, .nan => .nan
  | .inf a, .inf b => if a = b then .inf a else .nan
  | .inf a, .fin _ _ _ _ => .inf a
  | .fin _ _ _ _, .inf b => .inf b
  | .fin s n d e, .fin t m c g =>
    if n = 0 ∧ m = 0 then .fin (if s = t then s else mode == .rd) 0 1 0
    else if n = 0 then y
    else if m = 0 then x
    else
      let b := min e g
      let p : Int := (n * c * 2 ^ (e - b).toNat : Nat)
      let q : Int := (m * d * 2 ^ (g - b).toNat : Nat)
      let z := (if s then -p else p) + (if t then -q else q)
      if z = 0 then .fin (mode == .rd) 0 1 0 else .fin (decide (z < 0)) z.natAbs (d * c) b

def Num.neg : Num → Num
  | .nan => .nan
  | .inf s => .inf !s
  | .fin s n d e => .fin (!s) n d e

def Num.abs : Num → Num
  | .nan => .nan
  | .inf _ => .inf false
  | .fin _ n d e => .fin false n d e

/-- Product; 0 × ∞ is NaN (R45, R189). -/
def Num.mul (x y : Num) : Num :=
  match x, y with
  | .nan, _ => .nan
  | _, .nan => .nan
  | .inf a, .inf b => .inf (a != b)
  | .inf a, .fin s n _ _ => if n = 0 then .nan else .inf (a != s)
  | .fin s n _ _, .inf b => if n = 0 then .nan else .inf (s != b)
  | .fin s n d e, .fin t m c g => .fin (s != t) (n * m) (d * c) (e + g)

/-- Quotient by a positive integer. -/
def Num.divNat (x : Num) (k : Nat) : Num :=
  match x with
  | .fin s n d e => .fin s n (d * k) e
  | .nan => .nan
  | .inf s => .inf s

/-- Order of two finite or infinite values, −0 equal to +0; none when unordered (R191). -/
def Num.cmp (x y : Num) : Option Ordering :=
  match x, y with
  | .nan, _ => none
  | _, .nan => none
  | .inf a, .inf b => some (compare (if a then (0 : Nat) else 1) (if b then 0 else 1))
  | .inf a, .fin _ _ _ _ => some (if a then .lt else .gt)
  | .fin _ _ _ _, .inf b => some (if b then .gt else .lt)
  | .fin s n d e, .fin t m c g =>
    let b := min e g
    let p : Int := (n * c * 2 ^ (e - b).toNat : Nat)
    let q : Int := (m * d * 2 ^ (g - b).toNat : Nat)
    some (compare (if s then -p else p) (if t then -q else q))

def Num.isNan : Num → Bool
  | .nan => true | .inf _ => false | .fin _ _ _ _ => false
def Num.isInf : Num → Bool
  | .nan => false | .inf _ => true | .fin _ _ _ _ => false
def Num.isZero : Num → Bool
  | .nan => false | .inf _ => false | .fin _ n _ _ => n == 0
def Num.sign : Num → Bool
  | .nan => false | .inf s => s | .fin s _ _ _ => s

/-- The comparison of a condition code on ordered or unordered values (R191). -/
def condHolds (c : Cond) (o : Option Ordering) : Bool :=
  match c with
  | .eq => o == some .eq
  | .ne => o != some .eq
  | .lt => o == some .lt
  | .le => o == some .lt || o == some .eq
  | .gt => o == some .gt
  | .ge => o == some .gt || o == some .eq
  | .ord => o.isSome
  | .uno => o.isNone

/-- A finite value rounded to an integer (R42). -/
def Num.roundInt (mode : Rnd) : Num → Option Int
  | .fin s n d e => let q : Int := roundQ mode 0 s n d e 0; some (if s then -q else q)
  | .nan => none
  | .inf _ => none

/-! ### Integer formats (R28) -/

/-- Width of an integer type; 0 for the others. -/
def intW : Ty → Nat
  | .i32 => 32 | .n32 => 32 | .i64 => 64 | .n64 => 64 | .i16 => 16 | .n16 => 16 | .i8 => 8 | .n8 => 8 | .i4 => 4 | .n4 => 4
  | .f32 => 0 | .f64 => 0 | .f16 => 0 | .bf16 => 0 | .f16x2 => 0 | .bf16x2 => 0
  | .e2m1 => 0 | .e2m3 => 0 | .e3m2 => 0 | .e4m3 => 0 | .e5m2 => 0 | .e8m0 => 0

/-- Signed integer types (R28). -/
def intS (t : Ty) : Bool := t == .i32 || t == .i64 || t == .i16 || t == .i8 || t == .i4

/-- The value of the low w bits of x, signed or unsigned. -/
def intVal (s : Bool) (w x : Nat) : Int :=
  let x := x % 2 ^ w
  if s && decide (2 ^ (w - 1) ≤ x) then (x : Int) - 2 ^ w else x

def intMin (s : Bool) (w : Nat) : Int := if s then -(2 ^ (w - 1)) else 0
def intMax (s : Bool) (w : Nat) : Int := if s then 2 ^ (w - 1) - 1 else 2 ^ w - 1

/-- The result modulo 2^w (R185). -/
def wrapTo (w : Nat) (v : Int) : Nat := (v % (2 ^ w : Nat)).toNat

/-- The result clamped to the type's range, as its w bits (R185). -/
def clampTo (s : Bool) (w : Nat) (v : Int) : Nat := wrapTo w (max (intMin s w) (min (intMax s w) v))

/-! ### Conversions (R42, R43) -/

/-- The value of a pattern of a type (R30, R34, R28). -/
def tyVal (t : Ty) (x : Nat) : Num :=
  match fmtOf t with
  | some f => f.val x
  | none => if t = .e8m0 then e8m0Val x else .ofInt (intVal (intS t) (intW t) x)

/-- Conversion to E8M0 (R43). -/
def toE8m0 (mode : Rnd) (x : Num) : Nat :=
  match x with
  | .nan => 0xFF
  | .inf _ => 0xFE
  | .fin _ n d e =>
    if n = 0 then 0 else
      let fl := flog2 n d e
      let exact := n * pow2n (e - fl) = d * pow2d (e - fl)
      let c := (if mode = .ru ∧ ¬exact then fl + 1 else fl) + 127
      if c < 0 then 0 else if 0xFE < c then 0xFE else c.toNat

/-- Float or E8M0 to integer: rounded by the mode, saturated; NaN gives 0 (R42). -/
def numToInt (t : Ty) (mode : Rnd) (x : Num) : Nat :=
  match x with
  | .nan => 0
  | .inf s => wrapTo (intW t) (if s then intMin (intS t) (intW t) else intMax (intS t) (intW t))
  | .fin _ _ _ _ => clampTo (intS t) (intW t) ((x.roundInt mode).getD 0)

/-- A pattern converted to its own format: the value is unchanged, and a NaN is the canonical one (R32, R196). -/
def Fmt.same (f : Fmt) (x : Nat) : Nat := match f.val x with | .nan => f.nanBits | _ => x % 2 ^ f.width

/-- Convert the pattern x of type st to type dt (R42). The result has the width of dt's element. -/
def convert (dt st : Ty) (mode : Rnd) (sat : Bool) (rand x : Nat) : Nat :=
  match fmtOf dt with
  | some f => if dt = st then f.same x else f.round mode (tyVal st x) sat rand
  | none =>
    if dt = .e8m0 then (if st = .e8m0 then x % 256 else toE8m0 mode (tyVal st x))
    else match fmtOf st with
      | some f => numToInt dt mode (f.val x)
      | none =>
        let v := intVal (intS st) (intW st) x
        if sat then clampTo (intS dt) (intW dt) v else wrapTo (intW dt) v

/-- Width of one element of a type in bits (R28, R29, R34). -/
def elemW (t : Ty) : Nat :=
  match fmtOf t with
  | some f => f.width
  | none => if t = .e8m0 then 8 else intW t

/-- Elements of a packed type in one 32-bit word (R37). -/
def elems (t : Ty) : Nat :=
  match elemW t with
  | 4 => 8 | 6 => 4 | 8 => 4 | 16 => 2 | _ => 1

/-- Element i of a packed word (R37). -/
def elemAt (w x i : Nat) : Nat := x / 2 ^ (w * i) % 2 ^ w

/-- An integer or float result narrower than 32 bits in the low bits of d, the upper bits the sign extension of a signed
integer and zero otherwise (R196). -/
def widen (t : Ty) (x : Nat) : Nat :=
  if intS t ∧ intW t < 32 then wrapTo 32 (intVal true (intW t) x) else x

/-! ### Sums -/

/-- The exact sum of a list of values, NaN and infinities as R194 gives; signs of zero by R39 under .rn. -/
def sumNum : List Num → Num
  | [] => .zero
  | [x] => x
  | x :: xs => x.add .rn (sumNum xs)

/-- trunc_to(x, 2^q) for a finite value, in units of 2^q, with its sign (R45). -/
def truncUnits (q : Int) : Num → Int
  | .fin s n d e => let t : Int := roundQ .rz 0 s n d e q; if s then -t else t
  | .nan => 0
  | .inf _ => 0

/-- Exponent of a finite non-zero value (R45). -/
def expOf? : Num → Option Int
  | .fin _ n d e => if n = 0 then none else some (flog2 n d e)
  | .nan => none
  | .inf _ => none

/-- group_sum (R45). -/
def groupSum (ps : List Num) : Num :=
  if ps.any Num.isNan then .nan
  else if ps.any (fun p => p.isInf && !p.sign) && ps.any (fun p => p.isInf && p.sign) then .nan
  else if ps.any (fun p => p.isInf && !p.sign) then .inf false
  else if ps.any (fun p => p.isInf && p.sign) then .inf true
  else match ps.filterMap expOf? with
    | [] => .zero
    | e :: es =>
      let q := es.foldl max e - 60
      let s := (ps.map (truncUnits q)).foldl (· + ·) 0
      .fin (decide (s < 0)) s.natAbs 1 q

/-- The update of a near-cache adder: binary64 y + u under .rn (R44). -/
def addF64 (y u : Nat) : Nat := f64.round .rn ((f64.val y).add .rn (f64.val u))

/-! ### 96-bit fixed point (R47 to R49) -/

/-- The contribution of a finite value under anchor a, and whether it saturates (R48). -/
def contribution (a : Int) (x : Num) : Int × Bool :=
  match x with
  | .fin s n d e =>
    if n ≠ 0 ∧ a + 1 ≤ flog2 n d e then ((if s then -(2 ^ 80 - 1) else 2 ^ 80 - 1), true)
    else (truncUnits (a - 79) x, false)
  | .nan => (0, false)
  | .inf _ => (0, false)

/-- The 96-bit addition with its clamp and saturation flag (R48). -/
def add96 (acc n : Int) : Int × Bool :=
  let v := acc + n
  if 2 ^ 95 - 1 < v then (2 ^ 95 - 1, true) else if v < -(2 ^ 95 - 1) then (-(2 ^ 95 - 1), true) else (v, false)

/-- The root's value N × 2^(a − 79) (R49). -/
def rootNum (a N : Int) : Num := if N = 0 then .zero else .fin (decide (N < 0)) N.natAbs 1 (a - 79)

end Sys2Proof.Machine
end

