-- ==== Sys2Proof/Machine/Func.lean ====
section
/-! DEFINITION. The function unit's results and the softmax of a row (R203, R204, R209). An exact function value is enclosed
between two fractions at scale 2^-120; the results that the bound allows are the binary32 values in an interval, and
Config.fuPick, of which nothing is known, says which of them the unit gives (log 11). -/

namespace Sys2Proof.Machine

/-- An enclosure: lo / 2^120 ≤ y / 2^sh ≤ hi / 2^120. -/
structure Encl where
  lo : Int
  hi : Int
  sh : Int := 0
  deriving DecidableEq, Repr

/-- One at the scale of enclosures. -/
def one120 : Int := 2 ^ 120

/-- Slack of a series evaluated at the scale: more than every rounding error of its terms. -/
def slack : Int := 2 ^ 20

/-- floor(ln 2 × 2^120). -/
def ln2 : Int := 921350637599661305226344307672478454
/-- floor(2π × 2^120). -/
def twoPi : Int := 8351785813007552717653752915327115494

/-- Σ over j from k to k + fuel of the Taylor terms that start with t, each the last × x / j. -/
def expTerms (x : Int) : Nat → Nat → Int → Int
  | 0, _, _ => 0
  | fuel + 1, k, t => t + expTerms x fuel (k + 1) (t * x / one120 / ((k : Int) + 1))

/-- e^x for x at the scale, 0 ≤ x < 1. -/
def expEncl (x : Int) : Encl := let s := expTerms x 45 0 one120; ⟨s - slack, s + slack, 0⟩

/-- Terms of an alternating series in x²: each is the last × −x² / (j (j + 1)). -/
def altTerms (x2 : Int) : Nat → Nat → Int → Int
  | 0, _, _ => 0
  | fuel + 1, j, t => t + altTerms x2 fuel (j + 2) (-(t * x2 / one120) / ((j : Int) * (j + 1)))

/-- sin and cos of x at the scale, |x| ≤ π. -/
def sinEncl (x : Int) : Encl := let s := altTerms (x * x / one120) 40 2 x; ⟨s - slack, s + slack, 0⟩
def cosEncl (x : Int) : Encl := let s := altTerms (x * x / one120) 40 1 one120; ⟨s - slack, s + slack, 0⟩

/-- Σ of z^(2j+1) / (2j + 1). -/
def atanhTerms (z2 : Int) : Nat → Nat → Int → Int
  | 0, _, _ => 0
  | fuel + 1, j, t => t / (j : Int) + atanhTerms z2 fuel (j + 2) (t * z2 / one120)

/-- A dyadic value n × 2^e at the scale, toward −∞. -/
def atScale (n : Int) (e : Int) : Int := n * (pow2n (e + 120) : Int) / (pow2d (e + 120) : Int)

/-- 2^x for a finite value x with |x| < 200. -/
def exp2Encl (s : Bool) (n : Nat) (e : Int) : Encl :=
  let x := atScale (if s then -n else n) e
  let k := x / one120
  let f := x - k * one120
  let r := expEncl (f * ln2 / one120)
  ⟨r.lo - slack, r.hi + slack, k⟩

/-- log2 of a positive finite value. -/
def log2Encl (n : Nat) (e : Int) : Encl :=
  let k := flog2 n 1 e
  let m := atScale n (e - k)
  let z := (m - one120) * one120 / (m + one120)
  let l := 2 * atanhTerms (z * z / one120) 60 1 z * one120 / ln2
  ⟨l + k * one120 - slack, l + k * one120 + slack, 0⟩

/-- Integer square root by bisection on bits. -/
def isqrtGo (n : Nat) : Nat → Nat → Nat
  | 0, r => r
  | b + 1, r => let t := r + 2 ^ b; isqrtGo n b (if t * t ≤ n then t else r)

/-- Floor of the square root of n. -/
def isqrt (n : Nat) : Nat := isqrtGo n (n.log2 / 2 + 1) 0

/-- e^y for y at the scale, y ≤ 0; below −300 the enclosure is [0, 2^-300]. -/
def expNegEncl (y : Int) : Encl :=
  if y < -300 * one120 then ⟨0, 1, -180⟩ else
    let k := y * one120 / ln2 / one120
    let r := expEncl (y - k * ln2)
    ⟨r.lo - 1024 * slack, r.hi + 1024 * slack, k⟩

/-! ### The binary32 values in an interval -/

/-- The values of binary32 in ascending order, −0 just below +0. -/
def ordOf (code : Nat) : Int := if code < 2 ^ 31 then code else 2 ^ 31 - 1 - (code : Int)
def codeOf (o : Int) : Nat := if 0 ≤ o then o.toNat else 2 ^ 31 + (-o - 1).toNat

/-- A fraction lo × 2^e as an exact value. -/
def ratNum (v : Int) (d : Nat) (e : Int) : Num := .fin (decide (v < 0)) v.natAbs d e

/-- Positions of the smallest binary32 value at or above, and the largest at or below, an exact value. -/
def ordUp (x : Num) : Int := ordOf (f32.round .ru x)
def ordDown (x : Num) : Int := ordOf (f32.round .rd x)

/-- The binary32 value chosen among those from a to b, both finite. -/
def pickOrd (op : Nat) (x : Word) (a b : Int) : Word :=
  BitVec.ofNat 32 (codeOf (a + (Config.fuPick op x % ((b - a).toNat + 1) : Nat)))

/-- One ulp of binary32 at an exact positive value: the power of two. -/
def ulpExp (n d : Nat) (e : Int) : Int := let k := flog2 n d e; (if k < -126 then -126 else k) - 23

/-- One ulp of binary32 at a finite value: the power of two. -/
def ulpOf : Num → Int
  | .fin _ n d e => if n = 0 then -149 else ulpExp n d e
  | .inf _ => -149
  | .nan => -149

/-- Ends of an enclosure. -/
def Encl.low (y : Encl) : Num := ratNum y.lo 1 (y.sh - 120)
def Encl.high (y : Encl) : Num := ratNum y.hi 1 (y.sh - 120)

/-- One ulp of binary32 at a value enclosed by y, the smaller where the ends differ. -/
def Encl.ulp (y : Encl) : Int := min (ulpOf y.low) (ulpOf y.high)

/-- The first and the last position whose value is within b of every value that y encloses, clamped to [a0, b0] (positions). -/
def Encl.from_ (y : Encl) (b : Num) (a0 : Int) : Int := max a0 (ordUp (y.high.add .rn b.neg))
def Encl.upTo (y : Encl) (b : Num) (b0 : Int) : Int := min b0 (ordDown (y.low.add .rn b))

/-- The result within k ulp of a value enclosed by y, clamped to [a0, b0] (positions). -/
def withinUlp (op : Nat) (x : Word) (k : Int) (y : Encl) (a0 b0 : Int) : Word :=
  let b := Num.fin false k.toNat 1 y.ulp
  pickOrd op x (y.from_ b a0) (y.upTo b b0)

/-- The result within 2^-22 of a value enclosed by y, clamped (R203). -/
def withinAbs (op : Nat) (x : Word) (y : Encl) (a0 b0 : Int) : Word :=
  let b := Num.fin false 1 1 (-22)
  pickOrd op x (y.from_ b a0) (y.upTo b b0)

def maxOrd : Int := 0x7F7F_FFFF
def minOrd : Int := -0x7F7F_FFFF - 1
def oneOrd : Int := 0x3F80_0000
def negOneOrd : Int := -0x3F80_0000 - 1

def nan32 : Word := 0x7FC0_0000#32
def inf32 : Word := 0x7F80_0000#32
def ninf32 : Word := 0xFF80_0000#32
def one32 : Word := 0x3F80_0000#32
def negOne32 : Word := 0xBF80_0000#32
def negZero32 : Word := 0x8000_0000#32

/-- Four times the fraction of a dyadic value, when it is a whole number of quarters: x mod 1 in {0, 1/4, 1/2, 3/4}. -/
def quarters? (s : Bool) (n : Nat) (e : Int) : Option Nat :=
  let num := n * pow2n (e + 2)
  let den := pow2d (e + 2)
  if num % den = 0 then
    let q := num / den % 4
    some (if s then (4 - q) % 4 else q)
  else none

/-- The fraction of a dyadic value in [0, 1), at the scale. -/
def fracScale (s : Bool) (n : Nat) (e : Int) : Int :=
  let num := n * pow2n e
  let den := pow2d e
  let r := num % den
  let f : Int := (if s then (den - r) % den else r : Nat)
  f * one120 / den

/-- The angle 2πf of a fraction f in [0, 1), taken in (−π, π]. -/
def angle (f : Int) : Int := (if one120 / 2 < f then f - one120 else f) * twoPi / one120

def fsintOf (x : Word) : Word :=
  match f32.val x.toNat with
  | .nan => nan32
  | .inf _ => nan32
  | .fin s n _ e =>
    if n = 0 then x else match quarters? s n e with
      | some 1 => one32
      | some 3 => negOne32
      | some _ => 0#32
      | none => withinAbs 0 x (sinEncl (angle (fracScale s n e))) negOneOrd oneOrd

def fcostOf (x : Word) : Word :=
  match f32.val x.toNat with
  | .nan => nan32
  | .inf _ => nan32
  | .fin s n _ e =>
    match quarters? s n e with
    | some 0 => one32
    | some 2 => negOne32
    | some _ => 0#32
    | none => withinAbs 1 x (cosEncl (angle (fracScale s n e))) negOneOrd oneOrd

def fexp2Of (x : Word) : Word :=
  match f32.val x.toNat with
  | .nan => nan32
  | .inf s => if s then 0#32 else inf32
  | .fin s n d e =>
    let v := Num.fin s n d e
    if v.cmp (.ofInt 128) != some .lt then inf32
    else if v.cmp (.ofInt (-149)) == some .lt then 0#32
    else match quarters? s n e with
      | some 0 => BitVec.ofNat 32 (f32.round .rn (.fin false 1 1 ((v.roundInt .rz).getD 0)))
      | _ =>
        let y := exp2Encl s n e
        -- 2^x is above 1 for x > 0
        withinUlp 2 x 2 (if s then y else { y with lo := max y.lo ((2 ^ (120 - y.sh).toNat : Nat) : Int) }) 0 maxOrd

def flog2Of (x : Word) : Word :=
  match f32.val x.toNat with
  | .nan => nan32
  | .inf s => if s then nan32 else inf32
  | .fin s n _ e =>
    if n = 0 then ninf32 else if s then nan32
    else
      let k := flog2 n 1 e
      if n * pow2n (e - k) = pow2d (e - k) then BitVec.ofNat 32 (f32.round .rn (.ofInt k))
      else if -1 ≤ k ∧ k < 1 then withinAbs 3 x (log2Encl n e) minOrd maxOrd
      else withinUlp 3 x 2 (log2Encl n e) minOrd maxOrd

def frcpOf (x : Word) : Word :=
  match f32.val x.toNat with
  | .nan => nan32
  | .inf s => if s then negZero32 else 0#32
  | .fin s n _ e =>
    if n = 0 then (if s then ninf32 else inf32) else BitVec.ofNat 32 (f32.round .rn (.fin s 1 n (-e)))

/-- n × 2^e with an even exponent and n large enough that the root has 100 bits or more. -/
def rootScaled (n : Nat) (e : Int) : Nat × Int :=
  let e' := e - 220 - e % 2
  (n * 2 ^ (e - e').toNat, e' / 2)

def frsqOf (x : Word) : Word :=
  match f32.val x.toNat with
  | .nan => nan32
  | .inf s => if s then nan32 else 0#32
  | .fin s n _ e =>
    if n = 0 then (if s then ninf32 else inf32) else if s then nan32
    else
      let k := flog2 n 1 e
      if n * pow2n (e - k) = pow2d (e - k) ∧ k % 2 = 0 then BitVec.ofNat 32 (f32.round .rn (.fin false 1 1 (-(k / 2))))
      else
        -- the root lies in [r, r + 1) × 2^h, so its reciprocal in (2^240 / (r + 1), 2^240 / r] × 2^(-h - 240)
        let (m, h) := rootScaled n e
        let r := isqrt m
        withinUlp 5 x 1 ⟨(2 ^ 240 / (r + 1) : Nat), (2 ^ 240 / r + 1 : Nat), -h - 120⟩ 0 maxOrd

def fsqrtOf (x : Word) : Word :=
  match f32.val x.toNat with
  | .nan => nan32
  | .inf s => if s then nan32 else inf32
  | .fin s n _ e =>
    if n = 0 then x else if s then nan32
    else
      let (m, h) := rootScaled n e
      let r := isqrt m
      -- an odd low bit below the root's bits stands for an inexact root
      BitVec.ofNat 32 (f32.round .rn (.fin false (2 * r + (if r * r = m then 0 else 1)) 1 (h - 1)))

def ftanhOf (x : Word) : Word :=
  match f32.val x.toNat with
  | .nan => nan32
  | .inf s => if s then negOne32 else one32
  | .fin s n d e =>
    if n = 0 then x
    else if (Num.fin false n d e).cmp (.ofInt 9) != some .lt then (if s then negOne32 else one32)
    else
      let y : Word :=
        if flog2 n 1 e < -20 then
          -- x − x³/3 < tanh x < x, at the scale 2^(e - 120 + 120)
          let x3 : Int := ((n ^ 3 : Nat) : Int) * one120 / (3 * (pow2d (2 * e) : Int)) + 1
          withinUlp 7 x 2 ⟨n * one120 - x3, n * one120, e⟩ 0 oneOrd
        else
          let r := atScale (2 * n) e
          let k := r * one120 / ln2 / one120
          let E := expEncl (r - k * ln2)
          let lo := (E.lo - 1024 * slack) * 2 ^ k.toNat
          let hi := (E.hi + 1024 * slack) * 2 ^ k.toNat
          withinUlp 7 x 2
            ⟨(lo - one120) * one120 / (lo + one120), (hi - one120) * one120 / (hi + one120) + 1, 0⟩ 0 oneOrd
      if s then y ||| 0x8000_0000#32 else y

/-! ### Softmax of a row (R209) -/

/-- The values of a row's active lanes, with their lane numbers. -/
abbrev Row := List (Nat × Word)

/-- The share of one lane of a row with finite and −∞ values, not all finite values equal or some −∞. -/
def softmaxLane (em : LaneMask) (all : List Word) (M : Num) (row : Row) (lane : Nat) (v : Word) : Word :=
  if v = ninf32 then 0#32
  else
    let term (w : Word) : Encl :=
      if w = ninf32 then ⟨0, 0, 0⟩ else
        match (f32.val w.toNat).add .rn M.neg with
        | .fin s n _ e =>
          -- a difference too large for the scale is below −300 in any case
          if 12 < flog2 (max n 1) 1 e then ⟨0, 1, -180⟩ else expNegEncl (atScale (if s then -(n : Int) else n) e)
        | _ => ⟨0, 0, 0⟩
    -- terms brought to the scale 2^-600
    let up (y : Encl) : Int × Int :=
      let k := (480 + y.sh).toNat
      (max 0 y.lo * 2 ^ k, y.hi * 2 ^ k)
    let sums := row.foldl (fun (a : Int × Int) (p : Nat × Word) => let t := up (term p.2); (a.1 + t.1, a.2 + t.2)) (0, 0)
    let t := up (term v)
    let lo := t.1 * 2 ^ 480 / sums.2
    let hi := t.2 * 2 ^ 480 / (max 1 sums.1) + 1
    let y : Encl := ⟨lo, hi, -360⟩
    let b := Num.fin false 2 1 y.ulp
    let a := y.from_ b 0
    let z := y.upTo b oneOrd
    BitVec.ofNat 32 (codeOf (a + (Config.softmaxPick em all lane % ((z - a).toNat + 1) : Nat)))

/-- 1/k in binary32. -/
def oneOver (k : Nat) : Word := BitVec.ofNat 32 (f32.round .rn (.fin false 1 k 0))

/-- SMXUP of a row: each lane's result and the row-empty flag (R209). -/
def softmax (em : LaneMask) (row : Row) : List (Nat × Word) × Bool :=
  let vals := row.map (fun p => f32.val p.2.toNat)
  let all := row.map Prod.snd
  if vals.any Num.isNan then (row.map (fun p => (p.1, nan32)), false)
  else if all.all (fun v => v == ninf32) then (row.map (fun p => (p.1, 0#32)), true)
  else if all.any (fun v => v == inf32) then
    let k := (all.filter (fun v => v == inf32)).length
    (row.map (fun p => (p.1, if p.2 = inf32 then oneOver k else 0#32)), false)
  else
    let M := vals.foldl (fun a b => if a.cmp b == some .lt then b else a) (.inf true)
    let finite := vals.filter (fun v => !v.isInf)
    if finite.length = vals.length ∧ finite.all (fun v => v.cmp M == some .eq) then
      (row.map (fun p => (p.1, oneOver row.length)), false)
    else if finite.length = 1 then (row.map (fun p => (p.1, if p.2 = ninf32 then 0#32 else one32)), false)
    else (row.map (fun p => (p.1, softmaxLane em all M row p.1 p.2)), false)

end Sys2Proof.Machine
end

