-- ==== Sys2Proof/Machine/Alu.lean ====
section
/-! DEFINITION. What the arithmetic instructions compute in one lane, and over a row (08_arithmetic.md, R180, R185 to R210).
A lane's operand is a natural number: its 32 bits, or the 64 bits of a pair. -/

namespace Sys2Proof.Machine.Alu

/-- An operand's value under its type (R185). -/
def iv (t : Ty) (x : Nat) : Int := intVal (intS t) (intW t) x

/-- Wrap, or sat with .sat (R185). -/
def fit (t : Ty) (sat : Bool) (v : Int) : Nat := if sat then clampTo (intS t) (intW t) v else wrapTo (intW t) v

def iadd (t : Ty) (sat : Bool) (a b : Nat) : Nat := fit t sat (iv t a + iv t b)
def isub (t : Ty) (sat : Bool) (a b : Nat) : Nat := fit t sat (iv t a - iv t b)
def iaddx (t : Ty) (sat : Bool) (a b c : Nat) : Nat := fit t sat (iv t a + iv t b + iv t c)
def imul (t : Ty) (a b : Nat) : Nat := wrapTo (intW t) (iv t a * iv t b)
def imulh (t : Ty) (a b : Nat) : Nat := wrapTo (intW t) (iv t a * iv t b / (2 ^ intW t : Nat))
def imad (t : Ty) (a b c : Nat) : Nat := wrapTo (intW t) (iv t a * iv t b + iv t c)
def iabs (t : Ty) (sat : Bool) (a : Nat) : Nat := fit t sat (iv t a).natAbs
def imin (t : Ty) (a b : Nat) : Nat := wrapTo (intW t) (min (iv t a) (iv t b))
def imax (t : Ty) (a b : Nat) : Nat := wrapTo (intW t) (max (iv t a) (iv t b))
/-- min(max(a, b), c): c when b > c (R185). -/
def iclamp (t : Ty) (a b c : Nat) : Nat := wrapTo (intW t) (min (max (iv t a) (iv t b)) (iv t c))

/-- All ones when the comparison holds, else zero (R188, R191). -/
def mask32 (h : Bool) : Nat := if h then 0xFFFF_FFFF else 0

def icmp (t : Ty) (c : Cond) (a b : Nat) : Nat := mask32 (condHolds c (some (compare (iv t a) (iv t b))))
def isel (a b c : Nat) : Nat := if c % 2 ^ 32 ≠ 0 then a else b
def csub (t : Ty) (a b : Nat) : Nat :=
  let w := intW t
  if b % 2 ^ w ≤ a % 2 ^ w then a % 2 ^ w - b % 2 ^ w else a % 2 ^ w
/-- The shifts take an unsigned 32-bit count (R185). -/
def shl (t : Ty) (a s : Nat) : Nat := if intW t ≤ s then 0 else a * 2 ^ s % 2 ^ intW t
def shr (t : Ty) (a s : Nat) : Nat := if intW t ≤ s then 0 else a % 2 ^ intW t / 2 ^ s
def sar (t : Ty) (a s : Nat) : Nat := wrapTo (intW t) (intVal true (intW t) a / (2 ^ (min s (intW t)) : Nat))
/-- Bits 31:0 of ((b << 32) or a) >> min(c, 32). -/
def shf (a b c : Nat) : Nat := (b % 2 ^ 32 * 2 ^ 32 + a % 2 ^ 32) / 2 ^ (min c 32) % 2 ^ 32
def notW (t : Ty) (a : Nat) : Nat := 2 ^ intW t - 1 - a % 2 ^ intW t
def andn (t : Ty) (a b : Nat) : Nat := a &&& notW t b

/-- BFX (R186): the field word is f. -/
def bfx (t : Ty) (a f : Nat) : Nat :=
  let w := intW t
  let p := f % 256
  let n := f / 256 % 256
  if n = 0 ∨ w ≤ p then 0 else
    let n' := min n (w - p)
    wrapTo w (intVal (intS t) n' (a / 2 ^ p))

/-- BFI (R186). -/
def bfi (t : Ty) (a b f : Nat) : Nat :=
  let w := intW t
  let p := f % 256
  let n := f / 256 % 256
  let b := b % 2 ^ w
  if n = 0 ∨ w ≤ p then b else
    let n' := min n (w - p)
    b - b / 2 ^ p % 2 ^ n' * 2 ^ p + a % 2 ^ n' * 2 ^ p

def bitsList (w x : Nat) : List Bool := (List.range w).map (fun i => x.testBit i)
def popc (t : Ty) (a : Nat) : Nat := ((bitsList (intW t) a).filter id).length
def clz (t : Ty) (a : Nat) : Nat := let x := a % 2 ^ intW t; if x = 0 then intW t else intW t - 1 - x.log2
def brev (t : Ty) (a : Nat) : Nat := (bitsList (intW t) a).foldl (fun acc b => 2 * acc + b.toNat) 0

/-- PRMT: byte i of the result by selector bits 4i+3:4i (R187). -/
def prmt (a b c : Nat) : Nat :=
  let v := b % 2 ^ 32 * 2 ^ 32 + a % 2 ^ 32
  let byte (i : Nat) : Nat :=
    let t := c / 16 ^ i % 16
    let x := v / 256 ^ (t % 8) % 256
    if 8 ≤ t then (if 128 ≤ x then 0xFF else 0) else x
  byte 0 + byte 1 * 2 ^ 8 + byte 2 * 2 ^ 16 + byte 3 * 2 ^ 24

/-- LEA: a + (x << s) modulo 2^64 (R187). -/
def lea (a b n : Nat) : Nat :=
  let x := intVal (n / 16 % 2 = 0) 32 b
  wrapTo 64 ((a : Int) + x * (2 ^ (n % 16) : Nat))

/-! ### Floating point (R189 to R192) -/

/-- Apply an element function under .f32, .f64 or a packed type, element 0 in the low half (R189). -/
def elemwise (t : Ty) (f : Nat → Nat → Nat → Nat) (a b c : Nat) : Nat :=
  if t = .f16x2 ∨ t = .bf16x2 then
    f (a % 2 ^ 16) (b % 2 ^ 16) (c % 2 ^ 16) +
      f (a / 2 ^ 16 % 2 ^ 16) (b / 2 ^ 16 % 2 ^ 16) (c / 2 ^ 16 % 2 ^ 16) * 2 ^ 16
  else f a b c

def fm (t : Ty) : Fmt := (fmtOf t).getD f32

def fadd (t : Ty) (r : Rnd) (a b : Nat) : Nat :=
  elemwise t (fun a b _ => (fm t).round r (((fm t).val a).add r ((fm t).val b))) a b 0
def fsub (t : Ty) (r : Rnd) (a b : Nat) : Nat :=
  elemwise t (fun a b _ => (fm t).round r (((fm t).val a).add r ((fm t).val b).neg)) a b 0
def fmul (t : Ty) (r : Rnd) (a b : Nat) : Nat :=
  elemwise t (fun a b _ => (fm t).round r (((fm t).val a).mul ((fm t).val b))) a b 0
def fma (t : Ty) (r : Rnd) (a b c : Nat) : Nat :=
  elemwise t (fun a b c => (fm t).round r ((((fm t).val a).mul ((fm t).val b)).add r ((fm t).val c))) a b c

/-- The larger or smaller of two elements, −0 below +0; the other operand when one is NaN (R190). -/
def fminmax1 (f : Fmt) (mx : Bool) (a b : Nat) : Nat :=
  let x := f.val a
  let y := f.val b
  if x.isNan then (if y.isNan then f.nanBits else b)
  else if y.isNan then a
  else
    let less := x.cmp y == some .lt || (x.cmp y == some .eq && x.sign && !y.sign)
    if less == mx then b else a

def fminmax (t : Ty) (mx : Bool) (a b : Nat) : Nat := elemwise t (fun a b _ => fminmax1 (fm t) mx a b) a b 0

/-- FCMP and DCMP (R191): the result is a mask of the element's width. -/
def fcmp (t : Ty) (c : Cond) (a b : Nat) : Nat :=
  if t = .f16x2 ∨ t = .bf16x2 then
    elemwise t (fun a b _ => if condHolds c (((fm t).val a).cmp ((fm t).val b)) then 0xFFFF else 0) a b 0
  else mask32 (condHolds c (((fm t).val a).cmp ((fm t).val b)))

/-- Round to an integral value; a zero result keeps the sign (R190). -/
def frnd1 (f : Fmt) (r : Rnd) (a : Nat) : Nat :=
  match f.val a with
  | .nan => f.nanBits
  | .inf _ => a
  | .fin s n d e => if n = 0 then a else f.round .rn (.fin s (roundQ r 0 s n d e 0) 1 0)

def frnd (t : Ty) (r : Rnd) (a : Nat) : Nat := elemwise t (fun a _ _ => frnd1 (fm t) r a) a 0 0

/-- The one-hot class (R190). -/
def fclass1 (f : Fmt) (a : Nat) : Nat :=
  let x := f.val a
  let sub : Bool := decide (a / 2 ^ f.m % 2 ^ f.e = 0)
  let p : Nat :=
    match x with
    | .nan => 8
    | .inf s => if s then 0 else 7
    | .fin s n _ _ => if n = 0 then (if s then 3 else 4) else if sub then (if s then 2 else 5) else (if s then 1 else 6)
  2 ^ p

def fclass (t : Ty) (a : Nat) : Nat := elemwise t (fun a _ _ => fclass1 (fm t) a) a 0 0

/-- a × 2^j (R189). Beyond ±4,096 the exponent changes nothing further: every format is then at its overflow or far below
half its smallest subnormal. -/
def fscale1 (f : Fmt) (r : Rnd) (a : Nat) (j : Int) : Nat :=
  match f.val a with
  | .nan => f.nanBits
  | .inf _ => a
  | .fin s n d e => if n = 0 then a else f.round r (.fin s n d (e + max (-4096) (min 4096 j)))

def fscale (t : Ty) (r : Rnd) (a b : Nat) : Nat :=
  elemwise t (fun a b _ => fscale1 (fm t) r a (intVal true (if t = .f32 then 32 else 16) b)) a b 0

/-! ### Dot products (R193, R194) -/

/-- Products of E packed elements. -/
def dotProds (t : Ty) (a b : Nat) : List Num :=
  (List.range (elems t)).map (fun i => (tyVal t (elemAt (elemW t) a i)).mul (tyVal t (elemAt (elemW t) b i)))

/-- DOTF4, DOTF6, DOTF8. -/
def dotScaled (t : Ty) (s a b c d : Nat) : Nat :=
  let sc := e8m0Val (c / 256 ^ s % 256)
  f32.round .rn (sumNum (f32.val d :: (dotProds t a b).map (fun p => sc.mul p)))

/-- DOTH. -/
def doth (t : Ty) (a b c : Nat) : Nat := f32.round .rn (sumNum (f32.val c :: dotProds t a b))

/-- DOTI8, DOTI4: (c + Σ a_i × b_i) modulo 2^32. -/
def doti (t : Ty) (a b c : Nat) : Nat :=
  wrapTo 32 ((c : Int) + ((List.range (elems t)).map (fun i =>
    intVal (intS t) (elemW t) (elemAt (elemW t) a i) * intVal (intS t) (elemW t) (elemAt (elemW t) b i))).sum)

/-! ### Conversions (R196 to R199) and RAND (R200) -/

def cvt (dt st : Ty) (r : Rnd) (sat : Bool) (a : Nat) : Nat := widen dt (convert dt st r sat 0 a)

def pack (dt st : Ty) (r : Rnd) (sat : Bool) (d a b c : Nat) : Nat :=
  let ew := elemW dt
  let xa := convert dt st r sat (c % 2 ^ 16) a
  let xb := convert dt st r sat (c / 2 ^ 16 % 2 ^ 16) b
  (d * 2 ^ (2 * ew) + xb * 2 ^ ew + xa) % 2 ^ (elems dt * ew)

/-- UNPACK of element i below E. -/
def unpack (dt st : Ty) (r : Rnd) (a i : Nat) : Nat := convert dt st r false 0 (elemAt (elemW st) a i)

/-- Unbiased exponent of the largest finite element (R199). -/
def mxEmax : Ty → Int
  | .e2m1 => 2 | .e2m3 => 2 | .e3m2 => 4 | .e4m3 => 8 | .e5m2 => 15
  | _ => 0

def mxscale (st : Ty) (a b : Nat) : Nat :=
  match (f32.val a).abs, (f32.val b).abs with
  | .nan, _ => 0xFF
  | _, .nan => 0xFF
  | .inf _, _ => 0xFF
  | _, .inf _ => 0xFF
  | .fin s n d e, .fin t m c g =>
    match (if (Num.fin s n d e).cmp (.fin t m c g) == some .lt then Num.fin t m c g else .fin s n d e) with
    | .fin _ n d e =>
      if n = 0 then 0x7F else (max 0 (min 254 (flog2 n d e - mxEmax st + 127))).toNat
    | _ => 0x7F

/-- The state of Philox4x32-10: counter words and key words (R200). -/
structure Philox where
  c0 : Nat
  c1 : Nat
  c2 : Nat
  c3 : Nat
  k0 : Nat
  k1 : Nat
  deriving DecidableEq, Repr

/-- One round's output, then the key's step. -/
def philoxRound (p : Philox) : Philox :=
  let p0 := 0xD2511F53 * p.c0
  let p1 := 0xCD9E8D57 * p.c2
  ⟨p1 / 2 ^ 32 ^^^ p.c1 ^^^ p.k0, p1 % 2 ^ 32, p0 / 2 ^ 32 ^^^ p.c3 ^^^ p.k1, p0 % 2 ^ 32,
    (p.k0 + 0x9E3779B9) % 2 ^ 32, (p.k1 + 0xBB67AE85) % 2 ^ 32⟩

def philox (p : Philox) : List Nat :=
  let q := (List.range 10).foldl (fun q _ => philoxRound q) p
  [q.c0, q.c1, q.c2, q.c3]

/-! ### Row statistics (R205 to R208) -/

/-- One level of the pairwise tree; absent lanes are none (R207). -/
def pairLevel {α : Type} (add : α → α → α) : List (Option α) → List (Option α)
  | x :: y :: rest =>
    (match x, y with
      | some a, some b => some (add a b)
      | some a, none => some a
      | none, b => b) :: pairLevel add rest
  | [x] => [x]
  | [] => []

/-- The tree over the 32 lanes (R207). -/
def treeSum {α : Type} (add : α → α → α) (xs : List (Option α)) : Option α :=
  let l := pairLevel add
  (l (l (l (l (l xs))))).headD none

/-- The lanes of a row in order, absent where inactive. -/
def lanes32 {α : Type} (row : List (Nat × α)) : List (Option α) :=
  (List.range 32).map (fun l => (row.find? (fun p => p.1 == l)).map Prod.snd)

/-- RMAX (R206). -/
def rmax (t : Ty) (row : List (Nat × Nat)) : Nat :=
  match row with
  | [] => 0
  | (_, x) :: rest =>
    if t = .f32 then
      if row.any (fun p => (f32.val p.2).isNan) then f32.nanBits
      else rest.foldl (fun m p => fminmax1 f32 true m p.2) x
    else rest.foldl (fun m p => imax t m p.2) x

/-- RSUM (R207). -/
def rsum (t : Ty) (r : Rnd) (row : List (Nat × Nat)) : Nat :=
  let add (x y : Nat) : Nat :=
    if t = .f32 then f32.round r ((f32.val x).add r (f32.val y)) else (x + y) % 2 ^ 32
  let one (x : Nat) : Nat := x
  ((treeSum add (lanes32 (row.map (fun p => (p.1, one p.2))))).getD 0)

/-- RSTAT: mean and population variance (R208). -/
def rstat (row : List (Nat × Nat)) : Nat × Nat :=
  let vals := row.map (fun p => f32.val p.2)
  if vals.any Num.isNan then (f32.nanBits, f32.nanBits)
  else
    let infs := vals.filter Num.isInf
    if infs ≠ [] then
      let pos := infs.any (fun v => !v.sign)
      let neg := infs.any Num.sign
      ((if pos && neg then f32.nanBits else f32.round .rn (.inf neg)), f32.nanBits)
    else
      let rd (x : Num) : Nat := f64.round .rn x
      let c := vals.headD .zero
      let n := row.length
      let e := row.map (fun p => (p.1, rd ((f32.val p.2).add .rn c.neg)))
      let addD (x y : Nat) : Nat := addF64 x y
      let s1 := (treeSum addD (lanes32 e)).getD 0
      let s2 := (treeSum addD (lanes32 (e.map (fun p => (p.1, rd ((f64.val p.2).mul (f64.val p.2))))))).getD 0
      let m := f64.val (rd ((f64.val s1).divNat n))
      let mean := f32.round .rn (c.add .rn m)
      let x := f64.val (rd ((f64.val (rd ((f64.val s2).divNat n))).add .rn (f64.val (rd (m.mul m))).neg))
      (mean, if x.cmp .zero == some .gt then f32.round .rn x else 0)

/-! ### Cross-lane operations (R180) and read-modify-write (R238) -/

/-- The operation of LRED, LSCAN, RED and ATOM on an old value m and an operand s; c is the third operand of .cas. -/
def rmw (op : RmwOp) (t : Ty) (m s c : Nat) : Nat :=
  match op with
  | .add => match fmtOf t with
    | some f => f.round .rn ((f.val m).add .rn (f.val s))
    | none => wrapTo (intW t) (iv t m + iv t s)
  | .min => imin t m s
  | .max => imax t m s
  | .and => m &&& s
  | .or => m ||| s
  | .xor => m ^^^ s
  | .xchg => s
  | .cas => if m = s then c else m

end Sys2Proof.Machine.Alu
end

