-- ==== Sys2Proof/Machine/Tbl.lean ====
section
/-! DEFINITION. Sparse tables by number: a list of entries with strictly rising keys. Memory, register files and every table of the
state are such lists, so that equal contents are equal data. -/

namespace Sys2Proof.Machine

/-- Entries by key, keys strictly rising. -/
abbrev Tbl (α : Type) := List (Nat × α)

/-- The entry of a key. -/
def Tbl.get? {α : Type} : Tbl α → Nat → Option α
  | [], _ => none
  | (j, v) :: t, k => if j = k then some v else Tbl.get? t k

/-- Set the entry of a key, in its place. -/
def Tbl.set {α : Type} : Tbl α → Nat → α → Tbl α
  | [], k, v => [(k, v)]
  | (j, w) :: t, k, v =>
    if k < j then (k, v) :: (j, w) :: t
    else if j = k then (k, v) :: t
    else (j, w) :: Tbl.set t k v

/-- Remove the entry of a key. -/
def Tbl.erase {α : Type} : Tbl α → Nat → Tbl α
  | [], _ => []
  | (j, w) :: t, k => if j = k then Tbl.erase t k else (j, w) :: Tbl.erase t k

/-- Set or remove. -/
def Tbl.put {α : Type} (t : Tbl α) (k : Nat) (v : Option α) : Tbl α :=
  match v with
  | some v => t.set k v
  | none => t.erase k

/-- Change an entry that is present. -/
def Tbl.modify {α : Type} (t : Tbl α) (k : Nat) (f : α → α) : Tbl α :=
  match t.get? k with
  | some v => t.set k (f v)
  | none => t

/-- The value of a key, d where no entry is listed. -/
def Tbl.getD {α : Type} (t : Tbl α) (k : Nat) (d : α) : α := (t.get? k).getD d

/-- Write a value in canonical form: a value equal to what an unlisted key reads as is not listed. -/
def Tbl.write {α : Type} [DecidableEq α] (d : α) (t : Tbl α) (k : Nat) (v : α) : Tbl α :=
  if v = d then t.erase k else t.set k v

/-- Keys strictly rising from a bound. -/
def Tbl.risingFrom {α : Type} : Nat → Tbl α → Bool
  | _, [] => true
  | b, (k, _) :: t => decide (b ≤ k) && Tbl.risingFrom (k + 1) t

/-- The canonical form: keys strictly rising, and no entry equal to the default. -/
def Tbl.canon {α : Type} [DecidableEq α] (d : α) (t : Tbl α) : Bool :=
  Tbl.risingFrom 0 t && t.all (fun p => decide (p.2 ≠ d))

/-- The first entry of a list with the least measure. -/
def leastBy {α : Type} (f : α → Nat) : List α → Option α
  | [] => none
  | x :: t =>
    match leastBy f t with
    | some y => if f x ≤ f y then some x else some y
    | none => some x

/-- Put an entry before the first of a greater measure. -/
def insertBy {α : Type} (f : α → Nat) (x : α) : List α → List α
  | [] => [x]
  | y :: t => if f y ≤ f x then y :: insertBy f x t else x :: y :: t

/-- A list in rising order of a measure. -/
def sortBy {α : Type} (f : α → Nat) (l : List α) : List α := l.foldl (fun a x => insertBy f x a) []

end Sys2Proof.Machine
end

