-- ==== Sys2Proof/Machine/Layout.lean ====
section
/-! DEFINITION. The records of the system range (R250): where each table lies, how large a record is, its reset value, its fields
and which of its bits software writes. Records are raw values; their fields are read and written by their bit ranges. -/

namespace Sys2Proof.Machine

/-- A field: bits lo + w − 1 to lo of a record. -/
structure Fld where
  lo : Nat
  w : Nat
  deriving DecidableEq, Repr

/-- The field of a raw value. -/
def Fld.get (f : Fld) (r : Nat) : Nat := r / 2 ^ f.lo % 2 ^ f.w

/-- The raw value with a field replaced; v is taken modulo the field's width. -/
def Fld.set (f : Fld) (r v : Nat) : Nat :=
  r / 2 ^ (f.lo + f.w) * 2 ^ (f.lo + f.w) + v % 2 ^ f.w * 2 ^ f.lo + r % 2 ^ f.lo

/-- The ones of a field. -/
def Fld.mask (f : Fld) : Nat := (2 ^ f.w - 1) * 2 ^ f.lo

/-- The tables of the system range. -/
inductive SysTab where
  /-- Context records (R73, R75). -/
  | context
  /-- Queue records (R87, R88). -/
  | queue
  /-- The cox configuration word (R95). -/
  | cox
  /-- Page-pool records (R266). -/
  | pool
  /-- Shape tables, 32 of a context (R346). -/
  | shape
  /-- The link header (R369). -/
  | link
  /-- Port records (R366). -/
  | port
  /-- The member table (R369). -/
  | member
  /-- The export table (R372). -/
  | exports
  /-- PC comparators, 8 of a bay (R391). -/
  | comparator
  /-- Debug records (R394). -/
  | debug
  /-- The power record (R425). -/
  | power
  /-- Region tables, 64 entries of a context (R281). -/
  | region
  /-- The tree table (R336). -/
  | tree
  /-- The count table, one entry for each 64 KiB page (R265). -/
  | count
  deriving DecidableEq, Repr

/-- Base address, record bytes and number of records of a table. -/
def SysTab.place : SysTab → Nat × Nat × Nat
  | .context => (0x0, 0x80, 1024)
  | .queue => (0x2_0000, 0x40, 4096)
  | .cox => (0x6_0000, 8, 1)
  | .pool => (0x7_0000, 0x40, 1024)
  | .shape => (0x10_0000, 0x80, 32768)
  | .link => (0x50_0000, 0x40, 1)
  | .port => (0x50_1000, 0x20, 64)
  | .member => (0x50_2000, 8, 768)
  | .exports => (0x51_0000, 0x10, 1024)
  | .comparator => (0x60_0000, 8, 3584)
  | .debug => (0x61_0000, 0x10, 1024)
  | .power => (0x62_0000, 0x10, 1)
  | .region => (0x80_0000, 0x10, 65536)
  | .tree => (0xC0_0000, 0x40, 65536)
  | .count => (0x100_0000, 2, 8388608)

def SysTab.base (t : SysTab) : Nat := t.place.1
def SysTab.bytes (t : SysTab) : Nat := t.place.2.1
def SysTab.num (t : SysTab) : Nat := t.place.2.2

/-- The address of record n. -/
def SysTab.addr (t : SysTab) (n : Nat) : Nat := t.base + t.bytes * n

def sysTabs : List SysTab :=
  [.context, .queue, .cox, .pool, .shape, .link, .port, .member, .exports, .comparator, .debug, .power, .region, .tree, .count]

/-- The record that a physical address of the system range lies in, and the byte of it. -/
def sysAt (pa : Nat) : Option (SysTab × Nat × Nat) :=
  (sysTabs.find? (fun t => decide (t.base ≤ pa) && decide (pa < t.base + t.bytes * t.num))).map
    (fun t => (t, (pa - t.base) / t.bytes, (pa - t.base) % t.bytes))

/-- The system range (R250). -/
def inSys (pa : Nat) : Bool := decide (pa < 0x200_0000)

/-! ### Fields -/

namespace Ctx
def cmd : Fld := ⟨960, 8⟩
def cseq : Fld := ⟨912, 16⟩
def cstat : Fld := ⟨896, 8⟩
def tmplva : Fld := ⟨780, 44⟩
def ntrees : Fld := ⟨734, 17⟩
def nqueues : Fld := ⟨721, 13⟩
def npinned : Fld := ⟨704, 17⟩
def treemax : Fld := ⟨670, 17⟩
def qmax : Fld := ⟨657, 13⟩
def pinmax : Fld := ⟨640, 17⟩
def fbar : Fld := ⟨581, 51⟩
def sget : Fld := ⟨544, 32⟩
def sput : Fld := ⟨512, 32⟩
def stampva : Fld := ⟨460, 44⟩
def ssz : Fld := ⟨448, 4⟩
def oget : Fld := ⟨416, 32⟩
def oput : Fld := ⟨384, 32⟩
def ologva : Fld := ⟨332, 44⟩
def osz : Fld := ⟨320, 4⟩
def fget : Fld := ⟨288, 32⟩
def fput : Fld := ⟨256, 32⟩
def flogva : Fld := ⟨204, 44⟩
def fsz : Fld := ⟨192, 4⟩
def trapva : Fld := ⟨140, 44⟩
def ptroot : Fld := ⟨76, 27⟩
def flost : Fld := ⟨48, 16⟩
def cause : Fld := ⟨32, 16⟩
def kvsl : Fld := ⟨9, 3⟩
def recover : Fld := ⟨8, 1⟩
def replay : Fld := ⟨7, 1⟩
def record : Fld := ⟨6, 1⟩
def busy : Fld := ⟨3, 1⟩
def state : Fld := ⟨0, 3⟩
end Ctx

namespace Que
def cseq : Fld := ⟨464, 16⟩
def cstat : Fld := ⟨456, 8⟩
def cmd : Fld := ⟨448, 8⟩
def late : Fld := ⟨160, 32⟩
def done : Fld := ⟨128, 32⟩
def nready : Fld := ⟨80, 15⟩
def nposted : Fld := ⟨64, 15⟩
def depth : Fld := ⟨32, 15⟩
def ctx : Fld := ⟨16, 10⟩
def notify : Fld := ⟨11, 1⟩
def dev : Fld := ⟨10, 1⟩
def host : Fld := ⟨9, 1⟩
def policy : Fld := ⟨8, 1⟩
def cls : Fld := ⟨4, 3⟩
def state : Fld := ⟨0, 2⟩
/-- Reserved fields: software's writes to them stand, so that R90 finds them non-zero (log 82). -/
def reserved : List Fld := [⟨480, 32⟩, ⟨192, 256⟩, ⟨95, 33⟩, ⟨79, 1⟩, ⟨47, 17⟩, ⟨26, 6⟩, ⟨12, 4⟩, ⟨7, 1⟩, ⟨2, 2⟩]
end Que

namespace Cox
def rsv : Fld := ⟨0, 28⟩
end Cox

namespace Pool
def plost : Fld := ⟨448, 16⟩
def snpget : Fld := ⟨416, 32⟩
def snpput : Fld := ⟨384, 32⟩
def snpva : Fld := ⟨332, 44⟩
def snpsz : Fld := ⟨256, 4⟩
def freget : Fld := ⟨224, 32⟩
def freput : Fld := ⟨192, 32⟩
def freva : Fld := ⟨140, 44⟩
def fresz : Fld := ⟨128, 4⟩
def supget : Fld := ⟨96, 32⟩
def supput : Fld := ⟨64, 32⟩
def supva : Fld := ⟨12, 44⟩
def supsz : Fld := ⟨0, 4⟩
end Pool

namespace Shape
def parent (i : Nat) : Fld := ⟨8 * i, 8⟩
def n : Fld := ⟨512, 8⟩
end Shape

namespace Lnk
def evbar : Fld := ⟨397, 51⟩
def epoch : Fld := ⟨352, 32⟩
def self : Fld := ⟨320, 10⟩
end Lnk

namespace Port
def retries : Fld := ⟨192, 64⟩
def crcerr : Fld := ⟨128, 64⟩
def lastbeat : Fld := ⟨96, 32⟩
def peer : Fld := ⟨64, 10⟩
def missed : Fld := ⟨8, 8⟩
def en : Fld := ⟨3, 1⟩
def state : Fld := ⟨0, 3⟩
end Port

namespace Mem
def lastbeat : Fld := ⟨32, 32⟩
def ports : Fld := ⟨8, 8⟩
def state : Fld := ⟨0, 2⟩
end Mem

namespace Exp
def base : Fld := ⟨80, 40⟩
def len : Fld := ⟨16, 29⟩
def en : Fld := ⟨0, 1⟩
end Exp

namespace Cmp
def ctx : Fld := ⟨48, 10⟩
def queue : Fld := ⟨36, 12⟩
def bent : Fld := ⟨28, 8⟩
def slot : Fld := ⟨20, 4⟩
def pc : Fld := ⟨8, 12⟩
def bentf : Fld := ⟨2, 1⟩
def anyq : Fld := ⟨1, 1⟩
def en : Fld := ⟨0, 1⟩
end Cmp

namespace Dbg
def speriod : Fld := ⟨100, 4⟩
def lines : Fld := ⟨64, 5⟩
def dbgva : Fld := ⟨7, 49⟩
def arm : Fld := ⟨0, 1⟩
end Dbg

namespace Pwr
def held1 : Fld := ⟨112, 16⟩
def held0 : Fld := ⟨96, 16⟩
def budget1 : Fld := ⟨80, 16⟩
def budget0 : Fld := ⟨64, 16⟩
def tint : Fld := ⟨40, 8⟩
def trip1 : Fld := ⟨33, 1⟩
def trip0 : Fld := ⟨32, 1⟩
def plimit : Fld := ⟨0, 13⟩
end Pwr

namespace Reg
def place : Fld := ⟨112, 9⟩
def nlines : Fld := ⟨88, 24⟩
def base : Fld := ⟨7, 49⟩
def valid : Fld := ⟨3, 1⟩
def scope : Fld := ⟨0, 3⟩
end Reg

namespace Tre
def tlen : Fld := ⟨320, 32⟩
def window : Fld := ⟨286, 26⟩
def nlive : Fld := ⟨256, 16⟩
def gen : Fld := ⟨48, 16⟩
def fgen : Fld := ⟨40, 8⟩
def cls : Fld := ⟨32, 8⟩
def kvsl : Fld := ⟨28, 3⟩
def ctx : Fld := ⟨16, 10⟩
def state : Fld := ⟨0, 2⟩
end Tre

/-! The launch record (R107). -/
namespace Lch
def saveva : Fld := ⟨972, 44⟩
def depA (i : Nat) : Fld := ⟨448 + 128 * i, 64⟩
def depB (i : Nat) : Fld := ⟨512 + 128 * i, 64⟩
def tag : Fld := ⟨416, 32⟩
def nsave : Fld := ⟨401, 15⟩
def intensity : Fld := ⟨392, 4⟩
def live : Fld := ⟨388, 1⟩
def tagged : Fld := ⟨387, 1⟩
def replay : Fld := ⟨386, 1⟩
def record : Fld := ⟨385, 1⟩
def persistent : Fld := ⟨384, 1⟩
def deadline : Fld := ⟨320, 64⟩
def urgency : Fld := ⟨312, 2⟩
def slots : Fld := ⟨304, 5⟩
def spages : Fld := ⟨288, 9⟩
def allot : Fld := ⟨280, 5⟩
def ncrews : Fld := ⟨256, 24⟩
def bentva : Fld := ⟨204, 44⟩
def nbents : Fld := ⟨192, 9⟩
def argva : Fld := ⟨128, 56⟩
def codeva : Fld := ⟨71, 49⟩
def lines : Fld := ⟨64, 5⟩
def queue : Fld := ⟨0, 12⟩
/-- Reserved fields. -/
def reserved : List Fld :=
  [⟨1016, 1032⟩, ⟨960, 12⟩, ⟨396, 5⟩, ⟨389, 3⟩, ⟨314, 6⟩, ⟨309, 3⟩, ⟨297, 7⟩, ⟨285, 3⟩, ⟨248, 8⟩, ⟨201, 3⟩, ⟨184, 8⟩, ⟨120, 8⟩,
    ⟨69, 2⟩, ⟨12, 20⟩]
end Lch

/-- The reset value of a record (R75, R88, R366, R369, R425, R428): zero but for the fields named here. -/
def SysTab.reset : SysTab → Nat
  | .port => Port.peer.set 0 0x3FF
  | .link => Lnk.self.set 0 0x3FF
  | .power => Pwr.plimit.set (Pwr.tint.set (Pwr.budget0.set (Pwr.budget1.set 0 3712) 3712) 10) 4800
  | .context => 0 | .queue => 0 | .cox => 0 | .pool => 0 | .shape => 0 | .member => 0 | .exports => 0
  | .comparator => 0 | .debug => 0 | .region => 0 | .tree => 0 | .count => 0

/-- The RW fields of a record: what a software write changes (R8, R9, R73). -/
def SysTab.rw : SysTab → List Fld
  | .context => [Ctx.tmplva, Ctx.treemax, Ctx.qmax, Ctx.pinmax, Ctx.fbar, Ctx.sget, Ctx.stampva, Ctx.ssz, Ctx.oget,
      Ctx.ologva, Ctx.osz, Ctx.fget, Ctx.flogva, Ctx.fsz, Ctx.trapva, Ctx.ptroot, Ctx.kvsl, Ctx.recover, Ctx.replay, Ctx.record]
  | .queue => [Que.depth, Que.ctx, Que.notify, Que.dev, Que.host, Que.policy, Que.cls] ++ Que.reserved
  | .cox => [Cox.rsv]
  | .pool => [Pool.snpget, Pool.snpva, Pool.snpsz, Pool.freget, Pool.freva, Pool.fresz, Pool.supput, Pool.supva, Pool.supsz]
  | .link => [Lnk.evbar, Lnk.epoch, Lnk.self]
  | .port => [Port.en]
  | .member => [Mem.state]
  | .exports => [⟨0, 128⟩]
  | .debug => [Dbg.speriod, Dbg.lines, Dbg.dbgva, Dbg.arm]
  | .power => [Pwr.tint, Pwr.plimit]
  | .count => [⟨0, 16⟩]
  -- a write to a region entry stands until the device writes the entry again, and changes no region (R281)
  | .region => [⟨0, 128⟩]
  | .shape => [] | .comparator => [] | .tree => []

/-- The mask of a record's RW bits. -/
def SysTab.rwMask (t : SysTab) : Nat := (t.rw.map Fld.mask).foldl (· ||| ·) 0

end Sys2Proof.Machine
end

