-- ==== Sys2Proof/Machine/Place.lean ====
section
/-! DEFINITION. Where an operation happens: the crew that issues an instruction, or the place and the outside input of an event
(95_what_each_step_holds.md). Plain data. -/

namespace Sys2Proof

/-- A Plofo message from the host (R102, R103), fields as they stand in the header and the body as bytes.
len is the header's length field; reserved holds the header's zero fields. -/
structure HostMsg where
  ver : Nat
  typ : Nat
  len : Nat
  flags : Nat
  reserved : Nat
  seq : Nat
  ack : Nat
  ctx : Nat
  body : List Byte
  deriving DecidableEq, Repr

/-- An Ethernet frame that reaches the module (R102): addresses, whether it carries one IEEE 802.1Q tag, its EtherType, whether its frame
check sequence holds, and its message. -/
structure EthFrame where
  dst : Nat
  src : Nat
  tagged : Bool
  etype : Nat
  fcsOk : Bool
  msg : HostMsg
  deriving DecidableEq, Repr

/-- One element access of a peer packet (R374, R378 to R382), at an offset of the destination's window. -/
inductive PeerOp where
  | put (off w data : Nat)
  | get (off w : Nat)
  | red (op : RmwOp) (ty : Ty) (off : Nat) (val : DWord)
  | cell (ty : Ty) (anchor : Int) (off : Nat) (val : DWord)
  | marker (off : Nat)
  | arrive (off k : Nat)
  | raise (off v : Nat)
  deriving DecidableEq, Repr

/-- A peer packet: sender, destination, epoch, context, sending crew and issue number there, accesses (R370, R372, R374). -/
structure Pkt where
  src : Nat
  dst : Nat
  epoch : Nat
  ctx : Nat
  kernel : Nat
  crew : Nat
  id : Nat
  ops : List PeerOp
  deriving DecidableEq, Repr

/-- What a peer acknowledgement says (R370, R373, R375). -/
inductive PeerStatus where
  | done (data : List Nat)
  | refused (aux : Nat)
  | epoch
  | unreachable
  | barrierMode (aux : Nat)
  deriving DecidableEq, Repr

/-- A late fault as the unit that found it names it (R178, R86); kernel is the kernel's handle. -/
structure Late where
  ctx : Nat
  kind : Nat
  aux : Nat
  addr : DWord
  pc : Nat
  stroke : DWord
  kernel : Nat
  crew : Nat
  bay : Nat
  gone : Bool
  deriving DecidableEq, Repr

/-- What a scrub found (R429). -/
inductive ScrubFinding where
  | clean | corrected | uncorrectable
  deriving DecidableEq, Repr

/-- Where the operation that comes next happens. An event reads the form its row names; at any other form it does not occur. -/
inductive Place where
  | none
  /-- The resident crew rid: 64 × bay + 32 × side + slot (R85). -/
  | crew (rid : Nat)
  | ctx (n : Nat)
  | ctxCause (n : Nat) (cause : Nat)
  | queue (n : Nat)
  | kernel (k : Nat)
  | bay (b : Nat)
  | side (bay side : Nat)
  | die (d : Nat)
  | port (p : Nat)
  /-- The entry of a list of the state, by its number. -/
  | entry (i : Nat)
  | boot (fwOk : Bool)
  | byteWrite (pa : Nat) (v : Byte)
  | rsv (v : DWord)
  | frame (f : EthFrame)
  | host (m : HostMsg)
  | kernelBay (k bay : Nat)
  | kernelSide (k bay side : Nat)
  | kernelCrew (k crew : Nat)
  | result (rid idx : Nat) (lanes : LaneMask)
  | late (f : Late)
  | save (rid slot : Nat)
  /-- A committed write signature arriving at a bay, and the resident id of the crew that committed. -/
  | squash (bay : Nat) (w : BitVec 2048) (committer : Option Nat)
  | walk (bay ctx : Nat) (va : DWord)
  | page (ctx : Nat) (va : DWord)
  | line (l : Nat)
  | template (ctx cls : Nat) (entry : DWord)
  | packet (p : Pkt)
  /-- The accesses of a packet that are still to be applied to reduction cells, and whether one before them met a mismatch. -/
  | cell (p : Pkt) (mismatch : Bool)
  | ack (id : Nat) (st : PeerStatus)
  /-- A flit that a port received with a bad check, or had to send again (R366). -/
  | flit (p : Nat) (resent : Bool)
  | trained (p : Nat) (peer : BitVec 10)
  | beat (p member : Nat)
  | plimit (v : BitVec 13)
  | thermal (die temp : Nat)
  | scrub (line : Nat) (f : ScrubFinding)
  /-- A word of a register file or of an instruction memory, as a scrub finds it. -/
  | sram (f : ScrubFinding)
  | sample (bay side ctx : Nat)
  deriving DecidableEq, Repr

end Sys2Proof
end

