-- ==== Sys2Proof/Machine/State.lean ====
section
/-! DEFINITION. The state of the module as plain data: everything the manual gives the machine (INVENTORY.md lists each piece with
its rule), and the few fields of the model's own (log 3, 4 and 5). -/

namespace Sys2Proof.Machine

/-- Why a step stops. -/
inductive Fault where
  /-- Raised by exec of a crew instruction in a state whose place names no resident crew; step never does so, because it issues
  only for a resident crew. Safe: the manual gives an instruction no meaning without a crew. -/
  | noCrew
  deriving DecidableEq, Repr

/-- Why an operation has no meaning in the model. -/
inductive Refusal where
  /-- Raised by an arm of exec whose instruction has no meaning yet. Safe: nothing is claimed of it. -/
  | notModelled (mnemonic : String)
  deriving DecidableEq, Repr

/-- Bytes of physical memory, an unlisted byte reading 0 (log 2). -/
abbrev Memory := List Host.Cell

/-- Power stage of the module (R428). -/
inductive Power where
  /-- Reset or power-good not yet released, or the firmware not yet running. -/
  | reset
  | up
  /-- The firmware image failed its check: the Ethernet port stays down. -/
  | failed
  deriving DecidableEq, Repr

/-! ### Strokes and results -/

/-- An operation on a barrier object (R308, R316 to R319). -/
inductive BarOp where
  | arrive (k : Nat)
  | land (n : Nat)
  | expect (n : Nat)
  | raise (v : Nat)
  | tladd (v : Nat)
  | initPhase (exarr exbase : Nat)
  | initTimeline (v : Nat)
  deriving DecidableEq, Repr

/-- A registration of a source on a barrier object (R311). -/
inductive RegSrc where
  /-- A crew that issued ARRIVE or EXPECT. -/
  | crew (c : Nat)
  /-- The member crews of a bent. -/
  | bent (b : Nat)
  /-- A crew's bound engine timeline (eng) or matrix timeline. -/
  | bound (c : Nat) (eng : Bool)
  /-- An engine command. -/
  | cmd (id : Nat)
  deriving DecidableEq, Repr

/-- A registration: the object's physical address, the context and address it was named by, the kernel slot, the source. -/
structure Regn where
  obj : Nat
  ctx : Nat
  va : Nat
  k : Nat
  src : RegSrc
  deriving DecidableEq, Repr

/-- A commit-time effect of a stroke, in issue order (R214, R220). -/
inductive Eff where
  /-- A write of ST or ATOM in one lane; memside: on a memory-side line (R232). -/
  | store (va pa : Nat) (data : List Byte) (memside : Bool)
  /-- A RED in one lane: op, type, operand. -/
  | red (va pa : Nat) (op : RmwOp) (ty : Ty) (v : Nat) (memside : Bool)
  /-- A SUMRED update of one element, a binary64 pattern (R300). -/
  | sumred (va pa : Nat) (v : Nat)
  /-- A barrier operation on the object at pa (R315); keep: for a BARINIT, the registrations it makes itself (R316). -/
  | bar (va pa : Nat) (op : BarOp) (keep : Option (List Regn))
  /-- A trace record (R400): value, code, PC with slot, em. -/
  | trace (value code pc : Nat) (em : LaneMask) (tag : Word)
  /-- Markers of MFENCE (R242). -/
  | mfence (eng peer : Bool)
  deriving DecidableEq, Repr

/-- An entry of the reconvergence stack (R152). -/
structure Entry where
  slot : Nat
  rpc : Nat
  path : LaneMask
  saved : LaneMask
  deriving DecidableEq, Repr

/-- The crew state that a squash restores (R134, R210, R393), as it stood at a stroke's first instruction. -/
structure Snap where
  pc : Nat
  slot : Nat
  em : LaneMask
  exited : LaneMask
  rowEmpty : Bool
  stack : List Entry
  regs : Tbl Word
  tag : Word
  handler : Bool
  elected : Nat
  skip : Bool
  deriving DecidableEq, Repr

/-- A stroke in flight (R212 to R216). -/
structure Stroke where
  /-- Begin order over the module (log 5). -/
  serial : Nat
  snap : Snap
  count : Nat
  rsig : BitVec 2048
  wsig : BitVec 2048
  rlines : List Nat
  wlines : List Nat
  blocks : List Nat
  sumLines : List Nat
  /-- Memory-side lines read or written: no signature holds them, but their umpires belong to the stroke's set (R219, R232). -/
  sideLines : List Nat
  /-- Every line read lies in a stash page pinned to the context (R223). -/
  pinnedOnly : Bool
  effs : List Eff
  /-- Registrations this stroke created (R311). -/
  regns : List Regn
  /-- Bindings this stroke's BARINIT.eng made, not yet in force (R316, R327). -/
  binds : List Nat
  held : Bool
  closed : Option Nat
  deriving DecidableEq, Repr

/-- A function-unit instruction outstanding (R176, R202): its encoding, place, lanes, captured operand, groups to be served. -/
structure Fu where
  bits : BitVec 128
  slot : Nat
  pc : Nat
  lanes : LaneMask
  a : List (Nat × Word)
  groups : List Nat
  avail : Nat
  smx : Bool
  /-- Issue order on the side. -/
  order : Nat
  deriving DecidableEq, Repr

/-- The results of an issued instruction that are not yet written (R148, R149). -/
structure Pend where
  serial : Nat
  cells : List (Nat × Word)
  /-- Cells in which another write that was outstanding with this one has landed. -/
  race : List Nat
  /-- The clk of a fixed-latency result; none for a variable-latency one. -/
  due : Option Nat
  flag : Option (Fin 12)
  rowEmpty : Option Bool
  fu : Option Fu
  deriving DecidableEq, Repr

/-! ### Traps, faults and waits -/

/-- A precise trap on its way (R170 to R175). -/
structure Trap where
  kind : Nat
  aux : Nat
  addr : Nat
  lane : Nat
  code : Nat
  pc : Nat
  slot : Nat
  deriving DecidableEq, Repr

/-- A translation fault on its way to the fault queue (R257). -/
structure QFault where
  kind : Nat
  va : Nat
  write : Bool
  /-- The fault is the wait for a copy (R268, R270): 0 none, 1 copy of a shared KV page, 2 checkpoint copy. -/
  copy : Nat
  /-- The lane that decided (R257). -/
  lane : Nat
  deriving DecidableEq, Repr

/-- How an MWAIT sleeps (R241). -/
inductive MwaitBy where
  /-- A monitor on the bay's copy of the line. -/
  | monitor
  /-- An entry of the wait table of the line's home slice. -/
  | entry
  /-- The table was full: re-checked every 2,048 clk from this one on. -/
  | recheck (since : Nat)
  deriving DecidableEq, Repr

/-- What a crew waits for (R135). -/
inductive Wait where
  | none
  /-- Its strokes in flight, before a bounding instruction, a fifth stroke, a trap or a fault (R172, R214, R215, R257). -/
  | strokes
  /-- Its oldest stroke, before a fifth one begins (R215). -/
  | room
  /-- Shadow space, since a serial (R222). -/
  | shadow (since : Nat)
  /-- A held stroke's reservations (R224). -/
  | held
  /-- A fault-queue entry: die and index (R257). -/
  | queue (die idx : Nat)
  /-- A free fault-queue entry (R258). -/
  | queueFull
  /-- A page copy (R268, R270). -/
  | copy
  /-- WAIT on an object at a physical address, with the operand and the mode it found (R320). -/
  | barrier (pa va x mode : Nat)
  /-- MWAIT (R240, R241): physical address, type, condition and expected value, and how it sleeps. -/
  | mwait (pa : Nat) (ty : Ty) (cond : Cond) (x : Nat) (how : MwaitBy)
  /-- Leave for an MMA (R113, R294). -/
  | pipe
  /-- Leave for a peer burst (R376). -/
  | leave
  /-- An allotment grow to n, since a serial (R163). -/
  | allot (n since d : Nat)
  /-- A place in the engine queues (R119, R322). -/
  | engine
  /-- Reductions of its own in flight (R301, R302). -/
  | reds
  /-- Work of others that its instruction waits for; it looks again each clk (R263, R269). -/
  | retry
  /-- SUMDECL.free of a region, its entry already invalid: base and lines (R298). -/
  | freeing (base lines : Nat)
  /-- The outcome of a LEAVE request (R133): its number, destination, and the last clk at which an answer counts. -/
  | leaveAsk (n d until_ : Nat)
  /-- The replay window of Plofo (R101). -/
  | window
  /-- An XGET, by the number of its peer accesses (R378). -/
  | peer (id : Nat)
  /-- XFENCE (R383). -/
  | fence
  /-- The gate, after a replay divergence (R248). -/
  | gate
  /-- A context fault it met: it stays as it is and is saved with the rest (R80). -/
  | ctxFault
  deriving DecidableEq, Repr

/-- Where a crew on a bay stands (R135). A stopped crew is not on its bay; an exited one keeps its blocks until no instruction of it
is in flight. -/
inductive Life where
  | placed
  | pending
  | active
  | trapped
  | exited
  deriving DecidableEq, Repr

/-- A reduction in flight (R284): element addresses, update, kernel, crew, batch, the MMA it belongs to, block, earliest clk. -/
structure Red where
  va : Nat
  pa : Nat
  v : Nat
  k : Nat
  crew : Nat
  ctx : Nat
  batch : Nat
  mma : Option Nat
  block : Nat
  ready : Nat
  pc : Nat
  bay : Nat
  /-- The sequence number of a SUMRED's stroke, and the stamp window of an MMA. -/
  stroke : Nat
  window : Option Nat
  deriving DecidableEq, Repr

/-- The A latch of a side (R293). -/
structure Latch where
  owner : Nat
  fmt : Ty
  a : Nat
  c : Nat
  s : Nat
  /-- Registers a to a + 63, lane by lane, then the selected scale registers. -/
  vals : List Word
  scales : List Word
  deriving DecidableEq, Repr

/-- An MMA that waits for the pipe (R294). -/
structure MmaJob where
  fmt : Ty
  reuse : Bool
  s : Nat
  a : Nat
  c : Nat
  dst : Nat
  bsrc : Nat
  flag : Option (Fin 12)
  /-- Physical addresses of the destination's 256 lines. -/
  lines : List Nat
  pc : Nat
  slot : Nat
  /-- For an MMA that a stop ended after its crew had gone on: the reductions of the blocks that were left (log 63). -/
  rest : List Red
  /-- Its yield bit (R57). -/
  yields : Bool
  /-- With .reuse, the values that it has used (R293). -/
  used : Option Latch
  deriving DecidableEq, Repr

/-- An accepted MMA whose blocks are being computed (R294, R118): its number, PC and kernel slot, first block, and the clk of
block 0. -/
structure MmaRun where
  id : Nat
  pc : Nat
  slot : Nat
  first : Nat
  start : Nat
  /-- The crew has performed or committed something after it. -/
  past : Bool
  /-- The MMA as it stood at the pipe. -/
  job : MmaJob
  deriving DecidableEq, Repr

/-- A SUMDRAIN that has passed its checks and waits for reductions of its crew (R298, R302): its ranges, and the lines found for them. -/
structure Drain where
  src : Nat
  dst : Nat
  from_ : List (Nat × Nat)
  to_ : List (Nat × Nat)
  deriving DecidableEq, Repr

/-- A crew on a bay (R134, R135). -/
structure Crew where
  kernel : Nat
  idx : Nat
  pc : Nat
  slot : Nat
  em : LaneMask
  exited : LaneMask
  flags : BitVec 12
  rowEmpty : Bool
  /-- Top entry first. -/
  stack : List Entry
  /-- Register r of lane l under key 32 × r + l; an unlisted cell reads 0. -/
  regs : Tbl Word
  allot : Nat
  tag : Word
  handler : Bool
  elected : Nat
  /-- The kind of the trap whose handler runs (R393). -/
  cause : Nat
  skip : Bool
  bents : List Nat
  /-- A resident debug handler (R395). -/
  debug : Bool
  /-- Newly placed: its PC is that of the launch segment once it is there (R115). -/
  fresh : Bool
  srStroke : Nat
  /-- PC of the first instruction of the stroke that srStroke names (R178). -/
  srPc : Nat
  progress : Nat
  /-- Kernel slot and PC of the stopped MMA that the crew issues again (R122). -/
  restAt : Option (Nat × Nat)
  /-- The resumed MMA, by its number, from its acceptance until it completes (R122). -/
  resumed : Option Nat
  life : Life
  wait : Wait
  /-- Ready since (R141, R145), in long stall since (R144), last issue, stall base, and the yield bit of the last issue. -/
  ready : Option Nat
  stalled : Option Nat
  flagWait : Option Nat
  lastIssue : Option Nat
  yielded : Bool
  /-- YIELD asked to be swapped out (R155). -/
  yieldOut : Bool
  pends : List Pend
  /-- Strokes in flight, oldest first. -/
  strokes : List Stroke
  squashes : Nat
  /-- The umpire set of the next, held stroke (R224), and whether its reservations are taken. -/
  heldSet : Option (List Nat)
  heldReady : Bool
  /-- Shadow space has been granted for the stroke it begins next (R222). -/
  granted : Bool
  trap : Option Trap
  fault : Option QFault
  /-- The raise for its peer burst has been granted (R376). -/
  burst : Bool
  mma : Option MmaJob
  mmaRun : Option MmaRun
  drain : Option Drain
  /-- The clk at which it reached the order gate (R248). -/
  gateSince : Option Nat
  /-- A cancellation that has reached it: the tree slot (R344). -/
  doomed : Option Nat
  /-- It has been cancelled (R344). -/
  cancelled : Bool
  /-- A stop message has reached it (R118). -/
  stopping : Bool
  /-- The divergence fault to take at the next instruction (R248): the log index. -/
  diverged : Option Nat
  deriving DecidableEq, Repr

/-! ### Kernels -/

/-- Kernel states, with their KQ codes in order (R110, R132). -/
inductive KState where
  | posted | blocked | ready | admitted | placing | running | stopping | stopped | trapped | retired | faulted
  deriving DecidableEq, Repr

/-- A dependence (R109): kernel handle, or watched line address with phase or value. -/
inductive Dep where
  | kernel (handle : Nat)
  | phase (pa p : Nat)
  | value (pa v : Nat)
  deriving DecidableEq, Repr

/-- A bent: affinity and member ranges (R137). -/
structure Bent where
  aff : Bool
  ranges : List (Nat × Nat)
  deriving DecidableEq, Repr

/-- A stamp window (R399): times are sr.clock values. -/
structure Window where
  label : Nat
  seq : Nat
  opened : Nat
  cin : Option Nat
  cinland : Option Nat
  opwait : Nat
  waitFrom : Option Nat
  mstart : Option Nat
  mend : Option Nat
  cout : Option Nat
  coutAny : Bool
  nmma : Nat
  stop : Bool
  early : Bool
  bay : Nat
  closed : Bool
  deriving DecidableEq, Repr

/-- What a kernel keeps for one crew index, through stops and after exit (R120, R246, R295, R327, R399). -/
structure Keep where
  exited : Bool := false
  placed : Bool := false
  /-- The save slot that holds it. -/
  save : Option Nat := none
  savedTrapped : Bool := false
  /-- The tag of a saved crew (R344). -/
  tag : Word := 0
  /-- Trap-handler state of a saved crew, which no save slot holds: handler-active, elected lane, trap kind, skip bit (R177, R393). -/
  handler : Bool := false
  elected : Nat := 0
  cause : Nat := 0
  skip : Bool := false
  /-- What a stop has left of an MMA that its crew had gone past (log 63). -/
  mma : Option MmaJob := none
  /-- The MMA that a saved crew issues again (R122). -/
  restAt : Option (Nat × Nat) := none
  /-- Saved before it was resident: its PC is still to be found (R81; log 94). -/
  fresh : Bool := false
  doomed : Option Nat := none
  /-- Matrix batches closed, and the bound timelines with their first batch (R295). -/
  mcount : Nat := 0
  mbinds : List (Nat × Nat) := []
  /-- Reductions, or engine commands, were issued since the last MBATCH, or BATCH. -/
  mopen : Bool := false
  eopen : Bool := false
  /-- The lowest engine batch with an aborted command (R327). -/
  ebroken : Option Nat := none
  ecount : Nat := 0
  ebinds : List (Nat × Nat) := []
  digest : DWord := 0
  /-- A divergence fault that waits for the crew's return (R248): the log index. -/
  diverged : Option Nat := none
  /-- The bay it was last placed on, and its last sequence number. -/
  bay : Nat := 0
  stroke : Nat := 0
  stamps : Nat := 0
  windows : List Window := []
  /-- Markers of MFENCE: commands and peer accesses that later ones wait for (R242). -/
  engAfter : List Nat := []
  peerAfter : List Nat := []
  deriving DecidableEq, Repr

/-- Who began a stop (R110, R117). -/
inductive StopBy where
  | kstop | cox | suspend
  deriving DecidableEq, Repr

/-- A kernel slot (R23, R107, R110). -/
structure Kernel where
  gen : Nat
  state : KState
  cause : Nat
  /-- The launch record as read at posting. -/
  launch : Nat
  queue : Nat
  ctx : Nat
  /-- Posting order, time of becoming a candidate in ns while it is one, aged, found unfit and logged (R93, R96). -/
  posted : Nat
  candidate : Option Nat
  aged : Bool
  unfit : Bool
  unfitLogged : Bool
  deps : List Dep
  /-- Lines that its barrier dependences watch, met or not (R109, R117). -/
  bars : List Nat
  /-- It has been admitted (R110). -/
  begun : Bool
  /-- The number of its last choice, and the bays planned for it (R112). -/
  attempt : Nat
  plan : List Nat
  /-- Units held on die 0 and die 1 for the admission (R112). -/
  held0 : Nat
  held1 : Nat
  /-- Dies whose grant for the admission is awaited; none when not chosen. -/
  chosen : Option (List Nat)
  nextCrew : Nat
  exited : Nat
  bents : List Bent
  urg : Nat
  knum : Option Nat
  stop : Option StopBy
  /-- The stop message has been sent. -/
  messaged : Bool
  /-- The cause with which it is about to retire before its work is complete (R109, R131). -/
  ending : Option Nat
  /-- Killed or to be retired as killed once a suspension's cut is complete (R81). -/
  killLater : Bool
  /-- The divergence of a replay: no further commit is granted (R248). -/
  barred : Bool
  /-- A digest of one of its crews has not matched (R248). -/
  parted : Bool
  keep : Tbl Keep
  deriving DecidableEq, Repr

/-! ### Bays -/

/-- A TLB entry (R255): context, page address, whether 2 MiB, the leaf. -/
structure TlbEntry where
  ctx : Nat
  va : Nat
  big : Bool
  leaf : Nat
  deriving DecidableEq, Repr

/-- A stash mapping (R262): the kernel slot and stash page that bind it, if any. -/
structure StashMap where
  ctx : Nat
  va : Nat
  pa : Nat
  w : Bool
  owner : Option (Nat × Nat)
  deriving DecidableEq, Repr

/-- A kernel slot of a bay (R123): empty, filling by a fetch, or full with its lines. -/
inductive CodeSlot where
  | empty
  | filling (va lines : Nat) (id : Option Nat)
  | full (va lines : Nat) (words : List Word)
  deriving DecidableEq, Repr

/-- What a bay keeps for a kernel (R113, R115, R123). -/
structure BayKernel where
  level : Nat
  /-- MMAs accepted in the window with this number. -/
  window : Nat
  accepted : Nat
  /-- The window in which a raise for an MMA was refused. -/
  refused : Option Nat
  /-- The number of an open LEAVE request (R133). -/
  openLeave : Option Nat
  /-- Pages and code slots are set aside for it here; the level outlasts them. -/
  here : Bool
  slots : Tbl CodeSlot
  deriving DecidableEq, Repr

/-- A swap in progress (R144): crew going out (if it is still there), crew coming in, position, end. -/
structure Swap where
  out : Option Nat
  inn : Nat
  pos : Nat
  until_ : Nat
  deriving DecidableEq, Repr

/-- One issue side (R141 to R145, R184, R202). -/
structure Side where
  active : List (Option Nat)
  pending : List Nat
  lastPos : Nat
  swap : Option Swap
  /-- The clk after the last pick, 0 before any. -/
  picked : Nat
  fp64 : Nat
  fuLast : Nat
  /-- The clk after the last group was served, 0 before any. -/
  fuServed : Nat
  latch : Option Latch
  /-- Slot last sampled for a context, and the clk of that sample (R400). -/
  sampled : Tbl (Nat × Nat)
  deriving DecidableEq, Repr

/-- A bay (R14). -/
structure Bay where
  side0 : Side
  side1 : Side
  stash : List StashMap
  tlb : List TlbEntry
  kerns : Tbl BayKernel
  /-- The clk at which the pipe is free, the side of the last MMA, the clk after its acceptance. -/
  pipeFree : Nat
  pipeSide : Option Nat
  pipeLast : Nat
  /-- Lines that truss multicast has installed in the stash (R325). -/
  cast : List Nat
  deriving DecidableEq, Repr

/-! ### Work outside the crews -/

/-- An MMA whose flag is held until its reductions are applied (R294). -/
structure MmaFlag where
  id : Nat
  rid : Nat
  flag : Option (Fin 12)
  deriving DecidableEq, Repr

/-- The work of an engine command (R324, R326, R328, R126). -/
inductive CmdKind where
  | copy | gather | scatter | encode
  | cfetch (slot lines : Nat)
  deriving DecidableEq, Repr

/-- Where an engine command stands. -/
inductive CmdStage where
  /-- Released; waits for commands before it (MFENCE.eng) and, above 1 MiB, for leave. -/
  | waiting
  | running
  /-- Paused at an access, in a fault-queue entry (R257). -/
  | faulted
  /-- Paused by a stop (R118). -/
  | paused
  deriving DecidableEq, Repr

/-- An engine command (R322 to R329). -/
structure Cmd where
  id : Nat
  kind : CmdKind
  k : Nat
  crew : Nat
  ctx : Nat
  bay : Nat
  /-- Its descriptor, or for CFETCH the segment address. -/
  desc : Nat
  /-- Its barrier: physical address, or none. -/
  bar : Option Nat
  barVa : Nat
  batch : Nat
  after : List Nat
  leave : Bool
  /-- The engine that serves it, by die and number (R12, R27). -/
  engine : Option (Nat × Nat)
  stage : CmdStage
  /-- Units completed; for an encode the bytes of its output. -/
  done : Nat
  /-- The index list as read at the start (R326), or the bytes of an encode's command block (R329). -/
  list : Option (List Nat)
  aborted : Bool
  /-- A late record of kind 0x051 has been written (R323). -/
  late51 : Bool
  pc : Nat
  /-- The PC and the sequence number that a late record names (R178). -/
  latePc : Nat
  stroke : Nat
  /-- Copy-in or copy-out of a stamp window, by its number (R399). -/
  window : Option (Nat × Bool)
  /-- The ready object of an ENCODE, and the status of one that has started. -/
  ready : Option Nat
  status : Option Nat
  /-- The fault at which it is paused (R257). -/
  fault : Option QFault
  deriving DecidableEq, Repr

/-- Who waits in a fault-queue entry (R257, R372). -/
inductive Waiter where
  | crew (rid : Nat)
  | cmd (id : Nat)
  | peer (n : Nat)
  /-- The reductions in flight to the page (R270). -/
  | reds
  /-- The barrier operations of the device that are held for the copy of a page of a context (R270). -/
  | bars (ctx page : Nat)
  deriving DecidableEq, Repr

/-- A fault-queue entry (R258, R260). -/
structure FqEntry where
  die : Nat
  idx : Nat
  ctx : Nat
  page : Nat
  claimed : Bool
  kind : Nat
  addr : Nat
  kernel : Nat
  crew : Nat
  bay : Nat
  pc : Nat
  waiters : List Waiter
  /-- The waiters that write. -/
  writers : List Waiter
  time : Nat
  deriving DecidableEq, Repr

/-- A fault that waits for a free entry, in order of arrival (R258). -/
structure FqWait where
  die : Nat
  ctx : Nat
  kind : Nat
  addr : Nat
  kernel : Nat
  crew : Nat
  bay : Nat
  pc : Nat
  write : Bool
  who : Waiter
  deriving DecidableEq, Repr

/-- An entry of a context's pin list (R264), with the write permission found at mapping. -/
structure Pin where
  ctx : Nat
  bay : Nat
  va : Nat
  pa : Nat
  w : Bool
  deriving DecidableEq, Repr

/-- A peer access sent and not yet acknowledged (R374, R375). -/
structure PeerOut where
  id : Nat
  k : Nat
  crew : Nat
  ctx : Nat
  bay : Nat
  pkt : Pkt
  /-- Earlier accesses that must be performed first (R242). -/
  after : List Nat
  /-- Payload bytes of a write (R376). -/
  bytes : Nat
  /-- The instruction it belongs to, its PC, and the lowest lane's address (R373). -/
  instr : Nat
  pc : Nat
  stroke : Nat
  addr : Nat
  /-- For XGET: resident crew, and (lane, register, width) of each access. -/
  get : Option (Nat × List (Nat × Nat × Nat))
  /-- For a peer COPY: the command. -/
  cmd : Option Nat
  /-- What its destination has answered, kept until the whole XGET or unit has its answers. -/
  answer : Option PeerStatus
  /-- The late record of its instruction and destination module has been written (R373). -/
  told : Bool
  deriving DecidableEq, Repr

/-- A peer access paused at this module by a translation fault (R372). -/
structure PeerIn where
  n : Nat
  pkt : Pkt
  fault : Option QFault
  deriving DecidableEq, Repr

/-- A barrier operation of the device that is held while its object's page is copied (R270): what names the object, and the operation, or none
for the orphaning of the object. -/
structure HeldBar where
  ctx : Nat
  va : Nat
  pa : Nat
  op : Option BarOp
  deriving DecidableEq, Repr

/-- The last packet of a remote crew that was performed here (R374): its member, epoch there, kernel and crew, and its number. -/
structure PeerSeen where
  src : Nat
  epoch : Nat
  kernel : Nat
  crew : Nat
  id : Nat
  deriving DecidableEq, Repr

/-- What a leave unit asks a raise for (R113, R322, R376): an MMA beyond its allowance, a command of more than 1 MiB, or the peer burst
of a crew. -/
inductive RaiseFor where
  | mma
  | cmd (id : Nat)
  | burst (rid : Nat)
  deriving DecidableEq, Repr

/-- A request to a die's leave governor (R112, R113, R133, R426). -/
inductive GovWhat where
  /-- An admission: kernel slot, number of its choice, units. -/
  | admission (k attempt units : Nat)
  | raise (bay k : Nat) (who : RaiseFor)
  /-- A LEAVE request: bay, kernel slot, its number, the level it asks for and the units that this takes. -/
  | leave (bay k n level units : Nat)
  deriving DecidableEq, Repr

structure GovReq where
  die : Nat
  what : GovWhat
  deriving DecidableEq, Repr

/-- A Plofo message of the module (R102, R103). -/
structure OutMsg where
  typ : Nat
  flags : Nat
  seq : Nat
  ack : Nat
  ctx : Nat
  body : List Byte
  deriving DecidableEq, Repr

/-- The host link (R102 to R106, R430). -/
structure HostLink where
  /-- Next expected host seq, next module seq, highest ack received. -/
  nextIn : Nat
  nextOut : Nat
  acked : Nat
  window : List OutMsg
  waiting : List OutMsg
  lastAdvance : Nat
  inbox : List HostMsg
  sent : List OutMsg
  /-- A host message is owed an ACK (R105). -/
  owesAck : Bool
  dropped : Nat
  peerDropped : Nat
  correctable : Nat
  uncorrectable : Nat
  lastTelem : Nat
  /-- A QUERY has come and no ACK since (R106). -/
  queried : Bool
  deriving DecidableEq, Repr

/-- What the order log and the order gate keep for a context (R245 to R248). -/
structure CtxLog where
  nextKnum : Nat
  logged : Nat
  /-- Digests under 2^24 × knum + crew: in recording of the crews that committed since the last checkpoint, in replay of every
  crew of the replay kernels. -/
  digests : Tbl DWord
  /-- The open run: knum, crew, run, log index. -/
  run : Option (Nat × Nat × Nat × Nat)
  /-- Replay: the index of the commit run in use and its commits so far. -/
  cur : Option (Nat × Nat)
  /-- Kernel numbers of the kernel entries read, in order, and handles of the replay kernels admitted, in order. -/
  knums : List Nat
  rkernels : List Nat
  /-- A divergence to be raised on the first crew to reach the gate: the log index. -/
  diverge : Option Nat
  deriving DecidableEq, Repr

/-- What comes next where the order is open: the issue of a crew, or an event at a place (log 4). -/
inductive Task where
  | issue (rid : Nat)
  | event (p : Place) (i : Instr)
  deriving DecidableEq, Repr

/-- A suspension or destruction in progress (R81, R82). -/
inductive Suspending where
  | suspend | fault | destroy
  deriving DecidableEq, Repr

/-- The state of the module. -/
structure State where
  power : Power
  /-- sr.clock (R13). -/
  clock : Nat
  /-- The order clock (R219). -/
  order : Nat
  mem : Memory
  /-- Lines with an uncorrectable error (R287, R429). -/
  poisoned : List Nat
  /-- (line, kernel) whose dropped reductions have been reported since the line was poisoned (R287). -/
  told : List (Nat × Nat)
  /-- Raw records of the system range that differ from their reset value, under their addresses (SysTab.addr). -/
  sys : Tbl Nat
  /-- The sum regions by entry of the region tables, as the device declared them: what it writes to their entries (R281). -/
  regionTab : Tbl Nat
  /-- The configuration of each context as read at CREATE or RESUME, of each queue at OPEN or RECONF (R74, R87). -/
  ctxCfg : Tbl Nat
  queueCfg : Tbl Nat
  logs : Tbl CtxLog
  suspending : Tbl Suspending
  kernels : Tbl Kernel
  bays : Tbl Bay
  /-- Resident crews by resident id 64 × bay + 32 × side + slot. -/
  crews : Tbl Crew
  reds : List Red
  mmaFlags : List MmaFlag
  cmds : List Cmd
  regns : List Regn
  fq : List FqEntry
  fqWait : List FqWait
  pins : List Pin
  peers : List PeerOut
  peersIn : List PeerIn
  /-- Acknowledgements that this module has sent, the latest last: sender, its access number, what it says (R370, R373). -/
  replies : List (Nat × Nat × PeerStatus)
  /-- The last packet performed of each remote crew (R374). -/
  peersSeen : List PeerSeen
  /-- Barrier operations held for a copy, in order (R270). -/
  heldBars : List HeldBar
  /-- Reachability: missed periods of member m over port p under 64 × m + p (R368). -/
  reach : Tbl Nat
  /-- KV pages at count 0 for the free ring of a context (R345). -/
  kvFree : List (Nat × Nat)
  gov : List GovReq
  answers : List (GovReq × Bool)
  host : HostLink
  /-- The MAC addresses that the Slaeldy controller holds in flash: the module's own, and the host's (R102; log 9). -/
  mac : Nat
  hostMac : Nat
  /-- The last multicast request served on each truss: its clk and its bay (R17). -/
  casts : Tbl (Nat × Nat)
  /-- Comparators that have changed: number, record before, clk of the change (R396). -/
  cmpOld : List (Nat × Nat × Nat)
  /-- Members that this module has declared dead in the present epoch (R368). -/
  declared : List Nat
  /-- Module power in W, junction temperatures and coolant in 0.1 °C (R427, R430; log 9). -/
  watts : Nat
  temp0 : Nat
  temp1 : Nat
  coolant : Nat
  /-- Port timers: last heartbeat or period, retries in the last ms (R367). -/
  portTimes : Tbl Nat
  -- the model's own fields
  /-- Numbers the free values (log 3). -/
  fresh : Nat
  /-- Serial numbers of strokes, waits, commands, posts (log 5). -/
  serial : Nat
  /-- What comes next (log 4). -/
  agenda : List Task
  /-- Where the operation happens: the crew that issues, or the event's place (log 5). -/
  place : Place
  deriving DecidableEq, Repr

/-! ### Reset values -/

/-- A side with no crew. The last issuing position 7 and the last served slot 31 make the first round-robin pick the first
position and the first slot (log 7). -/
def Side.init : Side :=
  ⟨List.replicate 8 none, [], 7, none, 0, 0, 31, 0, none, []⟩

def Bay.init : Bay := ⟨Side.init, Side.init, [], [], [], 0, none, 0, []⟩

def CtxLog.init : CtxLog := ⟨0, 0, [], none, none, [], [], none⟩

/-- A kernel slot that no kernel has used (log 6). -/
def Kernel.init : Kernel :=
  { gen := 0, state := .retired, cause := 0, launch := 0, queue := 0, ctx := 0, posted := 0, candidate := none, aged := false,
    unfit := false, unfitLogged := false, deps := [], bars := [], begun := false, attempt := 0, plan := [], held0 := 0, held1 := 0,
    chosen := none, nextCrew := 0, exited := 0,
    bents := [], urg := 0, knum := none, stop := none, messaged := false, ending := none, killLater := false, barred := false, parted := false, keep := [] }

def BayKernel.init (level : Nat) : BayKernel := ⟨level, 0, 0, none, none, true, []⟩

/-- The host link after reset (R105). -/
def HostLink.init : HostLink := ⟨1, 1, 0, [], [], 0, [], [], false, 0, 0, 0, 0, 0, false⟩

/-- The module right after reset: held in reset, every record at its reset value, no crew, the order clock at 1. -/
def State.reset : State :=
  { power := .reset, clock := 0, order := 1, mem := [], poisoned := [], told := [], sys := [], regionTab := [], ctxCfg := [], queueCfg := [], logs := [],
    suspending := [], kernels := [], bays := [], crews := [], reds := [], mmaFlags := [], cmds := [], regns := [], fq := [],
    fqWait := [], pins := [], peers := [], peersIn := [], replies := [], peersSeen := [], heldBars := [], reach := [], kvFree := [], gov := [], answers := [],
    host := HostLink.init, mac := 0, hostMac := 0, casts := [], cmpOld := [],
    declared := [], watts := 0, temp0 := 0, temp1 := 0, coolant := 0, portTimes := [], fresh := 0, serial := 0,
    agenda := [], place := .none }

end Sys2Proof.Machine
end

