-- ==== Sys2Proof/Machine/Mem.lean ====
section
/-! DEFINITION. Physical memory and the records of the system range as bytes (R7, R20, R73, R250). Numbers are read and written
little-endian. -/

namespace Sys2Proof.Machine

/-- Free choice, and free word, number n of the present step (log 3): n below 2^64. -/
def State.choice (s : State) (n : Nat) : Nat := Config.freeChoice (s.fresh * 2 ^ 64 + n)
def State.openWord (s : State) (n : Nat) : Word := Config.freeWord (s.fresh * 2 ^ 64 + n)

/-- The byte at a physical address of memory proper; an unlisted byte reads 0 (log 2). -/
def Memory.byte (m : Memory) (pa : Nat) : Byte := Tbl.getD m pa 0#8

/-- Write one byte, keeping the canonical form. -/
def Memory.write (m : Memory) (pa : Nat) (v : Byte) : Memory := Tbl.write 0#8 m pa v

/-- The canonical form of memory. -/
def Memory.wf (m : Memory) : Bool := Tbl.canon 0#8 m

/-- The number that bytes spell, the first byte lowest (R7). -/
def ofBytes : List Byte → Nat
  | [] => 0
  | b :: bs => b.toNat + 256 * ofBytes bs

/-- The n low bytes of a number, lowest first (R7). -/
def toBytes : Nat → Nat → List Byte
  | 0, _ => []
  | n + 1, x => BitVec.ofNat 8 x :: toBytes n (x / 256)

/-- Bits hi:lo of a number (R68). -/
def slice (hi lo x : Nat) : Nat := x / 2 ^ lo % 2 ^ (hi + 1 - lo)

/-- An address from its bits 55:0, sign-extended from bit 55 (R107, R323). -/
def sext56 (x : Nat) : Nat := let y := x % 2 ^ 56; if 2 ^ 55 ≤ y then y + (2 ^ 64 - 2 ^ 56) else y

/-- Canonical: bits 63:56 equal bit 55 (R249). -/
def canonical (va : Nat) : Bool := decide (va < 2 ^ 55) || decide (2 ^ 64 - 2 ^ 55 ≤ va)

/-- A canonical address of the peer kind (R249). -/
def isPeer (va : Nat) : Bool := decide (2 ^ 64 - 2 ^ 55 ≤ va)

/-- Physical line of an address (R20). -/
def lineOf (pa : Nat) : Nat := pa / 128

/-- umpire(pa) of R21, by line. -/
def umpireOf (l : Nat) : Nat :=
  (l % 16) ^^^ (l / 2 ^ 4 % 16) ^^^ (l / 2 ^ 8 % 16) ^^^ (l / 2 ^ 12 % 16) ^^^ (l / 2 ^ 16 % 16) ^^^ (l / 2 ^ 20 % 16) ^^^
    (l / 2 ^ 24 % 16) ^^^ (l / 2 ^ 28 % 16)

/-- home_die(pa) of R21. -/
def homeDie (pa : Nat) : Nat := if pa / 2 ^ 36 < 4 then 0 else 1

/-- home_slice(pa) of R21. -/
def homeSlice (pa : Nat) : Nat :=
  let l := lineOf pa
  64 * homeDie pa + ((l % 64) ^^^ (l / 2 ^ 6 % 64) ^^^ (l / 2 ^ 12 % 64) ^^^ (l / 2 ^ 18 % 64) ^^^ (l / 2 ^ 24 % 64) ^^^
    (l / 2 ^ 30 % 4))

/-! ### Records -/

/-- A record of the system range. -/
def State.rcd (s : State) (t : SysTab) (n : Nat) : Nat := s.sys.getD (t.addr n) t.reset

/-- Write a record whole. -/
def State.setRcd (s : State) (t : SysTab) (n v : Nat) : State := { s with sys := Tbl.write t.reset s.sys (t.addr n) v }

/-- A field of a record. -/
def State.fld (s : State) (t : SysTab) (n : Nat) (f : Fld) : Nat := f.get (s.rcd t n)

/-- Write a field of a record. -/
def State.setFld (s : State) (t : SysTab) (n : Nat) (f : Fld) (v : Nat) : State := s.setRcd t n (f.set (s.rcd t n) v)

/-- A field of a context's configuration, as read at CREATE or RESUME (R74). -/
def State.cfg (s : State) (ctx : Nat) (f : Fld) : Nat := f.get (s.ctxCfg.getD ctx 0)

/-- A field of a queue's configuration, as read at OPEN or RECONF (R87). -/
def State.qcfg (s : State) (q : Nat) (f : Fld) : Nat := f.get (s.queueCfg.getD q 0)

/-- What a byte of the system range reads as: a byte of its record, 0 where no record lies. -/
def State.sysByte (s : State) (pa : Nat) : Byte :=
  match sysAt pa with
  | some (t, n, k) => BitVec.ofNat 8 (s.rcd t n / 256 ^ k)
  | none => 0#8

/-- The byte at a physical address. -/
def State.byte (s : State) (pa : Nat) : Byte := if inSys pa then s.sysByte pa else Memory.byte s.mem pa

/-- n bytes from a physical address. -/
def State.bytes (s : State) : Nat → Nat → List Byte
  | 0, _ => []
  | n + 1, pa => s.byte pa :: s.bytes n (pa + 1)

/-- The number in n bytes. -/
def State.num (s : State) (pa n : Nat) : Nat := ofBytes (s.bytes n pa)

/-! ### Writes -/

/-- Write bytes to memory proper. -/
def Memory.writes (m : Memory) : Nat → List Byte → Memory
  | _, [] => m
  | pa, b :: bs => Memory.writes (m.write pa b) (pa + 1) bs

/-- Put a step last on the agenda. -/
def State.post (s : State) (p : Place) (i : Instr) : State := { s with agenda := s.agenda ++ [.event p i] }

/-- Put a step first on the agenda. -/
def State.postFirst (s : State) (p : Place) (i : Instr) : State := { s with agenda := .event p i :: s.agenda }

/-- The command event of a context command code (R77, R78). -/
def ctxCmd (c : Nat) : Instr :=
  if c = 1 then .ctxCreate else if c = 2 then .ctxActivate else if c = 3 then .ctxSuspend else if c = 4 then .ctxResume
  else if c = 5 then .ctxDestroy else if c = 6 then .ctxClear else .unknownCommand

/-- The command event of a queue command code (R90, R91). -/
def queueCmd (c : Nat) : Instr :=
  if c = 1 then .queueOpen else if c = 2 then .queueHold else if c = 3 then .queueRelease else if c = 4 then .queueFlush
  else if c = 5 then .queueClose else if c = 6 then .queueReconf else .unknownCommand

/-- What follows a software write that took a record from old to new, v being the bytes given at the record's byte offsets
(R76, R95, R366, R369, R425): the commands and changes it starts. -/
def State.sysEffect (s : State) (t : SysTab) (n old new cmd : Nat) : State :=
  match t with
  | .context => if cmd = 0 then s else s.post (.ctx n) (ctxCmd cmd)
  | .queue => if cmd = 0 then s else s.post (.queue n) (queueCmd cmd)
  | .cox => if Cox.rsv.get old = Cox.rsv.get new then s else s.post (.rsv (BitVec.ofNat 64 new)) .rsvWrite
  | .power =>
    let v := max 2400 (min 4800 (Pwr.plimit.get new))
    let s := s.setFld .power 0 Pwr.plimit v
    if Pwr.plimit.get old = v then s else s.post (.plimit (BitVec.ofNat 13 v)) .plimitWrite
  | .port =>
    if Port.en.get old = Port.en.get new then s
    else if Port.en.get new = 1 then s.post (.port n) .portEnSet else s.post (.port n) .portEnClear
  | .member =>
    -- system software writes 00 or 01 only (R369)
    let s := if 2 ≤ Mem.state.get new then s.setFld .member n Mem.state (Mem.state.get old) else s
    if Mem.state.get old = Mem.state.get new then s else s.post (.beat 0 n) .heartbeatPeriodMissed
  | .link =>
    -- a declaration stays in force until the epoch changes (R368); the members' periods are counted afresh (log 83)
    if Lnk.epoch.get old = Lnk.epoch.get new then s
    else { s with declared := [], reach := s.reach.filter (fun (p : Nat × Nat) => !s.declared.contains (p.1 / 64)) }
  | .pool | .shape | .exports | .comparator | .debug | .region | .tree | .count => s

/-- A software write of bytes within one record: its RW bits change, and what follows from it (R8, R9, R73). -/
def State.sysWriteRec (s : State) (t : SysTab) (n k : Nat) (bs : List Byte) : State :=
  let old := s.rcd t n
  let given := ofBytes bs * 256 ^ k
  let m := t.rwMask &&& ((2 ^ (8 * bs.length) - 1) * 256 ^ k)
  let new := (old ^^^ (old &&& m)) ||| (given &&& m)
  let cmd :=
    match t with
    | .context => if k ≤ 120 ∧ 120 < k + bs.length then given / 2 ^ 960 % 256 else 0
    | .queue => if k ≤ 56 ∧ 56 < k + bs.length then given / 2 ^ 448 % 256 else 0
    | _ => 0
  (s.setRcd t n new).sysEffect t n old new cmd

/-- A software write to the system range; fuel is the number of bytes. Bytes of no record are ignored. -/
def State.sysWrite (s : State) : Nat → Nat → List Byte → State
  | 0, _, _ => s
  | _, _, [] => s
  | f + 1, pa, bs =>
    match sysAt pa with
    | some (t, n, k) =>
      let here := bs.take (t.bytes - k)
      State.sysWrite (s.sysWriteRec t n k here) f (pa + here.length) (bs.drop here.length)
    | none => State.sysWrite s f (pa + 1) (bs.drop 1)

/-- Write bytes at a physical address, as software and engines do. One access lies within the system range or outside it. -/
def State.write (s : State) (pa : Nat) (bs : List Byte) : State :=
  if inSys pa then s.sysWrite bs.length pa bs else { s with mem := Memory.writes s.mem pa bs }

/-- Write a number of n bytes. -/
def State.writeNum (s : State) (pa n v : Nat) : State := s.write pa (toBytes n v)

end Sys2Proof.Machine
end

