-- ==== Sys2Proof/Machine/Operands.lean ====
section
/-! DEFINITION. Operand forms: lanes, registers, pairs and groups, immediates, uniform values and results as register cells
(R58 to R60, R134, R182, R183). A cell is register r of lane l under the key 32 × r + l. -/

namespace Sys2Proof.Machine

/-- The lanes of a mask, ascending. -/
def lanesOf (m : LaneMask) : List Nat := (List.range 32).filter (fun l => m.getLsbD l)

/-- The mask of a list of lanes. -/
def maskOf (ls : List Nat) : LaneMask := ls.foldl (fun m l => m ||| (1#32 <<< l)) 0#32

/-- Register r of lane l. -/
def Crew.reg (c : Crew) (r l : Nat) : Word := c.regs.getD (32 * r + l) 0#32

/-- n consecutive registers of lane l as one number, the first lowest. -/
def Crew.group (c : Crew) : Nat → Nat → Nat → Nat
  | 0, _, _ => 0
  | n + 1, r, l => (c.reg r l).toNat + 2 ^ 32 * c.group n (r + 1) l

/-- An operand of n registers in lane l. -/
def Crew.val (c : Crew) (n : Nat) (r : Reg) (l : Nat) : Nat := c.group n r.toNat l

/-- v(r) and v64(r) (R68). -/
def Crew.v32 (c : Crew) (r : Reg) (l : Nat) : Nat := c.val 1 r l
def Crew.v64 (c : Crew) (r : Reg) (l : Nat) : Nat := c.val 2 r l

/-- The active lanes (R150). -/
def Crew.active (c : Crew) : List Nat := lanesOf c.em

/-- The predicate test of a lane (R59). -/
def Crew.passes (c : Crew) (p : Pred) (l : Nat) : Bool :=
  match p with
  | .always => true
  | .nonzero r => decide (c.v32 r l ≠ 0)
  | .zero r => decide (c.v32 r l = 0)

/-- The lanes in which an instruction with P = L acts: active and passing the predicate (R59). -/
def Crew.acting (c : Crew) (p : Pred) : List Nat := c.active.filter (c.passes p)

/-- Equal in every lane (R68). -/
def uniform : List Nat → Bool
  | [] => true
  | x :: xs => xs.all (fun y => decide (y = x))

/-- A register operand of n registers is equal in every active lane. -/
def Crew.uni (c : Crew) (n : Nat) (r : Reg) : Bool := uniform (c.active.map (c.val n r))

/-- The lowest active lane, or lane 0 when em is empty (R171). -/
def Crew.low (c : Crew) : Nat := c.active.headD 0

/-- A uniform operand's value, or lane 0's when em is empty. -/
def Crew.uval (c : Crew) (n : Nat) (r : Reg) : Nat := c.val n r c.low

/-- Operand b under immediate code b in lane l, for an operand of type t; wide is false where it is a count, a field word or a
32-bit operand (R183). -/
def Crew.src (c : Crew) (t : Ty) (wide : Bool) (b : Src) (l : Nat) : Nat :=
  match b with
  | .reg r => c.val (if wide then t.regs else 1) r l
  | .imm v => if wide && t == .i64 then (v.signExtend 64).toNat else v.toNat

/-- The cells of a result of n registers in lane l. -/
def cellsAt : Nat → Nat → Nat → Nat → List (Nat × Word)
  | 0, _, _, _ => []
  | n + 1, r, l, v => (32 * r + l, BitVec.ofNat 32 v) :: cellsAt n (r + 1) l (v / 2 ^ 32)

/-- The cells of a result computed in each of some lanes. -/
def cellsIn (ls : List Nat) (n : Nat) (d : Reg) (f : Nat → Nat) : List (Nat × Word) :=
  ls.flatMap (fun l => cellsAt n d.toNat l (f l))

/-- Offset of a memory operand: v64(a) + offset modulo 2^64 (R235). -/
def Crew.addr (c : Crew) (a : Reg) (off : Word) (l : Nat) : Nat := (c.v64 a l + (off.signExtend 64).toNat) % 2 ^ 64

/-- The control fields and encoding of a crew instruction. -/
def instrCtl (i : Instr) : Option Ctl := (enc i).map Prod.fst

/-- Register blocks that the destination of an encoding names (R213). -/
def blocksFrom : Nat → Nat → List Nat
  | 0, _ => []
  | n + 1, r => r / 8 :: blocksFrom n (r + 1)

def encBlocks (e : Enc) : List Nat :=
  match e.d with
  | some (r, n) => (blocksFrom n r.toNat).dedup
  | none => []

end Sys2Proof.Machine
end

