-- ==== Sys2Proof/Machine/Flags.lean ====
section
/-! DEFINITION. Completion flags and the landing of results (R57, R148, R149, R210). -/

namespace Sys2Proof.Machine

/-- Set a completion flag. -/
def Crew.setFlag (c : Crew) (f : Option (Fin 12)) : Crew :=
  match f with
  | some f => { c with flags := c.flags ||| (1#12 <<< f.val) }
  | none => c

/-- Clear a completion flag. -/
def Crew.clearFlag (c : Crew) (f : Option (Fin 12)) : Crew :=
  match f with
  | some f => { c with flags := c.flags &&& ~~~(1#12 <<< f.val) }
  | none => c

/-- Write cells into a register file. -/
def writeCells (t : Tbl Word) (cs : List (Nat × Word)) : Tbl Word :=
  cs.foldl (fun t p => Tbl.write 0#32 t p.1 p.2) t

/-- Results that do not depend on a squash of a later stroke also stand in that stroke's restore point. -/
def Stroke.landed (serial : Nat) (cs : List (Nat × Word)) (row : Option Bool) (st : Stroke) : Stroke :=
  if serial < st.serial then
    { st with snap := { st.snap with regs := writeCells st.snap.regs cs, rowEmpty := row.getD st.snap.rowEmpty } }
  else st

/-- Mark as racing the cells that other outstanding results also write (R148). -/
def Pend.raced (keys : List Nat) (p : Pend) : Pend :=
  { p with race := p.race ++ (p.cells.map Prod.fst).filter (fun k => keys.contains k) }

/-- Write cells for an instruction with the given stroke serial: the registers, the restore points of later strokes, and the race
marks of the results still outstanding. -/
def Crew.writeNow (c : Crew) (serial : Nat) (cs : List (Nat × Word)) (row : Option Bool) : Crew :=
  { c with
    regs := writeCells c.regs cs
    rowEmpty := row.getD c.rowEmpty
    strokes := c.strokes.map (Stroke.landed serial cs row)
    pends := c.pends.map (Pend.raced (cs.map Prod.fst)) }

/-- Remove the entry at an index. -/
def dropAt {α : Type} : Nat → List α → List α
  | _, [] => []
  | 0, _ :: t => t
  | n + 1, x :: t => x :: dropAt n t

/-- Whether lane keys of a mask include a cell's lane. -/
def laneIn (m : LaneMask) (key : Nat) : Bool := m.getLsbD (key % 32)

/-- Land the cells of result number i in the lanes of a mask. A cell in which another write that was outstanding with this one has
landed keeps either value, by free choice (R148). The flag clears with the last cell (R57). -/
def Crew.land (c : Crew) (i : Nat) (lanes : LaneMask) (fresh : Nat) : Crew :=
  match c.pends[i]? with
  | none => c
  | some p =>
    let now := p.cells.filter (fun q => laneIn lanes q.1)
    let later := p.cells.filter (fun q => !laneIn lanes q.1)
    let keep := now.filter (fun q => !(p.race.contains q.1) || Config.freeChoice (fresh * 2 ^ 64 + q.1) % 2 = 0)
    let row := if later.isEmpty then p.rowEmpty else none
    if later.isEmpty then
      ({ c with pends := dropAt i c.pends }.writeNow p.serial keep row).clearFlag p.flag
    else
      let c := { c with pends := dropAt i c.pends }.writeNow p.serial keep row
      { c with pends := c.pends.take i ++ { p with cells := later } :: c.pends.drop i }

/-- Land every cell of the results that a test selects, first issued first; fuel is their number. -/
def Crew.landWhere (sel : Pend → Bool) (fresh : Nat) : Nat → Crew → Crew
  | 0, c => c
  | f + 1, c =>
    match c.pends.findIdx? sel with
    | some i => Crew.landWhere sel fresh f (c.land i 0xFFFF_FFFF#32 fresh)
    | none => c

/-- Land every result that a test selects. -/
def Crew.landAll (c : Crew) (sel : Pend → Bool) (fresh : Nat) : Crew := Crew.landWhere sel fresh c.pends.length c

/-- Issue a result: it is outstanding until it lands; a result of no cell is written at once, and a function-unit instruction of no lane
has none. -/
def Crew.issueResult (c : Crew) (p : Pend) : Crew :=
  if p.cells.isEmpty && p.rowEmpty.isNone && p.fu.all (fun f => f.groups.isEmpty) then c
  else { c with pends := c.pends ++ [p] }.setFlag p.flag

end Sys2Proof.Machine
end

