-- ==== Sys2Proof/Machine/Xlat.lean ====
section
/-! DEFINITION. Translation: page-table walks, TLBs, stash mappings and the checks of an access (R249 to R256, R262, R264). -/

namespace Sys2Proof.Machine

/-! ### Bays and kernels -/

def State.bay (s : State) (b : Nat) : Bay := s.bays.getD b Bay.init
def State.setBay (s : State) (b : Nat) (f : Bay → Bay) : State := { s with bays := s.bays.set b (f (s.bay b)) }
def State.kern (s : State) (k : Nat) : Kernel := s.kernels.getD k Kernel.init
def State.setKern (s : State) (k : Nat) (f : Kernel → Kernel) : State := { s with kernels := s.kernels.set k (f (s.kern k)) }
def State.setCrew (s : State) (rid : Nat) (f : Crew → Crew) : State := { s with crews := s.crews.modify rid f }
def Kernel.keepOf (k : Kernel) (i : Nat) : Keep := k.keep.getD i {}
def Kernel.setKeep (k : Kernel) (i : Nat) (f : Keep → Keep) : Kernel := { k with keep := k.keep.set i (f (k.keepOf i)) }

/-- The parts of a resident id (R85). -/
def ridBay (rid : Nat) : Nat := rid / 64
def ridSide (rid : Nat) : Nat := rid / 32 % 2
def ridSlot (rid : Nat) : Nat := rid % 32

/-- A bay's number in the layout of R18, from its dense index. -/
def bayCode (b : Nat) : Nat := b / 224 * 256 + b % 224

/-- The die of a bay. -/
def dieOf (b : Nat) : Nat := b / 224

/-- The truss of a bay, 0 to 27: die × 14 + truss. -/
def trussOf (b : Nat) : Nat := b / 16

/-- A kernel's handle (R23). -/
def State.handle (s : State) (k : Nat) : Nat := (s.kern k).gen * 2 ^ 14 + k

def Crew.ctx (c : Crew) (s : State) : Nat := (s.kern c.kernel).ctx

/-! ### Page tables -/

namespace Pte
def v (e : Nat) : Bool := e.testBit 0
def l (e : Nat) : Bool := e.testBit 1
def w (e : Nat) : Bool := e.testBit 2
def x (e : Nat) : Bool := e.testBit 3
def m (e : Nat) : Bool := e.testBit 4
def kv (e : Nat) : Bool := e.testBit 5
def c (e : Nat) : Bool := e.testBit 6
end Pte

/-- Index of a level (R251). -/
def pteIndex (level va : Nat) : Nat :=
  match level with
  | 0 => slice 54 44 va
  | 1 => slice 43 32 va
  | 2 => slice 31 21 va
  | _ => slice 20 16 va

/-- Alignment of the table that an entry of a level names (R251). -/
def nextAlign (level : Nat) : Nat :=
  match level with
  | 0 => 32768
  | 1 => 16384
  | _ => 256

/-- reserved(e, level) of R253, for an entry with V = 1. -/
def pteReserved (ctx level e : Nat) : Bool :=
  let leaf := Pte.l e
  decide (slice 63 39 e ≠ 0) || decide (slice 7 7 e ≠ 0) || (leaf && decide (level ≤ 1)) || (!leaf && decide (3 ≤ level)) ||
  (if leaf then
    (Pte.kv e && decide (level = 2)) || (decide (level = 2) && decide (slice 20 8 e ≠ 0)) ||
    (decide (level = 3) && decide (slice 15 8 e ≠ 0)) || (Pte.m e && Pte.kv e) ||
    (decide (ctx ≠ 0) && inSys (slice 38 16 e * 2 ^ 16))
  else decide (slice 6 2 e ≠ 0) || decide (slice 38 8 e * 2 ^ 8 % nextAlign level ≠ 0))

/-- What a walk finds. -/
inductive Walked where
  | absent
  /-- A context fault with its cause (R80). -/
  | bad (cause : Nat)
  /-- A leaf, where it lies, and whether it maps 2 MiB. -/
  | leaf (e ea : Nat) (big : Bool)
  deriving DecidableEq, Repr

/-- The levels of a walk from a table at t (R253). -/
def State.walkFrom (s : State) (ctx va : Nat) : List Nat → Nat → Walked
  | [], _ => .absent
  | level :: rest, t =>
    let ea := t + 8 * pteIndex level va
    if s.poisoned.contains (lineOf ea) then .bad 4
    else
      let e := s.num ea 8
      if !Pte.v e then .absent
      else if pteReserved ctx level e then .bad 3
      else if Pte.l e then .leaf e ea (decide (level = 2))
      else s.walkFrom ctx va rest (slice 38 8 e * 2 ^ 8)

/-- The walk of a local address in a context's tables (R251, R253). -/
def State.walk (s : State) (ctx va : Nat) : Walked :=
  s.walkFrom ctx va [0, 1, 2, 3] (s.cfg ctx Ctx.ptroot / 4 * 4 * 2 ^ 12)

/-- The physical address that a leaf gives. -/
def leafPa (e : Nat) (big : Bool) (va : Nat) : Nat :=
  if big then slice 38 21 e * 2 ^ 21 + va % 2 ^ 21 else slice 38 16 e * 2 ^ 16 + va % 2 ^ 16

/-! ### Access -/

/-- What an access needs (R254). -/
inductive Need where
  | read | write | fetch
  deriving DecidableEq, Repr

/-- A translated access: its physical address, the leaf it rests on, whether it is through a stash mapping and whether that
mapping is pinned to the context on the bay, and whether it missed the TLB. -/
structure Hit where
  pa : Nat
  leaf : Nat
  stash : Bool
  pinned : Bool
  miss : Bool
  deriving DecidableEq, Repr

inductive Xlat where
  | ok (h : Hit)
  /-- A queued translation fault (R259), and the copy it waits for (R268, R270): 0 none, 1 shared KV page, 2 checkpoint copy. -/
  | fault (kind copy : Nat)
  | bad (cause : Nat)
  deriving DecidableEq, Repr

/-- Reference count of the 64 KiB page of a physical address (R265). -/
def State.count (s : State) (pa : Nat) : Nat := s.rcd .count (pa / 2 ^ 16)

/-- The checks of R254, R268 and R270 on a leaf. -/
def State.permit (s : State) (need : Need) (e pa : Nat) (h : Hit) : Xlat :=
  match need with
  | .read => .ok h
  | .fetch => if Pte.x e then .ok h else .fault 0x033 0
  | .write =>
    if !Pte.w e then .fault 0x031 0
    else if Pte.c e then .fault 0 2
    else if Pte.kv e && decide (2 ≤ s.count pa) then .fault 0 1
    else .ok h

/-- Translation by a walk alone, as an engine's, a ring's and the fetch of a segment (R254, R431). -/
def State.xlatWalk (s : State) (ctx va : Nat) (need : Need) : Xlat :=
  match s.walk ctx va with
  | .absent => .fault 0x030 0
  | .bad c => .bad c
  | .leaf e _ big => s.permit need e (leafPa e big va) ⟨leafPa e big va, e, false, false, false⟩

/-- The stash mapping of an address on a bay (R262). -/
def State.stashOf (s : State) (b ctx va : Nat) : Option StashMap :=
  (s.bay b).stash.find? (fun m => decide (m.ctx = ctx) && decide (m.va = va / 4096 * 4096))

/-- A page is on the pin list of a context for a bay (R264). -/
def State.pinOf (s : State) (ctx b va : Nat) : Option Pin :=
  s.pins.find? (fun p => decide (p.ctx = ctx) && decide (p.bay = b) && decide (p.va = va / 4096 * 4096))

/-- The TLB entry of an address on a bay (R255). -/
def State.tlbOf (s : State) (b ctx va : Nat) : Option TlbEntry :=
  (s.bay b).tlb.find? (fun t => decide (t.ctx = ctx) &&
    decide (t.va = (if t.big then va / 2 ^ 21 * 2 ^ 21 else va / 2 ^ 16 * 2 ^ 16)))

/-- A write through a stash mapping whose backing page is marked for a checkpoint copy is held for it (R270). -/
def State.backingC (s : State) (ctx va : Nat) : Bool :=
  match s.walk ctx va with
  | .leaf e _ _ => Pte.c e
  | _ => false

/-- Translation of a crew's access on its bay (R254, R255, R256, R262). Where the bay's TLB holds an entry that differs from the
tables, either is used, by free choice. -/
def State.xlat (s : State) (b ctx va : Nat) (need : Need) : Xlat :=
  match s.stashOf b ctx va with
  | some m =>
    let h : Hit := ⟨m.pa + va % 4096, 0, true, (s.pinOf ctx b va).isSome, false⟩
    if need = .write && !m.w then .fault 0x031 0
    else if need = .write && s.backingC ctx va then .fault 0 2
    else if need = .fetch then s.xlatWalk ctx va need
    else .ok h
  | none =>
    match s.pinOf ctx b va with
    -- a pinned page that is not resident refills on first touch, from its recorded backing (R264): the miss brings the frame
    | some p =>
      if need = .write && !p.w then .fault 0x031 0
      else if need = .write && s.backingC ctx va then .fault 0 2
      else if need = .fetch then s.xlatWalk ctx va need
      else .ok ⟨p.pa + va % 4096, 0, true, true, true⟩
    | none =>
      match s.tlbOf b ctx va with
      | some t =>
        if s.choice (2 ^ 60 + va / 2 ^ 16) % 2 = 0 then
          let pa := leafPa t.leaf t.big va
          s.permit need t.leaf pa ⟨pa, t.leaf, false, false, false⟩
        else s.xlatWalk ctx va need
      | none =>
        match s.xlatWalk ctx va need with
        | .ok h => .ok { h with miss := true }
        | x => x

/-- Invalidate a page of a context on every bay: its TLB entries of either size (R256). -/
def State.tlbDrop (s : State) (ctx va : Nat) : State :=
  { s with bays := s.bays.map (fun p => (p.1, { p.2 with tlb := p.2.tlb.filter (fun t =>
      !(decide (t.ctx = ctx) && decide (t.va = (if t.big then va / 2 ^ 21 * 2 ^ 21 else va / 2 ^ 16 * 2 ^ 16)))) })) }

/-- Invalidate a page of a context: TLB entries of either size and unpinned stash mappings of the 64 KiB page (R256, R275). -/
def State.pageDrop (s : State) (ctx va : Nat) : State :=
  let s := s.tlbDrop ctx va
  { s with bays := s.bays.map (fun p => (p.1, { p.2 with stash := p.2.stash.filter (fun m =>
      !(decide (m.ctx = ctx) && decide (m.va / 2 ^ 16 = va / 2 ^ 16) && (s.pinOf ctx p.1 m.va).isNone)) })) }

/-! ### Frames with reductions in flight (R263) -/

/-- A reduction is in flight to the 4 KiB frame at a physical address (R263). -/
def State.frameBusy (s : State) (pa : Nat) : Bool := s.reds.any (fun r => decide (r.pa / 4096 = pa / 4096))

/-- Frames that neither a kernel nor a pin holds are released once no reduction to them is in flight (R263). -/
def State.sweepStash (s : State) : State :=
  { s with bays := s.bays.map (fun p => (p.1, { p.2 with stash := p.2.stash.filter (fun m =>
      m.owner.isSome || (s.pinOf m.ctx p.1 m.va).isSome || s.frameBusy m.pa) })) }

end Sys2Proof.Machine
end

