-- ==== Sys2Proof/Machine/Code.lean ====
section
/-! DEFINITION. Code in kernel slots: fetch lines, headers and the way a PC goes (R50 to R54, R123). A segment is its 32-bit words,
32 of them a line. -/

namespace Sys2Proof.Machine

/-- Word g of a segment. -/
def segWord (ws : List Word) (g : Nat) : Word := (ws[g]?).getD 0#32

/-- The start and target marks of granule g (g mod 32 from 2 to 31) (R51). -/
def startAt (ws : List Word) (g : Nat) : Bool :=
  decide (2 ≤ g % 32) && (segWord ws (g / 32 * 32)).getLsbD (g % 32 - 2)
def targetAt (ws : List Word) (g : Nat) : Bool :=
  decide (2 ≤ g % 32) && (segWord ws (g / 32 * 32 + 1)).getLsbD (g % 32 - 2)

/-- Granules of the instruction whose first word is w; none where bits 1:0 are 11 (R50). -/
def granOf (w : Word) : Option Nat :=
  match (w.toNat % 4) with
  | 0 => some 2
  | 1 => some 3
  | 2 => some 4
  | _ => none

/-- An instruction at granule g meets the second and third conditions of R52: it ends before the next marked granule, before the
end of the line and within its 32 bytes. -/
def fitsAt (ws : List Word) (g : Nat) : Bool :=
  match granOf (segWord ws g) with
  | none => true
  | some n =>
    decide (g / 8 = (g + n - 1) / 8) && ((List.range (n - 1)).all (fun j => !startAt ws (g + 1 + j)))

/-- A line is well formed (R52). -/
def lineOk (ws : List Word) (line : Nat) : Bool :=
  let h0 := (segWord ws (32 * line)).toNat
  let h1 := (segWord ws (32 * line + 1)).toNat
  decide (h1 / 2 ^ 30 = 1) && decide (h0 / 2 ^ 30 = 0) && decide (h1 % 2 ^ 30 &&& (2 ^ 30 - 1 - h0 % 2 ^ 30) = 0) &&
    ((List.range 30).all (fun j => !startAt ws (32 * line + 2 + j) || fitsAt ws (32 * line + 2 + j)))

/-- The first start-marked granule of a line. -/
def firstOf (ws : List Word) (line : Nat) : Option Nat :=
  ((List.range 30).map (fun j => 32 * line + 2 + j)).find? (startAt ws)

/-- The first start-marked granule of the lines from one on; fuel is the number of lines left. -/
def firstFrom (ws : List Word) : Nat → Nat → Option Nat
  | 0, _ => none
  | f + 1, line =>
    match firstOf ws line with
    | some g => some g
    | none => firstFrom ws f (line + 1)

/-- The byte offset of the instruction that follows the one at granule g, in a segment of so many lines; the segment's length where
there is none (R53). -/
def nextOff (ws : List Word) (lines g : Nat) : Nat :=
  let line := g / 32
  match ((List.range 30).map (fun j => 32 * line + 2 + j)).find? (fun h => decide (g < h) && startAt ws h) with
  | some h => 4 * h
  | none =>
    match firstFrom ws (lines - line - 1) (line + 1) with
    | some h => 4 * h
    | none => 128 * lines

/-- A byte offset is a marked branch target of a segment (R54). -/
def isTarget (ws : List Word) (lines off : Nat) : Bool :=
  decide (off % 4 = 0) && decide (off < 128 * lines) && targetAt ws (off / 4)

/-- A kernel slot of a kernel on a bay (R123). -/
def State.codeSlot (s : State) (b k n : Nat) : CodeSlot :=
  match (s.bay b).kerns.get? k with
  | some bk => bk.slots.getD n .empty
  | none => .empty

/-- The words and lines of a full slot. -/
def CodeSlot.code? : CodeSlot → Option (List Word × Nat)
  | .full _ lines ws => some (ws, lines)
  | .filling .. => none
  | .empty => none

/-- The code of a crew's current slot. -/
def State.codeOf (s : State) (rid : Nat) (c : Crew) : Option (List Word × Nat) :=
  (s.codeSlot (ridBay rid) c.kernel c.slot).code?

/-- The byte offset of the instruction after a crew's present one (R53). -/
def State.nextPc (s : State) (rid : Nat) (c : Crew) : Nat :=
  match s.codeOf rid c with
  | some (ws, lines) => nextOff ws lines (c.pc / 4)
  | none => c.pc

/-- The bits of the instruction at a crew's PC, four granules of which those past its length are not judged. -/
def fetchBits (ws : List Word) (g : Nat) : BitVec 128 :=
  segWord ws (g + 3) ++ segWord ws (g + 2) ++ segWord ws (g + 1) ++ segWord ws g

end Sys2Proof.Machine
end

