-- ==== Sys2Proof/Machine/Range.lean ====
section
/-! DEFINITION. Ranges of virtual memory that one operation reads or writes piece by piece. -/

namespace Sys2Proof.Machine

/-- A range of n bytes cut at 4 KiB boundaries; fuel bounds the number of pieces. -/
def piecesOf : Nat → Nat → Nat → List (Nat × Nat)
  | 0, _, _ => []
  | f + 1, va, n =>
    if n = 0 then []
    else
      let m := min n (4096 - va % 4096)
      (va, m) :: piecesOf f (va + m) (n - m)

/-- A range of n bytes cut at 4 KiB boundaries. -/
def pieces (va n : Nat) : List (Nat × Nat) := piecesOf (n / 4096 + 2) va n

/-- What the translation of a range finds: its pieces with their physical addresses and leaves, or the first piece that fails. -/
inductive Reach where
  | ok (l : List (Nat × Hit × Nat))
  | fault (kind copy va : Nat)
  | bad (cause : Nat)
  deriving DecidableEq, Repr

/-- Translate pieces in ascending order. -/
def reachOf (x : Nat → Xlat) : List (Nat × Nat) → Reach
  | [] => .ok []
  | (va, n) :: rest =>
    match x va with
    | .bad c => .bad c
    | .fault kind copy => .fault kind copy va
    | .ok h =>
      match reachOf x rest with
      | .ok l => .ok ((va, h, n) :: l)
      | .fault kind copy va => .fault kind copy va
      | .bad c => .bad c

/-- The bytes of translated pieces. -/
def State.readPieces (s : State) (l : List (Nat × Hit × Nat)) : List Byte := l.flatMap (fun p => s.bytes p.2.2 p.2.1.pa)

/-- Write bytes to translated pieces, as far as they go. -/
def State.writePieces : State → List (Nat × Hit × Nat) → List Byte → State
  | s, [], _ => s
  | s, p :: rest, bs => (s.write p.2.1.pa (bs.take p.2.2)).writePieces rest (bs.drop p.2.2)

/-- The address of a range that no context's local space holds: a peer or non-canonical byte. -/
def outside (va n : Nat) : Bool := !canonical va || isPeer va || decide (2 ^ 55 < va + n)

end Sys2Proof.Machine
end

