-- ==== Sys2Proof/Machine/Pool.lean ====
section
/-! DEFINITION. Rings and the page copies: ring slots (R431), the supply and snapshot rings of a page pool (R266), reference counts
(R265), and the copies of a shared KV page and of a page marked for a checkpoint (R268, R270). -/

namespace Sys2Proof.Machine

/-- A context fault is to be raised (R80). -/
def State.ctxFault (s : State) (ctx cause : Nat) : State := s.post (.ctxCause ctx cause) .contextFault

/-- The slot of a ring, translated as an engine access (R431): its physical address, or the cause of a context fault, or neither. -/
inductive Slot where
  | ok (pa : Nat)
  | none
  | bad (cause : Nat)
  deriving DecidableEq, Repr

def State.ringSlot (s : State) (ctx va : Nat) (need : Need) : Slot :=
  if isPeer va || !canonical va then .none
  else
    match s.xlatWalk ctx va need with
    | .ok h => .ok h.pa
    | .fault _ _ => .none
    | .bad c => .bad c

/-- Entries in a ring: put − get modulo 2^32. -/
def ringUsed (put get : Nat) : Nat := (put + 2 ^ 32 - get) % 2 ^ 32

/-- A counter that saturates at 65,535. -/
def sat16 (n : Nat) : Nat := min n 65535

/-! ### The rings of a page pool (R266) -/

/-- A ring's virtual base and capacity. -/
structure Ring where
  va : Nat
  cap : Nat
  deriving DecidableEq, Repr

def State.supRing (s : State) (ctx : Nat) : Ring :=
  ⟨s.fld .pool ctx Pool.supva * 2 ^ 12, 4096 * 2 ^ s.fld .pool ctx Pool.supsz⟩
def State.freRing (s : State) (ctx : Nat) : Ring :=
  ⟨s.fld .pool ctx Pool.freva * 2 ^ 12, 4096 * 2 ^ s.fld .pool ctx Pool.fresz⟩
def State.snpRing (s : State) (ctx : Nat) : Ring :=
  ⟨s.fld .pool ctx Pool.snpva * 2 ^ 12, 4096 * 2 ^ s.fld .pool ctx Pool.snpsz⟩

/-- A supply entry is well formed: a 64 KiB page address outside the system range (R266). -/
def supplyOk (e : Nat) : Bool := decide (slice 63 39 e = 0) && decide (slice 15 0 e = 0) && !inSys e

/-- What a look at the supply ring finds: the pages taken, the next supget, the entries skipped; or a context fault. -/
structure Supply where
  pages : List Nat
  get : Nat
  skipped : Nat
  bad : Option Nat
  deriving DecidableEq, Repr

/-- Look at the entries from supget up for k well-formed ones; fuel is the number of entries in the ring. -/
def State.supplyLook (s : State) (ctx : Nat) (r : Ring) : Nat → Nat → Supply → Supply
  | 0, _, a => a
  | f + 1, k, a =>
    if k = 0 then a
    else
      match s.ringSlot ctx (sext56 r.va + 8 * (a.get % r.cap)) .read with
      | .ok pa =>
        let e := s.num pa 8
        if supplyOk e then s.supplyLook ctx r f (k - 1) { a with pages := a.pages ++ [e], get := (a.get + 1) % 2 ^ 32 }
        else s.supplyLook ctx r f k { a with get := (a.get + 1) % 2 ^ 32, skipped := a.skipped + 1 }
      | .none => a
      | .bad c => { a with bad := some c }

/-- Take k supply pages of a context, all or none (R266): the pages and the new state; else the cause of a context fault, or none where
the ring holds too few. -/
def State.supply (s : State) (ctx k : Nat) : Except (Option Nat) (List Nat × State) :=
  if k = 0 then .ok ([], s)
  else
    let r := s.supRing ctx
    let get := s.fld .pool ctx Pool.supget
    let n := ringUsed (s.fld .pool ctx Pool.supput) get
    if r.va = 0 then .error none
    else
      let a := s.supplyLook ctx r (min n r.cap) k ⟨[], get, 0, none⟩
      match a.bad with
      | some c => .error (some c)
      | none =>
        if a.pages.length < k then .error none
        else
          let s := s.setFld .pool ctx Pool.supget a.get
          .ok (a.pages, s.setFld .pool ctx Pool.plost (sat16 (s.fld .pool ctx Pool.plost + a.skipped)))

/-- Take k supply pages for an operation that waits where it has none: a context fault is raised at once. -/
def State.takeSupply (s : State) (ctx k : Nat) : Option (List Nat) × State :=
  match s.supply ctx k with
  | .ok (l, s) => (some l, s)
  | .error (some c) => (none, s.ctxFault ctx c)
  | .error none => (none, s)

/-- The physical addresses of n snapshot slots from an index on; else the cause of a context fault, or none where the ring is full or a
slot cannot be written (R431). -/
def State.snapSlots (s : State) (ctx : Nat) (r : Ring) (put get : Nat) : Nat → Except (Option Nat) (List Nat)
  | 0 => .ok []
  | n + 1 =>
    match s.snapSlots ctx r put get n with
    | .error e => .error e
    | .ok l =>
      let i := put + n
      if r.va = 0 ∨ r.cap ≤ ringUsed (i % 2 ^ 32) get then .error none
      else
        match s.ringSlot ctx (sext56 r.va + 16 * (i % r.cap)) .write with
        | .ok pa => .ok (l ++ [pa])
        | .none => .error none
        | .bad c => .error (some c)

/-! ### Copies (R265, R268, R270) -/

/-- A decrement of the count of a page (R265); at 0 the page is to go to the context's free ring (R345). -/
def State.countDec (s : State) (ctx pa : Nat) : State :=
  let n := s.count pa
  if n = 0 ∨ n = 65535 then s
  else
    let s := s.setRcd .count (pa / 2 ^ 16) (n - 1)
    if n = 1 then { s with kvFree := s.kvFree ++ [(ctx, pa / 2 ^ 16 * 2 ^ 16)] } else s

/-- The leaf of an address, where it lies, and whether it maps 2 MiB. -/
def State.leafOf (s : State) (ctx va : Nat) : Option (Nat × Nat × Bool) :=
  match s.walk ctx va with
  | .leaf e ea big => some (e, ea, big)
  | .absent => none
  | .bad _ => none

/-- The shared KV page of an address is copied (R268): none where no supply page is to be had, with what the look at the ring did. -/
def State.kvCopy (s : State) (ctx va : Nat) : Bool × State :=
  match s.leafOf ctx va with
  | none => (true, s)
  | some (e, ea, _) =>
    let p := slice 38 16 e * 2 ^ 16
    if !(Pte.kv e && decide (2 ≤ s.count p)) then (true, s)
    else
      match s.takeSupply ctx 1 with
      | (some (q :: _), s) =>
        let s := (s.write q (s.bytes 65536 p)).setRcd .count (q / 2 ^ 16) 1
        let s := (s.writeNum ea 8 (slice 63 39 e * 2 ^ 39 + q + e % 2 ^ 16)).tlbDrop ctx va
        (true, s.countDec ctx p)
      | (_, s) => (false, s)

/-- Write the snapshot entries of the pieces of a page: virtual address, copy (R266, R270). -/
def State.snapshotPut (s : State) (va : Nat) (l : List (Nat × Nat × Nat)) : State :=
  l.foldl (fun s (i, q, slot) => s.writeNum slot 16 (va + 65536 * i + q * 2 ^ 64)) s

/-- A page with C set is copied (R270): none of it where the supply ring is empty or the snapshot ring full. -/
def State.ckptCopy (s : State) (ctx va : Nat) : Bool × State :=
  match s.leafOf ctx va with
  | none => (true, s)
  | some (e, ea, big) =>
    if !Pte.c e then (true, s)
    else
      let n := if big then 32 else 1
      let base := va / (65536 * n) * (65536 * n)
      let pa := leafPa e big base
      let put := s.fld .pool ctx Pool.snpput
      match s.snapSlots ctx (s.snpRing ctx) put (s.fld .pool ctx Pool.snpget) n with
      | .error none => (false, s)
      | .error (some c) => (false, s.ctxFault ctx c)
      | .ok slots =>
        match s.takeSupply ctx n with
        | (some qs, s) =>
          let s := (qs.zip (List.range n)).foldl (fun s (q, i) => s.write q (s.bytes 65536 (pa + 65536 * i))) s
          let s := s.snapshotPut base ((List.range n).zip (qs.zip slots))
          let s := s.setFld .pool ctx Pool.snpput (put + n)
          (true, (s.writeNum ea 8 (e - 64)).tlbDrop ctx base)
        | (none, s) => (false, s)

/-- The copy that a write waits for: 1 of a shared KV page, 2 of a page with C set. -/
def State.pageCopy (s : State) (ctx va copy : Nat) : Bool × State :=
  if copy = 1 then s.kvCopy ctx va else if copy = 2 then s.ckptCopy ctx va else (false, s)

/-- A device write to a ring or a frame first has its page copied where it must be (R268, R270); a page with C set that is also shared
takes both copies. -/
def State.makeWritable (s : State) (ctx va : Nat) : State :=
  let once (s : State) : State :=
    match s.xlatWalk ctx va .write with
    | .fault _ copy => if copy = 0 then s else (s.pageCopy ctx va copy).2
    | _ => s
  if isPeer va || !canonical va then s else once (once s)

end Sys2Proof.Machine
end

