-- ==== Sys2Proof/Machine/Log.lean ====
section
/-! DEFINITION. The rings the device writes: fault log, order log, stamp buffer, page-pool rings (R86, R431, R266), and the reports
that go through them (R80, R178). -/

namespace Sys2Proof.Machine

namespace Flt
def stroke : Fld := ⟨192, 64⟩
def addr : Fld := ⟨128, 64⟩
def pc : Fld := ⟨96, 32⟩
def crew : Fld := ⟨64, 32⟩
def kernel : Fld := ⟨32, 32⟩
def bay : Fld := ⟨16, 16⟩
def gone : Fld := ⟨13, 1⟩
def imprecise : Fld := ⟨12, 1⟩
def kind : Fld := ⟨0, 12⟩
end Flt

/-- What a fault-log record says (R86). -/
structure FaultRec where
  kind : Nat
  imprecise : Bool
  gone : Bool
  bay : Nat
  kernel : Nat
  crew : Nat
  pc : Nat
  addr : Nat
  stroke : Nat
  deriving DecidableEq, Repr

/-- The record's 256 bits. -/
def FaultRec.bits (r : FaultRec) : Nat :=
  Flt.stroke.set (Flt.addr.set (Flt.pc.set (Flt.crew.set (Flt.kernel.set (Flt.bay.set (Flt.gone.set (Flt.imprecise.set
    (Flt.kind.set 0 r.kind) r.imprecise.toNat) r.gone.toNat) r.bay) r.kernel) r.crew) r.pc) r.addr) r.stroke

/-- A record is lost to the fault log (R86). -/
def State.faultLost (s : State) (ctx : Nat) : State :=
  s.setFld .context ctx Ctx.flost (sat16 (s.fld .context ctx Ctx.flost + 1))

/-- Append a record to a context's fault log (R86, R431); the ring is full also where fput is further ahead of fget than its capacity (log 87).
A record whose slot meets a bad walk is counted as lost beside the context fault (log 90). -/
def State.faultLog (s : State) (ctx : Nat) (r : FaultRec) : State :=
  let cap := 256 * 2 ^ s.cfg ctx Ctx.fsz
  let put := s.fld .context ctx Ctx.fput
  if cap ≤ ringUsed put (s.fld .context ctx Ctx.fget) then s.faultLost ctx
  else
    let va := sext56 (s.cfg ctx Ctx.flogva * 2 ^ 12) + 32 * (put % cap)
    let s := s.makeWritable ctx va
    match s.ringSlot ctx va .write with
    | .ok pa => (s.writeNum pa 32 r.bits).setFld .context ctx Ctx.fput (put + 1)
    | .none => s.faultLost ctx
    | .bad c => (s.faultLost ctx).ctxFault ctx c

/-- A 64-byte record for the shared stamp buffer (R398). -/
def State.stampLog (s : State) (ctx bits : Nat) : State :=
  let base := s.cfg ctx Ctx.stampva
  let cap := 1024 * 2 ^ s.cfg ctx Ctx.ssz
  let put := s.fld .context ctx Ctx.sput
  if base = 0 ∨ cap ≤ ringUsed put (s.fld .context ctx Ctx.sget) then s
  else
    let va := sext56 (base * 2 ^ 12) + 64 * (put % cap)
    let s := s.makeWritable ctx va
    match s.ringSlot ctx va .write with
    | .ok pa => (s.writeNum pa 64 bits).setFld .context ctx Ctx.sput (put + 1)
    | .none => s
    | .bad c => s.ctxFault ctx c

/-- A late fault is to be reported (R178). -/
def State.late (s : State) (f : Late) : State := s.post (.late f) .impreciseFault

/-- The PC that a late record beside sr.stroke names (R178): that of the stroke's first instruction, or the present one where no stroke of
the crew has committed. -/
def Crew.latePc (c : Crew) : Nat := if c.srStroke = 0 then c.pc else c.srPc

/-- The late fault of a crew's operation found after it left the crew's control. -/
def Crew.lateFault (c : Crew) (s : State) (rid kind aux addr pc stroke : Nat) : Late :=
  ⟨c.ctx s, kind, aux, BitVec.ofNat 64 addr, pc, BitVec.ofNat 64 stroke, s.handle c.kernel, c.idx, ridBay rid, false⟩

/-- Push a page onto a context's free ring; a full or unusable ring drops it and plost counts it (R266, R431), as it counts one
whose slot meets a bad walk (log 90). -/
def State.pushFree (s : State) (ctx page : Nat) : State :=
  let r := s.freRing ctx
  let put := s.fld .pool ctx Pool.freput
  let lost (s : State) : State := s.setFld .pool ctx Pool.plost (sat16 (s.fld .pool ctx Pool.plost + 1))
  if r.va = 0 ∨ r.cap ≤ ringUsed put (s.fld .pool ctx Pool.freget) then lost s
  else
    let va := sext56 r.va + 8 * (put % r.cap)
    let s := s.makeWritable ctx va
    match s.ringSlot ctx va .write with
    | .ok pa => (s.writeNum pa 8 page).setFld .pool ctx Pool.freput (put + 1)
    | .none => lost s
    | .bad c => (lost s).ctxFault ctx c

end Sys2Proof.Machine
end

