-- ==== Sys2Proof/Machine/Bar.lean ====
section
/-! DEFINITION. Barrier objects as 256-bit values: their fields, the operations on them and the WAIT condition (R306 to R309). -/

namespace Sys2Proof.Machine

namespace Bar
def phase : Fld := ⟨224, 32⟩
def landed : Fld := ⟨192, 32⟩
def exbytes : Fld := ⟨160, 32⟩
def exbase : Fld := ⟨128, 32⟩
def lastland : Fld := ⟨96, 32⟩
def arrived : Fld := ⟨80, 16⟩
def exarr : Fld := ⟨64, 16⟩
def touched : Fld := ⟨4, 1⟩
def overrun : Fld := ⟨3, 1⟩
def orphan : Fld := ⟨2, 1⟩
def mode : Fld := ⟨0, 2⟩
def value : Fld := ⟨192, 64⟩

/-- Set overrun when a condition holds. -/
def overIf (c : Bool) (o : Nat) : Nat := if c then overrun.set o 1 else o

/-- complete(o) of R308. -/
def complete (o : Nat) : Nat :=
  if exarr.get o ≤ arrived.get o ∧ exbytes.get o ≤ landed.get o then
    let o := overIf (decide (exarr.get o < arrived.get o)) o
    let o := lastland.set o (landed.get o)
    let o := phase.set o (phase.get o + 1)
    let o := arrived.set o 0
    let o := landed.set o 0
    let o := exbytes.set o (exbase.get o)
    touched.set o 0
  else o

def arrive (o k : Nat) : Nat :=
  let o := overIf (decide (65535 < arrived.get o + k)) o
  complete (touched.set (arrived.set o (min (arrived.get o + k) 65535)) 1)

def land (o n : Nat) : Nat :=
  let o := overIf (decide (2 ^ 32 - 1 < landed.get o + n)) o
  complete (touched.set (landed.set o (min (landed.get o + n) (2 ^ 32 - 1))) 1)

def expect (o n : Nat) : Nat :=
  let o := overIf (decide (2 ^ 32 - 1 < exbytes.get o + n)) o
  touched.set (exbytes.set o (min (exbytes.get o + n) (2 ^ 32 - 1))) 1

def raise (o v : Nat) : Nat := value.set o (max (value.get o) v)

/-- TLADV.add (R319). -/
def tladd (o v : Nat) : Nat :=
  let x := value.get o + v
  overIf (decide (2 ^ 64 - 1 < x)) (value.set o (min x (2 ^ 64 - 1)))

/-- BARINIT.ph (R316). -/
def initPhase (ea eb : Nat) : Nat := mode.set (exarr.set (exbase.set (exbytes.set 0 eb) eb) ea) 1

/-- BARINIT.tl and .eng (R316). -/
def initTimeline (v : Nat) : Nat := mode.set (value.set 0 v) 2

/-- The WAIT condition of an object and x (R309); none in mode 00 or 11. -/
def holds (o x : Nat) : Option Bool :=
  match mode.get o with
  | 1 => let d := (phase.get o + 2 ^ 32 - x % 2 ^ 32) % 2 ^ 32; some (decide (1 ≤ d ∧ d ≤ 2 ^ 31))
  | 2 => some (decide (x ≤ value.get o))
  | _ => none

end Bar

/-- What an operation makes of an object, or the aux value of the barrier-state fault it meets (R314, R323): 1 for mode 00 or 11,
2 for the other of phase and timeline. -/
def BarOp.apply (op : BarOp) (o : Nat) : Except Nat Nat :=
  let ph (f : Nat) : Except Nat Nat :=
    if Bar.mode.get o = 1 then .ok f else if Bar.mode.get o = 2 then .error 2 else .error 1
  let tl (f : Nat) : Except Nat Nat :=
    if Bar.mode.get o = 2 then .ok f else if Bar.mode.get o = 1 then .error 2 else .error 1
  match op with
  | .arrive k => ph (Bar.arrive o k)
  | .land n => ph (Bar.land o n)
  | .expect n => ph (Bar.expect o n)
  | .raise v => tl (Bar.raise o v)
  | .tladd v => tl (Bar.tladd o v)
  | .initPhase ea eb => .ok (Bar.initPhase ea eb)
  | .initTimeline v => .ok (Bar.initTimeline v)

end Sys2Proof.Machine
end

