-- ==== Sys2Proof/Machine/Stroke.lean ====
section
/-! DEFINITION. Strokes: signatures, where they begin and close, what a crew's loads see of its own strokes, and the squash
(R212 to R223, R227, R239). -/

namespace Sys2Proof.Machine

/-! ### Signatures (R216, R217) -/

def sigH0 (l : Nat) : Nat := (l % 1024) ^^^ (l / 2 ^ 10 % 1024) ^^^ (l / 2 ^ 20 % 1024) ^^^ (l / 2 ^ 30 % 4)
def sigH1 (l : Nat) : Nat :=
  (l / 2 ^ 5 % 1024) ^^^ (l / 2 ^ 15 % 1024) ^^^ (l / 2 ^ 25 % 128) ^^^ (l % 32 * 32)

/-- The bits of a line. -/
def sigLine (l : Nat) : BitVec 2048 := (1#2048 <<< sigH0 l) ||| (1#2048 <<< (1024 + sigH1 l))

/-- S intersects W (R217). -/
def sigMeets (s w : BitVec 2048) : Bool :=
  let x := (s &&& w).toNat
  decide (x % 2 ^ 1024 ≠ 0) && decide (x / 2 ^ 1024 ≠ 0)

def popcount (x n : Nat) : Nat := ((List.range n).filter (fun i => x.testBit i)).length

/-- Add lines without repeats. -/
def addLines (ls new : List Nat) : List Nat := new.foldl (fun ls l => if ls.contains l then ls else ls ++ [l]) ls

def Stroke.reads (st : Stroke) (ls : List Nat) : Stroke :=
  { st with rlines := addLines st.rlines ls, rsig := ls.foldl (fun g l => g ||| sigLine l) st.rsig }
def Stroke.writes (st : Stroke) (ls : List Nat) : Stroke :=
  { st with wlines := addLines st.wlines ls, wsig := ls.foldl (fun g l => g ||| sigLine l) st.wsig }

/-- Every line that a stroke has read or written, memory-side ones among them. -/
def Stroke.lines (st : Stroke) : List Nat := st.rlines ++ st.wlines ++ st.sideLines

/-- The umpire set of a stroke, ascending; umpire 0 where it accessed no line (R219). -/
def Stroke.umpires (st : Stroke) : List Nat :=
  match (List.range 16).filter (fun u => st.lines.any (fun l => umpireOf l == u)) with
  | [] => [0]
  | us => us

/-! ### Beginning and closing -/

/-- The stroke that is executing, if any. -/
def Crew.executing (c : Crew) : Option Stroke := c.strokes.find? (fun st => st.closed.isNone)

/-- Close the executing stroke. -/
def Crew.close (c : Crew) (clk : Nat) : Crew :=
  { c with strokes := c.strokes.map (fun st => if st.closed.isNone then { st with closed := some clk } else st) }

/-- Change the executing stroke. -/
def Crew.onStroke (c : Crew) (f : Stroke → Stroke) : Crew :=
  { c with strokes := c.strokes.map (fun st => if st.closed.isNone then f st else st) }

/-- The state that a squash restores (R134). -/
def Crew.snapshot (c : Crew) : Snap :=
  ⟨c.pc, c.slot, c.em, c.exited, c.rowEmpty, c.stack, c.regs, c.tag, c.handler, c.elected, c.skip⟩

/-- A stroke that begins. -/
def Crew.newStroke (c : Crew) (serial : Nat) : Stroke :=
  { serial := serial, snap := c.snapshot, count := 0, rsig := 0#2048, wsig := 0#2048, rlines := [], wlines := [], blocks := [],
    sumLines := [], sideLines := [], pinnedOnly := true, effs := [], regns := [], binds := [], held := c.heldReady, closed := none }

/-- Crews on a bay. -/
def State.crewsOn (s : State) (b : Nat) : List (Nat × Crew) := s.crews.filter (fun p => decide (ridBay p.1 = b))

/-- Shadow space free on a bay: 32 strokes less those in flight and the space granted and not yet used (R222). -/
def State.shadowFree (s : State) (b : Nat) : Nat :=
  Config.shadowStrokes - ((s.crewsOn b).map (fun p => p.2.strokes.length + p.2.granted.toNat)).sum

/-- A crew of the bay waits for shadow space. -/
def State.shadowQueue (s : State) (b : Nat) : Bool :=
  (s.crewsOn b).any (fun p => match p.2.wait with | .shadow _ => true | _ => false)

/-- What keeps a crew's next stroke from beginning: four strokes in flight (R215), a held stroke not yet started (R224), shadow
space (R222). -/
def State.mayBegin (s : State) (rid : Nat) (c : Crew) : Option Wait :=
  if 4 ≤ c.strokes.length then some .room
  else if c.heldSet.isSome && !c.heldReady && !c.strokes.any (fun st => st.held) then some .held
  else if c.granted then none
  else if s.shadowFree (ridBay rid) = 0 ∨ s.shadowQueue (ridBay rid) = true then some (.shadow s.serial)
  else none

/-! ### What a crew's accesses see -/

/-- A byte of memory under some written bytes. -/
def State.under (s : State) (o : Tbl Byte) (pa : Nat) : Byte := o.getD pa (s.byte pa)

def State.underNum (s : State) (o : Tbl Byte) (pa n : Nat) : Nat := ofBytes ((List.range n).map (fun j => s.under o (pa + j)))

def putBytes (o : Tbl Byte) (pa : Nat) (bs : List Byte) : Tbl Byte :=
  (bs.zip (List.range bs.length)).foldl (fun o p => o.set (pa + p.2) p.1) o

/-- Bytes of a type's values. -/
def tyBytes (t : Ty) : Nat := 4 * t.regs

/-- The bytes that an effect of a stroke writes in turn, over what earlier effects wrote; own is true within the same stroke, where
the writes of RED, SUMRED and barrier operations are not seen (R227, R239). -/
def Eff.shows (s : State) (own : Bool) (o : Tbl Byte) : Eff → Tbl Byte
  | .store _ pa bs _ => putBytes o pa bs
  | .red _ pa op ty v _ =>
    if own then o else putBytes o pa (toBytes (tyBytes ty) (Alu.rmw op ty (s.underNum o pa (tyBytes ty)) v 0))
  | .bar _ pa op _ =>
    if own then o
    else match op.apply (s.underNum o pa 32) with
      | .ok v => putBytes o pa (toBytes 32 v)
      | .error _ => o
  | .sumred .. => o
  | .trace .. => o
  | .mfence .. => o

/-- The bytes that a crew's strokes in flight would write, as its next access sees them: everything of its earlier strokes, and the
stores of the executing one. -/
def State.ownWrites (s : State) (c : Crew) : Tbl Byte :=
  c.strokes.foldl (fun o st => st.effs.foldl (Eff.shows s st.closed.isNone) o) []

/-! ### Squash (R221) -/

/-- Squash a crew's strokes from number i on: restore, discard results, effects, registrations, and what it waited to do. -/
def State.squashFrom (s : State) (rid i : Nat) : State :=
  match s.crews.get? rid with
  | none => s
  | some c =>
    match c.strokes[i]? with
    | none => s
    | some st =>
      let gone := c.pends.filter (fun p => decide (st.serial ≤ p.serial))
      let lost := (c.strokes.drop i).flatMap (fun t => t.regns)
      let p := st.snap
      let c := { c with
        pc := p.pc, slot := p.slot, em := p.em, exited := p.exited, rowEmpty := p.rowEmpty, stack := p.stack, regs := p.regs,
        tag := p.tag, handler := p.handler, elected := p.elected, skip := p.skip,
        strokes := c.strokes.take i, pends := c.pends.filter (fun q => decide (q.serial < st.serial)),
        trap := none, fault := none, wait := .none, granted := false, heldReady := false, gateSince := none, stalled := none, flagWait := none }
      let c := gone.foldl (fun c q => c.clearFlag q.flag) c
      { s.setCrew rid (fun _ => c) with regns := s.regns.filter (fun r => !lost.contains r) }

/-- A squash event of a crew (R221, R224): it counts, and after the fourth in a row the next stroke runs held on the umpire set of
the attempt. -/
def State.squash (s : State) (rid i : Nat) : State :=
  match (s.crews.get? rid).bind (fun c => c.strokes[i]?) with
  | none => s
  | some st =>
    (s.squashFrom rid i).setCrew rid (fun c =>
      let n := c.squashes + 1
      { c with squashes := n
               heldSet := if c.strokes.any (fun t => t.held) then c.heldSet else if 4 ≤ n then some st.umpires else c.heldSet })

/-! ### Broadcast (R220) -/

/-- A line is in the signatures of a stroke in flight on a bay. -/
def State.bayTouches (s : State) (b : Nat) (ls : List Nat) : Bool :=
  (s.crewsOn b).any (fun p => p.2.strokes.any (fun st => ls.any (fun l => st.rlines.contains l || st.wlines.contains l)))

/-- The write signature of some lines. -/
def sigOf (ls : List Nat) : BitVec 2048 := ls.foldl (fun g l => g ||| sigLine l) 0#2048

/-- Send the write signature of some lines to the bays that the L2 directory lists. A bay in which a stroke in flight has accessed one of
the lines is listed, and one in which multicast has installed one (R325); any other may be, by free choice. -/
def State.broadcast (s : State) (ls : List Nat) (committer : Option Nat) : State :=
  if ls.isEmpty then s
  else
    let bays := ((s.crews.map (fun p => ridBay p.1)).dedup).filter (fun b =>
      s.bayTouches b ls || ls.any (fun l => (s.bay b).cast.contains l) || s.choice b % 2 = 1)
    { s with fresh := s.fresh + 1
             agenda := bays.map (fun b => Task.event (.squash b (sigOf ls) committer) .signatureSquash) ++ s.agenda }

end Sys2Proof.Machine
end

