-- ==== Sys2Proof/Machine/Gate.lean ====
section
/-! DEFINITION. The order log, store digests and the order gate (R244 to R248). -/

namespace Sys2Proof.Machine

def State.lch (s : State) (k : Nat) (f : Fld) : Nat := f.get (s.kern k).launch
def State.log (s : State) (ctx : Nat) : CtxLog := s.logs.getD ctx CtxLog.init
def State.setLog (s : State) (ctx : Nat) (f : CtxLog → CtxLog) : State := { s with logs := s.logs.set ctx (f (s.log ctx)) }

/-- Strokes of a kernel are logged, or gated (R244). -/
def State.logged (s : State) (k : Nat) : Bool :=
  decide (s.lch k Lch.record = 1) && decide (s.cfg (s.kern k).ctx Ctx.record = 1)
def State.gated (s : State) (k : Nat) : Bool :=
  decide (s.lch k Lch.replay = 1) && decide (s.cfg (s.kern k).ctx Ctx.replay = 1)

/-! ### Digests (R246) -/

/-- One bit of the CRC-64 register. -/
def crcBit (c : DWord) (b : Bool) : DWord :=
  if c.msb != b then (c <<< 1) ^^^ 0x42F0E1EBA9EA3693#64 else c <<< 1

/-- One byte, most significant bit first. -/
def crcByte (c : DWord) (b : Byte) : DWord := (List.range 8).foldl (fun c i => crcBit c (b.getLsbD (7 - i))) c

/-- A write taken into a digest: its virtual address, then its bytes. -/
def crcWrite (c : DWord) (va : Nat) (bs : List Byte) : DWord := (toBytes 8 va ++ bs).foldl crcByte c

/-- The key of a digest: knum, crew. -/
def digestKey (knum crew : Nat) : Nat := knum * 2 ^ 24 + crew

/-! ### Entries (R245) -/

def State.logCap (s : State) (ctx : Nat) : Nat := 4096 * 2 ^ s.cfg ctx Ctx.osz

def State.logVa (s : State) (ctx idx : Nat) : Nat :=
  sext56 (s.cfg ctx Ctx.ologva * 2 ^ 12) + 8 * (idx % s.logCap ctx)

/-- The slot of an index, or the cause of a context fault (R431). -/
def State.logSlot (s : State) (ctx idx : Nat) (need : Need) : Except Nat Nat :=
  match s.ringSlot ctx (s.logVa ctx idx) need with
  | .ok pa => .ok pa
  | .none => .error 5
  | .bad c => .error c

/-- An entry of the order log. -/
def State.logEntry (s : State) (ctx idx : Nat) : Except Nat Nat :=
  match s.logSlot ctx idx .read with
  | .ok pa => .ok (s.num pa 8)
  | .error c => .error c

/-- A slot can be written, for the entries from an index on. -/
def State.logWritable (s : State) (ctx idx : Nat) : Nat → Option Nat
  | 0 => none
  | n + 1 =>
    match s.logSlot ctx (idx + n) .write with
    | .ok _ => s.logWritable ctx idx n
    | .error c => some c

/-- Have the pages of n slots from an index on copied where they must be (R270). -/
def State.logReady (s : State) (ctx idx : Nat) : Nat → State
  | 0 => s
  | n + 1 => (s.logReady ctx idx n).makeWritable ctx (s.logVa ctx (idx + n))

/-- Append an entry whose slot was found writable. -/
def State.logPush (s : State) (ctx entry : Nat) : State :=
  let put := s.fld .context ctx Ctx.oput
  match s.logSlot ctx put .write with
  | .ok pa => (s.writeNum pa 8 entry).setFld .context ctx Ctx.oput (put + 1)
  | .error _ => s

/-- The run of a crew is open and may be extended. -/
def CtxLog.extends (l : CtxLog) (knum : Option Nat) (crew : Nat) : Bool :=
  match l.run, knum with
  | some (kn, c, n, _), some m => decide (kn = m) && decide (c = crew) && decide (n < 2 ^ 26 - 1)
  | _, _ => false

/-- The entries that the next logged commit of a crew appends: kernel entry, run, and with the 256th commit the checkpoint and its
digest records. -/
def State.logNeeds (s : State) (ctx k crew : Nat) : Nat :=
  let l := s.log ctx
  let kn := (s.kern k).knum
  let known : Bool := match kn with | some n => (l.digests.get? (digestKey n crew)).isSome | none => false
  (if kn.isNone then 1 else 0) + (if l.extends kn crew then 0 else 1) +
    (if (l.logged + 1) % 256 = 0 then 1 + 2 * (l.digests.length + (if known then 0 else 1)) else 0)

/-- Why a logged commit cannot take place (R80, R431): the cause of the context fault. -/
def State.logRefuses (s : State) (ctx k crew : Nat) : Option Nat :=
  let n := s.logNeeds ctx k crew
  let put := s.fld .context ctx Ctx.oput
  if s.logCap ctx < ringUsed put (s.fld .context ctx Ctx.oget) + n then some 2
  else
    match s.logWritable ctx put n with
    | some c => some c
    | none =>
      match (s.log ctx).run with
      | some (_, _, _, i) =>
        if (s.log ctx).extends (s.kern k).knum crew then
          match s.logSlot ctx i .write with | .ok _ => none | .error c => some c
        else none
      | none => none

/-- Give a recording kernel its log number, with its kernel entry (R245). -/
def State.numberKernel (s : State) (ctx k : Nat) : State :=
  match (s.kern k).knum with
  | some _ => s
  | none =>
    let n := (s.log ctx).nextKnum
    let s := (s.logPush ctx (2 ^ 62 + n * 2 ^ 50 + s.handle k)).setKern k (fun y => { y with knum := some n })
    s.setLog ctx (fun l => { l with nextKnum := (n + 1) % 4096, run := none })

/-- Log one commit of a crew, whose digest is given (R245, R246): the run is extended or begun, and the checkpoint that the 256th commit
brings comes next. -/
def State.logCommit (s : State) (ctx k crew : Nat) (digest : DWord) : State :=
  let s := s.numberKernel ctx k
  let kn := ((s.kern k).knum).getD 0
  let base := kn * 2 ^ 50 + crew * 2 ^ 26
  let l := s.log ctx
  let s :=
    match l.run with
    | some (_, _, n, i) =>
      if l.extends (some kn) crew then
        match s.logSlot ctx i .write with
        | .ok pa => (s.writeNum pa 8 (base + n + 1)).setLog ctx (fun l => { l with run := some (kn, crew, n + 1, i) })
        | .error _ => s
      else
        let i := s.fld .context ctx Ctx.oput
        (s.logPush ctx (base + 1)).setLog ctx (fun l => { l with run := some (kn, crew, 1, i) })
    | none =>
      let i := s.fld .context ctx Ctx.oput
      (s.logPush ctx (base + 1)).setLog ctx (fun l => { l with run := some (kn, crew, 1, i) })
  let s := s.setLog ctx (fun l => { l with logged := l.logged + 1, digests := l.digests.set (digestKey kn crew) digest })
  if (s.log ctx).logged % 256 = 0 then s.postFirst (.ctx ctx) .orderLogCheckpoint else s

/-- The digest records of a checkpoint, in ascending (knum, crew). -/
def State.pushDigests (s : State) (ctx : Nat) : List (Nat × DWord) → State
  | [] => s
  | (key, d) :: rest =>
    ((s.logPush ctx (3 * 2 ^ 62 + key / 2 ^ 24 * 2 ^ 50 + key % 2 ^ 24 * 2 ^ 26)).logPush ctx d.toNat).pushDigests ctx rest

/-! ### The order gate (R247, R248) -/

/-- Entries left in the log, from oget to oput. -/
def State.logLeft (s : State) (ctx : Nat) : Nat := ringUsed (s.fld .context ctx Ctx.oput) (s.fld .context ctx Ctx.oget)

/-- A kernel entry at the head is used by the next replay kernel in order of admission. -/
def State.bindKnum (s : State) (ctx entry : Nat) : State :=
  let l := s.log ctx
  let kn := slice 61 50 entry
  match l.rkernels[l.knums.length]? with
  | some h =>
    let s := s.setFld .context ctx Ctx.oget (s.fld .context ctx Ctx.oget + 1)
    let s := if s.handle (h % 2 ^ 14) = h then s.setKern (h % 2 ^ 14) (fun y => { y with knum := some kn }) else s
    s.setLog ctx (fun l => { l with knums := l.knums ++ [kn], digests := l.digests.filter (fun p => decide (p.1 / 2 ^ 24 ≠ kn)) })
  | none => s

/-- The gate reads the kernel entries at the head that replay kernels can take; fuel is the number of entries left. -/
def State.takeKnums (ctx : Nat) : Nat → State → State
  | 0, s => s
  | f + 1, s =>
    let l := s.log ctx
    if s.logLeft ctx = 0 ∨ l.rkernels.length ≤ l.knums.length then s
    else
      match s.logEntry ctx (s.fld .context ctx Ctx.oget) with
      | .ok e => if slice 63 62 e = 1 then State.takeKnums ctx f (s.bindKnum ctx e) else s
      | .error c => s.ctxFault ctx c

/-- The replay kernel that holds a log number: its slot, if it is not retired. -/
def State.knumKernel (s : State) (ctx kn : Nat) : Option Nat :=
  let l := s.log ctx
  match ((l.knums.zip l.rkernels).reverse.find? (fun p => decide (p.1 = kn))).map Prod.snd with
  | some h => if s.handle (h % 2 ^ 14) = h && decide ((s.kern (h % 2 ^ 14)).state ≠ .retired) then some (h % 2 ^ 14) else none
  | none => none

/-- A replay kernel is admitted for the first time (R247): it takes the next kernel entry of the log. -/
def State.admitReplay (s : State) (k : Nat) : State :=
  if s.gated k && !(s.log (s.kern k).ctx).rkernels.contains (s.handle k) then
    let ctx := (s.kern k).ctx
    let s := s.setLog ctx (fun l => { l with rkernels := l.rkernels ++ [s.handle k] })
    State.takeKnums ctx (s.logLeft ctx) s
  else s

/-- What the gate says to a crew of a replay kernel. -/
inductive GateSays where
  /-- The next commit-run entry names the crew. -/
  | pass
  /-- The log is at its end. -/
  | opened
  | hold
  /-- A checkpoint comes first. -/
  | check
  /-- The entry at this index names no crew that could commit. -/
  | diverge (idx : Nat)
  | bad (cause : Nat)
  deriving DecidableEq, Repr

/-- A replay kernel of the context is yet to be admitted, and may take the kernel entry at the head (R247, R248). -/
def State.replayPosted (s : State) (ctx : Nat) : Bool :=
  s.kernels.any (fun p => decide (p.2.ctx = ctx) && s.gated p.1 &&
    (decide (p.2.state = .posted) || decide (p.2.state = .blocked) || decide (p.2.state = .ready)))

/-- The gate for crew idx of kernel k. -/
def State.gate (s : State) (k idx : Nat) : GateSays :=
  let ctx := (s.kern k).ctx
  let get := s.fld .context ctx Ctx.oget
  match (s.log ctx).diverge with
  | some i => if (s.kern k).barred then .hold else .diverge i
  | none =>
    if (s.kern k).barred then .hold
    else if s.logLeft ctx = 0 then .opened
    else
      match s.logEntry ctx get with
      | .error c => .bad c
      | .ok e =>
        match slice 63 62 e with
        | 0 =>
          match s.knumKernel ctx (slice 61 50 e) with
          | none => .diverge get
          | some k' =>
            if ((s.kern k').keepOf (slice 49 26 e)).exited then .diverge get
            else if k' = k ∧ slice 49 26 e = idx then .pass else .hold
        | 1 => if s.replayPosted ctx then .hold else .diverge get
        | 2 => .check
        | _ => .hold

/-- A granted commit has been counted (R247): the run counts down, and its entry is used up with the last. -/
def State.gateUsed (s : State) (ctx : Nat) : State :=
  let get := s.fld .context ctx Ctx.oget
  match s.logEntry ctx get with
  | .error _ => s
  | .ok e =>
    let done := (match (s.log ctx).cur with | some (i, n) => if i = get then n else 0 | none => 0) + 1
    if slice 25 0 e ≤ done then
      (s.setFld .context ctx Ctx.oget (get + 1)).setLog ctx (fun l => { l with cur := none })
    else s.setLog ctx (fun l => { l with cur := some (get, done) })

/-- The crew of a replay kernel of a context that has waited longest at the gate. -/
def State.atGate (s : State) (ctx : Nat) : Option (Nat × Crew) :=
  leastBy (fun p => p.2.gateSince.getD 0)
    (s.crews.filter (fun p => p.2.gateSince.isSome && decide (p.2.ctx s = ctx) && !(s.kern p.2.kernel).barred))

/-- The resident crew that is crew idx of kernel k. -/
def State.ridOf (s : State) (k idx : Nat) : Option Nat :=
  (s.crews.find? (fun p => decide (p.2.kernel = k) && decide (p.2.idx = idx))).map Prod.fst

/-- A replay-divergence fault on crew idx of kernel k (R248): its strokes are squashed, and it traps at its next instruction, after its
return if it is not resident; if it has exited, a late record is written. -/
def State.divergeOn (s : State) (k idx log : Nat) : State :=
  let e := (s.kern k).keepOf idx
  if e.exited then
    s.late ⟨(s.kern k).ctx, 0x022, 0, BitVec.ofNat 64 log, 0, BitVec.ofNat 64 e.stroke, s.handle k, idx, e.bay, true⟩
  else
    match s.ridOf k idx with
    | some rid => (s.squashFrom rid 0).setCrew rid (fun c => { c with diverged := some log, gateSince := none })
    | none => s.setKern k (fun y => y.setKeep idx (fun e => { e with diverged := some log }))

/-- The fault of an entry that names no crew that could commit (R248): on the crew that has waited longest at the gate, or on the first
to reach it afterwards; its kernel commits nothing more. -/
def State.gateFault (s : State) (ctx log : Nat) : State :=
  match s.atGate ctx with
  | some (_, c) =>
    ((s.divergeOn c.kernel c.idx log).setKern c.kernel (fun y => { y with barred := true })).setLog ctx
      (fun l => { l with diverge := none })
  | none => s.setLog ctx (fun l => { l with diverge := some (l.diverge.getD log) })

/-- One digest record of a checkpoint, at an index (R248): a mismatch falls on the crew alone, and the gate goes on granting its kernel's other
crews what the log names (R415; log 91). -/
def State.checkDigest (s : State) (ctx idx : Nat) : Except Nat State :=
  match s.logEntry ctx idx, s.logEntry ctx (idx + 1) with
  | .error c, _ => .error c
  | _, .error c => .error c
  | .ok e, .ok raw =>
    let crew := slice 49 26 e
    let l := s.log ctx
    match ((l.knums.zip l.rkernels).reverse.find? (fun p => decide (p.1 = slice 61 50 e))).map Prod.snd with
    | none => .ok (s.gateFault ctx idx)
    | some h =>
      let k := h % 2 ^ 14
      let here := decide (s.handle k = h)
      if here && !((s.kern k).keepOf crew).placed then .ok (s.gateFault ctx idx)
      else if (l.digests.getD (digestKey (slice 61 50 e) crew) 0#64).toNat = raw then .ok s
      else if here then .ok ((s.divergeOn k crew idx).setKern k (fun y => { y with parted := true }))
      -- the kernel's slot has been reused: the crew has exited
      else .ok (s.late ⟨ctx, 0x022, 0, BitVec.ofNat 64 idx, 0, 0#64, h, crew, 0, true⟩)

/-- A checkpoint entry stands at the head of the log of an active replay context, with its digest records (R248). -/
def State.checkpointAt (s : State) (ctx : Nat) : Bool :=
  decide (s.cfg ctx Ctx.replay = 1) && decide (s.fld .context ctx Ctx.state = 2) && decide (s.logLeft ctx ≠ 0) &&
    (match s.logEntry ctx (s.fld .context ctx Ctx.oget) with
     | .ok e => decide (slice 63 62 e = 2) && decide (1 + 2 * slice 15 0 e ≤ s.logLeft ctx)
     | .error _ => false)

/-- The digest records of a checkpoint. -/
def State.checkDigests (ctx idx : Nat) : Nat → State → Except Nat State
  | 0, s => .ok s
  | n + 1, s =>
    match s.checkDigest ctx idx with
    | .error c => .error c
    | .ok s => State.checkDigests ctx (idx + 2) n s

end Sys2Proof.Machine
end

