-- ==== Sys2Proof/WellFormed.lean ====
section
/-! DEFINITION. Which crew instructions are well formed: those some word encodes (R56 to R63, R66 steps 2 to 8). -/

namespace Sys2Proof

/-- Why a term of Instr is no instruction a crew can decode. -/
inductive WfErr where
  /-- An event of the machine: it has no encoding. -/
  | event
  /-- The length is below the minimum of R64 (R66, step 4). -/
  | short
  /-- The predicate is not allowed at this length or opcode (R66, step 5). -/
  | predicate
  /-- A modifier, type, rounding, op or unused field the description does not accept (R66, steps 6 and 7). -/
  | modifier
  /-- The immediate does not fit the chosen length (R60, R61). -/
  | immediate
  /-- A register operand is misaligned, or its group runs past v255 (R66, step 8). -/
  | operand
  deriving DecidableEq, Repr

/-- The first check an instruction fails, if any. -/
def wfErr (i : Instr) : Option WfErr :=
  match enc i with
  | none => some .event
  | some (k, e) =>
    match opRow e.op with
    | none => some .event
    | some (_, p) =>
      if k.len.granules < minLen i e then some .short
      else if !predFits k.len p k.pred then some .predicate
      else if !accepts i then some .modifier
      else if !immFits k.len e.imm || (e.c.isSome && k.len == .l64) then some .immediate
      else if !(groupOk e.d && groupOk e.a && groupOk e.b && groupOk e.c) then some .operand
      else none

/-- A well-formed crew instruction. -/
abbrev Instr.WF (i : Instr) : Prop := wfErr i = none

end Sys2Proof
end

