-- ==== Sys2Proof/Decode.lean ====
section
/-! DEFINITION. The fields of an instruction word (R55, R56), the decoder (R66, steps 2 to 8), total on any bits and rejecting
by name, and the encoder written from the same tables. -/

namespace Sys2Proof

/-- The raw fields of an instruction (R55, R56); a field the chosen length does not carry is zero. -/
structure Raw where
  len : BitVec 2
  opcode : BitVec 8
  stall : BitVec 4
  set : BitVec 4
  wait : BitVec 12
  cut : BitVec 1
  yield : BitVec 1
  d : BitVec 8
  a : BitVec 8
  b : BitVec 8
  mod : BitVec 8
  c : BitVec 8
  vP : BitVec 8
  pmode : BitVec 2
  imm14 : BitVec 14
  imm32 : BitVec 32
  deriving DecidableEq, Repr

/-- The 128 bits of the raw fields (R55, R56), bit 0 the least significant. -/
def Raw.bits (r : Raw) : BitVec 128 :=
  r.imm32 ++ r.imm14 ++ r.pmode ++ r.vP ++ r.c ++ r.mod ++ r.b ++ r.a ++ r.d ++
    r.yield ++ r.cut ++ r.wait ++ r.set ++ r.stall ++ r.opcode ++ r.len

/-- The raw fields of 128 bits (R55, R56). -/
def Raw.ofBits (w : BitVec 128) : Raw where
  len := w.extractLsb' 0 2
  opcode := w.extractLsb' 2 8
  stall := w.extractLsb' 10 4
  set := w.extractLsb' 14 4
  wait := w.extractLsb' 18 12
  cut := w.extractLsb' 30 1
  yield := w.extractLsb' 31 1
  d := w.extractLsb' 32 8
  a := w.extractLsb' 40 8
  b := w.extractLsb' 48 8
  mod := w.extractLsb' 56 8
  c := w.extractLsb' 64 8
  vP := w.extractLsb' 72 8
  pmode := w.extractLsb' 80 2
  imm14 := w.extractLsb' 82 14
  imm32 := w.extractLsb' 96 32

/-- Why a word is no instruction: the steps of R66 that trap as illegal. -/
inductive DecErr where
  /-- Bits 1:0 are 11 (step 2). -/
  | length
  /-- Reserved opcode (step 3). -/
  | opcode
  /-- Length below the minimum (step 4). -/
  | short
  /-- set 12 to 14, pmode 11, vP without pmode, or pmode where P is — (step 5). -/
  | control
  /-- Reserved modifier, type, rounding, condition, op, width, hint, flag, extension or special register (step 6). -/
  | modifier
  /-- A field the instruction does not use is not zero (step 7). -/
  | unused
  /-- A register operand misaligned, or a group past v255 (step 8). -/
  | operand
  deriving DecidableEq, Repr

/-- Length named by bits 1:0 (R50). -/
def Len.ofCode? (c : BitVec 2) : Option Len :=
  match c.toNat with
  | 0 => some .l64 | 1 => some .l96 | 2 => some .l128 | _ => none

/-- Completion flag of the set field: 0 to 11, 15 for none; 12 to 14 are illegal (R55). -/
def setOf? (s : BitVec 4) : Option (Option (Fin 12)) :=
  if h : s.toNat < 12 then some (some ⟨s.toNat, h⟩) else if s = 15#4 then some none else none

def setCode : Option (Fin 12) → BitVec 4
  | none => 15#4
  | some f => BitVec.ofNat 4 f.val

/-- Predicate of pmode and vP (R56, R59). -/
def predOf? (pmode : BitVec 2) (vP : Reg) : Option Pred :=
  match pmode.toNat with
  | 0 => if vP = 0#8 then some .always else none
  | 1 => some (.nonzero vP)
  | 2 => some (.zero vP)
  | _ => none

def Pred.mode : Pred → BitVec 2
  | .always => 0 | .nonzero _ => 1 | .zero _ => 2

def Pred.reg : Pred → Reg
  | .always => 0 | .nonzero r => r | .zero r => r

/-- The control fields of raw fields, at a length. -/
def ctlOf? (r : Raw) (l : Len) : Option Ctl :=
  match setOf? r.set, predOf? r.pmode r.vP with
  | some s, some p => some ⟨l, r.stall, s, r.wait, r.cut == 1#1, r.yield == 1#1, p⟩
  | _, _ => none

/-- An operand field's register number; zero where the instruction names none (R61). -/
def opndReg : Opnd → Reg
  | none => 0
  | some (r, _) => r

/-- imm14 of an immediate at a length (R60). -/
def ImmF.imm14 (l : Len) : ImmF → BitVec 14
  | .none => 0 | .b _ => 0 | .k _ => 0
  | .o off => if l = .l96 then off.truncate 14 else 0
  | .t v => v | .n v => v | .s v => v | .x v => v

/-- imm32 of an immediate at a length (R60). -/
def ImmF.imm32 (l : Len) : ImmF → Word
  | .none => 0 | .t _ => 0 | .n _ => 0 | .s _ => 0 | .x _ => 0
  | .b (.imm v) => v
  | .b (.reg _) => 0
  | .o off => if l = .l128 then off else 0
  | .k v => v

/-- The raw fields of a crew instruction. -/
def rawOf (k : Ctl) (e : Enc) : Raw where
  len := k.len.code
  opcode := e.op
  stall := k.stall
  set := setCode k.set
  wait := k.wait
  cut := BitVec.ofBool k.cut
  yield := BitVec.ofBool k.yield
  d := opndReg e.d
  a := opndReg e.a
  b := opndReg e.b
  mod := e.mod
  c := opndReg e.c
  vP := k.pred.reg
  pmode := k.pred.mode
  imm14 := e.imm.imm14 k.len
  imm32 := e.imm.imm32 k.len

/-- T family, integer: type, .sat; bits 58:57 zero (R63, R185). -/
def ti? (m : BitVec 8) : Option (Ty × Bool) :=
  if m.extractLsb' 1 2 = 0#2 then (Ty.ofCode? (m.extractLsb' 3 5)).map (fun t => (t, m.getLsbD 0)) else none
/-- T family, float: type, rounding code. -/
def tf? (m : BitVec 8) : Option (Ty × Rnd) :=
  match Ty.ofCode? (m.extractLsb' 3 5), Rnd.ofCode? (m.extractLsb' 0 3) with
  | some t, some r => some (t, r)
  | _, _ => none
/-- T family with bits 58:56 zero. -/
def t0? (m : BitVec 8) : Option Ty := if m.extractLsb' 0 3 = 0#3 then Ty.ofCode? (m.extractLsb' 3 5) else none
/-- C family. -/
def c? (m : BitVec 8) : Option (Ty × Cond) :=
  (Ty.ofCode? (m.extractLsb' 3 5)).map (fun t => (t, Cond.ofCode (m.extractLsb' 0 3)))
/-- O family: op code and type. -/
def o? (m : BitVec 8) : Option (BitVec 3 × Ty) := (Ty.ofCode? (m.extractLsb' 0 5)).map (fun t => (m.extractLsb' 5 3, t))
/-- M family: width, .sx, hint; bits 57:56 zero. -/
def m? (m : BitVec 8) : Option (Width × Bool × Hint) :=
  if m.extractLsb' 0 2 = 0#2 then
    match Width.ofCode? (m.extractLsb' 5 3), Hint.ofCode? (m.extractLsb' 2 2) with
    | some w, some h => some (w, m.getLsbD 4, h)
    | _, _ => none
  else none
/-- D family: format, scale select; bit 56 zero. -/
def d? (m : BitVec 8) : Option (Ty × BitVec 2) :=
  if m.getLsbD 0 then none else (Ty.ofCode? (m.extractLsb' 3 5)).map (fun t => (t, m.extractLsb' 1 2))
/-- Q family. -/
def q? (m : BitVec 8) : Option (Ty × Bool × BitVec 2) :=
  (Ty.ofCode? (m.extractLsb' 3 5)).map (fun t => (t, m.getLsbD 2, m.extractLsb' 0 2))
/-- X family: destination type, rounding, source type, .sat; bits 95:88 zero. -/
def x? (m : BitVec 8) (e : BitVec 14) : Option (Ty × Ty × Rnd × Bool) :=
  if e.extractLsb' 6 8 = 0#8 then
    match Ty.ofCode? (m.extractLsb' 3 5), Ty.ofCode? (e.extractLsb' 0 5), Rnd.ofCode? (m.extractLsb' 0 3) with
    | some dt, some st, some r => some (dt, st, r, e.getLsbD 5)
    | _, _, _ => none
  else none
/-- F family with no flags: the op. -/
def f? (m : BitVec 8) : Option Nat := if m.extractLsb' 0 4 = 0#4 then some (m.extractLsb' 4 4).toNat else none
/-- F family with flag bit 56 only. -/
def fb? (m : BitVec 8) : Option (Nat × Bool) :=
  if m.extractLsb' 1 3 = 0#3 then some ((m.extractLsb' 4 4).toNat, m.getLsbD 0) else none

/-- Operand b under immediate code b (R60). -/
def srcOf (l : Len) (r : Raw) : Src := if l = .l128 then .imm r.imm32 else .reg r.b
/-- Offset under immediate code o (R60). -/
def offOf (l : Len) (r : Raw) : Word :=
  match l with
  | .l64 => 0#32
  | .l96 => r.imm14.signExtend 32
  | .l128 => r.imm32

/-- F-family op 0 and no flags. -/
def f0 (m : BitVec 8) (i : Instr) : Option Instr := if f? m = some 0 then some i else none

/-- Opcodes 0x00 to 0x16. -/
def candCtl (r : Raw) (k : Ctl) : Option Instr :=
  match r.opcode.toNat with
  | 0x00 => some (.nop k) | 0x01 => some (.bra k r.imm14) | 0x02 => some (.brx k r.a)
  | 0x03 => some (.bdiv k r.a r.imm14) | 0x04 => some (.join k) | 0x05 => some (.call k r.d r.imm14)
  | 0x06 => some (.ret k r.a) | 0x07 => some (.exit k) | 0x08 => some (.fjmp k r.a r.imm14)
  | 0x09 => f0 r.mod (.cfetch k r.a r.b r.imm14)
  | 0x0A => some (.cinv k r.imm14) | 0x0B => some (.trap k r.imm14) | 0x0C => some (.rte k)
  | 0x0D => some (.bkpt k r.imm14) | 0x0E => some (.yieldHint k) | 0x0F => some (.cut k)
  | 0x10 => some (.emrd k r.d) | 0x11 => some (.emwr k r.a) | 0x12 => some (.allot k r.d r.a)
  | 0x13 => (SReg.ofCode? r.imm14).map (fun sr => .sread k r.d sr)
  | 0x14 => if r.imm14 = 0x00B#14 then some (.swrite k r.a) else none
  | 0x15 => some (.lget k r.d r.a r.b) | 0x16 => some (.lset k r.d r.a r.b)
  | _ => none

/-- Opcodes 0x20 to 0x3D. -/
def candInt (l : Len) (r : Raw) (k : Ctl) : Option Instr :=
  match r.opcode.toNat with
  | 0x20 => (ti? r.mod).map (fun (t, s) => .iadd k t s r.d r.a (srcOf l r))
  | 0x21 => (ti? r.mod).map (fun (t, s) => .isub k t s r.d r.a (srcOf l r))
  | 0x22 => (ti? r.mod).map (fun (t, s) => .iaddx k t s r.d r.a r.b r.c)
  | 0x23 => (t0? r.mod).map (fun t => .imul k t r.d r.a (srcOf l r))
  | 0x24 => (t0? r.mod).map (fun t => .imulh k t r.d r.a (srcOf l r))
  | 0x25 => (t0? r.mod).map (fun t => .imad k t r.d r.a r.b r.c)
  | 0x26 => (ti? r.mod).map (fun (t, s) => .iabs k t s r.d r.a)
  | 0x27 => (t0? r.mod).map (fun t => .imin k t r.d r.a (srcOf l r))
  | 0x28 => (t0? r.mod).map (fun t => .imax k t r.d r.a (srcOf l r))
  | 0x29 => (t0? r.mod).map (fun t => .iclamp k t r.d r.a r.b r.c)
  | 0x2A => (c? r.mod).map (fun (t, c) => .icmp k t c r.d r.a (srcOf l r))
  | 0x2B => (t0? r.mod).map (fun t => .isel k t r.d r.a r.b r.c)
  | 0x2C => (t0? r.mod).map (fun t => .csub k t r.d r.a (srcOf l r))
  | 0x2D => some (.lea k r.d r.a r.b r.imm14)
  | 0x2E => (t0? r.mod).map (fun t => .mov k t r.d r.a)
  | 0x2F => some (.movi k r.d r.imm32)
  | 0x30 => (t0? r.mod).map (fun t => .shl k t r.d r.a (srcOf l r))
  | 0x31 => (t0? r.mod).map (fun t => .shr k t r.d r.a (srcOf l r))
  | 0x32 => (t0? r.mod).map (fun t => .sar k t r.d r.a (srcOf l r))
  | 0x33 => (t0? r.mod).map (fun t => .shf k t r.d r.a r.b r.c)
  | 0x34 => (t0? r.mod).map (fun t => .and k t r.d r.a (srcOf l r))
  | 0x35 => (t0? r.mod).map (fun t => .or k t r.d r.a (srcOf l r))
  | 0x36 => (t0? r.mod).map (fun t => .xor k t r.d r.a (srcOf l r))
  | 0x37 => (t0? r.mod).map (fun t => .andn k t r.d r.a (srcOf l r))
  | 0x38 => (t0? r.mod).map (fun t => .bfx k t r.d r.a (srcOf l r))
  | 0x39 => (t0? r.mod).map (fun t => .bfi k t r.d r.a r.b r.c)
  | 0x3A => (t0? r.mod).map (fun t => .popc k t r.d r.a)
  | 0x3B => (t0? r.mod).map (fun t => .clz k t r.d r.a)
  | 0x3C => (t0? r.mod).map (fun t => .brev k t r.d r.a)
  | 0x3D => some (.prmt k r.d r.a r.b r.c)
  | _ => none

/-- Opcodes 0x40 to 0x73. -/
def candFloat (l : Len) (r : Raw) (k : Ctl) : Option Instr :=
  match r.opcode.toNat with
  | 0x40 => (tf? r.mod).map (fun (t, m) => .fadd k t m r.d r.a (srcOf l r))
  | 0x41 => (tf? r.mod).map (fun (t, m) => .fsub k t m r.d r.a (srcOf l r))
  | 0x42 => (tf? r.mod).map (fun (t, m) => .fmul k t m r.d r.a (srcOf l r))
  | 0x43 => (tf? r.mod).map (fun (t, m) => .fma k t m r.d r.a r.b r.c)
  | 0x44 => (t0? r.mod).map (fun t => .fmin k t r.d r.a (srcOf l r))
  | 0x45 => (t0? r.mod).map (fun t => .fmax k t r.d r.a (srcOf l r))
  | 0x46 => (c? r.mod).map (fun (t, c) => .fcmp k t c r.d r.a (srcOf l r))
  | 0x47 => (tf? r.mod).map (fun (t, m) => .frnd k t m r.d r.a)
  | 0x48 => (t0? r.mod).map (fun t => .fclass k t r.d r.a)
  | 0x49 => (tf? r.mod).map (fun (t, m) => .fscale k t m r.d r.a (srcOf l r))
  | 0x4A => (tf? r.mod).bind (fun (t, m) => if t = .f64 then some (.dadd k m r.d r.a r.b) else none)
  | 0x4B => (tf? r.mod).bind (fun (t, m) => if t = .f64 then some (.dmul k m r.d r.a r.b) else none)
  | 0x4C => (tf? r.mod).bind (fun (t, m) => if t = .f64 then some (.dfma k m r.d r.a r.b r.c) else none)
  | 0x4D => (c? r.mod).bind (fun (t, c) => if t = .f64 then some (.dcmp k c r.d r.a r.b) else none)
  | 0x50 => (d? r.mod).map (fun (t, s) => .dotf4 k t s r.d r.a r.b r.c)
  | 0x51 => (d? r.mod).map (fun (t, s) => .dotf6 k t s r.d r.a r.b r.c)
  | 0x52 => (d? r.mod).map (fun (t, s) => .dotf8 k t s r.d r.a r.b r.c)
  | 0x53 => (d? r.mod).bind (fun (t, s) => if s = 0#2 then some (.doth k t r.d r.a r.b r.c) else none)
  | 0x54 => (d? r.mod).bind (fun (t, s) => if s = 0#2 then some (.doti8 k t r.d r.a r.b r.c) else none)
  | 0x55 => (d? r.mod).bind (fun (t, s) => if s = 0#2 then some (.doti4 k t r.d r.a r.b r.c) else none)
  | 0x60 => (x? r.mod r.imm14).map (fun (dt, st, m, sat) => .cvt k dt st m sat r.d r.a)
  | 0x61 => (x? r.mod r.imm14).map (fun (dt, st, m, sat) => .pack k dt st m sat r.d r.a r.b r.c)
  | 0x62 => (x? r.mod r.imm14).bind (fun (dt, st, m, sat) => if sat then none else some (.unpack k dt st m r.d r.a r.b))
  | 0x63 => (x? r.mod r.imm14).bind (fun (dt, st, m, sat) =>
      if sat || dt != .e8m0 || m != .rn then none else some (.mxscale k st r.d r.a r.b))
  | 0x64 => some (.rand k r.d r.a r.b)
  | 0x68 => if t0? r.mod = some .f32 then some (.fsint k r.d r.a) else none
  | 0x69 => if t0? r.mod = some .f32 then some (.fcost k r.d r.a) else none
  | 0x6A => if t0? r.mod = some .f32 then some (.fexp2 k r.d r.a) else none
  | 0x6B => if t0? r.mod = some .f32 then some (.flog2 k r.d r.a) else none
  | 0x6C => if t0? r.mod = some .f32 then some (.frcp k r.d r.a) else none
  | 0x6D => if t0? r.mod = some .f32 then some (.frsq k r.d r.a) else none
  | 0x6E => if t0? r.mod = some .f32 then some (.fsqrt k r.d r.a) else none
  | 0x6F => if t0? r.mod = some .f32 then some (.ftanh k r.d r.a) else none
  | 0x70 => (t0? r.mod).map (fun t => .rmax k t r.d r.a)
  | 0x71 => (tf? r.mod).map (fun (t, m) => .rsum k t m r.d r.a)
  | 0x72 => if t0? r.mod = some .f32 then some (.rstat k r.d r.a) else none
  | 0x73 => if t0? r.mod = some .f32 then some (.smxup k r.d r.a) else none
  | _ => none

/-- Opcodes 0x78 to 0x97. -/
def candMem (l : Len) (r : Raw) (k : Ctl) : Option Instr :=
  match r.opcode.toNat with
  | 0x78 => (o? r.mod).bind (fun (o, t) => (ShflOp.ofCode? o).map (fun p => .shfl k p t r.d r.a r.b r.c))
  | 0x79 => some (.ballot k r.d r.a r.b)
  | 0x7A => (o? r.mod).bind (fun (o, t) =>
      if t = .n32 then (VoteOp.ofCode? o).map (fun p => .vote k p r.d r.a r.b) else none)
  | 0x7B => (o? r.mod).map (fun (o, t) => .lred k (RmwOp.ofCode o) t r.d r.a r.b)
  | 0x7C => (o? r.mod).map (fun (o, t) => .lscan k (RmwOp.ofCode o) t r.d r.a r.b)
  | 0x7D => (o? r.mod).bind (fun (o, t) => (MatchOp.ofCode? o).map (fun p => .laneMatch k p t r.d r.a r.b))
  | 0x7E => (t0? r.mod).map (fun t => .bcast k t r.d r.a r.b r.c)
  | 0x7F => some (.elect k r.d r.a)
  | 0x80 => (m? r.mod).map (fun (w, sx, h) => .ld k w sx h r.d r.a (offOf l r))
  | 0x81 => (m? r.mod).bind (fun (w, sx, h) => if sx then none else some (.st k w h r.a r.b (offOf l r)))
  | 0x82 => (o? r.mod).map (fun (o, t) => .atom k (RmwOp.ofCode o) t r.d r.a r.b r.c (offOf l r))
  | 0x83 => (o? r.mod).map (fun (o, t) => .red k (RmwOp.ofCode o) t r.a r.b (offOf l r))
  | 0x84 => (c? r.mod).map (fun (t, c) => .mwait k c t r.a r.b (offOf l r))
  | 0x85 => (m? r.mod).bind (fun (w, sx, h) => if sx || w != .b8 then none else some (.pref k h r.a (offOf l r)))
  | 0x86 => if r.mod.extractLsb' 2 6 = 0#6 then some (.mfence k (r.mod.getLsbD 0) (r.mod.getLsbD 1)) else none
  | 0x90 => (q? r.mod).map (fun (t, u, s) => .mma k t u s r.d r.a r.b r.c)
  | 0x91 => f0 r.mod (.mbatch k r.d)
  | 0x92 => match f? r.mod with
    | some 0 => some (.sumdeclDecl k r.a r.b)
    | some 1 => some (.sumdeclFree k r.a)
    | some 2 => some (.sumdeclTl k r.a)
    | _ => none
  | 0x93 => (fb? r.mod).bind (fun (o, clr) => (SumRdOp.ofCode? (BitVec.ofNat 4 o)).map (fun p =>
      if clr then .sumrdClr k p r.d r.a (offOf l r) else .sumrd k p r.d r.a (offOf l r)))
  | 0x94 => (f? r.mod).bind (fun o => (SumRedOp.ofCode? (BitVec.ofNat 4 o)).map (fun p => .sumred k p r.a r.b (offOf l r)))
  | 0x95 => f0 r.mod (.sumz k r.a r.b)
  | 0x96 => (fb? r.mod).bind (fun (o, clr) => if o = 0 then some (.sumdrain k clr r.a r.b) else none)
  | 0x97 => f0 r.mod (.sumq k r.d r.a)
  | _ => none

/-- Opcodes 0xA0 to 0xC5. -/
def candObj (r : Raw) (k : Ctl) : Option Instr :=
  match r.opcode.toNat with
  | 0xA0 => match fb? r.mod with
    | some (0, b) => some (.barinitPh k b r.a r.b r.c)
    | some (1, false) => some (.barinitTl k r.a r.b r.c)
    | some (2, false) => some (.barinitEng k r.a r.b r.c)
    | _ => none
  | 0xA1 => (fb? r.mod).bind (fun (o, b) => if o = 0 then some (.arrive k b r.a r.b) else none)
  | 0xA2 => f0 r.mod (.expect k r.a r.b)
  | 0xA3 => f0 r.mod (.wait k r.a r.b)
  | 0xA4 => match f? r.mod with
    | some 0 => some (.tladvMax k r.a r.b)
    | some 1 => some (.tladvAdd k r.a r.b)
    | _ => none
  | 0xA5 => f0 r.mod (.copy k r.a)
  | 0xA6 => f0 r.mod (.gather k r.a)
  | 0xA7 => f0 r.mod (.scatter k r.a)
  | 0xA8 => f0 r.mod (.encode k r.a)
  | 0xA9 => f0 r.mod (.batch k r.d)
  | 0xAA => (f? r.mod).bind (fun o => if o < 4 then some (.barq k (BitVec.ofNat 2 o) r.d r.a) else none)
  | 0xB0 => f0 r.mod (.tshape k r.d r.a r.b)
  | 0xB1 => f0 r.mod (.tfork k r.d r.a r.b r.c)
  | 0xB2 => f0 r.mod (.tprune k r.d r.a r.b)
  | 0xB3 => f0 r.mod (.tcommit k r.d r.a r.b)
  | 0xB4 => match f? r.mod with
    | some 0 => some (.tmask k r.d r.a r.b)
    | some 1 => some (.tmaskVfy k r.d r.a r.b)
    | _ => none
  | 0xB5 => match f? r.mod with
    | some 0 => some (.tinfoLo k r.d r.a r.b)
    | some 1 => some (.tinfoHi k r.d r.a r.b)
    | some 2 => some (.tinfoTree k r.d r.a r.b)
    | _ => none
  | 0xB6 => f0 r.mod (.tacc k r.d r.a r.b r.c)
  | 0xB7 => f0 r.mod (.tappend k r.d r.a r.b)
  | 0xB8 => f0 r.mod (.tnew k r.d r.a)
  | 0xB9 => f0 r.mod (.tfree k r.d r.a)
  | 0xC0 => f0 r.mod (.pgpin k r.d r.a r.b)
  | 0xC1 => f0 r.mod (.pgunpin k r.d r.a r.b)
  | 0xC2 => match f? r.mod with
    | some 0 => some (.pgcowMark k r.d r.a r.b)
    | some 1 => some (.pgcowClear k r.d r.a r.b)
    | _ => none
  | 0xC3 => match f? r.mod with
    | some 0 => some (.pgqNext k r.d r.a)
    | some 1 => some (.pgqDone k r.d r.a)
    | some 2 => some (.pgqFail k r.d r.a)
    | some 3 => some (.pgqInval k r.d r.a)
    | _ => none
  | 0xC4 => f0 r.mod (.smap k r.d r.a r.b)
  | 0xC5 => match f? r.mod with
    | some 0 => some (.sflushWb k r.a r.b)
    | some 1 => some (.sflushInv k r.a r.b)
    | _ => none
  | _ => none

/-- Opcodes 0xD0 to 0xF3. -/
def candSys (r : Raw) (k : Ctl) : Option Instr :=
  match r.opcode.toNat with
  | 0xD0 => (m? r.mod).bind (fun (w, sx, h) => if sx || h != .none then none else some (.xput k w r.a r.b))
  | 0xD1 => (m? r.mod).bind (fun (w, sx, h) => if sx || h != .none then none else some (.xget k w r.d r.a))
  | 0xD2 => (o? r.mod).map (fun (o, t) => .xred k (RmwOp.ofCode o) t r.a r.b r.imm14)
  | 0xD3 => match f? r.mod with
    | some 0 => some (.xsigArr k r.a r.b)
    | some 1 => some (.xsigMax k r.a r.b)
    | _ => none
  | 0xD4 => f0 r.mod (.xfence k)
  | 0xD5 => f0 r.mod (.xprobe k r.d r.a)
  | 0xE0 => f0 r.mod (.launch k r.d r.a)
  | 0xE1 => match f? r.mod with
    | some 0 => some (.qctlHold k r.d r.a)
    | some 1 => some (.qctlRelease k r.d r.a)
    | some 2 => some (.qctlFlush k r.d r.a)
    | some 3 => some (.qctlClass k r.d r.a r.b)
    | some 4 => some (.qctlQuery k r.d r.a)
    | _ => none
  | 0xE2 => match f? r.mod with
    | some 0 => some (.kstopStop k r.d r.a)
    | some 1 => some (.kstopKill k r.d r.a)
    | some 2 => some (.kstopResume k r.d r.a)
    | _ => none
  | 0xE3 => f0 r.mod (.kq k r.d r.a)
  | 0xE4 => f0 r.mod (.leave k r.d r.a)
  | 0xE5 => f0 r.mod (.notify k r.a r.b)
  | 0xE6 => match f? r.mod with
    | some 0 => some (.ckptCut k r.d r.a)
    | some 1 => some (.ckptBack k r.d r.a)
    | _ => none
  | 0xF0 => f0 r.mod (.bpset k r.a r.b r.imm14)
  | 0xF1 => f0 r.mod (.bpclr k r.imm14)
  | 0xF2 => f0 r.mod (.stamp k r.d r.a)
  | 0xF3 => f0 r.mod (.trace k r.a r.b)
  | _ => none

/-- The instruction that raw fields name by opcode and modifier, before the checks of unused fields and operands. -/
def cand (l : Len) (r : Raw) (k : Ctl) : Option Instr :=
  let op := r.opcode.toNat
  if op < 0x20 then candCtl r k
  else if op < 0x40 then candInt l r k
  else if op < 0x78 then candFloat l r k
  else if op < 0xA0 then candMem l r k
  else if op < 0xD0 then candObj r k
  else candSys r k

/-- Bits of the instruction at its length: a shorter form carries zeros above. -/
def Len.mask : Len → BitVec 128
  | .l64 => 0xFFFF_FFFF_FFFF_FFFF#128
  | .l96 => 0xFFFF_FFFF_FFFF_FFFF_FFFF_FFFF#128
  | .l128 => BitVec.allOnes 128

/-- The decoder: the instruction whose first granule holds bits 31:0 of w (R66, steps 2 to 8). Bits of w above the length that
bits 1:0 give belong to what follows and are not looked at. -/
def decode (w : BitVec 128) : Except DecErr Instr :=
  match Len.ofCode? (w.extractLsb' 0 2) with
  | none => .error .length
  | some l =>
    let r := Raw.ofBits (w &&& l.mask)
    match opRow r.opcode with
    | none => .error .opcode
    | some (mn, p) =>
      if l.granules < mn.granules then .error .short
      else match ctlOf? r l with
        | none => .error .control
        | some k =>
          if p = .none ∧ k.pred ≠ .always then .error .control
          else match cand l r k with
            | none => .error .modifier
            | some i =>
              match enc i with
              | none => .error .opcode
              | some (k', e) =>
                if l.granules < minLen i e then .error .short
                else if !accepts i then .error .modifier
                else if rawOf k' e ≠ r then .error .unused
                else if !(groupOk e.d && groupOk e.a && groupOk e.b && groupOk e.c) then .error .operand
                else .ok i

/-- The bits of a crew instruction, zeros above its length; none for an event. -/
def encodeBits (i : Instr) : Option (BitVec 128) :=
  (enc i).map (fun (k, e) => (rawOf k e).bits)

/-- The granules of bits, the lowest first. -/
def granulesOf (n : Nat) (w : BitVec 128) : List Word :=
  (List.range n).map (fun j => w.extractLsb' (32 * j) 32)

/-- The bits of granules, the first in bits 31:0 (R56). -/
def bitsOf (gs : List Word) : BitVec 128 :=
  gs.foldr (fun g acc => (acc <<< 32) ||| g.zeroExtend 128) 0#128

/-- The granules of a crew instruction, in the order of their addresses (R56). -/
def encode (i : Instr) : List Word :=
  match enc i with
  | none => []
  | some (k, e) => granulesOf k.len.granules (rawOf k e).bits

/-- Decoding granules: the first holds bits 31:0; absent granules are zero. -/
def decodeWords (gs : List Word) : Except DecErr Instr := decode (bitsOf (gs.take 4))

/-- The instruction the decoder reads from bits numbered as the table numbers them; every bit above nbits is 0. -/
def decodeTableWord (nbits w : Nat) : Option Instr :=
  (decode (BitVec.ofNat 128 (w % 2 ^ nbits))).toOption

/-- The operand groups of an instruction. -/
def operands (e : Enc) : List (Reg × Nat) := e.d.toList ++ e.a.toList ++ e.b.toList ++ e.c.toList

/-- Predicate register of an instruction. -/
def predReg : Pred → List (Reg × Nat)
  | .always => []
  | .nonzero r => [(r, 1)]
  | .zero r => [(r, 1)]

/-- Whether every register an instruction names lies below the allotment (R58; R66, step 9). -/
def inAllot (k : Ctl) (e : Enc) (allot : Nat) : Bool :=
  (operands e ++ predReg k.pred).all (fun (r, n) => r.toNat + n ≤ allot)

end Sys2Proof
end

