-- ==== Sys2Proof/Machine/Fu.lean ====
section
/-! DEFINITION. Function-unit instructions as outstanding results: what each computes, its lane groups, and its re-issue from a trap
frame (R176, R177, R201, R202). -/

namespace Sys2Proof.Machine

/-- The function of a function-unit instruction, its destination and source (R203). -/
def fuOf : Instr → Option ((Word → Word) × Reg × Reg)
  | .fsint _ d a => some (fsintOf, d, a)
  | .fcost _ d a => some (fcostOf, d, a)
  | .fexp2 _ d a => some (fexp2Of, d, a)
  | .flog2 _ d a => some (flog2Of, d, a)
  | .frcp _ d a => some (frcpOf, d, a)
  | .frsq _ d a => some (frsqOf, d, a)
  | .fsqrt _ d a => some (fsqrtOf, d, a)
  | .ftanh _ d a => some (ftanhOf, d, a)
  | _ => none

/-- Lane groups that hold a lane (R202). -/
def groupsOf (ls : List Nat) : List Nat := (List.range 4).filter (fun g => ls.any (fun l => decide (l / 8 = g)))

/-- An outstanding function-unit instruction on the lanes and operand given. -/
def fuJob (i : Instr) (slot pc : Nat) (ls : List Nat) (opnd : Nat → Word) (clk order : Nat) (smx : Bool) : Fu :=
  { bits := (encodeBits i).getD 0#128, slot := slot, pc := pc, lanes := maskOf ls, a := ls.map (fun l => (l, opnd l)),
    groups := groupsOf ls, avail := clk + 1, smx := smx, order := order }

/-- The results of a function-unit instruction on captured operands. -/
def fuCells (i : Instr) (a : List (Nat × Word)) : List (Nat × Word) :=
  match fuOf i with
  | some (f, d, _) => a.map (fun p => (32 * d.toNat + p.1, f p.2))
  | none => []

/-- Function-unit instructions of a crew that are outstanding (R147); SMXUP does not count (R211). -/
def Crew.fuOut (c : Crew) : Nat := (c.pends.filter (fun p => match p.fu with | some f => !f.smx | none => false)).length

/-- Function-unit instructions that the unit of a crew's side holds (R201); SMXUP does not count (R211). -/
def State.fuHeld (s : State) (rid : Nat) : Nat := ((s.crews.filter (fun p => decide (p.1 / 32 = rid / 32))).map (fun p => p.2.fuOut)).sum

/-- The instruction of a replay entry, where it is one of FSINT to FTANH, passes steps 2 to 9 of R66 for the crew, and is followed
by zero bytes (R177). -/
def replayInstr (bits : BitVec 128) (allot : Nat) : Option Instr :=
  match decode bits with
  | .error _ => none
  | .ok i =>
    match fuOf i, enc i, encodeBits i with
    | some _, some (k, e), some b => if b = bits && inAllot k e allot then some i else none
    | _, _, _ => none

end Sys2Proof.Machine
end

