-- ==== Sys2Proof/Machine/Ops.lean ====
section
/-! DEFINITION. The shared operations of a crew: taking a trap and returning from one (R170 to R177), meeting a translation fault
(R257), and issuing an instruction in its stroke role (R212 to R215, R224). -/

namespace Sys2Proof.Machine

/-! ### The trap frame (R174 to R176) -/

namespace Frm
def addr : Fld := ⟨448, 64⟩
def stroke : Fld := ⟨384, 64⟩
def exited : Fld := ⟨352, 32⟩
def em : Fld := ⟨320, 32⟩
def resume : Fld := ⟨305, 1⟩
def slot : Fld := ⟨300, 4⟩
def pc : Fld := ⟨288, 12⟩
def flags : Fld := ⟨268, 12⟩
def nrep : Fld := ⟨264, 4⟩
def depth : Fld := ⟨256, 8⟩
def aux : Fld := ⟨224, 32⟩
def crew : Fld := ⟨192, 32⟩
def kernel : Fld := ⟨160, 32⟩
def bay : Fld := ⟨144, 16⟩
def lane : Fld := ⟨128, 8⟩
def tag : Fld := ⟨96, 32⟩
def allot : Fld := ⟨64, 32⟩
def code : Fld := ⟨32, 14⟩
def kind : Fld := ⟨0, 12⟩
end Frm

/-- Set several fields. -/
def setAll (fs : List (Fld × Nat)) : Nat := fs.foldl (fun x p => p.1.set x p.2) 0

/-- The outstanding function-unit results, in issue order. -/
def Crew.fuPends (c : Crew) : List Fu := c.pends.filterMap (fun p => p.fu)

/-- The frame header (R175). Its pc field has 12 bits: the PC 4,096 of a crew that runs off a full segment is written modulo 4,096 (log 26). -/
def State.frameHeader (s : State) (rid : Nat) (c : Crew) (t : Trap) : Nat :=
  setAll [(Frm.addr, t.addr), (Frm.stroke, c.srStroke), (Frm.exited, c.exited.toNat), (Frm.em, c.em.toNat), (Frm.resume, 1),
    (Frm.slot, t.slot), (Frm.pc, t.pc), (Frm.flags, c.flags.toNat), (Frm.nrep, c.fuPends.length), (Frm.depth, c.stack.length),
    (Frm.aux, t.aux), (Frm.crew, c.idx), (Frm.kernel, s.handle c.kernel), (Frm.bay, bayCode (ridBay rid)), (Frm.lane, t.lane),
    (Frm.tag, c.tag.toNat), (Frm.allot, c.allot), (Frm.code, t.code), (Frm.kind, t.kind)]

/-- A replay entry (R176). -/
def replayEntry (f : Fu) : List Byte :=
  toBytes 16 f.bits.toNat ++ toBytes 4 (f.slot * 2 ^ 12 + f.pc) ++ toBytes 4 f.lanes.toNat ++ toBytes 8 0 ++
    (List.range 32).flatMap (fun l => toBytes 4 (((f.a.find? (fun p => p.1 == l)).map Prod.snd).getD 0#32).toNat)

/-- A stack entry's 16 bytes (R152). -/
def stackEntry (e : Entry) : List Byte :=
  toBytes 16 (e.slot % 16 * 2 ^ 76 + e.rpc % 2 ^ 12 * 2 ^ 64 + e.path.toNat * 2 ^ 32 + e.saved.toNat)

/-- A stack entry read from its 128 bits. -/
def entryOf (x : Nat) : Entry :=
  ⟨slice 79 76 x, slice 75 64 x, BitVec.ofNat 32 (slice 63 32 x), BitVec.ofNat 32 (slice 31 0 x)⟩

/-- Bytes 0x000 to 0x9FF of a frame (R174). -/
def State.frameBytes (s : State) (rid : Nat) (c : Crew) (t : Trap) : List Byte :=
  let reps := c.fuPends.flatMap replayEntry
  toBytes 64 (s.frameHeader rid c t) ++ toBytes 16 (c.group 4 0 t.lane) ++ toBytes 48 0 ++
    reps ++ toBytes (1280 - reps.length) 0 ++ toBytes 1152 0

/-- Write a frame with its live stack entries at a physical address (R174). -/
def State.writeFrame (s : State) (rid : Nat) (c : Crew) (t : Trap) (pa : Nat) : State :=
  (s.write pa (s.frameBytes rid c t)).write (pa + 0xA00) (c.stack.reverse.flatMap stackEntry)

/-- The virtual address of a crew's frame (R85, R172). -/
def State.frameVa (s : State) (rid : Nat) (c : Crew) : Nat :=
  (sext56 (s.cfg (c.ctx s) Ctx.trapva * 2 ^ 12) + 4096 * rid) % 2 ^ 64

/-! ### The side's sets (R141) -/

def Bay.side (b : Bay) (n : Nat) : Side := if n = 0 then b.side0 else b.side1
def Bay.setSide (b : Bay) (n : Nat) (f : Side → Side) : Bay :=
  if n = 0 then { b with side0 := f b.side0 } else { b with side1 := f b.side1 }
def State.side (s : State) (b n : Nat) : Side := (s.bay b).side n
def State.setSide (s : State) (b n : Nat) (f : Side → Side) : State := s.setBay b (fun y => y.setSide n f)

/-- Take a crew out of its side's sets. -/
def State.leaveSets (s : State) (rid : Nat) : State :=
  s.setSide (ridBay rid) (ridSide rid) (fun d =>
    { d with active := d.active.map (fun x => if x = some (ridSlot rid) then none else x)
             pending := d.pending.filter (fun x => decide (x ≠ ridSlot rid)) })

/-- Empty the A latch of a crew's side where the crew owns it (R293). -/
def State.dropLatch (s : State) (rid : Nat) : State :=
  s.setSide (ridBay rid) (ridSide rid) (fun d =>
    { d with latch := match d.latch with | some l => if l.owner = rid then none else some l | none => none })

/-- The flags that a crew's MMAs hold are given up (R149). -/
def State.dropMmaFlags (s : State) (rid : Nat) : State := { s with mmaFlags := s.mmaFlags.filter (fun f => decide (f.rid ≠ rid)) }

/-! ### Taking a trap (R172) -/

/-- The handler entry of a kernel on a bay (R173): slot 0 is full and of two lines or more, and the first start-marked granule of its
last line is a branch target. -/
def State.handlerOf (s : State) (b k : Nat) : Option Nat :=
  match (s.codeSlot b k 0).code? with
  | some (ws, lines) =>
    match firstOf ws (lines - 1) with
    | some g => if 2 ≤ lines ∧ targetAt ws g = true then some (4 * g) else none
    | none => none
  | none => none

/-- Where a trap's handler begins: slot and byte offset. Breakpoints go to the crew's resident debug handler when it has one (R395). -/
def State.trapEntry (s : State) (rid : Nat) (c : Crew) (kind : Nat) : Option (Nat × Nat) :=
  if c.debug && (decide (kind = 0x070) || decide (kind = 0x01E)) then
    match (s.codeSlot (ridBay rid) c.kernel 15).code? with
    | some (ws, lines) => some (15, 4 * (firstFrom ws lines 0).getD 2)
    | none => some (15, 8)
  else (s.handlerOf (ridBay rid) c.kernel).map (fun pc => (0, pc))

/-- The fault-log record of a crew's precise trap (R86, R172). -/
def State.trapRec (s : State) (rid : Nat) (c : Crew) (t : Trap) (kind : Nat) : FaultRec :=
  ⟨kind, false, false, bayCode (ridBay rid), s.handle c.kernel, c.idx, t.pc, t.addr, c.srStroke⟩

/-- The divergence fault of a crew has been taken (R248). -/
def Crew.divergeTaken (c : Crew) (kind : Nat) : Option Nat := if kind = 0x022 then none else c.diverged

/-- The crew becomes trapped: it leaves its set and keeps its blocks (R135, R141). -/
def State.becomeTrapped (s : State) (rid kind : Nat) : State :=
  (s.leaveSets rid).setCrew rid (fun c =>
    { c with life := .trapped, trap := none, wait := .none, ready := none, diverged := c.divergeTaken kind })

/-- Results of fixed latency that are still to be written when a trap is entered are written then, so that only function-unit
instructions are outstanding (R176). -/
def Crew.settled (c : Crew) (fresh : Nat) : Crew := c.landAll (fun p => p.due.isSome && p.fu.isNone) fresh

/-- A line of a frame holds an uncorrectable error (R80). -/
def State.frameSpoilt (s : State) (pa : Nat) : Bool := (List.range 32).any (fun i => s.poisoned.contains (lineOf pa + i))

/-- Step 4 of R172 on the crew: function-unit results go to the replay queue, every flag and the row-empty flag clear. -/
def Crew.captured (c : Crew) : Crew :=
  { c with flags := 0#12, rowEmpty := false,
           pends := (c.pends.filter (fun p => p.fu.isNone)).map (fun p => { p with flag := none }) }

/-- Step 6 of R172: the handler starts in the elected lane, which receives the frame's address, the kind and the aux. -/
def Crew.enterHandler (c : Crew) (t : Trap) (va slot pc : Nat) : Crew :=
  { c with
    handler := true, elected := t.lane, cause := t.kind, diverged := c.divergeTaken t.kind, em := 1#32 <<< t.lane,
    regs := writeCells c.regs (cellsAt 2 0 t.lane va ++ cellsAt 1 2 t.lane t.kind ++ cellsAt 1 3 t.lane t.aux),
    slot := slot, pc := pc, trap := none, wait := .none, ready := none, flagWait := none }

/-- The slot of a trap frame, or of a stack entry in it: an uncorrectable error in it is a context fault (R80). -/
def State.frameSlot (s : State) (ctx va : Nat) : Slot :=
  match s.ringSlot ctx va .write with
  | .ok pa => if s.frameSpoilt (pa / 4096 * 4096) then .bad 4 else .ok pa
  | x => x

/-- Steps 3 to 6 of R172, with no stroke of the crew in flight: a double trap, or the frame and then the handler or the trapped
state. -/
def State.enterTrap (s : State) (rid : Nat) (t : Trap) : State :=
  match s.crews.get? rid with
  | none => s
  | some c =>
    let ctx := c.ctx s
    if c.handler then (s.faultLog ctx (s.trapRec rid c t 0x01C)).becomeTrapped rid t.kind
    else
      let c := c.settled s.fresh
      let s := (s.setCrew rid (fun _ => c)).makeWritable ctx (s.frameVa rid c)
      match s.frameSlot ctx (s.frameVa rid c) with
      | .ok pa =>
        let s := (((s.writeFrame rid c t pa).dropLatch rid).dropMmaFlags rid).setCrew rid Crew.captured
        match s.trapEntry rid c t.kind with
        | some (slot, pc) => s.setCrew rid (fun c => c.enterHandler t (s.frameVa rid c) slot pc)
        | none => (s.faultLog ctx (s.trapRec rid c t t.kind)).becomeTrapped rid t.kind
      | .none => (s.ctxFault ctx 1).setCrew rid (fun c => { c with trap := some t, wait := .ctxFault })
      | .bad cause => (s.ctxFault ctx cause).setCrew rid (fun c => { c with trap := some t, wait := .ctxFault })

/-- An MMA of which a stop has left blocks to be computed (log 63). -/
def Crew.leftMma (c : Crew) : Option MmaJob :=
  match c.mma with | some j => if j.rest.isEmpty then none else some j | none => none

/-- Taking a precise trap (R172): the stroke closes, and the trap is entered at once where no stroke of the crew is in flight; else
it waits for the commits (PRECISE_TRAP_ENTRY). -/
def State.takeTrap (s : State) (rid : Nat) (t : Trap) : State :=
  let s := s.setCrew rid (fun c => { c.close s.clock with mma := c.leftMma, drain := none })
  match s.crews.get? rid with
  | none => s
  | some c =>
    if c.strokes.isEmpty then s.enterTrap rid t
    else s.setCrew rid (fun c => { c with trap := some t, wait := .strokes, ready := none })

/-! ### Returning from a trap (R177) -/

/-- The replay entry number n of a frame: encoding, lanes and captured operand. -/
def frameReplay (f : List Byte) (n : Nat) : BitVec 128 × Nat × LaneMask × (Nat → Word) :=
  let e := (f.drop (0x80 + 160 * n)).take 160
  (BitVec.ofNat 128 (ofBytes (e.take 16)), ofBytes ((e.drop 16).take 4), BitVec.ofNat 32 (ofBytes ((e.drop 20).take 4)),
    fun l => BitVec.ofNat 32 (ofBytes ((e.drop (32 + 4 * l)).take 4)))

/-- Why a frame is refused by RTE. -/
inductive FrameErr where
  | illegal | depth
  deriving DecidableEq, Repr

/-- The checks of R177 on a frame's header and replay entries: the entries as instructions. -/
def frameCheck (c : Crew) (f : List Byte) : Except FrameErr (List (Instr × Nat × LaneMask × (Nat → Word))) :=
  let h := ofBytes (f.take 64)
  let n := Frm.nrep.get h
  if 8 < n then .error .illegal
  else
    let es := (List.range n).filterMap (fun j =>
      let (b, at_, m, op) := frameReplay f j
      (replayInstr b c.allot).map (fun i => (i, at_, m, op)))
    if es.length < n then .error .illegal
    else if Frm.depth.get h ≠ c.stack.length then .error .depth
    else .ok es

/-- A return with resume from a comparator breakpoint sets the skip bit (R393). The trap's kind is the crew's own: the frame's kind field
is not read (R177). -/
def Crew.skipsAt (c : Crew) (f : List Byte) : Bool := decide (c.cause = 0x070) && decide (Frm.resume.get (ofBytes (f.take 64)) = 1)

/-- The crew after RTE: the elected lane's v0 to v3, em, slot and PC from the frame, and handler-active clear (R177). -/
def Crew.returned (c : Crew) (f : List Byte) : Crew :=
  let h := ofBytes (f.take 64)
  { c with
    regs := writeCells c.regs (cellsAt 4 0 c.elected (ofBytes ((f.drop 0x40).take 16))),
    em := BitVec.ofNat 32 (Frm.em.get h) &&& ~~~c.exited,
    slot := Frm.slot.get h, pc := Frm.pc.get h, handler := false }

/-- The replayed results, each holding its own flag (R177). An entry of no lane has no result. -/
def replayPends (es : List (Instr × Nat × LaneMask × (Nat → Word))) (clk order : Nat) : List Pend :=
  (es.filter (fun e => decide (e.2.2.1 ≠ 0#32))).map (fun (i, at_, m, op) =>
    let j := fuJob i (at_ / 2 ^ 12 % 16) (at_ % 2 ^ 12) (lanesOf m) op clk order false
    { serial := 0, cells := fuCells i j.a, race := [], due := none, flag := ((instrCtl i).bind (fun k => k.set)),
      rowEmpty := none, fu := some j })

/-! ### Stops before any effect -/

/-- What an instruction meets before any effect. -/
inductive Stop where
  | trap (t : Trap)
  | fault (q : QFault)
  /-- A context fault with its cause. -/
  | ctx (cause : Nat)
  | wait (w : Wait)
  deriving DecidableEq, Repr

/-- A trap at a crew's present instruction. -/
def Crew.trapAt (c : Crew) (kind aux addr lane : Nat) : Stop := .trap ⟨kind, aux, addr, lane, 0, c.pc, c.slot⟩

/-- A trap of the whole crew (R171). -/
def Crew.crewTrap (c : Crew) (kind aux : Nat) : Stop := c.trapAt kind aux 0 c.low

/-- An operand fault of the whole crew, by operand index (R170). -/
def Crew.operandFault (c : Crew) (idx : Nat) : Stop := c.crewTrap 0x018 idx

/-- A divergence fault (R170). -/
def Crew.diverges (c : Crew) : Stop := c.crewTrap 0x014 0

def State.waitFor (s : State) (rid : Nat) (w : Wait) : State :=
  { s.setCrew rid (fun c => { c with wait := w, ready := none }) with serial := s.serial + 1 }

/-- A crew's instruction stops: the trap is taken; a translation fault closes the stroke and waits for the commits before it joins
the fault queue (R257), which it does at once where no stroke of the crew is in flight; a wait leaves the instruction to be issued again. -/
def State.stopAt (s : State) (rid : Nat) (x : Stop) : State :=
  match x with
  | .trap t => { s with fresh := s.fresh + 1 }.takeTrap rid t
  | .fault q =>
    let s := s.setCrew rid (fun c => { c.close s.clock with fault := some q, wait := .strokes, ready := none })
    match s.crews.get? rid with
    | some c => if c.strokes.isEmpty then s.postFirst (.crew rid) .faultQueueJoin else s
    | none => s
  | .ctx cause =>
    match s.crews.get? rid with
    | some c => (s.ctxFault (c.ctx s) cause).setCrew rid (fun c => { c.close s.clock with wait := .ctxFault, ready := none })
    | none => s
  | .wait w => s.waitFor rid w

/-! ### Issuing (R212 to R215, R224) -/

/-- What an ordinary instruction brings about when it issues: the crew after its control effects, result cells with their latency
(none: variable), and what it adds to its stroke. -/
structure Out where
  crew : Crew
  cells : List (Nat × Word) := []
  lat : Option Nat := none
  row : Option Bool := none
  fu : Option Fu := none
  /-- Results that are issued again by RTE. -/
  more : List Pend := []
  rl : List Nat := []
  /-- Lines written, as the limit counts them. -/
  wl : List Nat := []
  /-- Lines counted that the write signature does not record: those of a .cas that does not write, and memory-side ones (R213, R216,
  R238). -/
  unwritten : List Nat := []
  /-- Memory-side lines read or written. -/
  sl : List Nat := []
  /-- Every line read lies in a stash page pinned to the context. -/
  pinned : Bool := true
  effs : List Eff := []
  sums : List Nat := []
  blocks : Option (List Nat) := none
  regns : List Regn := []
  binds : List Nat := []
  /-- Pages whose translation missed the TLB. -/
  misses : List Nat := []
  /-- The stroke closes after the instruction (R212). -/
  closes : Bool := false
  /-- The skip bit is set; any other issue clears it (R393). -/
  skips : Bool := false
  /-- YIELD: it acts as with the yield bit set, and the crew asks to be swapped out (R155). -/
  yields : Bool := false
  /-- The side's FP64 pipe takes the instruction (R184). -/
  fp64 : Bool := false
  /-- The stack entry that leaves the bay, and its number from the bottom (R152). -/
  spill : Option (Entry × Nat) := none

/-- The instruction would raise the stroke past a limit of R212: lines written, register blocks, pending sum lines. -/
def Stroke.exceeds (st : Stroke) (blocks : List Nat) (o : Out) : Bool :=
  decide (64 < (addLines st.wlines o.wl).length) || decide (8 < (addLines st.blocks blocks).length) ||
    decide (8 < (addLines st.sumLines o.sums).length)

/-- The stroke after an instruction joined it. -/
def Stroke.join (st : Stroke) (blocks : List Nat) (o : Out) : Stroke :=
  let st := (st.reads o.rl).writes (o.wl.filter (fun l => !o.unwritten.contains l))
  { st with wlines := addLines st.wlines o.wl, count := st.count + 1, blocks := addLines st.blocks blocks, sumLines := addLines st.sumLines o.sums,
            sideLines := addLines st.sideLines o.sl,
            effs := st.effs ++ o.effs, regns := st.regns ++ o.regns, binds := st.binds ++ o.binds,
            pinnedOnly := st.pinnedOnly && o.pinned }

/-- The stroke closes after the instruction: the 2,048th, the read signature's popcount above 1,024, the cut bit, or the instruction
itself (R212). -/
def Stroke.full (st : Stroke) (k : Ctl) (o : Out) : Bool :=
  decide (2048 ≤ st.count) || decide (1024 < popcount st.rsig.toNat 2048) || k.cut || o.closes

/-- A held stroke has touched a line of an umpire outside its reservations (R224). -/
def Stroke.strays (st : Stroke) (set : Option (List Nat)) : Bool :=
  st.held && !(st.lines.all (fun l => (set.getD []).contains (umpireOf l)))

/-- Marks of an issue: the time for the next stall and the yield bit (R57, R143). -/
def Crew.issued (c : Crew) (k : Ctl) (clk : Nat) : Crew :=
  { c with lastIssue := some clk, yielded := k.yield, yieldOut := false, ready := none, stalled := none, flagWait := none }

/-- The TLB walks that follow an access (R255). -/
def State.fills (s : State) (rid ctx : Nat) (vas : List Nat) : State :=
  { s with agenda := vas.map (fun va => Task.event (.walk (ridBay rid) ctx (BitVec.ofNat 64 va)) .tlbWalk) ++ s.agenda }

/-- A stack entry spills to the crew's trap frame (R152); where that cannot be written, the crew stands in a context fault (R80). -/
def State.spillEntry (s : State) (rid : Nat) (c : Crew) (e : Entry) (n : Nat) : State :=
  let ctx := c.ctx s
  let va := (s.frameVa rid c + 0xA00 + 16 * n) % 2 ^ 64
  let s := s.makeWritable ctx va
  match s.frameSlot ctx va with
  | .ok pa => s.write pa (stackEntry e)
  | .none => (s.ctxFault ctx 1).setCrew rid (fun c => { c with wait := .ctxFault })
  | .bad cause => (s.ctxFault ctx cause).setCrew rid (fun c => { c with wait := .ctxFault })

/-- Record an ordinary instruction that joined stroke st of a crew: results, flags, effects, closing. -/
def State.record (s : State) (rid : Nat) (k : Ctl) (blocks : List Nat) (st : Stroke) (o : Out) : State :=
  let ctx := o.crew.ctx s
  let o := { o with regns := o.regns.filter (fun r => !s.regns.contains r) }
  let st := st.join blocks o
  let clk := s.clock
  let c := { o.crew with strokes := (o.crew.strokes.filter (fun t => t.closed.isSome)) ++ [st] }
  let c := (o.more.map (fun p => { p with serial := st.serial })).foldl Crew.issueResult c
  let c := c.issueResult ⟨st.serial, o.cells, [], o.lat.map (clk + ·), k.set, o.row, o.fu⟩
  let c := c.issued k clk
  let c := { c with skip := o.skips, yielded := k.yield || o.yields, yieldOut := o.yields }
  let c := if st.full k o then c.close clk else c
  let s := { s with regns := s.regns ++ o.regns, serial := s.serial + 1, fresh := s.fresh + 1 }
  let s := if o.fp64 then s.setSide (ridBay rid) (ridSide rid) (fun x => { x with fp64 := clk + 4 }) else s
  let s := (s.setCrew rid (fun _ => c)).fills rid ctx o.misses
  let s := match o.spill with | some (e, n) => s.spillEntry rid c e n | none => s
  if st.strays c.heldSet then
    (s.squashFrom rid (c.strokes.length - 1)).setCrew rid (fun c =>
      { c with heldSet := some (addLines (c.heldSet.getD []) st.umpires), wait := .held })
  else s

/-- A register operand or vP at or above the allotment (R58, R66 step 9): the register. -/
def rangeFault (allot : Nat) (k : Ctl) (e : Enc) : Option Nat :=
  (operands e ++ predReg k.pred).findSome? (fun p =>
    if allot < p.1.toNat + p.2 then some (max p.1.toNat allot) else none)

/-- What an ordinary instruction does at the crew, or what it meets. -/
abbrev Body := State → Nat → Crew → Except Stop Out

/-- Issue an ordinary instruction (R212, R214): it joins the executing stroke, or the next one where it would exceed a limit or none
is executing. -/
def State.issueOrdinary (s : State) (rid : Nat) (c : Crew) (k : Ctl) (e : Enc) (body : Body) : State :=
  match rangeFault c.allot k e with
  | some r => s.takeTrap rid ⟨0x012, r, 0, c.low, 0, c.pc, c.slot⟩
  | none =>
    match body s rid c with
    | .error x => s.stopAt rid x
    | .ok o =>
      let blocks := o.blocks.getD (encBlocks e)
      match c.executing with
      | some st =>
        if st.exceeds blocks o then
          let c := c.close s.clock
          let s := s.setCrew rid (fun _ => c)
          match s.mayBegin rid c with
          | some w => s.waitFor rid w
          | none =>
            match body s rid c with
            | .error x => s.stopAt rid x
            | .ok o =>
              s.record rid k blocks (c.newStroke s.serial) { o with crew := { o.crew with granted := false, heldReady := false } }
        else s.record rid k blocks st o
      | none =>
        match s.mayBegin rid c with
        | some w => s.waitFor rid w
        | none =>
          s.record rid k blocks (c.newStroke s.serial) { o with crew := { o.crew with granted := false, heldReady := false } }

/-- What a bounding instruction does once every earlier stroke has committed: the state after it, or what it meets. -/
abbrev BBody := State → Nat → Crew → Except Stop State

/-- Issue a bounding instruction (R214): it closes the current stroke, waits for the crew's strokes to commit, and then performs. -/
def State.issueBounding (s : State) (rid : Nat) (c : Crew) (k : Ctl) (e : Enc) (body : BBody) : State :=
  match rangeFault c.allot k e with
  | some r => s.takeTrap rid ⟨0x012, r, 0, c.low, 0, c.pc, c.slot⟩
  | none =>
    let c := c.close s.clock
    let s := s.setCrew rid (fun _ => c)
    if c.strokes.isEmpty then
      match body { s with fresh := s.fresh + 1 } rid c with
      | .error x => { s with fresh := s.fresh + 1 }.stopAt rid x
      | .ok s => s
    else s.waitFor rid .strokes

/-- The crew has gone on past an MMA that is in the pipe. -/
def MmaRun.passed (r : MmaRun) : MmaRun := { r with past := true }

/-- A bounding instruction of a crew is done: its results are written at once and the crew goes on after it. -/
def State.finish (s : State) (rid : Nat) (k : Ctl) (c : Crew) (cells : List (Nat × Word)) : State :=
  s.setCrew rid (fun _ => { ((c.writeNow s.serial cells none).issued k s.clock) with skip := false, wait := .none, mmaRun := c.mmaRun.map MmaRun.passed })

/-- A bounding instruction has issued and leaves its crew asleep in a wait, at the same PC. -/
def State.sleep (s : State) (rid : Nat) (k : Ctl) (c : Crew) (w : Wait) : State :=
  { s.setCrew rid (fun _ => { c.issued k s.clock with skip := false, wait := w }) with serial := s.serial + 1 }

/-- A crew whose wait is satisfied goes on after its instruction (R135). -/
def State.resumeNext (s : State) (rid : Nat) : State :=
  s.setCrew rid (fun c => { c with pc := s.nextPc rid c, wait := .none, ready := none })

/-! ### A crew at placement (R115) -/

/-- The registers of a crew at placement: v0:1 holds argva in every lane, every other register 0. -/
def startRegs (arg : Nat) : Tbl Word :=
  writeCells [] ((List.range 32).flatMap (fun l => cellsAt 2 0 l arg))

/-- A crew at placement, at a byte offset of kernel slot 0, with an allotment in registers and a tag. -/
def Crew.start (k idx pc allot arg : Nat) (tag : Word) : Crew :=
  { kernel := k, idx := idx, pc := pc, slot := 0, em := 0xFFFF_FFFF#32, exited := 0#32, flags := 0#12, rowEmpty := false,
    stack := [], regs := startRegs arg, allot := allot, tag := tag, handler := false, elected := 0, cause := 0, skip := false, bents := [],
    debug := false, fresh := false, srStroke := 0, srPc := 0, progress := 0, restAt := none, resumed := none, life := .placed, wait := .none, ready := none, stalled := none,
    flagWait := none, lastIssue := none, yielded := false, yieldOut := false, pends := [], strokes := [], squashes := 0,
    heldSet := none, heldReady := false, granted := false, trap := none, fault := none, burst := false, mma := none, mmaRun := none, drain := none,
    gateSince := none, doomed := none, cancelled := false, stopping := false, diverged := none }

/-! ### The meaning of a crew instruction -/

/-- Run an ordinary instruction of the crew that issues. -/
def ordinary (i : Instr) (body : Body) (s : State) : Host.Outcome State Fault Refusal :=
  match s.place with
  | .crew rid =>
    match s.crews.get? rid, enc i with
    | some c, some (k, e) => .next (s.issueOrdinary rid c k e body)
    | _, _ => .fault .noCrew
  | _ => .fault .noCrew

/-- Run a bounding instruction of the crew that issues. -/
def bounding (i : Instr) (body : BBody) (s : State) : Host.Outcome State Fault Refusal :=
  match s.place with
  | .crew rid =>
    match s.crews.get? rid, enc i with
    | some c, some (k, e) => .next (s.issueBounding rid c k e body)
    | _, _ => .fault .noCrew
  | _ => .fault .noCrew

end Sys2Proof.Machine
end

