-- ==== Sys2Proof/Machine/Reg.lean ====
section
/-! DEFINITION. Operations on barrier objects in memory: what they wake, registrations, and orphans (R305, R308, R311 to R313, R109). -/

namespace Sys2Proof.Machine

/-- A crew index is a member of a bent of a kernel (R137). -/
def State.member (s : State) (k b idx : Nat) : Bool :=
  match (s.kern k).bents[b]? with
  | some t => t.ranges.any (fun r => decide (r.1 ≤ idx) && decide (idx ≤ r.2))
  | none => false

/-- Every member of a bent has exited (R139): the ranges' sizes against the members that have. -/
def State.bentClosed (s : State) (k b : Nat) : Bool :=
  match (s.kern k).bents[b]? with
  | some t =>
    decide ((t.ranges.map (fun r => r.2 + 1 - r.1)).sum ≤
      ((s.kern k).keep.filter (fun p => p.2.exited && s.member k b p.1)).length)
  | none => true

/-! ### The stamp window of a crew (R399) -/

/-- Change the open stamp window of a crew. -/
def State.onWindow (s : State) (k idx : Nat) (f : Window → Window) : State :=
  match ((s.kern k).keepOf idx).windows.getLast? with
  | some w =>
    if w.closed then s
    else s.setKern k (fun y => y.setKeep idx (fun e => { e with windows := e.windows.dropLast ++ [f w] }))
  | none => s

/-- A WAIT of a crew sleeps, or ends. -/
def State.waitBegins (s : State) (k idx : Nat) : State := s.onWindow k idx (fun w => { w with waitFrom := some s.clock })
def State.waitEnds (s : State) (k idx : Nat) : State :=
  s.onWindow k idx (fun w =>
    match w.waitFrom with
    | some t => { w with waitFrom := none, opwait := if w.mstart.isNone then w.opwait + (s.clock - t) else w.opwait }
    | none => w)

/-! ### What an operation on an object wakes -/

/-- A waiter of the object at pa re-tests its condition against object o (R308, R313, R316, R320). -/
def State.retest (s : State) (pa o : Nat) (rid : Nat) (c : Crew) : State :=
  match c.wait with
  | .barrier q va x mode =>
    if q ≠ pa then s
    else if Bar.mode.get o ≠ mode then (s.waitEnds c.kernel c.idx).takeTrap rid ⟨0x051, 2, va, c.low, 0, c.pc, c.slot⟩
    else if Bar.holds o x = some true then (s.waitEnds c.kernel c.idx).resumeNext rid
    else if Bar.orphan.get o = 1 then (s.waitEnds c.kernel c.idx).takeTrap rid ⟨0x050, 0, va, c.low, 0, c.pc, c.slot⟩
    else s
  | _ => s

/-- A barrier dependence on the object at pa is met by object o (R109). -/
def Dep.metBy (pa o : Nat) : Dep → Bool
  | .kernel _ => false
  | .phase q p => decide (q = pa) && decide (Bar.mode.get o = 1) && decide (Bar.holds o p = some true)
  | .value q v => decide (q = pa) && decide (Bar.mode.get o = 2) && decide (Bar.holds o v = some true)

/-- A dependence watches the object at pa. -/
def Dep.watches (pa : Nat) : Dep → Bool
  | .kernel _ => false
  | .phase q _ => decide (q = pa)
  | .value q _ => decide (q = pa)

/-- Object o at pa is orphaned and in the mode that a dependence needs: the dependence fails (R109, R313). -/
def Dep.failedBy (pa o : Nat) : Dep → Bool
  | .kernel _ => false
  | .phase q _ => decide (q = pa) && decide (Bar.mode.get o = 1) && decide (Bar.orphan.get o = 1)
  | .value q _ => decide (q = pa) && decide (Bar.mode.get o = 2) && decide (Bar.orphan.get o = 1)

/-- A kernel's dependences are tracked before its first admission (R110). -/
def Kernel.tracked (y : Kernel) : Bool :=
  match y.state with
  | .posted | .blocked | .ready => true
  | .stopped => !y.begun
  | _ => false

/-- A kernel counts as ready in its queue's record (R88): its dependences are met and it is not yet admitted. -/
def Kernel.waitsReady (y : Kernel) : Bool :=
  match y.state with
  | .ready => true
  | .stopped => !y.begun && y.deps.isEmpty
  | _ => false

/-- The nready field of a queue is brought up to date (R88). -/
def State.recount (s : State) (q : Nat) : State :=
  s.setFld .queue q Que.nready (s.kernels.filter (fun p => decide (p.2.queue = q) && p.2.waitsReady)).length

/-- Dependences of kernel k that object o at pa meets are met; with the last one the kernel becomes ready (R109, R110). A dependence on an
orphaned object that it does not meet fails, and the kernel retires as cancelled (R109, R313). -/
def State.judgeDeps (s : State) (pa o k : Nat) : State :=
  let y := s.kern k
  let left := y.deps.filter (fun d => !d.metBy pa o)
  if !y.tracked || y.ending.isSome || !y.deps.any (Dep.watches pa) then s
  else if left.any (Dep.failedBy pa o) then
    (s.setKern k (fun y => { y with ending := some 1 })).post (.kernel k) .kernelRetire
  else
    let s := (s.setKern k (fun y => { y with deps := left })).recount y.queue
    if left.isEmpty && decide (y.state = .blocked) then s.post (.kernel k) .kernelDependenceMet else s

/-- Everyone who watches the object at pa looks at it again after an operation on it. -/
def State.touch (s : State) (pa : Nat) : State :=
  let o := s.num pa 32
  let s := s.crews.foldl (fun s p => s.retest pa o p.1 p.2) s
  s.kernels.foldl (fun s p => s.judgeDeps pa o p.1) s

/-- Perform one operation on the object at pa (R305), or find the mode failure. -/
def State.barPerform (s : State) (pa : Nat) (op : BarOp) : Except Nat State :=
  match op.apply (s.num pa 32) with
  | .ok o => .ok ((s.writeNum pa 32 o).touch pa)
  | .error a => .error a

/-! ### Operations of the device on a page marked for a checkpoint copy (R270) -/

/-- The page of an object, where its address still maps it, is marked for a copy: a write to it is held. -/
def State.barMarked (s : State) (ctx va pa : Nat) : Bool :=
  match s.leafOf ctx va with
  | some (e, _, big) => Pte.c e && decide (leafPa e big va = pa)
  | none => false

/-- An operation is held, and the copy of the page comes next. -/
def State.holdBar (s : State) (h : HeldBar) : State :=
  { s with heldBars := s.heldBars ++ [h] }.postFirst (.page h.ctx (BitVec.ofNat 64 h.va)) .checkpointCowCopy

/-- The device performs an operation on an object by its name, or holds it for the copy of its page; or finds the mode failure. -/
def State.barWrite (s : State) (ctx va pa : Nat) (op : BarOp) : Except Nat State :=
  if s.barMarked ctx va pa then
    match op.apply (s.num pa 32) with | .ok _ => .ok (s.holdBar ⟨ctx, va, pa, some op⟩) | .error a => .error a
  else s.barPerform pa op

/-- The object at pa as it will be with the operations that are held for it. -/
def State.barSoon (s : State) (pa : Nat) : Nat :=
  (s.heldBars.filter (fun h => decide (h.pa = pa))).foldl (fun o h =>
    match h.op with
    | some op => (match op.apply o with | .ok x => x | .error _ => o)
    | none => Bar.orphan.set o 1) (s.num pa 32)

/-! ### Orphans (R312, R313) -/

/-- The object at pa becomes orphaned. -/
def State.orphanNow (s : State) (pa : Nat) : State :=
  let o := s.num pa 32
  if Bar.mode.get o = 1 ∨ Bar.mode.get o = 2 then
    if Bar.orphan.get o = 1 then s else (s.writeNum pa 32 (Bar.orphan.set o 1)).touch pa
  else s

/-- The object that a registration names becomes orphaned, once its page has been copied where it must be (R270); where the context is being
destroyed, and its checkpoint with it, at once (log 92). -/
def State.orphan (s : State) (r : Regn) : State :=
  if s.barMarked r.ctx r.va r.obj && decide (s.suspending.get? r.ctx ≠ some .destroy) then s.holdBar ⟨r.ctx, r.va, r.obj, none⟩ else s.orphanNow r.obj

/-- Held operations are performed, in order. -/
def State.performBars (s : State) (free : HeldBar → Bool) : State :=
  (s.heldBars.filter free).foldl (fun s h =>
    match h.op with
    | some op => (match s.barPerform h.pa op with | .ok t => t | .error _ => s)
    | none => s.orphanNow h.pa) { s with heldBars := s.heldBars.filter (fun h => !free h) }

/-- The operations of a context whose pages have been copied are performed. -/
def State.serveBars (s : State) (ctx : Nat) : State := s.performBars (fun h => decide (h.ctx = ctx) && !s.barMarked h.ctx h.va h.pa)

/-- Crew idx of kernel k waits on the object at pa in a WAIT. -/
def State.waitsOn (s : State) (k idx pa : Nat) : Bool :=
  s.crews.any (fun p => decide (p.2.kernel = k) && decide (p.2.idx = idx) &&
    (match p.2.wait with | .barrier q _ _ _ => decide (q = pa) | _ => false))

/-- A live registration belongs to a crew, or to crews, now waiting on the object in a WAIT (R312). -/
def State.idle (s : State) (r : Regn) : Bool :=
  match r.src with
  | .crew c => s.waitsOn r.k c r.obj
  | .bound c _ => s.waitsOn r.k c r.obj
  | .bent b =>
    match (s.kern r.k).bents[b]? with
    | some t => t.ranges.all (fun g =>
        -- the members that neither have exited nor are resident are not waiting
        decide (g.2 + 1 - g.1 ≤ ((s.kern r.k).keep.filter (fun p => decide (g.1 ≤ p.1) && decide (p.1 ≤ g.2) &&
          (p.2.exited || s.waitsOn r.k p.1 r.obj))).length))
    | none => true
  | .cmd _ => false

/-- The greatest batch closed under a binding of an object, of count batches closed: each binding runs up to the next one's first batch. -/
def lastBound (obj count : Nat) : List (Nat × Nat) → Nat
  | [] => 0
  | (pa, first) :: rest =>
    let last := match rest with | (_, next) :: _ => next - 1 | [] => count
    max (if pa = obj ∧ first ≤ last then last else 0) (lastBound obj count rest)

/-- The value that a source owes a timeline (R312): the number of each batch that a bound crew has closed. -/
def State.owes (s : State) (r : Regn) : Nat :=
  match r.src with
  | .bound c eng =>
    let e := (s.kern r.k).keepOf c
    if eng then lastBound r.obj e.ecount e.ebinds else lastBound r.obj e.mcount e.mbinds
  | .crew _ => 0
  | .bent _ => 0
  | .cmd _ => 0

/-- The end of a registration r, no longer listed, is judged (R312): with the operations still held for the object, and as the end of a source
of a destroyed context where the context is being destroyed (R82). -/
def State.regEnded (s : State) (r : Regn) : State :=
  let o := s.barSoon r.obj
  if s.suspending.get? (s.kern r.k).ctx = some .destroy then s.orphan r
  else
    match Bar.mode.get o with
    | 1 => if Bar.touched.get o = 1 ∧ ((s.regns.filter (fun q => decide (q.obj = r.obj))).all s.idle) = true then s.orphan r else s
    | 2 => if Bar.value.get o < s.owes r then s.orphan r else s
    | _ => s

/-- End a registration (R311). -/
def State.endRegn (s : State) (r : Regn) : State :=
  if s.regns.contains r then { s with regns := s.regns.filter (fun q => decide (q ≠ r)) }.regEnded r else s

/-- End registrations one after another. -/
def State.endRegns (s : State) (rs : List Regn) : State := rs.foldl State.endRegn s

/-- A crew's exit ends its registrations as a crew and as a member (R311); a bent's registration goes with its last member. -/
def State.endCrewRegns (s : State) (k idx : Nat) : State :=
  s.regns.foldl (fun s r =>
    if r.k ≠ k then s
    else
      match r.src with
      | .crew c => if c = idx then s.endRegn r else s
      | .bent b =>
        if !s.member k b idx then s
        else if s.bentClosed k b then s.endRegn r
        else if s.regns.contains r then s.regEnded r
        else s
      | .bound _ _ => s
      | .cmd _ => s) s

/-! ### Registering (R311) -/

/-- A crew of a kernel stands behind a registration. -/
def State.holdsReg (s : State) (k idx : Nat) (r : Regn) : Bool :=
  decide (r.k = k) &&
    (match r.src with
     | .crew c => decide (c = idx)
     | .bent b => s.member k b idx && !((s.kern k).keepOf idx).exited
     | .bound c _ => decide (c = idx)
     | .cmd _ => false)

/-- Objects with crew registrations of a crew. -/
def State.regObjects (s : State) (k idx : Nat) : List Nat :=
  ((s.regns.filter (s.holdsReg k idx)).map (fun r => r.obj)).dedup

/-- The crew limit would be passed by a registration of a crew on an object. -/
def State.crewFull (s : State) (obj k idx : Nat) : Bool :=
  let os := s.regObjects k idx
  decide (16 ≤ os.length) && !os.contains obj

/-- Members of a bent that stand for all its members in the judgement of the crew limit: those named by registrations, and the first
index of each stretch over which membership of the kernel's bents does not change. -/
def State.bentSamples (s : State) (k b : Nat) : List Nat :=
  let all := (s.kern k).bents.flatMap (fun t => t.ranges.flatMap (fun r => [r.1, r.2 + 1]))
  let named := s.regns.flatMap (fun r => if r.k ≠ k then [] else
    match r.src with | .crew c => [c, c + 1] | .bound c _ => [c, c + 1] | .bent _ => [] | .cmd _ => [])
  let exits := (s.kern k).keep.flatMap (fun p => if p.2.exited then [p.1, p.1 + 1] else [])
  ((all ++ named ++ exits).dedup).filter (fun i => s.member k b i && !((s.kern k).keepOf i).exited)

/-- Why a registration cannot be made: the aux value of the registration fault (R314); none where it stands already or may be made. -/
def State.regRefused (s : State) (r : Regn) : Option Nat :=
  if s.regns.contains r then none
  else
    let full : Bool :=
      match r.src with
      | .crew c => s.crewFull r.obj r.k c
      | .bound c _ => s.crewFull r.obj r.k c
      | .bent b => (s.bentSamples r.k b).any (s.crewFull r.obj r.k)
      | .cmd _ => false
    let pairs := ((s.regns.filter (fun q => decide (homeSlice q.obj = homeSlice r.obj))).map (fun q => (q.obj, q.k))).dedup
    if full then some 1
    else if Config.regEntries ≤ pairs.length ∧ pairs.contains (r.obj, r.k) = false then some 2
    else none

/-- Make a registration. -/
def State.register (s : State) (r : Regn) : State :=
  if s.regns.contains r then s else { s with regns := s.regns ++ [r] }

end Sys2Proof.Machine
end

