-- ==== Sys2Proof/Machine/Commit.lean ====
section
/-! DEFINITION. The commit of a stroke: reservations, commit-time effects, batches and their timelines (R219, R220, R223, R224, R226,
R295, R296, R327). -/

namespace Sys2Proof.Machine

/-! ### Batches and bound timelines (R295, R296, R327) -/

/-- What a stop has left of an MMA that its crew had gone past (log 63): reductions yet to be issued. -/
def State.restOf (s : State) (k idx : Nat) : List Red :=
  let here := s.crews.findSome? (fun p => if p.2.kernel = k ∧ p.2.idx = idx then p.2.mma else none)
  match here.or ((s.kern k).keepOf idx).mma with | some j => j.rest | none => []

/-- The last batch of a crew all of whose members are complete, for engine commands or for reductions. -/
def State.reached (s : State) (eng : Bool) (k idx : Nat) : Nat :=
  let e := (s.kern k).keepOf idx
  let mine (k' c' : Nat) : Bool := decide (k' = k) && decide (c' = idx)
  let out : List Nat :=
    if eng then (s.cmds.filter (fun c => mine c.k c.crew && (match c.kind with | .cfetch .. => false | _ => true))).map (fun c => c.batch)
    else (s.reds.filter (fun r => mine r.k r.crew) ++ s.restOf k idx).map (fun r => r.batch)
  -- an aborted command leaves its batch unreached (R312)
  let top := if eng then min e.ecount ((e.ebroken.getD (e.ecount + 1)) - 1) else e.mcount
  out.foldl (fun n b => min n (b - 1)) top

/-- The address by which a crew's bound timeline was named. -/
def State.boundVa (s : State) (eng : Bool) (k idx pa : Nat) : Nat :=
  ((s.regns.find? (fun r => decide (r.obj = pa) && decide (r.k = k) && decide (r.src = .bound idx eng))).map (fun r => r.va)).getD 0

/-- Raise each bound timeline as far as the batches reached allow, and end the earlier bindings whose batches are all reached (R311):
binding by binding, each with the first batch of the next. -/
def State.raiseBinds (eng : Bool) (k idx n : Nat) : List (Nat × Nat) → State → State
  | [], s => s
  | (pa, first) :: rest, s =>
    let last := match rest with | (_, f) :: _ => some (f - 1) | [] => none
    let v := min n (last.getD n)
    let s :=
      if first ≤ v ∧ Bar.mode.get (s.num pa 32) = 2 ∧ Bar.value.get (s.barSoon pa) < v then
        match s.barWrite (s.kern k).ctx (s.boundVa eng k idx pa) pa (.raise v) with | .ok s => s | .error _ => s
      else s
    let s :=
      match last with
      | some l =>
        -- the object may be bound again by a later one
        if l ≤ n ∧ rest.any (fun b => decide (b.1 = pa)) = false then
          (s.regns.filter (fun r => decide (r.obj = pa) && decide (r.k = k) && decide (r.src = .bound idx eng))).foldl State.endRegn s
        else s
      | none => s
    State.raiseBinds eng k idx n rest s

/-- Drop the earlier bindings whose batches are all reached. -/
def dropBinds (n : Nat) : List (Nat × Nat) → List (Nat × Nat)
  | (pa, first) :: (pa', first') :: rest =>
    if first' - 1 ≤ n then dropBinds n ((pa', first') :: rest) else (pa, first) :: dropBinds n ((pa', first') :: rest)
  | l => l

/-- The timelines that a crew's batches advance. -/
def State.advance (s : State) (eng : Bool) (k idx : Nat) : State :=
  let e := (s.kern k).keepOf idx
  let n := s.reached eng k idx
  let s := State.raiseBinds eng k idx n (if eng then e.ebinds else e.mbinds) s
  s.setKern k (fun y => y.setKeep idx (fun e =>
    if eng then { e with ebinds := dropBinds n e.ebinds } else { e with mbinds := dropBinds n e.mbinds }))

/-- Bind a timeline for the batches from the open one on. -/
def Keep.bind (e : Keep) (eng : Bool) (pa : Nat) : Keep :=
  let add (l : List (Nat × Nat)) (n : Nat) : List (Nat × Nat) :=
    if (l.getLast?).map Prod.fst = some pa then l else l ++ [(pa, n + 1)]
  if eng then { e with ebinds := add e.ebinds e.ecount } else { e with mbinds := add e.mbinds e.mcount }

/-! ### Reductions that meet poison (R287) -/

/-- A reduction to a poisoned line is dropped; its kernel is told once for the line. -/
def State.dropRed (s : State) (r : Red) : State :=
  if s.told.contains (lineOf r.pa, r.k) then s
  else
    { s with told := s.told ++ [(lineOf r.pa, r.k)] }.late
      ⟨r.ctx, 0x043, 0, BitVec.ofNat 64 (r.va / 128 * 128), r.pc, BitVec.ofNat 64 r.stroke, s.handle r.k, r.crew, r.bay, false⟩

/-- Issue a reduction (R284). -/
def State.issueRed (s : State) (r : Red) : State :=
  let s :=
    if ((s.kern r.k).keepOf r.crew).mopen then s
    else s.setKern r.k (fun y => y.setKeep r.crew (fun e => { e with mopen := true }))
  if s.poisoned.contains (lineOf r.pa) then s.dropRed r else { s with reds := s.reds ++ [r] }

/-! ### Effects (R220) -/

/-- The crew and stroke whose effects are applied: resident id, crew, PC of its first instruction, sequence number (0 if none). -/
structure Committer where
  rid : Nat
  c : Crew
  pc : Nat
  seq : Nat

def Committer.late (m : Committer) (s : State) (kind aux addr : Nat) : State :=
  s.late (m.c.lateFault s m.rid kind aux addr m.pc m.seq)

/-- A write to memory in its turn: the bytes enter the digest where the line is cached (R246); on a poisoned line the write is dropped and
reported late (R287). -/
def Committer.put (m : Committer) (s : State) (g : DWord) (va pa : Nat) (bs : List Byte) (memside : Bool) : State × DWord :=
  if s.poisoned.contains (lineOf pa) then (m.late s 0x042 (pa % 128 / 8) va, g)
  else (s.write pa bs, if memside then g else crcWrite g va bs)

/-- A memory write of the stroke. -/
def Committer.mem (m : Committer) (s : State) (g : DWord) : Eff → State × DWord
  | .store va pa bs memside => m.put s g va pa bs memside
  | .red va pa op ty v memside =>
    m.put s g va pa (toBytes (tyBytes ty) (Alu.rmw op ty (s.num pa (tyBytes ty)) v 0)) memside
  | .sumred va pa v =>
    let batch := ((s.kern m.c.kernel).keepOf m.c.idx).mcount + 1
    (s.issueRed ⟨va, pa, v, m.c.kernel, m.c.idx, m.c.ctx s, batch, none, 0, s.clock, m.pc, ridBay m.rid, m.seq, none⟩, g)
  | .bar .. => (s, g)
  | .trace .. => (s, g)
  | .mfence .. => (s, g)

/-- The operation is that of an ARRIVE or EXPECT, whose crew is registered (R311). -/
def BarOp.arrives : BarOp → Bool
  | .arrive _ => true
  | .expect _ => true
  | .land _ => false
  | .raise _ => false
  | .tladd _ => false
  | .initPhase .. => false
  | .initTimeline _ => false

/-- A barrier operation of the stroke: a mode failure drops it and is reported late (R315). A BARINIT drops every registration on the
object but its own (R316); the registration of a later ARRIVE or EXPECT of the same stroke stands. -/
def Committer.bar (m : Committer) (s : State) : Eff → State
  | .bar va pa op keep =>
    if s.poisoned.contains (lineOf pa) then m.late s 0x042 (pa % 128 / 8) va
    else
      let s := match keep with
        | some own => own.foldl State.register { s with regns := s.regns.filter (fun r => decide (r.obj ≠ pa) || own.contains r) }
        | none => s
      let s := if op.arrives then s.register ⟨pa, m.c.ctx s, va, m.c.kernel, .crew m.c.idx⟩ else s
      match s.barPerform pa op with
      | .ok s => s
      | .error a => m.late s 0x051 a va
  | .store .. => s
  | .red .. => s
  | .sumred .. => s
  | .trace .. => s
  | .mfence .. => s

/-- The common part of a record of the shared buffer (R399, R400): kind, bay, crew, kernel. -/
def State.recordHead (s : State) (kind bay crew k : Nat) : Nat :=
  setAll [(⟨504, 8⟩, kind), (⟨480, 16⟩, bayCode bay), (⟨96, 32⟩, crew), (⟨64, 32⟩, s.handle k)]

/-- Trace records and MFENCE markers (R242, R400). -/
def Committer.mark (m : Committer) (s : State) : Eff → State
  | .trace value code pc em tag =>
    s.stampLog (m.c.ctx s) (s.recordHead 2 (ridBay m.rid) m.c.idx m.c.kernel + setAll [(⟨448, 32⟩, em.toNat), (⟨416, 32⟩, pc),
      (⟨384, 32⟩, tag.toNat), (⟨320, 64⟩, s.clock), (⟨256, 64⟩, m.seq), (⟨224, 32⟩, code), (⟨192, 32⟩, value)])
  | .mfence eng peer =>
    let cmds := (s.cmds.filter (fun c => decide (c.k = m.c.kernel) && decide (c.crew = m.c.idx) &&
      (match c.kind with | .cfetch .. => false | _ => true))).map (fun c => c.id)
    let sent := (s.peers.filter (fun p => decide (p.k = m.c.kernel) && decide (p.crew = m.c.idx) && p.get.isNone && p.cmd.isNone)).map (fun p => p.id)
    s.setKern m.c.kernel (fun y => y.setKeep m.c.idx (fun e =>
      { e with engAfter := if eng then cmds else e.engAfter, peerAfter := if peer then sent else e.peerAfter }))
  | .store .. => s
  | .red .. => s
  | .sumred .. => s
  | .bar .. => s

/-- Apply a stroke's commit-time effects in the order of R220, with the crew's digest. -/
def Committer.apply (m : Committer) (s : State) (g : DWord) (effs : List Eff) : State × DWord :=
  let r := effs.foldl (fun r e => m.mem r.1 r.2 e) (s, g)
  (effs.foldl (fun s e => m.mark s e) (effs.foldl (fun s e => m.bar s e) r.1), r.2)

/-! ### Reservations (R220, R224) -/

/-- Umpires reserved by held strokes of crews other than one. -/
def State.reserved (s : State) (rid : Nat) : List Nat :=
  s.crews.flatMap (fun p =>
    if p.1 ≠ rid && (p.2.heldReady || p.2.strokes.any (fun st => st.held)) then p.2.heldSet.getD [] else [])

/-- Every variable-latency result of a stroke but those of FSINT to FTANH has been written (R176). -/
def Crew.written (c : Crew) (st : Stroke) : Bool :=
  c.pends.all (fun p => decide (st.serial < p.serial) || (p.due.isSome && p.fu.isNone) || (match p.fu with | some f => !f.smx | none => false))

/-- A stroke is local (R223). -/
def State.isLocal (s : State) (c : Crew) (st : Stroke) : Bool :=
  st.effs.isEmpty && decide (st.wsig = 0#2048) && st.pinnedOnly && !st.held &&
    decide (s.cfg (c.ctx s) Ctx.record = 0) && decide (s.cfg (c.ctx s) Ctx.replay = 0)

/-- The crew's oldest stroke, closed, with its results written. -/
def Crew.closing (c : Crew) : Option Stroke :=
  match c.strokes with
  | st :: _ => if st.closed.isSome && c.written st && !(match c.wait with | .ctxFault => true | _ => false) then some st else none
  | [] => none

/-- The oldest stroke of a crew has committed: the crew goes on where it waited for that. -/
def State.committed (s : State) (rid : Nat) (st : Stroke) : State :=
  let s := s.setCrew rid (fun c =>
    { c with strokes := c.strokes.drop 1, squashes := 0, gateSince := none, mmaRun := c.mmaRun.map MmaRun.passed,
             heldSet := if st.held then none else c.heldSet })
  match s.crews.get? rid with
  | none => s
  | some c =>
    let s :=
      match c.wait with
      | .room => s.setCrew rid (fun c => { c with wait := .none })
      | .strokes =>
        if !c.strokes.isEmpty then s
        else if c.trap.isSome then s.postFirst (.crew rid) .preciseTrapEntry
        else if c.fault.isSome then s.postFirst (.crew rid) .faultQueueJoin
        else s.setCrew rid (fun c => { c with wait := .none })
      | _ => s
    if c.strokes.isEmpty && (decide (c.exited = 0xFFFF_FFFF#32) || (s.kern c.kernel).ending.isSome) then s.postFirst (.crew rid) .crewExit
    else s

/-- The cached line that an effect writes at the commit (R216). -/
def Eff.line : Eff → Option Nat
  | .store _ pa _ memside => if memside then none else some (lineOf pa)
  | .red _ pa _ _ _ memside => if memside then none else some (lineOf pa)
  | .bar _ pa _ _ => some (lineOf pa)
  | .sumred .. => none
  | .trace .. => none
  | .mfence .. => none

/-- Commit through the umpires (R220), the gate having passed the stroke: gated is true where it uses a commit-run entry. -/
def State.commitSeq (s : State) (rid : Nat) (c : Crew) (st : Stroke) (use : Bool) : State :=
  let k := c.kernel
  let seq := s.order
  let m : Committer := ⟨rid, c, st.snap.pc, seq⟩
  let r := m.apply { s with order := seq + 1 } ((s.kern k).keepOf c.idx).digest st.effs
  let kept := s.logged k || s.gated k
  let s := (r.1.setKern k (fun y => y.setKeep c.idx (fun e =>
    { (st.binds.foldl (fun e pa => Keep.bind e true pa) e) with digest := if kept then r.2 else e.digest, stroke := seq }))).setCrew rid
      (fun c => { c with srStroke := seq, srPc := st.snap.pc })
  let s := if st.binds.isEmpty then s else s.advance true k c.idx
  let s := if s.logged k then s.logCommit (c.ctx s) k c.idx r.2 else s
  let s :=
    if s.gated k then
      let s := match (s.kern k).knum with
        | some kn => s.setLog (c.ctx s) (fun l => { l with digests := l.digests.set (digestKey kn c.idx) r.2 })
        | none => s
      if use then s.gateUsed (c.ctx s) else s
    else s
  (s.committed rid st).broadcast (addLines [] (st.effs.filterMap Eff.line)) (some rid)

end Sys2Proof.Machine
end

