-- ==== Sys2Proof/Machine/ExecInt.lean ====
section
/-! DEFINITION. The meanings of the integer and logical instructions (R181 to R188). -/

namespace Sys2Proof.Machine

/-- A result of n registers in each acting lane, written after lat clk (R59, R181, R184). -/
def laneOp (k : Ctl) (n : Nat) (d : Reg) (lat : Nat) (f : Crew → Nat → Nat) : Body := fun s rid c =>
  .ok { crew := { c with pc := s.nextPc rid c }, cells := cellsIn (c.acting k.pred) n d (f c), lat := some lat }

/-- 4 clk with a 32-bit type, 6 clk with a 64-bit type (R184). -/
def intLat (t : Ty) : Nat := if t.regs = 2 then 6 else 4

/-- 6 clk, 12 clk with a 64-bit type (R184). -/
def mulLat (t : Ty) : Nat := if t.regs = 2 then 12 else 6

/-- Operations on a and operand b of one type (R182, R183). -/
def intAB (k : Ctl) (ty : Ty) (lat : Nat) (d a : Reg) (b : Src) (f : Nat → Nat → Nat) : Body :=
  laneOp k ty.regs d lat (fun c l => f (c.val ty.regs a l) (c.src ty true b l))

/-- Operations on a and a 32-bit count or field word b (R182, R183). -/
def intCount (k : Ctl) (ty : Ty) (d a : Reg) (b : Src) (f : Nat → Nat → Nat) : Body :=
  laneOp k ty.regs d (intLat ty) (fun c l => f (c.val ty.regs a l) (c.src ty false b l))

def execIadd (k : Ctl) (ty : Ty) (sat : Bool) (d a : Reg) (b : Src) : State → Host.Outcome State Fault Refusal :=
  ordinary (.iadd k ty sat d a b) (intAB k ty (intLat ty) d a b (Alu.iadd ty sat))

def execIsub (k : Ctl) (ty : Ty) (sat : Bool) (d a : Reg) (b : Src) : State → Host.Outcome State Fault Refusal :=
  ordinary (.isub k ty sat d a b) (intAB k ty (intLat ty) d a b (Alu.isub ty sat))

def execIaddx (k : Ctl) (ty : Ty) (sat : Bool) (d a b c : Reg) : State → Host.Outcome State Fault Refusal :=
  ordinary (.iaddx k ty sat d a b c) (laneOp k ty.regs d (intLat ty) (fun x l =>
    Alu.iaddx ty sat (x.val ty.regs a l) (x.val ty.regs b l) (x.val ty.regs c l)))

def execImul (k : Ctl) (ty : Ty) (d a : Reg) (b : Src) : State → Host.Outcome State Fault Refusal :=
  ordinary (.imul k ty d a b) (intAB k ty (mulLat ty) d a b (Alu.imul ty))

def execImulh (k : Ctl) (ty : Ty) (d a : Reg) (b : Src) : State → Host.Outcome State Fault Refusal :=
  ordinary (.imulh k ty d a b) (intAB k ty (mulLat ty) d a b (Alu.imulh ty))

def execImad (k : Ctl) (ty : Ty) (d a b c : Reg) : State → Host.Outcome State Fault Refusal :=
  ordinary (.imad k ty d a b c) (laneOp k ty.regs d (mulLat ty) (fun x l =>
    Alu.imad ty (x.val ty.regs a l) (x.val ty.regs b l) (x.val ty.regs c l)))

def execIabs (k : Ctl) (ty : Ty) (sat : Bool) (d a : Reg) : State → Host.Outcome State Fault Refusal :=
  ordinary (.iabs k ty sat d a) (laneOp k ty.regs d (intLat ty) (fun x l => Alu.iabs ty sat (x.val ty.regs a l)))

def execImin (k : Ctl) (ty : Ty) (d a : Reg) (b : Src) : State → Host.Outcome State Fault Refusal :=
  ordinary (.imin k ty d a b) (intAB k ty (intLat ty) d a b (Alu.imin ty))

def execImax (k : Ctl) (ty : Ty) (d a : Reg) (b : Src) : State → Host.Outcome State Fault Refusal :=
  ordinary (.imax k ty d a b) (intAB k ty (intLat ty) d a b (Alu.imax ty))

def execIclamp (k : Ctl) (ty : Ty) (d a b c : Reg) : State → Host.Outcome State Fault Refusal :=
  ordinary (.iclamp k ty d a b c) (laneOp k ty.regs d (intLat ty) (fun x l =>
    Alu.iclamp ty (x.val ty.regs a l) (x.val ty.regs b l) (x.val ty.regs c l)))

/-- The result is one register under every type (R182, R188). -/
def execIcmp (k : Ctl) (ty : Ty) (cond : Cond) (d a : Reg) (b : Src) : State → Host.Outcome State Fault Refusal :=
  ordinary (.icmp k ty cond d a b) (laneOp k 1 d (intLat ty) (fun x l =>
    Alu.icmp ty cond (x.val ty.regs a l) (x.src ty true b l)))

/-- The selector c is one register (R182). -/
def execIsel (k : Ctl) (ty : Ty) (d a b c : Reg) : State → Host.Outcome State Fault Refusal :=
  ordinary (.isel k ty d a b c) (laneOp k ty.regs d (intLat ty) (fun x l =>
    Alu.isel (x.val ty.regs a l) (x.val ty.regs b l) (x.v32 c l)))

def execCsub (k : Ctl) (ty : Ty) (d a : Reg) (b : Src) : State → Host.Outcome State Fault Refusal :=
  ordinary (.csub k ty d a b) (intAB k ty (intLat ty) d a b (Alu.csub ty))

/-- 4 clk although it writes a pair (R184, R187). -/
def execLea (k : Ctl) (d a b : Reg) (n : BitVec 14) : State → Host.Outcome State Fault Refusal :=
  ordinary (.lea k d a b n) (laneOp k 2 d 4 (fun x l => Alu.lea (x.v64 a l) (x.v32 b l) n.toNat))

def execMov (k : Ctl) (ty : Ty) (d a : Reg) : State → Host.Outcome State Fault Refusal :=
  ordinary (.mov k ty d a) (laneOp k ty.regs d (intLat ty) (fun x l => x.val ty.regs a l))

def execMovi (k : Ctl) (d : Reg) (v : Word) : State → Host.Outcome State Fault Refusal :=
  ordinary (.movi k d v) (laneOp k 1 d 4 (fun _ _ => v.toNat))

def execShl (k : Ctl) (ty : Ty) (d a : Reg) (b : Src) : State → Host.Outcome State Fault Refusal :=
  ordinary (.shl k ty d a b) (intCount k ty d a b (Alu.shl ty))

def execShr (k : Ctl) (ty : Ty) (d a : Reg) (b : Src) : State → Host.Outcome State Fault Refusal :=
  ordinary (.shr k ty d a b) (intCount k ty d a b (Alu.shr ty))

def execSar (k : Ctl) (ty : Ty) (d a : Reg) (b : Src) : State → Host.Outcome State Fault Refusal :=
  ordinary (.sar k ty d a b) (intCount k ty d a b (Alu.sar ty))

def execShf (k : Ctl) (ty : Ty) (d a b c : Reg) : State → Host.Outcome State Fault Refusal :=
  ordinary (.shf k ty d a b c) (laneOp k ty.regs d (intLat ty) (fun x l =>
    Alu.shf (x.val ty.regs a l) (x.val ty.regs b l) (x.v32 c l)))

def execAnd (k : Ctl) (ty : Ty) (d a : Reg) (b : Src) : State → Host.Outcome State Fault Refusal :=
  ordinary (.and k ty d a b) (intAB k ty (intLat ty) d a b (· &&& ·))

def execOr (k : Ctl) (ty : Ty) (d a : Reg) (b : Src) : State → Host.Outcome State Fault Refusal :=
  ordinary (.or k ty d a b) (intAB k ty (intLat ty) d a b (· ||| ·))

def execXor (k : Ctl) (ty : Ty) (d a : Reg) (b : Src) : State → Host.Outcome State Fault Refusal :=
  ordinary (.xor k ty d a b) (intAB k ty (intLat ty) d a b (· ^^^ ·))

def execAndn (k : Ctl) (ty : Ty) (d a : Reg) (b : Src) : State → Host.Outcome State Fault Refusal :=
  ordinary (.andn k ty d a b) (intAB k ty (intLat ty) d a b (Alu.andn ty))

def execBfx (k : Ctl) (ty : Ty) (d a : Reg) (b : Src) : State → Host.Outcome State Fault Refusal :=
  ordinary (.bfx k ty d a b) (intCount k ty d a b (Alu.bfx ty))

def execBfi (k : Ctl) (ty : Ty) (d a b c : Reg) : State → Host.Outcome State Fault Refusal :=
  ordinary (.bfi k ty d a b c) (laneOp k ty.regs d (intLat ty) (fun x l =>
    Alu.bfi ty (x.val ty.regs a l) (x.val ty.regs b l) (x.v32 c l)))

/-- POPC, CLZ and BREV; the first two write one register under every type (R182). -/
def execPopc (k : Ctl) (ty : Ty) (d a : Reg) : State → Host.Outcome State Fault Refusal :=
  ordinary (.popc k ty d a) (laneOp k 1 d (intLat ty) (fun x l => Alu.popc ty (x.val ty.regs a l)))

def execClz (k : Ctl) (ty : Ty) (d a : Reg) : State → Host.Outcome State Fault Refusal :=
  ordinary (.clz k ty d a) (laneOp k 1 d (intLat ty) (fun x l => Alu.clz ty (x.val ty.regs a l)))

def execBrev (k : Ctl) (ty : Ty) (d a : Reg) : State → Host.Outcome State Fault Refusal :=
  ordinary (.brev k ty d a) (laneOp k ty.regs d (intLat ty) (fun x l => Alu.brev ty (x.val ty.regs a l)))

def execPrmt (k : Ctl) (d a b c : Reg) : State → Host.Outcome State Fault Refusal :=
  ordinary (.prmt k d a b c) (laneOp k 1 d 4 (fun x l => Alu.prmt (x.v32 a l) (x.v32 b l) (x.v32 c l)))

end Sys2Proof.Machine
end

