-- ==== Sys2Proof/Machine/Node.lean ====
section
/-! DEFINITION. Trees as their table and their tree page hold them: addresses, node records, and what a crew's tag names
(R334 to R338, R343). -/

namespace Sys2Proof.Machine

/-! Node records (R338). -/
namespace Nod
def tag : Fld := ⟨96, 32⟩
def pos : Fld := ⟨64, 32⟩
def nan : Fld := ⟨57, 1⟩
def root : Fld := ⟨56, 1⟩
def tmpl : Fld := ⟨51, 5⟩
def tnode : Fld := ⟨45, 6⟩
def depth : Fld := ⟨32, 8⟩
def parent : Fld := ⟨24, 8⟩
def gen : Fld := ⟨16, 8⟩
def state : Fld := ⟨0, 3⟩
end Nod

/-- The numbers of the records of a table that differ from their reset value. -/
def State.listed (s : State) (t : SysTab) : List Nat :=
  (s.sys.filter (fun p => decide (t.base ≤ p.1) && decide (p.1 < t.base + t.bytes * t.num))).map (fun p => (p.1 - t.base) / t.bytes)

/-- The window of a tree, its tree page, the page of trunk page i and the view of node n (R334). -/
def State.treeWin (s : State) (slot : Nat) : Nat := s.fld .tree slot Tre.window * 2 ^ 30
def State.treeVa (s : State) (slot : Nat) : Nat := s.treeWin slot + 0x3EFF_0000
def State.trunkVa (s : State) (slot i : Nat) : Nat := s.treeWin slot + 0x1_0000 * i
def State.viewVa (s : State) (slot n : Nat) : Nat := s.treeWin slot + 0x3F00_0000 + 0x1_0000 * n

/-- Token slots of a page of a tree (R335). -/
def State.spp (s : State) (slot : Nat) : Nat := 16 * 2 ^ s.fld .tree slot Tre.kvsl

/-- The address of node n's record in a tree page at tp, and of its draft entry (R337). -/
def nodeAt (tp n : Nat) : Nat := tp + 0x1000 + 16 * n
def draftAt (tp n : Nat) : Nat := tp + 0x2000 + 8 * n

/-- The node records of a tree page. -/
def State.nodes (s : State) (tp : Nat) : List Nat := (List.range 256).map (fun n => s.num (nodeAt tp n) 16)

def nodeOf (ns : List Nat) (n : Nat) : Nat := (ns[n]?).getD 0

/-- A node is live: drafted, verifying, accepted or rejected (R338). -/
def nodeLive (r : Nat) : Bool := decide (1 ≤ Nod.state.get r) && decide (Nod.state.get r ≤ 4)

/-- The node that an nref names; none when it is gone (R338). -/
def findNode (ns : List Nat) (ref : Nat) : Option Nat :=
  let r := nodeOf ns (ref % 256)
  if Nod.gen.get r = ref / 256 % 256 ∧ Nod.state.get r ≠ 0 then some (ref % 256) else none

/-- The tag that names a node (R343). -/
def nodeTag (slot n r : Nat) : Nat := slot * 2 ^ 16 + Nod.gen.get r * 256 + n

/-- The tree slot of a tag that names, in a context, a node in state pruned (R343, R344). A tag is a reference within the context that owns
the tree (R24). -/
def State.tagDoom (s : State) (ctx : Nat) (tag : Word) : Option Nat :=
  let slot := tag.toNat / 2 ^ 16
  let ref := tag.toNat % 2 ^ 16
  if ref / 256 = 0 ∨ s.fld .tree slot Tre.state = 0 ∨ s.fld .tree slot Tre.ctx ≠ ctx then none
  else
    match s.xlatWalk ctx (s.treeVa slot) .read with
    | .ok h =>
      let r := s.num (nodeAt h.pa (ref % 256)) 16
      if Nod.gen.get r = ref / 256 ∧ Nod.state.get r = 6 then some slot else none
    | .fault _ _ => none
    | .bad _ => none

end Sys2Proof.Machine
end

