-- ==== Sys2Proof/Machine/ExecCtl.lean ====
section
/-! DEFINITION. The meanings of the control, mask, special-register and lane-access instructions (R150 to R169, R177, R243). ALLOT
is in ExecAllot, FJMP, CFETCH and CINV in ExecLaunch. -/

namespace Sys2Proof.Machine

/-- The path mask (R153). -/
def Crew.path (c : Crew) : LaneMask :=
  match c.stack with
  | e :: _ => e.path
  | [] => ~~~c.exited

/-- An instruction that leaves em empty sends the crew to the reconvergence point of the top entry (R154). With the stack empty the
crew takes an illegal-convergence trap at its next instruction (Fetch). -/
def Crew.settle (c : Crew) : Crew :=
  match c.stack with
  | e :: _ => if c.em = 0#32 then { c with pc := e.rpc, slot := e.slot } else c
  | [] => c

/-- The condition of an instruction with P = U (R59, R151): none where it is not uniform over the active lanes. With an empty em a
condition under pmode 01 or 10 does not pass. -/
def Crew.cond (c : Crew) (p : Pred) : Option Bool :=
  match p with
  | .always => some true
  | .nonzero _ | .zero _ =>
    let ps := c.active.map (c.passes p)
    if ps.all id then some (!ps.isEmpty) else if ps.any id then none else some false

/-- The byte offset of a static branch target (R54). -/
def Crew.target (c : Crew) (off : BitVec 14) : Int := (c.pc : Int) + 4 * off.toInt

/-- A target is marked in the current slot (R54). -/
def State.marked (s : State) (rid : Nat) (c : Crew) (slot : Nat) (t : Int) : Bool :=
  match (s.codeSlot (ridBay rid) c.kernel slot).code? with
  | some (ws, lines) => decide (0 ≤ t) && isTarget ws lines t.toNat
  | none => false

/-- The branch-target fault of a target (R170). Of a target outside the segment the aux field holds the offset modulo 4,096 (log 81). -/
def Crew.badTarget (c : Crew) (slot : Nat) (t : Int) : Stop := c.crewTrap 0x013 (slot * 2 ^ 12 + (t % 4096).toNat)

/-- An instruction with a static target and a condition: the target is checked first, taken or not (R54, R67). -/
def branchOp (k : Ctl) (off : BitVec 14) (taken : State → Nat → Crew → Nat → Out) : Body := fun s rid c =>
  let t := c.target off
  if !s.marked rid c c.slot t then .error (c.badTarget c.slot t)
  else
    match c.cond k.pred with
    | none => .error c.diverges
    | some false => .ok { crew := { c with pc := s.nextPc rid c } }
    | some true => .ok (taken s rid c t.toNat)

def execNop (k : Ctl) : State → Host.Outcome State Fault Refusal :=
  ordinary (.nop k) (fun s rid c => .ok { crew := { c with pc := s.nextPc rid c } })

def execYieldHint (k : Ctl) : State → Host.Outcome State Fault Refusal :=
  ordinary (.yieldHint k) (fun s rid c => .ok { crew := { c with pc := s.nextPc rid c }, yields := true })

/-- CUT closes the current stroke after itself (R243). -/
def execCut (k : Ctl) : State → Host.Outcome State Fault Refusal :=
  ordinary (.cut k) (fun s rid c => .ok { crew := { c with pc := s.nextPc rid c }, closes := true })

def execBra (k : Ctl) (off : BitVec 14) : State → Host.Outcome State Fault Refusal :=
  ordinary (.bra k off) (branchOp k off (fun _ _ c t => { crew := { c with pc := t } }))

/-- The return word of a CALL: slot and offset of the next instruction (R158). -/
def execCall (k : Ctl) (d : Reg) (off : BitVec 14) : State → Host.Outcome State Fault Refusal :=
  ordinary (.call k d off) (branchOp k off (fun s rid c t =>
    { crew := { c with pc := t },
      cells := cellsIn c.active 1 d (fun _ => c.slot * 2 ^ 12 + s.nextPc rid c % 2 ^ 12), lat := some 2 }))

/-- BRX checks its value and its target only when the branch is taken (R54, R157). -/
def execBrx (k : Ctl) (a : Reg) : State → Host.Outcome State Fault Refusal :=
  ordinary (.brx k a) (fun s rid c =>
    match c.cond k.pred with
    | none => .error c.diverges
    | some false => .ok { crew := { c with pc := s.nextPc rid c } }
    | some true =>
      let x := c.uval 1 a
      if !c.uni 1 a then .error c.diverges
      else if 4096 ≤ x then .error (c.operandFault 1)
      else if !s.marked rid c c.slot x then .error (c.badTarget c.slot x)
      else .ok { crew := { c with pc := x } })

/-- BDIV (R159): the reconvergence point is checked, then the stack. -/
def execBdiv (k : Ctl) (a : Reg) (off : BitVec 14) : State → Host.Outcome State Fault Refusal :=
  ordinary (.bdiv k a off) (fun s rid c =>
    let t := c.target off
    let taken := maskOf (c.active.filter (fun l => decide (c.v32 a l ≠ 0)))
    if !s.marked rid c c.slot t then .error (c.badTarget c.slot t)
    else if 96 ≤ c.stack.length then .error (c.crewTrap 0x019 0)
    else
      -- the bay holds the top 32 entries; the one below them leaves it (R152)
      .ok { crew := ({ c with pc := s.nextPc rid c, em := taken, stack := ⟨c.slot, t.toNat, taken, c.em⟩ :: c.stack }).settle,
            spill := (c.stack[31]?).map (fun e => (e, c.stack.length - 32)) })

/-- JOIN (R160). -/
def execJoin (k : Ctl) : State → Host.Outcome State Fault Refusal :=
  ordinary (.join k) (fun s rid c =>
    match c.stack with
    | [] => .error (c.crewTrap 0x01A 0xFFFF_FFFF)
    | e :: rest =>
      if e.rpc = c.pc ∧ e.slot = c.slot then
        .ok { crew := ({ c with pc := s.nextPc rid c, stack := rest, em := e.saved &&& ~~~c.exited }).settle }
      else .error (c.crewTrap 0x01A e.rpc))

/-- Kernel slots of a kernel (R107). -/
def State.slotsOf (s : State) (k : Nat) : Nat := Lch.slots.get (s.kern k).launch

/-- A slot that an instruction of a crew may name (R128, R158, R395): below the kernel's slots, or slot 15 from within it. -/
def State.slotOk (s : State) (c : Crew) (slot : Nat) (transfer : Bool) : Bool :=
  decide (slot < s.slotsOf c.kernel) || (transfer && decide (slot = 15) && decide (c.slot = 15))

/-- Where a RET goes, or what it meets (R158). -/
def State.retTarget (s : State) (rid : Nat) (c : Crew) (a : Reg) : Except Stop (Nat × Nat) :=
  let x := c.uval 1 a
  let slot := x / 2 ^ 12 % 16
  if !c.uni 1 a then .error c.diverges
  else if 2 ^ 16 ≤ x ∨ s.slotOk c slot true = false then .error (c.operandFault 1)
  else
    match (s.codeSlot (ridBay rid) c.kernel slot).code? with
    | none => .error (c.crewTrap 0x017 slot)
    | some _ => if s.marked rid c slot (x % 4096 : Nat) then .ok (slot, x % 4096) else .error (c.badTarget slot (x % 4096 : Nat))

/-- RET (R158): ordinary within the current slot, bounding into another (R214). -/
def execRet (k : Ctl) (a : Reg) (s : State) : Host.Outcome State Fault Refusal :=
  let into : Bool :=
    match s.place with
    | .crew rid =>
      match s.crews.get? rid with
      | some c => (c.cond k.pred == some true) && c.uni 1 a && decide (c.uval 1 a / 2 ^ 12 ≠ c.slot)
      | none => false
    | _ => false
  if into then
    bounding (.ret k a) (fun s rid c =>
      match s.retTarget rid c a with
      | .error x => .error x
      | .ok (slot, pc) => .ok (s.finish rid k { c with slot := slot, pc := pc } [])) s
  else
    ordinary (.ret k a) (fun s rid c =>
      match c.cond k.pred with
      | none => .error c.diverges
      | some false => .ok { crew := { c with pc := s.nextPc rid c } }
      | some true =>
        match s.retTarget rid c a with
        | .error x => .error x
        | .ok (slot, pc) => .ok { crew := { c with slot := slot, pc := pc } }) s

/-- EXIT (R161). -/
def execExit (k : Ctl) : State → Host.Outcome State Fault Refusal :=
  ordinary (.exit k) (fun s rid c =>
    let ls := maskOf (c.acting k.pred)
    let x := { c with pc := s.nextPc rid c, exited := c.exited ||| ls, em := c.em &&& ~~~ls }
    if x.exited = 0xFFFF_FFFF#32 then .ok { crew := x, closes := true } else .ok { crew := x.settle })

/-- TRAP (R162): the frame's pc names the instruction after it. -/
def execTrap (k : Ctl) (n : BitVec 14) : State → Host.Outcome State Fault Refusal :=
  bounding (.trap k n) (fun s rid c =>
    match c.cond k.pred with
    | none => .error c.diverges
    | some false => .ok (s.finish rid k { c with pc := s.nextPc rid c } [])
    | some true => .error (.trap ⟨0x01B, 0, 0, c.low, n.toNat, s.nextPc rid c, c.slot⟩))

/-- BKPT (R162). -/
def execBkpt (k : Ctl) (n : BitVec 14) : State → Host.Outcome State Fault Refusal :=
  ordinary (.bkpt k n) (fun s rid c => .error (.trap ⟨0x01E, 0, 0, c.low, n.toNat, s.nextPc rid c, c.slot⟩))

/-- The replayed instructions can be issued again (R142, R147, R201): the crew's limit and its side's function unit leave room for them, and
none of their flags is held. -/
def State.replayFits (s : State) (rid : Nat) (c : Crew) (es : List (Instr × Nat × LaneMask × (Nat → Word))) : Bool :=
  decide (c.fuOut + es.length ≤ 8) && decide (s.fuHeld rid + es.length ≤ 16) &&
    es.all (fun e => match (instrCtl e.1).bind (fun k => k.set) with | some f => !c.flags.getLsbD f.val | none => true)

/-- RTE (R177): the frame is read as a load reads, in the current stroke; no instruction makes em hold a lane outside the path mask
(R153). It issues once the instructions to be replayed can (log 95). An uncorrectable error in the frame is a context fault (R80). -/
def execRte (k : Ctl) : State → Host.Outcome State Fault Refusal :=
  ordinary (.rte k) (fun s rid c =>
    if !c.handler then .error (c.crewTrap 0x011 0)
    else
      let va := s.frameVa rid c
      match s.xlat (ridBay rid) (c.ctx s) va .read with
      | .bad cause => .error (.ctx cause)
      | .fault kind copy => .error (.fault ⟨kind, va, false, copy, c.low⟩)
      | .ok h =>
        if s.frameSpoilt (h.pa / 4096 * 4096) then .error (.ctx 4) else
        let own := s.ownWrites c
        let f := (List.range 0x580).map (fun j => s.under own (h.pa + j))
        match frameCheck c f with
        | .error .illegal => .error (c.crewTrap 0x011 0)
        | .error .depth => .error (c.crewTrap 0x01A (match c.stack with | e :: _ => e.rpc | [] => 0xFFFF_FFFF))
        | .ok es =>
          let x := c.returned f
          let x := { x with em := x.em &&& c.path }
          if Frm.resume.get (ofBytes (f.take 64)) = 0 ∧ s.marked rid c x.slot x.pc = false then
            .error (c.badTarget x.slot x.pc)
          else if !s.replayFits rid c es then .error (.wait .retry)
          else
            .ok { crew := x.settle, more := replayPends es s.clock s.serial, closes := true, skips := c.skipsAt f,
                  rl := (List.range ((0x80 + 160 * es.length + 127) / 128)).map (fun j => lineOf h.pa + j),
                  pinned := h.pinned, misses := if h.miss then [va] else [] })

/-- EMRD writes em in every active lane after 2 clk (R146, R165). -/
def execEmrd (k : Ctl) (d : Reg) : State → Host.Outcome State Fault Refusal :=
  ordinary (.emrd k d) (fun s rid c =>
    .ok { crew := { c with pc := s.nextPc rid c }, cells := cellsIn c.active 1 d (fun _ => c.em.toNat), lat := some 2 })

/-- EMWR (R166). -/
def execEmwr (k : Ctl) (a : Reg) : State → Host.Outcome State Fault Refusal :=
  ordinary (.emwr k a) (fun s rid c =>
    let next := { c with pc := s.nextPc rid c }
    if c.em = 0#32 then .ok { crew := next }
    else if !c.uni 1 a then .error c.diverges
    else
      let x := BitVec.ofNat 32 (c.uval 1 a) &&& c.path &&& ~~~c.exited
      if x = 0#32 ∧ c.stack = [] then .error (c.crewTrap 0x015 (c.uval 1 a))
      else .ok { crew := { next with em := x }.settle })

/-- Device nanoseconds (R13). -/
def State.time (s : State) : Nat := s.clock * 2 / 3

/-- The value of a special register in a lane (R65). -/
def State.sreg (s : State) (rid : Nat) (c : Crew) (sr : SReg) (l : Nat) : Nat :=
  match sr with
  | .em => c.em.toNat
  | .lane => l
  | .crew => c.idx
  | .kernel => s.handle c.kernel
  | .bay => bayCode (ridBay rid)
  | .clock => s.clock
  | .time => s.time
  | .progress => c.progress
  | .stroke => c.srStroke
  | .flags => c.flags.toNat + c.rowEmpty.toNat * 2 ^ 12
  | .allot => c.allot
  | .tag => c.tag.toNat

/-- SREAD reads at issue and writes after 2 clk (R146, R167). -/
def execSread (k : Ctl) (d : Reg) (sr : SReg) : State → Host.Outcome State Fault Refusal :=
  ordinary (.sread k d sr) (fun s rid c =>
    .ok { crew := { c with pc := s.nextPc rid c }, cells := cellsIn (c.acting k.pred) sr.regs d (s.sreg rid c sr), lat := some 2 })

/-- SWRITE of sr.tag (R168). -/
def execSwrite (k : Ctl) (a : Reg) : State → Host.Outcome State Fault Refusal :=
  ordinary (.swrite k a) (fun s rid c =>
    let next := { c with pc := s.nextPc rid c }
    if c.em = 0#32 then .ok { crew := next }
    else if !c.uni 1 a then .error c.diverges
    else
      -- a tag that names a pruned node cancels the crew (R344)
      let tag := BitVec.ofNat 32 (c.uval 1 a)
      .ok { crew := { next with tag := tag, doomed := (s.tagDoom (c.ctx s) tag).or c.doomed } })

/-- The checks of LGET and LSET in one lane (R169). -/
def Crew.laneCheck (c : Crew) (a b : Reg) (l : Nat) : Option Stop :=
  if 32 ≤ c.v32 a l then some (c.trapAt 0x018 1 0 l)
  else if 256 ≤ c.v32 b l then some (c.trapAt 0x018 2 0 l)
  else if c.allot ≤ c.v32 b l then some (c.trapAt 0x012 (c.v32 b l) 0 l)
  else none

/-- LGET: register v(b) of lane v(a), after 4 clk (R146, R169). -/
def execLget (k : Ctl) (d a b : Reg) : State → Host.Outcome State Fault Refusal :=
  ordinary (.lget k d a b) (fun s rid c =>
    match c.active.findSome? (c.laneCheck a b) with
    | some x => .error x
    | none =>
      .ok { crew := { c with pc := s.nextPc rid c },
            cells := cellsIn c.active 1 d (fun l => (c.reg (c.v32 b l) (c.v32 a l)).toNat), lat := some 4 })

/-- LSET: the highest writing lane wins (R169). The register blocks it writes are those of its target registers (R213). -/
def execLset (k : Ctl) (d a b : Reg) : State → Host.Outcome State Fault Refusal :=
  ordinary (.lset k d a b) (fun s rid c =>
    match c.active.findSome? (c.laneCheck a b) with
    | some x => .error x
    | none =>
      let cells := c.active.foldl (fun t l => Tbl.set t (32 * c.v32 b l + c.v32 a l) (c.reg d.toNat l)) ([] : Tbl Word)
      .ok { crew := { c with pc := s.nextPc rid c }, cells := cells, lat := some 4,
            blocks := some ((c.active.map (fun l => c.v32 b l / 8)).dedup) })

end Sys2Proof.Machine
end

