-- ==== Sys2Proof/Machine/ExecMem.lean ====
section
/-! DEFINITION. The meanings of the memory instructions (R227 to R242). -/

namespace Sys2Proof.Machine

/-- The checks of a lane's access in the order of R235, then for a poisoned line (R287). -/
def State.checkAccess (s : State) (rid : Nat) (c : Crew) (va w : Nat) (need : Need) (lane : Nat) : Except Stop Hit :=
  if !canonical va then .error (c.trapAt 0x032 0 va lane)
  else if va % w ≠ 0 then .error (c.trapAt 0x020 w va lane)
  else if isPeer va then .error (c.trapAt 0x021 0 va lane)
  else
    match s.xlat (ridBay rid) (c.ctx s) va need with
    | .bad cause => .error (.ctx cause)
    | .fault kind copy => .error (.fault ⟨kind, va, decide (need = .write), copy, lane⟩)
    | .ok h => if s.poisoned.contains (lineOf h.pa) then .error (c.trapAt 0x042 (h.pa % 128 / 8) va lane) else .ok h

/-- The check of every lane in ascending order; the lowest failing lane decides (R235, R257). -/
def checkLanes (f : Nat → Except Stop Hit) : List Nat → Except Stop (List (Nat × Hit))
  | [] => .ok []
  | l :: ls =>
    match f l with
    | .error x => .error x
    | .ok h =>
      match checkLanes f ls with
      | .error x => .error x
      | .ok r => .ok ((l, h) :: r)

/-- An access is to a memory-side line (R232). -/
def Hit.memside (h : Hit) : Bool := Pte.m h.leaf

/-- Pages that missed the TLB. -/
def missed (va : Nat → Nat) (hs : List (Nat × Hit)) : List Nat := (hs.filter (fun p => p.2.miss)).map (fun p => va p.1)

/-- Lines of the accesses that are not memory-side (R216). -/
def cachedLines (hs : List (Nat × Hit)) : List Nat :=
  addLines [] ((hs.filter (fun p => !p.2.memside)).map (fun p => lineOf p.2.pa))

/-- Memory-side lines of the accesses (R232). -/
def sideLinesOf (hs : List (Nat × Hit)) : List Nat :=
  addLines [] ((hs.filter (fun p => p.2.memside)).map (fun p => lineOf p.2.pa))

/-- Every line of the accesses. -/
def allLines (hs : List (Nat × Hit)) : List Nat := addLines [] (hs.map (fun p => lineOf p.2.pa))

/-- Every line read lies in a pinned stash page (R223). -/
def allPinned (hs : List (Nat × Hit)) : Bool := hs.all (fun p => p.2.pinned)

/-- What a load of w bytes reads: under the crew's own writes (R227), or the base die's value on a memory-side line (R232). -/
def State.loadNum (s : State) (own : Tbl Byte) (h : Hit) (w : Nat) : Nat :=
  if h.memside then s.num h.pa w else s.underNum own h.pa w

/-- Sign extension of a narrow load (R237). -/
def loadExt (w : Width) (sx : Bool) (x : Nat) : Nat :=
  let b := 8 * w.bytes
  if sx && decide (2 ^ (b - 1) ≤ x) then x + (2 ^ 32 - 2 ^ b) else x

/-- LD (R237): the result is of variable latency (R235). -/
def execLd (k : Ctl) (w : Width) (sx : Bool) (h : Hint) (d a : Reg) (off : Word) : State → Host.Outcome State Fault Refusal :=
  ordinary (.ld k w sx h d a off) (fun s rid c =>
    match checkLanes (fun l => s.checkAccess rid c (c.addr a off l) w.bytes .read l) (c.acting k.pred) with
    | .error x => .error x
    | .ok hs =>
      let own := s.ownWrites c
      .ok { crew := { c with pc := s.nextPc rid c },
            cells := hs.flatMap (fun p => cellsAt w.regs d.toNat p.1 (loadExt w sx (s.loadNum own p.2 w.bytes))),
            lat := none, rl := cachedLines hs, sl := sideLinesOf hs, pinned := allPinned hs, misses := missed (c.addr a off) hs })

/-- ST (R237): the writes are buffered to the commit, lanes in ascending order (R228). -/
def execSt (k : Ctl) (w : Width) (h : Hint) (a b : Reg) (off : Word) : State → Host.Outcome State Fault Refusal :=
  ordinary (.st k w h a b off) (fun s rid c =>
    match checkLanes (fun l => s.checkAccess rid c (c.addr a off l) w.bytes .write l) (c.acting k.pred) with
    | .error x => .error x
    | .ok hs =>
      .ok { crew := { c with pc := s.nextPc rid c },
            effs := hs.map (fun p => .store (c.addr a off p.1) p.2.pa (toBytes w.bytes (c.val w.regs b p.1)) p.2.memside),
            -- a line is written by ST, memory-side or not, and counts (R213); a memory-side one is in no signature (R216)
            wl := allLines hs, unwritten := sideLinesOf hs, misses := missed (c.addr a off) hs })

/-- One lane of an ATOM over the bytes written so far: the old value, and the bytes written if it writes (R238). -/
def atomLane (s : State) (own : Tbl Byte) (op : RmwOp) (ty : Ty) (h : Hit) (v x : Nat) : Nat × Option (List Byte) :=
  let m := s.underNum own h.pa (tyBytes ty)
  if op = .cas ∧ m ≠ v then (m, none) else (m, some (toBytes (tyBytes ty) (Alu.rmw op ty m v x)))

/-- The lanes of an ATOM in ascending order, each reading the value left by the lanes before it (R228, R238): old values, and the
writes. -/
def atomLanes (s : State) (op : RmwOp) (ty : Ty) (v x : Nat → Nat) :
    List (Nat × Hit) → Tbl Byte → List (Nat × Nat) × List (Nat × Hit × List Byte)
  | [], _ => ([], [])
  | (l, h) :: rest, own =>
    match atomLane s own op ty h (v l) (x l) with
    | (m, none) =>
      let r := atomLanes s op ty v x rest own
      ((l, m) :: r.1, r.2)
    | (m, some bs) =>
      let r := atomLanes s op ty v x rest (putBytes own h.pa bs)
      ((l, m) :: r.1, (l, h, bs) :: r.2)

/-- ATOM (R238): ordinary on cached lines; bounding where a lane's line is memory-side, and then performed at once (R232). -/
def execAtom (k : Ctl) (op : RmwOp) (ty : Ty) (d a b c : Reg) (off : Word) (s : State) : Host.Outcome State Fault Refusal :=
  let i : Instr := .atom k op ty d a b c off
  let n := ty.regs
  let check (s : State) (rid : Nat) (x : Crew) : Except Stop (List (Nat × Hit)) :=
    checkLanes (fun l => s.checkAccess rid x (x.addr a off l) (tyBytes ty) .write l) (x.acting k.pred)
  let side : Bool :=
    match s.place with
    | .crew rid =>
      match s.crews.get? rid with
      | some x => match check s rid x with | .ok hs => hs.any (fun p => p.2.memside) | .error _ => false
      | none => false
    | _ => false
  if side then
    bounding i (fun s rid x =>
      match check s rid x with
      | .error e => .error e
      | .ok hs =>
        let r := atomLanes s op ty (x.val n b) (x.val n c) hs []
        let cells := r.1.flatMap (fun p => cellsAt n d.toNat p.1 p.2)
        let s' := r.2.foldl (fun s w => s.write w.2.1.pa w.2.2) s
        let lines := addLines [] ((r.2.filter (fun w => !w.2.1.memside)).map (fun w => lineOf w.2.1.pa))
        .ok ((s'.broadcast lines (some rid)).finish rid k { x with pc := s.nextPc rid x } cells)) s
  else
    ordinary i (fun s rid x =>
      match check s rid x with
      | .error e => .error e
      | .ok hs =>
        let r := atomLanes s op ty (x.val n b) (x.val n c) hs (s.ownWrites x)
        let lines := cachedLines hs
        let written := r.2.map (fun w => lineOf w.2.1.pa)
        .ok { crew := { x with pc := s.nextPc rid x }, cells := r.1.flatMap (fun p => cellsAt n d.toNat p.1 p.2), lat := none,
              rl := lines, wl := lines, unwritten := lines.filter (fun l => !written.contains l), pinned := allPinned hs,
              effs := r.2.map (fun w => .store (x.addr a off w.1) w.2.1.pa w.2.2 false), misses := missed (x.addr a off) hs }) s

/-- RED (R239): the update is computed at the commit. -/
def execRed (k : Ctl) (op : RmwOp) (ty : Ty) (a b : Reg) (off : Word) : State → Host.Outcome State Fault Refusal :=
  ordinary (.red k op ty a b off) (fun s rid c =>
    match checkLanes (fun l => s.checkAccess rid c (c.addr a off l) (tyBytes ty) .write l) (c.acting k.pred) with
    | .error x => .error x
    | .ok hs =>
      .ok { crew := { c with pc := s.nextPc rid c },
            effs := hs.map (fun p => .red (c.addr a off p.1) p.2.pa op ty (c.val ty.regs b p.1) p.2.memside),
            wl := cachedLines hs, sl := sideLinesOf hs, misses := missed (c.addr a off) hs })

/-- m cond x under a type's signedness (R240). -/
def mwaitHolds (ty : Ty) (cond : Cond) (m x : Nat) : Bool := condHolds cond (some (compare (Alu.iv ty m) (Alu.iv ty x)))

/-- Entries in use in the wait table of a slice (R241). -/
def State.waitEntries (s : State) (slice : Nat) : Nat :=
  (s.crews.filter (fun p => match p.2.wait with | .mwait pa _ _ _ .entry => decide (homeSlice pa = slice) | _ => false)).length

/-- How an MWAIT on a line sleeps (R241). -/
def State.mwaitBy (s : State) (ctx : Nat) (h : Hit) : MwaitBy :=
  if h.memside || decide (s.cfg ctx Ctx.recover = 1) then
    if s.waitEntries (homeSlice h.pa) < Config.waitTable then .entry else .recheck s.clock
  else .monitor

/-- MWAIT (R240, R241): it goes on where a check finds the condition true, and sleeps otherwise. -/
def execMwait (k : Ctl) (cond : Cond) (ty : Ty) (a b : Reg) (off : Word) : State → Host.Outcome State Fault Refusal :=
  bounding (.mwait k cond ty a b off) (fun s rid c =>
    let next := { c with pc := s.nextPc rid c }
    if c.em = 0#32 then .ok (s.finish rid k next [])
    else if !c.uni 2 a || !c.uni ty.regs b then .error c.diverges
    else
      match s.checkAccess rid c (c.addr a off c.low) (tyBytes ty) .read c.low with
      | .error x => .error x
      | .ok h =>
        let x := c.uval ty.regs b
        if mwaitHolds ty cond (s.num h.pa (tyBytes ty)) x then .ok (s.finish rid k next [])
        else .ok (s.sleep rid k c (.mwait h.pa ty cond x (s.mwaitBy (c.ctx s) h))))

/-- PREF changes no visible state and raises no fault of its own (R237). -/
def execPref (k : Ctl) (h : Hint) (a : Reg) (off : Word) : State → Host.Outcome State Fault Refusal :=
  ordinary (.pref k h a off) (fun s rid c => .ok { crew := { c with pc := s.nextPc rid c } })

/-- MFENCE places its markers at the commit, whatever em is (R242). -/
def execMfence (k : Ctl) (eng peer : Bool) : State → Host.Outcome State Fault Refusal :=
  ordinary (.mfence k eng peer) (fun s rid c => .ok { crew := { c with pc := s.nextPc rid c }, effs := [.mfence eng peer] })

end Sys2Proof.Machine
end

