-- ==== Sys2Proof/Machine/EvStroke.lean ====
section
/-! DEFINITION. The events of strokes (R220 to R224, R240, R241, R246 to R248). An event at a place where its conditions do not hold
changes nothing. -/

namespace Sys2Proof.Machine

/-- Run an event at a crew's place. -/
def atCrew (s : State) (f : Nat → Crew → State) : Host.Outcome State Fault Refusal :=
  match s.place with
  | .crew rid => match s.crews.get? rid with | some c => .next (f rid c) | none => .next s
  | _ => .next s

/-- Run an event at a bay, a context, a queue, a kernel, a die or a port. -/
def atBay (s : State) (f : Nat → State) : Host.Outcome State Fault Refusal :=
  match s.place with | .bay b => .next (f b) | _ => .next s
def atCtx (s : State) (f : Nat → State) : Host.Outcome State Fault Refusal :=
  match s.place with | .ctx n => .next (f n) | _ => .next s
def atQueue (s : State) (f : Nat → State) : Host.Outcome State Fault Refusal :=
  match s.place with | .queue n => .next (f n) | _ => .next s
def atKernel (s : State) (f : Nat → State) : Host.Outcome State Fault Refusal :=
  match s.place with | .kernel k => .next (f k) | _ => .next s
def atDie (s : State) (f : Nat → State) : Host.Outcome State Fault Refusal :=
  match s.place with | .die d => .next (f d) | _ => .next s
def atPort (s : State) (f : Nat → State) : Host.Outcome State Fault Refusal :=
  match s.place with | .port p => .next (f p) | _ => .next s
def atEntry (s : State) (f : Nat → State) : Host.Outcome State Fault Refusal :=
  match s.place with | .entry i => .next (f i) | _ => .next s
def atSide (s : State) (f : Nat → Nat → State) : Host.Outcome State Fault Refusal :=
  match s.place with | .side b d => .next (f b d) | _ => .next s

/-- A crew reaches the order gate (R247, R248). -/
def State.arriveGate (s : State) (rid : Nat) : State :=
  s.setCrew rid (fun c => { c with gateSince := some (c.gateSince.getD s.clock) })

/-- What the gate makes of a crew that it does not pass. -/
def State.gateStops (s : State) (rid ctx : Nat) : GateSays → State
  | .hold => s.arriveGate rid
  | .check => (s.arriveGate rid).postFirst (.ctx ctx) .replayDigestCheck
  | .diverge i => (s.arriveGate rid).gateFault ctx i
  | .bad cause => (s.arriveGate rid).ctxFault ctx cause
  | .pass => s
  | .opened => s

/-- A commit that cannot take place while its context is suspended or faulted, or once its replay kernel has diverged, is given up where
its crew stops: the stroke is squashed, so that the crew can be saved or exit (R80, R81, R248). -/
def State.givesUp (s : State) (c : Crew) : Bool :=
  c.stopping && ((s.suspending.get? (c.ctx s)).isSome || (s.kern c.kernel).barred || (s.kern c.kernel).parted)

/-- A stroke takes its reservations and commits, where none of its umpires is held and the order log takes it (R80, R220). -/
def State.tryCommit (s : State) (rid : Nat) (c : Crew) (st : Stroke) (use : Bool) : State :=
  if st.umpires.any (fun u => (s.reserved rid).contains u) then s
  else if s.logged c.kernel then
    let ctx := c.ctx s
    let s := s.logReady ctx (s.fld .context ctx Ctx.oput) (s.logNeeds ctx c.kernel c.idx)
    let s := match (s.log ctx).run with | some (_, _, _, i) => s.logReady ctx i 1 | none => s
    match s.logRefuses (c.ctx s) c.kernel c.idx with
    | some cause =>
      let t := if s.givesUp c then s.squashFrom rid 0 else s.setCrew rid (fun c => { c with wait := .ctxFault })
      t.ctxFault (c.ctx s) cause
    | none => s.commitSeq rid c st use
  else s.commitSeq rid c st use

/-- STROKE_COMMIT (R220, R247). -/
def execStrokeCommit (s : State) : Host.Outcome State Fault Refusal :=
  atCrew s (fun rid c =>
    match c.closing with
    | none => s
    | some st =>
      if s.isLocal c st then s
      else if s.gated c.kernel then
        let ctx := c.ctx s
        let s := State.takeKnums ctx (s.logLeft ctx) s
        match s.gate c.kernel c.idx with
        | .pass => s.tryCommit rid c st true
        | .opened => s.tryCommit rid c st false
        | g => if s.givesUp c then s.squashFrom rid 0 else s.gateStops rid ctx g
      else s.tryCommit rid c st false)

/-- LOCAL_COMMIT (R223): no umpire, no sequence number. -/
def execLocalCommit (s : State) : Host.Outcome State Fault Refusal :=
  atCrew s (fun rid c =>
    match c.closing with
    | none => s
    | some st => if s.isLocal c st then s.committed rid st else s)

/-- The oldest stroke of a crew that a write signature squashes (R221). -/
def Crew.hitBy (c : Crew) (w : BitVec 2048) : Option Nat :=
  c.strokes.findIdx? (fun st => !st.held && (sigMeets st.rsig w || sigMeets st.wsig w))

/-- SIGNATURE_SQUASH (R217, R221). -/
def execSignatureSquash (s : State) : Host.Outcome State Fault Refusal :=
  match s.place with
  | .squash b w committer =>
    .next ((s.crewsOn b).foldl (fun s p =>
      if some p.1 = committer then s
      else match p.2.hitBy w with | some i => s.squash p.1 i | none => s) s)
  | _ => .next s

/-- ORDER_LOG_CHECKPOINT (R246). -/
def execOrderLogCheckpoint (s : State) : Host.Outcome State Fault Refusal :=
  atCtx s (fun ctx =>
    let l := s.log ctx
    let put := s.fld .context ctx Ctx.oput
    let s := s.logReady ctx put (1 + 2 * l.digests.length)
    match s.logWritable ctx put (1 + 2 * l.digests.length) with
    | some cause => s.ctxFault ctx cause
    | none =>
      let s := s.logPush ctx (2 * 2 ^ 62 + l.logged % 2 ^ 34 * 2 ^ 16 + l.digests.length)
      (s.pushDigests ctx l.digests).setLog ctx (fun l => { l with digests := [], run := none }))

/-- REPLAY_DIGEST_CHECK (R248): the checkpoint entry at the head of the log and its digest records. -/
def execReplayDigestCheck (s : State) : Host.Outcome State Fault Refusal :=
  atCtx s (fun ctx =>
    let get := s.fld .context ctx Ctx.oget
    if s.logLeft ctx = 0 then s
    else
      match s.logEntry ctx get with
      | .error cause => s.ctxFault ctx cause
      | .ok e =>
        if slice 63 62 e ≠ 2 then s
        else
          let n := slice 15 0 e
          if s.logLeft ctx < 1 + 2 * n then s else
          match State.checkDigests ctx (get + 1) n s with
          | .error cause => s.ctxFault ctx cause
          | .ok s => s.setFld .context ctx Ctx.oget (get + 1 + 2 * n))

/-- A held stroke takes its shadow space and its reservations, or waits for the space (R224). -/
def State.startHeld (s : State) (rid : Nat) (c : Crew) (set : List Nat) : State :=
  if !c.granted && (decide (s.shadowFree (ridBay rid) = 0) || s.shadowQueue (ridBay rid)) then s.waitFor rid (.shadow s.serial)
  else if set.any (fun u => (s.reserved rid).contains u) then s
  else s.setCrew rid (fun c => { c with granted := true, heldReady := true, wait := .none, gateSince := none })

/-- HELD_STROKE_START (R224, R247). -/
def execHeldStrokeStart (s : State) : Host.Outcome State Fault Refusal :=
  atCrew s (fun rid c =>
    match c.wait, c.heldSet with
    | .held, some set =>
      if !c.strokes.isEmpty || c.heldReady then s
      else if s.gated c.kernel && !c.granted then
        let ctx := c.ctx s
        let s := State.takeKnums ctx (s.logLeft ctx) s
        match s.gate c.kernel c.idx with
        | .pass => s.startHeld rid c set
        | .opened => s.startHeld rid c set
        | g => s.gateStops rid ctx g
      else s.startHeld rid c set
    | _, _ => s)

/-- The crew of a bay that has waited longest for shadow space (R222). -/
def State.shadowFirst (s : State) (b : Nat) : Option Nat :=
  (leastBy Prod.fst ((s.crewsOn b).filterMap (fun p => match p.2.wait with | .shadow n => some (n, p.1) | _ => none))).map Prod.snd

/-- SHADOW_SPACE_GRANT (R222). -/
def execShadowSpaceGrant (s : State) : Host.Outcome State Fault Refusal :=
  atBay s (fun b =>
    match s.shadowFirst b with
    | some rid =>
      if s.shadowFree b = 0 then s else s.setCrew rid (fun c => { c with granted := true, wait := .none })
    | none => s)

/-- The crew that waits for shadow space while the order gate waits for it, and every stroke that holds space on the bay awaits commit at
the gate (R222). -/
def State.shadowDead (s : State) (b : Nat) : Option Nat :=
  let on := s.crewsOn b
  if s.shadowFree b = 0 && on.all (fun p => !p.2.granted &&
      (p.2.strokes.isEmpty || (p.2.gateSince.isSome && p.2.strokes.all (fun st => st.closed.isSome)))) then
    (on.find? (fun p => (match p.2.wait with | .shadow _ => true | _ => false) && s.gated p.2.kernel &&
      (s.gate p.2.kernel p.2.idx == .pass))).map Prod.fst
  else none

/-- The most recently begun stroke on a bay of a crew other than one: the crew and the stroke's number there. -/
def State.newestOther (s : State) (b rid : Nat) : Option (Nat × Nat) :=
  (leastBy (fun x => s.serial - x.1) (((s.crewsOn b).filter (fun p => decide (p.1 ≠ rid))).flatMap (fun p =>
    (p.2.strokes.zip (List.range p.2.strokes.length)).map (fun q => (q.1.serial, p.1, q.2))))).map Prod.snd

/-- SHADOW_DEADLOCK_SQUASH (R222). -/
def execShadowDeadlockSquash (s : State) : Host.Outcome State Fault Refusal :=
  atBay s (fun b =>
    match s.shadowDead b with
    | some rid =>
      match s.newestOther b rid with
      | some (other, i) => (s.squash other i).setCrew rid (fun c => { c with granted := true, wait := .none })
      | none => s
    | none => s)

/-- An MWAIT looks at its location again (R240). -/
def State.mwaitCheck (s : State) (rid : Nat) (c : Crew) : State :=
  match c.wait with
  | .mwait pa ty cond x _ => if mwaitHolds ty cond (s.num pa (tyBytes ty)) x then s.resumeNext rid else s
  | _ => s

/-- MWAIT_WAKE (R241): a wake of a monitor or a wait-table entry; one that finds the condition false lets the crew sleep again. -/
def execMwaitWake (s : State) : Host.Outcome State Fault Refusal :=
  atCrew s (fun rid c =>
    match c.wait with
    | .mwait _ _ _ _ .monitor => s.mwaitCheck rid c
    | .mwait _ _ _ _ .entry => s.mwaitCheck rid c
    | _ => s)

/-- WAIT_TABLE_RECHECK (R241): every 2,048 clk for an MWAIT that found the table full. -/
def execWaitTableRecheck (s : State) : Host.Outcome State Fault Refusal :=
  atCrew s (fun rid c =>
    match c.wait with
    | .mwait _ _ _ _ (.recheck since) => if (s.clock - since) % 2048 = 0 then s.mwaitCheck rid c else s
    | _ => s)

end Sys2Proof.Machine
end

