-- ==== Sys2Proof/Machine/ExecAllot.lean ====
section
/-! DEFINITION. Register blocks of a side, the meaning of ALLOT and the events of allotment grows (R14, R163, R164). -/

namespace Sys2Proof.Machine

/-- Crews of one side of a bay. -/
def State.crewsAt (s : State) (b d : Nat) : List (Nat × Crew) := s.crews.filter (fun p => decide (p.1 / 32 = 2 * b + d))

/-- Register blocks of a side that no crew holds (R14, R115). -/
def State.blocksFree (s : State) (b d : Nat) : Nat :=
  Config.sideBlocks - ((s.crewsAt b d).map (fun p => p.2.allot / 8)).sum

/-- The grow of a side that began to wait first: its order, crew, registers asked for, destination (R163). -/
def State.growFirst (s : State) (b d : Nat) : Option (Nat × Nat × Nat × Nat) :=
  leastBy (fun x => x.1) ((s.crewsAt b d).filterMap (fun p =>
    match p.2.wait with | .allot n since r => some (since, p.1, n, r) | _ => none))

/-- The grow of a side that began to wait last. -/
def State.growLast (s : State) (b d : Nat) : Option (Nat × Nat × Nat × Nat) :=
  leastBy (fun x => s.serial - x.1) ((s.crewsAt b d).filterMap (fun p =>
    match p.2.wait with | .allot n since r => some (since, p.1, n, r) | _ => none))

/-- A crew's registers for an allotment: those at or above the smaller of the two allotments read 0. -/
def Crew.resize (c : Crew) (n : Nat) : Crew :=
  { c with allot := n, regs := c.regs.filter (fun p => decide (p.1 / 32 < min c.allot n)) }

/-- Write d in every active lane (R163). -/
def Crew.putAll (c : Crew) (serial d v : Nat) : Crew :=
  c.writeNow serial (c.active.flatMap (fun l => cellsAt 1 d l v)) none

/-- ALLOT (R163): a shrink, or a grow for which no other grow of the side waits and whose blocks are free, is done at once. -/
def execAllot (k : Ctl) (d a : Reg) : State → Host.Outcome State Fault Refusal :=
  bounding (.allot k d a) (fun s rid c =>
    let next := { c with pc := s.nextPc rid c }
    let n := c.uval 1 a
    if c.em = 0#32 then .ok (s.finish rid k next [])
    else if !c.uni 1 a then .error c.diverges
    else if n % 8 ≠ 0 ∨ n < 8 ∨ 256 < n then .error (c.operandFault 1)
    else if n ≤ d.toNat then .error (c.operandFault 0)
    else
      let s := s.dropLatch rid
      let b := ridBay rid
      let y := ridSide rid
      if n ≤ c.allot ∨ ((s.growFirst b y).isNone ∧ (n - c.allot) / 8 ≤ s.blocksFree b y) then
        .ok (s.finish rid k (next.resize n) (cellsIn c.active 1 d (fun _ => n)))
      else .ok (s.sleep rid k c (.allot n s.serial d.toNat)))

/-- The oldest grow of a side can be granted. -/
def State.growFits (s : State) (b d : Nat) : Bool :=
  match s.growFirst b d with
  | some (_, rid, n, _) =>
    match s.crews.get? rid with
    | some c => decide ((n - c.allot) / 8 ≤ s.blocksFree b d)
    | none => false
  | none => false

/-- Every resident crew of a side waits on a grow (R164). -/
def State.growDead (s : State) (b d : Nat) : Bool :=
  (s.crewsAt b d).all (fun p =>
    match p.2.life, p.2.wait with
    | .placed, _ => true
    | .exited, _ => true
    | _, .allot .. => true
    | _, _ => false)

end Sys2Proof.Machine
end

