-- ==== Sys2Proof/Machine/EvAllot.lean ====
section
/-! DEFINITION. The events of allotment grows (R163, R164). -/

namespace Sys2Proof.Machine

/-- ALLOT_GRANT (R163): the grow that began to wait first, once its blocks are free. -/
def execAllotGrant (s : State) : Host.Outcome State Fault Refusal :=
  atSide s (fun b d =>
    match s.growFirst b d with
    | some (_, rid, n, r) =>
      if s.growFits b d then (s.setCrew rid (fun c => (c.resize n).putAll s.serial r n)).resumeNext rid else s
    | none => s)

/-- ALLOT_DEADLOCK_FAIL (R164): the grow that began to wait last. -/
def execAllotDeadlockFail (s : State) : Host.Outcome State Fault Refusal :=
  atSide s (fun b d =>
    match s.growLast b d with
    | some (_, rid, _, r) =>
      if s.growDead b d && !s.growFits b d then (s.setCrew rid (fun c => c.putAll s.serial r 0)).resumeNext rid else s
    | none => s)

end Sys2Proof.Machine
end

