-- ==== Sys2Proof/Machine/Mma.lean ====
section
/-! DEFINITION. The product that the matrix pipe computes (R36, R37, R45, R289 to R291). -/

namespace Sys2Proof.Machine

/-- The shape of a format (R289): K, elements of A per register, scales per row, B row bytes, B data bytes, scale strip bytes. -/
structure MmaShape where
  K : Nat
  E : Nat
  G : Nat
  row : Nat
  data : Nat
  strip : Nat

def mmaShape (t : Ty) : MmaShape :=
  match elemW t with
  | 4 => ⟨512, 8, 16, 64, 32768, 2048⟩
  | 6 => ⟨256, 4, 8, 96, 24576, 1024⟩
  | 8 => ⟨256, 4, 8, 128, 32768, 1024⟩
  | _ => ⟨128, 2, 0, 256, 32768, 0⟩

/-- The span of operand B. -/
def MmaShape.blen (h : MmaShape) : Nat := h.data + h.strip

/-- The value of an operand element: INT8 is MXINT8 (R36). -/
def mmaElem (t : Ty) (x : Nat) : Num :=
  if t = .i8 then
    let v := intVal true 8 x
    .fin (decide (v < 0)) v.natAbs 1 (-6)
  else tyVal t x

/-- Element j of packed bytes from an offset (R37, R291). -/
def packedAt (rd : Nat → Nat) (off w j : Nat) : Nat :=
  let at_ := off + w * j / 8
  (rd at_ + 256 * rd (at_ + 1)) / 2 ^ (w * j % 8) % 2 ^ w

/-- c(i, j) of R45: row i's registers and scale bytes, and B's bytes. -/
def mmaC (t : Ty) (a : Nat → Word) (sa : Nat → Nat) (b : Nat → Nat) (j : Nat) : Nat :=
  let h := mmaShape t
  let w := elemW t
  (List.range (h.K / 32)).foldl (fun acc g =>
    let sc : Num := if h.G = 0 then .ofInt 1 else (e8m0Val (sa g)).mul (e8m0Val (b (h.data + 128 * g + j)))
    let ps := (List.range 32).map (fun u =>
      let k := 32 * g + u
      ((mmaElem t (elemAt w (a (k / h.E)).toNat (k % h.E))).mul (mmaElem t (packedAt b (h.row * k) w j))).mul sc)
    f64.round .rn ((f64.val acc).add .rn (groupSum ps))) 0

end Sys2Proof.Machine
end

