-- ==== Sys2Proof/Machine/ExecSum.lean ====
section
/-! DEFINITION. Sum regions and the meanings of the sum-line instructions and MMA (R280 to R303). -/

namespace Sys2Proof.Machine

/-! ### Regions (R280 to R282) -/

/-- A valid entry of a context's region table: entry, scope, base, length in lines, place. -/
structure Region where
  entry : Nat
  scope : Nat
  base : Nat
  lines : Nat
  place : Nat
  deriving DecidableEq, Repr

/-- An entry of the region tables as the device declared it. A software write to the entry shows until its next change and changes no
region (R281). -/
def State.regionRaw (s : State) (n : Nat) : Nat := s.regionTab.getD n 0

/-- The device writes an entry of the region tables. -/
def State.setRegion (s : State) (n v : Nat) : State := { s.setRcd .region n v with regionTab := Tbl.write 0 s.regionTab n v }

/-- The valid regions of a context (R281). -/
def State.regions (s : State) (ctx : Nat) : List Region :=
  (List.range 64).filterMap (fun e =>
    let r := s.regionRaw (64 * ctx + e)
    if Reg.valid.get r = 1 then
      some ⟨e, Reg.scope.get r, Reg.base.get r * 128, Reg.nlines.get r, Reg.place.get r⟩
    else none)

/-- The region that a range of n bytes lies wholly within. -/
def State.regionOf (s : State) (ctx va n : Nat) : Option Region :=
  (s.regions ctx).find? (fun r => decide (r.base ≤ va) && decide (va + n ≤ r.base + 128 * r.lines))

/-- place of a bay in a scope (R281). -/
def scopePlace (scope b : Nat) : Nat :=
  match scope with
  | 0 => bayCode b
  | 1 => bayCode b / 16 * 16
  | 2 => bayCode b / 256 * 256
  | _ => 0

/-- A bay lies within a region's reach (R280). -/
def Region.reaches (r : Region) (b : Nat) : Bool := decide (scopePlace r.scope b = r.place)

/-- Translate each piece of a range, in ascending order. -/
def eachPiece (f : Nat → Except Stop Nat) : List (Nat × Nat) → Except Stop (List (Nat × Nat × Nat))
  | [] => .ok []
  | (va, n) :: rest =>
    match f va with
    | .error x => .error x
    | .ok pa =>
      match eachPiece f rest with
      | .error x => .error x
      | .ok l => .ok ((va, pa, n) :: l)

/-- The physical address of one page of a region, checked as R282 does (steps 3 and 4). -/
def State.sumPage (s : State) (rid : Nat) (c : Crew) (r : Region) (lane va : Nat) : Except Stop Nat :=
  let b := ridBay rid
  let ctx := c.ctx s
  if r.scope = 0 ∧ (s.pinOf ctx b va).isNone then .error (c.trapAt 0x040 4 va lane)
  else
    match s.xlat b ctx va .write with
    | .bad cause => .error (.ctx cause)
    | .fault kind copy => .error (.fault ⟨kind, va, true, copy, lane⟩)
    | .ok h =>
      if r.scope ≠ 0 ∧ (Pte.m h.leaf = true ∨ Pte.kv h.leaf = true) then .error (c.trapAt 0x040 5 va lane)
      else if (r.scope = 1 ∨ r.scope = 2) ∧ homeDie h.pa ≠ r.place / 256 then .error (c.trapAt 0x044 2 va lane)
      else .ok h.pa

/-- The checks of R282 on a range of n bytes for a crew: its pieces with their physical addresses. -/
def State.sumCheck (s : State) (rid : Nat) (c : Crew) (va n lane : Nat) : Except Stop (Region × List (Nat × Nat × Nat)) :=
  match s.regionOf (c.ctx s) va n with
  | none => .error (c.trapAt 0x040 1 va lane)
  | some r =>
    if !r.reaches (ridBay rid) then .error (c.trapAt 0x044 1 va lane)
    else
      match eachPiece (s.sumPage rid c r lane) (piecesOf (n / 4096 + 2) va n) with
      | .error x => .error x
      | .ok l => .ok (r, l)

/-- The lines of translated pieces: virtual and physical address. -/
def pieceLines (l : List (Nat × Nat × Nat)) : List (Nat × Nat) :=
  l.flatMap (fun p => (List.range (p.2.2 / 128)).map (fun i => (p.1 + 128 * i, p.2.1 + 128 * i)))

/-- The checks of an address: canonical, aligned, local, in the order of R235. -/
def Crew.addrCheck (c : Crew) (va w lane : Nat) : Option Stop :=
  if !canonical va then some (c.trapAt 0x032 0 va lane)
  else if va % w ≠ 0 then some (c.trapAt 0x020 w va lane)
  else if isPeer va then some (c.trapAt 0x021 0 va lane)
  else none

/-- The checks of a bounding address: canonical, local, aligned (R294). -/
def Crew.addrCheck' (c : Crew) (va w lane : Nat) : Option Stop :=
  if !canonical va then some (c.trapAt 0x032 0 va lane)
  else if isPeer va then some (c.trapAt 0x021 0 va lane)
  else if va % w ≠ 0 then some (c.trapAt 0x020 w va lane)
  else none

/-- Reductions in flight to a region's lines. -/
def State.redsIn (s : State) (ctx base lines : Nat) : List Red :=
  s.reds.filter (fun r => decide (r.ctx = ctx) && decide (base ≤ r.va) && decide (r.va < base + 128 * lines))

/-- A crew's own reductions in flight to a range. -/
def State.ownReds (s : State) (c : Crew) (va n : Nat) : List Red :=
  s.reds.filter (fun r => decide (r.k = c.kernel) && decide (r.crew = c.idx) && decide (va ≤ r.va) && decide (r.va < va + n))

/-- A stroke holds a SUMRED update to a region of a context. -/
def Stroke.sumsInto (st : Stroke) (base lines : Nat) : Bool :=
  st.effs.any (fun e => match e with | .sumred va _ _ => decide (base ≤ va) && decide (va < base + 128 * lines) | _ => false)

/-- A SUMDECL.free may complete (R298): no held stroke with an update to the region, no MMA or SUMDRAIN that has passed its checks, no
reduction in flight. -/
def State.freeDone (s : State) (ctx base lines : Nat) : Bool :=
  let within (va : Nat) : Bool := decide (base ≤ va) && decide (va < base + 128 * lines)
  (s.redsIn ctx base lines).isEmpty && s.crews.all (fun p => decide (p.2.ctx s ≠ ctx) ||
    (!p.2.strokes.any (fun st => st.sumsInto base lines) && !(p.2.mma.any (fun j => within j.dst)) &&
      !(p.2.drain.any (fun j => within j.src || within j.dst))))

/-- Reductions have gone: frames that only they held are released, and crews that wait for reductions look again. -/
def State.redsChanged (s : State) : State :=
  s.crews.foldl (fun s p =>
    match p.2.wait with
    | .reds => s.setCrew p.1 (fun c => { c with wait := .none })
    | .freeing base lines => if s.freeDone (p.2.ctx s) base lines then s.resumeNext p.1 else s
    | _ => s) s.sweepStash

/-- The resumed MMA of a crew is complete: its progress index reads 0 again (R122). -/
def Crew.mmaEnded (id : Nat) (c : Crew) : Crew :=
  if c.resumed = some id then { c with progress := 0, resumed := none } else c

/-- The flag of an MMA none of whose reductions is in flight clears (R294). -/
def State.mmaDone (s : State) (id : Nat) : State :=
  if s.reds.any (fun r => decide (r.mma = some id)) then s
  else
    let s := { s with crews := s.crews.map (fun (p : Nat × Crew) => (p.1, p.2.mmaEnded id)) }
    match s.mmaFlags.find? (fun f => decide (f.id = id)) with
    | some f => { s with mmaFlags := s.mmaFlags.filter (fun x => decide (x.id ≠ id)) }.setCrew f.rid (fun c => c.clearFlag f.flag)
    | none => s

/-- Reductions that have just gone from those in flight: the flags, batches and windows that they held, and the crews and kernels that
wait for them. -/
def State.redsGone (s : State) (gone : List Red) : State :=
  let s := (gone.filterMap (fun r => r.mma)).dedup.foldl State.mmaDone s
  let s := (gone.map (fun r => (r.k, r.crew))).dedup.foldl (fun s q =>
    ((s.post (.kernelCrew q.1 q.2) .matrixBatchRaise).post (.kernelCrew q.1 q.2) .stampRecordWrite)) s
  let s := (gone.map (fun r => r.k)).dedup.foldl (fun s k =>
    if s.reds.any (fun r => decide (r.k = k)) then s
    else (s.post (.kernel k) .kernelRetire).post (.kernel k) .stopCutComplete) s
  s.redsChanged

/-- A line is poisoned (R287): every reduction in flight to it is dropped, and each kernel is told once. -/
def State.poison (s : State) (l : Nat) : State :=
  let gone := s.reds.filter (fun r => decide (lineOf r.pa = l))
  let s := { s with poisoned := addLines s.poisoned [l], reds := s.reds.filter (fun r => decide (lineOf r.pa ≠ l)) }
  -- a context record with an uncorrectable error (R80)
  let s := if l < Config.contexts ∧ s.fld .context l Ctx.state ≠ 0 then s.ctxFault l 4 else s
  (gone.foldl (fun s r => s.dropRed r) s).redsGone gone

/-! ### Declaring (R298, R295) -/

/-- The table entry that SUMDECL.decl writes. -/
def regionRecord (scope base lines place : Nat) : Nat :=
  setAll [(Reg.scope, scope), (Reg.base, base / 128), (Reg.nlines, lines), (Reg.place, place), (Reg.valid, 1)]

/-- SUMDECL.decl (R298). -/
def execSumdeclDecl (k : Ctl) (a b : Reg) : State → Host.Outcome State Fault Refusal :=
  bounding (.sumdeclDecl k a b) (fun s rid c =>
    let next := { c with pc := s.nextPc rid c }
    let ctx := c.ctx s
    let base := c.uval 2 a
    let x := c.uval 1 b
    let lines := x / 256
    let scope := x % 8
    let al := if scope = 0 then 4096 else 128
    if c.em = 0#32 then .ok (s.finish rid k next [])
    else if !c.uni 2 a || !c.uni 1 b then .error c.diverges
    else if x / 8 % 32 ≠ 0 ∨ 3 < scope ∨ lines = 0 ∨ (scope = 0 ∧ (lines % 32 ≠ 0 ∨ 8192 < lines)) then .error (c.operandFault 2)
    else
      match c.addrCheck base al c.low with
      | some e => .error e
      | none =>
        if 2 ^ 55 < base + 128 * lines then .error (c.operandFault 1)
        else if (s.regions ctx).any (fun r => decide (r.base < base + 128 * lines) && decide (base < r.base + 128 * r.lines)) then
          .error (c.trapAt 0x040 3 base c.low)
        else
          match (List.range 64).find? (fun e => Reg.valid.get (s.regionRaw (64 * ctx + e)) = 0) with
          | none => .error (c.trapAt 0x040 2 base c.low)
          | some e =>
            match (piecesOf (lines / 32 + 1) base (128 * lines)).find? (fun p => scope = 0 && (s.pinOf ctx (ridBay rid) p.1).isNone) with
            | some p => .error (c.trapAt 0x040 4 p.1 c.low)
            | none =>
              let rec_ := regionRecord scope base lines (scopePlace scope (ridBay rid))
              .ok ((s.setRegion (64 * ctx + e) rec_).finish rid k next []))

/-- Squash every uncommitted stroke of a context that holds an update to a region, but a held one (R298). -/
def State.squashSums (s : State) (ctx base lines : Nat) : State :=
  s.crews.foldl (fun s p =>
    if p.2.ctx s ≠ ctx then s
    else
      match p.2.strokes.findIdx? (fun st => !st.held && st.sumsInto base lines) with
      | some i => s.squash p.1 i
      | none => s) s

/-- SUMDECL.free (R298). -/
def execSumdeclFree (k : Ctl) (a : Reg) : State → Host.Outcome State Fault Refusal :=
  bounding (.sumdeclFree k a) (fun s rid c =>
    let next := { c with pc := s.nextPc rid c }
    let ctx := c.ctx s
    let base := c.uval 2 a
    if c.em = 0#32 then .ok (s.finish rid k next [])
    else if !c.uni 2 a then .error c.diverges
    else if !canonical base then .error (c.trapAt 0x032 0 base c.low)
    else if isPeer base then .error (c.trapAt 0x021 0 base c.low)
    else
      match (s.regions ctx).find? (fun r => decide (r.base = base)) with
      | none => .error (c.trapAt 0x040 1 base c.low)
      | some r =>
        let n := 64 * ctx + r.entry
        let s := (s.setRegion n (Reg.valid.set (s.regionRaw n) 0)).squashSums ctx base r.lines
        if s.freeDone ctx base r.lines then .ok (s.finish rid k next [])
        else .ok (s.sleep rid k c (.freeing base r.lines)))

/-- SUMDECL.tl (R295): the object must be a timeline aligned to 32 bytes. -/
def execSumdeclTl (k : Ctl) (a : Reg) : State → Host.Outcome State Fault Refusal :=
  bounding (.sumdeclTl k a) (fun s rid c =>
    let next := { c with pc := s.nextPc rid c }
    let va := c.uval 2 a
    if c.em = 0#32 then .ok (s.finish rid k next [])
    else if !c.uni 2 a then .error c.diverges
    else if !canonical va then .error (c.trapAt 0x032 0 va c.low)
    else if isPeer va then .error (c.trapAt 0x021 0 va c.low)
    else if va % 32 ≠ 0 then .error (c.operandFault 1)
    else
      match s.xlat (ridBay rid) (c.ctx s) va .write with
      | .bad cause => .error (.ctx cause)
      | .fault kind copy => .error (.fault ⟨kind, va, true, copy, c.low⟩)
      | .ok h =>
        let r : Regn := ⟨h.pa, c.ctx s, va, c.kernel, .bound c.idx false⟩
        if Pte.m h.leaf || Pte.kv h.leaf then .error (c.trapAt 0x051 3 va c.low)
        else if Bar.mode.get (s.num h.pa 32) ≠ 2 then .error (c.operandFault 1)
        else
          match s.regRefused r with
          | some x => .error (c.trapAt 0x052 x va c.low)
          | none =>
            let s := (s.register r).setKern c.kernel (fun y => y.setKeep c.idx (fun e => e.bind false h.pa))
            .ok ((s.advance false c.kernel c.idx).finish rid k next []))

/-! ### Reading and adding (R299, R300) -/

/-- Elements of a SUMRD form. -/
def sumrdCount : SumRdOp → Nat
  | .f64 => 1 | .f32 => 1 | .bf16 => 2 | .e4m3 => 4

def sumrdRegs : SumRdOp → Nat
  | .f64 => 2 | .f32 => 1 | .bf16 => 1 | .e4m3 => 1

/-- The elements of a SUMRD converted (R299), a NaN to the canonical one (R32); sc: bits 7:0 of d before the instruction. -/
def sumrdVal (op : SumRdOp) (xs : List Nat) (sc : Nat) : Nat :=
  match op with
  | .f64 => match f64.val (xs.headD 0) with | .nan => f64.nanBits | _ => xs.headD 0
  | .f32 => f32.round .rn (f64.val (xs.headD 0))
  | .bf16 => (xs.zip (List.range 2)).foldl (fun r p => r + bf16.round .rn (f64.val p.1) * 2 ^ (16 * p.2)) 0
  | .e4m3 =>
    let inv : Num := match e8m0Val sc with | .nan => .nan | _ => .fin false 1 1 (127 - (sc % 256 : Nat))
    (xs.zip (List.range 4)).foldl (fun r p => r + e4m3.round .rn ((f64.val p.1).mul inv) * 2 ^ (8 * p.2)) 0

/-- The checks of a SUMRD lane without .clr: a translated address. -/
def State.sumrdLane (s : State) (rid : Nat) (c : Crew) (va n lane : Nat) : Except Stop Hit :=
  match c.addrCheck va n lane with
  | some e => .error e
  | none =>
    if (s.regionOf (c.ctx s) va n).isNone then .error (c.trapAt 0x040 1 va lane)
    else
      match s.xlat (ridBay rid) (c.ctx s) va .read with
      | .bad cause => .error (.ctx cause)
      | .fault kind copy => .error (.fault ⟨kind, va, false, copy, lane⟩)
      | .ok h => if s.poisoned.contains (lineOf h.pa) then .error (c.trapAt 0x042 (h.pa % 128 / 8) va lane) else .ok h

/-- The checks of a lane that reduces or clears: R282, then poison. -/
def State.sumLane (s : State) (rid : Nat) (c : Crew) (va n lane : Nat) : Except Stop Nat :=
  match c.addrCheck va n lane with
  | some e => .error e
  | none =>
    match s.sumCheck rid c va n lane with
    | .error x => .error x
    | .ok (_, l) =>
      let pa := match l with | (_, pa, _) :: _ => pa | [] => 0
      if s.poisoned.contains (lineOf pa) then .error (c.trapAt 0x042 (pa % 128 / 8) va lane) else .ok pa

/-- SUMRD (R299). -/
def execSumrd (k : Ctl) (op : SumRdOp) (d a : Reg) (off : Word) : State → Host.Outcome State Fault Refusal :=
  ordinary (.sumrd k op d a off) (fun s rid c =>
    let n := 8 * sumrdCount op
    match checkLanes (fun l => s.sumrdLane rid c (c.addr a off l) n l) (c.acting k.pred) with
    | .error x => .error x
    | .ok hs =>
      let own := s.ownWrites c
      let elems (h : Hit) := (List.range (sumrdCount op)).map (fun i => s.underNum own (h.pa + 8 * i) 8)
      .ok { crew := { c with pc := s.nextPc rid c },
            cells := hs.flatMap (fun p => cellsAt (sumrdRegs op) d.toNat p.1 (sumrdVal op (elems p.2) (c.v32 d p.1))),
            lat := none, rl := cachedLines hs, pinned := allPinned hs, misses := missed (c.addr a off) hs })

/-- Lanes of a list of lanes checked in ascending order. -/
def sumLanes (f : Nat → Except Stop Nat) : List Nat → Except Stop (List (Nat × Nat))
  | [] => .ok []
  | l :: ls =>
    match f l with
    | .error x => .error x
    | .ok pa => match sumLanes f ls with | .error x => .error x | .ok r => .ok ((l, pa) :: r)

/-- One lane of SUMRD.clr: its elements are read and set to +0. -/
def clearLane (op : SumRdOp) (d : Reg) (c : Crew) (r : State × List (Nat × Word)) (p : Nat × Nat) : State × List (Nat × Word) :=
  let xs := (List.range (sumrdCount op)).map (fun i => r.1.num (p.2 + 8 * i) 8)
  (r.1.writeNum p.2 (8 * sumrdCount op) 0, r.2 ++ cellsAt (sumrdRegs op) d.toNat p.1 (sumrdVal op xs (c.v32 d p.1)))

/-- SUMRD.clr (R299). -/
def execSumrdClr (k : Ctl) (op : SumRdOp) (d a : Reg) (off : Word) : State → Host.Outcome State Fault Refusal :=
  bounding (.sumrdClr k op d a off) (fun s rid c =>
    match sumLanes (fun l => s.sumLane rid c (c.addr a off l) (8 * sumrdCount op) l) (c.acting k.pred) with
    | .error x => .error x
    | .ok ps =>
      let r := ps.foldl (clearLane op d c) (s, [])
      .ok (r.1.finish rid k { c with pc := s.nextPc rid c } r.2))

/-- SUMRED (R300). -/
def execSumred (k : Ctl) (op : SumRedOp) (a b : Reg) (off : Word) : State → Host.Outcome State Fault Refusal :=
  ordinary (.sumred k op a b off) (fun s rid c =>
    let v (l : Nat) : Nat := match op with | .f64 => c.v64 b l | .f32 => f64.round .rn (f32.val (c.v32 b l))
    match sumLanes (fun l => s.sumLane rid c (c.addr a off l) 8 l) (c.acting k.pred) with
    | .error x => .error x
    | .ok ps =>
      let lines := addLines [] (ps.map (fun p => lineOf p.2))
      if 8 < lines.length then .error (c.operandFault 1)
      else
        .ok { crew := { c with pc := s.nextPc rid c }, sums := lines,
              effs := ps.map (fun p => .sumred (c.addr a off p.1) p.2 (v p.1)) })

/-! ### Zeroing and draining (R301, R302) -/

/-- SUMZ of one line: sixteen +0 elements, and no poison. -/
def State.zeroLine (s : State) (pa : Nat) : State :=
  let s := s.writeNum pa 128 0
  { s with poisoned := s.poisoned.filter (fun l => decide (l ≠ lineOf pa)), told := s.told.filter (fun t => decide (t.1 ≠ lineOf pa)) }

/-- SUMZ (R301). -/
def execSumz (k : Ctl) (a b : Reg) : State → Host.Outcome State Fault Refusal :=
  bounding (.sumz k a b) (fun s rid c =>
    let next := { c with pc := s.nextPc rid c }
    let va := c.uval 2 a
    let n := c.uval 1 b
    if c.em = 0#32 then .ok (s.finish rid k next [])
    else if !c.uni 2 a || !c.uni 1 b then .error c.diverges
    else if n = 0 ∨ 2 ^ 24 ≤ n then .error (c.operandFault 2)
    else
      match c.addrCheck' va 128 c.low with
      | some e => .error e
      | none =>
        match s.sumCheck rid c va (128 * n) c.low with
        | .error x => .error x
        | .ok (_, l) =>
          if (s.ownReds c va (128 * n)).isEmpty then
            .ok (((pieceLines l).foldl (fun s p => s.zeroLine p.2) s).finish rid k next [])
          else .error (.wait .reds))

/-- The source checks of SUMDRAIN (R302): its lines. With .clr, which zeroes them, they are checked as R282 has it too. -/
def State.drainSource (s : State) (rid : Nat) (c : Crew) (clr : Bool) (va : Nat) : Except Stop (List (Nat × Nat)) :=
  match s.regionOf (c.ctx s) va 32768 with
  | none => .error (c.trapAt 0x040 1 va c.low)
  | some r =>
    if r.scope ≠ 0 then .error (c.trapAt 0x040 6 va c.low)
    else if !r.reaches (ridBay rid) then .error (c.trapAt 0x044 1 va c.low)
    else if clr then match s.sumCheck rid c va 32768 c.low with | .error x => .error x | .ok (_, l) => .ok (pieceLines l)
    else
      match eachPiece (fun va =>
          match s.xlat (ridBay rid) (c.ctx s) va .read with
          | .bad cause => .error (.ctx cause)
          | .fault kind copy => .error (.fault ⟨kind, va, false, copy, c.low⟩)
          | .ok h => .ok h.pa) (piecesOf 10 va 32768) with
      | .error x => .error x
      | .ok l => .ok (pieceLines l)

/-- The destination checks of SUMDRAIN (R302): its lines. -/
def State.drainDest (s : State) (rid : Nat) (c : Crew) (va : Nat) : Except Stop (List (Nat × Nat)) :=
  match s.regionOf (c.ctx s) va 32768 with
  | none => .error (c.trapAt 0x040 1 va c.low)
  | some r =>
    if r.scope = 0 then .error (c.trapAt 0x040 6 va c.low)
    else match s.sumCheck rid c va 32768 c.low with | .error x => .error x | .ok (_, l) => .ok (pieceLines l)

/-- The checks of a SUMDRAIN (R302), once: after its wait for reductions it goes on with the lines that it found (R298). -/
def State.drainChecked (s : State) (rid : Nat) (c : Crew) (clr : Bool) (src dst : Nat) : Except Stop Drain :=
  match c.drain with
  | some j => .ok j
  | none =>
    match c.addrCheck' src 128 c.low, c.addrCheck' dst 128 c.low with
    | some e, _ => .error e
    | none, some e => .error e
    | none, none =>
      match s.drainSource rid c clr src with
      | .error x => .error x
      | .ok from_ =>
        match s.drainDest rid c dst with
        | .error x => .error x
        | .ok to_ => .ok ⟨src, dst, from_, to_⟩

/-- The reduction of element e of a drained line into the same element of the destination line. -/
def drainRed (s : State) (rid : Nat) (c : Crew) (dst : Nat × Nat) (e v : Nat) : Red :=
  ⟨dst.1 + 8 * e, dst.2 + 8 * e, v, c.kernel, c.idx, c.ctx s, ((s.kern c.kernel).keepOf c.idx).mcount + 1, none, 0, s.clock, c.pc,
    ridBay rid, 0, none⟩

/-- One line of SUMDRAIN: a poisoned source line sends nothing and poisons the matching line (R287). -/
def State.drainLine (s : State) (rid : Nat) (c : Crew) (clr : Bool) (src dst : Nat × Nat) : State :=
  if s.poisoned.contains (lineOf src.2) then (s.poison (lineOf dst.2)).dropRed (drainRed s rid c dst 0 0)
  else
    (List.range 16).foldl (fun s e =>
      let x := s.num (src.2 + 8 * e) 8
      let s := if clr then s.writeNum (src.2 + 8 * e) 8 0 else s
      s.issueRed (drainRed s rid c dst e x)) s

/-- SUMDRAIN (R302). -/
def execSumdrain (k : Ctl) (clr : Bool) (a b : Reg) : State → Host.Outcome State Fault Refusal :=
  bounding (.sumdrain k clr a b) (fun s rid c =>
    let next := { c with pc := s.nextPc rid c }
    let src := c.uval 2 a
    let dst := c.uval 2 b
    if c.em = 0#32 then .ok (s.finish rid k next [])
    else if !c.uni 2 a || !c.uni 2 b then .error c.diverges
    else
      match s.drainChecked rid c clr src dst with
      | .error x => .error x
      | .ok j =>
        if (s.ownReds c src 32768).isEmpty then
          .ok (((j.from_.zip j.to_).foldl (fun s p => s.drainLine rid c clr p.1 p.2) s).finish rid k { next with drain := none } [])
        else .ok ((s.setCrew rid (fun _ => { c with drain := some j })).waitFor rid .reds))

/-- SUMQ (R303): the element updates in flight to the region. -/
def execSumq (k : Ctl) (d a : Reg) : State → Host.Outcome State Fault Refusal :=
  ordinary (.sumq k d a) (fun s rid c =>
    let next := { c with pc := s.nextPc rid c }
    let va := c.uval 2 a
    if c.em = 0#32 then .ok { crew := next }
    else if !c.uni 2 a then .error c.diverges
    else if !canonical va then .error (c.trapAt 0x032 0 va c.low)
    else if isPeer va then .error (c.trapAt 0x021 0 va c.low)
    else
      match s.regionOf (c.ctx s) va 1 with
      | none => .error (c.trapAt 0x040 1 va c.low)
      | some r =>
        let n := min (s.redsIn (c.ctx s) r.base r.lines).length (2 ^ 32 - 1)
        .ok { crew := next, cells := cellsIn c.active 1 d (fun _ => n), lat := none })

/-! ### MMA and MBATCH (R294, R296) -/

/-- MBATCH (R296). -/
def execMbatch (k : Ctl) (d : Reg) : State → Host.Outcome State Fault Refusal :=
  bounding (.mbatch k d) (fun s rid c =>
    let n := ((s.kern c.kernel).keepOf c.idx).mcount + 1
    let s := s.setKern c.kernel (fun y => y.setKeep c.idx (fun e => { e with mcount := n, mopen := false }))
    .ok ((s.finish rid k { c with pc := s.nextPc rid c } (cellsIn c.active 1 d (fun _ => n))).post (.kernelCrew c.kernel c.idx)
      .matrixBatchRaise))

/-- Every page of operand B is mapped on the issuing bay by the crew's kernel and pinned there (R291). -/
def State.bMapped (s : State) (rid : Nat) (c : Crew) (va n : Nat) : Bool :=
  decide (va % 128 = 0) && decide (va + n ≤ 2 ^ 55) && (piecesOf (n / 4096 + 2) va n).all (fun p =>
    (s.pinOf (c.ctx s) (ridBay rid) p.1).isSome &&
      (match s.stashOf (ridBay rid) (c.ctx s) p.1 with
       | some m => (match m.owner with | some (k, _) => decide (k = c.kernel) | none => false)
       | none => false))

/-- MMA (R294): the checks, which one that has passed them does not make again; leave and the pipe come next (MMA_ACCEPT). -/
def execMma (k : Ctl) (fmt : Ty) (reuse : Bool) (sel : BitVec 2) (d a b c : Reg) : State → Host.Outcome State Fault Refusal :=
  bounding (.mma k fmt reuse sel d a b c) (fun s rid x =>
    let dst := x.uval 2 d
    let bsrc := x.uval 2 b
    let blen := (mmaShape fmt).blen
    let asks (job : MmaJob) := ((s.setCrew rid (fun _ => { x with mma := some job })).waitFor rid .pipe).postFirst (.crew rid) .mmaAccept
    if let some job := x.mma then .ok (asks job)
    else if x.em ≠ 0xFFFF_FFFF#32 then .error (x.crewTrap 0x016 x.em.toNat)
    else if !x.uni 2 d || !x.uni 2 b then .error x.diverges
    else
      match x.addrCheck' dst 128 x.low with
      | some e => .error e
      | none =>
        match s.sumCheck rid x dst 32768 x.low with
        | .error e => .error e
        | .ok (r, l) =>
          if !s.bMapped rid x bsrc blen then .error (x.operandFault 2)
          else if bsrc < r.base + 128 * r.lines ∧ r.base < bsrc + blen then .error (x.trapAt 0x041 0 bsrc x.low)
          else
            let job : MmaJob := ⟨fmt, reuse, sel.toNat, a.toNat, c.toNat, dst, bsrc, k.set, (pieceLines l).map Prod.snd, x.pc, x.slot, [], k.yield, none⟩
            .ok (asks job))

end Sys2Proof.Machine
end

