-- ==== Sys2Proof/Machine/Leave.lean ====
section
/-! DEFINITION. The leave unit of a bay: grant levels, the MMA allowance of a window, and the raises it asks for (R112, R113). -/

namespace Sys2Proof.Machine

/-- Set what a bay keeps of a kernel. -/
def State.onBayKernel (s : State) (b k : Nat) (f : BayKernel → BayKernel) : State :=
  s.setBay b (fun y => { y with kerns := y.kerns.modify k f })

/-- The grant level of a kernel on a bay. -/
def State.level (s : State) (b k : Nat) : Nat :=
  match (s.bay b).kerns.get? k with | some x => x.level | none => 0

/-- The window of a clk (R113). -/
def windowOf (clk : Nat) : Nat := clk / 1500

/-- MMAs of a kernel that the bay's pipe has accepted in the present window. -/
def BayKernel.used (x : BayKernel) (clk : Nat) : Nat := if x.window = windowOf clk then x.accepted else 0

/-- A kernel may have a further MMA accepted on a bay in the present window: level 15 is unmetered. -/
def State.mmaAllowed (s : State) (b k : Nat) : Bool :=
  match (s.bay b).kerns.get? k with
  | some x => decide (x.level = 15) || decide (x.used s.clock < 6 * x.level)
  | none => false

/-- The trip bit of a die is set (R427). -/
def State.tripped (s : State) (d : Nat) : Bool := decide (s.fld .power 0 (if d = 0 then Pwr.trip0 else Pwr.trip1) = 1)

/-- The matrix pipe of a bay can accept an MMA in this clk (R16, R142): it is free, and the trip bit of its die has let 32 clk pass
(R427). -/
def State.pipeOpen (s : State) (b : Nat) : Bool :=
  let y := s.bay b
  decide (y.pipeFree ≤ s.clock) && (!s.tripped (dieOf b) || decide (y.pipeLast = 0) || decide (y.pipeLast + 31 ≤ s.clock))

/-- A raise is on its way to the governor, or its answer on the way back. -/
def State.raising (s : State) (b k : Nat) (who : RaiseFor) : Bool :=
  s.gov.any (fun r => decide (r.what = .raise b k who)) || s.answers.any (fun a => decide (a.1.what = .raise b k who))

/-- Ask the die's governor to raise a level by 1 (R113). -/
def State.askRaise (s : State) (b k : Nat) (who : RaiseFor) : State :=
  if s.raising b k who then s else { s with gov := s.gov ++ [⟨dieOf b, .raise b k who⟩] }

/-- A command has been released: one of more than 1 MiB asks for a raise, but for a kernel at level 15 (R113, R322). -/
def State.askForCmd (s : State) (id : Nat) : State :=
  match s.cmds.find? (fun m => decide (m.id = id)) with
  | some m =>
    if !m.leave then s
    else if s.level m.bay m.k = 15 then { s with cmds := s.cmds.map (fun x => if x.id = id then { x with leave := false } else x) }
    else s.askRaise m.bay m.k (.cmd id)
  | none => s

end Sys2Proof.Machine
end

