-- ==== Sys2Proof/Machine/ExecBar.lean ====
section
/-! DEFINITION. The meanings of the barrier instructions and of the engine commands' issue (R315 to R328). -/

namespace Sys2Proof.Machine

/-! ### Objects (R315) -/

/-- The checks of an object address in the order of R315: its physical address. -/
def State.objCheck (s : State) (rid : Nat) (c : Crew) (va : Nat) (need : Need) : Except Stop Hit :=
  match c.addrCheck' va 32 c.low with
  | some e => .error e
  | none =>
    match s.xlat (ridBay rid) (c.ctx s) va need with
    | .bad cause => .error (.ctx cause)
    | .fault kind copy => .error (.fault ⟨kind, va, decide (need = .write), copy, c.low⟩)
    | .ok h => if Pte.m h.leaf || Pte.kv h.leaf then .error (c.trapAt 0x051 3 va c.low) else .ok h

/-- A barrier instruction applied at commit: its object, and its registration if it makes one. -/
def barOut (s : State) (rid : Nat) (c : Crew) (va : Nat) (h : Hit) (op : BarOp) (keep : Bool) (src : Option RegSrc) :
    Except Stop Out :=
  let rs : List Regn := match src with | some x => [⟨h.pa, c.ctx s, va, c.kernel, x⟩] | none => []
  match rs.findSome? s.regRefused with
  | some x => .error (c.trapAt 0x052 x va c.low)
  | none =>
    .ok { crew := { c with pc := s.nextPc rid c }, effs := [.bar va h.pa op (if keep then some rs else none)], regns := rs,
          wl := [lineOf h.pa], misses := if h.miss then [va] else [] }

/-- BARINIT.ph (R316). -/
def execBarinitPh (k : Ctl) (bent : Bool) (a b c : Reg) : State → Host.Outcome State Fault Refusal :=
  ordinary (.barinitPh k bent a b c) (fun s rid x =>
    let v := x.uval 1 b
    let n := v / 2 ^ 16 % 256
    if x.em = 0#32 then .ok { crew := { x with pc := s.nextPc rid x } }
    else if !x.uni 2 a || !x.uni 1 b || !x.uni 1 c then .error x.diverges
    else if 2 ^ 24 ≤ v ∨ (bent = false ∧ n ≠ 0) ∨ (bent = true ∧ (s.kern x.kernel).bents.length ≤ n) then .error (x.operandFault 2)
    else
      match s.objCheck rid x (x.uval 2 a) .write with
      | .error e => .error e
      | .ok h =>
        barOut s rid x (x.uval 2 a) h (.initPhase (v % 2 ^ 16) (x.uval 1 c)) true (if bent then some (.bent n) else none))

/-- BARINIT.tl (R316). -/
def execBarinitTl (k : Ctl) (a b c : Reg) : State → Host.Outcome State Fault Refusal :=
  ordinary (.barinitTl k a b c) (fun s rid x =>
    if x.em = 0#32 then .ok { crew := { x with pc := s.nextPc rid x } }
    else if !x.uni 2 a || !x.uni 1 b || !x.uni 1 c then .error x.diverges
    else
      match s.objCheck rid x (x.uval 2 a) .write with
      | .error e => .error e
      | .ok h => barOut s rid x (x.uval 2 a) h (.initTimeline (x.uval 1 b * 2 ^ 32 + x.uval 1 c)) true none)

/-- BARINIT.eng: as .tl, and the object becomes the crew's engine timeline at the commit (R316, R327). -/
def execBarinitEng (k : Ctl) (a b c : Reg) : State → Host.Outcome State Fault Refusal :=
  ordinary (.barinitEng k a b c) (fun s rid x =>
    if x.em = 0#32 then .ok { crew := { x with pc := s.nextPc rid x } }
    else if !x.uni 2 a || !x.uni 1 b || !x.uni 1 c then .error x.diverges
    else
      match s.objCheck rid x (x.uval 2 a) .write with
      | .error e => .error e
      | .ok h =>
        match barOut s rid x (x.uval 2 a) h (.initTimeline (x.uval 1 b * 2 ^ 32 + x.uval 1 c)) true (some (.bound x.idx true)) with
        | .error e => .error e
        | .ok o => .ok { o with binds := [h.pa] })

/-- ARRIVE (R317). The aux value of its membership fault is open: it names no mask (R170). -/
def execArrive (k : Ctl) (bent : Bool) (a b : Reg) : State → Host.Outcome State Fault Refusal :=
  ordinary (.arrive k bent a b) (fun s rid c =>
    let v := c.uval 1 b
    let n := v / 2 ^ 16 % 256
    if c.em = 0#32 then .ok { crew := { c with pc := s.nextPc rid c } }
    else if !c.uni 2 a || !c.uni 1 b then .error c.diverges
    else if v % 2 ^ 16 = 0 ∨ (if bent then 2 ^ 24 else 2 ^ 16) ≤ v then .error (c.operandFault 2)
    else if bent && !s.member c.kernel n c.idx then .error (c.crewTrap 0x015 (s.openWord 0).toNat)
    else
      match s.objCheck rid c (c.uval 2 a) .write with
      | .error e => .error e
      | .ok h => barOut s rid c (c.uval 2 a) h (.arrive (v % 2 ^ 16)) false (some (.crew c.idx)))

/-- EXPECT (R318). -/
def execExpect (k : Ctl) (a b : Reg) : State → Host.Outcome State Fault Refusal :=
  ordinary (.expect k a b) (fun s rid c =>
    if c.em = 0#32 then .ok { crew := { c with pc := s.nextPc rid c } }
    else if !c.uni 2 a || !c.uni 1 b then .error c.diverges
    else
      match s.objCheck rid c (c.uval 2 a) .write with
      | .error e => .error e
      | .ok h => barOut s rid c (c.uval 2 a) h (.expect (c.uval 1 b)) false (some (.crew c.idx)))

/-- TLADV.max (R319). -/
def execTladvMax (k : Ctl) (a b : Reg) : State → Host.Outcome State Fault Refusal :=
  ordinary (.tladvMax k a b) (fun s rid c =>
    if c.em = 0#32 then .ok { crew := { c with pc := s.nextPc rid c } }
    else if !c.uni 2 a || !c.uni 2 b then .error c.diverges
    else
      match s.objCheck rid c (c.uval 2 a) .write with
      | .error e => .error e
      | .ok h => barOut s rid c (c.uval 2 a) h (.raise (c.uval 2 b)) false none)

/-- TLADV.add (R319). -/
def execTladvAdd (k : Ctl) (a b : Reg) : State → Host.Outcome State Fault Refusal :=
  ordinary (.tladvAdd k a b) (fun s rid c =>
    if c.em = 0#32 then .ok { crew := { c with pc := s.nextPc rid c } }
    else if !c.uni 2 a || !c.uni 2 b then .error c.diverges
    else
      match s.objCheck rid c (c.uval 2 a) .write with
      | .error e => .error e
      | .ok h => barOut s rid c (c.uval 2 a) h (.tladd (c.uval 2 b)) false none)

/-- WAIT (R320). -/
def execWait (k : Ctl) (a b : Reg) : State → Host.Outcome State Fault Refusal :=
  bounding (.wait k a b) (fun s rid c =>
    let next := { c with pc := s.nextPc rid c }
    let va := c.uval 2 a
    let x := c.uval 2 b
    if c.em = 0#32 then .ok (s.finish rid k next [])
    else if !c.uni 2 a || !c.uni 2 b then .error c.diverges
    else
      match s.objCheck rid c va .read with
      | .error e => .error e
      | .ok h =>
        let o := s.num h.pa 32
        match Bar.holds o x with
        | none => .error (c.trapAt 0x051 1 va c.low)
        | some true => .ok (s.finish rid k next [])
        | some false =>
          if Bar.orphan.get o = 1 then .error (c.trapAt 0x050 0 va c.low)
          else .ok ((s.sleep rid k c (.barrier h.pa va x (Bar.mode.get o))).waitBegins c.kernel c.idx))

/-- BARQ (R321): word n of the object. -/
def execBarq (k : Ctl) (w : BitVec 2) (d a : Reg) : State → Host.Outcome State Fault Refusal :=
  ordinary (.barq k w d a) (fun s rid c =>
    let next := { c with pc := s.nextPc rid c }
    if c.em = 0#32 then .ok { crew := next }
    else if !c.uni 2 a then .error c.diverges
    else
      match s.objCheck rid c (c.uval 2 a) .read with
      | .error e => .error e
      | .ok h =>
        let x := s.underNum (s.ownWrites c) (h.pa + 8 * w.toNat) 8
        .ok { crew := next, cells := cellsIn c.active 2 d (fun _ => x), lat := none, rl := [lineOf h.pa], pinned := h.pinned,
              misses := if h.miss then [c.uval 2 a] else [] })

/-! ### Engine commands (R322 to R328) -/

/-- The operand fault of a descriptor: a field or a limit (R322). -/
def Crew.badDesc (c : Crew) : Stop := c.operandFault 1

/-- The barrier of a descriptor (R323): its address and physical address, or none. -/
def State.barOf (s : State) (rid : Nat) (c : Crew) (desc : Nat) : Except Stop (Option (Nat × Nat)) :=
  let f := slice 247 197 desc
  if f = 0 then .ok none
  else
    let va := sext56 (f * 32)
    match s.objCheck rid c va .write with
    | .error e => .error e
    | .ok h =>
      match Bar.mode.get (s.num h.pa 32) with
      | 1 => .ok (some (va, h.pa))
      | 2 => .error (c.trapAt 0x051 2 va c.low)
      | _ => .error (c.trapAt 0x051 1 va c.low)

/-- A crew's commands of some kinds that are not complete. -/
def State.cmdsOf (s : State) (c : Crew) (p : CmdKind → Bool) : Nat :=
  (s.cmds.filter (fun m => decide (m.k = c.kernel) && decide (m.crew = c.idx) && p m.kind)).length

def CmdKind.moves : CmdKind → Bool
  | .copy => true | .gather => true | .scatter => true | .encode => false | .cfetch .. => false
def CmdKind.encodes : CmdKind → Bool
  | .encode => true | .copy => false | .gather => false | .scatter => false | .cfetch .. => false

/-- A GATHER or SCATTER. -/
def CmdKind.lists : CmdKind → Bool
  | .gather => true | .scatter => true | .copy => false | .encode => false | .cfetch .. => false

/-- A copy-in or copy-out is released in the open stamp window (R399): the window's number and whether it is a copy-out. -/
def State.windowCopy (s : State) (c : Crew) : Option (Nat × Bool) × State :=
  match ((s.kern c.kernel).keepOf c.idx).windows.getLast? with
  | some w =>
    if w.closed then (none, s)
    else if w.mstart.isNone then
      (some (w.seq, false), s.onWindow c.kernel c.idx (fun w => { w with cin := some (w.cin.getD s.clock) }))
    else (some (w.seq, true), s.onWindow c.kernel c.idx (fun w => { w with coutAny := true }))
  | none => (none, s)

/-- Release a command to an engine, registered on its barrier (R311, R322). -/
def State.release (s : State) (rid : Nat) (c : Crew) (kind : CmdKind) (desc : Nat) (bar : Option (Nat × Nat)) (ready : Option Nat)
    (big : Bool) (window : Option (Nat × Bool)) : State :=
  let e := (s.kern c.kernel).keepOf c.idx
  let id := s.serial
  let m : Cmd :=
    { id := id, kind := kind, k := c.kernel, crew := c.idx, ctx := c.ctx s, bay := ridBay rid, desc := desc, bar := bar.map Prod.snd,
      barVa := (bar.map Prod.fst).getD 0, batch := e.ecount + 1, after := e.engAfter, leave := big, stage := .waiting, done := 0,
      list := none, aborted := false, late51 := false, pc := c.pc, latePc := c.latePc, stroke := c.srStroke, window := window, ready := ready, status := none,
      fault := none, engine := none }
  let s := { s with cmds := s.cmds ++ [m], serial := s.serial + 1 }.askForCmd id
  match bar with
  | some (va, pa) => s.register ⟨pa, c.ctx s, va, c.kernel, .cmd id⟩
  | none => s

/-- A command that a program issues: the place in the engine queues, the registration, the release, and the crew after it. -/
def State.issueCmd (s : State) (rid : Nat) (k : Ctl) (c : Crew) (kind : CmdKind) (desc : Nat) (bar : Option (Nat × Nat))
    (ready : Option Nat) (bytes : Nat) : Except Stop State :=
  let limit := if kind.moves then 32 else 8
  let free := match bar with | some (va, pa) => s.regRefused ⟨pa, c.ctx s, va, c.kernel, .cmd s.serial⟩ | none => none
  match free with
  | some x => .error (c.trapAt 0x052 x ((bar.map Prod.fst).getD 0) c.low)
  | none =>
    if limit ≤ s.cmdsOf c (if kind.moves then CmdKind.moves else CmdKind.encodes) then .error (.wait .engine)
    else
      let w : Option (Nat × Bool) × State :=
        if kind.moves then s.windowCopy c
        -- an ENCODE belongs to the window, but is no copy of it (R399)
        else match ((s.kern c.kernel).keepOf c.idx).windows.getLast? with
          | some w => (if w.closed then none else some (w.seq, false), s)
          | none => (none, s)
      let s := w.2.release rid c kind desc bar ready (decide (2 ^ 20 < bytes)) w.1
      let s := s.setKern c.kernel (fun y => y.setKeep c.idx (fun e => { e with eopen := true }))
      .ok (s.finish rid k { c with pc := s.nextPc rid c } [])

/-- Entries and row bytes of a GATHER or SCATTER (R326). -/
def listShape (desc : Nat) : Nat × Nat := (slice 127 120 desc + 1, 16 * (slice 63 56 desc + 1))

/-- The shape of a COPY (R324): unit count and bytes of each unit; none where a limit is broken. -/
def copyShape (desc : Nat) : Option (Nat × Nat) :=
  if slice 192 192 desc = 1 then
    let rows := slice 143 128 desc + 1
    let w := 16 * (slice 155 144 desc + 1)
    if slice 159 156 desc ≠ 0 ∨ 16 * slice 191 176 desc < w ∨ 2 ^ 32 ≤ rows * w then none else some (rows, rows * w)
  else
    let n := 16 * slice 155 128 desc
    if n = 0 ∨ slice 191 156 desc ≠ 0 then none else some ((n + 4095) / 4096, n)

/-- The first address past the local space that rows of w bytes, a pitch apart, would use (R249). -/
def pastTop (va pitch rows w : Nat) : Option Nat :=
  if isPeer va || decide (va + pitch * (rows - 1) + w ≤ 2 ^ 55) then none
  else ((List.range rows).find? (fun r => decide (2 ^ 55 < va + pitch * r + w))).map (fun r => max (2 ^ 55) (va + pitch * r))

/-- The first address past the local space that the source or the destination of a COPY would use (R249, R324). -/
def copyPast (desc : Nat) : Option Nat :=
  let src := sext56 (slice 55 0 desc)
  let dst := sext56 (slice 119 64 desc)
  if slice 192 192 desc = 1 then
    let rows := slice 143 128 desc + 1
    let w := 16 * (slice 155 144 desc + 1)
    (pastTop src (16 * slice 175 160 desc) rows w).or (pastTop dst (16 * slice 191 176 desc) rows w)
  else (pastTop src 0 1 (16 * slice 155 128 desc)).or (pastTop dst 0 1 (16 * slice 155 128 desc))

/-- COPY (R322 to R325). -/
def execCopy (k : Ctl) (a : Reg) : State → Host.Outcome State Fault Refusal :=
  bounding (.copy k a) (fun s rid c =>
    let desc := c.uval 8 a
    let src := sext56 (slice 55 0 desc)
    let dst := sext56 (slice 119 64 desc)
    let mc := slice 193 193 desc = 1
    let bent := slice 255 248 desc
    if c.em = 0#32 then .ok (s.finish rid k { c with pc := s.nextPc rid c } [])
    else if !c.uni 8 a then .error c.diverges
    else if slice 196 194 desc ≠ 0 ∨ slice 127 120 desc ≠ 0 ∨ slice 63 56 desc ≠ 0 ∨ (¬mc ∧ bent ≠ 0) ∨ src % 16 ≠ 0 ∨ dst % 16 ≠ 0 then
      .error c.badDesc
    else
      match copyShape desc with
      | none => .error c.badDesc
      | some (_, bytes) =>
        if isPeer src && isPeer dst then .error c.badDesc
        else if let some va := copyPast desc then .error (c.trapAt 0x032 0 va c.low)
        else if mc ∧ isPeer dst = true then .error (c.trapAt 0x021 0 dst c.low)
        else if mc ∧ s.member c.kernel bent c.idx = false then .error (c.crewTrap 0x015 (s.openWord 0).toNat)
        else
          match s.barOf rid c desc with
          | .error e => .error e
          | .ok bar => s.issueCmd rid k c .copy desc bar none bytes)

/-- Every 4 KiB page of a range is mapped on the issuing bay by the crew's kernel (R276, R326). -/
def State.stashMapped (s : State) (rid : Nat) (c : Crew) (va n : Nat) : Bool :=
  (piecesOf (n / 4096 + 2) va n).all (fun p =>
    match s.stashOf (ridBay rid) (c.ctx s) p.1 with
    | some m => (match m.owner with | some (k, _) => decide (k = c.kernel) | none => false)
    | none => false)

/-- The checks of a GATHER or SCATTER descriptor (R326): its bytes. -/
def State.listCheck (s : State) (rid : Nat) (c : Crew) (desc : Nat) : Except Stop Nat :=
  let base := sext56 (slice 55 0 desc)
  let stash := sext56 (slice 119 64 desc)
  let list := sext56 (slice 183 128 desc)
  let bytes := (slice 127 120 desc + 1) * (16 * (slice 63 56 desc + 1))
  if slice 255 248 desc ≠ 0 ∨ slice 196 184 desc ≠ 0 ∨ list % 4 ≠ 0 ∨ stash % 16 ≠ 0 ∨ base % 16 ≠ 0 then .error c.badDesc
  else if let some va := (pastTop list 0 1 (4 * (slice 127 120 desc + 1))).or (pastTop stash 0 1 bytes) then .error (c.trapAt 0x032 0 va c.low)
  else if isPeer list then .error (c.trapAt 0x021 0 list c.low)
  else if isPeer stash then .error (c.trapAt 0x021 0 stash c.low)
  else if isPeer base then .error (c.trapAt 0x021 0 base c.low)
  else if !s.stashMapped rid c stash bytes then .error c.badDesc
  else .ok bytes

/-- GATHER (R326). -/
def execGather (k : Ctl) (a : Reg) : State → Host.Outcome State Fault Refusal :=
  bounding (.gather k a) (fun s rid c =>
    let desc := c.uval 8 a
    if c.em = 0#32 then .ok (s.finish rid k { c with pc := s.nextPc rid c } [])
    else if !c.uni 8 a then .error c.diverges
    else
      match s.listCheck rid c desc with
      | .error e => .error e
      | .ok bytes =>
        match s.barOf rid c desc with
        | .error e => .error e
        | .ok bar => s.issueCmd rid k c .gather desc bar none bytes)

/-- SCATTER (R326). -/
def execScatter (k : Ctl) (a : Reg) : State → Host.Outcome State Fault Refusal :=
  bounding (.scatter k a) (fun s rid c =>
    let desc := c.uval 8 a
    if c.em = 0#32 then .ok (s.finish rid k { c with pc := s.nextPc rid c } [])
    else if !c.uni 8 a then .error c.diverges
    else
      match s.listCheck rid c desc with
      | .error e => .error e
      | .ok bytes =>
        match s.barOf rid c desc with
        | .error e => .error e
        | .ok bar => s.issueCmd rid k c .scatter desc bar none bytes)

/-- The ready object of an ENCODE (R328), checked as a WAIT checks it. -/
def State.readyOf (s : State) (rid : Nat) (c : Crew) (desc : Nat) : Except Stop (Option Nat) :=
  let f := slice 119 69 desc
  if f = 0 then .ok none
  else
    match s.objCheck rid c (sext56 (f * 32)) .read with
    | .error e => .error e
    | .ok h => .ok (some h.pa)

/-- ENCODE (R328). -/
def execEncode (k : Ctl) (a : Reg) : State → Host.Outcome State Fault Refusal :=
  bounding (.encode k a) (fun s rid c =>
    let desc := c.uval 8 a
    let blk := sext56 (slice 55 0 desc)
    if c.em = 0#32 then .ok (s.finish rid k { c with pc := s.nextPc rid c } [])
    else if !c.uni 8 a then .error c.diverges
    else if slice 255 248 desc ≠ 0 ∨ slice 196 192 desc ≠ 0 ∨ slice 127 120 desc ≠ 0 ∨ slice 68 56 desc ≠ 0 ∨ slice 247 197 desc = 0 ∨
        blk % 256 ≠ 0 then .error c.badDesc
    else if isPeer blk then .error (c.trapAt 0x021 0 blk c.low)
    else
      match s.barOf rid c desc with
      | .error e => .error e
      | .ok done =>
        match s.readyOf rid c desc with
        | .error e => .error e
        | .ok ready => s.issueCmd rid k c .encode desc done ready 0)

/-- Close the open stamp window of a crew on a bay (R399). -/
def State.closeWindow (s : State) (k idx bay : Nat) (early : Bool) : State :=
  s.onWindow k idx (fun w => { w with closed := true, early := early, bay := bay })

/-- BATCH (R327, R399). -/
def execBatch (k : Ctl) (d : Reg) : State → Host.Outcome State Fault Refusal :=
  bounding (.batch k d) (fun s rid c =>
    let n := ((s.kern c.kernel).keepOf c.idx).ecount + 1
    let s := s.setKern c.kernel (fun y => y.setKeep c.idx (fun e => { e with ecount := n, eopen := false }))
    let s := s.closeWindow c.kernel c.idx (ridBay rid) false
    .ok (((s.finish rid k { c with pc := s.nextPc rid c } (cellsIn c.active 1 d (fun _ => n))).post (.kernelCrew c.kernel c.idx)
      .engineBatchRaise).post (.kernelCrew c.kernel c.idx) .stampRecordWrite))

end Sys2Proof.Machine
end

