-- ==== Sys2Proof/Machine/Fetch.lean ====
section
/-! DEFINITION. Fetching a crew's next instruction: the checks before its issue and its decoding (R52, R53, R66, R123, R154, R248,
R392). -/

namespace Sys2Proof.Machine

/-- A comparator record matches a crew's present instruction (R392). -/
def State.cmpMatches (s : State) (c : Crew) (r : Nat) : Bool :=
  decide (Cmp.en.get r = 1) && decide (Cmp.ctx.get r = c.ctx s) &&
    (decide (Cmp.anyq.get r = 1) || decide (Cmp.queue.get r = (s.kern c.kernel).queue)) &&
    (decide (Cmp.bentf.get r = 0) || c.bents.contains (Cmp.bent.get r)) &&
    decide (Cmp.slot.get r = c.slot) && decide (Cmp.pc.get r = c.pc)

/-- The comparator record that an instruction issued in this clk is checked against: the one before a change made in this clk (R396). -/
def State.cmpRecord (s : State) (n : Nat) : Nat :=
  match s.cmpOld.find? (fun o => decide (o.1 = n) && decide (o.2.2 = s.clock)) with
  | some o => o.2.1
  | none => s.rcd .comparator n

/-- A comparator changes (R396): what it was stands until the next clk. -/
def State.setCmp (s : State) (n v : Nat) : State :=
  let old : Nat × Nat × Nat := (n, s.cmpRecord n, s.clock)
  { s.setRcd .comparator n v with cmpOld := s.cmpOld.filter (fun o => decide (o.1 ≠ n)) ++ [old] }

/-- The lowest comparator of a bay that matches (R392). -/
def State.cmpHit (s : State) (b : Nat) (c : Crew) : Option Nat :=
  (List.range 8).find? (fun n => s.cmpMatches c (s.cmpRecord (8 * b + n)))

/-- What a fetch finds. -/
inductive Fetched where
  | trap (t : Trap)
  | run (i : Instr)
  deriving DecidableEq, Repr

/-- A trap of the whole crew at its present instruction. -/
def Crew.fetchTrap (c : Crew) (kind aux : Nat) : Fetched := .trap ⟨kind, aux, 0, c.low, 0, c.pc, c.slot⟩

/-- The instruction at a crew's PC in the code of its slot (R66, steps 1 to 8). -/
def Crew.fetchIn (c : Crew) (ws : List Word) (lines : Nat) : Fetched :=
  if 128 * lines ≤ c.pc ∨ c.pc % 4 ≠ 0 then c.fetchTrap 0x010 0
  else if lineOk ws (c.pc / 128) = false ∨ startAt ws (c.pc / 4) = false then c.fetchTrap 0x010 0
  else
    match decode (fetchBits ws (c.pc / 4)) with
    | .ok i => .run i
    | .error _ => c.fetchTrap 0x011 0

/-- The fetch of a crew's next instruction: a divergence fault that waits (R248), the comparators (R392), the illegal-convergence trap
of an empty em with an empty stack (R154), a slot that is not full (R123), and then R66. -/
def State.fetch (s : State) (rid : Nat) (c : Crew) : Fetched :=
  match c.diverged with
  | some log => .trap ⟨0x022, 0, log, c.low, 0, c.pc, c.slot⟩
  | none =>
    match (if c.skip then none else s.cmpHit (ridBay rid) c) with
    | some n => c.fetchTrap 0x070 n
    | none =>
      if c.em = 0#32 ∧ c.stack = [] ∧ c.exited ≠ 0xFFFF_FFFF#32 then c.fetchTrap 0x016 0
      else
        match s.codeOf rid c with
        | none => c.fetchTrap 0x017 c.slot
        | some (ws, lines) => c.fetchIn ws lines

/-! ### A word placed at the fetch (log 15) -/

/-- One fetch line with an instruction at granule 2, start- and target-marked. -/
def probeLine (bits : BitVec 128) : List Word :=
  [1#32, 0x4000_0001#32] ++ granulesOf 4 bits ++ List.replicate 26 0#32

/-- The state with one kernel of one crew on bay 0, side 0, slot 0, whose next instruction is the word given, and that crew's issue as
what comes next. -/
def State.placeWord (s : State) (bits : BitVec 128) : State :=
  let k : Kernel := { Kernel.init with state := .running, launch := Lch.slots.set 0 1, nextCrew := 1 }
  let s := { s with kernels := s.kernels.set 0 k, crews := s.crews.set 0 { Crew.start 0 0 8 256 0 0#32 with life := .active } }
  let s := s.setBay 0 (fun b => { b with kerns := b.kerns.set 0 { BayKernel.init 0 with slots := [(0, .full 0 1 (probeLine bits))] } })
  let s := s.setSide 0 0 (fun d => { d with active := some 0 :: List.replicate 7 none })
  { s with agenda := .issue 0 :: s.agenda }

end Sys2Proof.Machine
end

