-- ==== Sys2Proof/Machine/ExecDebug.lean ====
section
/-! DEFINITION. The meanings of the debug instructions (R391, R396 to R400). -/

namespace Sys2Proof.Machine

/-- The number of a comparator in the table, of a crew's bay (R391). -/
def cmpAt (rid n : Nat) : Nat := 8 * ridBay rid + n

/-- An enabled comparator belongs to another context, and the caller is not of context 0 (R397): the fault. -/
def State.cmpOwned (s : State) (rid : Nat) (c : Crew) (n : Nat) : Option Stop :=
  let r := s.rcd .comparator (cmpAt rid n)
  if Cmp.en.get r = 1 ∧ Cmp.ctx.get r ≠ c.ctx s ∧ c.ctx s ≠ 0 then some (c.crewTrap 0x071 n) else none

/-- A context owns an open or held queue (R397). -/
def State.ownsQueue (s : State) (ctx q : Nat) : Bool :=
  decide (s.fld .queue q Que.state ≠ 0) && decide (s.qcfg q Que.ctx = ctx)

/-- BPSET (R391, R397). A set reserved bit of n is an operand fault on the immediate. -/
def execBpset (k : Ctl) (a b : Reg) (n : BitVec 14) : State → Host.Outcome State Fault Refusal :=
  bounding (.bpset k a b n) (fun s rid c =>
    let next := { c with pc := s.nextPc rid c }
    let m := n.toNat
    let x := c.uval 2 a
    let bent := c.uval 1 b
    let q := slice 43 32 x
    let anyq := m.testBit 3
    if c.em = 0#32 then .ok (s.finish rid k next [])
    else
      match s.cmpOwned rid c (m % 8) with
      | some e => .error e
      | none =>
        if !c.uni 2 a || !c.uni 1 b then .error c.diverges
        else if 32 ≤ m then .error (c.operandFault 4)
        else if slice 31 16 x ≠ 0 ∨ slice 63 44 x ≠ 0 ∨ (anyq = false ∧ s.ownsQueue (c.ctx s) q = false ∧ c.ctx s ≠ 0) then
          .error (c.operandFault 1)
        else if anyq = false ∧ c.ctx s = 0 then .error (c.operandFault 1)
        else if 256 ≤ bent then .error (c.operandFault 2)
        else
          let r := setAll [(Cmp.ctx, c.ctx s), (Cmp.queue, q), (Cmp.bent, bent), (Cmp.slot, slice 15 12 x), (Cmp.pc, slice 11 0 x),
            (Cmp.bentf, m / 16 % 2), (Cmp.anyq, anyq.toNat), (Cmp.en, 1)]
          .ok ((s.setCmp (cmpAt rid (m % 8)) r).finish rid k next []))

/-- BPCLR (R396, R397). -/
def execBpclr (k : Ctl) (n : BitVec 14) : State → Host.Outcome State Fault Refusal :=
  bounding (.bpclr k n) (fun s rid c =>
    let next := { c with pc := s.nextPc rid c }
    let m := n.toNat
    if c.em = 0#32 then .ok (s.finish rid k next [])
    else
      match s.cmpOwned rid c (m % 8) with
      | some e => .error e
      | none =>
        if 8 ≤ m then .error (c.operandFault 4)
        else .ok ((s.setCmp (cmpAt rid m) (Cmp.en.set (s.rcd .comparator (cmpAt rid m)) 0)).finish rid k next []))

/-- A window that opens (R399). -/
def Window.open (label seq clk bay : Nat) : Window :=
  { label := label, seq := seq, opened := clk, cin := none, cinland := none, opwait := 0, waitFrom := none, mstart := none,
    mend := none, cout := none, coutAny := false, nmma := 0, stop := false, early := false, bay := bay, closed := false }

/-- STAMP (R399): it closes the open window as early, and opens one. -/
def execStamp (k : Ctl) (d a : Reg) : State → Host.Outcome State Fault Refusal :=
  bounding (.stamp k d a) (fun s rid c =>
    if !c.uni 2 a then .error c.diverges
    else
      let n := ((s.kern c.kernel).keepOf c.idx).stamps + 1
      let s := s.closeWindow c.kernel c.idx (ridBay rid) true
      let w := Window.open (c.uval 2 a) (n % 2 ^ 32) s.clock (ridBay rid)
      let s := s.setKern c.kernel (fun y => y.setKeep c.idx (fun e => { e with stamps := n, windows := e.windows ++ [w] }))
      .ok ((s.finish rid k { c with pc := s.nextPc rid c } (cellsIn c.active 1 d (fun _ => n))).post (.kernelCrew c.kernel c.idx)
        .stampRecordWrite))

/-- TRACE (R400): the record is written at the commit. -/
def execTrace (k : Ctl) (a b : Reg) : State → Host.Outcome State Fault Refusal :=
  ordinary (.trace k a b) (fun s rid c =>
    let next := { c with pc := s.nextPc rid c }
    if c.em = 0#32 then .ok { crew := next }
    else .ok { crew := next, effs := [.trace (c.uval 1 a) (c.uval 1 b) (c.slot * 2 ^ 12 + c.pc) c.em c.tag] })

/-! ### Window records -/

/-- A clk count of a stamp record: it saturates. -/
def sat32 (n : Nat) : Nat := min n (2 ^ 32 - 1)

/-- The record of a retired window (R399). -/
def State.windowBits (s : State) (k idx : Nat) (w : Window) : Nat :=
  let since (t : Option Nat) : Nat := match t with | some t => t - w.opened | none => 0
  let times := [since w.cin, since w.cinland, w.opwait, since w.mstart, since w.mend, since w.cout, s.clock - w.opened]
  let sat := times.any (fun t => decide (2 ^ 32 ≤ t))
  let flags := w.cin.isNone.toNat + 2 * w.mstart.isNone.toNat + 4 * (!w.coutAny).toNat + 8 * sat.toNat + 16 * w.stop.toNat +
    32 * w.early.toNat
  s.recordHead 1 w.bay idx k + setAll [(⟨496, 6⟩, flags), (⟨448, 32⟩, w.seq), (⟨416, 32⟩, w.nmma), (⟨384, 32⟩, sat32 (s.clock - w.opened)),
    (⟨352, 32⟩, sat32 (since w.cout)), (⟨320, 32⟩, sat32 (since w.mend)), (⟨288, 32⟩, sat32 (since w.mstart)), (⟨256, 32⟩, sat32 w.opwait),
    (⟨224, 32⟩, sat32 (since w.cinland)), (⟨192, 32⟩, sat32 (since w.cin)), (⟨128, 64⟩, w.opened), (⟨0, 64⟩, w.label)]

/-- A window has retired: closed, every engine command issued in it complete, every reduction of its MMAs applied, those of a
stopped MMA that are still to be computed among them. -/
def State.retired (s : State) (k idx : Nat) (w : Window) : Bool :=
  w.closed && s.cmds.all (fun m => !(decide (m.k = k) && decide (m.crew = idx) && decide (m.window.map Prod.fst = some w.seq))) &&
    s.reds.all (fun r => !(decide (r.k = k) && decide (r.crew = idx) && decide (r.window = some w.seq))) &&
    (s.restOf k idx).all (fun r => decide (r.window ≠ some w.seq))

/-- Change a window of a crew by its number. -/
def State.mapWindow (s : State) (k idx seq : Nat) (f : Window → Window) : State :=
  s.setKern k (fun y => y.setKeep idx (fun e => { e with windows := e.windows.map (fun w => if w.seq = seq then f w else w) }))

/-- Write the records of a crew's retired windows (R399). -/
def State.writeStamps (s : State) (k idx : Nat) : State :=
  let done := ((s.kern k).keepOf idx).windows.filter (s.retired k idx)
  if done.isEmpty then s
  else
    (done.foldl (fun t w => t.stampLog (s.kern k).ctx (s.windowBits k idx w)) s).setKern k
      (fun y => y.setKeep idx (fun e => { e with windows := e.windows.filter (fun w => !done.contains w) }))

/-- STAMP_RECORD_WRITE (R399). -/
def execStampRecordWrite (s : State) : Host.Outcome State Fault Refusal :=
  match s.place with
  | .kernelCrew k idx => .next (s.writeStamps k idx)
  | _ => .next s

end Sys2Proof.Machine
end

