-- ==== Sys2Proof/Machine/Page.lean ====
section
/-! DEFINITION. The operations of the page engine and the fault queues: joining and releasing entries, waits for copies, counts, stash
frames, pins and the leaves of a range (R257, R258, R262 to R270). -/

namespace Sys2Proof.Machine

/-! ### Packets of remote crews (R370, R373, R374) -/

/-- An acknowledgement goes to the sender of a packet. -/
def State.reply (s : State) (p : Pkt) (st : PeerStatus) : State := { s with replies := s.replies ++ [(p.src, p.id, st)] }

/-- A packet's crew, in its sender's epoch, is the one of a record. -/
def PeerSeen.of (x : PeerSeen) (p : Pkt) : Bool :=
  decide (x.src = p.src) && decide (x.epoch = p.epoch) && decide (x.kernel = p.kernel) && decide (x.crew = p.crew)

/-- A packet comes in its crew's issue order and for the first time (R374): none of the crew with its number or a higher one has been
answered. -/
def State.peerNext (s : State) (p : Pkt) : Bool := !s.peersSeen.any (fun (x : PeerSeen) => x.of p && decide (p.id ≤ x.id))

/-- A packet has had its answer. -/
def State.peerDone (s : State) (p : Pkt) (st : PeerStatus) : State :=
  let seen : PeerSeen := ⟨p.src, p.epoch, p.kernel, p.crew, p.id⟩
  State.reply { s with peersSeen := s.peersSeen.filter (fun x => !x.of p) ++ [seen] } p st

/-! ### Barriers that the device arrives on (R104, R258, R367) -/

/-- Arrive with count 1 on the phase object that a context's field names; nothing where it is zero, does not translate, lies in a
memory-side or KV page, or is no phase object. -/
def State.deviceArrive (s : State) (ctx f : Nat) : State :=
  let va := sext56 (f * 32)
  if f = 0 ∨ isPeer va = true then s
  else
    match s.xlatWalk ctx va .read with
    | .ok h =>
      if Pte.m h.leaf || Pte.kv h.leaf || decide (Bar.mode.get (s.num h.pa 32) ≠ 1) then s
      else match s.barWrite ctx va h.pa (.arrive 1) with | .ok s => s | .error _ => s
    | .fault _ _ => s
    | .bad c => s.ctxFault ctx c

/-! ### Fault queues (R257, R258) -/

/-- Change an engine command, or a paused peer access. -/
def State.mapCmd (s : State) (id : Nat) (f : Cmd → Cmd) : State := { s with cmds := s.cmds.map (fun c => if c.id = id then f c else c) }
def State.mapPeerIn (s : State) (n : Nat) (f : PeerIn → PeerIn) : State :=
  { s with peersIn := s.peersIn.map (fun p => if p.n = n then f p else p) }

/-- A fault that has become an exhausted pool (R268, R270). -/
def QFault.exhausted (q : QFault) : QFault := { q with kind := 0x034, copy := 0 }

/-- va[55:16] of an address. -/
def pageKey (va : Nat) : Nat := slice 55 16 va

/-- A crew, command or access waits in an entry. -/
def State.waitIn (s : State) (who : Waiter) (w : Wait) : State :=
  match who with
  | .crew rid => s.setCrew rid (fun c => { c with wait := w, ready := none })
  | .cmd id => s.mapCmd id (fun c => { c with stage := .faulted })
  | .peer _ => s
  | .reds => s
  | .bars _ _ => s

/-- The fault-log record of a new entry. -/
def FqWait.record (w : FqWait) : FaultRec :=
  ⟨w.kind, false, false, bayCode w.bay, w.kernel, w.crew, w.pc, w.addr, 0⟩

/-- Put a fault into its die's queue: it joins the entry of its page or takes a free one; none where the queue is full (R258). -/
def State.fqPut (s : State) (w : FqWait) : Option State :=
  let writes : List Waiter := if w.write then [w.who] else []
  let mine (e : FqEntry) : Bool := decide (e.die = w.die) && decide (e.ctx = w.ctx) && decide (e.page = pageKey w.addr)
  match s.fq.find? mine with
  | some e =>
    let s := { s with fq := s.fq.map (fun x =>
      if mine x then { x with waiters := x.waiters ++ [w.who], writers := x.writers ++ writes } else x) }
    some (s.waitIn w.who (.queue e.die e.idx))
  | none =>
    match (List.range Config.fqEntries).find? (fun i => !s.fq.any (fun e => decide (e.die = w.die) && decide (e.idx = i))) with
    | none => none
    | some i =>
      let e : FqEntry := ⟨w.die, i, w.ctx, pageKey w.addr, false, w.kind, w.addr, w.kernel, w.crew, w.bay, w.pc, [w.who], writes,
        s.time⟩
      let s := ({ s with fq := s.fq ++ [e] }.waitIn w.who (.queue w.die i)).faultLog w.ctx w.record
      some (s.deviceArrive w.ctx (s.cfg w.ctx Ctx.fbar))

/-- A fault that finds no free entry waits for one, in order of arrival (R258). -/
def State.fqJoin (s : State) (w : FqWait) : State :=
  match s.fqPut w with
  | some s => s
  | none => { s.waitIn w.who .queueFull with fqWait := s.fqWait ++ [w] }

/-- The faults waiting for an entry of a die are served in order while one is free; fuel is their number. -/
def State.fqServe (die : Nat) : Nat → State → State
  | 0, s => s
  | f + 1, s =>
    match s.fqWait.find? (fun w => decide (w.die = die)) with
    | none => s
    | some w =>
      match s.fqPut w with
      | some t => State.fqServe die f { t with fqWait := t.fqWait.filter (fun x => decide (x ≠ w)) }
      | none => s

/-- A waiter is released: a crew issues its instruction again, a command goes on, a peer access is performed (R257, R372). -/
def State.reissue (s : State) (who : Waiter) : State :=
  match who with
  | .crew rid => s.setCrew rid (fun c => { c with wait := .none, fault := none })
  | .cmd id =>
    s.mapCmd id (fun c => { c with stage := (if c.stage = .faulted then .running else c.stage), fault := none })
  | .peer n =>
    match s.peersIn.find? (fun p => decide (p.n = n)) with
    | some p => { s with peersIn := s.peersIn.filter (fun q => decide (q.n ≠ n)) }.post (.packet p.pkt) .peerAccessPerform
    | none => s
  | .reds => s
  | .bars ctx page =>
    match s.heldBars.find? (fun h => decide (h.ctx = ctx) && decide (pageKey h.va = page)) with
    | some h => s.postFirst (.page ctx (BitVec.ofNat 64 h.va)) .checkpointCowCopy
    | none => s

/-- Take a waiter out of the queues (R257: a stop or kill abandons the wait). -/
def State.fqAbandon (s : State) (who : Waiter) : State :=
  { s with fq := s.fq.map (fun e => { e with waiters := e.waiters.filter (fun w => decide (w ≠ who)), writers := e.writers.filter (fun w => decide (w ≠ who)) })
           fqWait := s.fqWait.filter (fun w => decide (w.who ≠ who)) }

/-- The faults that wait for the copy of a page of a context lying in a range. -/
def State.copyWaiters (s : State) (ctx lo n : Nat) : List Waiter :=
  let hit (q : Option QFault) : Bool :=
    match q with | some q => decide (q.copy ≠ 0) && decide (lo ≤ q.va) && decide (q.va < lo + n) | none => false
  (s.crews.filter (fun p => decide (p.2.wait = .copy) && decide (p.2.ctx s = ctx) && hit p.2.fault)).map (fun p => .crew p.1) ++
    (s.cmds.filter (fun c => decide (c.stage = .faulted) && decide (c.ctx = ctx) && hit c.fault)).map (fun c => .cmd c.id) ++
    (s.peersIn.filter (fun p => decide (p.pkt.ctx = ctx) && hit p.fault)).map (fun p => .peer p.n)

/-- The step that makes the copy a write waits for (R268, R270). -/
def State.postCopy (s : State) (ctx va copy : Nat) : State :=
  s.post (.page ctx (BitVec.ofNat 64 va)) (if copy = 1 then .kvCopyOnWrite else .checkpointCowCopy)

/-- A translation fault has its strokes behind it: it joins the fault queue, or waits for its copy (R257, R268, R270). -/
def State.meetFault (s : State) (who : Waiter) (die ctx kernel crew bay pc : Nat) (q : QFault) : State :=
  if q.copy = 0 then s.fqJoin ⟨die, ctx, q.kind, q.va, kernel, crew, bay, pc, q.write, who⟩
  else (s.waitIn who .copy).postCopy ctx q.va q.copy

/-- The copy of a page cannot be made: the writes that wait for it join an entry of kind 0x034 (R268, R270). -/
def State.joinExhausted (s : State) (who : Waiter) : State :=
  match who with
  | .crew rid =>
    match s.crews.get? rid with
    | some c =>
      match c.fault with
      | some q =>
        (s.setCrew rid (fun c => { c with fault := some q.exhausted })).fqJoin
          ⟨dieOf (ridBay rid), c.ctx s, 0x034, q.va, s.handle c.kernel, c.idx, ridBay rid, c.pc, true, who⟩
      | none => s
    | none => s
  | .cmd id =>
    match s.cmds.find? (fun c => decide (c.id = id)) with
    | some c =>
      match c.fault with
      | some q =>
        (s.mapCmd id (fun c => { c with fault := some q.exhausted })).fqJoin
          ⟨dieOf c.bay, c.ctx, 0x034, q.va, s.handle c.k, c.crew, c.bay, c.pc, true, who⟩
      | none => s
    | none => s
  | .peer n =>
    match s.peersIn.find? (fun p => decide (p.n = n)) with
    | some p =>
      match p.fault with
      | some q =>
        (s.mapPeerIn n (fun p => { p with fault := some q.exhausted })).fqJoin
          ⟨0, p.pkt.ctx, 0x034, q.va, p.pkt.kernel, p.pkt.crew, 0, 0, true, who⟩
      | none => s
    | none => s
  | .reds => s
  | .bars _ _ => s

/-! ### Counts (R265, R268) -/

/-- A stroke holds a buffered write to a 64 KiB page. -/
def Stroke.writesPage (st : Stroke) (page : Nat) : Bool :=
  st.effs.any (fun e =>
    match e with
    | .store _ pa _ _ => decide (pa / 2 ^ 16 = page)
    | .red _ pa _ _ _ _ => decide (pa / 2 ^ 16 = page)
    | .sumred _ pa _ => decide (pa / 2 ^ 16 = page)
    | .bar _ pa _ _ => decide (pa / 2 ^ 16 = page)
    | .trace .. => false
    | .mfence .. => false)

/-- Squash every uncommitted stroke of a context that holds a buffered write to a page that a test selects (R268, R269). -/
def State.squashWriters (s : State) (ctx : Nat) (pages : Nat → Bool) : State :=
  let touches (st : Stroke) : Bool := st.effs.any (fun e =>
    match e with
    | .store _ pa _ _ => pages (pa / 2 ^ 16)
    | .red _ pa _ _ _ _ => pages (pa / 2 ^ 16)
    | .sumred _ pa _ => pages (pa / 2 ^ 16)
    | .bar _ pa _ _ => pages (pa / 2 ^ 16)
    | .trace .. => false
    | .mfence .. => false)
  s.crews.foldl (fun s p =>
    if p.2.ctx s ≠ ctx then s
    else match p.2.strokes.findIdx? touches with | some i => s.squash p.1 i | none => s) s

/-- An increment of the count of a page of a context (R265, R268). -/
def State.countInc (s : State) (ctx pa : Nat) : State :=
  (s.setRcd .count (pa / 2 ^ 16) (min (s.count pa + 1) 65535)).squashWriters ctx (fun g => decide (g = pa / 2 ^ 16))

/-- A KV page may go to the free ring: no write translated to it is still to land (R345). -/
def State.pageQuiet (s : State) (page : Nat) : Bool :=
  s.crews.all (fun p => !p.2.strokes.any (fun st => st.writesPage (page / 2 ^ 16))) && !s.reds.any (fun r => decide (r.pa / 2 ^ 16 = page / 2 ^ 16))

/-! ### Stash frames (R262 to R264) -/

/-- Change the stash table of a bay. -/
def State.setStash (s : State) (b : Nat) (f : List StashMap → List StashMap) : State := s.setBay b (fun y => { y with stash := f y.stash })

/-- The mapping of a kernel's stash page. -/
def State.ownedMap (s : State) (b k n : Nat) : Option StashMap :=
  (s.bay b).stash.find? (fun m => decide (m.owner = some (k, n)))

/-- Lines that multicast has installed on a bay go with the page that holds them. -/
def State.trimCast (s : State) (b : Nat) : State :=
  s.setBay b (fun y => { y with cast := y.cast.filter (fun l => y.stash.any (fun m => decide (m.pa / 4096 = l / 32))) })

/-- Release the mappings that a test selects: a pinned one stays resident without a kernel (R264), one with reductions in flight until
these are applied (R263), any other goes. -/
def State.unbind (s : State) (b : Nat) (sel : StashMap → Bool) : State :=
  (s.setStash b (fun l => l.filterMap (fun m =>
    if sel m then (if (s.pinOf m.ctx b m.va).isSome || s.frameBusy m.pa then some { m with owner := none } else none) else some m))).trimCast b

/-- Stash pages of a bay in use: those set aside for the kernels on it, and pinned pages that no kernel holds. -/
def State.stashUsed (s : State) (b : Nat) : Nat :=
  ((((s.bay b).kerns.filter (fun p => p.2.here)).map (fun p => s.lch p.1 Lch.spages)).sum) + ((s.bay b).stash.filter (fun m => m.owner.isNone)).length

/-! ### The leaves of a range (R269, R272, R278) -/

/-- A present leaf of a range: its virtual base, the entry, where it lies, whether it maps 2 MiB. -/
structure Leaf where
  va : Nat
  e : Nat
  ea : Nat
  big : Bool
  deriving DecidableEq, Repr

/-- Concatenate the results of a list of walks. -/
def joinAll {α β : Type} (f : α → Except Nat (List β)) : List α → Except Nat (List β)
  | [] => .ok []
  | x :: xs =>
    match f x with
    | .error c => .error c
    | .ok l => match joinAll f xs with | .error c => .error c | .ok r => .ok (l ++ r)

/-- Bytes that an entry of a level spans, and entries of its table (R251). -/
def levelSpan (level : Nat) : Nat × Nat :=
  match level with
  | 0 => (2 ^ 44, 2048)
  | 1 => (2 ^ 32, 4096)
  | 2 => (2 ^ 21, 2048)
  | _ => (2 ^ 16, 32)

/-- The present leaves of a context that meet lo to hi − 1, below a table at t that maps from base; or a malformed entry's cause. -/
def State.leavesFrom (s : State) (ctx lo hi : Nat) : List Nat → Nat → Nat → Except Nat (List Leaf)
  | [], _, _ => .ok []
  | level :: rest, t, base =>
    let (span, n) := levelSpan level
    let first := (lo - base) / span
    let count := min n ((hi - base + span - 1) / span) - first
    joinAll (fun j =>
      let i := first + j
      let ea := t + 8 * i
      let va := base + span * i
      if s.poisoned.contains (lineOf ea) then .error 4
      else
        let e := s.num ea 8
        if !Pte.v e then .ok []
        else if pteReserved ctx level e then .error 3
        else if Pte.l e then .ok [⟨va, e, ea, decide (level = 2)⟩]
        else s.leavesFrom ctx lo hi rest (slice 38 8 e * 2 ^ 8) va) (List.range count)

/-- The present leaves of a context that meet a range. -/
def State.leaves (s : State) (ctx lo hi : Nat) : Except Nat (List Leaf) :=
  if hi ≤ lo then .ok [] else s.leavesFrom ctx lo hi [0, 1, 2, 3] (s.cfg ctx Ctx.ptroot / 4 * 4 * 2 ^ 12) 0

/-- A leaf lies only partly within a range. -/
def Leaf.cut (x : Leaf) (lo hi : Nat) : Bool := x.big && (decide (x.va < lo) || decide (hi < x.va + 2 ^ 21))

/-- Bytes that a leaf maps. -/
def Leaf.bytes (x : Leaf) : Nat := if x.big then 2 ^ 21 else 2 ^ 16

/-- Step 4 of R269 on the leaves of a range: C is set and the TLB entries go. -/
def State.markLeaves (s : State) (ctx : Nat) (l : List Leaf) : State :=
  l.foldl (fun s x => (s.writeNum x.ea 8 (x.e ||| 64)).tlbDrop ctx x.va) s

/-- R272 on the leaves of a range: C is cleared, and the pages of every leaf are invalidated. -/
def State.clearLeaves (s : State) (ctx : Nat) (l : List Leaf) : State :=
  l.foldl (fun s x => (if Pte.c x.e then s.writeNum x.ea 8 (x.e - 64) else s).tlbDrop ctx x.va) s

/-- The physical 64 KiB pages of some leaves hold a page number. -/
def leavesHold (l : List Leaf) (page : Nat) : Bool :=
  l.any (fun x => let p := leafPa x.e x.big x.va / 2 ^ 16; decide (p ≤ page) && decide (page < p + x.bytes / 2 ^ 16))

/-- A command at work has its barrier, translated at its release, in some leaves, and is still to land there (R269 step 1). -/
def State.landingIn (s : State) (ctx : Nat) (l : List Leaf) : Bool :=
  s.cmds.any (fun m => decide (m.ctx = ctx) && decide (m.stage = .running) && !m.aborted && m.bar.any (fun pa => leavesHold l (pa / 2 ^ 16)))

/-- The cut of R269 over the ranges' leaves: uncommitted strokes with writes there are squashed, a sequence number is drawn and C is
set. -/
def State.cutLeaves (s : State) (ctx : Nat) (l : List Leaf) : State :=
  let s := s.squashWriters ctx (leavesHold l)
  { s with order := s.order + 1 }.markLeaves ctx l

end Sys2Proof.Machine
end

