-- ==== Sys2Proof/Machine/ExecPage.lean ====
section
/-! DEFINITION. The meanings of the page instructions (R269, R272 to R279). -/

namespace Sys2Proof.Machine

/-- The checks of an address operand (R273): canonical, local, aligned; a misaligned one is an operand fault. -/
def Crew.pageAddr (c : Crew) (va al : Nat) : Option Stop :=
  if !canonical va then some (c.trapAt 0x032 0 va c.low)
  else if isPeer va then some (c.trapAt 0x021 0 va c.low)
  else if va % al ≠ 0 then some (c.operandFault 1)
  else none

/-- A page instruction is done: d holds its status in every active lane, and the crew goes on (R273). -/
def State.answer (s : State) (rid : Nat) (k : Ctl) (c : Crew) (d : Reg) (st : Nat) : State :=
  s.finish rid k { c with pc := s.nextPc rid c } (cellsIn c.active 1 d (fun _ => st))

/-- The addresses of n consecutive 4 KiB pages. -/
def pagesFrom (va n : Nat) : List Nat := (List.range n).map (fun i => va + 4096 * i)

/-- The checks of a page range of R277 and R279: its pages. -/
def Crew.pageRange (c : Crew) (va n : Nat) : Except Stop (List Nat) :=
  match c.pageAddr va 4096 with
  | some e => .error e
  | none =>
    if n = 0 ∨ 256 < n then .error (c.operandFault 2)
    else if 2 ^ 55 < va + 4096 * n then .error (c.trapAt 0x032 0 (2 ^ 55) c.low)
    else .ok (pagesFrom va n)

/-! ### Pins (R264, R277) -/

/-- PGPIN (R277). -/
def execPgpin (k : Ctl) (d a b : Reg) : State → Host.Outcome State Fault Refusal :=
  bounding (.pgpin k d a b) (fun s rid c =>
    if c.em = 0#32 then .ok (s.finish rid k { c with pc := s.nextPc rid c } [])
    else if !c.uni 2 a || !c.uni 1 b then .error c.diverges
    else
      match c.pageRange (c.uval 2 a) (c.uval 1 b) with
      | .error e => .error e
      | .ok ps =>
        let ctx := c.ctx s
        let y := ridBay rid
        let maps := ps.map (fun va => (s.stashOf y ctx va).bind (fun m =>
          match m.owner with | some (k', _) => if k' = c.kernel then some m else none | none => none))
        if maps.any Option.isNone then .ok (s.answer rid k c d 0x13)
        else
          let new := (maps.filterMap (fun m => m)).filter (fun m => (s.pinOf ctx y m.va).isNone)
          let n := s.fld .context ctx Ctx.npinned
          if s.cfg ctx Ctx.pinmax < n + new.length then .ok (s.answer rid k c d 0x12)
          else
            let s := { s with pins := s.pins ++ new.map (fun (m : StashMap) => (⟨ctx, y, m.va, m.pa, m.w⟩ : Pin)) }
            .ok ((s.setFld .context ctx Ctx.npinned (n + new.length)).answer rid k c d 0))

/-- PGUNPIN (R263, R277): a page that no kernel maps is written back and its frame freed. -/
def execPgunpin (k : Ctl) (d a b : Reg) : State → Host.Outcome State Fault Refusal :=
  bounding (.pgunpin k d a b) (fun s rid c =>
    if c.em = 0#32 then .ok (s.finish rid k { c with pc := s.nextPc rid c } [])
    else if !c.uni 2 a || !c.uni 1 b then .error c.diverges
    else
      match c.pageRange (c.uval 2 a) (c.uval 1 b) with
      | .error e => .error e
      | .ok ps =>
        let ctx := c.ctx s
        let y := ridBay rid
        let sel (m : StashMap) : Bool := decide (m.ctx = ctx) && ps.contains m.va && m.owner.isNone
        if ps.any (fun va => (s.pinOf ctx y va).isNone) then .ok (s.answer rid k c d 0x13)
        else if (s.bay y).stash.any (fun m => sel m && s.frameBusy m.pa) then .error (.wait .retry)
        else
          let s := { s with pins := s.pins.filter (fun p => !(decide (p.ctx = ctx) && decide (p.bay = y) && ps.contains p.va)) }
          let s := s.setFld .context ctx Ctx.npinned (s.fld .context ctx Ctx.npinned - ps.length)
          .ok ((s.unbind y sel).answer rid k c d 0))

/-! ### Checkpoint marks (R269, R272, R278) -/

/-- The checks of a PGCOW range: the present leaves it holds, or what the instruction meets. -/
def State.cowRange (s : State) (c : Crew) (va n : Nat) : Except Stop (List Leaf) :=
  match c.pageAddr va 65536 with
  | some e => .error e
  | none =>
    if n % 65536 ≠ 0 ∨ 2 ^ 55 < va + n then .error (c.operandFault 2)
    else
      match s.leaves (c.ctx s) va (va + n) with
      | .error cause => .error (.ctx cause)
      | .ok l => if l.any (fun x => x.cut va (va + n)) then .error (c.operandFault 2) else .ok l

/-- PGCOW.mark (R269): the umpires held by held strokes are waited for, and the landings of commands at work. -/
def execPgcowMark (k : Ctl) (d a b : Reg) : State → Host.Outcome State Fault Refusal :=
  bounding (.pgcowMark k d a b) (fun s rid c =>
    if c.em = 0#32 then .ok (s.finish rid k { c with pc := s.nextPc rid c } [])
    else if !c.uni 2 a || !c.uni 2 b then .error c.diverges
    else
      match s.cowRange c (c.uval 2 a) (c.uval 2 b) with
      | .error e => .error e
      | .ok l =>
        if c.uval 2 b = 0 then .ok (s.answer rid k c d 0)
        else if !(s.reserved rid).isEmpty || s.landingIn (c.ctx s) l then .error (.wait .retry)
        else .ok ((s.cutLeaves (c.ctx s) l).answer rid k c d 0))

/-- PGCOW.clear (R272). -/
def execPgcowClear (k : Ctl) (d a b : Reg) : State → Host.Outcome State Fault Refusal :=
  bounding (.pgcowClear k d a b) (fun s rid c =>
    if c.em = 0#32 then .ok (s.finish rid k { c with pc := s.nextPc rid c } [])
    else if !c.uni 2 a || !c.uni 2 b then .error c.diverges
    else
      match s.cowRange c (c.uval 2 a) (c.uval 2 b) with
      | .error e => .error e
      | .ok l => .ok ((s.clearLeaves (c.ctx s) l).answer rid k c d 0))

/-! ### The fault queues (R260, R275) -/

/-- The oldest pending entry of a context, die 0 first on a tie (R275). -/
def State.fqOldest (s : State) (ctx : Nat) : Option FqEntry :=
  leastBy (fun e => 2 * e.time + e.die) (s.fq.filter (fun e => decide (e.ctx = ctx) && !e.claimed))

/-- The waiter is an engine command. -/
def Waiter.isCmd : Waiter → Bool
  | .cmd _ => true | .crew _ => false | .peer _ => false | .reds => false | .bars _ _ => false

/-- An entry as PGQ.next writes it (R260). -/
def FqEntry.bits (e : FqEntry) : Nat :=
  setAll [(⟨192, 64⟩, e.addr), (⟨160, 32⟩, e.kernel), (⟨128, 32⟩, e.crew), (⟨112, 16⟩, bayCode e.bay), (⟨96, 16⟩, sat16 e.waiters.length),
    (⟨81, 1⟩, (e.waiters.any Waiter.isCmd).toNat), (⟨80, 1⟩, (!e.writers.isEmpty).toNat), (⟨76, 1⟩, e.die), (⟨64, 12⟩, e.idx), (⟨0, 12⟩, e.kind)]

/-- PGQ.next (R275). -/
def execPgqNext (k : Ctl) (d a : Reg) : State → Host.Outcome State Fault Refusal :=
  bounding (.pgqNext k d a) (fun s rid c =>
    let va := c.uval 2 a
    if c.em = 0#32 then .ok (s.finish rid k { c with pc := s.nextPc rid c } [])
    else if !c.uni 2 a then .error c.diverges
    else
      match c.pageAddr va 32 with
      | some e => .error e
      | none =>
        match s.checkAccess rid c va 32 .write c.low with
        | .error e => .error e
        | .ok h =>
          match s.fqOldest (c.ctx s) with
          | none => .ok (s.answer rid k c d 0x10)
          | some e =>
            let s := { s with fq := s.fq.map (fun x => if x = e then { x with claimed := true } else x) }
            .ok ((s.writeNum h.pa 32 e.bits).answer rid k c d 0))

/-- The entry that an id names, where the context has claimed it (R275). -/
def State.claimedEntry (s : State) (ctx id : Nat) : Option FqEntry :=
  s.fq.find? (fun e => decide (e.die = id / 4096) && decide (e.idx = id % 4096) && e.claimed && decide (e.ctx = ctx))

/-- An entry becomes free, and the faults that wait for one are served (R258). -/
def State.freeEntry (s : State) (e : FqEntry) : State :=
  let s := { s with fq := s.fq.filter (fun x => !(decide (x.die = e.die) && decide (x.idx = e.idx))) }
  State.fqServe e.die s.fqWait.length s

/-- PGQ.done (R257, R275). -/
def execPgqDone (k : Ctl) (d a : Reg) : State → Host.Outcome State Fault Refusal :=
  bounding (.pgqDone k d a) (fun s rid c =>
    let x := c.uval 2 a
    if c.em = 0#32 then .ok (s.finish rid k { c with pc := s.nextPc rid c } [])
    else if !c.uni 2 a then .error c.diverges
    else if 8192 ≤ x then .error (c.operandFault 1)
    else
      match s.claimedEntry (c.ctx s) x with
      | none => .ok (s.answer rid k c d 0x11)
      | some e => .ok (((e.waiters.foldl State.reissue s).freeEntry e).answer rid k c d 0))

/-- The late fault of an engine command. -/
def Cmd.lateFault (m : Cmd) (s : State) (kind aux addr : Nat) : Late :=
  ⟨m.ctx, kind, aux, BitVec.ofNat 64 addr, m.latePc, BitVec.ofNat 64 m.stroke, s.handle m.k, m.crew, m.bay, false⟩

/-- An engine command whose fault-queue entry is failed is aborted with a late fault record (R178, R275, R323); an encode ends with
status 0x04 (R330). An encode that has failed already and whose block cannot take its status ends without writing it (code 6 here;
log 69). -/
def State.abortCmd (s : State) (id kind aux addr : Nat) : State :=
  match s.cmds.find? (fun m => decide (m.id = id)) with
  | some m =>
    let s := s.late (m.lateFault s kind aux addr)
    if m.kind = .encode then
      (s.mapCmd id (fun x => { x with status := some (if m.status = none ∨ m.status = some 0 then 4 else 6), stage := .running, fault := none })).post (.entry id) .encodeDone
    else (s.mapCmd id (fun m => { m with aborted := true, status := some 4, fault := none })).post (.entry id) .engineCommandComplete
  | none => s

/-- A waiter of a failed entry: a crew traps at its faulting instruction, a command is aborted, a peer access is refused (R275, R372). -/
def State.failWaiter (kind : Nat) (s : State) (who : Waiter) : State :=
  match who with
  | .crew rid =>
    match s.crews.get? rid with
    | some c =>
      let q := c.fault.getD ⟨kind, 0, false, 0, 0⟩
      (s.setCrew rid (fun c => { c with wait := .none, fault := none })).takeTrap rid ⟨kind, 0, q.va, q.lane, 0, c.pc, c.slot⟩
    | none => s
  | .cmd id =>
    match (s.cmds.find? (fun m => decide (m.id = id))).bind (fun m => m.fault) with
    | some q => s.abortCmd id kind 0 q.va
    | none => s
  | .peer n =>
    match s.peersIn.find? (fun p => decide (p.n = n)) with
    | some p =>
      State.peerDone { s with peersIn := s.peersIn.filter (fun q => decide (q.n ≠ n)) } p.pkt (.refused 2)
    | none => s
  | .reds => s
  | .bars ctx page => s.reissue (.bars ctx page)

/-- PGQ.fail (R275). -/
def execPgqFail (k : Ctl) (d a : Reg) : State → Host.Outcome State Fault Refusal :=
  bounding (.pgqFail k d a) (fun s rid c =>
    let x := c.uval 2 a
    if c.em = 0#32 then .ok (s.finish rid k { c with pc := s.nextPc rid c } [])
    else if !c.uni 2 a then .error c.diverges
    else if 8192 ≤ x then .error (c.operandFault 1)
    else
      match s.claimedEntry (c.ctx s) x with
      | none => .ok (s.answer rid k c d 0x11)
      | some e => .ok (((e.waiters.foldl (State.failWaiter e.kind) s).freeEntry e).answer rid k c d 0))

/-- The page of an address is a 2 MiB page in the tables, or in some TLB (R275). -/
def State.bigPage (s : State) (ctx va : Nat) : Bool :=
  (match s.leafOf ctx va with | some (_, _, big) => big | none => false) ||
    s.bays.any (fun p => p.2.tlb.any (fun t => t.big && decide (t.ctx = ctx) && decide (t.va = va / 2 ^ 21 * 2 ^ 21)))

/-- PGQ.inval (R263, R275). -/
def execPgqInval (k : Ctl) (d a : Reg) : State → Host.Outcome State Fault Refusal :=
  bounding (.pgqInval k d a) (fun s rid c =>
    let va := c.uval 2 a
    if c.em = 0#32 then .ok (s.finish rid k { c with pc := s.nextPc rid c } [])
    else if !c.uni 2 a then .error c.diverges
    else
      match c.pageAddr va 1 with
      | some e => .error e
      | none =>
        let ctx := c.ctx s
        let n := if s.bigPage ctx va then 2 ^ 21 else 2 ^ 16
        let sel (b : Nat) (m : StashMap) : Bool :=
          decide (m.ctx = ctx) && decide (m.va / n = va / n) && (s.pinOf ctx b m.va).isNone
        if s.bays.any (fun p => p.2.stash.any (fun m => sel p.1 m && s.frameBusy m.pa)) then .error (.wait .retry)
        else
          let t := s.tlbDrop ctx va
          let t : State := { t with bays := t.bays.map (fun p => (p.1, { p.2 with stash := p.2.stash.filter (fun m => !sel p.1 m) })) }
          .ok (t.answer rid k c d 0))

/-! ### Stash mappings (R262, R276, R279) -/

/-- The backing of a page as a load translates it (R276): physical address, write permission, and whether it is memory-side or KV. A mapped
or pinned page has its recorded backing (R262, R264). -/
def State.backing (s : State) (rid : Nat) (c : Crew) (va : Nat) : Except Stop (Nat × Bool × Bool) :=
  match s.stashOf (ridBay rid) (c.ctx s) va, s.pinOf (c.ctx s) (ridBay rid) va with
  | some m, _ => .ok (m.pa, m.w, false)
  | none, some p => .ok (p.pa, p.w, false)
  | none, none =>
    match s.xlat (ridBay rid) (c.ctx s) va .read with
    | .bad cause => .error (.ctx cause)
    | .fault kind copy => .error (.fault ⟨kind, va, false, copy, c.low⟩)
    | .ok h => .ok (h.pa, Pte.w h.leaf, Pte.m h.leaf || Pte.kv h.leaf)

/-- Bind a kernel's stash page to a virtual page: its present mapping is released, and the frame of a pinned page that is resident is
taken over. Where the bay has no frame left for the released page of a pin, that page leaves too, to be refilled on first touch (R262, R264;
log 93). -/
def State.bindStash (s : State) (b ctx k n va pa : Nat) (w : Bool) : State :=
  let old := s.ownedMap b k n
  let s := s.unbind b (fun m => decide (m.owner = some (k, n)))
  let s := s.setStash b (fun l => l.filter (fun m => !(decide (m.ctx = ctx) && decide (m.va = va))) ++ [⟨ctx, va, pa, w, some (k, n)⟩])
  if Config.stashPages < s.stashUsed b then
    (s.setStash b (fun l => l.filter (fun m => !(m.owner.isNone && old.any (fun o => decide (m.ctx = o.ctx) && decide (m.va = o.va)))))).trimCast b
  else s

/-- A GATHER or SCATTER that is not complete holds a 4 KiB page of its stash range on its bay (R326). -/
def State.listHolds (s : State) (b ctx va : Nat) : Bool :=
  s.cmds.any (fun m => m.kind.lists && decide (m.bay = b) && decide (m.ctx = ctx) &&
    (let lo := sext56 (slice 119 64 m.desc); decide (lo < va + 4096) && decide (va < lo + (listShape m.desc).1 * (listShape m.desc).2)))

/-- A mapping stays for now: its frame has reductions in flight (R263), or a GATHER or SCATTER names its page (R326). -/
def State.mapHeld (s : State) (b : Nat) (m : StashMap) : Bool := s.frameBusy m.pa || s.listHolds b m.ctx m.va

/-- SMAP (R276). A page that the kernel maps already, under another of its stash pages, moves to this one. -/
def execSmap (k : Ctl) (d a b : Reg) : State → Host.Outcome State Fault Refusal :=
  bounding (.smap k d a b) (fun s rid c =>
    let va := c.uval 2 a
    let n := c.uval 1 b
    if c.em = 0#32 then .ok (s.finish rid k { c with pc := s.nextPc rid c } [])
    else if !c.uni 2 a || !c.uni 1 b then .error c.diverges
    else
      match c.pageAddr va 4096 with
      | some e => .error e
      | none =>
        let ctx := c.ctx s
        let y := ridBay rid
        let pinned := (s.pinOf ctx y va).isSome
        let other : Bool := match s.stashOf y ctx va with
          | some m => (match m.owner with | some (k', _) => decide (k' ≠ c.kernel) | none => true)
          | none => false
        if s.lch c.kernel Lch.spages ≤ n then .error (c.operandFault 2)
        else if other && !pinned then .ok (s.answer rid k c d 0x15)
        else
          match s.backing rid c va with
          | .error e => .error e
          | .ok (pa, w, unfit) =>
            if unfit then .ok (s.answer rid k c d 0x14)
            else if (match s.ownedMap y c.kernel n with | some m => s.mapHeld y m | none => false) || s.listHolds y ctx va then
              .error (.wait .retry)
            else .ok ((s.bindStash y ctx c.kernel n va pa w).answer rid k c d 0))

/-- The mappings of a range on a crew's bay. -/
def State.rangeMaps (s : State) (rid : Nat) (c : Crew) (ps : List Nat) : List StashMap :=
  (s.bay (ridBay rid)).stash.filter (fun m => decide (m.ctx = c.ctx s) && ps.contains m.va)

/-- SFLUSH.wb (R263, R279): a frame with a reduction in flight is not written back before it lands, nor a page of a GATHER or SCATTER
before that completes (R326). -/
def execSflushWb (k : Ctl) (a b : Reg) : State → Host.Outcome State Fault Refusal :=
  bounding (.sflushWb k a b) (fun s rid c =>
    if c.em = 0#32 then .ok (s.finish rid k { c with pc := s.nextPc rid c } [])
    else if !c.uni 2 a || !c.uni 1 b then .error c.diverges
    else
      match c.pageRange (c.uval 2 a) (c.uval 1 b) with
      | .error e => .error e
      | .ok ps =>
        if (s.rangeMaps rid c ps).any (s.mapHeld (ridBay rid)) then .error (.wait .retry)
        else .ok (s.finish rid k { c with pc := s.nextPc rid c } []))

/-- SFLUSH.inv (R263, R279): an unpinned mapping is removed; a pinned page keeps its pin entry, and its frame is freed where no kernel
holds it. -/
def execSflushInv (k : Ctl) (a b : Reg) : State → Host.Outcome State Fault Refusal :=
  bounding (.sflushInv k a b) (fun s rid c =>
    if c.em = 0#32 then .ok (s.finish rid k { c with pc := s.nextPc rid c } [])
    else if !c.uni 2 a || !c.uni 1 b then .error c.diverges
    else
      match c.pageRange (c.uval 2 a) (c.uval 1 b) with
      | .error e => .error e
      | .ok ps =>
        let y := ridBay rid
        let maps := s.rangeMaps rid c ps
        if maps.any (s.mapHeld y) then .error (.wait .retry)
        else
          let s := s.setStash y (fun l => l.filter (fun m =>
            !(maps.contains m && ((s.pinOf m.ctx y m.va).isNone || m.owner.isNone))))
          let s := s.trimCast y
          .ok (s.finish rid k { c with pc := s.nextPc rid c } []))

end Sys2Proof.Machine
end

