-- ==== Sys2Proof/Machine/Engine.lean ====
section
/-! DEFINITION. The engines at work: what each unit of a command moves, its landing, the end of a command, and the release of a kernel's
pages and slots on a bay (R115, R126, R257, R287, R310, R311, R322 to R327). -/

namespace Sys2Proof.Machine

/-! ### Accesses -/

/-- Translation of an access of a command issued on a bay (R229, R254, R262): the bay's stash mappings and pins, else a walk. A byte that
no local page holds counts as not present. -/
def State.xlatEng (s : State) (b ctx va : Nat) (need : Need) : Xlat :=
  if outside va 1 then .fault 0x030 0
  else if (s.stashOf b ctx va).isSome || (s.pinOf ctx b va).isSome then s.xlat b ctx va need
  else s.xlatWalk ctx va need

/-- The translated pieces of an engine's range. -/
def State.reachEng (s : State) (b ctx va n : Nat) (need : Need) : Reach := reachOf (fun v => s.xlatEng b ctx v need) (pieces va n)

/-- The physical address of a byte of a translated range. -/
def paAt (l : List (Nat × Hit × Nat)) (va : Nat) : Nat :=
  match l.find? (fun p => decide (p.1 ≤ va) && decide (va < p.1 + p.2.2)) with
  | some p => p.2.1.pa + (va - p.1)
  | none => 0

/-- A command pauses at an access (R257), and gives up its engine meanwhile (log 85). -/
def State.pauseAt (s : State) (m : Cmd) (kind copy va : Nat) (write : Bool) : State :=
  let q : QFault := ⟨kind, va, write, copy, 0⟩
  (s.mapCmd m.id (fun x => { x with stage := .faulted, fault := some q, engine := none })).meetFault (.cmd m.id) (dieOf m.bay) m.ctx (s.handle m.k) m.crew
    m.bay m.pc q

/-- A range that a command needs: its pieces, or the state in which it has paused. -/
def State.need (s : State) (m : Cmd) (va n : Nat) (need : Need) : Except State (List (Nat × Hit × Nat)) :=
  match s.reachEng m.bay m.ctx va n need with
  | .ok l => .ok l
  | .fault kind copy at_ => .error (s.pauseAt m kind copy at_ (decide (need = .write)))
  | .bad cause => .error (s.ctxFault m.ctx cause)

/-! ### Units (R322, R324, R326) -/

/-- What a unit does: moves n bytes, from nowhere (zero bytes) or from an address; passes over its bytes; or names a bad row. -/
inductive Work where
  | move (src : Option Nat) (dst n : Nat)
  | skip (n : Nat)
  | bad (aux addr n : Nat)
  deriving DecidableEq, Repr

/-- The number of units of a command. -/
def Cmd.units (m : Cmd) : Nat :=
  match m.kind with
  | .copy => ((copyShape m.desc).getD (0, 0)).1
  | .gather => (listShape m.desc).1
  | .scatter => (listShape m.desc).1
  | .encode => 1
  | .cfetch _ _ => 1

/-- Source, destination and bytes of unit u of a COPY (R322, R324). -/
def copyUnit (desc u : Nat) : Nat × Nat × Nat :=
  let src := sext56 (slice 55 0 desc)
  let dst := sext56 (slice 119 64 desc)
  if slice 192 192 desc = 1 then
    ((src + 16 * slice 175 160 desc * u) % 2 ^ 64, (dst + 16 * slice 191 176 desc * u) % 2 ^ 64, 16 * (slice 155 144 desc + 1))
  else
    let n := 16 * slice 155 128 desc
    ((src + 4096 * u) % 2 ^ 64, (dst + 4096 * u) % 2 ^ 64, min 4096 (n - 4096 * u))

/-- Unit u of a command, its index list read. An entry that the read found in a poisoned line stands as 2^32: nothing of it is
transferred (R287). -/
def Cmd.work (m : Cmd) (u : Nat) : Work :=
  let base := sext56 (slice 55 0 m.desc)
  let (_, n) := listShape m.desc
  let stash := sext56 (slice 119 64 m.desc) + n * u
  let e := ((m.list.getD [])[u]?).getD 0xFFFF_FFFF
  let row := (base + 16 * e) % 2 ^ 64
  match m.kind with
  | .copy => let (src, dst, n) := copyUnit m.desc u; .move (some src) dst n
  | .gather =>
    if e = 0xFFFF_FFFF then .move none stash n
    else if 0xFFFF_FFFF < e then .skip n
    else if !canonical row || (!isPeer row && decide (2 ^ 55 < row + n)) then .bad 1 row n
    else if isPeer row then .bad 2 row n
    else .move (some row) stash n
  | .scatter =>
    if 0xFFFF_FFFF ≤ e then .skip n
    else if !canonical row || (!isPeer row && decide (2 ^ 55 < row + n)) then .bad 1 row n
    else if isPeer row then .bad 2 row n
    else .move (some stash) row n
  | .encode => .skip 0
  | .cfetch _ _ => .skip 0

/-- Copy n bytes in words of 16, but for those of poisoned source lines (R287). -/
def State.moveBytes (s : State) (from_ to_ : List (Nat × Hit × Nat)) (src dst n : Nat) : State :=
  (List.range (n / 16)).foldl (fun t i =>
    let pa := paAt from_ (src + 16 * i)
    if s.poisoned.contains (lineOf pa) then t else t.write (paAt to_ (dst + 16 * i)) (s.bytes 16 pa)) s

/-- The poisoned lines of a translated range: each with its first virtual address there. -/
def State.poisonIn (s : State) (l : List (Nat × Hit × Nat)) : List Nat :=
  l.flatMap (fun p => (List.range (p.2.2 / 16)).filterMap (fun i =>
    let pa := p.2.1.pa + 16 * i
    if s.poisoned.contains (lineOf pa) && (decide (i = 0) || decide (pa % 128 = 0)) then some (p.1 + 16 * i) else none))

/-- Late records of kind 0x042 for the lines that an engine read found poisoned (R287). -/
def State.latePoison (s : State) (m : Cmd) (vas : List Nat) : State :=
  vas.foldl (fun s va => s.late (m.lateFault s 0x042 0 va)) s

/-! ### Truss multicast (R17, R325) -/

/-- A COPY with truss multicast. -/
def Cmd.casts (m : Cmd) : Bool := (match m.kind with | .copy => true | _ => false) && decide (slice 193 193 m.desc = 1)

/-- The bays on which multicast installs the lines of a page: those of the issuing crew's truss that map the page and hold a resident
crew of the bent (R325). -/
def State.castBays (s : State) (m : Cmd) (va : Nat) : List Nat :=
  ((List.range 16).map (fun i => m.bay / 16 * 16 + i)).filter (fun b =>
    (s.stashOf b m.ctx va).isSome && (s.crewsOn b).any (fun p => decide (p.2.kernel = m.k) && p.2.bents.contains (slice 255 248 m.desc)))

/-- The lines of a written range are also installed over the truss broadcast path (R325). -/
def State.castLines (s : State) (m : Cmd) (l : List (Nat × Hit × Nat)) : State :=
  l.foldl (fun s p =>
    let lines := (List.range ((p.2.1.pa % 128 + p.2.2 + 127) / 128)).map (fun i => lineOf p.2.1.pa + i)
    (s.castBays m p.1).foldl (fun s b => s.setBay b (fun y => { y with cast := addLines y.cast lines })) s) s

/-- The broadcast path of a command's truss serves it now (R17): of requests of one clk a lower bay goes before a higher one. -/
def State.castTurn (s : State) (m : Cmd) : Bool :=
  match s.casts.get? (m.bay / 16) with
  | some (t, b) => decide (t ≠ s.clock) || decide (b ≤ m.bay)
  | none => true

/-- The broadcast path has served a command. -/
def State.castServed (s : State) (m : Cmd) : State := { s with casts := s.casts.set (m.bay / 16) (s.clock, m.bay) }

/-- Perform the bytes of a unit; or the state in which the command has paused. -/
def State.perform (s : State) (m : Cmd) : Work → Except State State
  | .skip _ => .ok s
  | .bad aux addr _ => .ok (s.late (m.lateFault s 0x053 aux addr))
  | .move none dst n =>
    match s.need m dst n .write with
    | .error t => .error t
    | .ok to_ => .ok (s.writePieces to_ (List.replicate n 0#8))
  | .move (some src) dst n =>
    match s.need m src n .read with
    | .error t => .error t
    | .ok from_ =>
      match s.need m dst n .write with
      | .error t => .error t
      | .ok to_ =>
        let t := s.moveBytes from_ to_ src dst n
        .ok ((if m.casts then (t.castLines m to_).castServed m else t).latePoison m (s.poisonIn from_))

/-- Bytes that a unit lands. -/
def Work.bytes : Work → Nat
  | .move _ _ n => n
  | .skip n => n
  | .bad _ _ n => n

/-! ### Landing (R310, R323, R399) -/

/-- An operation of a command on its barrier; a mode failure drops it, with one late record for the command. -/
def State.cmdOp (s : State) (m : Cmd) (pa : Nat) (op : BarOp) : State :=
  match s.barWrite m.ctx m.barVa pa op with
  | .ok s => s
  | .error a =>
    match s.cmds.find? (fun x => decide (x.id = m.id)) with
    | some x => if x.late51 then s else (s.mapCmd m.id (fun x => { x with late51 := true })).late (m.lateFault s 0x051 a m.barVa)
    | none => s.late (m.lateFault s 0x051 a m.barVa)

/-- A landing in the stamp window of a command; an encode is no copy-in or copy-out (R399). -/
def State.windowLand (s : State) (m : Cmd) : State :=
  match if m.kind.moves then m.window else none with
  | some (seq, out) =>
    s.mapWindow m.k m.crew seq (fun w => if out then { w with cout := some s.clock } else { w with cinland := some s.clock })
  | none => s

/-- A unit's bytes land on the command's barrier. -/
def State.landCmd (s : State) (m : Cmd) (n : Nat) : State :=
  let s := s.windowLand m
  match m.bar with
  | some pa => s.cmdOp m pa (.land n)
  | none => s

/-! ### The release of a bay (R115) -/

/-- A command names a byte of a range of its context: among the units still to come, its list, its block or its segment. -/
def Cmd.names (m : Cmd) (lo n : Nat) : Bool :=
  let meets (va k : Nat) : Bool := decide (va < lo + n) && decide (lo < va + k)
  let (cnt, row) := listShape m.desc
  match m.kind with
  | .copy => (List.range m.units).any (fun u => let (src, dst, k) := copyUnit m.desc u; meets src k || meets dst k)
  | .gather => meets (sext56 (slice 119 64 m.desc)) (cnt * row) || meets (sext56 (slice 183 128 m.desc)) (4 * cnt)
  | .scatter => meets (sext56 (slice 119 64 m.desc)) (cnt * row) || meets (sext56 (slice 183 128 m.desc)) (4 * cnt)
  | .encode => meets (sext56 (slice 55 0 m.desc)) 256
  | .cfetch _ lines => meets m.desc (128 * lines)

/-- Nothing keeps the pages and slots of kernel k on bay b: no crew of it there, no command of it that names one of the pages, but for those
paused by a stop (R118), and no reduction in flight to one that would be released (R115, R263). -/
def State.bayIdle (s : State) (b k : Nat) : Bool :=
  let own := (s.bay b).stash.filter (fun m => match m.owner with | some (k', _) => decide (k' = k) | none => false)
  !(s.crewsOn b).any (fun p => decide (p.2.kernel = k)) &&
    !s.cmds.any (fun m => decide (m.k = k) && decide (m.stage ≠ .paused) && own.any (fun p => decide (p.ctx = m.ctx) && m.names p.va 4096)) &&
    own.all (fun p => (s.pinOf p.ctx b p.va).isSome || !s.frameBusy p.pa)

/-- Release the pages and slots of kernel k on bay b. -/
def State.leaveBay (s : State) (b k : Nat) : State :=
  let s := s.unbind b (fun m => match m.owner with | some (k', _) => decide (k' = k) | none => false)
  s.setBay b (fun y => { y with kerns := y.kerns.modify k (fun x => { x with here := false, slots := [] }) })

/-- The cox looks for kernels to take in (R93). -/
def State.kick (s : State) : State := s.post .none .coxChoose

/-- Release what a kernel holds on each bay that it has left (R115). -/
def State.tidy (s : State) (k : Nat) : State :=
  let bays := s.bays.filter (fun p => (match p.2.kerns.get? k with | some x => x.here | none => false) && s.bayIdle p.1 k)
  if bays.isEmpty then s else (bays.foldl (fun s p => s.leaveBay p.1 k) s).kick

/-! ### The end of a command (R311, R322, R327) -/

/-- The registration of a command on its barrier. -/
def Cmd.regn (m : Cmd) : Option Regn := m.bar.map (fun pa => ⟨pa, m.ctx, m.barVa, m.k, .cmd m.id⟩)

/-- A crew that waits for a place in the engine queues looks again (R119). -/
def State.freeEngineWait (s : State) (k idx : Nat) : State :=
  { s with crews := s.crews.map (fun (p : Nat × Crew) =>
      if p.2.kernel = k ∧ p.2.idx = idx ∧ p.2.wait = Wait.engine then (p.1, { p.2 with wait := .none }) else p) }

/-- A command ends: its registration ends, an aborted one leaves its batch unreached, and what waited for it goes on. -/
def State.endCmd (s : State) (m : Cmd) : State :=
  let s := { s with cmds := s.cmds.filter (fun x => decide (x.id ≠ m.id)) }
  let s := s.fqAbandon (.cmd m.id)
  let s :=
    if m.aborted && (match m.kind with | .cfetch .. => false | _ => true) then
      s.setKern m.k (fun y => y.setKeep m.crew (fun e => { e with ebroken := some (min m.batch (e.ebroken.getD m.batch)) }))
    else s
  let s := match m.regn with | some r => s.endRegn r | none => s
  let s := s.freeEngineWait m.k m.crew
  let s := (s.post (.kernelCrew m.k m.crew) .engineBatchRaise).post (.kernelCrew m.k m.crew) .stampRecordWrite
  (s.tidy m.k).post (.kernel m.k) .kernelRetire

/-! ### Code fetches (R126, R127) -/

/-- A fill ends without its code: its bytes still land on its barrier. -/
def State.endFill (s : State) (m : Cmd) (lines : Nat) : State := (s.landCmd m (128 * lines)).endCmd m

/-- Set a kernel slot on a bay. -/
def State.setSlot (s : State) (b k n : Nat) (v : CodeSlot) : State :=
  s.setBay b (fun y => { y with kerns := y.kerns.modify k (fun x => { x with slots := x.slots.set n v }) })

/-- A fill of a kernel slot in progress is aborted (R126, R127). -/
def State.abortFill (s : State) (b k n : Nat) : State :=
  match s.codeSlot b k n with
  | .filling _ _ (some id) =>
    match s.cmds.find? (fun m => decide (m.id = id)) with
    | some m => match m.kind with | .cfetch _ lines => s.endFill m lines | _ => s
    | none => s
  | _ => s

/-- The words of a segment at translated pieces. -/
def State.wordsAt (s : State) (l : List (Nat × Hit × Nat)) : List Word :=
  let bs := s.readPieces l
  (List.range (bs.length / 4)).map (fun i => BitVec.ofNat 32 (ofBytes ((bs.drop (4 * i)).take 4)))

end Sys2Proof.Machine
end

