-- ==== Sys2Proof/Machine/Host.lean ====
section
/-! DEFINITION. Messages that the module sends to the host (R102, R103, R105). -/

namespace Sys2Proof.Machine

/-- The 32 bytes of a message's header (R102). -/
def OutMsg.header (m : OutMsg) : List Byte :=
  toBytes 1 1 ++ toBytes 1 m.typ ++ toBytes 2 m.body.length ++ toBytes 1 m.flags ++ toBytes 3 0 ++ toBytes 8 m.seq ++ toBytes 8 m.ack ++
    toBytes 2 m.ctx ++ toBytes 6 0

/-- The frame that carries a message to the host (R102), from the destination address to the end of the message. -/
def State.frameOf (s : State) (m : OutMsg) : List Byte :=
  (toBytes 6 s.hostMac).reverse ++ (toBytes 6 s.mac).reverse ++ (toBytes 2 0x88B5).reverse ++ m.header ++ m.body

/-- A message goes out: it carries the module's next expected number, so that no ACK is owed any more (R102, R105). -/
def State.emit (s : State) (m : OutMsg) : State :=
  { s with host := { s.host with sent := s.host.sent ++ [{ m with ack := s.host.nextIn }], owesAck := false } }

/-- The replay window has no room (R105). -/
def State.windowFull (s : State) : Bool := decide (Config.replayWindow ≤ s.host.window.length)

/-- Send a sequenced message: it takes the next number and stays in the replay window until it is acknowledged (R105). The 100 µs for an
ack begin with the first message of an empty window. -/
def State.sendSeq (s : State) (typ ctx : Nat) (body : List Byte) : State :=
  let m : OutMsg := ⟨typ, 0, s.host.nextOut, 0, ctx, body⟩
  { s with host := { s.host with
      window := s.host.window ++ [m], nextOut := s.host.nextOut + 1,
      lastAdvance := if s.host.window.isEmpty then s.clock else s.host.lastAdvance } }.emit m

/-- Send a sequenced message, or let it wait for room in the window behind those that wait (R105). -/
def State.sendOrWait (s : State) (typ ctx : Nat) (body : List Byte) : State :=
  if s.windowFull || !s.host.waiting.isEmpty then
    { s with host := { s.host with waiting := s.host.waiting ++ [⟨typ, 0, 0, 0, ctx, body⟩] } }
  else s.sendSeq typ ctx body

/-- Send an unsequenced message: U set, no number (R102). -/
def State.sendPlain (s : State) (typ ctx : Nat) (body : List Byte) : State := s.emit ⟨typ, 1, 0, 0, ctx, body⟩

/-- The body of a COMPLETION (R103). -/
def completionBody (echo kind status handle value value2 : Nat) : List Byte :=
  toBytes 8 echo ++ toBytes 1 kind ++ toBytes 1 status ++ toBytes 2 0 ++ toBytes 4 handle ++ toBytes 8 value ++ toBytes 8 value2

/-- A COMPLETION of the module (R103). -/
def State.complete (s : State) (ctx echo kind status handle value value2 : Nat) : State :=
  s.sendOrWait 0x81 ctx (completionBody echo kind status handle value value2)

/-- A FAULT message: the context, its cause and its record as at the fault (R103). -/
def State.faultMessage (s : State) (ctx cause : Nat) : State :=
  s.sendOrWait 0x83 ctx (toBytes 2 ctx ++ toBytes 2 cause ++ toBytes 4 0 ++ toBytes 128 (s.rcd .context ctx))

end Sys2Proof.Machine
end

