-- ==== Sys2Proof/Machine/Kern.lean ====
section
/-! DEFINITION. The life of a kernel outside its crews: posting, dependences, units of leave, killing, retirement, and the stop set
(R90, R96, R97, R108 to R113, R117, R131). -/

namespace Sys2Proof.Machine

/-! ### States and units -/

/-- A kernel enters a state. -/
def State.setKState (s : State) (k : Nat) (x : KState) : State :=
  (s.setKern k (fun y => { y with state := x })).recount (s.kern k).queue

/-- The held and budget fields of a die (R425). -/
def heldFld (d : Nat) : Fld := if d = 0 then Pwr.held0 else Pwr.held1
def budgetFld (d : Nat) : Fld := if d = 0 then Pwr.budget0 else Pwr.budget1

/-- Units go back to a die's governor (R112). -/
def State.returnUnits (s : State) (d n : Nat) : State := s.setFld .power 0 (heldFld d) (s.fld .power 0 (heldFld d) - n)

/-- Units that a kernel holds from a die. -/
def Kernel.held (y : Kernel) (d : Nat) : Nat := if d = 0 then y.held0 else y.held1
def Kernel.setHeld (y : Kernel) (d n : Nat) : Kernel := if d = 0 then { y with held0 := n } else { y with held1 := n }

/-- A kernel's units all go back (R111, R112). -/
def State.releaseUnits (s : State) (k : Nat) : State :=
  let y := s.kern k
  ((s.returnUnits 0 y.held0).returnUnits 1 y.held1).setKern k (fun y => { y with held0 := 0, held1 := 0 })

/-- A choice of the cox is withdrawn: units granted for it go back, those still to come as they arrive (R90). -/
def State.withdraw (s : State) (k : Nat) : State :=
  if (s.kern k).chosen.isSome then (s.releaseUnits k).setKern k (fun y => { y with chosen := none }) else s

/-- Crews of a kernel (R107). -/
def State.ncrews (s : State) (k : Nat) : Nat := s.lch k Lch.ncrews + 1

/-! ### Reserved trusses (R95, R96) -/

def State.rsv (s : State) : Nat := s.fld .cox 0 Cox.rsv
def State.reservedBay (s : State) (b : Nat) : Bool := s.rsv.testBit (trussOf b)
def State.rsvCount (s : State) : Nat := popcount s.rsv 28

/-- A persistent kernel fits the reserved trusses (R96). -/
def State.persistFits (s : State) (k : Nat) : Bool :=
  decide (s.ncrews k ≤ 16 * s.rsvCount * 2 * min 32 (256 / (s.lch k Lch.allot + 1))) && decide (s.lch k Lch.spages ≤ 256) &&
    decide (s.lch k Lch.slots ≤ 16)

/-- The record of a persistent kernel found unfit (R96). -/
def State.unfitRecord (s : State) (k : Nat) : FaultRec := ⟨0x003, false, false, 0, s.handle k, 0, 0, 0, s.rsvCount⟩

/-- The fit test of a ready persistent kernel (R96). -/
def State.judgeFit (s : State) (k : Nat) : State :=
  let y := s.kern k
  if s.lch k Lch.persistent = 0 then s
  else if s.persistFits k then
    s.setKern k (fun y => { y with unfit := false })
  else
    let s := s.setKern k (fun y => { y with unfit := true, aged := false, candidate := none })
    if y.unfitLogged then s else (s.faultLog y.ctx (s.unfitRecord k)).setKern k (fun y => { y with unfitLogged := true })

/-- A kernel becomes ready: a candidate from now on (R93, R110). -/
def State.readyKernel (s : State) (k : Nat) : State :=
  let s := s.setKern k (fun y => { y with candidate := none, aged := false, stop := none, messaged := false })
  ((s.setKState k .ready).judgeFit k).kick

/-! ### Dependences (R109) -/

/-- A dependence is met (true) or has failed (false), or neither. -/
def State.depHolds (s : State) (d : Dep) : Option Bool :=
  match d with
  | .kernel h =>
    let y := s.kern (h % 2 ^ 14)
    if s.handle (h % 2 ^ 14) ≠ h then some true
    else if y.state = .retired then some (decide (y.cause = 0))
    else none
  | .phase pa _ | .value pa _ =>
    let o := s.num pa 32
    if d.metBy pa o then some true else if d.failedBy pa o then some false else none

/-- What a kernel's dependences make of it (R109, R110). -/
def State.judgeKernel (s : State) (k : Nat) : State :=
  let y := s.kern k
  if !y.tracked || y.ending.isSome then s
  else
    let left := y.deps.filter (fun d => s.depHolds d ≠ some true)
    if left.any (fun d => s.depHolds d == some false) then
      (s.setKern k (fun y => { y with ending := some 1 })).post (.kernel k) .kernelRetire
    else
      let s := (s.setKern k (fun y => { y with deps := left })).recount y.queue
      match y.state with
      | .posted => if left.isEmpty then s.readyKernel k else s.setKState k .blocked
      | .blocked => if left.isEmpty then s.readyKernel k else s
      | _ => s

/-! ### Posting (R99, R107, R108) -/

/-- Kernels in flight in the module: slots whose kernel has not retired. -/
def State.inFlight (s : State) : Nat := (s.kernels.filter (fun p => decide (p.2.state ≠ .retired))).length

/-- The lowest free kernel slot (R23). -/
def State.freeSlot (s : State) : Option Nat := (List.range Config.kernelSlots).find? (fun k => decide ((s.kern k).state = .retired))

/-- Post a kernel to a queue in a slot (R23, R99). -/
def State.postKernel (s : State) (k q launch : Nat) (deps : List Dep) : State :=
  let y : Kernel :=
    { Kernel.init with
      gen := ((s.kern k).gen + 1) % 2 ^ 18, state := .posted, launch := launch, queue := q, ctx := s.qcfg q Que.ctx,
      posted := s.serial, deps := deps, urg := Lch.urgency.get launch,
      bars := deps.filterMap (fun d => match d with | .kernel _ => none | .phase pa _ => some pa | .value pa _ => some pa) }
  let s := { s with kernels := s.kernels.set k y, serial := s.serial + 1 }
  (s.setFld .queue q Que.nposted (s.fld .queue q Que.nposted + 1)).post (.kernel k) .kernelDependenceMet

/-- Dependence entry i of a launch record, its barrier address found at a physical address; none where it is malformed (R109). -/
def depOf (launch i : Nat) (pa : Nat → Option Nat) : Option (Option Dep) :=
  let a := (Lch.depA i).get launch
  let b := (Lch.depB i).get launch
  let bar := sext56 (slice 55 5 a * 32)
  if slice 63 56 a ≠ 0 ∨ slice 4 2 a ≠ 0 then none
  else
    match a % 4 with
    | 0 => if slice 55 5 a = 0 ∧ b = 0 then some none else none
    | 1 => if slice 55 5 a = 0 ∧ b < 2 ^ 32 then some (some (.kernel b)) else none
    | 2 => if b < 2 ^ 32 then (pa bar).map (fun p => some (.phase p b)) else none
    | _ => (pa bar).map (fun p => some (.value p b))

/-- The physical address of a dependence's barrier in the posting context, or a context fault's cause (R109). -/
def State.depBar (s : State) (ctx va : Nat) : Except Nat (Option Nat) :=
  if isPeer va then .ok none
  else
    match s.xlatWalk ctx va .read with
    | .ok h => .ok (if Pte.m h.leaf || Pte.kv h.leaf then none else some h.pa)
    | .fault _ _ => .ok none
    | .bad cause => .error cause

/-- The dependences of a launch record: none where an entry is malformed; or a context fault's cause. -/
def State.depsOf (s : State) (ctx launch : Nat) : List Nat → Except Nat (Option (List Dep))
  | [] => .ok (some [])
  | i :: rest =>
    let bar := sext56 (slice 55 5 ((Lch.depA i).get launch) * 32)
    let found : Except Nat (Option Nat) := if (Lch.depA i).get launch % 4 < 2 then .ok none else s.depBar ctx bar
    match found with
    | .error cause => .error cause
    | .ok p =>
      match depOf launch i (fun _ => p), s.depsOf ctx launch rest with
      | _, .error cause => .error cause
      | some d, .ok (some l) => .ok (some (d.toList ++ l))
      | _, .ok _ => .ok none

/-- The record's own limits (R108), against the context that owns the queue. -/
def State.launchOk (s : State) (launch owner : Nat) : Bool :=
  let f (x : Fld) : Nat := x.get launch
  Lch.reserved.all (fun r => decide (r.get launch = 0)) && decide (f Lch.spages ≤ 256) && decide (f Lch.slots ≠ 0) &&
    decide (f Lch.nbents ≤ 256) && decide (f Lch.nsave ≤ 28672) && !(decide (f Lch.record = 1) && decide (f Lch.replay = 1)) &&
    (decide (f Lch.record = 0) || decide (s.cfg owner Ctx.record = 1)) &&
    (decide (f Lch.replay = 0) || decide (s.cfg owner Ctx.replay = 1)) &&
    (decide (f Lch.persistent = 0) || decide (f Lch.ncrews + 1 ≤ 28672))

/-- What a launch comes to: the status that refuses it; a context fault of the posting context; or the kernel slot and its
dependences. -/
inductive Launch where
  | refused (status : Nat)
  | bad (cause : Nat)
  | post (k : Nat) (deps : List Dep)
  deriving DecidableEq, Repr

/-- A dependence on a kernel that another context owns: the reference is not valid (R24; log 84). -/
def State.foreignDep (s : State) (owner : Nat) : Dep → Bool
  | .kernel h => decide (s.handle (h % 2 ^ 14) = h) && decide ((s.kern (h % 2 ^ 14)).ctx ≠ owner)
  | .phase .. => false
  | .value .. => false

/-- The tests of R99 in their order, for a record posted from a context, through the path that a flag of the queue permits; same is
false for a host message whose queue differs from the record's (R108). -/
def State.launchTest (s : State) (ctx launch : Nat) (path : Fld) (same : Bool) (q : Nat) : Launch :=
  let owner := s.qcfg q Que.ctx
  if s.fld .queue q Que.state = 0 then .refused 0x02
  else if owner ≠ ctx ∧ ctx ≠ 0 then .refused 0x07
  else if s.qcfg q path = 0 then .refused 0x08
  else if !same || !s.launchOk launch owner then .refused 0x09
  else
    match s.depsOf ctx launch [0, 1, 2, 3] with
    | .error cause => .bad cause
    | .ok none => .refused 0x09
    | .ok (some deps) =>
      if deps.any (s.foreignDep owner) then .refused 0x09
      else if s.qcfg q Que.depth ≤ s.fld .queue q Que.nposted ∨ Config.kernelSlots ≤ s.inFlight then .refused 0x06
      else match s.freeSlot with | some k => .post k deps | none => .refused 0x06

/-! ### Killing (R131) -/

/-- A crew of a killed kernel, or a cancelled crew: it stops issuing, its uncommitted strokes are squashed, those awaiting commit
commit, and then it exits (R131, R344). -/
def State.killCrew (s : State) (rid : Nat) : State :=
  match s.crews.get? rid with
  | none => s
  | some c =>
    let whole := (s.kern c.kernel).barred || (s.kern c.kernel).parted || decide (c.wait = .ctxFault)
    let s := match c.strokes.findIdx? (fun st => st.closed.isNone || whole) with | some i => s.squashFrom rid i | none => s
    let s := match c.wait with | .barrier .. => s.waitEnds c.kernel c.idx | _ => s
    -- blocks of a stopped MMA that are never issued leave their batch unreached
    let s := match c.mma with
      | some j => if j.rest.isEmpty then s else s.setKern c.kernel (fun y => y.setKeep c.idx (fun e => { e with mma := some j }))
      | none => s
    let s := ((s.fqAbandon (.crew rid)).setCrew rid (fun c =>
      { c with stopping := true, trap := none, fault := none, wait := .none, mma := none, mmaRun := none, drain := none, gateSince := none })).redsChanged
    let s := { s with peers := s.peers.filter (fun p => match p.get with | some (r, _) => decide (r ≠ rid) | none => true) }
    match s.crews.get? rid with
    | some c => if c.strokes.isEmpty then s.post (.crew rid) .crewExit else s
    | none => s

/-- Crews of a kernel on bays: their resident ids. -/
def State.ridsOf (s : State) (k : Nat) : List Nat := (s.crews.filter (fun p => decide (p.2.kernel = k))).map Prod.fst

/-- Abort commands: each ends with nothing further landed (R131). -/
def State.abortCmds (s : State) (sel : Cmd → Bool) : State :=
  (s.cmds.filter sel).foldl (fun s m => (s.mapCmd m.id (fun x => { x with aborted := true })).post (.entry m.id) .engineCommandComplete) s

/-- A kernel is to retire with a cause before its work is complete (R90, R110, R131): choices are withdrawn, crews exit, commands are
aborted, saved crews are discarded, a cut is abandoned. -/
def State.killKernel (s : State) (k cause : Nat) : State :=
  let s := s.withdraw k
  let s := s.setKern k (fun y =>
    { y with ending := some cause, stop := none, messaged := false, keep := y.keep.map (fun p => (p.1, { p.2 with save := none })) })
  let s := (s.ridsOf k).foldl State.killCrew s
  (s.abortCmds (fun m => decide (m.k = k))).post (.kernel k) .kernelRetire

/-! ### The stop set (R117) -/

/-- Kernel c consumes from kernel p. -/
def State.consumes (s : State) (c p : Nat) : Bool :=
  s.regns.any (fun r => decide (r.k = p) && (s.kern c).bars.contains r.obj)

/-- A kernel has been admitted and runs or is about to (R117). -/
def Kernel.stoppable (y : Kernel) : Bool :=
  y.ending.isNone && (match y.state with | .admitted => true | .placing => true | .running => true | .trapped => true | _ => false)

/-- Add to a set every kernel with a save area that consumes from a member; fuel bounds the growth. -/
def State.stopSet (s : State) : Nat → List Nat → List Nat
  | 0, l => l
  | f + 1, l =>
    let more := (s.kernels.filter (fun p => !l.contains p.1 && p.2.stoppable && decide (s.lch p.1 Lch.nsave ≠ 0) &&
      l.any (s.consumes p.1))).map Prod.fst
    if more.isEmpty then l else s.stopSet f (l ++ more)

/-- Kernels that are stopping. -/
def State.stoppings (s : State) : List Nat := (s.kernels.filter (fun p => decide (p.2.state = .stopping))).map Prod.fst

/-- Kernel c consumes from p, directly or through stopping kernels; fuel bounds the path. -/
def State.follows (s : State) : Nat → Nat → Nat → Bool
  | 0, _, _ => false
  | f + 1, c, p => s.consumes c p || s.stoppings.any (fun m => s.consumes c m && s.follows f m p)

/-- A stopping kernel is to wait for another before its stop message: it consumes from it and is not in a cycle with it, or it is in a
cycle with it and has the higher slot (R117). -/
def State.stopsAfter (s : State) (c p : Nat) : Bool :=
  let n := s.stoppings.length
  let cycle := s.follows n c p && s.follows n p c
  decide (c ≠ p) && (if cycle then decide (p < c) else s.consumes c p)

/-- Send the stop messages that may go out, in ascending slot (R117). -/
def State.sendStops (s : State) : State :=
  s.stoppings.foldl (fun t k =>
    if (s.kern k).messaged || s.stoppings.any (s.stopsAfter k) then t
    else (t.setKern k (fun y => { y with messaged := true })).post (.kernel k) .kernelStopMessage) s

/-- Begin the stop of some kernels (R117). -/
def State.stopKernels (s : State) (l : List Nat) (who : StopBy) : State :=
  (l.foldl (fun s k => (s.setKern k (fun y => { y with stop := some who, messaged := false })).setKState k .stopping) s).sendStops

/-- A stop of kernel k, with every kernel that consumes from it (R117). -/
def State.startStop (s : State) (k : Nat) (who : StopBy) : State := s.stopKernels (s.stopSet s.kernels.length [k]) who

/-! ### Retirement (R110, R111, R178) -/

/-- Every command, reduction and posted peer access of a kernel's crews is complete, and no crew of it is on a bay. -/
def State.workDone (s : State) (k : Nat) : Bool :=
  (s.ridsOf k).isEmpty && !s.cmds.any (fun m => decide (m.k = k)) && !s.reds.any (fun r => decide (r.k = k)) &&
    !s.peers.any (fun p => decide (p.k = k) && p.get.isNone)

/-- The cause with which a kernel can now retire. -/
def State.retireCause (s : State) (k : Nat) : Option Nat :=
  let y := s.kern k
  let all := decide (s.ncrews k ≤ y.nextCrew) && decide (s.ncrews k ≤ y.exited)
  if !s.workDone k || y.state = .retired then none
  else
    match y.ending with
    | some cause =>
      -- a kernel that a suspension kills retires once the stop cut of the others is complete (R81)
      if y.killLater && s.kernels.any (fun p => decide (p.2.ctx = y.ctx) && decide (p.2.state = .stopping) && p.2.ending.isNone) then none
      else some cause
    | none =>
      match y.state with
      | .running => if all then some 0 else none
      | .trapped => if all then some 3 else none
      | _ => none

/-- What a kernel still owes before its registrations end: the timelines of the batches reached, and stamp records. -/
def State.settleKeeps (s : State) (k : Nat) : State :=
  (s.kern k).keep.foldl (fun s p => ((s.advance true k p.1).advance false k p.1).writeStamps k p.1) s

/-- A request of a kernel's leave units. -/
def GovWhat.raises (w : GovWhat) (k : Nat) : Bool :=
  match w with
  | .raise _ j _ => decide (j = k)
  | .leave _ j _ _ _ => decide (j = k)
  | .admission .. => false

/-- The requests of a kernel's leave units end with its levels: those still at a governor go, and units granted go back. -/
def State.dropRaises (s : State) (k : Nat) : State :=
  let gone := s.answers.filter (fun a => a.1.what.raises k)
  gone.foldl (fun s a => if a.2 then s.returnUnits a.1.die (match a.1.what with | .leave _ _ _ _ n => n | _ => 1) else s)
    { s with gov := s.gov.filter (fun r => !r.what.raises k), answers := s.answers.filter (fun a => !a.1.what.raises k) }

/-- Take every kernel's bays (R111 step 1). -/
def State.leaveBays (s : State) (k : Nat) : State :=
  let s := s.dropRaises k
  let s := (s.bays.filter (fun p => (p.2.kerns.get? k).isSome)).foldl (fun s p => s.leaveBay p.1 k) s
  { s with bays := s.bays.map (fun p => (p.1, { p.2 with kerns := p.2.kerns.erase k })) }

/-- The retirement of a kernel with a cause, in the order of R111; kernels that depend on it are judged, and the cox looks again.
The message of its completion answers no host message: it echoes sequence number 0, for the kernel's context (log 88). -/
def State.retire (s : State) (k cause : Nat) : State :=
  let y := s.kern k
  let q := y.queue
  let s := (((s.settleKeeps k).withdraw k).releaseUnits k).leaveBays k
  let s := { s with told := s.told.filter (fun p => decide (p.2 ≠ k)) }
  let s := s.endRegns (s.regns.filter (fun r => decide (r.k = k)))
  let s := s.setFld .queue q Que.nposted (s.fld .queue q Que.nposted - 1)
  let s := s.setFld .queue q Que.done (s.fld .queue q Que.done + 1)
  let dl := s.lch k Lch.deadline
  let s := if dl ≠ 0 ∧ dl < s.time then s.setFld .queue q Que.late (min (s.fld .queue q Que.late + 1) (2 ^ 32 - 1)) else s
  let s := if s.qcfg q Que.notify = 1 then s.complete y.ctx 0 1 (if cause = 0 then 0 else 1) (s.handle k) s.time 0 else s
  let s := (s.setKern k (fun y => { y with cause := cause, ending := none, stop := none, deps := [], bars := [] })).setKState k .retired
  let h := s.handle k
  let s := s.kernels.foldl (fun s p => if p.2.deps.contains (.kernel h) then s.post (.kernel p.1) .kernelDependenceMet else s) s
  s.sendStops.kick

/-- A kernel retires where it can. -/
def State.tryRetire (s : State) (k : Nat) : State :=
  match s.retireCause k with
  | some cause => s.retire k cause
  | none => s

end Sys2Proof.Machine
end

