-- ==== Sys2Proof/Machine/Cox.lean ====
section
/-! DEFINITION. The choices of the cox: candidates and their order, what fits, the plan of bays, and the requests to the governors
(R92 to R96, R112, R115, R117). -/

namespace Sys2Proof.Machine

/-- A context admits and places kernels: it is active and not being suspended (R81, R92). -/
def State.admits (s : State) (ctx : Nat) : Bool :=
  decide (s.fld .context ctx Ctx.state = 2) && (s.suspending.get? ctx).isNone

/-- The states in which a kernel can be the head of a FIFO queue (R93). -/
def KState.heads : KState → Bool
  | .posted => true | .blocked => true | .ready => true | .stopped => true
  | .admitted => false | .placing => false | .running => false | .stopping => false | .trapped => false | .retired => false
  | .faulted => false

/-- The head of a FIFO queue. -/
def State.headOf (s : State) (q : Nat) : Option Nat :=
  (leastBy (fun p => p.2.posted) (s.kernels.filter (fun p => decide (p.2.queue = q) && p.2.state.heads && p.2.ending.isNone))).map Prod.fst

/-- A kernel is a candidate (R93, R96). -/
def State.isCandidate (s : State) (k : Nat) : Bool :=
  let y := s.kern k
  decide (y.state = .ready) && y.ending.isNone && !y.unfit && decide (s.fld .queue y.queue Que.state = 1) && s.admits y.ctx &&
    (decide (s.qcfg y.queue Que.policy = 0) || decide (s.headOf y.queue = some k))

/-- Kernels that become candidates start their time, others lose theirs (R93). -/
def State.refreshCandidates (s : State) : State :=
  { s with kernels := s.kernels.map (fun p =>
      (p.1, if s.isCandidate p.1 then { p.2 with candidate := some (p.2.candidate.getD s.time) }
            else { p.2 with candidate := none, aged := false })) }

/-- The tests of R93 in turn, as a list compared from its head. -/
def State.rank (s : State) (k : Nat) : List Nat :=
  let y := s.kern k
  let dl := s.lch k Lch.deadline
  [7 - s.qcfg y.queue Que.cls, if y.aged then 0 else 1, if y.aged then y.candidate.getD 0 else if dl = 0 then 2 ^ 64 - 1 else dl,
    y.posted, y.queue]

/-- Lexicographic order of two lists of the same length. -/
def lexLe : List Nat → List Nat → Bool
  | x :: xs, y :: ys => decide (x < y) || (decide (x = y) && lexLe xs ys)
  | [], _ => true
  | _ :: _, [] => false

/-- Put a kernel in the order of R93. -/
def State.insertRank (s : State) (k : Nat) : List Nat → List Nat
  | [] => [k]
  | x :: xs => if lexLe (s.rank x) (s.rank k) then x :: s.insertRank k xs else k :: x :: xs

/-- The candidates in the order of R93. -/
def State.candidates (s : State) : List Nat :=
  ((s.kernels.filter (fun p => s.isCandidate p.1)).map Prod.fst).foldl (fun l k => s.insertRank k l) []

/-! ### Room on a bay (R14, R115, R264) -/

/-- A kernel holds pages and slots on a bay. -/
def State.isHere (s : State) (b k : Nat) : Bool :=
  match (s.bay b).kerns.get? k with | some x => x.here | none => false

/-- Stash pages set aside on a bay for kernels, with those of pinned pages that no kernel holds: such a page of a context counts against
its own kernels only (R264), but for one that cannot leave for reductions in flight (R263). -/
def State.pagesFor (s : State) (b ctx : Nat) : Nat :=
  (((s.bay b).kerns.filter (fun p => p.2.here)).map (fun p => s.lch p.1 Lch.spages)).sum +
    ((s.bay b).stash.filter (fun m => m.owner.isNone && (decide (m.ctx = ctx) || s.frameBusy m.pa))).length

/-- Code slots set aside on a bay. -/
def State.slotsUsed (s : State) (b : Nat) : Nat :=
  (((s.bay b).kerns.filter (fun p => p.2.here)).map (fun p => s.lch p.1 Lch.slots)).sum

/-- A bay has the pages and slots that kernel k needs, or holds them for it. -/
def State.bayRoom (s : State) (b k : Nat) : Bool :=
  s.isHere b k || (decide (s.pagesFor b (s.kern k).ctx + s.lch k Lch.spages ≤ Config.stashPages) &&
    decide (s.slotsUsed b + s.lch k Lch.slots ≤ Config.codeSlots))

/-- The bay lies in a truss of the kind that kernel k is placed on (R95). -/
def State.rightTruss (s : State) (b k : Nat) : Bool := s.reservedBay b == decide (s.lch k Lch.persistent = 1)

/-- Crews of an allotment in blocks that a side can take. -/
def State.sideRoom (s : State) (b d blocks : Nat) : Nat :=
  min (Config.sideCrews - (s.crewsAt b d).length) (s.blocksFree b d / max blocks 1)

/-! ### Save slots (R120, R122), and the crew placed first (R112, R115) -/

/-- The virtual address of a save slot. -/
def State.saveVa (s : State) (k slot : Nat) : Nat := (sext56 (s.lch k Lch.saveva * 2 ^ 12) + 40960 * slot) % 2 ^ 64

/-- A save slot's pieces, translated by a walk. -/
def State.saveReach (s : State) (k slot : Nat) (need : Need) : Reach :=
  reachOf (fun v => if outside v 1 then .fault 0x030 0 else s.xlatWalk (s.kern k).ctx v need) (pieces (s.saveVa k slot) 40960)

/-- A save slot that has been reached: n bytes at an offset, within one 4 KiB page. -/
def State.saved (s : State) (k slot : Nat) (l : List (Nat × Hit × Nat)) (off n : Nat) : Nat :=
  s.num (paAt l (s.saveVa k slot + off)) n

/-- The crew that a kernel places next: the lowest saved one, then the next that has not been placed. -/
def State.nextCrewOf (s : State) (k : Nat) : Option (Nat × Option Nat) :=
  let y := s.kern k
  match y.keep.find? (fun p => p.2.save.isSome) with
  | some (i, e) => some (i, e.save)
  | none => if y.nextCrew < s.ncrews k then some (y.nextCrew, none) else none

/-- Blocks that the next crew takes: of a saved one, as its frame has them. -/
def State.blocksOf (s : State) (k slot : Nat) (l : List (Nat × Hit × Nat)) : Nat :=
  let a := Frm.allot.get (s.saved k slot l 0 64)
  if a % 8 = 0 ∧ 8 ≤ a ∧ a ≤ 256 then a / 8 else s.lch k Lch.allot + 1

/-- Blocks of the crew that a kernel places first. -/
def State.firstBlocks (s : State) (k : Nat) : Nat :=
  match s.nextCrewOf k with
  | some (_, some slot) => match s.saveReach k slot .read with | .ok l => s.blocksOf k slot l | _ => s.lch k Lch.allot + 1
  | _ => s.lch k Lch.allot + 1

/-- Crews of kernel k, each like the one it places first, that a bay's free room takes. -/
def State.bayTakes (s : State) (b k : Nat) : Nat :=
  if s.rightTruss b k && s.bayRoom b k then s.sideRoom b 0 (s.firstBlocks k) + s.sideRoom b 1 (s.firstBlocks k) else 0

/-- A kernel has been admitted, has no crew on a bay yet, and a bay planned for it can take its first one. -/
def State.awaits (s : State) (k : Nat) (y : Kernel) : Bool :=
  (decide (y.state = .admitted) || decide (y.state = .placing)) && y.ending.isNone && !s.crews.any (fun c => decide (c.2.kernel = k)) &&
    y.plan.any (fun b => decide (0 < s.bayTakes b k))

/-- Crews of kernel k that a bay can take for a first placement (R112): none where the bay is planned for a kernel just admitted, whose first
crew is yet to be placed. -/
def State.bayCrews (s : State) (b k : Nat) : Nat :=
  if s.kernels.any (fun p => decide (p.1 ≠ k) && p.2.plan.contains b && s.awaits p.1 p.2) then 0 else s.bayTakes b k

/-- The bays in an order begun at a free place. -/
def baysFrom (start : Nat) : List Nat := (List.range Config.bays).map (fun i => (start + i) % Config.bays)

/-- Bays, in an order, that together take n crews of a kernel; none where they cannot. -/
def State.baysTaking (s : State) (k : Nat) : List Nat → Nat → List Nat → Option (List Nat)
  | _, 0, acc => some acc
  | [], _ + 1, _ => none
  | b :: rest, n + 1, acc =>
    let m := s.bayCrews b k
    if m = 0 then s.baysTaking k rest (n + 1) acc else s.baysTaking k rest (n + 1 - m) (acc ++ [b])

/-- The bays planned for an admission (R112, R115): for a persistent kernel enough for all its crews, else a free number of those that
can take a crew; none where its first placement does not fit. -/
def State.planOf (s : State) (k : Nat) : Option (List Nat) :=
  let order := baysFrom (s.choice 0)
  if s.lch k Lch.persistent = 1 then s.baysTaking k order (s.ncrews k) []
  else
    match order.filter (fun b => decide (0 < s.bayCrews b k)) with
    | [] => none
    | l => some (l.take (1 + s.choice 1 % min l.length (s.ncrews k)))

/-- Units that a plan needs from a die (R112). -/
def State.unitsOf (s : State) (k : Nat) (plan : List Nat) (d : Nat) : Nat :=
  s.lch k Lch.intensity * (plan.filter (fun b => decide (dieOf b = d))).length

/-- A kernel is admitted (R110, R247); the cox looks again, so that the next head of its queue is a candidate from now on (R93). -/
def State.admitKernel (s : State) (k : Nat) : State :=
  let s := (s.setKern k (fun y => { y with begun := true, chosen := none, candidate := none, aged := false })).setKState k .admitted
  ((s.admitReplay k).post (.kernel k) .kernelPlacing).kick

/-- The cox chooses a kernel whose first placement fits: it is admitted, or units are asked for (R112). -/
def State.choose (s : State) (k : Nat) (plan : List Nat) : State :=
  let dies := [0, 1].filter (fun d => decide (s.unitsOf k plan d ≠ 0))
  let a := (s.kern k).attempt + 1
  let s := s.setKern k (fun y => { y with attempt := a, plan := plan })
  if dies.isEmpty then s.admitKernel k
  else { s.setKern k (fun y => { y with chosen := some dies }) with
         gov := s.gov ++ dies.map (fun d => ⟨d, .admission k a (s.unitsOf k plan d)⟩) }

/-- A kernel has been admitted whose first crew is yet to be placed. -/
def State.someAwaited (s : State) : Bool := s.kernels.any (fun p => s.awaits p.1 p.2)

/-- The cox goes through the candidates in order (R94): it passes over one that does not fit, and stops there if that one is aged. One that
does not fit beside the bays planned for kernels just admitted is tried again once their first crews are placed (State.seat), before any
lower candidate. -/
def State.tryAll : List Nat → State → State
  | [], s => s
  | k :: rest, s =>
    let y := s.kern k
    if y.chosen.isSome then (if y.aged then s else State.tryAll rest s)
    else
      match s.planOf k with
      | some plan =>
        let s := { s with fresh := s.fresh + 1 }.choose k plan
        if y.aged ∧ (s.kern k).chosen.isSome = true then s else State.tryAll rest s
      | none => if s.someAwaited then s else if y.aged then s.post (.kernel k) .coxPreempt else State.tryAll rest s

end Sys2Proof.Machine
end

