-- ==== Sys2Proof/Machine/Placing.lean ====
section
/-! DEFINITION. Placement: the bent table, where a crew can be placed, what it starts with, the crew read back from its save slot, and
the fetch of segments into a bay's kernel slots (R115, R122 to R124, R137 to R139, R264, R395). -/

namespace Sys2Proof.Machine

/-! ### The bent table (R137, R138) -/

/-- What a read through a context's translation finds. -/
inductive Found (α : Type) where
  | ok (x : α)
  | unreadable
  | bad (cause : Nat)

/-- An aligned 64-bit word of a context: one in a poisoned line reads as it stands (log 90). -/
def State.wordOf (s : State) (ctx va : Nat) : Found Nat :=
  if outside va 8 then .unreadable
  else match s.xlatWalk ctx va .read with | .ok h => .ok (s.num h.pa 8) | .fault _ _ => .unreadable | .bad c => .bad c

/-- n consecutive words. -/
def State.wordsOf (s : State) (ctx va : Nat) : Nat → Found (List Nat)
  | 0 => .ok []
  | n + 1 =>
    match s.wordsOf ctx va n with
    | .ok l => match s.wordOf ctx (va + 8 * n) with | .ok x => .ok (l ++ [x]) | .unreadable => .unreadable | .bad c => .bad c
    | r => r

/-- Ranges in ascending order, disjoint, each after a bound and below N (R138). -/
def rangesOk (n : Nat) : Option Nat → List (Nat × Nat) → Bool
  | _, [] => true
  | prev, (first, last) :: rest =>
    decide (first ≤ last) && decide (last < n) && (match prev with | some p => decide (p < first) | none => true) &&
      rangesOk n (some last) rest

/-- The bent of an entry, its ranges read; none where it is malformed. -/
def State.bentOf (s : State) (ctx base n e : Nat) : Found (Option Bent) :=
  let roff := slice 63 48 e
  let cnt := slice 47 36 e
  if slice 35 1 e ≠ 0 ∨ cnt = 0 ∨ 65536 < roff + cnt then .ok none
  else
    match s.wordsOf ctx (base + 8 * roff) cnt with
    | .ok ws =>
      let rs := ws.map (fun w => (slice 23 0 w, slice 47 24 w))
      if ws.any (fun w => decide (slice 63 48 w ≠ 0)) || !rangesOk n none rs then .ok none else .ok (some ⟨decide (e % 2 = 1), rs⟩)
    | .unreadable => .unreadable
    | .bad c => .bad c

/-- The bents of a list of entries. -/
def State.bentsFrom (s : State) (ctx base n : Nat) : List Nat → Found (Option (List Bent))
  | [] => .ok (some [])
  | e :: rest =>
    match s.bentOf ctx base n e, s.bentsFrom ctx base n rest with
    | .ok (some b), .ok (some l) => .ok (some (b :: l))
    | .bad c, _ => .bad c
    | _, .bad c => .bad c
    | _, _ => .ok none

/-- No crew belongs to more than four bents; a crew in most bents is the first of some range. -/
def fourBents (l : List Bent) : Bool :=
  (l.flatMap (fun b => b.ranges.map Prod.fst)).all (fun i =>
    decide ((l.filter (fun b => b.ranges.any (fun r => decide (r.1 ≤ i) && decide (i ≤ r.2)))).length ≤ 4))

/-- The bent table of a kernel; none where it is malformed. -/
def State.bentTable (s : State) (k : Nat) : Found (Option (List Bent)) :=
  let ctx := (s.kern k).ctx
  let base := sext56 (s.lch k Lch.bentva * 2 ^ 12)
  match s.wordsOf ctx base (s.lch k Lch.nbents) with
  | .ok es =>
    match s.bentsFrom ctx base (s.ncrews k) es with
    | .ok (some l) => .ok (if fourBents l then some l else none)
    | r => r
  | .unreadable => .ok none
  | .bad c => .bad c

/-- A kernel goes to faulted with its one record (R110, R124). -/
def State.faultKernel (s : State) (k kind bay addr aux : Nat) : State :=
  if (s.kern k).state = .faulted then s
  else ((s.faultLog (s.kern k).ctx ⟨kind, false, false, bayCode bay, s.handle k, 0, 0, addr, aux⟩).setKState k .faulted).kick

/-! ### Slot maps (R120, R122) -/

/-- A slot map's word for a kernel slot (R120). -/
def slotWord : CodeSlot → Nat
  | .empty => 0
  | .filling va lines _ => va % 2 ^ 56 / 128 * 128 + 64 + (lines - 1)
  | .full va lines _ => va % 2 ^ 56 / 128 * 128 + 64 + (lines - 1)

/-- The slot map of a kernel on a bay. -/
def State.slotMap (s : State) (b k : Nat) : List Nat := (List.range 16).map (fun n => slotWord (s.codeSlot b k n))

/-- The slot map in a save slot. -/
def State.savedMap (s : State) (k slot : Nat) (l : List (Nat × Hit × Nat)) : List Nat :=
  (List.range 16).map (fun n => s.saved k slot l (0x1040 + 8 * n) 8)

/-- The kernel slots that a slot map names, to be filled. -/
def mapSlots (m : List Nat) : Tbl CodeSlot :=
  (m.zip (List.range m.length)).foldl (fun t p =>
    if p.1.testBit 6 then Tbl.set t p.2 (.filling (sext56 (slice 55 7 p.1 * 128)) (p.1 % 32 + 1) none) else t) ([] : Tbl CodeSlot)

/-! ### Where the next crew can go (R15, R115) -/

/-- A kernel places crews now. -/
def State.places (s : State) (k : Nat) : Bool :=
  let y := s.kern k
  (decide (y.state = .placing) || decide (y.state = .running)) && y.ending.isNone && s.admits y.ctx

/-- The function unit of a side accepts the instructions that a saved crew has to be replayed (R176, R201): as many as its frame says. -/
def State.fuTakes (s : State) (b d k slot : Nat) (l : List (Nat × Hit × Nat)) : Bool :=
  decide (s.fuHeld (64 * b + 32 * d) + min 8 (Frm.nrep.get (s.saved k slot l 0 64)) ≤ 16)

/-- A side of a bay can take a crew of kernel k of so many blocks, whose saved slot map, if it has one, is given. -/
def State.canHost (s : State) (k b d blocks : Nat) (map : Option (List Nat)) : Bool :=
  s.rightTruss b k && (decide (s.lch k Lch.intensity = 0) || (s.kern k).plan.contains b) && s.bayRoom b k &&
    decide (0 < s.sideRoom b d blocks) &&
    (decide (s.lch k Lch.persistent = 1) || decide (s.lch k Lch.nsave = 0) || decide ((s.ridsOf k).length < s.lch k Lch.nsave)) &&
    (match map with | some m => !s.isHere b k || decide (m = s.slotMap b k) | none => true)

/-- The sides of the bays planned for a kernel. -/
def State.planSides (s : State) (k : Nat) : List (Nat × Nat) := (s.kern k).plan.flatMap (fun b => [(b, 0), (b, 1)])

/-! ### Taking a place -/

/-- Pinned pages that no kernel holds leave a bay for a kernel of another context: as many as its pages need (R264), and none with
reductions in flight (R263). -/
def State.evict (s : State) (b k : Nat) : State :=
  let excess := s.stashUsed b + s.lch k Lch.spages - Config.stashPages
  let gone := (((s.bay b).stash.filter (fun m => m.owner.isNone && decide (m.ctx ≠ (s.kern k).ctx) && !s.frameBusy m.pa)).take excess)
  s.setStash b (fun l => l.filter (fun m => !gone.contains m))

/-- The debug segment of a context, read at placement (R394, R395): address and lines, if a handler is armed. -/
def State.debugSeg (s : State) (k : Nat) : Option (Nat × Nat) :=
  let r := s.rcd .debug (s.kern k).ctx
  if Dbg.arm.get r = 1 ∧ s.lch k Lch.slots ≤ 15 then some (sext56 (Dbg.dbgva.get r * 128), Dbg.lines.get r + 1) else none

/-- Set aside what a kernel needs on a bay, and begin the fetches there (R115, R122, R124, R395). -/
def State.enterBay (s : State) (b k : Nat) (map : Option (List Nat)) : State :=
  let launch : Tbl CodeSlot := [(0, .filling (sext56 (s.lch k Lch.codeva * 128)) (s.lch k Lch.lines + 1) none)]
  let s :=
    if s.isHere b k then s
    else
      (s.evict b k).setBay b (fun y =>
        let e := y.kerns.getD k (BayKernel.init (s.lch k Lch.intensity))
        { y with kerns := y.kerns.set k { e with here := true, slots := match map with | some m => mapSlots m | none => launch } })
  match s.debugSeg k, s.codeSlot b k 15 with
  | some (va, lines), .empty => s.setSlot b k 15 (.filling va lines none)
  | _, _ => s

/-- Resident slots of a side that are free. -/
def State.freeSlots (s : State) (b d : Nat) : List Nat :=
  (List.range Config.sideCrews).filter (fun i => (s.crews.get? (64 * b + 32 * d + i)).isNone)

/-- The bents of a crew (R139). -/
def State.bentsOf (s : State) (k idx : Nat) : List Nat :=
  (List.range (s.kern k).bents.length).filter (fun b => s.member k b idx)

/-- A crew as its save slot has it (R122); sr.stroke reads 0 until it commits again (R226). -/
def State.resumed (s : State) (k idx slot : Nat) (l : List (Nat × Hit × Nat)) : Crew :=
  let e := (s.kern k).keepOf idx
  let rd (off n : Nat) : Nat := s.saved k slot l off n
  let h := rd 0 64
  let stop := rd 0x1000 64
  let allot := 8 * s.blocksOf k slot l
  let blocks := (List.range (allot / 8)).filter (fun b => (slice 95 64 stop).testBit b)
  let cells := blocks.flatMap (fun b => (List.range 256).map (fun i =>
    (32 * (8 * b + i / 32) + i % 32, BitVec.ofNat 32 (rd (0x2000 + 0x400 * b + 4 * i) 4))))
  let frame := (List.range 0x580).map (fun i => BitVec.ofNat 8 (rd i 1))
  let es := (List.range (min 8 (Frm.nrep.get h))).filterMap (fun j =>
    let (b, at_, m, op) := frameReplay frame j
    (replayInstr b allot).map (fun i => (i, at_, m, op)))
  let c := Crew.start k idx (Frm.pc.get h) allot 0 (BitVec.ofNat 32 (Frm.tag.get h))
  let exited := BitVec.ofNat 32 (Frm.exited.get h)
  { c with
    slot := Frm.slot.get h, em := BitVec.ofNat 32 (Frm.em.get h) &&& ~~~exited, exited := exited,
    flags := BitVec.ofNat 12 (Frm.flags.get h), regs := writeCells [] cells,
    stack := ((List.range (min 96 (Frm.depth.get h))).map (fun j => entryOf (rd (0xA00 + 16 * j) 16))).reverse,
    pends := replayPends es s.clock s.serial, progress := slice 127 96 stop, mma := e.mma, restAt := e.restAt, fresh := e.fresh,
    handler := e.handler, elected := e.elected, cause := e.cause, skip := e.skip, doomed := e.doomed, diverged := e.diverged }

/-- A crew of a kernel as it starts (R115). -/
def State.started (s : State) (k idx : Nat) : Crew :=
  let tag := if s.lch k Lch.tagged = 1 then BitVec.ofNat 32 (s.lch k Lch.tag) else 0#32
  { Crew.start k idx 0 (8 * (s.lch k Lch.allot + 1)) (sext56 (s.lch k Lch.argva)) tag with
    fresh := true, diverged := ((s.kern k).keepOf idx).diverged }

/-- Its paused commands go on from their progress, on the bay where a crew is placed again (R122), and find their engine anew (R27). -/
def State.unpause (s : State) (k idx b : Nat) : State :=
  let mine (m : Cmd) : Bool := decide (m.k = k) && decide (m.crew = idx) && decide (m.stage = .paused)
  let big (m : Cmd) : Bool :=
    decide (2 ^ 20 < (match m.kind with
      | .copy => ((copyShape m.desc).getD (0, 0)).2
      | .encode => 0
      | .cfetch .. => 0
      | _ => (listShape m.desc).1 * (listShape m.desc).2))
  (s.cmds.filter mine).foldl (fun s m => s.askForCmd m.id)
    { s with cmds := s.cmds.map (fun m => if mine m then { m with stage := .waiting, bay := b, leave := big m, engine := none } else m) }

/-- Put a crew into a resident slot of a side (R115, R135, R139); one whose tag names a pruned node is to be cancelled (R344). -/
def State.seat (s : State) (k idx b d slot : Nat) (c : Crew) : State :=
  let c := { c with bents := s.bentsOf k idx, debug := (s.debugSeg k).isSome, doomed := c.doomed.or (s.tagDoom (s.kern k).ctx c.tag) }
  let first := (s.ridsOf k).isEmpty
  let s := { s with crews := s.crews.set (64 * b + 32 * d + slot) c, serial := s.serial + 1, fresh := s.fresh + 1 }
  let s := s.setKern k (fun y =>
    { y.setKeep idx (fun e => { e with placed := true, save := none, bay := b, mma := none, restAt := none, fresh := false, diverged := none, doomed := none }) with
      nextCrew := max y.nextCrew (idx + 1) })
  let s := s.unpause k idx b
  if first then s.kick else s

/-- The trusses that hold a member of one of a crew's bents with affinity (R115, R137). -/
def State.affTrusses (s : State) (k idx : Nat) : List Nat :=
  let aff := (s.bentsOf k idx).filter (fun b => match (s.kern k).bents[b]? with | some x => x.aff | none => false)
  (s.crews.filter (fun p => decide (p.2.kernel = k) && aff.any (fun b => p.2.bents.contains b))).map (fun p => ridBay p.1 / 16)

/-- A bay agrees with a crew's affinity (R115): it lies in a truss that holds a member of one of the crew's bents, or no side of such a
truss that the kernel may use can take the crew. -/
def State.prefers (s : State) (k idx b blocks : Nat) (map : Option (List Nat)) : Bool :=
  let ts := s.affTrusses k idx
  ts.isEmpty || ts.contains (b / 16) ||
    !(s.planSides k).any (fun q => ts.contains (q.1 / 16) && s.canHost k q.1 q.2 blocks map)

/-- Place the next crew of a kernel on a side, where it can be hosted; a save slot that does not translate keeps its crew waiting, and one whose
walk is bad raises a context fault (R80). -/
def State.placeOn (s : State) (k b d : Nat) : Option State :=
  match s.nextCrewOf k with
  | none => none
  | some (idx, none) =>
    if s.canHost k b d (s.lch k Lch.allot + 1) none && s.prefers k idx b (s.lch k Lch.allot + 1) none then
      let free := s.freeSlots b d
      let slot := (free[s.choice 0 % max free.length 1]?).getD 0
      some ((s.enterBay b k none).seat k idx b d slot (s.started k idx))
    else none
  | some (idx, some sv) =>
    match s.saveReach k sv .read with
    | .ok l =>
      let m := s.savedMap k sv l
      if s.canHost k b d (s.blocksOf k sv l) (some m) && s.fuTakes b d k sv l && s.prefers k idx b (s.blocksOf k sv l) (some m) then
        let free := s.freeSlots b d
        let slot := (free[s.choice 0 % max free.length 1]?).getD 0
        some ((s.enterBay b k (some m)).seat k idx b d slot (s.resumed k idx sv l))
      else none
    | .fault _ _ _ => none
    | .bad cause => some (s.ctxFault (s.kern k).ctx cause)

/-- Place a crew on the first of some sides that takes it. -/
def State.placeFirst (s : State) (k : Nat) : List (Nat × Nat) → Option State
  | [] => none
  | (b, d) :: rest => match s.placeOn k b d with | some t => some t | none => s.placeFirst k rest

/-- Place all crews of a persistent kernel that are yet to be placed, or none; fuel bounds their number. -/
def State.placeAll (k : Nat) : Nat → State → Option State
  | 0, s => if (s.nextCrewOf k).isNone then some s else none
  | f + 1, s =>
    if (s.nextCrewOf k).isNone then some s
    else match s.placeFirst k (s.planSides k) with | some t => State.placeAll k f t | none => none

/-! ### Fetches into kernel slots (R122, R124, R395) -/

/-- What a segment's fetch finds: its words, or the aux value with an address, or a context fault. -/
inductive Segment where
  | ok (ws : List Word)
  | malformed (aux addr : Nat)
  | bad (cause : Nat)

/-- The first address of a segment that no access reaches (R124): its own, or the first one past the local addresses. -/
def firstOutside (va : Nat) : Nat := if outside va 1 then va else 2 ^ 55

def State.segment (s : State) (ctx va lines : Nat) : Segment :=
  if outside va (128 * lines) then .malformed 4 (firstOutside va)
  else
    match reachOf (fun v => s.xlatWalk ctx v .fetch) (pieces va (128 * lines)) with
    | .bad c => .bad c
    | .fault kind _ at_ => .malformed (if kind = 0x030 then 1 else 2) at_
    | .ok l =>
      match (List.range lines).find? (fun i => s.poisoned.contains (lineOf (paAt l (va + 128 * i)))) with
      | some i => .malformed 3 (va + 128 * i)
      | none =>
        let ws := s.wordsAt l
        if (firstFrom ws lines 0).isNone then .malformed 5 va else .ok ws

/-- One kernel slot that the cox fills. A segment of a slot map that cannot be refetched, or has no start mark, faults the kernel as the launch
segment would (log 90). -/
def State.fillSlot (s : State) (b k n va lines : Nat) : State :=
  match s.segment (s.kern k).ctx va lines with
  | .ok ws => s.setSlot b k n (.full va lines ws)
  | .malformed aux addr => (s.setSlot b k n .empty).faultKernel k 0x002 b addr aux
  | .bad cause => s.ctxFault (s.kern k).ctx cause

/-- The slots of a kernel on a bay that the cox is filling. -/
def State.coxFills (s : State) (b k : Nat) : List (Nat × Nat × Nat) :=
  (List.range 16).filterMap (fun n => match s.codeSlot b k n with | .filling va lines none => some (n, va, lines) | _ => none)

end Sys2Proof.Machine
end

