-- ==== Sys2Proof/Machine/Stopping.lean ====
section
/-! DEFINITION. What a stop message does to a crew and its commands, and the saving of a crew (R118, R120, R121, R149, R263). -/

namespace Sys2Proof.Machine

/-! ### The stop message (R118) -/

/-- Blocks of the MMA in the pipe that are computed by a clk: a stop lets the current block end. -/
def MmaRun.blocksBy (r : MmaRun) (clk : Nat) : Nat := max r.first (min 16 (clk + 1 - r.start))

/-- A wait that a stop does not abandon: it belongs to an operation already performed in part (R118). -/
def Wait.stays : Wait → Bool
  | .freeing .. => true
  | .peer _ => true
  | .ctxFault => true
  | _ => false

/-- The crew stands right after its MMA and has performed and committed nothing since: it can issue the MMA again. -/
def Crew.justAfter (c : Crew) (next : Nat) (r : MmaRun) : Bool :=
  !r.past && c.strokes.isEmpty && !c.wait.stays && decide (c.slot = r.slot) && decide (c.pc = next)

/-- The MMA of a crew stops after its current block (R118, R294): the reductions of later blocks are not issued, the number of completed
blocks is the crew's progress index, and the MMA's flag clears. The crew issues the MMA again after its return, and skips the blocks
that are done; where it has gone on past the MMA, the MMA itself is issued again for it, with the operands it had (log 63). -/
def State.stopMma (s : State) (rid : Nat) : State :=
  match s.crews.get? rid with
  | none => s
  | some c =>
    match c.mmaRun with
    | some r =>
      let n := r.blocksBy s.clock
      if n < 16 then
        let late (x : Red) : Bool := decide (x.mma = some r.id) && decide (n ≤ x.block)
        let back := c.justAfter (s.nextPc rid { c with pc := r.pc, slot := r.slot }) r
        let job : MmaJob := { r.job with rest := s.reds.filter late }
        let s := { s with reds := s.reds.filter (fun x => !late x), mmaFlags := s.mmaFlags.filter (fun f => decide (f.id ≠ r.id)) }
        (s.setCrew rid (fun c =>
          let c := { c.clearFlag r.job.flag with progress := n, resumed := none, mmaRun := none }
          if back then { c with pc := r.pc, restAt := some (r.slot, r.pc) } else { c with mma := some job, restAt := none }))
      else s.setCrew rid (fun c => { c with mmaRun := none })
    | none => s

/-- A stop pauses a command that moves bytes: it gives up its engine (R27). -/
def Cmd.paused (m : Cmd) : Cmd := if m.kind.moves && !m.aborted then { m with stage := .paused, fault := none, engine := none } else m

/-- A crew receives the stop message. In a suspension every uncommitted stroke that is not held is squashed, and all of them where the crew
met a context fault (R81). -/
def State.stopCrew (s : State) (rid : Nat) : State :=
  match s.crews.get? rid with
  | none => s
  | some c =>
    let whole := (s.suspending.get? (c.ctx s)).isSome || (s.kern c.kernel).barred || (s.kern c.kernel).parted
    let s := match c.strokes.findIdx? (fun st => (st.closed.isNone || whole) && (!st.held || decide (c.wait = .ctxFault))) with
      | some i => s.squashFrom rid i
      | none => s
    let s := s.stopMma rid
    let s := match c.wait with | .barrier .. => s.waitEnds c.kernel c.idx | _ => s
    let s := (s.cmds.filter (fun m => decide (m.k = c.kernel) && decide (m.crew = c.idx) && m.kind.moves)).foldl
      (fun s m => (s.fqAbandon (.cmd m.id)).mapCmd m.id Cmd.paused) s
    ((s.fqAbandon (.crew rid)).setCrew rid (fun c =>
      { c with stopping := true, trap := none, fault := none, mma := c.leftMma, drain := none, heldReady := c.heldReady && !c.strokes.isEmpty,
               granted := c.granted && !c.strokes.isEmpty, burst := false, gateSince := c.gateSince,
               wait := if c.wait.stays then c.wait else .none })).redsChanged

/-! ### Saving (R120, R121) -/

/-- What the read of a crew's liveness entry finds (R121): the blocks to save; the kind and the address of a fault; or a context fault. -/
inductive Live where
  | ok (blocks : Nat)
  | fault (kind at_ : Nat)
  | bad (cause : Nat)
  deriving DecidableEq, Repr

/-- The liveness entry of a crew (R121). Where its kernel slot is not full at the save, every block is saved (log 90). -/
def State.liveBlocks (s : State) (rid : Nat) (c : Crew) : Live :=
  let all := 2 ^ (c.allot / 8) - 1
  if s.lch c.kernel Lch.live = 0 then .ok all
  else
    match s.codeSlot (ridBay rid) c.kernel c.slot with
    | .full va _ _ =>
      let at_ := (va + 0x1000 + c.pc) % 2 ^ 64
      if outside at_ 4 then .fault 0x030 at_
      else
        match s.xlatWalk (c.ctx s) at_ .read with
        | .ok h => .ok (s.num h.pa 4 &&& all)
        | .fault kind _ => .fault kind at_
        | .bad cause => .bad cause
    | .filling .. => .ok all
    | .empty => .ok all

/-- The stop header (R120). -/
def State.stopHeader (s : State) (c : Crew) (neng blocks : Nat) : Nat :=
  setAll [(⟨128, 8⟩, neng), (⟨96, 32⟩, c.progress), (⟨64, 32⟩, blocks), (⟨32, 32⟩, s.handle c.kernel), (⟨0, 32⟩, c.idx)]

/-- A paused command's entry (R120). -/
def pausedEntry (m : Cmd) : List Byte := toBytes 32 m.desc ++ toBytes 8 m.done ++ toBytes 24 0

/-- The 40 KiB of a save slot; what it does not hold of the crew reads zero there (log 90). -/
def State.saveBytes (s : State) (rid : Nat) (c : Crew) (blocks : Nat) : List Byte :=
  let t : Trap := ⟨0x01D, 0, 0, c.low, 0, c.pc, c.slot⟩
  let ms := (s.cmds.filter (fun m => decide (m.k = c.kernel) && decide (m.crew = c.idx) && decide (m.stage = .paused))).take 32
  let stack := c.stack.reverse.flatMap stackEntry
  let es := ms.flatMap pausedEntry
  let regs := (List.range 32).flatMap (fun b => (List.range 256).flatMap (fun i =>
    toBytes 4 (if blocks.testBit b then (c.reg (8 * b + i / 32) (i % 32)).toNat else 0)))
  s.frameBytes rid c t ++ stack ++ toBytes (1536 - stack.length) 0 ++
    toBytes 64 (s.stopHeader c ms.length blocks) ++
    (s.slotMap (ridBay rid) c.kernel).flatMap (toBytes 8) ++
    es ++ toBytes (2048 - es.length) 0 ++ toBytes 1856 0 ++ regs

/-- A crew stands where it can be saved: resident, or placed while its context is suspended, so that a launch segment that cannot be fetched
holds up no suspension (R81; log 94). -/
def State.saveable (s : State) (c : Crew) : Bool :=
  decide (c.life = .pending) || decide (c.life = .active) || decide (c.life = .trapped) ||
    (decide (c.life = .placed) && (s.suspending.get? (c.ctx s)).isSome)

/-- Nothing of a stopping crew is still in progress: its strokes have committed, its results are written but for those that the frame
captures, its reductions are applied, its code fetches are complete, and no paused command awaits a peer. -/
def State.drained (s : State) (c : Crew) : Bool :=
  let mine (k i : Nat) : Bool := decide (k = c.kernel) && decide (i = c.idx)
  c.stopping && c.strokes.isEmpty && c.pends.all (fun p => match p.fu with | some f => !f.smx | none => false) &&
    decide (c.wait = .none ∨ c.wait = .ctxFault) && s.saveable c &&
    !s.reds.any (fun r => mine r.k r.crew) &&
    s.cmds.all (fun m => !mine m.k m.crew || (match m.kind with | .cfetch .. => false | .encode => true | _ => decide (m.stage = .paused))) &&
    !s.peers.any (fun p => mine p.k p.crew && p.cmd.isSome)

/-- Save slots of a kernel that hold no crew. -/
def State.saveFree (s : State) (k slot : Nat) : Bool :=
  decide (slot < s.lch k Lch.nsave) && !(s.kern k).keep.any (fun p => decide (p.2.save = some slot))

/-- What a kernel keeps of a crew that is saved. -/
def Keep.saving (e : Keep) (c : Crew) (slot : Nat) : Keep :=
  { e with save := some slot, savedTrapped := decide (c.life = .trapped) || (e.savedTrapped && decide (c.life = .placed)), handler := c.handler, elected := c.elected, cause := c.cause, skip := c.skip, tag := c.tag,
           mma := c.leftMma, restAt := c.restAt, fresh := c.fresh,
           doomed := c.doomed, diverged := c.diverged, windows := e.windows.map (fun w => { w with stop := true }) }

/-- Take a crew off its bay: it leaves its set, a swap and the A latch. -/
def State.unseat (s : State) (rid : Nat) : State :=
  let s := (s.leaveSets rid).dropLatch rid
  let s := s.setSide (ridBay rid) (ridSide rid) (fun d =>
    { d with swap := match d.swap with
        | some w => if w.inn = ridSlot rid then none else if w.out = some (ridSlot rid) then some { w with out := none } else some w
        | none => none })
  { s with crews := s.crews.erase rid, mmaFlags := s.mmaFlags.filter (fun f => decide (f.rid ≠ rid)) }

/-- Save a drained crew of a stopping kernel into a slot; a save area that cannot be written keeps it. -/
def State.saveCrew (s : State) (rid slot : Nat) (c : Crew) : State :=
  let k := c.kernel
  -- pages of the save area marked for a copy are copied first (R270)
  let s := (pieces (s.saveVa k slot) 40960).foldl (fun s p => s.makeWritable (c.ctx s) p.1) s
  match s.saveReach k slot .write with
  | .ok l =>
    let r := s.liveBlocks rid c
    let blocks := match r with | .ok b => b | .fault _ _ => 2 ^ (c.allot / 8) - 1 | .bad _ => 2 ^ (c.allot / 8) - 1
    let s := s.writePieces l (s.saveBytes rid c blocks)
    let s := match r with
      | .ok _ => s
      | .fault kind at_ => s.faultLog (c.ctx s) ⟨kind, false, false, bayCode (ridBay rid), s.handle k, c.idx, c.pc, at_, 0⟩
      | .bad cause => s.ctxFault (c.ctx s) cause
    let s := (s.setKern k (fun y => y.setKeep c.idx (fun e => e.saving c slot))).unseat rid
    ((s.tidy k).kick).post (.kernel k) .stopCutComplete
  | .fault _ _ _ => s
  | .bad cause => s.ctxFault (c.ctx s) cause

/-- The cut of a stopping kernel is complete (R110). -/
def State.cutDone (s : State) (k : Nat) : Bool :=
  let y := s.kern k
  decide (y.state = .stopping) && y.messaged && y.ending.isNone && (s.ridsOf k).isEmpty && !s.reds.any (fun r => decide (r.k = k)) &&
    s.cmds.all (fun m => !decide (m.k = k) || decide (m.stage = .paused))

end Sys2Proof.Machine
end

