-- ==== Sys2Proof/Machine/Tree.lean ====
section
/-! DEFINITION. The page engine's work on token trees: node records, leaves of the trunk and the crown, cuts, and the operations of the
tree instructions (R333 to R362). An operation that cannot be completed changes nothing. -/

namespace Sys2Proof.Machine

/-! ### Finding a tree (R333, R351) -/

/-- The slot of a live tree of a context by its handle, or the status code that refuses it. -/
def State.treeFor (s : State) (ctx h : Nat) : Except Nat Nat :=
  let slot := h % 2 ^ 16
  if s.fld .tree slot Tre.state ≠ 1 ∨ s.fld .tree slot Tre.gen ≠ h / 2 ^ 16 then .error 0x20
  else if s.fld .tree slot Tre.ctx ≠ ctx then .error 0x28
  else .ok slot

/-- The physical address of a tree page, or what the instruction meets there (R257). -/
def State.treePage (s : State) (ctx slot lane : Nat) (need : Need) : Except Stop Nat :=
  match s.xlatWalk ctx (s.treeVa slot) need with
  | .ok h => .ok h.pa
  | .fault kind copy => .error (.fault ⟨kind, s.treeVa slot, decide (need = .write), copy, lane⟩)
  | .bad cause => .error (.ctx cause)

/-- Write the node records that differ. -/
def State.putNodes (s : State) (tp : Nat) (old new : List Nat) : State :=
  (List.range 256).foldl (fun s n => if nodeOf old n = nodeOf new n then s else s.writeNum (nodeAt tp n) 16 (nodeOf new n)) s

/-- The nodes not free are these many more, or fewer. -/
def State.liveMore (s : State) (slot n : Nat) : State := s.setFld .tree slot Tre.nlive (s.fld .tree slot Tre.nlive + n)
def State.liveLess (s : State) (slot n : Nat) : State := s.setFld .tree slot Tre.nlive (s.fld .tree slot Tre.nlive - n)

/-! ### Paths and subtrees -/

/-- A node and its crown ancestors, upward; fuel bounds the depth. A parent that a TCOMMIT has taken away is none: its index, if a fork
took it again, holds another position. -/
def chainOf (ns : List Nat) : Nat → Nat → List Nat
  | 0, _ => []
  | f + 1, n =>
    let r := nodeOf ns n
    let p := Nod.parent.get r
    let q := nodeOf ns p
    if Nod.root.get r = 1 ∨ Nod.state.get q = 0 ∨ Nod.pos.get q + 1 ≠ Nod.pos.get r then [n] else n :: chainOf ns f p

/-- A node with its descendants that are not free, ascending. -/
def descOf (ns : List Nat) (n : Nat) : List Nat :=
  (List.range 256).filter (fun j => decide (Nod.state.get (nodeOf ns j) ≠ 0) && (chainOf ns 256 j).contains n)

/-- Set the state of some nodes. -/
def setStates (ns : List Nat) (l : List Nat) (st : Nat) : List Nat :=
  l.foldl (fun ns n => ns.set n (Nod.state.set (nodeOf ns n) st)) ns

/-! ### Leaves (R334) -/

/-- The page that a leaf of the trunk or of a view maps and where the leaf lies; none where it maps nothing. -/
def State.treeLeaf (s : State) (ctx va : Nat) : Except Stop (Option (Nat × Nat)) :=
  match s.walk ctx va with
  | .leaf e ea big => .ok (if big then none else some (slice 38 16 e * 2 ^ 16, ea))
  | .absent => .ok none
  | .bad cause => .error (.ctx cause)

/-- Where the level-3 entry of an address lies: the tables that software must provide, from a level down. -/
def State.leafSlotFrom (s : State) (ctx va lane : Nat) : List Nat → Nat → Except Stop Nat
  | [], t => .ok (t + 8 * pteIndex 3 va)
  | level :: rest, t =>
    let ea := t + 8 * pteIndex level va
    let e := s.num ea 8
    if s.poisoned.contains (lineOf ea) then .error (.ctx 4)
    else if !Pte.v e || (!pteReserved ctx level e && Pte.l e) then .error (.fault ⟨0x030, va, true, 0, lane⟩)
    else if pteReserved ctx level e then .error (.ctx 3)
    else s.leafSlotFrom ctx va lane rest (slice 38 8 e * 2 ^ 8)

def State.leafSlot (s : State) (ctx va lane : Nat) : Except Stop Nat :=
  s.leafSlotFrom ctx va lane [0, 1, 2] (s.cfg ctx Ctx.ptroot / 4 * 4 * 2 ^ 12)

/-- Write a leaf with V, L, W and KV. -/
def State.setLeaf (s : State) (ctx va ea page : Nat) : State := (s.writeNum ea 8 (page + 0x27)).tlbDrop ctx va

/-- Map an address to a new page, or to a page that others hold too. -/
def State.mapNew (s : State) (ctx va page lane : Nat) : Except Stop State :=
  match s.leafSlot ctx va lane with
  | .ok ea => .ok ((s.setLeaf ctx va ea page).setRcd .count (page / 2 ^ 16) 1)
  | .error x => .error x
def State.mapShared (s : State) (ctx va page lane : Nat) : Except Stop State :=
  match s.leafSlot ctx va lane with
  | .ok ea => .ok ((s.setLeaf ctx va ea page).countInc ctx page)
  | .error x => .error x

/-- Unmap an address: the count of the page it mapped falls (R265, R345). -/
def State.unmapLeaf (s : State) (ctx va : Nat) : Except Stop State :=
  match s.treeLeaf ctx va with
  | .ok (some (page, ea)) => .ok (((s.writeNum ea 8 0).tlbDrop ctx va).countDec ctx page)
  | .ok none => .ok s
  | .error x => .error x

def State.unmapAll (s : State) (ctx : Nat) (vas : List Nat) : Except Stop State := vas.foldlM (fun s va => s.unmapLeaf ctx va) s

/-- Supply pages for an operation, or the fault-queue entry of kind 0x034 that it joins for an address (R266, R351). -/
def State.treeSupply (s : State) (ctx n va lane : Nat) : Except Stop (List Nat × State) :=
  match s.supply ctx n with
  | .ok r => .ok r
  | .error none => .error (.fault ⟨0x034, va, true, 0, lane⟩)
  | .error (some cause) => .error (.ctx cause)

/-! ### Cuts (R340, R344) -/

/-- Crews of the tree's context whose tags name nodes that are cut (R24): those on bays are to be cancelled, saved ones when they are placed
again. -/
def State.doom (s : State) (ctx slot : Nat) (tags : List Nat) : State :=
  { s with
    crews := s.crews.map (fun (p : Nat × Crew) =>
      if p.2.ctx s = ctx ∧ tags.contains p.2.tag.toNat ∧ p.2.life ≠ .exited then (p.1, { p.2 with doomed := some slot }) else p)
    kernels := s.kernels.map (fun (p : Nat × Kernel) => (p.1, { p.2 with keep := p.2.keep.map (fun (q : Nat × Keep) =>
      if p.2.ctx = ctx ∧ q.2.save.isSome ∧ tags.contains q.2.tag.toNat then (q.1, { q.2 with doomed := some slot }) else q) })) }

/-- Cut live nodes away: pruned, their views unmapped. -/
def State.cutNodes (s : State) (ctx slot : Nat) (ns : List Nat) (l : List Nat) : Except Stop (State × List Nat) :=
  match s.unmapAll ctx (l.map (s.viewVa slot)) with
  | .ok s => .ok (s.doom ctx slot (l.map (fun n => nodeTag slot n (nodeOf ns n))), setStates ns l 6)
  | .error x => .error x

/-! ### The instructions -/

/-- What a tree operation comes to: the new state and its status. -/
abbrev TreeOp := Except Stop (State × Nat)

/-- The lowest free tree slot. -/
def State.freeTree (s : State) : Option Nat := (List.range 65536).find? (fun n => decide (s.fld .tree n Tre.state = 0))

/-- A live tree of a context has a window. -/
def State.windowLive (s : State) (ctx win : Nat) : Bool :=
  (s.listed .tree).any (fun n => decide (s.fld .tree n Tre.state = 1) && decide (s.fld .tree n Tre.ctx = ctx) &&
    decide (s.fld .tree n Tre.window = win))

/-- A window is refused (R352): outside local space, its tree page's leaf absent or unfit, or over a live tree of the context. -/
def State.windowBad (s : State) (ctx win : Nat) : Except Stop Bool :=
  if win.testBit 25 then .ok true
  else
    match s.walk ctx (win * 2 ^ 30 + 0x3EFF_0000) with
    | .bad cause => .error (.ctx cause)
    | .absent => .ok true
    | .leaf e _ big =>
      .ok (big || !Pte.w e || Pte.kv e || Pte.m e ||
        s.windowLive ctx win)

/-- The record of a new tree. -/
def treeRecord (win gen cls kvsl ctx : Nat) : Nat :=
  setAll [(Tre.window, win), (Tre.gen, gen), (Tre.cls, cls), (Tre.kvsl, kvsl), (Tre.ctx, ctx), (Tre.state, 1)]

/-- TNEW (R333, R352). -/
def State.treeNew (s : State) (ctx x lane : Nat) : TreeOp :=
  let nt := s.fld .context ctx Ctx.ntrees
  let win := x % 2 ^ 26
  if s.cfg ctx Ctx.treemax ≤ nt then .ok (s, 0x24)
  else
    match s.freeTree, s.windowBad ctx win with
    | none, _ => .ok (s, 0x24)
    | some _, .error e => .error e
    | some _, .ok true => .ok (s, 0x29)
    | some slot, .ok false =>
      let gen := s.fld .tree slot Tre.gen % 65535 + 1
      let s := s.setRcd .tree slot (treeRecord win gen (x / 2 ^ 26 % 64) (s.cfg ctx Ctx.kvsl) ctx)
      match s.treePage ctx slot lane .write with
      | .error e => .error e
      | .ok tp => .ok ((s.write tp (List.replicate 0x8000 0#8)).setFld .context ctx Ctx.ntrees (nt + 1), gen * 2 ^ 16 + slot)

/-- Pages of the trunk. -/
def State.trunkPages (s : State) (slot : Nat) : Nat := (s.fld .tree slot Tre.tlen + s.spp slot - 1) / s.spp slot

/-- TFREE (R353). -/
def State.treeFree (s : State) (ctx slot lane : Nat) : TreeOp :=
  match s.treePage ctx slot lane .write with
  | .error e => .error e
  | .ok tp =>
    let ns := s.nodes tp
    match s.cutNodes ctx slot ns ((List.range 256).filter (fun n => nodeLive (nodeOf ns n))) with
    | .error e => .error e
    | .ok (t, ns') =>
      match t.unmapAll ctx ((List.range (s.trunkPages slot)).map (s.trunkVa slot)) with
      | .error e => .error e
      | .ok t => .ok ((t.putNodes tp ns ns').setFld .tree slot Tre.state 2, 0)

/-- Map new pages of the trunk from index i on. -/
def State.growTrunk (s : State) (ctx slot lane : Nat) : Nat → List Nat → Except Stop State
  | _, [] => .ok s
  | i, q :: qs =>
    match s.mapNew ctx (s.trunkVa slot i) q lane with
    | .ok s => s.growTrunk ctx slot lane (i + 1) qs
    | .error e => .error e

/-- TAPPEND (R354). -/
def State.treeAppend (s : State) (ctx slot n lane : Nat) : TreeOp :=
  let tlen := s.fld .tree slot Tre.tlen
  let last := (tlen + n - 1) / s.spp slot
  let first := s.trunkPages slot
  if s.fld .tree slot Tre.nlive ≠ 0 then .ok (s, 0x25)
  else if 16126 < last then .ok (s, 0x27)
  else
    match s.treeSupply ctx (last + 1 - first) (s.trunkVa slot first) lane with
    | .error e => .error e
    | .ok (qs, s) =>
      match s.growTrunk ctx slot lane first qs with
      | .error e => .error e
      | .ok s => .ok (s.setFld .tree slot Tre.tlen (tlen + n), 0)

/-- The parent bytes of a shape follow R346: each 0xFF or an index below its own, the first 0xFF. -/
def shapeOk (ps : List Nat) : Bool :=
  (ps.zip (List.range ps.length)).all (fun p => decide (p.1 = 0xFF) || decide (p.1 < p.2))

/-- TSHAPE (R346, R355): the shape is written whole; n = 0 makes it undefined. -/
def State.treeShape (s : State) (ctx t n : Nat) (parents : List Nat) : State × Nat :=
  let ps := parents.take n
  if shapeOk ps then (s.setRcd .shape (32 * ctx + t) (ofBytes (ps.map (BitVec.ofNat 8)) + n * 2 ^ 512), 0) else (s, 0x26)

/-! ### TFORK (R342, R356) -/

/-- The parent byte of template node i of a shape of a context. -/
def State.shapeParent (s : State) (ctx t i : Nat) : Nat := s.fld .shape (32 * ctx + t) (Shape.parent i)

/-- The template nodes that are not suppressed, each with its parent byte and its depth below the fork point, ascending. -/
def State.forkNodes (s : State) (ctx t sup : Nat) : List (Nat × Nat × Nat) :=
  (List.range (s.fld .shape (32 * ctx + t) Shape.n)).foldl (fun l i =>
    let p := s.shapeParent ctx t i
    if sup.testBit i then l
    else if p = 0xFF then l ++ [(i, p, 1)]
    else match l.find? (fun x => decide (x.1 = p)) with | some x => l ++ [(i, p, x.2.2 + 1)] | none => l) []

/-- Where a fork begins: the parent node or the trunk tip, position and depth of a node that hangs from it. -/
structure ForkAt where
  parent : Option Nat
  pos : Nat
  depth : Nat
  deriving DecidableEq, Repr

/-- The lowest run of k free indices. -/
def freeRun (ns : List Nat) (k : Nat) : Option Nat :=
  (List.range (257 - k)).find? (fun f => (List.range k).all (fun j => decide (Nod.state.get (nodeOf ns (f + j)) = 0)))

/-- The record of a forked node: shape t, template node i, generation, parent node, place. -/
def forkRecord (slot n gen t i : Nat) (parent : Option Nat) (pos depth : Nat) : Nat :=
  setAll [(Nod.tag, slot * 2 ^ 16 + gen * 256 + n), (Nod.pos, pos), (Nod.root, if parent.isNone then 1 else 0), (Nod.tmpl, t),
    (Nod.tnode, i), (Nod.depth, depth), (Nod.parent, parent.getD 0), (Nod.gen, gen), (Nod.state, 1)]

/-- The view of a new node is mapped (R342): a supply page where its slot begins a page, else the page of the position before it. -/
def State.mapView (s : State) (ctx slot n pos : Nat) (parent : Option Nat) (qs : List Nat) (lane : Nat) :
    Except Stop (State × List Nat) :=
  let va := s.viewVa slot n
  if pos % s.spp slot = 0 then
    match qs with
    | q :: rest => match s.mapNew ctx va q lane with | .ok s => .ok (s, rest) | .error e => .error e
    | [] => .error (.fault ⟨0x034, va, true, 0, lane⟩)
  else
    let src := match parent with | some p => s.viewVa slot p | none => s.trunkVa slot ((pos - 1) / s.spp slot)
    match s.treeLeaf ctx src with
    | .error e => .error e
    | .ok none => .error (.fault ⟨0x030, src, false, 0, lane⟩)
    | .ok (some (page, _)) => match s.mapShared ctx va page lane with | .ok s => .ok (s, qs) | .error e => .error e

/-- Make the nodes of a fork, the k-th at first + k: state, records and supply pages left. -/
def State.makeNodes (s : State) (ctx slot tp gen t first lane : Nat) (at_ : ForkAt) (K : List (Nat × Nat × Nat)) :
    List (Nat × Nat × Nat × Nat) → List Nat → List Nat → Except Stop (State × List Nat)
  | [], ns, _ => .ok (s, ns)
  | (k, i, p, d) :: rest, ns, qs =>
    let n := first + k
    let parent := if p = 0xFF then at_.parent else some (first + K.findIdx (fun x => decide (x.1 = p)))
    let pos := at_.pos + d - 1
    match s.mapView ctx slot n pos parent qs lane with
    | .error e => .error e
    | .ok (s, qs) =>
      (s.writeNum (draftAt tp n) 8 0).makeNodes ctx slot tp gen t first lane at_ K rest
        (ns.set n (forkRecord slot n gen t i parent pos (at_.depth + d - 1))) qs

/-- The fork point that operand b names, or the code that refuses it. -/
def State.forkAt (s : State) (slot b : Nat) (ns : List Nat) : Except Nat ForkAt :=
  if b.testBit 16 then .ok ⟨none, s.fld .tree slot Tre.tlen, 1⟩
  else
    match findNode ns (b % 2 ^ 16) with
    | none => .error 0x21
    | some p =>
      let r := nodeOf ns p
      if Nod.state.get r = 6 then .error 0x21
      else if Nod.state.get r = 4 then .error 0x22
      else .ok ⟨some p, Nod.pos.get r + 1, Nod.depth.get r + 1⟩

/-- TFORK (R342, R356, R357). -/
def State.treeFork (s : State) (ctx slot b sup lane : Nat) : TreeOp :=
  match s.treePage ctx slot lane .write with
  | .error e => .error e
  | .ok tp =>
    let ns := s.nodes tp
    let t := b / 2 ^ 24 % 32
    match s.forkAt slot b ns with
    | .error code => .ok (s, code)
    | .ok at_ =>
      let K := s.forkNodes ctx t sup
      if s.fld .shape (32 * ctx + t) Shape.n = 0 then .ok (s, 0x26)
      else if K.isEmpty then .ok (s, 0)
      else if K.any (fun x => decide (255 < at_.depth + x.2.2 - 1) || decide (16126 < (at_.pos + x.2.2 - 1) / s.spp slot)) then .ok (s, 0x27)
      else
        match freeRun ns K.length with
        | none => .ok (s, 0x23)
        | some first =>
          let fresh := (K.zip (List.range K.length)).filter (fun x => decide ((at_.pos + x.1.2.2 - 1) % s.spp slot = 0))
          match s.treeSupply ctx fresh.length (s.viewVa slot (first + (fresh.headD ((0, 0, 0), 0)).2)) lane with
          | .error e => .error e
          | .ok (qs, s) =>
            let gen := s.fld .tree slot Tre.fgen % 255 + 1
            match s.makeNodes ctx slot tp gen t first lane at_ K ((List.range K.length).zip K) ns qs with
            | .error e => .error e
            | .ok (s, ns') =>
              .ok (((s.putNodes tp ns ns').setFld .tree slot Tre.fgen gen).liveMore slot K.length,
                gen * 2 ^ 24 + K.length * 2 ^ 16 + first * 2 ^ 8)

/-! ### TPRUNE and TCOMMIT (R358, R359) -/

/-- TPRUNE (R358). -/
def State.treePrune (s : State) (ctx slot ref lane : Nat) : TreeOp :=
  match s.treePage ctx slot lane .write with
  | .error e => .error e
  | .ok tp =>
    let ns := s.nodes tp
    match findNode ns ref with
    | none => .ok (s, 0x21)
    | some n =>
      if !nodeLive (nodeOf ns n) then .ok (s, 0x22)
      else
        let l := (descOf ns n).filter (fun j => nodeLive (nodeOf ns j))
        match s.cutNodes ctx slot ns l with
        | .error e => .error e
        | .ok (s, ns') => .ok (s.putNodes tp ns ns', l.length * 2 ^ 8)

/-- A trunk page is to be written: a shared one is copied first (R268). -/
def State.trunkForWrite (s : State) (ctx va lane : Nat) : Except Stop (State × Nat) :=
  match s.xlatWalk ctx va .write with
  | .ok h => .ok (s, h.pa)
  | .bad cause => .error (.ctx cause)
  | .fault kind copy =>
    if copy = 1 then
      match s.treeSupply ctx 1 va lane with
      | .error e => .error e
      | .ok (qs, _) => .ok ((s.kvCopy ctx va).2, qs.headD 0)
    else .error (.fault ⟨kind, va, true, copy, lane⟩)

/-- One path node goes into the trunk (R359): its page becomes the trunk page, or its slot is copied into it. -/
def State.commitNode (s : State) (ctx slot lane : Nat) (n r : Nat) : Except Stop State :=
  let pos := Nod.pos.get r
  let i := pos / s.spp slot
  let o := pos % s.spp slot
  let sz := 4096 / 2 ^ s.fld .tree slot Tre.kvsl
  let va := s.trunkVa slot i
  match s.treeLeaf ctx (s.viewVa slot n) with
  | .error e => .error e
  | .ok none => .error (.fault ⟨0x030, s.viewVa slot n, false, 0, lane⟩)
  | .ok (some (page, _)) =>
    if o = 0 then s.mapShared ctx va page lane
    else
      match s.trunkForWrite ctx va lane with
      | .error e => .error e
      | .ok (s, pa) => .ok (s.write (pa + sz * o) (s.bytes sz (page + sz * o)))

/-- TCOMMIT (R359). -/
def State.treeCommit (s : State) (ctx slot ref lane : Nat) : TreeOp :=
  match s.treePage ctx slot lane .write with
  | .error e => .error e
  | .ok tp =>
    let ns := s.nodes tp
    match findNode ns ref with
    | none => .ok (s, 0x21)
    | some tip =>
      let path := (chainOf ns 256 tip).reverse
      if path.any (fun n => decide (Nod.state.get (nodeOf ns n) ≠ 3)) then .ok (s, 0x22)
      else
        match path.foldlM (fun s n => s.commitNode ctx slot lane n (nodeOf ns n)) s with
        | .error e => .error e
        | .ok s =>
          let below := (descOf ns tip).filter (fun n => decide (n ≠ tip))
          let r := nodeOf ns tip
          let ns1 := below.foldl (fun l n =>
            let x := nodeOf ns n
            let child := decide (Nod.root.get x = 0) && decide (Nod.parent.get x = tip)
            let x := Nod.depth.set x (Nod.depth.get x - Nod.depth.get r)
            l.set n (if child then Nod.root.set (Nod.parent.set x 0) 1 else x)) ns
          let others := (List.range 256).filter (fun n => nodeLive (nodeOf ns n) && !below.contains n && !path.contains n)
          match s.cutNodes ctx slot ns1 others with
          | .error e => .error e
          | .ok (s, ns2) =>
            match s.unmapAll ctx (path.map (s.viewVa slot)) with
            | .error e => .error e
            | .ok s =>
              .ok (((s.putNodes tp ns (setStates ns2 path 0)).setFld .tree slot Tre.tlen (Nod.pos.get r + 1)).liveLess slot path.length,
                path.length * 2 ^ 8)

/-! ### TMASK, TINFO, TACC (R347, R348, R360 to R362) -/

/-- The scribe's word for a query and a key group. -/
def maskWord (ns : List Nat) (b : Nat) : Nat :=
  match findNode ns (b % 2 ^ 16) with
  | none => 0
  | some n =>
    let g := b / 2 ^ 16 % 8
    (chainOf ns 256 n).foldl (fun x j => if j / 32 = g ∧ nodeLive (nodeOf ns j) = true then x ||| 2 ^ (j % 32) else x) 0

/-- A drafted query becomes verifying. -/
def verifyQuery (ns : List Nat) (b : Nat) : List Nat :=
  match findNode ns (b % 2 ^ 16) with
  | some n => if Nod.state.get (nodeOf ns n) = 1 then setStates ns [n] 2 else ns
  | none => ns

/-- The verdict on a node (R347), from its draft entry, u and p; with whether its nan bit is set. -/
def verdict (draft u p : Nat) : Bool × Bool :=
  let q := if draft.testBit 48 then f16.val (slice 47 32 draft) else Num.ofInt 1
  let p := f32.val p
  if p.isNan || q.isNan then (false, true)
  else if !(Num.cmp Num.zero p == some .lt) then (false, false)
  else if !(Num.cmp Num.zero q == some .lt) then (true, false)
  else if q.isInf then (p.isInf, false)
  else if p.isInf then (true, false)
  else (Num.cmp (Num.mul (.fin false u 1 (-16)) q) p == some .lt, false)

/-- A histogram entry after a verdict (R348). -/
def counted (h : Nat) (accept : Bool) : Nat :=
  let tried := h % 2 ^ 32
  if tried = 2 ^ 32 - 1 then h else (h / 2 ^ 32 + accept.toNat) % 2 ^ 32 * 2 ^ 32 + tried + 1

/-- The address of the histogram entry of a node (R337, R348). -/
def histAt (tp r : Nat) : Nat := tp + 0x4000 + 0x200 * Nod.tmpl.get r + 8 * (min (Nod.depth.get r) 64 - 1)

/-- One lane of TACC: the state, the records and the status. -/
def State.judgeNode (s : State) (tp : Nat) (ns : List Nat) (b p : Nat) : State × List Nat × Nat :=
  match findNode ns (b % 2 ^ 16) with
  | none => (s, ns, 0x21)
  | some n =>
    let r := nodeOf ns n
    if Nod.state.get r = 1 ∨ Nod.state.get r = 2 then
      let (accept, nan) := verdict (s.num (draftAt tp n) 8) (b / 2 ^ 16 % 2 ^ 16) p
      let r' := Nod.state.set (if nan then Nod.nan.set r 1 else r) (if accept then 3 else 4)
      (s.writeNum (histAt tp r) 8 (counted (s.num (histAt tp r) 8) accept), ns.set n r', accept.toNat)
    else (s, ns, 0x22)

/-! ### Cancellation is complete (R344, R353) -/

/-- The pruned nodes of a tree become free; a freeing tree with none left is gone (R340, R353). -/
def State.freeNodes (s : State) (slot : Nat) : State :=
  let ctx := s.fld .tree slot Tre.ctx
  let freeing := decide (s.fld .tree slot Tre.state = 2)
  -- a live tree may have taken the window of a freeing one
  let mine := !freeing || !s.windowLive ctx (s.fld .tree slot Tre.window)
  let s :=
    if !mine then s
    else
      match s.treePage ctx slot 0 .write with
      | .ok tp =>
        let ns := s.nodes tp
        let l := (List.range 256).filter (fun n => decide (Nod.state.get (nodeOf ns n) = 6))
        (s.putNodes tp ns (setStates ns l 0)).liveLess slot l.length
      | .error _ => s
  if freeing then
    ((s.setFld .tree slot Tre.nlive 0).setFld .tree slot Tre.state 0).setFld .context ctx Ctx.ntrees (s.fld .context ctx Ctx.ntrees - 1)
  else s

end Sys2Proof.Machine
end

