-- ==== Sys2Proof/Machine/EvContext.lean ====
section
/-! DEFINITION. The life of contexts: boot and reset of the module, the context commands, context faults, suspension and destruction
(R73 to R82, R428). -/

namespace Sys2Proof.Machine

/-! ### Boot and reset (R13, R219, R428) -/

/-- MODULE_BOOT (R428): the place says whether the firmware image passes its check. Every record takes its reset state, and context 0 is
created and activated, its configuration read as it stands; the boot is no command and leaves its cseq 0 (log 87). -/
def execModuleBoot (s : State) : Host.Outcome State Fault Refusal :=
  match s.place with
  | .boot ok =>
    if s.power ≠ .reset then .next s
    else if ok then .next ({ s with power := .up, sys := [] }.setFld .context 0 Ctx.state 2)
    else .next { s with power := .failed }
  | _ => .next s

/-- MODULE_RESET (R13, R219, R428): everything but the module's surroundings is as after reset, until the next boot. -/
def execModuleReset (s : State) : Host.Outcome State Fault Refusal :=
  .next { State.reset with
    mac := s.mac, hostMac := s.hostMac, watts := s.watts, temp0 := s.temp0, temp1 := s.temp1, coolant := s.coolant, fresh := s.fresh, place := s.place }

/-! ### Commands (R76 to R79) -/

/-- A context command is done or refused: it counts, with its status (R76). -/
def State.ctxDone (s : State) (n st : Nat) : State :=
  (s.setFld .context n Ctx.cseq (s.fld .context n Ctx.cseq + 1)).setFld .context n Ctx.cstat st

/-- Run a context command other than DESTROY at its place: refused while busy, else the status that it reports now, or none. -/
def ctxCommand (s : State) (f : State → Nat → Option Nat × State) : Host.Outcome State Fault Refusal :=
  atCtx s (fun n =>
    if s.fld .context n Ctx.busy = 1 then s.ctxDone n 1
    else match f s n with | (some st, t) => t.ctxDone n st | (none, t) => t)

/-- The quotas of all contexts for one kind, with those of context n as its record has them (R79): of the
other contexts those that are not destroyed count, by the configuration that they latched (log 87). -/
def State.quotas (s : State) (n : Nat) (f : Fld) : Nat :=
  s.fld .context n f +
    (((s.listed .context).filter (fun m => decide (m ≠ n) && decide (s.fld .context m Ctx.state ≠ 0))).map (fun m => s.cfg m f)).sum

/-- The record of context n is valid for CREATE and RESUME (R79). -/
def State.ctxValid (s : State) (n : Nat) : Bool :=
  let f (x : Fld) : Nat := s.fld .context n x
  decide (f Ctx.kvsl ≤ 4) && decide (f Ctx.fsz ≤ 8) && decide (f Ctx.osz ≤ 10) && decide (f Ctx.ssz ≤ 8) &&
    decide (f Ctx.trapva ≠ 0) && decide (f Ctx.flogva ≠ 0) &&
    (decide (f Ctx.ologva ≠ 0) || (decide (f Ctx.record = 0) && decide (f Ctx.replay = 0))) &&
    !(decide (f Ctx.record = 1) && decide (f Ctx.replay = 1)) &&
    decide (f Ctx.pinmax ≤ 114688) && decide (f Ctx.qmax ≤ 4096) && decide (f Ctx.treemax ≤ 65536) &&
    decide (s.quotas n Ctx.pinmax ≤ 114688) && decide (s.quotas n Ctx.qmax ≤ 4096) && decide (s.quotas n Ctx.treemax ≤ 65536)

/-- The configuration is read (R74). -/
def State.readCfg (s : State) (n : Nat) : State := { s with ctxCfg := s.ctxCfg.set n (s.rcd .context n) }

/-- Set several fields of a context's record. -/
def State.ctxSet (s : State) (n : Nat) (l : List (Fld × Nat)) : State := l.foldl (fun s p => s.setFld .context n p.1 p.2) s

/-- CREATE (R77). -/
def execCtxCreate (s : State) : Host.Outcome State Fault Refusal :=
  ctxCommand s (fun s n =>
    if s.fld .context n Ctx.state ≠ 0 then (some 2, s)
    else if !s.ctxValid n then (some 3, s)
    else
      let s := s.ctxSet n [(Ctx.ntrees, 0), (Ctx.nqueues, 0), (Ctx.npinned, 0), (Ctx.fput, 0), (Ctx.oput, 0), (Ctx.sput, 0),
        (Ctx.flost, 0), (Ctx.cause, 0), (Ctx.state, 1)]
      (some 0, (s.readCfg n).setLog n (fun _ => CtxLog.init)))

/-- ACTIVATE (R77): the cox may take in the context's kernels. -/
def execCtxActivate (s : State) : Host.Outcome State Fault Refusal :=
  ctxCommand s (fun s n =>
    if s.fld .context n Ctx.state ≠ 1 then (some 2, s) else (some 0, (s.setFld .context n Ctx.state 2).kick))

/-! ### The suspension sequence (R81) -/

/-- Kernels of a context. -/
def State.kernelsOf (s : State) (n : Nat) : List (Nat × Kernel) := s.kernels.filter (fun p => decide (p.2.ctx = n))

/-- Steps 1 and 2 of R81: no further admission; kernels that can be saved are stopped, with every kernel of the stop cut, and the others
are killed. busy stays set until they have stopped, after a context fault too (log 90). -/
def State.suspendKernels (s : State) (n : Nat) (how : Suspending) : State :=
  let s := ({ s with suspending := s.suspending.set n how }).setFld .context n Ctx.busy 1
  let s := ((s.kernelsOf n).foldl (fun s p => s.withdraw p.1) s).refreshCandidates
  let ks := ((s.kernelsOf n).filter (fun p => p.2.stoppable)).map Prod.fst
  let s := (ks.filter (fun k => decide (s.lch k Lch.nsave = 0))).foldl (fun s k =>
    (s.setKern k (fun y => { y with killLater := true })).killKernel k 2) s
  let s := s.stopKernels (s.stopSet s.kernels.length (ks.filter (fun k => decide (s.lch k Lch.nsave ≠ 0)))) .suspend
  -- crews left of a kernel that has faulted stop too (log 16)
  let s := ((s.kernelsOf n).filter (fun p => decide (p.2.state = .faulted))).foldl (fun s p => (s.ridsOf p.1).foldl State.killCrew s) s
  s.post (.ctx n) .suspensionComplete

/-- SUSPEND (R77, R78, R81). -/
def execCtxSuspend (s : State) : Host.Outcome State Fault Refusal :=
  ctxCommand s (fun s n =>
    if n = 0 ∨ s.fld .context n Ctx.state ≠ 2 then (some 2, s) else (none, s.suspendKernels n .suspend))

/-- What the order log keeps for a context when its configuration is read again: a change between recording and replay begins anew. -/
def CtxLog.resumed (l : CtxLog) (same : Bool) (oget : Nat) : CtxLog :=
  if same then { l with cur := match l.cur with | some (i, u) => if i = oget then some (i, u) else none | none => none }
  else { CtxLog.init with nextKnum := l.nextKnum, logged := l.logged }

/-- RESUME (R77): the configuration is read again. -/
def execCtxResume (s : State) : Host.Outcome State Fault Refusal :=
  ctxCommand s (fun s n =>
    if s.fld .context n Ctx.state ≠ 3 then (some 2, s)
    else if !s.ctxValid n then (some 3, s)
    else
      let same := decide (s.cfg n Ctx.record = s.fld .context n Ctx.record) && decide (s.cfg n Ctx.replay = s.fld .context n Ctx.replay)
      let s := (s.readCfg n).setLog n (fun l => l.resumed same (s.fld .context n Ctx.oget))
      (some 0, (s.setFld .context n Ctx.state 2).kick))

/-- CLEAR (R77): the cause is kept for reading. -/
def execCtxClear (s : State) : Host.Outcome State Fault Refusal :=
  ctxCommand s (fun s n => if s.fld .context n Ctx.state ≠ 4 then (some 2, s) else (some 0, s.setFld .context n Ctx.state 3))

/-- DESTROY (R77, R78, R82): while busy it abandons the command in progress, which reports 0x02. -/
def execCtxDestroy (s : State) : Host.Outcome State Fault Refusal :=
  atCtx s (fun n =>
    if n = 0 ∨ s.fld .context n Ctx.state = 0 then s.ctxDone n 2
    else
      let s :=
        match s.suspending.get? n with
        | some .suspend => s.ctxDone n 2
        | some .destroy => s.ctxDone n 2
        | some .fault => s
        | none => s
      s.suspendKernels n .destroy)

/-- UNKNOWN_COMMAND (R78, R91): of a context record or a queue record. -/
def execUnknownCommand (s : State) : Host.Outcome State Fault Refusal :=
  match s.place with
  | .ctx n => .next (s.ctxDone n (if s.fld .context n Ctx.busy = 1 then 1 else 4))
  | .queue q => .next ((s.setFld .queue q Que.cseq (s.fld .queue q Que.cseq + 1)).setFld .queue q Que.cstat 4)
  | _ => .next s

/-- CONTEXT_FAULT (R77, R78, R80): the context becomes faulted, and its kernels are stopped as by a suspension, with busy set meanwhile
(log 90). -/
def execContextFault (s : State) : Host.Outcome State Fault Refusal :=
  match s.place with
  | .ctxCause n cause =>
    let st := s.fld .context n Ctx.state
    if st = 0 ∨ 3 < st then .next s
    else
      let s := s.ctxSet n [(Ctx.cause, cause), (Ctx.state, 4)]
      let s :=
        match s.suspending.get? n with
        | some .suspend => { s.ctxDone n 2 with suspending := s.suspending.set n .fault }
        | some .destroy => s
        | some .fault => s
        | none => if st = 2 then s.suspendKernels n .fault else s
      .next (s.faultMessage n cause)
  | _ => .next s

/-! ### The end of a suspension or destruction (R81, R82) -/

/-- Nothing of a context's kernels runs, is being stopped or is about to retire, and no reduction of it is in flight (R81); for a
destruction no posted peer access either (R111). -/
def State.ctxQuiet (s : State) (n : Nat) (how : Suspending) : Bool :=
  (s.kernelsOf n).all (fun p => p.2.ending.isNone &&
    (match p.2.state with
     | .admitted => false | .placing => false | .running => false | .trapped => false | .stopping => false
     | .posted => true | .blocked => true | .ready => true | .stopped => true | .retired => true | .faulted => true)) &&
    !s.crews.any (fun p => decide (p.2.ctx s = n)) && !s.reds.any (fun r => decide (r.ctx = n)) &&
    (decide (how ≠ .destroy) || !s.peers.any (fun p => decide (p.ctx = n)))

/-- The stash pages of a context are released; the pin list is kept (R81). -/
def State.dropStash (s : State) (n : Nat) : State :=
  { s with bays := s.bays.map (fun (p : Nat × Bay) => (p.1, { p.2 with stash := p.2.stash.filter (fun m => decide (m.ctx ≠ n)) })) }

/-- Every barrier that expects arrivals of a context's kernels becomes orphaned, and its commands end (R82). -/
def State.orphanAll (s : State) (n : Nat) : State :=
  let s := (s.regns.filter (fun r => decide ((s.kern r.k).ctx = n))).foldl State.orphan s
  (s.cmds.filter (fun m => decide (m.ctx = n))).foldl (fun s m => s.endCmd { m with aborted := true }) s

/-- Its kernels retire (R82, R110). -/
def State.retireAll (s : State) (n : Nat) : State :=
  ((s.kernelsOf n).filter (fun p => decide (p.2.state ≠ .retired))).foldl (fun s p =>
    s.retire p.1 (if p.2.state = .faulted then 3 else 2)) s

/-- The pages that a tree's leaves map: its trunk and the views of its live nodes. -/
def State.treePages (s : State) (n slot : Nat) : List Nat :=
  let views := match s.treePage n slot 0 .read with
    | .ok tp => let ns := s.nodes tp; ((List.range 256).filter (fun i => nodeLive (nodeOf ns i))).map (s.viewVa slot)
    | .error _ => []
  ((List.range (s.trunkPages slot)).map (s.trunkVa slot) ++ views).filterMap (fun va =>
    match s.treeLeaf n va with | .ok (some (page, _)) => some page | .ok none => none | .error _ => none)

/-- Its trees are removed and their references dropped; page tables stay (R82). -/
def State.dropTrees (s : State) (n : Nat) : State :=
  ((s.listed .tree).filter (fun t => decide (s.fld .tree t Tre.ctx = n) && decide (s.fld .tree t Tre.state ≠ 0))).foldl (fun s t =>
    let s := if s.fld .tree t Tre.state = 1 then (s.treePages n t).foldl (fun s page => s.countDec n page) s else s
    (s.setFld .tree t Tre.state 0).setFld .tree t Tre.nlive 0) s

/-- Its queues, region declarations, shapes, comparators, pins, TLB entries and fault-queue entries are removed (R82, R346, R391). -/
def State.dropRecords (s : State) (n : Nat) : State :=
  let s := ((s.listed .queue).filter (fun q => decide (s.fld .queue q Que.state ≠ 0) && decide (s.qcfg q Que.ctx = n))).foldl (fun s q =>
    (s.setFld .queue q Que.state 0).setFld .queue q Que.nready 0) s
  let s := (List.range 64).foldl (fun s i => s.setRegion (64 * n + i) 0) s
  let s := (List.range 32).foldl (fun s i => s.setRcd .shape (32 * n + i) 0) s
  let s := ((s.listed .comparator).filter (fun i => decide (s.fld .comparator i Cmp.ctx = n))).foldl (fun s i =>
    s.setFld .comparator i Cmp.en 0) s
  let s := s.ctxSet n [(Ctx.ntrees, 0), (Ctx.nqueues, 0), (Ctx.npinned, 0)]
  let s := s.performBars (fun h => decide (h.ctx = n))
  let s := (s.peersIn.filter (fun p => decide (p.pkt.ctx = n))).foldl (fun s p => s.peerDone p.pkt (.refused 1)) s
  let s := { s with
    pins := s.pins.filter (fun p => decide (p.ctx ≠ n))
    bays := s.bays.map (fun (p : Nat × Bay) => (p.1, { p.2 with tlb := p.2.tlb.filter (fun t => decide (t.ctx ≠ n)) }))
    peersIn := s.peersIn.filter (fun p => decide (p.pkt.ctx ≠ n))
    fq := s.fq.filter (fun e => decide (e.ctx ≠ n)), fqWait := s.fqWait.filter (fun w => decide (w.ctx ≠ n)) }
  [0, 1].foldl (fun s d => State.fqServe d s.fqWait.length s) s

/-- A context is destroyed (R82). -/
def State.destroyCtx (s : State) (n : Nat) : State :=
  ((((s.orphanAll n).retireAll n).dropTrees n).dropRecords n).setFld .context n Ctx.state 0

/-- SUSPENSION_COMPLETE (R81, R82). -/
def execSuspensionComplete (s : State) : Host.Outcome State Fault Refusal :=
  atCtx s (fun n =>
    match s.suspending.get? n with
    | none => s
    | some how =>
      if !s.ctxQuiet n how then s
      else
        let s := ({ s.dropStash n with suspending := s.suspending.erase n }).setFld .context n Ctx.busy 0
        match how with
        | .suspend => (s.setFld .context n Ctx.state 3).ctxDone n 0
        | .fault => s
        | .destroy => (s.destroyCtx n).ctxDone n 0)

end Sys2Proof.Machine
end

