-- ==== Sys2Proof/Machine/Issue.lean ====
section
/-! DEFINITION. Which crews of a side can issue, which stand in a long stall, and which come next (R141 to R145, R147, R184). -/

namespace Sys2Proof.Machine

/-! ### One crew (R57, R142) -/

/-- The FP64 instructions, of which a side's pipe takes one in 4 clk (R184). -/
def takesFp64 : Instr → Bool
  | .dadd .. => true
  | .dmul .. => true
  | .dfma .. => true
  | .dcmp .. => true
  | _ => false

/-- A crew may issue at all: it waits for nothing and no MMA of it is left to be issued again (log 63), no stop, kill or cancellation has reached it but for a held stroke that runs to its end
(R118), and it has not exited. -/
def Crew.mayIssue (c : Crew) : Bool :=
  decide (c.wait = .none) && c.leftMma.isNone && c.trap.isNone && c.doomed.isNone && decide (c.exited ≠ 0xFFFF_FFFF#32) &&
    (!c.stopping || (match c.executing with | some st => st.held | none => false))

/-- Flags of the wait and set fields that hold a crew (R142). -/
def Crew.flagsHold (c : Crew) (k : Ctl) : Bool :=
  decide (c.flags &&& k.wait ≠ 0#12) || (match k.set with | some f => c.flags.getLsbD f.val | none => false)

/-- A flag of the wait field holds a crew at its next instruction (R144). -/
def State.heldByFlag (s : State) (rid : Nat) (c : Crew) : Bool :=
  match s.fetch rid c with
  | .trap _ => false
  | .run i => match instrCtl i with | some k => decide (c.flags &&& k.wait ≠ 0#12) | none => false

/-- The stall of an instruction has elapsed (R57). -/
def Crew.stallOver (c : Crew) (k : Ctl) (clk : Nat) : Bool :=
  match c.lastIssue with | some t => decide (t + max 1 k.stall.toNat ≤ clk) | none => true

/-- The unit that an instruction needs can accept it in this clk (R16, R119, R142, R322): the matrix pipe, or a place in the engine
queues. -/
def State.unitAccepts (s : State) (rid : Nat) (c : Crew) : Instr → Bool
  | .mma .. => s.pipeOpen (ridBay rid)
  | .copy .. => decide (s.cmdsOf c CmdKind.moves < 32) || decide (c.em = 0#32)
  | .gather .. => decide (s.cmdsOf c CmdKind.moves < 32) || decide (c.em = 0#32)
  | .scatter .. => decide (s.cmdsOf c CmdKind.moves < 32) || decide (c.em = 0#32)
  | .encode .. => decide (s.cmdsOf c CmdKind.encodes < 8) || decide (c.em = 0#32)
  | _ => true

/-- A crew's next instruction could issue now if the crew were active (R142): a fetch that traps needs nothing. -/
def State.couldIssue (s : State) (rid : Nat) (c : Crew) : Bool :=
  c.mayIssue &&
    (match s.fetch rid c with
     | .trap _ => match c.lastIssue with | some t => decide (t < s.clock) | none => true
     | .run i =>
       match instrCtl i with
       | some k =>
         c.stallOver k s.clock && !c.flagsHold k && (!takesFp64 i || decide ((s.side (ridBay rid) (ridSide rid)).fp64 ≤ s.clock)) &&
           ((fuOf i).isNone || (decide (c.fuOut < 8) && decide (s.fuHeld rid < 16))) && s.unitAccepts rid c i
       | none => false)

/-! ### One side -/

/-- The resident id of a slot of a side. -/
def sideRid (b d slot : Nat) : Nat := 64 * b + 32 * d + slot

/-- A crew of a side takes part in a swap (R144). -/
def Side.swapping (x : Side) (slot : Nat) : Bool :=
  match x.swap with | some w => decide (w.inn = slot) || decide (w.out = some slot) | none => false

/-- The active crews of a side: position, slot, crew. -/
def State.actives (s : State) (b d : Nat) : List (Nat × Nat × Crew) :=
  let x := s.side b d
  ((List.range x.active.length).zip x.active).filterMap (fun p =>
    match p.2 with
    | some slot => (s.crews.get? (sideRid b d slot)).map (fun c => (p.1, slot, c))
    | none => none)

/-- The pending crews of a side: slot, crew. -/
def State.pendings (s : State) (b d : Nat) : List (Nat × Crew) :=
  (s.side b d).pending.filterMap (fun slot => (s.crews.get? (sideRid b d slot)).map (fun c => (slot, c)))

/-- An MMA that a stop has left of a crew can be issued again (R122; log 63): the crew waits for nothing, and the pipe is open. -/
def State.couldRest (s : State) (rid : Nat) (c : Crew) : Bool :=
  c.leftMma.isSome && decide (c.wait = .none) && c.trap.isNone && c.doomed.isNone && !c.stopping && s.pipeOpen (ridBay rid)

/-- A pending crew is ready (R141). -/
def State.pendingReady (s : State) (rid : Nat) (c : Crew) : Bool :=
  (s.codeOf rid c).isSome && (s.couldIssue rid c || s.couldRest rid c)

/-- The pending crew of a side that has been ready longest (R141). -/
def State.readiest (s : State) (b d : Nat) : Option (Nat × Crew) :=
  leastBy (fun p => p.2.ready.getD (s.clock + 1))
    ((s.pendings b d).filter (fun p => s.pendingReady (sideRid b d p.1) p.2 && !(s.side b d).swapping p.1))

/-- An active crew stands in a long stall since a clk (R144), or asked to be swapped out (R155). -/
def Crew.longStall (c : Crew) (clk : Nat) : Option Nat :=
  if c.yieldOut then some (c.stalled.getD clk) else c.stalled

/-- The active crew of a side stalled longest: position, slot. -/
def State.stalledLongest (s : State) (b d : Nat) : Option (Nat × Nat) :=
  (leastBy (fun p => (p.2.2.longStall s.clock).getD 0) ((s.actives b d).filter (fun p => (p.2.2.longStall s.clock).isSome))).map
    (fun p => (p.1, p.2.1))

/-- The active crew of lowest urgency whose last issue is oldest (R145): position, slot. -/
def State.leastUrgent (s : State) (b d : Nat) : Option (Nat × Nat) :=
  (leastBy (fun p => (s.kern p.2.2.kernel).urg * (s.clock + 2) + (match p.2.2.lastIssue with | some t => t + 1 | none => 0))
    (s.actives b d)).map (fun p => (p.1, p.2.1))

/-- Positions from the one after the last that issued, in a round (R143). -/
def roundFrom (n last p : Nat) : Nat := (p + n - (last + 1) % n) % n

/-- The crew that a side picks (R143): position and slot. -/
def State.pick (s : State) (b d : Nat) : Option (Nat × Nat) :=
  let x := s.side b d
  let able := (s.actives b d).filter (fun p => s.couldIssue (sideRid b d p.2.1) p.2.2 && !x.swapping p.2.1)
  let firsts := able.filter (fun p => !p.2.2.yielded)
  let from_ := if firsts.isEmpty then able else firsts
  (leastBy (fun p => (3 - (s.kern p.2.2.kernel).urg) * 8 + roundFrom 8 x.lastPos p.1) from_).map (fun p => (p.1, p.2.1))

/-- A wait that is over with the next clk: one to look again, and that of a SUMDECL.free which nothing holds any more (R298). -/
def State.waitOver (s : State) (rid : Nat) (c : Crew) : Crew :=
  match c.wait with
  | .retry => { c with wait := .none }
  | .freeing base lines => if s.freeDone (c.ctx s) base lines then { c with pc := s.nextPc rid c, wait := .none, ready := none } else c
  | _ => c

/-- What passes with a clk for a crew: waits that are over end, and the times of R141, R144 and R145 go on. A crew held only by an engine
queue is not waiting (R135, R142). -/
def State.crewTick (s : State) (rid : Nat) (c : Crew) : Crew :=
  let c := s.waitOver rid c
  match c.life with
  | .pending => { c with ready := if s.pendingReady rid c then some (c.ready.getD s.clock) else none, stalled := none, flagWait := none }
  | .active =>
    let held := decide (c.wait = .none) && s.heldByFlag rid c
    let flagWait := if held then some (c.flagWait.getD s.clock) else none
    let long := (decide (c.wait ≠ .none) && decide (c.wait ≠ .engine)) || (match flagWait with | some t => decide (t + 32 < s.clock) | none => false)
    { c with ready := none, flagWait := flagWait, stalled := if long then some (c.stalled.getD s.clock) else none }
  | .placed => c
  | .trapped => c
  | .exited => c

end Sys2Proof.Machine
end

