-- ==== Sys2Proof/Machine/EvIssue.lean ====
section
/-! DEFINITION. The events of a side: its sets and swaps, the pick, the writing of results, the function unit, and PC samples (R141 to
R148, R202, R211, R400). -/

namespace Sys2Proof.Machine

/-! ### Sets and swaps (R141, R144, R145) -/

/-- Active positions that a crew may take: free ones, but for one that a swap will fill. -/
def Side.openPos (x : Side) : Option Nat :=
  (List.range x.active.length).find? (fun p => decide (x.active[p]? = some none) &&
    (match x.swap with | some w => decide (w.pos ≠ p) | none => true))

/-- A kernel that is placing runs from the first issue place on (R110). -/
def State.nowRunning (s : State) (k : Nat) : State := if (s.kern k).state = .placing then s.setKState k .running else s

/-- A pending crew takes an active position. -/
def State.activate (s : State) (b d slot pos : Nat) : State :=
  let rid := sideRid b d slot
  match s.crews.get? rid with
  | some c =>
    let s := s.setCrew rid (fun c => { c with life := .active, ready := none })
    (s.setSide b d (fun x => { x with
      active := x.active.set pos (some slot), pending := x.pending.filter (fun y => decide (y ≠ slot)) })).nowRunning c.kernel
  | none => s

/-- PENDING_TO_ACTIVE (R141). -/
def execPendingToActive (s : State) : Host.Outcome State Fault Refusal :=
  atSide s (fun b d =>
    match (s.side b d).openPos, s.readiest b d with
    | some pos, some (slot, _) => s.activate b d slot pos
    | _, _ => s)

/-- A swap of 4 clk begins. -/
def State.beginSwap (s : State) (b d out inn pos : Nat) : State :=
  s.setSide b d (fun x => { x with swap := some ⟨some out, inn, pos, s.clock + 4⟩ })

/-- LONG_STALL_SWAP (R144, R155). -/
def execLongStallSwap (s : State) : Host.Outcome State Fault Refusal :=
  atSide s (fun b d =>
    match (s.side b d).swap, s.stalledLongest b d, s.readiest b d with
    | none, some (pos, out), some (inn, _) => s.beginSwap b d out inn pos
    | _, _, _ => s)

/-- PENDING_AGE_SWAP (R145). -/
def execPendingAgeSwap (s : State) : Host.Outcome State Fault Refusal :=
  atSide s (fun b d =>
    match (s.side b d).swap, (s.stalledLongest b d).or (s.leastUrgent b d), s.readiest b d with
    | none, some (pos, out), some (inn, c) =>
      if (match c.ready with | some t => decide (t + 256 ≤ s.clock) | none => false) then s.beginSwap b d out inn pos else s
    | _, _, _ => s)

/-- The crew that goes out of a swap joins the pending set. -/
def State.toPending (s : State) (b d slot pos : Nat) : State :=
  if (s.side b d).active[pos]? = some (some slot) then
    (s.setCrew (sideRid b d slot) (fun c =>
      { c with life := .pending, yieldOut := false, stalled := none, flagWait := none, ready := none })).setSide b d
      (fun x => { x with active := x.active.set pos none, pending := x.pending ++ [slot] })
  else s

/-- SWAP_COMPLETE (R144): a crew that has left the side meanwhile takes no part. -/
def execSwapComplete (s : State) : Host.Outcome State Fault Refusal :=
  atSide s (fun b d =>
    match (s.side b d).swap with
    | some w =>
      if s.clock < w.until_ then s
      else
        let s := s.setSide b d (fun x => { x with swap := none })
        let s := match w.out with | some out => s.toPending b d out w.pos | none => s
        if (s.side b d).pending.contains w.inn && decide ((s.side b d).active[w.pos]? = some none) then s.activate b d w.inn w.pos else s
    | none => s)

/-- ISSUE_PICK (R143): the crew that the side picks issues next. -/
def execIssuePick (s : State) : Host.Outcome State Fault Refusal :=
  atSide s (fun b d =>
    if s.clock < (s.side b d).picked then s
    else
      match s.pick b d with
      | some (pos, slot) =>
        let s := s.setSide b d (fun x => { x with picked := s.clock + 1, lastPos := pos })
        { s with agenda := .issue (sideRid b d slot) :: s.agenda }
      | none => s)

/-! ### Results (R146, R148, R176, R202) -/

/-- An exited crew with no instruction in flight frees its blocks (R135). -/
def State.settle (s : State) (rid : Nat) : State :=
  match s.crews.get? rid with
  | some c =>
    if c.life = .exited ∧ c.pends.isEmpty = true then (((s.unseat rid).tidy c.kernel).kick).post (.kernel c.kernel) .kernelRetire else s
  | none => s

/-- Land a result of a crew in some lanes. -/
def State.landResult (s : State) (rid idx : Nat) (lanes : LaneMask) : State :=
  { s.setCrew rid (fun c => c.land idx lanes s.fresh) with fresh := s.fresh + 1 }.settle rid

/-- RESULT_WRITEBACK (R146, R148): a fixed-latency result is written whole in its clk; a variable-latency one at any time, in any lanes
that are left. -/
def execResultWriteback (s : State) : Host.Outcome State Fault Refusal :=
  match s.place with
  | .result rid idx lanes =>
    match (s.crews.get? rid).bind (fun c => c.pends[idx]?) with
    | some p =>
      if p.fu.isSome then .next s
      else
        match p.due with
        | some t => if t ≤ s.clock then .next (s.landResult rid idx 0xFFFF_FFFF#32) else .next s
        | none => .next (s.landResult rid idx lanes)
    | none => .next s
  | _ => .next s

/-- A crew's first function-unit instruction with a group that is available: its number among the outstanding results. -/
def Crew.fuReady (c : Crew) (clk : Nat) : Option Nat :=
  c.pends.findIdx? (fun p => match p.fu with | some f => !f.groups.isEmpty && decide (f.avail ≤ clk) | none => false)

/-- The crew of a side whose group is served next (R202): its slot. -/
def State.fuPickSlot (s : State) (b d : Nat) : Option Nat :=
  leastBy (fun slot => roundFrom 32 (s.side b d).fuLast slot)
    (((s.crewsAt b d).filter (fun p => (p.2.fuReady s.clock).isSome)).map (fun p => p.1 % 32))

/-- A group of a job is served; after the last one the results are due. -/
def Pend.served (p : Pend) (clk : Nat) : Pend :=
  match p.fu with
  | some f =>
    let rest := f.groups.drop 1
    { p with fu := some { f with groups := rest }, due := if rest.isEmpty then some (clk + (if f.smx then 8 else 6)) else p.due }
  | none => p

/-- FU_GROUP_SERVE (R202, R211). -/
def execFuGroupServe (s : State) : Host.Outcome State Fault Refusal :=
  atSide s (fun b d =>
    if s.clock < (s.side b d).fuServed then s
    else
      match s.fuPickSlot b d with
      | some slot =>
        let s := s.setSide b d (fun x => { x with fuLast := slot, fuServed := s.clock + 1 })
        s.setCrew (sideRid b d slot) (fun c =>
          match c.fuReady s.clock with
          | some i => { c with pends := c.pends.modify i (fun p => p.served s.clock) }
          | none => c)
      | none => s)

/-- FU_RESULT_WRITE (R202, R211). -/
def execFuResultWrite (s : State) : Host.Outcome State Fault Refusal :=
  match s.place with
  | .result rid idx _ =>
    match (s.crews.get? rid).bind (fun c => c.pends[idx]?) with
    | some p =>
      match p.fu, p.due with
      | some f, some t => if f.groups.isEmpty && decide (t ≤ s.clock) then .next (s.landResult rid idx 0xFFFF_FFFF#32) else .next s
      | _, _ => .next s
    | none => .next s
  | _ => .next s

/-! ### Samples (R400) -/

/-- The clk of a sample period, 0 for no samples. -/
def State.period (s : State) (ctx : Nat) : Nat :=
  let n := s.fld .debug ctx Dbg.speriod
  if n = 0 then 0 else 256 * 2 ^ n

/-- Where a sampled crew stands: issued, issuable and not picked, stall or flag wait, waiting, swapping, trapped. -/
def State.sampleCode (s : State) (b d slot : Nat) (c : Crew) : Nat :=
  if c.life = .trapped then 5
  else if (s.side b d).swapping slot then 4
  else if c.wait ≠ .none then 3
  else if c.lastIssue = some s.clock then 0
  else if s.couldIssue (sideRid b d slot) c then 1
  else 2

/-- The crew of a context on a side that follows the one last sampled, in ascending slot. -/
def State.sampleSlot (s : State) (b d ctx : Nat) : Option (Nat × Crew) :=
  let last := match (s.side b d).sampled.get? ctx with | some (slot, _) => slot | none => 31
  (leastBy (fun p => roundFrom 32 last (p.1 % 32)) ((s.crewsAt b d).filter (fun p => decide (p.2.ctx s = ctx) && decide (p.2.life ≠ .exited) &&
    decide (p.2.life ≠ .placed)))).map (fun p => (p.1 % 32, p.2))

/-- The record of a sample. -/
def State.sampleBits (s : State) (b d slot : Nat) (c : Crew) : Nat :=
  s.recordHead 3 b c.idx c.kernel + setAll [(⟨448, 32⟩, c.em.toNat), (⟨416, 32⟩, c.slot * 2 ^ 12 + c.pc), (⟨384, 32⟩, c.tag.toNat),
    (⟨320, 64⟩, s.clock), (⟨256, 64⟩, c.srStroke), (⟨224, 32⟩, s.sampleCode b d slot c)]

/-- A sample of a context is due on a side: a period has ended in this clk and is not sampled yet. -/
def State.sampleDue (s : State) (b d ctx : Nat) : Bool :=
  let p := s.period ctx
  decide (p ≠ 0) && decide (s.clock ≠ 0) && decide (s.clock % p = 0) &&
    (match (s.side b d).sampled.get? ctx with | some (_, t) => decide (t ≠ s.clock) | none => true)

/-- PC_SAMPLE (R400). -/
def execPcSample (s : State) : Host.Outcome State Fault Refusal :=
  match s.place with
  | .sample b d ctx =>
    if !s.sampleDue b d ctx then .next s
    else
      match s.sampleSlot b d ctx with
      | some (slot, c) =>
        .next ((s.setSide b d (fun x => { x with sampled := x.sampled.set ctx (slot, s.clock) })).stampLog ctx (s.sampleBits b d slot c))
      | none => .next s
  | _ => .next s

end Sys2Proof.Machine
end

