-- ==== Sys2Proof/Machine/Link.lean ====
section
/-! DEFINITION. The link at the sender: peer addresses, members, packets sent and their records (R249, R366 to R369, R373 to R377). -/

namespace Sys2Proof.Machine

/-! ### Addresses and members -/

/-- Module identifier and offset of a peer address (R249). -/
def peerOf (va : Nat) : Nat := slice 54 45 va
def peerOff (va : Nat) : Nat := slice 44 0 va

/-- The peer address of an offset of a module's window. -/
def peerVa (m off : Nat) : Nat := 2 ^ 64 - 2 ^ 55 + m * 2 ^ 45 + off

def State.selfId (s : State) : Nat := s.fld .link 0 Lnk.self
def State.epoch (s : State) : Nat := s.fld .link 0 Lnk.epoch

/-- A member can be reached: its entry is live (R369), and this module has not declared it dead in the present epoch (R368). -/
def State.memberLive (s : State) (m : Nat) : Bool :=
  decide (m < 768) && decide (s.fld .member m Mem.state = 1) && !s.declared.contains m

/-- Some port is up: packets are sprayed over the up ports (R374). -/
def State.linkUp (s : State) : Bool := (List.range Config.ports).any (fun p => decide (s.fld .port p Port.state = 2))

/-- The local address of an offset of a context's window (R372). -/
def State.windowVa (s : State) (ctx off : Nat) : Nat := (sext56 (s.fld .exports ctx Exp.base * 2 ^ 16) + off) % 2 ^ 64

/-- A change of a port's state or a declaration arrives on the link event barrier (R367, R369). -/
def State.linkEvent (s : State) : State := s.deviceArrive 0 (s.fld .link 0 Lnk.evbar)

/-- The checks of a lane of a peer instruction (R377). -/
def Crew.peerCheck (c : Crew) (va w lane : Nat) : Option Stop :=
  if !canonical va then some (c.trapAt 0x032 0 va lane)
  else if !isPeer va then some (c.trapAt 0x061 0 va lane)
  else if 767 < peerOf va then some (c.trapAt 0x060 (peerOf va) va lane)
  else if va % w ≠ 0 then some (c.trapAt 0x020 w va lane)
  else none

/-! ### Packets (R374) -/

/-- One lane's access: its peer address and what it does there. -/
structure PeerAcc where
  lane : Nat
  va : Nat
  op : PeerOp
  /-- Bytes of payload that it writes (R376). -/
  bytes : Nat
  /-- For XGET: the first register and the number of registers of the result. -/
  dst : Nat × Nat := (0, 0)
  deriving DecidableEq, Repr

/-- Destination module and 256-byte block of an access. -/
def PeerAcc.key (a : PeerAcc) : Nat × Nat := (peerOf a.va, peerOff a.va / 256)

/-- The groups of accesses, in the order of their first lanes. -/
def peerKeys (l : List PeerAcc) : List (Nat × Nat) := l.foldl (fun ks a => if ks.contains a.key then ks else ks ++ [a.key]) []

/-- Whom a peer access is sent for: kernel slot, crew, context, bay, and the PC and sequence number of its late records (R178). -/
structure Sender where
  k : Nat
  crew : Nat
  ctx : Nat
  bay : Nat
  pc : Nat
  stroke : Nat
  deriving DecidableEq, Repr

def Crew.sender (c : Crew) (s : State) (rid : Nat) : Sender := ⟨c.kernel, c.idx, c.ctx s, ridBay rid, c.latePc, c.srStroke⟩
def Cmd.sender (m : Cmd) : Sender := ⟨m.k, m.crew, m.ctx, m.bay, m.latePc, m.stroke⟩

/-- The late record of a peer instruction for a destination module (R373). -/
def State.peerLate (s : State) (x : Sender) (kind aux addr : Nat) : State :=
  s.late ⟨x.ctx, kind, aux, BitVec.ofNat 64 addr, x.pc, BitVec.ofNat 64 x.stroke, s.handle x.k, x.crew, x.bay, false⟩

/-- The lowest lane's address to a module. -/
def firstTo (l : List PeerAcc) (m : Nat) : Nat := ((l.find? (fun a => decide (peerOf a.va = m))).map PeerAcc.va).getD 0

/-- Send one packet: its accesses with their addresses; rid: the crew of an XGET; cmd: the command of a peer COPY. -/
def State.sendPacket (s : State) (x : Sender) (instr addr : Nat) (rid cmd : Option Nat) (l : List PeerAcc) : State :=
  let id := s.serial
  let dst := ((l.head?).map (fun a => peerOf a.va)).getD 0
  let p : Pkt := ⟨s.selfId, dst, s.epoch, x.ctx, s.handle x.k, x.crew, id, l.map PeerAcc.op⟩
  let posted := rid.isNone && cmd.isNone
  let out : PeerOut :=
    { id := id, k := x.k, crew := x.crew, ctx := x.ctx, bay := x.bay, pkt := p,
      after := if posted then ((s.kern x.k).keepOf x.crew).peerAfter else [], bytes := (l.map PeerAcc.bytes).sum, instr := instr,
      pc := x.pc, stroke := x.stroke, addr := addr,
      get := rid.map (fun r => (r, l.map (fun a => (a.lane, a.dst.1, a.dst.2)))), cmd := cmd, answer := none, told := false }
  { s with peers := s.peers ++ [out], serial := s.serial + 1 }

/-- Send accesses to members that can be reached, a packet for each group; instr numbers the instruction or unit. -/
def State.sendAll (s : State) (x : Sender) (instr : Nat) (rid cmd : Option Nat) (l : List PeerAcc) : State :=
  (peerKeys l).foldl (fun s q => s.sendPacket x instr (firstTo l q.1) rid cmd (l.filter (fun a => decide (a.key = q)))) s

/-- Send the accesses of one posted instruction. Those to a member that cannot be reached are dropped at once, with one late record for
each module (R373, R375). -/
def State.sendPosted (s : State) (x : Sender) (l : List PeerAcc) : State :=
  let dead := l.foldl (fun ms a => if s.memberLive (peerOf a.va) || ms.contains (peerOf a.va) then ms else ms ++ [peerOf a.va]) []
  let t := dead.foldl (fun s m => s.peerLate x 0x062 1 (firstTo l m)) { s with serial := s.serial + 1 }
  t.sendAll x s.serial none none (l.filter (fun a => s.memberLive (peerOf a.va)))

/-- Peer-write payload of a bay that no destination has acknowledged (R376). -/
def State.payloadOut (s : State) (b : Nat) : Nat := ((s.peers.filter (fun p => decide (p.bay = b) && p.answer.isNone)).map (fun p => p.bytes)).sum

/-- A burst of n bytes of a crew is to wait for a raise (R376). -/
def State.burstWaits (s : State) (rid : Nat) (c : Crew) (n : Nat) : Bool :=
  decide (0 < n) && decide (2 ^ 20 < s.payloadOut (ridBay rid) + n) && !c.burst && decide (s.level (ridBay rid) c.kernel ≠ 15)

/-- The posted accesses of a crew that are not complete: those of XPUT, XRED and XSIG (R383). -/
def State.posted (s : State) (k idx : Nat) : Bool :=
  s.peers.any (fun p => decide (p.k = k) && decide (p.crew = idx) && p.get.isNone && p.cmd.isNone)

end Sys2Proof.Machine
end

