-- ==== Sys2Proof/Machine/EvCrew.lean ====
section
/-! DEFINITION. The events of a crew's life: residence, trap entry, late faults, cancellation and exit (R115, R135, R172, R178, R344). -/

namespace Sys2Proof.Machine

/-! ### Residence (R115, R135) -/

/-- A crew becomes resident: pending, or trapped again where it was saved so; a fresh one starts at the first start-marked granule of
the launch segment. -/
def State.makeResident (s : State) (rid : Nat) (c : Crew) (pc : Nat) : State :=
  let k := c.kernel
  if ((s.kern k).keepOf c.idx).savedTrapped then
    (s.setCrew rid (fun c => { c with life := .trapped })).setKern k (fun y => y.setKeep c.idx (fun e => { e with savedTrapped := false }))
  else
    (s.setCrew rid (fun c => { c with life := .pending, fresh := false, pc := if c.fresh then pc else c.pc })).setSide (ridBay rid)
      (ridSide rid) (fun x => { x with pending := x.pending ++ [ridSlot rid] })

/-- A placed crew can become resident: its kernel slot 0 is full, and slot 15 where it has a debug handler (R123, R395), and its side's
pending set has room (R141) unless it re-enters trapped. -/
def State.residable (s : State) (rid : Nat) (c : Crew) : Bool :=
  let full (n : Nat) : Bool := (s.codeSlot (ridBay rid) c.kernel n).code?.isSome
  decide (c.life = .placed) && full 0 && (!c.debug || full 15) &&
    (((s.kern c.kernel).keepOf c.idx).savedTrapped ||
      decide ((s.side (ridBay rid) (ridSide rid)).pending.length < Config.pendingCrews))

/-- CREW_RESIDENT (R115, R135): a fresh crew starts at the first start mark of what kernel slot 0 of its bay holds now (log 90). -/
def execCrewResident (s : State) : Host.Outcome State Fault Refusal :=
  atCrew s (fun rid c =>
    match (s.codeSlot (ridBay rid) c.kernel 0).code? with
    | some (ws, lines) => if s.residable rid c then s.makeResident rid c (4 * (firstFrom ws lines 0).getD 0) else s
    | none => s)

/-! ### Traps and late faults (R172, R178) -/

/-- PRECISE_TRAP_ENTRY (R172): the crew's strokes have committed. -/
def execPreciseTrapEntry (s : State) : Host.Outcome State Fault Refusal :=
  atCrew s (fun rid c =>
    match c.trap, c.wait with
    | some t, .strokes => if c.strokes.isEmpty then s.enterTrap rid t else s
    | _, _ => s)

/-- The crew that a late fault names has exited. -/
def State.lateGone (s : State) (f : Late) : Bool := f.gone || ((s.kern (f.kernel % 2 ^ 14)).keepOf f.crew).exited

/-- IMPRECISE_FAULT (R178): a record of the fault log; a running kernel becomes trapped. -/
def execImpreciseFault (s : State) : Host.Outcome State Fault Refusal :=
  match s.place with
  | .late f =>
    let k := f.kernel % 2 ^ 14
    let s := s.faultLog f.ctx
      ⟨f.kind, true, s.lateGone f, bayCode f.bay, f.kernel, f.crew, f.pc, f.addr.toNat, f.stroke.toNat⟩
    if s.handle k = f.kernel ∧ (s.kern k).state = .running ∧ (s.kern k).ending = none then
      .next ((s.setKState k .trapped).post (.kernel k) .kernelRetire)
    else .next s
  | _ => .next s

/-! ### Exit (R131, R135, R161, R296, R311, R327, R399) -/

/-- A crew with no stroke in flight becomes exited: every lane has exited, or its kernel is about to retire, or has faulted and stops. -/
def State.canExit (s : State) (c : Crew) : Bool :=
  decide (c.life ≠ .exited) && c.strokes.isEmpty &&
    ((decide (c.exited = 0xFFFF_FFFF#32) && c.trap.isNone) || (s.kern c.kernel).ending.isSome ||
      (decide ((s.kern c.kernel).state = .faulted) && c.stopping))

/-- At a final EXIT, reductions and commands not yet in a batch close into one further batch. -/
def Keep.lastBatch (e : Keep) : Keep :=
  { e with mcount := if e.mopen then e.mcount + 1 else e.mcount, mopen := false,
           ecount := if e.eopen then e.ecount + 1 else e.ecount, eopen := false }

/-- A crew becomes exited. -/
def State.exitCrew (s : State) (rid : Nat) (c : Crew) : State :=
  let k := c.kernel
  let i := c.idx
  -- its final EXIT has committed, be it after a kill or before a cancellation reached it (R131, R327, R344)
  let final := decide (c.exited = 0xFFFF_FFFF#32) && !c.cancelled
  let s := s.setKern k (fun y =>
    { y.setKeep i (fun e => { (if final then e.lastBatch else e) with exited := true }) with exited := y.exited + 1 })
  let s := (s.closeWindow k i (ridBay rid) true).setCrew rid (fun c =>
    { c with life := .exited, exited := 0xFFFF_FFFF#32, em := 0#32, trap := none, wait := .none, ready := none, stalled := none, flagWait := none })
  let s := ((s.leaveSets rid).dropLatch rid).endCrewRegns k i
  let s := ((s.post (.kernelCrew k i) .matrixBatchRaise).post (.kernelCrew k i) .engineBatchRaise).post (.kernelCrew k i) .stampRecordWrite
  ((s.settle rid).kick).post (.kernel k) .kernelRetire

/-- CREW_EXIT (R135). -/
def execCrewExit (s : State) : Host.Outcome State Fault Refusal :=
  atCrew s (fun rid c => if s.canExit c then s.exitCrew rid c else s)

/-- An address lies in the trunk or in a crown view of a tree of a context (R334): what is mapped there, and what a cut has unmapped there,
are KV pages. -/
def State.inTree (s : State) (ctx va : Nat) : Bool :=
  (s.listed .tree).any (fun t => decide (s.fld .tree t Tre.state ≠ 0) && decide (s.fld .tree t Tre.ctx = ctx) && decide (s.treeWin t ≤ va) &&
    decide (va < s.treeWin t + 2 ^ 30) && !(decide (s.treeVa t ≤ va) && decide (va < s.treeVa t + 0x1_0000)))

/-- A posted access to this module's own window that would write a KV page (R344, R372), or that was to write one which the cut has unmapped.
-/
def State.writesKv (s : State) (p : Pkt) : Bool :=
  decide (p.dst = s.selfId) && p.ops.any (fun o =>
    match o with
    | .put off _ _ => onKv off
    | .red _ _ off _ => onKv off
    | _ => false)
where
  /-- An offset of the context's window lies in a KV page. -/
  onKv (off : Nat) : Bool :=
    match s.leafOf p.ctx (s.windowVa p.ctx off) with
    | some (e, _, _) => Pte.kv e
    | none => s.inTree p.ctx (s.windowVa p.ctx off)

/-- A crew that is placed is to be cancelled, and is not cancelled yet. -/
def State.doomedCrew (s : State) (k idx : Nat) : Bool :=
  s.crews.any (fun p => decide (p.2.kernel = k) && decide (p.2.idx = idx) && p.2.doomed.isSome && decide (p.2.life ≠ .exited))

/-- Every pending write of a crew to a KV page is dropped (R344): those posted to its own module's window and not yet performed. -/
def State.dropKvWrites (s : State) (k idx : Nat) : State :=
  let gone := s.peers.filter (fun p => decide (p.k = k) && decide (p.crew = idx) && p.answer.isNone && s.writesKv p.pkt &&
    !s.replies.any (fun r => decide (r.1 = s.selfId) && decide (r.2.1 = p.id)))
  { s with peers := s.peers.filter (fun p => !gone.contains p), peersIn := s.peersIn.filter (fun x => !(gone.map (fun p => p.pkt)).contains x.pkt) }

/-- CREW_CANCEL (R344): every stroke is squashed, commands are aborted, pending writes to KV pages are dropped, and every lane exits. -/
def execCrewCancel (s : State) : Host.Outcome State Fault Refusal :=
  atCrew s (fun rid c =>
    if c.doomed.isNone || decide (c.life = .exited) then s
    else
      let s := (s.squashFrom rid 0).fqAbandon (.crew rid)
      let s := match c.wait with | .barrier .. => s.waitEnds c.kernel c.idx | _ => s
      let s := { s with peers := s.peers.filter (fun p => match p.get with | some (r, _) => decide (r ≠ rid) | none => true) }
      let s := s.dropKvWrites c.kernel c.idx
      let s := s.setCrew rid (fun c =>
        { c with exited := 0xFFFF_FFFF#32, em := 0#32, cancelled := true, stopping := true, trap := none, fault := none, wait := .none, mma := none, drain := none,
                 heldSet := none, heldReady := false, granted := false, gateSince := none, diverged := none })
      let s := s.redsChanged
      (s.abortCmds (fun m => decide (m.k = c.kernel) && decide (m.crew = c.idx))).post (.crew rid)
        .crewExit)

end Sys2Proof.Machine
end

