-- ==== Sys2Proof/Machine/Av1.lean ====
section
/-! DEFINITION. The command block of an encode and the temporal unit that the engine writes for it (R329 to R331). The spec names the AV1
Bitstream and Decoding Process Specification for the syntax of the unit; the syntax elements below are those of its sequence header and its
uncompressed frame header, in its order (log 13). -/

namespace Sys2Proof.Machine

/-! ### The command block (R329) -/

/-- The command block of an encode: offset and bytes of a field. -/
def blkNum (blk : List Byte) (off n : Nat) : Nat := ofBytes ((blk.drop off).take n)

/-- Picture width and height of a block. -/
def blkSize (blk : List Byte) : Nat × Nat := (blkNum blk 0x24 2 + 1, blkNum blk 0x26 2 + 1)

/-- An address of a block is local. -/
def blkLocal (blk : List Byte) (off : Nat) : Bool := canonical (blkNum blk off 8) && !isPeer (blkNum blk off 8)

/-- Bytes of the stream state. -/
def stateBytes (blk : List Byte) : Nat := 4096 + 24 * (blkSize blk).1 * (blkSize blk).2

/-- The ranges that an encode reads: planes and stream state; with chroma at half the height. -/
def blkReads (blk : List Byte) : List (Nat × Nat) :=
  let (_, h) := blkSize blk
  [(blkNum blk 0x10 8, blkNum blk 0x20 2 * h), (blkNum blk 0x18 8, blkNum blk 0x22 2 * (h / 2)), (blkNum blk 0x08 8, stateBytes blk)]

/-- The block keeps its limits and its zero fields, and every range that it names lies in the local space (log 50). -/
def blkValid (blk : List Byte) : Bool :=
  let (w, h) := blkSize blk
  let frame := blkNum blk 0x34 4
  let coding := blkNum blk 0x38 4
  [0x08, 0x10, 0x18, 0x28].all (blkLocal blk) &&
    (blkReads blk ++ [(blkNum blk 0x28 8, blkNum blk 0x30 4)]).all (fun p => decide (p.1 + p.2 ≤ 2 ^ 55)) &&
    decide (blkNum blk 0x08 8 % 4096 = 0) && decide (blkNum blk 0x10 8 % 256 = 0) && decide (blkNum blk 0x18 8 % 256 = 0) &&
    decide (blkNum blk 0x20 2 % 256 = 0) && decide (blkNum blk 0x22 2 % 256 = 0) &&
    decide (64 ≤ w) && decide (w ≤ 4096) && decide (w % 8 = 0) && decide (64 ≤ h) && decide (h ≤ 2304) && decide (h % 8 = 0) &&
    decide (slice 7 7 frame = 0) && decide (slice 15 12 frame = 0) && decide (slice 31 24 frame = 0) &&
    decide (slice 9 8 coding ≤ 2) && decide (slice 11 10 coding ≤ 2) && decide (slice 31 15 coding = 0) &&
    decide (blkNum blk 0x3C 196 = 0)

/-- The frame field of a block: inter, 10-bit, show, sequence header, compound, reference slots, refresh mask. -/
def blkInter (blk : List Byte) : Bool := (blkNum blk 0x34 4).testBit 0
def blkDeep (blk : List Byte) : Bool := (blkNum blk 0x34 4).testBit 1
def blkShow (blk : List Byte) : Bool := (blkNum blk 0x34 4).testBit 2
def blkHeader (blk : List Byte) : Bool := (blkNum blk 0x34 4).testBit 3
def blkCompound (blk : List Byte) : Bool := (blkNum blk 0x34 4).testBit 11
def blkRefs (blk : List Byte) : List Nat :=
  let f := blkNum blk 0x34 4
  slice 6 4 f :: (if blkCompound blk then [slice 10 8 f] else [])
def blkRefresh (blk : List Byte) : Nat := slice 23 16 (blkNum blk 0x34 4)

/-- The coding field of a block: base_q_idx, tile columns and rows log2, loop filter, CDEF, loop restoration. -/
def blkQidx (blk : List Byte) : Nat := slice 7 0 (blkNum blk 0x38 4)
def blkTileCols (blk : List Byte) : Nat := slice 9 8 (blkNum blk 0x38 4)
def blkTileRows (blk : List Byte) : Nat := slice 11 10 (blkNum blk 0x38 4)
def blkFilter (blk : List Byte) : Bool := (blkNum blk 0x38 4).testBit 12
def blkCdef (blk : List Byte) : Bool := (blkNum blk 0x38 4).testBit 13
def blkRestore (blk : List Byte) : Bool := (blkNum blk 0x38 4).testBit 14

/-! ### Syntax elements -/

/-- A syntax element: its bits and its value. -/
abbrev Elem := Nat × Nat

/-- A one-bit element. -/
def flag (b : Bool) : Elem := (1, b.toNat)

/-- What the engine of a command is free to choose: element n, of w bits. -/
def pick (id n w : Nat) : Elem := (w, Config.encoderPick id n % 2 ^ w)

/-- The bits of elements, the most significant first. -/
def elemBits (l : List Elem) : List Bool := l.flatMap (fun p => (List.range p.1).map (fun i => p.2.testBit (p.1 - 1 - i)))

/-- Bits as bytes, the last one filled up with zero bits. -/
def bitBytes (l : List Bool) : List Byte :=
  (List.range ((l.length + 7) / 8)).map (fun i =>
    BitVec.ofNat 8 ((List.range 8).foldl (fun n j => 2 * n + ((l[8 * i + j]?).getD false).toNat) 0))

/-- The least number of bits that holds a number below 2^16. -/
def bitsFor (x : Nat) : Nat := ((List.range 17).find? (fun w => decide (x < 2 ^ w))).getD 16

/-- The least j for which 2^j is a number or more. -/
def log2Up (x : Nat) : Nat := ((List.range 17).find? (fun w => decide (x ≤ 2 ^ w))).getD 16

/-- The sequence header of a block: Main profile, its depth, 4:2:0, the size of the picture, CDEF and loop restoration, and no tool that R331
does not list. -/
def seqElems (id : Nat) (blk : List Byte) : List Elem :=
  let (w, h) := blkSize blk
  let wide (n x : Nat) : Nat := bitsFor x + (pick id n 8).2 % (17 - bitsFor x)
  let bw := wide 0 (w - 1)
  let bh := wide 1 (h - 1)
  let level := pick id 2 5
  let colours := pick id 3 1
  -- seq_profile, still_picture, reduced_still_picture_header, timing_info_present_flag, initial_display_delay_present_flag,
  -- operating_points_cnt_minus_1, operating_point_idc, seq_level_idx, seq_tier
  [(3, 0), flag false, flag false, flag false, flag false, (5, 0), (12, 0), level] ++ (if 7 < level.2 then [pick id 4 1] else []) ++
  -- frame width and height bits, their greatest values, frame_id_numbers_present_flag
  [(4, bw - 1), (4, bh - 1), (bw, w - 1), (bh, h - 1), flag false,
  -- use_128x128_superblock, enable_filter_intra, enable_intra_edge_filter, enable_interintra_compound, enable_masked_compound,
  -- enable_warped_motion, enable_dual_filter, enable_order_hint
    flag false, flag false, flag false, flag false, flag false, flag false, flag false, flag false,
  -- seq_choose_screen_content_tools, seq_force_screen_content_tools, enable_superres, enable_cdef, enable_restoration
    flag false, flag false, flag false, flag true, flag true,
  -- high_bitdepth, mono_chrome, color_description_present_flag and what it brings
    flag (blkDeep blk), flag false, colours] ++
  (if colours.2 = 1 then [pick id 5 8, pick id 6 8, (8, 1 + (pick id 7 8).2 % 255)] else []) ++
  -- color_range, chroma_sample_position, separate_uv_delta_q, film_grain_params_present
  [pick id 8 1, pick id 9 2, flag false, flag false]

/-- Tile columns and rows log2 of a frame, at most what its superblocks allow. -/
def tileLogs (blk : List Byte) : Nat × Nat :=
  let (w, h) := blkSize blk
  (min (blkTileCols blk) (log2Up ((w + 63) / 64)), min (blkTileRows blk) (log2Up ((h + 63) / 64)))

/-- The number of tiles along a side: of sb superblocks, cut in 2^l. -/
def tilesOf (sb l : Nat) : Nat := (sb + (sb + 2 ^ l - 1) / 2 ^ l - 1) / ((sb + 2 ^ l - 1) / 2 ^ l)

/-- The number of tiles of a frame. -/
def tileCount (blk : List Byte) : Nat :=
  let (w, h) := blkSize blk
  tilesOf ((w + 63) / 64) (tileLogs blk).1 * tilesOf ((h + 63) / 64) (tileLogs blk).2

/-- The increments that code a tile log2 of at most top. -/
def increments (l top : Nat) : List Elem := List.replicate l (flag true) ++ (if l < top then [flag false] else [])

/-- tile_info: uniform spacing. -/
def tileElems (id : Nat) (blk : List Byte) : List Elem :=
  let (w, h) := blkSize blk
  let (cols, rows) := tileLogs blk
  flag true :: increments cols (log2Up ((w + 63) / 64)) ++ increments rows (log2Up ((h + 63) / 64)) ++
    (if 0 < cols + rows then [(cols + rows, (pick id 20 8).2 % tileCount blk), pick id 21 2] else [])

/-- loop_filter_params, cdef_params and lr_params: the engine chooses strengths and types where the block enables the tool. -/
def filterElems (id : Nat) (blk : List Byte) : List Elem :=
  let level (n : Nat) : Elem := if blkFilter blk then pick id n 6 else (6, 0)
  let cbits := if blkCdef blk then pick id 36 2 else (2, 0)
  let strength (n w : Nat) : Elem := if blkCdef blk then pick id n w else (w, 0)
  let lr (n : Nat) : Elem := if blkRestore blk then pick id n 2 else (2, 0)
  let shift := pick id 33 1
  -- loop_filter_level of luma, of chroma, loop_filter_sharpness, loop_filter_delta_enabled
  [level 24, level 25] ++ (if (level 24).2 ≠ 0 ∨ (level 25).2 ≠ 0 then [level 26, level 27] else []) ++
  [if blkFilter blk then pick id 28 3 else (3, 0), flag false] ++
  -- cdef_damping_minus_3, cdef_bits, the strengths of luma and chroma
  [strength 35 2, cbits] ++ (List.range (2 ^ cbits.2)).flatMap (fun i =>
    [strength (64 + 4 * i) 4, strength (65 + 4 * i) 2, strength (66 + 4 * i) 4, strength (67 + 4 * i) 2]) ++
  -- lr_type of each plane, lr_unit_shift, lr_unit_extra_shift, lr_uv_shift
  [lr 29, lr 30, lr 31] ++
  (if (lr 29).2 ≠ 0 ∨ (lr 30).2 ≠ 0 ∨ (lr 31).2 ≠ 0 then
    shift :: (if shift.2 = 1 then [pick id 34 1] else []) ++ (if (lr 30).2 ≠ 0 ∨ (lr 31).2 ≠ 0 then [pick id 32 1] else [])
  else [])

/-- The reference slots of an inter frame by name: the first is the block's first slot and the last its second one where it has two; the
others are among them. -/
def refElems (id : Nat) (blk : List Byte) : List Elem :=
  let refs := blkRefs blk
  let first := (refs.head?).getD 0
  let second := (refs.getLast?).getD 0
  (3, first) :: (List.range 5).map (fun i => (3, if (pick id (40 + i) 1).2 = 1 then second else first)) ++ [(3, second)]

/-- The uncompressed header of the frame of a block, that no tool which R331 does not list takes part in. -/
def frameElems (id : Nat) (blk : List Byte) : List Elem :=
  let inter := blkInter blk
  let shownKey := !inter && blkShow blk
  let update := pick id 11 1
  let switchable := pick id 14 1
  let lossless := decide (blkQidx blk = 0)
  -- show_existing_frame, frame_type, show_frame, showable_frame, error_resilient_mode (a shown key frame codes none)
  [flag false, (2, inter.toNat), flag (blkShow blk)] ++ (if blkShow blk then [] else [pick id 10 1]) ++
  (if shownKey then [] else [flag false]) ++
  -- disable_cdf_update, frame_size_override_flag, primary_ref_frame, refresh_frame_flags (a shown key frame codes none)
  [update, flag false] ++ (if inter then [pick id 12 3] else []) ++ (if shownKey then [] else [(8, blkRefresh blk)]) ++
  -- ref_frame_idx, render_and_frame_size_different, allow_high_precision_mv, the interpolation filter, is_motion_mode_switchable
  (if inter then refElems id blk ++ [flag false, pick id 13 1, switchable] ++ (if switchable.2 = 1 then [] else [pick id 15 2]) ++ [flag false]
   else [flag false]) ++
  -- disable_frame_end_update_cdf, tile_info
  (if update.2 = 1 then [] else [pick id 16 1]) ++ tileElems id blk ++
  -- base_q_idx, delta_coded of three coefficients, using_qmatrix, segmentation_enabled, delta_q_present
  [(8, blkQidx blk), flag false, flag false, flag false, flag false, flag false] ++
  (if lossless then [] else flag false :: filterElems id blk ++ [pick id 17 1]) ++
  -- (tx_mode_select ends the line above) reference_select, reduced_tx_set, is_global of seven references
  (if inter then [flag (blkCompound blk)] else []) ++ [pick id 18 1] ++ (if inter then List.replicate 7 (flag false) else [])

/-! ### The temporal unit -/

/-- An unsigned number in a leb128 field of w bytes. -/
def leb128 (w v : Nat) : List Byte :=
  (List.range w).map (fun i => BitVec.ofNat 8 (v / 2 ^ (7 * i) % 128 + (if i + 1 < w then 128 else 0)))

/-- The bytes of a leb128 field for a payload that fills n bytes together with it. -/
def lebWidth (n : Nat) : Nat := ((List.range 8).find? (fun w => decide (1 ≤ w) && decide (n < w + 2 ^ (7 * w)))).getD 8

/-- An OBU with obu_has_size_field set, of a type, that takes n bytes in all: the head of its payload, and what follows it. -/
def obu (typ n : Nat) (head : List Byte) (rest : Nat → Byte) : List Byte :=
  let w := lebWidth (n - 1)
  let k := n - 1 - w
  BitVec.ofNat 8 (8 * typ + 2) :: leb128 w k ++ head ++ (List.range (k - head.length)).map rest

/-- The payload of the sequence header OBU, its trailing bits among it. -/
def seqHead (id : Nat) (blk : List Byte) : List Byte := bitBytes (elemBits (seqElems id blk ++ [flag true]))

/-- The head of the payload of the frame OBU: the frame header, and of a frame of several tiles tile_start_and_end_present_flag. -/
def frameHead (id : Nat) (blk : List Byte) : List Byte :=
  bitBytes (elemBits (frameElems id blk)) ++ (if 1 < tileCount blk then [0#8] else [])

/-- The bytes of the sequence header OBU, where the block asks for one. -/
def seqBytes (id : Nat) (blk : List Byte) : Nat := if blkHeader blk then 2 + (seqHead id blk).length else 0

/-- The least bytes of the tiles of a frame: one each, and the size of each but the last. -/
def tileMin (id : Nat) (blk : List Byte) : Nat := tileCount blk + (tileCount blk - 1) * ((pick id 21 2).2 + 1)

/-- The least bytes of a temporal unit: its delimiter, the sequence header that the block asks for, and a frame. -/
def unitMin (id : Nat) (blk : List Byte) : Nat :=
  let k := (frameHead id blk).length + tileMin id blk
  2 + seqBytes id blk + 1 + ((List.range 8).find? (fun w => decide (k < 2 ^ (7 * w)))).getD 8 + k

/-- The temporal unit of n bytes that the engine of a command writes for a block: a temporal delimiter, the sequence header that the block asks
for, and one frame OBU, whose tiles are free. -/
def temporalUnit (id : Nat) (blk : List Byte) (n : Nat) (tiles : Nat → Byte) : List Byte :=
  [0x12#8, 0x00#8] ++ (if blkHeader blk then obu 1 (seqBytes id blk) (seqHead id blk) tiles else []) ++
    obu 6 (n - 2 - seqBytes id blk) (frameHead id blk) tiles

end Sys2Proof.Machine
end

