-- ==== Sys2Proof/Machine/ExecLaunch.lean ====
section
/-! DEFINITION. The meanings of the kernel and queue instructions: FJMP, CFETCH, CINV, LAUNCH, QCTL, KSTOP, KQ, LEAVE and NOTIFY
(R98 to R101, R123 to R133), and the operations on queues that the host's commands share (R90). -/

namespace Sys2Proof.Machine

/-! ### Code overlay (R126 to R128) -/

/-- FJMP acts with any em (R125, R128). -/
def execFjmp (k : Ctl) (a : Reg) (n : BitVec 14) : State → Host.Outcome State Fault Refusal :=
  bounding (.fjmp k a n) (fun s rid c =>
    let slot := n.toNat % 16
    let x := c.uval 1 a
    if !c.uni 1 a then .error c.diverges
    else if !s.slotOk c slot true then .error (c.operandFault 4)
    else
      match (s.codeSlot (ridBay rid) c.kernel slot).code? with
      | none => .error (c.crewTrap 0x017 slot)
      | some _ =>
        if s.marked rid c slot (x : Nat) then .ok (s.finish rid k { c with slot := slot, pc := x } [])
        else .error (c.badTarget slot (x : Nat)))

/-- A range of a crew's context, each piece translated as the crew's accesses are. -/
def State.crewRange (s : State) (rid : Nat) (c : Crew) (va n : Nat) (need : Need) : Except Stop (List (Nat × Hit × Nat)) :=
  if decide (2 ^ 55 < va + n) then .error (c.trapAt 0x032 0 (max va (2 ^ 55)) c.low)
  else
    match reachOf (fun v => s.xlat (ridBay rid) (c.ctx s) v need) (pieces va n) with
    | .ok l => .ok l
    | .fault kind copy at_ => .error (.fault ⟨kind, at_, decide (need = .write), copy, c.low⟩)
    | .bad cause => .error (.ctx cause)

/-- The phase barrier of a CFETCH, checked as a COPY's (R126, R323). -/
def State.fetchBar (s : State) (rid : Nat) (c : Crew) (va : Nat) : Except Stop Nat :=
  match s.objCheck rid c va .write with
  | .error e => .error e
  | .ok h =>
    match Bar.mode.get (s.num h.pa 32) with
    | 1 => .ok h.pa
    | 2 => .error (c.trapAt 0x051 2 va c.low)
    | _ => .error (c.trapAt 0x051 1 va c.low)

/-- The command of a code fetch (R126). -/
def State.fetchCmd (s : State) (rid : Nat) (c : Crew) (slot lines va bar barVa : Nat) : Cmd :=
  { id := s.serial, kind := .cfetch slot lines, k := c.kernel, crew := c.idx, ctx := c.ctx s, bay := ridBay rid, desc := va,
    bar := some bar, barVa := barVa, batch := 0, after := [], leave := false, stage := .waiting, done := 0, list := none,
    aborted := false, late51 := false, pc := c.pc, latePc := c.latePc, stroke := c.srStroke, window := none, ready := none,
    status := none, fault := none, engine := none }

/-- Begin a code fetch: a fill of the slot in progress is aborted, its old contents go, and the fetch registers (R126). -/
def State.beginFetch (s : State) (m : Cmd) (slot lines : Nat) : State :=
  let s := s.abortFill m.bay m.k slot
  let s := (s.setSlot m.bay m.k slot (.filling m.desc lines (some m.id)))
  let s := { s with cmds := s.cmds ++ [m], serial := s.serial + 1 }
  match m.regn with | some r => s.register r | none => s

/-- CFETCH (R126). -/
def execCfetch (k : Ctl) (a b : Reg) (n : BitVec 14) : State → Host.Outcome State Fault Refusal :=
  bounding (.cfetch k a b n) (fun s rid c =>
    let next := { c with pc := s.nextPc rid c }
    let slot := n.toNat % 16
    let lines := n.toNat / 16 % 32 + 1
    let va := c.uval 2 a
    let bva := c.uval 2 b
    if c.em = 0#32 then .ok (s.finish rid k next [])
    else if !c.uni 2 a || !c.uni 2 b then .error c.diverges
    else if !s.slotOk c slot false then .error (c.operandFault 4)
    else
      match c.addrCheck' va 128 c.low with
      | some e => .error e
      | none =>
        match s.fetchBar rid c bva with
        | .error e => .error e
        | .ok pa =>
          match s.crewRange rid c va (128 * lines) .fetch with
          | .error e => .error e
          | .ok _ =>
            let m := s.fetchCmd rid c slot lines va pa bva
            match m.regn.bind s.regRefused with
            | some x => .error (c.trapAt 0x052 x bva c.low)
            | none => .ok ((s.finish rid k next []).beginFetch m slot lines))

/-- CINV (R127). -/
def execCinv (k : Ctl) (n : BitVec 14) : State → Host.Outcome State Fault Refusal :=
  bounding (.cinv k n) (fun s rid c =>
    let next := { c with pc := s.nextPc rid c }
    let slot := n.toNat % 16
    if c.em = 0#32 then .ok (s.finish rid k next [])
    else if !s.slotOk c slot false then .error (c.operandFault 4)
    else .ok (((s.finish rid k next []).abortFill (ridBay rid) c.kernel slot).setSlot (ridBay rid) c.kernel slot .empty))

/-! ### LAUNCH (R99) -/

/-- A crew's result in every active lane; the crew goes on after its instruction. -/
def State.result (s : State) (rid : Nat) (k : Ctl) (c : Crew) (d : Reg) (v : Nat) : State :=
  s.finish rid k { c with pc := s.nextPc rid c } (cellsIn c.active 1 d (fun _ => v))

/-- LAUNCH (R99). Its record must be writable at the handle word, tested before the launch is posted, and the handle is written into
memory as no stroke (log 88). -/
def execLaunch (k : Ctl) (d a : Reg) : State → Host.Outcome State Fault Refusal :=
  bounding (.launch k d a) (fun s rid c =>
    let va := c.uval 2 a
    if c.em = 0#32 then .ok (s.finish rid k { c with pc := s.nextPc rid c } [])
    else if !c.uni 2 a then .error c.diverges
    else
      match c.addrCheck' va 64 c.low with
      | some e => .error e
      | none =>
        match s.crewRange rid c va 256 .read with
        | .error e => .error e
        | .ok l =>
          let launch := ofBytes (s.readPieces l)
          let q := Lch.queue.get launch
          match s.launchTest (c.ctx s) launch Que.dev true q with
          | .refused st => .ok (s.result rid k c d st)
          | .bad cause => .error (.ctx cause)
          | .post y deps =>
            match s.crewRange rid c (va + 4) 4 .write with
            | .error e => .error e
            | .ok h =>
              let s := (s.result rid k c d 0).postKernel y q launch deps
              .ok (s.writePieces h (toBytes 4 (s.handle y))))

/-! ### Queues (R90, R91, R100) -/

/-- No kernel of a queue is admitted (R90): choices of the cox are withdrawn. -/
def State.withdrawAll (s : State) (q : Nat) : State :=
  s.kernels.foldl (fun s p => if p.2.queue = q then s.withdraw p.1 else s) s

/-- HOLD of an open queue: the status and the state. -/
def State.holdQueue (s : State) (q : Nat) : Nat × State :=
  if s.fld .queue q Que.state = 1 then (0, ((s.withdrawAll q).setFld .queue q Que.state 2).refreshCandidates) else (2, s)

/-- RELEASE of a held queue. -/
def State.releaseQueue (s : State) (q : Nat) : Nat × State :=
  if s.fld .queue q Que.state = 2 then (0, (s.setFld .queue q Que.state 1).kick) else (2, s)

/-- A kernel is posted and not yet admitted (R90, R110). -/
def Kernel.unadmitted (y : Kernel) : Bool :=
  y.ending.isNone && (match y.state with | .posted => true | .blocked => true | .ready => true | .stopped => !y.begun | _ => false)

/-- FLUSH of an open or held queue: every kernel not yet admitted retires as cancelled, at once, so that the next command of the queue sees
the complete effect (R89). -/
def State.flushQueue (s : State) (q : Nat) : Nat × State :=
  if s.fld .queue q Que.state = 0 then (2, s)
  else (0, s.kernels.foldl (fun s p => if p.2.queue = q ∧ p.2.unadmitted = true then (s.killKernel p.1 1).tryRetire p.1 else s) s)

/-- A QCTL: the checks of R100 in their order, then the operation; free is what a free queue gives. -/
def qctl (k : Ctl) (d a : Reg) (free : Nat) (op : State → Crew → Nat → Except Stop (Nat × State)) : BBody := fun s rid c =>
  let x := c.uval 1 a
  if c.em = 0#32 then .ok (s.finish rid k { c with pc := s.nextPc rid c } [])
  else if !c.uni 1 a then .error c.diverges
  else if 2 ^ 12 ≤ x then .ok (s.result rid k c d 4)
  else if s.fld .queue x Que.state = 0 then .ok (s.result rid k c d free)
  else if s.qcfg x Que.ctx ≠ c.ctx s ∧ c.ctx s ≠ 0 then .ok (s.result rid k c d 7)
  else
    match op s c x with
    | .error e => .error e
    | .ok (st, _) =>
      -- the crew's result first: the operation may reach the crew itself
      match op (s.result rid k c d st) c x with
      | .ok (_, t) => .ok t
      | .error e => .error e

/-- QCTL.hold (R100). -/
def execQctlHold (k : Ctl) (d a : Reg) : State → Host.Outcome State Fault Refusal :=
  bounding (.qctlHold k d a) (qctl k d a 2 (fun s _ q => .ok (s.holdQueue q)))

/-- QCTL.release (R100). -/
def execQctlRelease (k : Ctl) (d a : Reg) : State → Host.Outcome State Fault Refusal :=
  bounding (.qctlRelease k d a) (qctl k d a 2 (fun s _ q => .ok (s.releaseQueue q)))

/-- QCTL.flush (R100). -/
def execQctlFlush (k : Ctl) (d a : Reg) : State → Host.Outcome State Fault Refusal :=
  bounding (.qctlFlush k d a) (qctl k d a 2 (fun s _ q => .ok (s.flushQueue q)))

/-- A queue's class changes (R100): from the cox's next choice on, and in the record that software reads (log 88). -/
def State.setClass (s : State) (q n : Nat) : Nat × State :=
  if 8 ≤ n then (3, s)
  else (0, { s.setFld .queue q Que.cls n with queueCfg := s.queueCfg.set q (Que.cls.set (s.queueCfg.getD q 0) n) })

/-- QCTL.class (R100). -/
def execQctlClass (k : Ctl) (d a b : Reg) : State → Host.Outcome State Fault Refusal :=
  bounding (.qctlClass k d a b) (fun s rid c =>
    if c.em ≠ 0#32 && !c.uni 1 b then .error c.diverges
    else qctl k d a 2 (fun s _ q => .ok (s.setClass q (c.uval 1 b))) s rid c)

/-- The word of QCTL.query (R100). -/
def State.queryWord (s : State) (q : Nat) : Nat :=
  s.fld .queue q Que.state + 2 ^ 4 * s.qcfg q Que.cls + 2 ^ 8 * s.qcfg q Que.policy + 2 ^ 16 * s.fld .queue q Que.nposted

/-- QCTL.query (R100). -/
def execQctlQuery (k : Ctl) (d a : Reg) : State → Host.Outcome State Fault Refusal :=
  bounding (.qctlQuery k d a) (qctl k d a 0 (fun s _ q => .ok (s.queryWord q, s)))

/-! ### KSTOP and KQ (R130 to R132) -/

/-- The kernel that a handle names for a crew, or the status. -/
def State.named (s : State) (c : Crew) (h : Nat) : Except Nat Nat :=
  let y := h % 2 ^ 14
  if s.handle y ≠ h then .error 0x0A
  else if (s.kern y).ctx ≠ c.ctx s ∧ c.ctx s ≠ 0 then .error 7
  else .ok y

/-- A KSTOP: the handle, the status of its effect, and the effect once the caller's result stands. -/
def kstop (k : Ctl) (d a : Reg) (status : State → Nat → Nat) (effect : State → Nat → State) : BBody := fun s rid c =>
  if c.em = 0#32 then .ok (s.finish rid k { c with pc := s.nextPc rid c } [])
  else if !c.uni 1 a then .error c.diverges
  else
    match s.named c (c.uval 1 a) with
    | .error st => .ok (s.result rid k c d st)
    | .ok y =>
      let st := status s y
      let t := s.result rid k c d st
      .ok (if st = 0 then effect t y else t)

/-- The status of a .stop (R131); a kernel already killed or cancelled and not yet retired takes the last row (log 90). -/
def State.stopStatus (s : State) (y : Nat) : Nat :=
  let z := s.kern y
  if z.ending.isSome then 0x0B
  else
    match z.state with
    | .posted | .blocked | .ready => 0
    | .admitted | .placing | .running | .trapped => if s.lch y Lch.nsave = 0 then 0x0C else 0
    | .stopping | .stopped | .retired | .faulted => 0x0B

/-- The effect of a .stop (R110, R131). -/
def State.stopNow (s : State) (y : Nat) : State :=
  match (s.kern y).state with
  | .posted | .blocked | .ready =>
    (((s.withdraw y).setKern y (fun z => { z with candidate := none, aged := false })).setKState y .stopped).kick
  | _ => s.startStop y .kstop

/-- KSTOP.stop (R131). -/
def execKstopStop (k : Ctl) (d a : Reg) : State → Host.Outcome State Fault Refusal :=
  bounding (.kstopStop k d a) (kstop k d a State.stopStatus State.stopNow)

/-- The effect of a .kill (R131): a kernel already on its way to retire keeps its cause. -/
def State.killNow (s : State) (y : Nat) : State := if (s.kern y).ending.isSome then s else s.killKernel y 2

/-- KSTOP.kill (R131). -/
def execKstopKill (k : Ctl) (d a : Reg) : State → Host.Outcome State Fault Refusal :=
  bounding (.kstopKill k d a) (kstop k d a (fun s y => if (s.kern y).state = .retired then 0x0B else 0) State.killNow)

/-- The status of a .resume (R131). -/
def State.resumeStatus (s : State) (y : Nat) : Nat :=
  let z := s.kern y
  if z.ending.isSome then 0x0B else match z.state with | .stopped => 0 | .trapped => 0 | _ => 0x0B

/-- The effect of a .resume (R110, R131). -/
def State.resumeNow (s : State) (y : Nat) : State :=
  match (s.kern y).state with
  | .stopped =>
    if (s.kern y).deps.isEmpty then s.readyKernel y else (s.setKState y .blocked).post (.kernel y) .kernelDependenceMet
  | .trapped => s.setKState y .running
  | _ => s

/-- KSTOP.resume (R131). -/
def execKstopResume (k : Ctl) (d a : Reg) : State → Host.Outcome State Fault Refusal :=
  bounding (.kstopResume k d a) (kstop k d a State.resumeStatus State.resumeNow)

/-- The code of a kernel state (R132). -/
def KState.code : KState → Nat
  | .posted => 0 | .blocked => 1 | .ready => 2 | .admitted => 3 | .placing => 4 | .running => 5 | .stopping => 6 | .stopped => 7
  | .trapped => 8 | .retired => 9 | .faulted => 10

/-- The two words of KQ (R132). -/
def State.kqWords (s : State) (c : Crew) (h : Nat) : Nat :=
  match s.named c h with
  | .error st => st * 2 ^ 8
  | .ok y => (s.kern y).state.code + (s.kern y).cause * 2 ^ 4 + (s.kern y).exited * 2 ^ 32

/-- KQ (R132). -/
def execKq (k : Ctl) (d a : Reg) : State → Host.Outcome State Fault Refusal :=
  bounding (.kq k d a) (fun s rid c =>
    let next := { c with pc := s.nextPc rid c }
    if c.em = 0#32 then .ok (s.finish rid k next [])
    else if !c.uni 1 a then .error c.diverges
    else .ok (s.finish rid k next (cellsIn c.active 2 d (fun _ => s.kqWords c (c.uval 1 a)))))

/-! ### LEAVE (R133) -/

/-- Lower a level: the units go back (R133). -/
def State.lowerLevel (s : State) (b k g : Nat) : State :=
  let n := s.level b k - g
  let d := dieOf b
  (((s.returnUnits d n).setKern k (fun y => y.setHeld d (y.held d - n))).onBayKernel b k
    (fun x => { x with level := g, openLeave := none })).kick

/-- LEAVE (R133): a raise asks the die's governor, and the crew waits 100 clk at most for the answer. -/
def execLeave (k : Ctl) (d a : Reg) : State → Host.Outcome State Fault Refusal :=
  bounding (.leave k d a) (fun s rid c =>
    let x := c.uval 1 a
    let b := ridBay rid
    let now := s.level b c.kernel
    if c.em = 0#32 then .ok (s.finish rid k { c with pc := s.nextPc rid c } [])
    else if !c.uni 1 a then .error c.diverges
    else if 16 ≤ x then .ok (s.result rid k c d 4)
    else if x ≤ now then .ok ((s.result rid k c d 0).lowerLevel b c.kernel x)
    else
      let n := s.serial
      let s := s.sleep rid k c (.leaveAsk n d.toNat (s.clock + 100))
      let s := s.onBayKernel b c.kernel (fun y => { y with openLeave := some n })
      .ok { s with gov := s.gov ++ [⟨dieOf b, .leave b c.kernel n x (x - now)⟩] })

/-! ### NOTIFY (R101) -/

/-- The body of a NOTIFY message (R103). -/
def State.notifyBody (s : State) (c : Crew) (code : Nat) (payload : List Byte) : List Byte :=
  toBytes 2 (c.ctx s) ++ toBytes 2 code ++ toBytes 4 (s.handle c.kernel) ++ toBytes 4 c.idx ++ toBytes 4 0 ++ payload

/-- The payload of a NOTIFY, read outside any stroke (R101); one of length 0 reads nothing and its address is not checked (log 88). -/
def State.payload (s : State) (rid : Nat) (c : Crew) (va n : Nat) : Except Stop (List Byte) :=
  if n = 0 then .ok []
  else if !canonical va then .error (c.trapAt 0x032 0 va c.low)
  else if isPeer va then .error (c.trapAt 0x021 0 va c.low)
  else match s.crewRange rid c va n .read with | .error e => .error e | .ok l => .ok (s.readPieces l)

/-- NOTIFY (R101): the crew is held while the replay window has no room. -/
def execNotify (k : Ctl) (a b : Reg) : State → Host.Outcome State Fault Refusal :=
  bounding (.notify k a b) (fun s rid c =>
    let next := { c with pc := s.nextPc rid c }
    let x := c.uval 1 b
    let n := x % 2 ^ 11
    if c.em = 0#32 then .ok (s.finish rid k next [])
    else if !c.uni 2 a || !c.uni 1 b then .error c.diverges
    else if slice 15 11 x ≠ 0 ∨ 1024 < n then .error (c.operandFault 2)
    else
      match s.payload rid c (c.uval 2 a) n with
      | .error e => .error e
      | .ok bs =>
        if s.windowFull || !s.host.waiting.isEmpty then .error (.wait .window)
        else .ok ((s.finish rid k next []).sendSeq 0x85 (c.ctx s) (s.notifyBody c (slice 31 16 x) bs)))

end Sys2Proof.Machine
end

