-- ==== Sys2Proof/Machine/EvKernel.lean ====
section
/-! DEFINITION. The events of kernels: dependences, choice, admission, placing, stopping and retirement (R93, R94, R109 to R118, R124,
R133, R426). -/

namespace Sys2Proof.Machine

/-- KERNEL_DEPENDENCE_MET (R109, R110). -/
def execKernelDependenceMet (s : State) : Host.Outcome State Fault Refusal := atKernel s (fun k => s.judgeKernel k)

/-- CANDIDATE_AGED (R93): 50,000 ns after it became a candidate. -/
def execCandidateAged (s : State) : Host.Outcome State Fault Refusal :=
  atKernel s (fun k =>
    match (s.kern k).candidate with
    | some t => if (s.kern k).aged || decide (s.time < t + 50000) then s else (s.setKern k (fun y => { y with aged := true })).kick
    | none => s)

/-- COX_CHOOSE (R93, R94, R96, R112). -/
def execCoxChoose (s : State) : Host.Outcome State Fault Refusal :=
  let s := s.refreshCandidates
  .next (State.tryAll s.candidates s)

/-- A candidate that comes before kernel k has aged and is not admitted (R94), be it with a grant of its own on the way. -/
def State.agedBefore (s : State) (k : Nat) : Bool :=
  s.kernels.any (fun p => decide (p.1 ≠ k) && p.2.aged && s.isCandidate p.1 && lexLe (s.rank p.1) (s.rank k))

/-- A grant of units for a choice that still stands (R112): with the last one the kernel is admitted where its first placement still
fits, it is still a candidate and none that comes before it has aged unadmitted; else it is passed over. -/
def State.granted (s : State) (k d n : Nat) : State :=
  let s := s.setKern k (fun y =>
    { y.setHeld d (y.held d + n) with chosen := y.chosen.map (fun l => l.filter (fun x => decide (x ≠ d))) })
  if (s.kern k).chosen = some [] then
    let plan := (s.kern k).plan
    let fits : Bool :=
      if s.lch k Lch.persistent = 1 then (s.baysTaking k plan (s.ncrews k) []).isSome
      else plan.any (fun b => decide (0 < s.bayCrews b k))
    if fits && s.isCandidate k && !s.agedBefore k then s.admitKernel k else (s.withdraw k).kick
  else s

/-- ADMISSION_GRANT (R94, R112): the first answer for a kernel; units for a choice that no longer stands go back, and the cox looks again
where units do. -/
def execAdmissionGrant (s : State) : Host.Outcome State Fault Refusal :=
  atKernel s (fun k =>
    match s.answers.find? (fun a => match a.1.what with | .admission j _ _ => decide (j = k) | .raise .. => false | .leave .. => false) with
    | some (r, ok) =>
      let s := { s with answers := s.answers.erase (r, ok) }
      match r.what with
      | .admission _ a n =>
        let y := s.kern k
        let stands := decide (y.attempt = a) && (match y.chosen with | some l => l.contains r.die | none => false)
        if ok then (if stands then s.granted k r.die n else (s.returnUnits r.die n).kick)
        else if stands then (if y.held0 + y.held1 = 0 then s.withdraw k else (s.withdraw k).kick)
        else s
      | .raise .. => s
      | .leave .. => s
    | none => s)

/-- Units that a request asks for. -/
def GovWhat.units : GovWhat → Nat
  | .admission _ _ n => n
  | .raise .. => 1
  | .leave _ _ _ _ n => n

/-- GOVERNOR_REQUEST (R426): the first request at a die's governor. -/
def execGovernorRequest (s : State) : Host.Outcome State Fault Refusal :=
  atDie s (fun d =>
    match s.gov.find? (fun r => decide (r.die = d)) with
    | some r =>
      let s := { s with gov := s.gov.erase r }
      let held := s.fld .power 0 (heldFld d)
      if held + r.what.units ≤ s.fld .power 0 (budgetFld d) then
        { s.setFld .power 0 (heldFld d) (held + r.what.units) with answers := s.answers ++ [(r, true)] }
      else { s with answers := s.answers ++ [(r, false)] }
    | none => s)

/-- The order in which the cox stops kernels for a candidate (R117): lowest class, then latest deadline, none being the latest; of
equal ones the lower kernel slot (log 90). -/
def State.victimRank (s : State) (k : Nat) : List Nat :=
  let dl := s.lch k Lch.deadline
  [s.qcfg (s.kern k).queue Que.cls, if dl = 0 then 0 else 2 ^ 64 - dl, k]

/-- The kernel that the cox stops first for a candidate. -/
def State.victim (s : State) (k : Nat) : Option Nat :=
  let cls := s.qcfg (s.kern k).queue Que.cls
  ((s.kernels.filter (fun p => decide (p.2.state = .running) && p.2.ending.isNone && decide (s.lch p.1 Lch.nsave ≠ 0) &&
      decide (s.qcfg p.2.queue Que.cls < cls))).map Prod.fst).foldl (fun best x =>
    match best with
    | some y => if lexLe (s.victimRank y) (s.victimRank x) then some y else some x
    | none => some x) none

/-- COX_PREEMPT (R117): for an aged candidate that does not fit, one kernel at a time, until it does. -/
def execCoxPreempt (s : State) : Host.Outcome State Fault Refusal :=
  atKernel s (fun k =>
    if s.isCandidate k && (s.kern k).aged && (s.planOf k).isNone && !s.kernels.any (fun p => decide (p.2.stop = some .cox)) then
      match s.victim k with
      | some v => s.startStop v .cox
      | none => s
    else s)

/-- KERNEL_PLACING (R110, R115, R138): the bent table is read. A kernel whose crews have all exited before a stop was complete is done. -/
def execKernelPlacing (s : State) : Host.Outcome State Fault Refusal :=
  atKernel s (fun k =>
    if (s.kern k).state ≠ .admitted ∨ (s.kern k).ending.isSome = true then s
    else
      match s.bentTable k with
      | .ok (some l) =>
        let s := (s.setKern k (fun y => { y with bents := l })).setKState k .placing
        if s.ncrews k ≤ (s.kern k).exited then ((s.setKState k .running).post (.kernel k) .kernelRetire).kick else s
      | .ok none => s.faultKernel k 0x001 0 0 0
      | .unreadable => s.faultKernel k 0x001 0 0 0
      | .bad cause => (s.ctxFault (s.kern k).ctx cause).kick)

/-- LAUNCH_SEGMENT_FETCHED (R122 to R124, R395): the fetches of a kernel on a bay complete. -/
def execLaunchSegmentFetched (s : State) : Host.Outcome State Fault Refusal :=
  match s.place with
  | .kernelBay k b => .next ((s.coxFills b k).foldl (fun s p => s.fillSlot b k p.1 p.2.1 p.2.2) s)
  | _ => .next s

/-- The context fault that a bad walk of a save slot of a kernel raises (R80). -/
def State.saveBad (s : State) (k : Nat) : Option Nat :=
  (s.kern k).keep.findSome? (fun p =>
    match p.2.save with
    | some slot => (match s.saveReach k slot .read with | .bad cause => some cause | .ok _ => none | .fault _ _ _ => none)
    | none => none)

/-- CREW_PLACE (R115, R122, R139): one crew on a side; or at a kernel's place, all the crews of a persistent kernel. -/
def execCrewPlace (s : State) : Host.Outcome State Fault Refusal :=
  match s.place with
  | .kernelSide k b d =>
    if s.places k && decide (s.lch k Lch.persistent = 0) then .next ((s.placeOn k b d).getD s) else .next s
  | .kernel k =>
    if s.places k && decide (s.lch k Lch.persistent = 1) then
      match s.saveBad k with
      | some cause => .next (s.ctxFault (s.kern k).ctx cause)
      | none => .next ((State.placeAll k (s.ncrews k) s).getD s)
    else .next s
  | _ => .next s

/-- KERNEL_STOP_MESSAGE (R117, R118). -/
def execKernelStopMessage (s : State) : Host.Outcome State Fault Refusal :=
  atKernel s (fun k =>
    if (s.kern k).state = .stopping ∧ (s.kern k).messaged = true ∧ (s.kern k).ending = none then
      ((s.ridsOf k).foldl State.stopCrew s).post (.kernel k) .stopCutComplete
    else s)

/-- CREW_SAVE (R118, R120). -/
def execCrewSave (s : State) : Host.Outcome State Fault Refusal :=
  match s.place with
  | .save rid slot =>
    match s.crews.get? rid with
    | some c =>
      if (s.kern c.kernel).state = .stopping ∧ (s.kern c.kernel).ending = none ∧ s.drained c = true ∧
          s.saveFree c.kernel slot = true then .next (s.saveCrew rid slot c)
      else .next s
    | none => .next s
  | _ => .next s

/-- STOP_CUT_COMPLETE (R110, R112, R117). -/
def execStopCutComplete (s : State) : Host.Outcome State Fault Refusal :=
  atKernel s (fun k =>
    if s.cutDone k then
      let who := (s.kern k).stop
      let s := ((s.releaseUnits k).leaveBays k).setKern k (fun y => { y with stop := none, messaged := false })
      let s := if who = some .kstop then s.setKState k .stopped else s.readyKernel k
      s.sendStops.kick
    else s)

/-- KERNEL_RETIRE (R111). -/
def execKernelRetire (s : State) : Host.Outcome State Fault Refusal := atKernel s (fun k => s.tryRetire k)

/-- Effective urgency of a kernel (R114). -/
def State.urgencyOf (s : State) (k : Nat) : Nat :=
  let dl := s.lch k Lch.deadline
  let u := s.lch k Lch.urgency
  if dl = 0 ∨ s.time + 100000 < dl then u else if s.time ≤ dl then min 3 (u + 1) else 3

/-- URGENCY_UPDATE (R114). -/
def execUrgencyUpdate (s : State) : Host.Outcome State Fault Refusal :=
  atKernel s (fun k => s.setKern k (fun y => { y with urg := s.urgencyOf k }))

end Sys2Proof.Machine
end

