-- ==== Sys2Proof/Machine/EvEngine.lean ====
section
/-! DEFINITION. The events of the engines: units, code fetches, encodes and the ends of commands (R126, R242, R257, R310, R322 to R331). -/

namespace Sys2Proof.Machine

/-- Run an event at an engine command by its number. -/
def atCmd (s : State) (f : Cmd → State) : Host.Outcome State Fault Refusal :=
  atEntry s (fun id => match s.cmds.find? (fun m => decide (m.id = id)) with | some m => f m | none => s)

/-- A waiting command may start: every command before its marker has completed (R242), and it waits for no leave (R322). -/
def State.mayStart (s : State) (m : Cmd) : Bool := !m.leave && m.after.all (fun id => !s.cmds.any (fun x => decide (x.id = id)))

/-! ### Engines (R12, R27) -/

/-- The end of a COPY that lies at a peer. -/
def Cmd.atPeer (m : Cmd) : Bool :=
  match m.kind with
  | .copy => isPeer (sext56 (slice 55 0 m.desc)) || isPeer (sext56 (slice 119 64 m.desc))
  | .gather => false
  | .scatter => false
  | .encode => false
  | .cfetch _ _ => false

/-- The engines of a die of which a command needs one: copy engines, encode engines, or none for a code fetch and for a COPY that the link
unit performs (R324). -/
def Cmd.engines (m : Cmd) : Nat :=
  if m.kind.moves then (if m.atPeer then 0 else Config.copyEngines) else if m.kind.encodes then Config.encodeEngines else 0

/-- The first engine of a die that serves no command and could serve this one. -/
def State.engineOn (s : State) (m : Cmd) (d : Nat) : Option (Nat × Nat) :=
  ((List.range m.engines).find? (fun i =>
    !s.cmds.any (fun x => decide (x.engine = some (d, i)) && decide (x.kind.encodes = m.kind.encodes)))).map (fun i => (d, i))

/-- A byte of a command lies on the other die. -/
def State.farAway (s : State) (m : Cmd) (va : Nat) : Bool :=
  match s.xlatEng m.bay m.ctx va .read with
  | .ok h => !h.stash && decide (homeDie h.pa ≠ dieOf m.bay)
  | .fault _ _ => false
  | .bad _ => false

/-- Every line of a range lies on the other die. -/
def State.allFar (s : State) (m : Cmd) (va n : Nat) : Bool :=
  (List.range (n / 16)).all (fun i => s.farAway m ((va + 16 * i) % 2 ^ 64))

/-- Source and destination of a COPY both lie on the other die (R27): all of either. -/
def State.bothFar (s : State) (m : Cmd) : Bool :=
  match m.kind with
  | .copy => (List.range m.units).all (fun u => let (src, dst, n) := copyUnit m.desc u; s.allFar m src n && s.allFar m dst n)
  | .gather => false
  | .scatter => false
  | .encode => false
  | .cfetch _ _ => false

/-- The engine that a command goes to (R27): one of the issuing crew's die whenever one is free there, else one of the other die; by free
choice one of the other die where source and destination both lie there. -/
def State.engineFor (s : State) (m : Cmd) : Option (Nat × Nat) :=
  let far := s.engineOn m (1 - dieOf m.bay)
  if far.isSome && s.bothFar m && decide (s.choice 5 % 2 = 1) then far else (s.engineOn m (dieOf m.bay)).or far

/-- A command can go on now: it has an engine or finds one, and the broadcast path of its truss takes it (R17). -/
def State.served (s : State) (m : Cmd) : Bool :=
  (decide (m.engines = 0) || m.engine.isSome || (s.engineFor m).isSome) && (!m.casts || s.castTurn m)

/-- A command takes an engine where it needs one and has none. -/
def State.engage (s : State) (m : Cmd) : State :=
  if m.engines = 0 ∨ m.engine.isSome = true then s else s.mapCmd m.id (fun x => { x with engine := s.engineFor m })

/-! ### Units (R322 to R326) -/

/-- One end of the COPY lies at a peer. -/
def Cmd.peerEnds (m : Cmd) : Option (Bool × Bool) :=
  match m.kind with
  | .copy =>
    let src := isPeer (sext56 (slice 55 0 m.desc))
    let dst := isPeer (sext56 (slice 119 64 m.desc))
    if src || dst then some (src, dst) else none
  | .gather => none
  | .scatter => none
  | .encode => none
  | .cfetch _ _ => none

/-- A command is aborted: nothing more of it lands. -/
def State.abortOne (s : State) (m : Cmd) : State :=
  (s.mapCmd m.id (fun x => { x with aborted := true, fault := none })).post (.entry m.id) .engineCommandComplete

/-- The index list of a GATHER or SCATTER, read at the start (R326); an entry in a poisoned line stands as 2^32, with a late record
for the line (R287). -/
def State.readList (s : State) (m : Cmd) : Except State State :=
  let va := sext56 (slice 183 128 m.desc)
  let n := (listShape m.desc).1
  match s.need m va (4 * n) .read with
  | .error t => .error t
  | .ok l =>
    let entry (i : Nat) : Nat :=
      let pa := paAt l (va + 4 * i)
      if s.poisoned.contains (lineOf pa) then 2 ^ 32 else s.num pa 4
    let bad := (List.range n).filter (fun i => decide (entry i = 2 ^ 32) && (decide (i = 0) || decide (paAt l (va + 4 * i) % 128 = 0)))
    .ok ((s.mapCmd m.id (fun x => { x with list := some ((List.range n).map entry) })).latePoison m (bad.map (fun i => va + 4 * i)))

/-- A unit has been performed: it lands, and with the last one the command is complete. -/
def State.unitDone (s : State) (m : Cmd) (n : Nat) : State :=
  let s := (s.landCmd m n).mapCmd m.id (fun x => { x with done := m.done + 1 })
  if m.units ≤ m.done + 1 then s.post (.entry m.id) .engineCommandComplete else s

/-- The accesses of unit u of a COPY with a peer end, in words of 16 bytes: writes of the source's words, but for those of poisoned
lines, or reads. -/
def State.copyAccs (s : State) (m : Cmd) (from_ : Option (List (Nat × Hit × Nat))) (u : Nat) : List PeerAcc :=
  let (src, dst, n) := copyUnit m.desc u
  (List.range (n / 16)).filterMap (fun i =>
    match from_ with
    | some l =>
      let pa := paAt l ((src + 16 * i) % 2 ^ 64)
      let va := (dst + 16 * i) % 2 ^ 64
      if s.poisoned.contains (lineOf pa) then none
      else some { lane := i, va := va, op := .put (peerOff va) 16 (s.num pa 16), bytes := 16 }
    | none =>
      let va := (src + 16 * i) % 2 ^ 64
      some { lane := i, va := va, op := .get (peerOff va) 16, bytes := 0 })

/-- The link unit performs a unit of a COPY with a peer end (R324): its packets are sent, and it lands with their answers. A unit with
an end that no member reachable holds aborts the command, with a late record. -/
def State.sendUnit (s : State) (m : Cmd) (toPeer : Bool) : State :=
  let (src, dst, n) := copyUnit m.desc m.done
  let send (s : State) (l : List PeerAcc) : State :=
    match l.find? (fun a => !(isPeer a.va && s.memberLive (peerOf a.va))) with
    | some a => (s.peerLate m.sender 0x062 1 a.va).abortOne m
    | none =>
      if l.isEmpty then s.unitDone m n
      else { s with serial := s.serial + 1 }.sendAll m.sender s.serial none (some m.id) l
  if toPeer then
    match s.need m src n .read with
    | .error t => t
    | .ok l => send (s.latePoison m (s.poisonIn l)) (s.copyAccs m (some l) m.done)
  else
    match s.need m dst n .write with
    | .error t => t
    | .ok _ => send s (s.copyAccs m none m.done)

/-- The next unit of a running command. -/
def State.nextUnit (s : State) (m : Cmd) : State :=
  if m.units ≤ m.done then s.post (.entry m.id) .engineCommandComplete
  else
    match m.peerEnds with
    | some (_, toPeer) => if s.peers.any (fun p => decide (p.cmd = some m.id)) then s else s.sendUnit m toPeer
    | none =>
      let w := m.work m.done
      match s.perform m w with
      | .error t => t
      | .ok t => t.unitDone m w.bytes

/-- ENGINE_UNIT_LAND (R310, R323): the next unit of a COPY, GATHER or SCATTER is performed and lands; a command that waits starts first. -/
def execEngineUnitLand (s : State) : Host.Outcome State Fault Refusal :=
  atCmd s (fun m =>
    if !m.kind.moves || m.aborted || !s.served m then s
    else
      let starts := decide (m.stage = .waiting) && s.mayStart m
      if !starts && decide (m.stage ≠ .running) then s
      else
        let s := { s.engage m with fresh := s.fresh + 1 }
        let s := if starts then s.mapCmd m.id (fun x => { x with stage := .running }) else s
        let m := { m with stage := .running }
        if (match m.kind with | .copy => true | _ => false) || m.list.isSome then s.nextUnit m
        else
          match s.readList m with
          | .error t => t
          | .ok t => match t.cmds.find? (fun x => decide (x.id = m.id)) with | some x => t.nextUnit x | none => t)

/-! ### Ends (R126, R275, R311, R322, R327) -/

/-- A fetch that ends without its code leaves its slot empty. -/
def State.emptyFill (s : State) (m : Cmd) (slot : Nat) : State :=
  match s.codeSlot m.bay m.k slot with
  | .filling _ _ (some id) => if id = m.id then s.setSlot m.bay m.k slot .empty else s
  | _ => s

/-- ENGINE_COMMAND_COMPLETE (R322): a command whose units are all done, or that has been aborted. A code fetch aborted by a failed
fault-queue entry still lands its bytes (R126). -/
def execEngineCommandComplete (s : State) : Host.Outcome State Fault Refusal :=
  atCmd s (fun m =>
    match m.kind with
    | .cfetch slot lines =>
      if !m.aborted then s
      else
        let s := s.emptyFill m slot
        if m.status = some 4 ∧ (s.kern m.k).ending = none then s.endFill m lines else s.endCmd m
    | .encode => if m.aborted then s.endCmd m else s
    | .copy => if m.aborted ∨ m.units ≤ m.done then s.endCmd m else s
    | .gather => if m.aborted ∨ m.units ≤ m.done then s.endCmd m else s
    | .scatter => if m.aborted ∨ m.units ≤ m.done then s.endCmd m else s)

/-- ENGINE_BATCH_RAISE (R327). -/
def execEngineBatchRaise (s : State) : Host.Outcome State Fault Refusal :=
  match s.place with
  | .kernelCrew k c => .next (s.advance true k c)
  | _ => .next s

/-- CFETCH_COMPLETE (R126): the segment is read, its slot is full and its bytes land. A poisoned line ends the fetch without its code
(R287). -/
def execCfetchComplete (s : State) : Host.Outcome State Fault Refusal :=
  atCmd s (fun m =>
    match m.kind with
    | .cfetch slot lines =>
      if m.aborted ∨ (m.stage ≠ .waiting ∧ m.stage ≠ .running) then s
      else
        match reachOf (fun v => if outside v 1 then .fault 0x030 0 else s.xlatWalk m.ctx v .fetch) (pieces m.desc (128 * lines)) with
        | .bad cause => s.ctxFault m.ctx cause
        | .fault kind copy at_ => s.pauseAt m kind copy at_ false
        | .ok l =>
          match (s.poisonIn l) with
          | [] => (s.setSlot m.bay m.k slot (.full m.desc lines (s.wordsAt l))).endFill m lines
          | vas => ((s.latePoison m vas).emptyFill m slot).endFill m lines
    | .copy => s
    | .gather => s
    | .scatter => s
    | .encode => s)

/-! ### Encodes (R328 to R331) -/

/-- The address of the byte of a block's stream state that says which reference slots hold a frame: bit n for slot n (log 13). -/
def maskVa (blk : List Byte) : Nat := blkNum blk 0x08 8 + Config.stateMaskAt % 4096

/-- The reference slots that hold a frame, as the stream state in memory says (R329, R330). -/
def State.slotMask (s : State) (m : Cmd) (blk : List Byte) : Nat :=
  match s.xlatEng m.bay m.ctx (maskVa blk) .read with
  | .ok h => s.num h.pa 1
  | .fault _ _ => 0
  | .bad _ => 0

/-- An inter frame names a reference slot that holds no frame (R330). -/
def State.refEmpty (s : State) (m : Cmd) (blk : List Byte) : Bool :=
  blkInter blk && (blkRefs blk).any (fun n => !(s.slotMask m blk).testBit n)

/-- The encoder's own result on a block (R330): a named reference slot without a frame; else buffer too small, or the length of the
temporal unit, which is free within the buffer. -/
def State.encodeOutcome (s : State) (m : Cmd) (blk : List Byte) : Nat × Nat :=
  let cap := blkNum blk 0x30 4
  if s.refEmpty m blk then (3, 0)
  else if cap < unitMin m.id blk ∨ s.choice 0 % 2 = 1 then (1, 0)
  else (0, unitMin m.id blk + s.choice 1 % (cap - unitMin m.id blk + 1))

/-- Each range is readable, or the state in which the encode has paused; true where a line of them is poisoned. -/
def State.readAll (s : State) (m : Cmd) : List (Nat × Nat) → Except State Bool
  | [] => .ok false
  | (va, n) :: rest =>
    match s.need m va n .read with
    | .error t => .error t
    | .ok l =>
      match s.readAll m rest with
      | .error t => .error t
      | .ok b => .ok (b || !(s.poisonIn l).isEmpty)

/-- The encode's start, its ready condition met: the block and the frame are read, and its status is settled; the bytes of a status
other than 0 are 0. The block as read stays with the command. -/
def State.encodeBegins (s : State) (m : Cmd) : State :=
  let blk := sext56 (slice 55 0 m.desc)
  let done (st : Nat) : State :=
    (s.mapCmd m.id (fun x => { x with stage := .running, status := some st })).post (.entry m.id) .encodeDone
  match s.need m blk 256 .read with
  | .error t => t
  | .ok l =>
    if !(s.poisonIn l).isEmpty then done 4
    else
      let b := s.readPieces l
      if !blkValid b then done 2
      else
        match s.readAll m (blkReads b) with
        | .error t => t
        | .ok true => done 4
        | .ok false =>
          match s.need m (blkNum b 0x28 8) (blkNum b 0x30 4) .write with
          | .error t => t
          | .ok _ =>
            let r := s.encodeOutcome m b
            s.mapCmd m.id (fun x => { x with
              stage := .running, status := some r.1, done := r.2, list := some (b.map (fun (y : Byte) => y.toNat)) })

/-- ENCODE_START (R328): an orphaned ready object that has not met the condition gives status 5 (R330). -/
def execEncodeStart (s : State) : Host.Outcome State Fault Refusal :=
  atCmd s (fun m =>
    if m.kind ≠ .encode ∨ m.aborted = true ∨ m.status.isSome = true ∨ s.served m = false then s
    else if m.stage = .waiting ∧ s.mayStart m = false then s
    else if m.stage ≠ .waiting ∧ m.stage ≠ .running then s
    else
      let t : State := { s.engage m with fresh := s.fresh + 1 }
      match m.ready with
      | none => t.encodeBegins m
      | some pa =>
        let o := s.num pa 32
        let x := if Bar.mode.get o = 1 then slice 159 128 m.desc else slice 191 128 m.desc
        if Bar.holds o x = some true then t.encodeBegins m
        else if Bar.orphan.get o = 1 then
          (s.mapCmd m.id (fun x => { x with stage := .running, status := some 5 })).post (.entry m.id) .encodeDone
        else s)

/-- Free bytes for what an encode writes. -/
def State.openBytes (s : State) (salt n : Nat) : List Byte := (List.range n).map (fun i => Config.freeByte (s.fresh * 2 ^ 64 + salt + i))

/-- The stream state that a successful encode leaves (R329): free bytes, but for the reference slots, to which those of the refresh mask come.
-/
def State.nextStream (s : State) (m : Cmd) (blk : List Byte) : List Byte :=
  (s.openBytes (2 ^ 40) (stateBytes blk)).set (Config.stateMaskAt % 4096) (BitVec.ofNat 8 (s.slotMask m blk ||| blkRefresh blk))

/-- The output of a successful encode: the temporal unit, and the stream state. -/
def State.encodeWrites (s : State) (m : Cmd) (blk : List Byte) (n : Nat) : Except State State :=
  match s.need m (blkNum blk 0x28 8) n .write with
  | .error t => .error t
  | .ok out =>
    match s.need m (blkNum blk 0x08 8) (stateBytes blk) .write with
    | .error t => .error t
    | .ok st =>
      let unit := temporalUnit m.id blk n (fun i => Config.freeByte (s.fresh * 2 ^ 64 + i))
      .ok ((s.writePieces out unit).writePieces st (s.nextStream m blk))

/-- The end of an encode: the status and bytes words, the landing of the bytes, the arrival on the done object (R328). A write that faults
pauses as any access (R257); where its fault has been failed, the arrival is made all the same (code 6, State.abortCmd). -/
def State.encodeEnds (s : State) (m : Cmd) (st n : Nat) : State :=
  if st = 6 then finish s
  else
    match s.need m (sext56 (slice 55 0 m.desc)) 8 .write with
    | .ok l => finish (s.writePieces l (toBytes 4 st ++ toBytes 4 n))
    | .error t => t
where
  /-- Land, arrive, and end the command. -/
  finish (s : State) : State :=
    let s := s.landCmd m n
    (match m.bar with | some pa => s.cmdOp m pa (.arrive 1) | none => s).endCmd m

/-- ENCODE_DONE (R328, R330). -/
def execEncodeDone (s : State) : Host.Outcome State Fault Refusal :=
  atCmd s (fun m =>
    if m.kind ≠ .encode ∨ m.aborted = true ∨ m.stage ≠ .running ∨ s.served m = false then s
    else
      let s := s.engage m
      match m.status with
      | none => s
      | some 0 =>
        let t : State := { s with fresh := s.fresh + 1 }
        match t.need m (sext56 (slice 55 0 m.desc)) 256 .write with
        | .error t => t
        | .ok _ =>
          match t.encodeWrites m ((m.list.getD []).map (fun (x : Nat) => BitVec.ofNat 8 x)) m.done with
          | .error t => t
          | .ok t => t.encodeEnds m 0 m.done
      | some st => s.encodeEnds m st 0)

end Sys2Proof.Machine
end

