-- ==== Sys2Proof/Machine/EvHost.lean ====
section
/-! DEFINITION. The events of the host link (R102 to R106, R430). An event reads the message that its place holds; one that must wait keeps
it in the inbox. -/

namespace Sys2Proof

/-! ### The header (R102 to R104) -/

def HostMsg.unsequenced (m : HostMsg) : Bool := m.flags.testBit 0

/-- Bytes of a body as a number. -/
def HostMsg.at_ (m : HostMsg) (off n : Nat) : Nat := Machine.ofBytes ((m.body.drop off).take n)

/-- A message is well formed in its header and body. -/
def HostMsg.ok (m : HostMsg) : Bool :=
  let u := decide (m.typ = 0) || decide (m.typ = 5)
  let n := m.body.length
  decide (m.ver = 1) && decide (m.reserved = 0) && decide (m.flags < 4) && (m.unsequenced == u) && (!m.unsequenced || decide (m.seq = 0)) &&
    decide (m.len = n) &&
    (match m.typ with
     | 0 => decide (n = 0)
     | 1 => decide (9 ≤ n) && decide (n ≤ 1032)
     | 2 => decide (n = 12) && decide (1 ≤ m.at_ 8 4) && decide (m.at_ 8 4 ≤ 1024)
     | 3 => decide (n = 264) && decide (m.at_ 2 6 = 0)
     | 4 => decide (n = 24) && decide (m.at_ 8 1 ≤ 1) && decide (m.at_ 9 7 = 0)
     | 5 => decide (n = 0)
     | _ => false)

/-- Bytes of a frame with its header and check sequence (R102): a payload below the least Ethernet size is padded. -/
def EthFrame.size (f : EthFrame) : Nat := 18 + (if f.tagged then 4 else 0) + max 46 (32 + f.msg.body.length)

/-- The step that performs a message. -/
def HostMsg.event (m : HostMsg) : Instr :=
  match m.typ with
  | 0 => .plofoAck
  | 2 => .plofoRead
  | 3 => .plofoLaunch
  | 4 => if m.at_ 8 1 = 1 then .plofoSignalRaise else .plofoSignalArrive
  | 5 => .plofoQuery
  | _ => .plofoWrite

end Sys2Proof

namespace Sys2Proof.Machine

/-! ### Acknowledgements and resending (R105, R106) -/

/-- Messages that wait in the controller go out while the window has room; fuel is their number. -/
def State.sendWaiting : Nat → State → State
  | 0, s => s
  | f + 1, s =>
    match s.host.waiting with
    | [] => s
    | m :: rest =>
      if s.windowFull then s
      else State.sendWaiting f ({ s with host := { s.host with waiting := rest } }.sendSeq m.typ m.ctx m.body)

/-- Crews held at a NOTIFY look at the window again. -/
def State.wakeNotify (s : State) : State :=
  { s with crews := s.crews.map (fun (p : Nat × Crew) => if p.2.wait = .window then (p.1, { p.2 with wait := .none }) else p) }

/-- The host's ack advances. -/
def State.acknowledge (s : State) (ack : Nat) : State :=
  let s := { s with host := { s.host with
    acked := ack, lastAdvance := s.clock, window := s.host.window.filter (fun m => decide (ack ≤ m.seq)) } }
  (State.sendWaiting s.host.waiting.length s).wakeNotify

/-- An ack that a message carries: it advances when it is above the highest so far; one above the next number is ignored. -/
def State.takeAck (s : State) (ack : Nat) : State :=
  if s.host.acked < ack ∧ ack ≤ s.host.nextOut then s.acknowledge ack else s

/-- Every unacknowledged message is sent again, oldest first; the first carries G where messages before it were lost. -/
def State.resend (s : State) (lost : Bool) : State :=
  let s := { s with host := { s.host with lastAdvance := s.clock } }
  ((s.host.window.zip (List.range s.host.window.length))).foldl (fun s (p : OutMsg × Nat) =>
    s.emit { p.1 with flags := if lost ∧ p.2 = 0 then 2 else 0 }) s

/-- An ACK message: one that does not advance, or the first after a QUERY, has the window sent again. The first message sent again carries
G where the ack lies below the window, after a QUERY or not (log 59). -/
def State.hostAck (s : State) (ack : Nat) : State :=
  if s.host.nextOut < ack then { s with host := { s.host with queried := false } }
  else
    let again := s.host.queried || decide (ack ≤ s.host.acked)
    let lost := match s.host.window with | m :: _ => decide (ack < m.seq) | [] => false
    let s := { s with host := { s.host with queried := false } }.takeAck ack
    if again then s.resend lost else s

/-- The module takes in a frame (R102): addressed to it by the host, of the EtherType 0x88B5, within the greatest size, and with a good
check sequence. -/
def State.accepts (s : State) (f : EthFrame) : Bool :=
  decide (f.dst = s.mac) && decide (f.src = s.hostMac) && decide (f.etype = 0x88B5) && f.fcsOk &&
    decide (f.size ≤ if f.tagged then 1522 else 1518)

/-! ### Judging a message (R104, R105) -/

/-- A message has left the inbox. -/
def State.dropIn (s : State) (m : HostMsg) : State := { s with host := { s.host with inbox := s.host.inbox.erase m } }

/-- A message that has been taken in waits for its turn, behind those taken in before it (R104). -/
def State.keepIn (s : State) (m : HostMsg) : State := { s with host := { s.host with inbox := s.host.inbox ++ [m] } }

/-- The reply of kind 3 (R104). -/
def State.hostFail (s : State) (m : HostMsg) (st : Nat) : State := s.complete m.ctx m.seq 3 st 0 0 0

/-- The next expected sequenced message consumes its number, whether or not it can be performed yet, and is owed an ACK (R104, R105). -/
def State.consume (s : State) : State := { s with host := { s.host with nextIn := s.host.nextIn + 1, owesAck := true } }

/-- An ACK goes out where no other message has carried the ack; the ctx field of its header is 0 (log 90). -/
def State.answerAck (s : State) : State := if s.host.owesAck then s.sendPlain 0x80 0 [] else s

/-- Run a host message: frames before the end of the boot are dropped; bad ones and ones out of sequence are dealt with here. The ack of a
message out of sequence is taken, that of a malformed one is not (log 59). f performs a well-formed message of a type, and answers none
where it must wait; messages are performed one at a time, in the order of their numbers, so that the next ones wait behind it. -/
def hostMessage (s : State) (sel : HostMsg → Bool) (f : State → HostMsg → Option State) : Host.Outcome State Fault Refusal :=
  match s.place with
  | .host m =>
    if s.power ≠ .up then .next (s.dropIn m)
    else if s.host.inbox.head? = some m then
      -- its number has been consumed, and its turn has come
      if !m.ok then .next ((s.dropIn m).hostFail m 3)
      else if !sel m then .next s
      else .next ((f (s.dropIn m) m).getD s)
    else if !m.ok then
      -- a bad ACK is ignored, another message with U set is answered at once
      if m.typ = 0 then .next s
      else if m.unsequenced then .next (s.sendPlain 0x81 m.ctx (completionBody 0 3 3 0 0 0))
      else if m.seq ≠ s.host.nextIn then .next s
      else if s.host.inbox.isEmpty then .next ((s.consume.hostFail m 3).answerAck)
      else .next ((s.consume.keepIn m).answerAck)
    else if !sel m then .next s
    else if m.unsequenced then .next ((f s m).getD s)
    else if m.seq ≠ s.host.nextIn then .next (s.takeAck m.ack)
    else
      let s := (s.takeAck m.ack).consume
      if !s.host.inbox.isEmpty then .next ((s.keepIn m).answerAck)
      else .next ((f s m).getD (s.keepIn m)).answerAck
  | _ => .next s

/-- PLOFO_ACK (R105, R106). -/
def execPlofoAck (s : State) : Host.Outcome State Fault Refusal :=
  hostMessage s (fun m => decide (m.typ = 0)) (fun s m => some (s.hostAck m.ack))

/-- PLOFO_QUERY (R106): answered on arrival. -/
def execPlofoQuery (s : State) : Host.Outcome State Fault Refusal :=
  hostMessage s (fun m => decide (m.typ = 5)) (fun s m =>
    let s := s.takeAck m.ack
    let s := { s with host := { s.host with queried := true } }
    some (s.sendPlain 0x81 m.ctx (completionBody 0 2 0 0 s.host.nextIn (s.host.nextOut - 1))))

/-! ### Addresses (R102, R104) -/

/-- A context that host messages may name. -/
def State.ctxThere (s : State) (n : Nat) : Bool :=
  let st := s.fld .context n Ctx.state
  decide (n < Config.contexts) && decide (1 ≤ st) && decide (st ≤ 3)

/-- What the translation of a host message's range finds: its pieces by physical address and leaf, or a context fault; none where it does
not translate. -/
inductive HostReach where
  | ok (l : List (Nat × Hit × Nat))
  | none
  | bad (cause : Nat)

/-- The range of a host message. -/
def State.hostReach (s : State) (ctx va n : Nat) (need : Need) : HostReach :=
  if ctx = 0xFFFF then
    if va + n ≤ 2 ^ 39 then .ok ((pieces va n).map (fun p => (p.1, (⟨p.1, 0, false, false, false⟩ : Hit), p.2))) else .none
  else if !s.ctxThere ctx || outside va n then .none
  else
    match reachOf (fun v => s.xlatWalk ctx v need) (pieces va n) with
    | .ok l => .ok l
    | .fault _ _ _ => .none
    | .bad cause => .bad cause

/-- Pages of a range are copied where a write needs it (R104, R268, R270): the range as it is then. -/
def State.hostWritable (s : State) (ctx va n : Nat) : State :=
  if ctx = 0xFFFF || outside va n then s else (pieces va n).foldl (fun s p => s.makeWritable ctx p.1) s

/-- Lines of translated pieces. -/
def linesOfPieces (l : List (Nat × Hit × Nat)) : List Nat :=
  addLines [] (l.flatMap (fun p => (List.range ((p.2.1.pa + p.2.2 - 1) / 128 + 1 - p.2.1.pa / 128)).map (fun i => p.2.1.pa / 128 + i)))

/-- Some umpire of a list of lines is held by a stroke (R104). -/
def State.linesHeld (s : State) (ls : List Nat) : Bool :=
  s.crews.any (fun p => (p.2.heldReady || p.2.strokes.any (fun st => st.held)) &&
    ls.any (fun l => (p.2.heldSet.getD []).contains (umpireOf l)))

/-- A stroke of the Slaeldy controller draws a sequence number. -/
def State.drawOrder (s : State) : State := { s with order := s.order + 1 }

/-- PLOFO_WRITE (R104): one held stroke; a message of no known type fails here too. -/
def execPlofoWrite (s : State) : Host.Outcome State Fault Refusal :=
  hostMessage s (fun m => decide (m.typ = 1)) (fun s m =>
    let va := m.at_ 0 8
    let bs := m.body.drop 8
    let t := s.hostWritable m.ctx va bs.length
    match t.hostReach m.ctx va bs.length .write with
    | .none => some (s.hostFail m 3)
    | .bad cause => some ((s.ctxFault m.ctx cause).hostFail m 3)
    | .ok l =>
      let ls := linesOfPieces l
      if s.linesHeld ls then none else some ((t.drawOrder.writePieces l bs).broadcast ls none))

/-- PLOFO_READ (R104): one held stroke with an empty write set, answered by READDATA. -/
def execPlofoRead (s : State) : Host.Outcome State Fault Refusal :=
  hostMessage s (fun m => decide (m.typ = 2)) (fun s m =>
    match s.hostReach m.ctx (m.at_ 0 8) (m.at_ 8 4) .read with
    | .none => some (s.hostFail m 3)
    | .bad cause => some ((s.ctxFault m.ctx cause).hostFail m 3)
    | .ok l =>
      if s.linesHeld (linesOfPieces l) then none
      else some (s.drawOrder.sendOrWait 0x82 m.ctx (toBytes 8 m.seq ++ s.readPieces l)))

/-- PLOFO_LAUNCH (R99, R104, R108). A walk of its dependences that is bad raises the context fault, and answers with status 0x03 (log 90). -/
def execPlofoLaunch (s : State) : Host.Outcome State Fault Refusal :=
  hostMessage s (fun m => decide (m.typ = 3)) (fun s m =>
    let launch := m.at_ 8 256
    let q := Lch.queue.get launch
    if m.ctx ≠ 0xFFFF ∧ s.ctxThere m.ctx = false then some (s.hostFail m 3)
    else
      match s.launchTest m.ctx launch Que.host (decide (m.at_ 0 2 = q)) q with
      | .refused st => some (s.complete m.ctx m.seq 0 st 0 0 0)
      | .bad cause => some ((s.ctxFault m.ctx cause).hostFail m 3)
      | .post k deps =>
        let s := s.postKernel k q launch deps
        some (s.complete m.ctx m.seq 0 0 (s.handle k) 0 0))

/-- One operation of a SIGNAL on the object it names (R104, R305); where its page is marked for a copy that cannot be made, it fails with
status 0x03 (log 90). -/
def State.signal (s : State) (m : HostMsg) (mode : Nat) (op : BarOp) : State :=
  let va := m.at_ 0 8
  let t := s.hostWritable m.ctx va 32
  let marked : Bool := match t.leafOf m.ctx va with | some (e, _, _) => Pte.c e && decide (m.ctx ≠ 0xFFFF) | none => false
  match t.hostReach m.ctx va 32 .read with
  | .none => s.hostFail m 3
  | .bad cause => (s.ctxFault m.ctx cause).hostFail m 3
  | .ok l =>
    let pa := (l.head?.map (fun p => p.2.1.pa)).getD 0
    let unfit := l.any (fun p => Pte.m p.2.1.leaf || Pte.kv p.2.1.leaf)
    if va % 32 ≠ 0 ∨ marked = true then s.hostFail m 3
    else if unfit || decide (Bar.mode.get (t.num pa 32) ≠ mode) then s.hostFail m 5
    else match t.barPerform pa op with | .ok t => t | .error _ => s.hostFail m 5

/-- PLOFO_SIGNAL_ARRIVE (R104). -/
def execPlofoSignalArrive (s : State) : Host.Outcome State Fault Refusal :=
  hostMessage s (fun m => decide (m.typ = 4) && decide (m.at_ 8 1 = 0)) (fun s m =>
    let k := m.at_ 16 8
    if k = 0 ∨ 65535 < k then some (s.hostFail m 3) else some (s.signal m 1 (.arrive k)))

/-- PLOFO_SIGNAL_RAISE (R104). -/
def execPlofoSignalRaise (s : State) : Host.Outcome State Fault Refusal :=
  hostMessage s (fun m => decide (m.typ = 4) && decide (m.at_ 8 1 = 1)) (fun s m => some (s.signal m 2 (.raise (m.at_ 16 8))))

/-- FRAME_DROP (R102): a frame that the module does not take in counts. -/
def execFrameDrop (s : State) : Host.Outcome State Fault Refusal :=
  match s.place with
  | .frame f =>
    if s.power = .up ∧ s.accepts f = false then .next { s with host := { s.host with dropped := s.host.dropped + 1 } } else .next s
  | _ => .next s

/-- 100 µs in clk (R13, R105). -/
def resendClk : Nat := 150000

/-- REPLAY_RESEND_TIMEOUT (R105). -/
def execReplayResendTimeout (s : State) : Host.Outcome State Fault Refusal :=
  if s.power = .up ∧ s.host.window.isEmpty = false ∧ resendClk ≤ s.clock - s.host.lastAdvance then .next (s.resend false) else .next s

/-- The body of a TELEMETRY message (R430). -/
def State.telemetryBody (s : State) : List Byte :=
  let p (f : Fld) : Nat := s.fld .power 0 f
  toBytes 8 s.time ++ toBytes 2 s.watts ++ toBytes 2 (p Pwr.plimit) ++ toBytes 2 s.temp0 ++ toBytes 2 s.temp1 ++ toBytes 2 s.coolant ++
    toBytes 2 (p Pwr.held0) ++ toBytes 2 (p Pwr.held1) ++ toBytes 2 (p Pwr.budget0) ++ toBytes 2 (p Pwr.budget1) ++
    toBytes 2 (p Pwr.trip0 + 2 * p Pwr.trip1) ++ toBytes 4 0 ++ toBytes 8 s.host.correctable ++ toBytes 8 s.host.uncorrectable ++
    toBytes 8 s.host.dropped ++ toBytes 8 s.host.peerDropped

/-- A TELEMETRY message is due (R430). -/
def State.telemetryDue (s : State) : Bool :=
  let tint := s.fld .power 0 Pwr.tint
  decide (s.power = .up) && decide (tint ≠ 0) && decide (s.host.lastTelem + tint * 1500000 ≤ s.clock)

/-- TELEMETRY (R105, R430): dropped while the replay window is full. -/
def execTelemetry (s : State) : Host.Outcome State Fault Refusal :=
  if s.telemetryDue then
    let s := { s with host := { s.host with lastTelem := s.clock } }
    if s.windowFull then .next s else .next (s.sendSeq 0x84 0 s.telemetryBody)
  else .next s

end Sys2Proof.Machine
end

