-- ==== Sys2Proof/Machine/ExecLink.lean ====
section
/-! DEFINITION. The meanings of the peer instructions and of CKPT (R377 to R384, R386 to R388). -/

namespace Sys2Proof.Machine

/-- The first failing lane of a peer instruction (R377). -/
def Crew.peerFault (c : Crew) (va : Nat → Nat) (w : Nat) (ls : List Nat) : Option Stop := ls.findSome? (fun l => c.peerCheck (va l) w l)

/-- A crew waits for the raise of its burst, its instruction to be issued again (R376). -/
def State.awaitBurst (s : State) (rid : Nat) (c : Crew) : State := (s.waitFor rid .leave).askRaise (ridBay rid) c.kernel (.burst rid)

/-- A posted peer instruction is done at its crew: its accesses are sent. -/
def State.postPeer (s : State) (rid : Nat) (k : Ctl) (c : Crew) (l : List PeerAcc) : State :=
  (s.sendPosted (c.sender s rid) l).finish rid k { c with pc := s.nextPc rid c, burst := false } []

/-- XPUT (R378). -/
def execXput (k : Ctl) (w : Width) (a b : Reg) : State → Host.Outcome State Fault Refusal :=
  bounding (.xput k w a b) (fun s rid c =>
    let ls := c.acting k.pred
    match c.peerFault (c.v64 a) w.bytes ls with
    | some e => .error e
    | none =>
      let accs : List PeerAcc := ls.map (fun l =>
        { lane := l, va := c.v64 a l, op := .put (peerOff (c.v64 a l)) w.bytes (c.val w.regs b l % 256 ^ w.bytes), bytes := w.bytes })
      if s.burstWaits rid c (w.bytes * ls.length) then .ok (s.awaitBurst rid c) else .ok (s.postPeer rid k c accs))

/-- XGET (R378): the crew waits for the answers of all its packets. -/
def execXget (k : Ctl) (w : Width) (d a : Reg) : State → Host.Outcome State Fault Refusal :=
  bounding (.xget k w d a) (fun s rid c =>
    let ls := c.acting k.pred
    match c.peerFault (c.v64 a) w.bytes ls with
    | some e => .error e
    | none =>
      match ls.find? (fun l => !s.memberLive (peerOf (c.v64 a l))) with
      | some l => .error (c.trapAt 0x062 1 (c.v64 a l) l)
      | none =>
        let accs : List PeerAcc := ls.map (fun l =>
          { lane := l, va := c.v64 a l, op := .get (peerOff (c.v64 a l)) w.bytes, bytes := 0, dst := (d.toNat, w.regs) })
        if ls.isEmpty then .ok (s.finish rid k { c with pc := s.nextPc rid c } [])
        else .ok ((s.sleep rid k c (.peer s.serial)).sendAll (c.sender s rid) s.serial (some rid) none accs))

/-- The access of one lane of an XRED: an element, or a reduction cell (R379). -/
def xredAcc (c : Crew) (op : RmwOp) (ty : Ty) (a b : Reg) (anchor : Int) (l : Nat) : PeerAcc :=
  let off := peerOff (c.v64 a l)
  let v := BitVec.ofNat 64 (c.val ty.regs b l)
  { lane := l, va := c.v64 a l, bytes := tyBytes ty,
    op := if intW ty = 0 then .cell ty anchor off (BitVec.ofNat 64 (v.toNat % 2 ^ elemW ty)) else .red op ty off v }

/-- The value of a lane of a float XRED is NaN or infinite. -/
def xredBad (c : Crew) (ty : Ty) (b : Reg) (l : Nat) : Bool :=
  let x := tyVal ty (c.val ty.regs b l)
  x.isNan || x.isInf

/-- XRED (R379): a value that is not finite sends its halt markers and traps. -/
def execXred (k : Ctl) (op : RmwOp) (ty : Ty) (a b : Reg) (n : BitVec 14) : State → Host.Outcome State Fault Refusal :=
  bounding (.xred k op ty a b n) (fun s rid c =>
    let ls := c.acting k.pred
    let float := decide (intW ty = 0)
    if float && (decide (n.toInt < -1100) || decide (1023 < n.toInt)) then .error (c.operandFault 4)
    else
      match c.peerFault (c.v64 a) (if float then 32 else tyBytes ty) ls with
      | some e => .error e
      | none =>
        match if float then ls.find? (xredBad c ty b) else none with
        | some l =>
          let marks : List PeerAcc := (ls.filter (xredBad c ty b)).map (fun l =>
            { lane := l, va := c.v64 a l, op := .marker (peerOff (c.v64 a l)), bytes := 0 })
          .ok (({ s with fresh := s.fresh + 1 }.sendPosted (c.sender s rid) marks).takeTrap rid
            ⟨0x063, l, c.v64 a l, l, 0, c.pc, c.slot⟩)
        | none =>
          if s.burstWaits rid c (tyBytes ty * ls.length) then .ok (s.awaitBurst rid c)
          else .ok (s.postPeer rid k c (ls.map (xredAcc c op ty a b n.toInt))))

/-- An XSIG with its operation at the destination (R382). -/
def State.xsig (s : State) (rid : Nat) (k : Ctl) (c : Crew) (va : Nat) (op : Nat → PeerOp) : Except Stop State :=
  match c.peerCheck va 32 c.low with
  | some e => .error e
  | none => .ok (s.postPeer rid k c [{ lane := c.low, va := va, op := op (peerOff va), bytes := 0 }])

/-- XSIG.arr (R382). -/
def execXsigArr (k : Ctl) (a b : Reg) : State → Host.Outcome State Fault Refusal :=
  bounding (.xsigArr k a b) (fun s rid c =>
    let n := c.uval 1 b
    if c.em = 0#32 then .ok (s.finish rid k { c with pc := s.nextPc rid c } [])
    else if !c.uni 2 a || !c.uni 1 b then .error c.diverges
    else if n = 0 ∨ 2 ^ 16 ≤ n then .error (c.operandFault 2)
    else s.xsig rid k c (c.uval 2 a) (fun off => .arrive off n))

/-- XSIG.max (R382). -/
def execXsigMax (k : Ctl) (a b : Reg) : State → Host.Outcome State Fault Refusal :=
  bounding (.xsigMax k a b) (fun s rid c =>
    if c.em = 0#32 then .ok (s.finish rid k { c with pc := s.nextPc rid c } [])
    else if !c.uni 2 a || !c.uni 1 b then .error c.diverges
    else s.xsig rid k c (c.uval 2 a) (fun off => .raise off (c.uval 1 b)))

/-- XFENCE acts with any em (R383). -/
def execXfence (k : Ctl) : State → Host.Outcome State Fault Refusal :=
  bounding (.xfence k) (fun s rid c =>
    if s.posted c.kernel c.idx then .ok (s.sleep rid k c .fence)
    else .ok (s.finish rid k { c with pc := s.nextPc rid c } []))

/-- XPROBE (R384). -/
def execXprobe (k : Ctl) (d a : Reg) : State → Host.Outcome State Fault Refusal :=
  bounding (.xprobe k d a) (fun s rid c =>
    let x := c.uval 1 a
    if c.em = 0#32 then .ok (s.finish rid k { c with pc := s.nextPc rid c } [])
    else if !c.uni 1 a then .error c.diverges
    else if 2 ^ 10 ≤ x then .error (c.operandFault 1)
    else if 767 < x then .error (c.crewTrap 0x060 x)
    else .ok (s.result rid k c d (s.epoch % 2 ^ 16 * 2 ^ 16 + s.fld .member x Mem.ports * 2 ^ 8 + s.fld .member x Mem.state)))

/-! ### Checkpoints (R386 to R388) -/

namespace Ckp
def cutseq : Fld := ⟨448, 64⟩
def snapidx : Fld := ⟨416, 32⟩
def nranges : Fld := ⟨384, 8⟩
def list : Fld := ⟨320, 64⟩
end Ckp

/-- The ranges of a CKPT descriptor with the leaves they hold; none where the descriptor or the list is invalid. -/
def State.ckptRanges (s : State) (c : Crew) (words : List Nat) : Except Stop (Option (List (Nat × Nat × List Leaf))) :=
  match words with
  | va :: n :: rest =>
    if !canonical va || isPeer va || decide (va % 65536 ≠ 0) || decide (n % 65536 ≠ 0) || decide (2 ^ 55 < va + n) then .ok none
    else
      match s.leaves (c.ctx s) va (va + n), s.ckptRanges c rest with
      | .error cause, _ => .error (.ctx cause)
      | _, .error e => .error e
      | .ok l, .ok (some r) => if l.any (fun x => x.cut va (va + n)) then .ok none else .ok (some ((va, n, l) :: r))
      | .ok _, .ok none => .ok none
  | _ => .ok (some [])

/-- The words of a range list. -/
def rangeWords : Nat → List Byte → List Nat
  | 0, _ => []
  | n + 1, bs => ofBytes (bs.take 8) :: rangeWords n (bs.drop 8)

/-- The descriptor of a CKPT, read as a load reads it: the descriptor, and its ranges where it is valid (R386). -/
def State.ckptRead (s : State) (rid : Nat) (c : Crew) (va : Nat) (need : Need) :
    Except Stop (Nat × Nat × Option (List (Nat × Nat × List Leaf))) :=
  match s.checkAccess rid c va 64 need c.low with
  | .error e => .error e
  | .ok h =>
    let d := s.num h.pa 64
    let n := Ckp.nranges.get d
    let list := Ckp.list.get d
    if slice 415 392 d ≠ 0 ∨ slice 319 64 d ≠ 0 ∨ n = 0 ∨ 64 < n ∨ list % 16 ≠ 0 ∨ outside list (16 * n) = true then .ok (h.pa, d, none)
    else
      match s.crewRange rid c list (16 * n) .read with
      | .error e => .error e
      | .ok l =>
        match s.ckptRanges c (rangeWords (2 * n) (s.readPieces l)) with
        | .error e => .error e
        | .ok r => .ok (h.pa, d, r)

/-- Another kernel of the context has been admitted and has not ended (R386). -/
def State.othersRun (s : State) (c : Crew) : Bool :=
  s.kernels.any (fun p => decide (p.1 ≠ c.kernel) && decide (p.2.ctx = c.ctx s) &&
    (match p.2.state with | .admitted => true | .placing => true | .running => true | .trapped => true | _ => false))

/-- CKPT.cut (R387). A descriptor that lies in its own ranges is copied before its fields are written (R270). -/
def execCkptCut (k : Ctl) (d a : Reg) : State → Host.Outcome State Fault Refusal :=
  bounding (.ckptCut k d a) (fun s rid c =>
    let va := c.uval 2 a
    if c.em = 0#32 then .ok (s.finish rid k { c with pc := s.nextPc rid c } [])
    else if !c.uni 2 a then .error c.diverges
    else
      match s.ckptRead rid c va .write with
      | .error e => .error e
      | .ok (_, _, none) => .ok (s.result rid k c d 0x30)
      | .ok (_, desc, some rs) =>
        if s.othersRun c then .ok (s.result rid k c d 0x31)
        else if !(s.reserved rid).isEmpty || s.landingIn (c.ctx s) (rs.flatMap (fun r => r.2.2)) then .error (.wait .retry)
        else
          let ctx := c.ctx s
          let idx := s.fld .pool ctx Pool.snpput
          let t := (s.cutLeaves ctx (rs.flatMap (fun r => r.2.2))).makeWritable ctx va
          match t.xlat (ridBay rid) ctx va .write with
          | .ok h => .ok ((t.writeNum h.pa 64 (Ckp.snapidx.set (Ckp.cutseq.set desc s.order) idx)).result rid k c d 0)
          | _ => .error (.fault ⟨0x034, va, true, 0, c.low⟩))

/-- The n snapshot slots from an index on can be read: a ring without an address, or a slot that does not translate, holds no entry (R266, R431;
log 93). Else the cause of a context fault. -/
def State.snapsThere (s : State) (ctx from_ : Nat) : Nat → Except Nat Bool
  | 0 => .ok true
  | n + 1 =>
    let r := s.snpRing ctx
    if r.va = 0 then .ok false
    else
      match s.ringSlot ctx (sext56 r.va + 16 * ((from_ + n) % 2 ^ 32 % r.cap)) .read with
      | .bad cause => .error cause
      | .none => .ok false
      | .ok _ => s.snapsThere ctx from_ n

/-- The snapshot entries from the newest back to a cut, copied to their pieces where they lie in a range (R388); n: entries left. -/
def State.restore (ctx from_ lane : Nat) (inside : Nat → Bool) : Nat → State → Except Stop State
  | 0, s => .ok s
  | n + 1, s =>
    let r := s.snpRing ctx
    let slotVa := sext56 r.va + 16 * ((from_ + n) % 2 ^ 32 % r.cap)
    match s.ringSlot ctx slotVa .read with
    | .bad cause => .error (.ctx cause)
    | .none => State.restore ctx from_ lane inside n s
    | .ok pa =>
      let va := s.num pa 8
      let copy := s.num (pa + 8) 8
      if !inside va then State.restore ctx from_ lane inside n s
      else
        match s.xlatWalk ctx va .write with
        | .bad cause => .error (.ctx cause)
        | .fault kind cp => .error (.fault ⟨kind, va, true, cp, lane⟩)
        | .ok h => State.restore ctx from_ lane inside n (s.write h.pa (s.bytes 65536 copy))

/-- The stash copies of a range go, but for pinned pages (R388). -/
def State.stashGone (s : State) (ctx lo n : Nat) : State :=
  { s with bays := s.bays.map (fun p => (p.1, { p.2 with stash := p.2.stash.filter (fun m =>
      !(decide (m.ctx = ctx) && decide (lo ≤ m.va) && decide (m.va < lo + n) && (s.pinOf ctx p.1 m.va).isNone)) })) }

/-- CKPT.back (R388). -/
def execCkptBack (k : Ctl) (d a : Reg) : State → Host.Outcome State Fault Refusal :=
  bounding (.ckptBack k d a) (fun s rid c =>
    let va := c.uval 2 a
    if c.em = 0#32 then .ok (s.finish rid k { c with pc := s.nextPc rid c } [])
    else if !c.uni 2 a then .error c.diverges
    else
      match s.ckptRead rid c va .read with
      | .error e => .error e
      | .ok (_, _, none) => .ok (s.result rid k c d 0x30)
      | .ok (_, desc, some rs) =>
        let ctx := c.ctx s
        let put := s.fld .pool ctx Pool.snpput
        let idx := Ckp.snapidx.get desc
        let n := ringUsed put idx
        if s.othersRun c then .ok (s.result rid k c d 0x31)
        else if (s.snpRing ctx).cap < n then .ok (s.result rid k c d 0x32)
        else
        match s.snapsThere ctx idx n with
        | .error cause => .error (.ctx cause)
        | .ok false => .ok (s.result rid k c d 0x32)
        | .ok true =>
        if s.reds.any (fun x => decide (x.ctx = ctx) && rs.any (fun r => decide (r.1 ≤ x.va) && decide (x.va < r.1 + r.2.1))) then
          .error (.wait .retry)
        else
          let t := rs.foldl (fun s r => (s.stashGone ctx r.1 r.2.1).clearLeaves ctx r.2.2) s
          let inside (p : Nat) : Bool := rs.any (fun r => decide (r.1 ≤ p) && decide (p + 65536 ≤ r.1 + r.2.1))
          match State.restore ctx idx c.low inside n t with
          | .error e => .error e
          | .ok t => .ok (t.result rid k c d 0))

end Sys2Proof.Machine
end

