-- ==== Sys2Proof/Machine/EvLink.lean ====
section
/-! DEFINITION. The events of the link: peer accesses performed here, acknowledgements, ports, heartbeats and members (R365 to R376, R378
to R383). -/

namespace Sys2Proof

/-! ### Accesses and answers -/

/-- Offset, need and bytes of an access. -/
def PeerOp.access : PeerOp → Nat × Machine.Need × Nat
  | .put off w _ => (off, .write, w)
  | .get off w => (off, .read, w)
  | .red _ ty off _ => (off, .write, Machine.tyBytes ty)
  | .cell _ _ off _ => (off, .write, 32)
  | .marker off => (off, .write, 32)
  | .arrive off _ => (off, .write, 32)
  | .raise off _ => (off, .write, 32)

/-- The access reads its line before it can be performed. -/
def PeerOp.readsLine : PeerOp → Bool
  | .put .. => false
  | .get .. => true
  | .red .. => true
  | .cell .. => true
  | .marker _ => true
  | .arrive .. => true
  | .raise .. => true

/-- The access needs a page that is neither memory-side nor KV (R315, R380): the answer where its page is. -/
def PeerOp.plainPage : PeerOp → Option PeerStatus
  | .put .. => none
  | .get .. => none
  | .red .. => none
  | .cell .. => some (.refused 2)
  | .marker _ => some (.refused 2)
  | .arrive .. => some (.barrierMode 3)
  | .raise .. => some (.barrierMode 3)

/-- The access goes to a reduction cell. -/
def PeerOp.toCell : PeerOp → Bool
  | .put .. => false
  | .get .. => false
  | .red .. => false
  | .cell .. => true
  | .marker _ => true
  | .arrive .. => false
  | .raise .. => false

/-- Two packets come from one crew of one member. -/
def Pkt.sameCrew (p q : Pkt) : Bool := decide (p.src = q.src) && decide (p.kernel = q.kernel) && decide (p.crew = q.crew)

/-- The fault that an answer means: kind and aux (R373, R382). -/
def PeerStatus.fault : PeerStatus → Option (Nat × Nat)
  | .done _ => none
  | .refused a => some (0x064, a)
  | .epoch => some (0x062, 2)
  | .unreachable => some (0x062, 1)
  | .barrierMode a => some (0x051, a)

end Sys2Proof

namespace Sys2Proof.Machine

/-! ### Peer accesses at their destination (R370, R372, R378 to R382) -/

/-- The window does not take an offset, or the context is destroyed or faulted (R372). -/
def State.windowShut (s : State) (ctx off : Nat) : Bool :=
  let st := s.fld .context ctx Ctx.state
  decide (1024 ≤ ctx) || decide (s.fld .exports ctx Exp.en = 0) || decide (s.fld .exports ctx Exp.len * 2 ^ 16 ≤ off) || decide (st = 0) ||
    decide (st = 4)

/-- What the translation of an access in a window finds. -/
def State.xlatWindow (s : State) (ctx : Nat) (op : PeerOp) : Xlat :=
  let (off, need, _) := op.access
  let va := s.windowVa ctx off
  if outside va 1 then .fault 0x030 0 else s.xlatWalk ctx va need

/-- What stands against a packet before any of it is performed. -/
inductive PeerStop where
  | answer (st : PeerStatus)
  | fault (q : QFault)
  | bad (cause : Nat)
  deriving DecidableEq, Repr

/-- The check of one access. -/
def State.peerStop (s : State) (ctx : Nat) (op : PeerOp) : Option PeerStop :=
  let (off, need, _) := op.access
  if s.windowShut ctx off then some (.answer (.refused 1))
  else
    match s.xlatWindow ctx op with
    | .bad cause => some (.bad cause)
    | .fault kind copy => some (.fault ⟨kind, s.windowVa ctx off, decide (need = .write), copy, 0⟩)
    | .ok h =>
      if (Pte.m h.leaf || Pte.kv h.leaf) && op.plainPage.isSome then op.plainPage.map PeerStop.answer
      else if op.readsLine && s.poisoned.contains (lineOf h.pa) then some (.answer (.refused 2))
      else none

/-- The physical address of an access that has passed its checks. -/
def State.peerPa (s : State) (ctx : Nat) (op : PeerOp) : Nat := match s.xlatWindow ctx op with | .ok h => h.pa | _ => 0

/-- An access is performed: the state after it, what it reads, and a barrier-mode failure. -/
def State.peerOp (s : State) (ctx : Nat) (op : PeerOp) : State × List Nat × Option Nat :=
  let pa := s.peerPa ctx op
  match op with
  | .put _ w x => (s.writeNum pa w x, [], none)
  | .get _ w => (s, [s.num pa w], none)
  | .red op ty _ v => (s.writeNum pa (tyBytes ty) (Alu.rmw op ty (s.num pa (tyBytes ty)) v.toNat 0), [], none)
  | .cell .. => (s, [], none)
  | .marker _ => (s, [], none)
  | .arrive _ k => match s.barPerform pa (.arrive k) with | .ok s => (s, [], none) | .error a => (s, [], some a)
  | .raise _ v => match s.barPerform pa (.raise v) with | .ok s => (s, [], none) | .error a => (s, [], some a)

/-- The accesses of a packet are performed in order. -/
def State.peerOps (ctx : Nat) : List PeerOp → State → State × List Nat × Option Nat
  | [], s => (s, [], none)
  | op :: rest, s =>
    let r := s.peerOp ctx op
    let q := State.peerOps ctx rest r.1
    (q.1, r.2.1 ++ q.2.1, r.2.2.or q.2.2)

/-- A packet pauses: at a translation fault, or behind an earlier one of its crew (R372). -/
def State.holdPacket (s : State) (p : Pkt) (q : Option QFault) : State :=
  let n := s.serial
  let s := { s with peersIn := s.peersIn ++ [⟨n, p, q⟩], serial := n + 1 }
  match q with
  | some q => s.meetFault (.peer n) 0 p.ctx p.kernel p.crew 0 0 q
  | none => s

/-- The epoch is the module's own and no earlier packet of the crew is paused: the packet is refused, pauses, or is performed. -/
def State.takePacket (s : State) (p : Pkt) : State :=
  match p.ops.findSome? (s.peerStop p.ctx) with
  | some (.answer st) => s.peerDone p st
  | some (.fault q) => s.holdPacket p (some q)
  | some (.bad cause) => (s.ctxFault p.ctx cause).holdPacket p none
  | none =>
    if p.ops.any PeerOp.toCell then s.postFirst (.cell p false) .xredCellApply
    else
      let r := State.peerOps p.ctx p.ops s
      r.1.peerDone p (match r.2.2 with | some a => .barrierMode a | none => .done r.2.1)

/-- PEER_ACCESS_PERFORM (R370, R372, R374): a packet for this module. The link delivers each packet once and those of a crew in their order;
one of another epoch is dropped, be it one that is held here. -/
def execPeerAccessPerform (s : State) : Host.Outcome State Fault Refusal :=
  match s.place with
  | .packet p =>
    if p.dst ≠ s.selfId ∨ s.peerNext p = false ∨ s.peersIn.any (fun x => x.pkt.sameCrew p && decide (x.pkt.id = p.id) && !(decide (x.pkt = p) && x.fault.isNone)) = true then
      .next s
    else
      let s := { s with peersIn := s.peersIn.filter (fun x => !(decide (x.pkt = p) && x.fault.isNone)) }
      if p.epoch ≠ s.epoch then .next ({ s with host := { s.host with peerDropped := s.host.peerDropped + 1 } }.peerDone p .epoch)
      else if s.peersIn.any (fun x => x.pkt.sameCrew p && decide (x.pkt.id < p.id)) then .next (s.holdPacket p none)
      else .next (s.takePacket p)
  | _ => .next s

/-! ### Reduction cells (R47 to R49, R380, R381) -/

namespace Cel
def count : Fld := ⟨192, 64⟩
def result : Fld := ⟨128, 64⟩
def halt : Fld := ⟨119, 1⟩
def sat : Fld := ⟨118, 1⟩
def mism : Fld := ⟨117, 1⟩
def type : Fld := ⟨112, 5⟩
def anchor : Fld := ⟨96, 16⟩
def N : Fld := ⟨0, 96⟩
end Cel

/-- The addend of a finite value at anchor a, in units of 2^(a − 79), and whether it saturates (R48). -/
def cellAddend (a : Int) (x : Num) : Int × Bool :=
  if x.abs.cmp (.fin false 1 1 (a + 1)) = some .lt then (truncUnits (a - 79) x, false)
  else (if x.sign then -(2 ^ 80 - 1) else 2 ^ 80 - 1, true)

/-- The sum clamped to 95 bits of magnitude, and whether it saturates (R48). -/
def cellSum (n m : Int) : Int × Bool :=
  let z := n + m
  if 2 ^ 95 - 1 < z then (2 ^ 95 - 1, true) else if z < -(2 ^ 95 - 1) then (-(2 ^ 95 - 1), true) else (z, false)

/-- A contribution to a cell of a type and anchor (R48, R49, R381): the cell, and whether it was a mismatch. -/
def cellAdd (cell : Nat) (ty : Ty) (f : Fmt) (a : Int) (v : Nat) : Nat × Bool :=
  if Cel.type.get cell ≠ ty.code.toNat ∨ intVal true 16 (Cel.anchor.get cell) ≠ a then (Cel.mism.set cell 1, true)
  else
    let x := cellAddend a (f.val v)
    let z := cellSum (intVal true 96 (Cel.N.get cell)) x.1
    let cell := if x.2 || z.2 then Cel.sat.set cell 1 else cell
    let cell := Cel.N.set cell (wrapTo 96 z.1)
    let cell := Cel.result.set cell (f.round .rn (.fin (decide (z.1 < 0)) z.1.natAbs 1 (a - 79)))
    (Cel.count.set cell (min (Cel.count.get cell + 1) (2 ^ 64 - 1)), false)

/-- One access to a cell (R381): a halted cell drops it. -/
def onCell (op : PeerOp) (cell : Nat) : Nat × Bool :=
  if Cel.halt.get cell = 1 then (cell, false)
  else
    match op with
    | .marker _ => (Cel.halt.set cell 1, false)
    | .cell ty a _ v => match fmtOf ty with | some f => cellAdd cell ty f a v.toNat | none => (cell, false)
    | .put .. => (cell, false)
    | .get .. => (cell, false)
    | .red .. => (cell, false)
    | .arrive .. => (cell, false)
    | .raise .. => (cell, false)

/-- XRED_CELL_APPLY (R381): the next access of a packet is applied as one step; the last one answers. -/
def execXredCellApply (s : State) : Host.Outcome State Fault Refusal :=
  match s.place with
  | .cell p bad =>
    match p.ops with
    | [] => .next (s.peerDone p (if bad then .refused 3 else .done []))
    | op :: rest =>
      match s.peerStop p.ctx op with
      | some (.answer st) => .next (s.peerDone p st)
      | some (.fault q) => .next (s.holdPacket p (some q))
      | some (.bad cause) => .next (s.ctxFault p.ctx cause)
      | none =>
        let pa := s.peerPa p.ctx op
        let r := onCell op (s.num pa 32)
        let s := s.writeNum pa 32 r.1
        let bad := bad || r.2
        if rest.isEmpty then .next (s.peerDone p (if bad then .refused 3 else .done []))
        else .next (s.postFirst (.cell { p with ops := rest } bad) .xredCellApply)
  | _ => .next s

/-! ### Acknowledgements (R370, R373, R375, R378, R383) -/

/-- The sender of a packet sent. -/
def PeerOut.sender (p : PeerOut) : Sender := ⟨p.k, p.crew, p.ctx, p.bay, p.pc, p.stroke⟩

/-- A crew that waits in XFENCE goes on when its posted accesses are complete (R383). -/
def State.fenceWakes (s : State) (k idx : Nat) : State :=
  if s.posted k idx then s
  else
    s.crews.foldl (fun s p =>
      if p.2.kernel = k ∧ p.2.idx = idx ∧ p.2.wait = Wait.fence then s.resumeNext p.1 else s) s

/-- The answer of a posted access: a failure is reported late, once for its instruction and destination (R373). -/
def State.postedDone (s : State) (p : PeerOut) (st : PeerStatus) : State :=
  let s := { s with peers := s.peers.filter (fun x => decide (x.id ≠ p.id)) }
  let s :=
    match st.fault with
    | some (kind, aux) =>
      if p.told then s
      else
        { s with peers := s.peers.map (fun (x : PeerOut) =>
            if x.instr = p.instr ∧ x.pkt.dst = p.pkt.dst then { x with told := true } else x) }.peerLate p.sender kind aux p.addr
    | none => s
  (s.fenceWakes p.k p.crew).post (.kernel p.k) .kernelRetire

/-- The data of an answer. -/
def PeerOut.data (p : PeerOut) : List Nat := match p.answer with | some (.done l) => l | _ => []

/-- The lowest lane of an XGET whose packet failed, with its fault and address. -/
def lowestFailing (l : List PeerOut) : Option (Nat × Nat × Nat × Nat) :=
  leastBy (fun q => q.1) (l.flatMap (fun p =>
    match p.answer.bind PeerStatus.fault, p.get with
    | some (kind, aux), some (_, ds) => (ds.zip p.pkt.ops).map (fun d => (d.1.1, kind, aux, peerVa p.pkt.dst d.2.access.1))
    | _, _ => []))

/-- The result cells of the packets of an XGET. -/
def getCells (l : List PeerOut) : List (Nat × Word) :=
  l.flatMap (fun p =>
    match p.get with
    | some (_, ds) => (ds.zip p.data).flatMap (fun d => cellsAt d.1.2.2 d.1.2.1 d.1.1 d.2)
    | none => [])

/-- Every packet of an XGET has its answer (R378): the results are written, or the lowest failing lane traps. -/
def State.getDone (s : State) (rid instr : Nat) (l : List PeerOut) : State :=
  let s := { s with peers := s.peers.filter (fun x => decide (x.instr ≠ instr)) }
  match s.crews.get? rid with
  | none => s
  | some c =>
    if c.wait ≠ .peer instr then s
    else
      match lowestFailing l with
      | some (lane, kind, aux, va) => { s with fresh := s.fresh + 1 }.takeTrap rid ⟨kind, aux, va, lane, 0, c.pc, c.slot⟩
      | none => (s.setCrew rid (fun c => c.writeNow s.serial (getCells l) none)).resumeNext rid

/-- Every packet of a COPY's unit has its answer: it lands, or aborts the command with a late record; data that cannot be written now
lets the unit be fetched again. -/
def State.copyDone (s : State) (id instr : Nat) (l : List PeerOut) : State :=
  let s := { s with peers := s.peers.filter (fun x => decide (x.instr ≠ instr)) }
  match s.cmds.find? (fun m => decide (m.id = id)) with
  | none => s.post (.kernel ((l.head?).map (fun p => p.k) |>.getD 0)) .kernelRetire
  | some m =>
    if m.aborted then s
    else
      match l.findSome? (fun p => (p.answer.bind PeerStatus.fault).map (fun f => (f, p.addr))) with
      | some ((kind, aux), addr) => (s.peerLate m.sender kind aux addr).abortOne m
      | none =>
        let (_, dst, n) := copyUnit m.desc m.done
        if (m.peerEnds.map Prod.fst).getD false then
          -- the broadcast path serves another bay first: the unit is fetched again for its turn (R17)
          if m.casts && !s.castTurn m then s else
          match s.need m dst n .write with
          | .error t => t
          | .ok to_ =>
            let t := s.writePieces to_ ((l.flatMap PeerOut.data).flatMap (toBytes 16))
            (if m.casts then (t.castLines m to_).castServed m else t).unitDone m n
        else s.unitDone m n

/-- PEER_ACK (R375): a destination's answer to a packet of this module. -/
def execPeerAck (s : State) : Host.Outcome State Fault Refusal :=
  match s.place with
  | .ack id st =>
    match s.peers.find? (fun p => decide (p.id = id) && p.answer.isNone) with
    | none => .next s
    | some p =>
      if p.get.isNone && p.cmd.isNone then .next (s.postedDone p st)
      else
        let s := { s with peers := s.peers.map (fun (x : PeerOut) => if x.id = id then { x with answer := some st } else x) }
        let l := s.peers.filter (fun x => decide (x.instr = p.instr))
        if l.any (fun x => x.answer.isNone) then .next s
        else
          match p.get, p.cmd with
          | some (rid, _), _ => .next (s.getDone rid p.instr l)
          | none, some m => .next (s.copyDone m p.instr l)
          | none, none => .next s
  | _ => .next s

/-! ### Ports (R366, R367) -/

/-- Times that a port keeps: its last heartbeat or period, its last heartbeat sent, the start of its training. -/
def beatKey (p : Nat) : Nat := 8 * p
def sendKey (p : Nat) : Nat := 8 * p + 1
def trainKey (p : Nat) : Nat := 8 * p + 2
/-- Times of a port's last 1,024 resent flits, each with 1 added. -/
def retryKey (p n : Nat) : Nat := 2 ^ 16 + 1024 * p + n % 1024
/-- The last heartbeat or period of a member over a port. -/
def memberKey (m p : Nat) : Nat := 2 ^ 20 + 64 * m + p

def State.portTime (s : State) (key : Nat) : Nat := s.portTimes.getD key 0
def State.setPortTime (s : State) (key t : Nat) : State := { s with portTimes := s.portTimes.set key t }

/-- 10 µs, 1 ms and 10 ms in clk (R13). -/
def beatPeriod : Nat := 15000
def retryPeriod : Nat := 1500000
def trainPeriod : Nat := 15000000

/-- A port of the module. -/
def validPort (p : Nat) : Bool := decide (p < 64)

def State.portState (s : State) (p : Nat) : Nat := s.fld .port p Port.state

/-- A port changes state, which is a link event (R367). -/
def State.portTo (s : State) (p st : Nat) : State := if s.portState p = st then s else (s.setFld .port p Port.state st).linkEvent

/-- A port begins to train. -/
def State.portTrains (s : State) (p : Nat) : State := (s.setPortTime (trainKey p) s.clock).portTo p 1

/-- PORT_EN_SET (R367). -/
def execPortEnSet (s : State) : Host.Outcome State Fault Refusal :=
  atPort s (fun p => if validPort p && decide (s.fld .port p Port.en = 1) && decide (s.portState p = 0) then s.portTrains p else s)

/-- PORT_EN_CLEAR (R367): packets not acknowledged on the port go over the other up ports, which changes nothing here. -/
def execPortEnClear (s : State) : Host.Outcome State Fault Refusal :=
  atPort s (fun p => if validPort p && decide (s.fld .port p Port.en = 0) then s.portTo p 0 else s)

/-- Forget the resent flits of a port. -/
def State.clearRetries (s : State) (p : Nat) : State :=
  { s with portTimes := s.portTimes.filter (fun t => !(decide (retryKey p 0 ≤ t.1) && decide (t.1 < retryKey p 0 + 1024))) }

/-- PORT_TRAINED (R366, R367): the far end's identifier is learned. -/
def execPortTrained (s : State) : Host.Outcome State Fault Refusal :=
  match s.place with
  | .trained p peer =>
    if validPort p && decide (s.portState p = 1) then
      let s := (s.setFld .port p Port.peer peer.toNat).setFld .port p Port.missed 0
      .next ((((s.setPortTime (beatKey p) s.clock).setPortTime (sendKey p) s.clock).clearRetries p).portTo p 2)
    else .next s
  | _ => .next s

/-- Training of a port has gone on for 10 ms. -/
def State.trainingLate (s : State) (p : Nat) : Bool :=
  validPort p && decide (s.portState p = 1) && decide (s.portTime (trainKey p) + trainPeriod ≤ s.clock)

/-- PORT_TRAINING_TIMEOUT (R367): training restarts. -/
def execPortTrainingTimeout (s : State) : Host.Outcome State Fault Refusal :=
  atPort s (fun p => if s.trainingLate p then s.setPortTime (trainKey p) s.clock else s)

/-- 1,024 flits have been resent on a port within 1 ms. -/
def State.retriesOver (s : State) (p : Nat) : Bool :=
  let t := s.portTime (retryKey p (s.fld .port p Port.retries))
  validPort p && decide (s.portState p = 2) && decide (t ≠ 0) && decide (s.clock + 1 ≤ t + retryPeriod)

/-- PORT_RETRY_LIMIT (R367). -/
def execPortRetryLimit (s : State) : Host.Outcome State Fault Refusal :=
  atPort s (fun p => if s.retriesOver p then (s.clearRetries p).portTrains p else s)

/-- PORT_SIGNAL_SEEN (R367): calibration sees a signal on a dead port. -/
def execPortSignalSeen (s : State) : Host.Outcome State Fault Refusal :=
  atPort s (fun p => if validPort p && decide (s.portState p = 3) then s.portTrains p else s)

/-- CORRUPTED_FLIT (R366, R367): a flit that the port received with a bad check counts in crcerr; one that it sends again counts in
retries. -/
def execCorruptedFlit (s : State) : Host.Outcome State Fault Refusal :=
  match s.place with
  | .flit p resent =>
    if !(validPort p && (decide (s.portState p = 1) || decide (s.portState p = 2))) then .next s
    else if !resent then .next (s.setFld .port p Port.crcerr (s.fld .port p Port.crcerr + 1))
    else
      let n := s.fld .port p Port.retries
      let s := (s.setPortTime (retryKey p n) (s.clock + 1)).setFld .port p Port.retries (n + 1)
      .next (if s.retriesOver p then s.post (.port p) .portRetryLimit else s)
  | _ => .next s

/-! ### Heartbeats and members (R367 to R369, R375) -/

/-- Periods missed of member m over port p (R368). -/
def State.reachCount (s : State) (m p : Nat) : Nat := s.reach.getD (64 * m + p) 0

def State.setReach (s : State) (m p n : Nat) : State := { s with reach := Tbl.write 0 s.reach (64 * m + p) n }

/-- Ports over which a member is reachable. -/
def State.portsOf (s : State) (m : Nat) : Nat := ((List.range 64).filter (fun p => decide (s.reachCount m p < 8))).length

/-- A live member that is dead over every port is declared dead, until the epoch changes (R368): a link event, and every access to it not acknowledged fails
(R375). A module never declares itself dead. -/
def State.judgeMember (s : State) (m : Nat) : State :=
  if s.memberLive m && decide (m ≠ s.selfId) && decide (s.portsOf m = 0) then
    let s := ({ s with declared := s.declared ++ [m] }.setFld .member m Mem.state 2).linkEvent
    (s.peers.filter (fun p => decide (p.pkt.dst = m) && p.answer.isNone)).foldl (fun s p => s.post (.ack p.id .unreachable) .peerAck) s
  else s

/-- HEARTBEAT_ARRIVE (R367, R368): over an up port; one from a module that is no member counts for the port alone. -/
def execHeartbeatArrive (s : State) : Host.Outcome State Fault Refusal :=
  match s.place with
  | .beat p m =>
    if validPort p && decide (s.portState p = 2) then
      let now := s.time % 2 ^ 32
      let s := ((s.setFld .port p Port.missed 0).setFld .port p Port.lastbeat now).setPortTime (beatKey p) s.clock
      if m < Config.members then
        let s := ((s.setReach m p 0).setPortTime (memberKey m p) s.clock).setFld .member m Mem.lastbeat now
        .next (s.setFld .member m Mem.ports (s.portsOf m))
      else .next s
    else .next s
  | _ => .next s

/-- A heartbeat of a port is due. -/
def State.beatDue (s : State) (p : Nat) : Bool :=
  validPort p && decide (s.portState p = 2) && decide (s.portTime (sendKey p) + beatPeriod ≤ s.clock)

/-- HEARTBEAT_SEND (R367). -/
def execHeartbeatSend (s : State) : Host.Outcome State Fault Refusal :=
  atPort s (fun p => if s.beatDue p then s.setPortTime (sendKey p) s.clock else s)

/-- A period of an up port has passed without a heartbeat. -/
def State.portMisses (s : State) (p : Nat) : Bool :=
  validPort p && decide (s.portState p = 2) && decide (s.portTime (beatKey p) + beatPeriod ≤ s.clock)

/-- A period has passed without a heartbeat of member m over port p; a dead pair is counted no further. -/
def State.memberMisses (s : State) (m p : Nat) : Bool :=
  validPort p && decide (m < 768) && decide (s.reachCount m p < 8) && decide (s.portTime (memberKey m p) + beatPeriod ≤ s.clock)

/-- HEARTBEAT_PERIOD_MISSED (R367 to R369, R375): of a port, or of a member over a port. -/
def execHeartbeatPeriodMissed (s : State) : Host.Outcome State Fault Refusal :=
  match s.place with
  | .port p =>
    if s.portMisses p then
      let n := s.fld .port p Port.missed + 1
      let s := (s.setPortTime (beatKey p) (s.portTime (beatKey p) + beatPeriod)).setFld .port p Port.missed n
      .next (if 8 ≤ n then s.portTo p 3 else s)
    else .next s
  | .beat p m =>
    let t :=
      if s.memberMisses m p then
        let s := (s.setPortTime (memberKey m p) (s.portTime (memberKey m p) + beatPeriod)).setReach m p (s.reachCount m p + 1)
        s.setFld .member m Mem.ports (s.portsOf m)
      else s
    .next (t.judgeMember m)
  | _ => .next s

end Sys2Proof.Machine
end

