-- ==== Sys2Proof/Machine/EvPage.lean ====
section
/-! DEFINITION. The events of pages: walks, fault-queue entries, copies and freed KV pages (R253, R255, R257, R258, R268, R270, R345). -/

namespace Sys2Proof.Machine

/-- A TLB takes an entry; a full one gives up another, by free choice (R255). -/
def Bay.tlbFill (y : Bay) (t : TlbEntry) (pick : Nat) : Bay :=
  if y.tlb.any (fun x => decide (x.ctx = t.ctx) && decide (x.va = t.va) && decide (x.big = t.big)) then y
  else if y.tlb.length < Config.tlbEntries then { y with tlb := y.tlb ++ [t] }
  else { y with tlb := dropAt (pick % Config.tlbEntries) y.tlb ++ [t] }

/-- The frame of a pinned page refills on first touch, from the recorded backing and without translation (R264), where the bay has a
frame free (log 38). -/
def State.refillPin (s : State) (b : Nat) (p : Pin) : State :=
  if s.stashUsed b < Config.stashPages then s.setStash b (fun l => l ++ [⟨p.ctx, p.va, p.pa, p.w, none⟩]) else s

/-- TLB_WALK (R253, R255): a TLB never holds a leaf with V = 0. A pinned page that is not resident refills instead (R264). -/
def execTlbWalk (s : State) : Host.Outcome State Fault Refusal :=
  match s.place with
  | .walk b ctx va =>
    let va := va.toNat
    match s.pinOf ctx b va with
    | some p => .next (if (s.stashOf b ctx va).isSome then s else s.refillPin b p)
    | none =>
    match s.walk ctx va with
    | .absent => .next s
    | .bad cause => .next (s.ctxFault ctx cause)
    | .leaf e _ big =>
      let t : TlbEntry := ⟨ctx, if big then va / 2 ^ 21 * 2 ^ 21 else va / 2 ^ 16 * 2 ^ 16, big, e⟩
      .next ({ s with fresh := s.fresh + 1 }.setBay b (fun y => y.tlbFill t (s.choice 0)))
  | _ => .next s

/-- FAULT_QUEUE_JOIN (R257, R258): the crew's earlier strokes have committed. -/
def execFaultQueueJoin (s : State) : Host.Outcome State Fault Refusal :=
  atCrew s (fun rid c =>
    match c.fault, c.wait with
    | some q, .strokes =>
      if !c.strokes.isEmpty then s
      else s.meetFault (.crew rid) (dieOf (ridBay rid)) (c.ctx s) (s.handle c.kernel) c.idx (ridBay rid) c.pc q
    | _, _ => s)

/-- Everything that waits for the copy of a page goes on once it is made, or joins an entry of kind 0x034 where it cannot be. -/
def State.afterCopy (s : State) (ctx lo n : Nat) (made : Bool) : State :=
  let ws := s.copyWaiters ctx lo n
  if made then ws.foldl State.reissue s else ws.foldl State.joinExhausted s

/-- KV_COPY_ON_WRITE (R268). -/
def execKvCopyOnWrite (s : State) : Host.Outcome State Fault Refusal :=
  match s.place with
  | .page ctx va =>
    let r := s.kvCopy ctx va.toNat
    .next (r.2.afterCopy ctx (va.toNat / 65536 * 65536) 65536 r.1)
  | _ => .next s

/-- A 0x034 entry of a context for a page with reductions waiting. -/
def State.redsJoined (s : State) (ctx va : Nat) : Bool :=
  s.fq.any (fun e => decide (e.ctx = ctx) && decide (e.page = pageKey va) && e.waiters.contains .reds)

/-- The reductions in flight to a page whose copy cannot be made join an entry of kind 0x034 (R270). -/
def State.redsExhausted (s : State) (ctx va : Nat) : State :=
  match s.reds.find? (fun r => decide (r.ctx = ctx) && decide (pageKey r.va = pageKey va)) with
  | some r =>
    if s.redsJoined ctx va then s
    else s.fqJoin ⟨dieOf r.bay, ctx, 0x034, r.va, s.handle r.k, r.crew, r.bay, r.pc, true, .reds⟩
  | none => s

/-- The barrier operations of the device that are held for a page whose copy cannot be made join an entry of kind 0x034 (R270; log 92). -/
def State.barsExhausted (s : State) (ctx va : Nat) : State :=
  let who : Waiter := .bars ctx (pageKey va)
  if s.heldBars.any (fun h => decide (h.ctx = ctx) && decide (pageKey h.va = pageKey va)) && !s.fq.any (fun e => e.waiters.contains who) &&
      !s.fqWait.any (fun w => decide (w.who = who)) then
    s.fqJoin ⟨0, ctx, 0x034, va, 0, 0, 0, 0, true, who⟩
  else s

/-- CHECKPOINT_COW_COPY (R270). -/
def execCheckpointCowCopy (s : State) : Host.Outcome State Fault Refusal :=
  match s.place with
  | .page ctx va =>
    let n := match s.leafOf ctx va.toNat with | some (_, _, true) => 2 ^ 21 | _ => 2 ^ 16
    let r := s.ckptCopy ctx va.toNat
    let t := r.2.afterCopy ctx (va.toNat / n * n) n r.1
    .next (if r.1 then t.serveBars ctx else (t.redsExhausted ctx va.toNat).barsExhausted ctx va.toNat)
  | _ => .next s

/-- KV_COUNT_FREE (R265, R345): a freed page to which no write is still to land; freed pages reach the ring in any order (R405). -/
def execKvCountFree (s : State) : Host.Outcome State Fault Refusal :=
  atEntry s (fun i =>
    match s.kvFree[i]? with
    | some p => if s.pageQuiet p.2 then { s with kvFree := dropAt i s.kvFree }.pushFree p.1 p.2 else s
    | none => s)

end Sys2Proof.Machine
end

