-- ==== Sys2Proof/Machine/EvSum.lean ====
section
/-! DEFINITION. The events of the matrix pipe, the near-cache adders and the leave unit (R16, R44, R45, R113, R133, R284 to R296, R427). -/

namespace Sys2Proof.Machine

/-! ### The matrix pipe (R16, R45, R293, R294, R427) -/

/-- The crew stands at the pipe with an MMA. -/
def Crew.atPipe (c : Crew) : Bool := decide (c.wait = .pipe) && c.mma.isSome

/-- A side has an MMA at the pipe that its allowance admits. -/
def State.sideReady (s : State) (b d : Nat) : Bool :=
  s.crews.any (fun p => decide (p.1 / 32 = 2 * b + d) && p.2.atPipe && s.mmaAllowed b p.2.kernel)

/-- The pipe of a bay takes an MMA of a side now (R16): it is open, and the other side has no MMA at it that goes first. -/
def State.pipeTakes (s : State) (b d : Nat) : Bool :=
  s.pipeOpen b &&
    (!s.sideReady b (1 - d) || (match (s.bay b).pipeSide with | some p => decide (d ≠ p) | none => decide (d = 0)))

/-- Operand A as the registers give it, with the selected scale registers (R290). -/
def Crew.aOperand (c : Crew) (rid : Nat) (j : MmaJob) : Latch :=
  let n := (mmaShape j.fmt).G / 4
  let rows (r m : Nat) : List Word := (List.range m).flatMap (fun i => (List.range 32).map (fun l => c.reg (r + i) l))
  ⟨rid, j.fmt, j.a, j.c, j.s, rows j.a 64, rows (j.c + n * j.s) n⟩

/-- The latch serves an MMA (R293). -/
def Latch.serves (l : Latch) (rid : Nat) (j : MmaJob) : Bool :=
  decide (l.owner = rid) && decide (l.fmt = j.fmt) && decide (l.a = j.a) && decide (l.c = j.c) && decide (l.s = j.s)

/-- Operand A of an MMA (R293): from the latch where it serves, or, by free choice, the registers that have changed since. -/
def State.takeA (s : State) (rid : Nat) (c : Crew) (j : MmaJob) : Latch :=
  match (s.side (ridBay rid) (ridSide rid)).latch with
  | some l => if l.serves rid j && decide (s.choice 0 % 2 = 0) then l else c.aOperand rid j
  | none => c.aOperand rid j

/-- A byte of operand B, read by the pipe (R291). A byte whose page has gone since the checks is open. -/
def State.bByte (s : State) (b ctx src off : Nat) : Nat :=
  match s.xlat b ctx (src + off) .read with
  | .ok h => (s.byte h.pa).toNat
  | .fault _ _ => s.choice (1 + off) % 256
  | .bad _ => s.choice (1 + off) % 256

/-- c(i, j) of an MMA. -/
def State.mmaValue (s : State) (rid ctx : Nat) (j : MmaJob) (l : Latch) (row col : Nat) : Nat :=
  let word (ws : List Word) (i : Nat) : Word := (ws[32 * i + row]?).getD 0#32
  mmaC j.fmt (word l.vals) (fun g => (word l.scales (g / 4)).toNat / 2 ^ (8 * (g % 4)) % 256) (s.bByte (ridBay rid) ctx j.bsrc) col

/-- The number of the crew's open stamp window (R399). -/
def State.openWindow (s : State) (k idx : Nat) : Option Nat :=
  match ((s.kern k).keepOf idx).windows.getLast? with
  | some w => if w.closed then none else some w.seq
  | none => none

/-- The reduction of element (row, col) of an MMA that the pipe accepts now: block b is computed in the b-th clk (R294). -/
def State.mmaRed (s : State) (rid : Nat) (c : Crew) (j : MmaJob) (l : Latch) (row col : Nat) : Red :=
  let off := 1024 * row + 8 * col
  { va := j.dst + off, pa := (j.lines[off / 128]?).getD 0 + off % 128, v := s.mmaValue rid (c.ctx s) j l row col, k := c.kernel, crew := c.idx,
    ctx := c.ctx s, batch := ((s.kern c.kernel).keepOf c.idx).mcount + 1, mma := some s.serial, block := col / 8, ready := s.clock + col / 8,
    pc := j.pc, bay := ridBay rid, stroke := 0, window := s.openWindow c.kernel c.idx }

/-- The elements of the blocks from p on, in the order of R294. -/
def mmaElems (p : Nat) : List (Nat × Nat) :=
  (List.range (16 - p)).flatMap (fun u => (List.range 32).flatMap (fun i => (List.range 8).map (fun v => (i, 8 * (p + u) + v))))

/-- The marks of an acceptance on the bay: the pipe is occupied for 16 clk, the allowance and the latch of the side. -/
def State.pipeTaken (s : State) (rid k : Nat) (latch : Option Latch) : State :=
  let b := ridBay rid
  let s := s.setBay b (fun y => { y with pipeFree := s.clock + 16, pipeSide := some (ridSide rid), pipeLast := s.clock + 1 })
  let s := s.onBayKernel b k (fun x => { x with window := windowOf s.clock, accepted := x.used s.clock + 1 })
  s.setSide b (ridSide rid) (fun d => { d with latch := latch })

/-- The first block that an MMA of a crew computes (R294, R122): the progress index for the MMA that a stop has ended, else 0. -/
def Crew.firstBlock (c : Crew) (j : MmaJob) : Nat := if c.restAt = some (j.slot, j.pc) then c.progress else 0

/-- Marks of the issue of an MMA, which is its acceptance: the stall of the crew's next instruction counts from here (R57, R294). -/
def Crew.mmaIssued (c : Crew) (j : MmaJob) (clk : Nat) : Crew :=
  { c with lastIssue := some clk, yielded := j.yields, yieldOut := false, stalled := none, flagWait := none, skip := false, mma := none,
           wait := .retry, restAt := none }

/-- The pipe accepts an MMA (R294): it computes the blocks from the progress index on, and the crew goes on from the next clk. -/
def State.acceptMma (s : State) (rid : Nat) (c : Crew) (j : MmaJob) : State :=
  let p := c.firstBlock j
  let id := s.serial
  let l := s.takeA rid c j
  let reds := (mmaElems p).map (fun e => s.mmaRed rid c j l e.1 e.2)
  let t : State := { s with serial := s.serial + 1, fresh := s.fresh + 1, mmaFlags := s.mmaFlags ++ [(⟨id, rid, j.flag⟩ : MmaFlag)] }
  let t := reds.foldl State.issueRed (t.pipeTaken rid c.kernel (if j.reuse then some l else none))
  let t := t.onWindow c.kernel c.idx (fun w =>
    { w with mstart := some (w.mstart.getD s.clock), nmma := w.nmma + (if p = 0 then 1 else 0) })
  let t := (t.resumeNext rid).setCrew rid (fun c =>
    { (c.setFlag j.flag).mmaIssued j s.clock with
      resumed := if p = 0 then c.resumed else some id
      mmaRun := some ⟨id, j.pc, j.slot, p, s.clock, false, { j with used := if j.reuse then some l else none }⟩ })
  t.mmaDone id

/-- The reductions that a stop has left of an MMA, as its crew's bay issues them, each in the stamp window it had (R399;
log 63): lines: the destination's, translated anew. -/
def State.restReds (s : State) (rid : Nat) (j : MmaJob) (lines : List Nat) : List Red :=
  j.rest.map (fun r =>
    let off := r.va - j.dst
    { r with pa := (lines[off / 128]?).getD 0 + off % 128, mma := some s.serial, ready := s.clock + r.block, bay := ridBay rid })

/-- The pipe accepts an MMA whose crew had gone past it when a stop ended it: the blocks that were left are computed, and with .reuse the
latch takes the values it has used (R118, R122, R293; log 63). -/
def State.acceptRest (s : State) (rid : Nat) (c : Crew) (j : MmaJob) (lines : List Nat) : State :=
  let id := s.serial
  let reds := s.restReds rid j lines
  let t : State := { s with serial := s.serial + 1, fresh := s.fresh + 1, mmaFlags := s.mmaFlags ++ [(⟨id, rid, none⟩ : MmaFlag)] }
  let t := reds.foldl State.issueRed (t.pipeTaken rid c.kernel (if j.reuse then j.used.map (fun l => { l with owner := rid }) else none))
  (t.setCrew rid (fun c =>
    { c with mma := none, wait := .retry, resumed := some id, mmaRun := some ⟨id, j.pc, j.slot, c.progress, s.clock, true, j⟩ })).mmaDone id

/-- An MMA that a stop has left is checked anew where its crew is now (R282, R304), as an instruction at its own PC. -/
def State.resumeRest (s : State) (rid : Nat) (c : Crew) (j : MmaJob) : State :=
  let at_ : Crew := { c with pc := j.pc, slot := j.slot }
  match s.sumCheck rid at_ j.dst 32768 c.low with
  | .ok (_, l) => s.acceptRest rid c j ((pieceLines l).map Prod.snd)
  | .error (.trap t) => (s.setCrew rid (fun c => { c with mma := none, restAt := some (j.slot, j.pc) })).stopAt rid (.trap t)
  | .error x => s.stopAt rid x

/-- MMA_ACCEPT (R16, R113, R294): an MMA beyond its allowance waits for leave and asks for a raise, and after a refusal waits for the next
window. One that its allowance admits and the pipe does not take now leaves its crew issuable: it tries again. -/
def execMmaAccept (s : State) : Host.Outcome State Fault Refusal :=
  atCrew s (fun rid c =>
    let b := ridBay rid
    match c.mma with
    | none => s
    | some j =>
      if c.wait ≠ .pipe ∧ (c.wait ≠ .none ∨ j.rest.isEmpty = true) then s
      else if !s.mmaAllowed b c.kernel then
        let s := if c.wait = .none then s.waitFor rid .pipe else s
        match (s.bay b).kerns.get? c.kernel with
        | some x => if x.refused = some (windowOf s.clock) then s else s.askRaise b c.kernel .mma
        | none => s
      else if !s.pipeTakes b (ridSide rid) then s.setCrew rid (fun c => { c with wait := .none })
      else if j.rest.isEmpty then s.acceptMma rid c j
      else s.resumeRest rid c j)

/-- MMA_PIPE_FREE (R16): the occupancy ends, and with it the MMA's part in a stop (R118). -/
def execMmaPipeFree (s : State) : Host.Outcome State Fault Refusal :=
  atBay s (fun b =>
    let y := s.bay b
    if y.pipeFree = 0 ∨ s.clock < y.pipeFree then s
    else
      let s := s.setBay b (fun y => { y with pipeFree := 0 })
      { s with crews := s.crews.map (fun (p : Nat × Crew) =>
          if ridBay p.1 = b then
            (p.1, { p.2 with mmaRun := match p.2.mmaRun with | some r => if r.start + 16 ≤ s.clock then none else some r | none => none })
          else p) })

/-! ### The adders (R44, R270, R284 to R288) -/

/-- Reduction e is to be applied before r (R230, R288): the same crew, and the same element; or an earlier block of the same MMA; or an
earlier update of the same instruction. -/
def Red.before (e r : Red) : Bool :=
  decide (e.k = r.k) && decide (e.crew = r.crew) &&
    (decide (e.pa = r.pa) || (decide (e.mma = r.mma) &&
      (match r.mma with | some _ => decide (e.block < r.block) | none => decide (e.pc = r.pc) && decide (e.stroke = r.stroke))))

/-- A reduction is applied at its line's home slice, not in the stash of its bay. -/
def State.atSlice (s : State) (r : Red) : Bool := (s.pinOf r.ctx r.bay r.va).isNone

/-- The lines of an L2 slice with reductions in flight, in the order in which those were issued. -/
def State.halfLines (s : State) (slice : Nat) : List Nat :=
  addLines [] ((s.reds.filter (fun r => s.atSlice r && decide (homeSlice r.pa = slice))).map (fun r => lineOf r.pa))

/-- A reduction waits at its slice while 8,192 other lines there are half-accumulated (R285). -/
def State.sliceHolds (s : State) (r : Red) : Bool :=
  decide (Config.sliceLines < s.reds.length) && s.atSlice r &&
    !((s.halfLines (homeSlice r.pa)).take Config.sliceLines).contains (lineOf r.pa)

/-- Reduction number i may be applied now. -/
def State.mayApply (s : State) (i : Nat) : Bool :=
  match s.reds[i]? with
  | some r => decide (r.ready ≤ s.clock) && !(s.reds.take i).any (fun e => e.before r) && !s.sliceHolds r
  | none => false

/-- Reduction number i is applied, or dropped at a poisoned line (R287). -/
def State.applyRed (s : State) (i : Nat) (r : Red) : State :=
  let s := { s with reds := dropAt i s.reds }
  let s := if s.poisoned.contains (lineOf r.pa) then s.dropRed r else s.writeNum r.pa 8 (addF64 (s.num r.pa 8) r.v)
  let s := match r.window with | some q => s.mapWindow r.k r.crew q (fun w => { w with mend := some s.clock }) | none => s
  (s.redsGone [r]).tidy r.k

/-- REDUCTION_APPLY (R44, R270): a write to a page marked for a checkpoint copy waits for the copy. -/
def execReductionApply (s : State) : Host.Outcome State Fault Refusal :=
  atEntry s (fun i =>
    match s.reds[i]? with
    | some r =>
      if !s.mayApply i then s
      else if s.backingC r.ctx r.va then
        if s.redsJoined r.ctx r.va then s else s.post (.page r.ctx (BitVec.ofNat 64 r.va)) .checkpointCowCopy
      else s.applyRed i r
    | none => s)

/-- MATRIX_BATCH_RAISE (R296). -/
def execMatrixBatchRaise (s : State) : Host.Outcome State Fault Refusal :=
  match s.place with
  | .kernelCrew k c => .next (s.advance false k c)
  | _ => .next s

/-- An uncorrectable error is found in a line; what the reductions to it held on bays is released (R115, R287). -/
def State.poisonLine (s : State) (l : Nat) : State :=
  if s.poisoned.contains l then s
  else ((s.reds.filter (fun r => decide (lineOf r.pa = l))).map (fun r => r.k)).dedup.foldl State.tidy (s.poison l)

/-- An uncorrectable storage error has been found (R430). -/
def State.errorFound (s : State) : State := { s with host := { s.host with uncorrectable := s.host.uncorrectable + 1 } }

/-- LINE_POISONED (R284, R287): an access finds an uncorrectable error; poison stays until SUMZ. -/
def execLinePoisoned (s : State) : Host.Outcome State Fault Refusal :=
  match s.place with
  | .line l => .next (if s.poisoned.contains l then s else s.errorFound.poisonLine l)
  | _ => .next s

/-! ### Leave (R113, R133, R376) -/

/-- A crew that waits for leave for an MMA looks again. -/
def Crew.leaveAgain (c : Crew) : Crew := if c.wait = .pipe then { c with wait := .none } else c

/-- Crews of a bay that wait for leave for an MMA, of one kernel or (none) of any, look again. -/
def State.leaveAgain (s : State) (b : Nat) (k : Option Nat) : State :=
  { s with crews := s.crews.map (fun (p : Nat × Crew) =>
      if ridBay p.1 = b ∧ (k = none ∨ k = some p.2.kernel) then (p.1, p.2.leaveAgain) else p) }

/-- A crew that waits for leave for a peer burst asks for a raise; at level 15 the burst goes on (R113). -/
def State.askForBurst (s : State) (rid : Nat) (c : Crew) : State :=
  if s.level (ridBay rid) c.kernel = 15 then s.setCrew rid (fun c => { c with burst := true, wait := .none })
  else s.askRaise (ridBay rid) c.kernel (.burst rid)

/-- LEAVE_WINDOW (R113): the allowances of a bay begin anew; MMAs beyond the last one, and commands and bursts whose raise was refused,
ask again. -/
def execLeaveWindow (s : State) : Host.Outcome State Fault Refusal :=
  atBay s (fun b =>
    let s := s.setBay b (fun y => { y with kerns := y.kerns.map (fun (p : Nat × BayKernel) =>
      (p.1, { p.2 with window := windowOf s.clock, accepted := p.2.used s.clock, refused := none })) })
    let s := (s.cmds.filter (fun m => decide (m.bay = b) && m.leave && decide (m.stage = .waiting))).foldl (fun s m => s.askForCmd m.id) s
    let s := s.leaveAgain b none
    (s.crews.filter (fun p => decide (ridBay p.1 = b) && decide (p.2.wait = .leave))).foldl (fun s p => s.askForBurst p.1 p.2) s)

/-- The level of a kernel on a bay has risen (R113): its MMAs there look again, and at level 15 its commands and bursts wait for nothing. -/
def State.levelRisen (s : State) (b k : Nat) : State :=
  let s := s.leaveAgain b (some k)
  if s.level b k = 15 then
    { s with
      cmds := s.cmds.map (fun m => if m.bay = b ∧ m.k = k then { m with leave := false } else m)
      crews := s.crews.map (fun (p : Nat × Crew) =>
        if ridBay p.1 = b ∧ p.2.kernel = k ∧ p.2.wait = Wait.leave then (p.1, { p.2 with burst := true, wait := .none }) else p) }
  else s

/-- A level rises by units that the governor has granted: those beyond level 15 go back. -/
def State.raiseLevel (s : State) (b k n : Nat) : State :=
  let d := dieOf b
  let m := min n (15 - s.level b k)
  let s := (s.onBayKernel b k (fun x => { x with level := x.level + m })).setKern k (fun y => y.setHeld d (y.held d + m))
  (s.returnUnits d (n - m)).levelRisen b k

/-- What a granted or refused raise was asked for goes on, or waits for the next window (R113). -/
def State.raiseAnswered (s : State) (b k : Nat) (who : RaiseFor) (ok : Bool) : State :=
  match who with
  | .mma => if ok then s.leaveAgain b (some k) else s.onBayKernel b k (fun x => { x with refused := some (windowOf s.clock) })
  | .cmd id => if ok then s.mapCmd id (fun m => { m with leave := false }) else s
  | .burst rid =>
    if ok then
      s.setCrew rid (fun c => if c.kernel = k ∧ c.wait = Wait.leave then { c with burst := true, wait := .none } else c)
    else s

/-- LEAVE_RAISE_ANSWER (R113). -/
def execLeaveRaiseAnswer (s : State) : Host.Outcome State Fault Refusal :=
  match s.place with
  | .kernelBay k b =>
    match s.answers.find? (fun a => match a.1.what with | .raise b' k' _ => decide (b' = b) && decide (k' = k) | _ => false) with
    | some (r, ok) =>
      let s := { s with answers := s.answers.erase (r, ok) }
      match r.what with
      | .raise _ _ who => .next ((if ok then s.raiseLevel b k 1 else s).raiseAnswered b k who ok)
      | _ => .next s
    | none => .next s
  | _ => .next s

/-- A LEAVE gives its crew a result, and the crew goes on (R133). -/
def State.leaveResult (s : State) (rid d v : Nat) : State := (s.setCrew rid (fun c => c.putAll s.serial d v)).resumeNext rid

/-- The crew that waits for LEAVE request n, with its destination and the last clk of the 100. -/
def State.leaveAsker (s : State) (n : Nat) : Option (Nat × Nat × Nat) :=
  s.crews.findSome? (fun p => match p.2.wait with | .leaveAsk m d u => if m = n then some (p.1, d, u) else none | _ => none)

/-- The answer to LEAVE request n of a kernel on a bay. A request that a later LEAVE has replaced raises nothing. -/
def State.leaveAnswered (s : State) (b k n units : Nat) (ok : Bool) : State :=
  let stands : Bool := match (s.bay b).kerns.get? k with | some x => decide (x.openLeave = some n) | none => false
  if !stands then (if ok then (s.returnUnits (dieOf b) units).kick else s)
  else
    let s := s.onBayKernel b k (fun x => { x with openLeave := none })
    let s := if ok then s.raiseLevel b k units else s
    match s.leaveAsker n with
    | some (rid, d, u) => if s.clock ≤ u then s.leaveResult rid d (if ok then 0 else 0x0E) else s.leaveResult rid d 0x0D
    | none => s

/-- LEAVE_GRANT_ARRIVE (R133): an answer arrives; or 100 clk have passed without one, and the request stays open. -/
def execLeaveGrantArrive (s : State) : Host.Outcome State Fault Refusal :=
  match s.place with
  | .kernelBay k b =>
    match s.answers.find? (fun a => match a.1.what with | .leave b' k' _ _ _ => decide (b' = b) && decide (k' = k) | _ => false) with
    | some (r, ok) =>
      let s := { s with answers := s.answers.erase (r, ok) }
      match r.what with
      | .leave _ _ n _ units => .next (s.leaveAnswered b k n units ok)
      | _ => .next s
    | none =>
      .next (s.crews.foldl (fun s p =>
        match p.2.wait with
        | .leaveAsk _ d u => if ridBay p.1 = b ∧ p.2.kernel = k ∧ u < s.clock then s.leaveResult p.1 d 0x0D else s
        | _ => s) s)
  | _ => .next s

end Sys2Proof.Machine
end

