-- ==== Sys2Proof/Machine/EvPower.lean ====
section
/-! DEFINITION. The events of power, temperature and background work (R425 to R427, R429). -/

namespace Sys2Proof.Machine

/-- The budget of a die at a power limit (R426). -/
def budgetAt (plimit : Nat) : Nat := 1326 * (plimit - 2000) / 1000

/-- PLIMIT_WRITE (R425, R426): the limit is clamped, each budget follows, and kernels passed over are tried again. -/
def execPlimitWrite (s : State) : Host.Outcome State Fault Refusal :=
  match s.place with
  | .plimit v =>
    let w := max 2400 (min 4800 v.toNat)
    let s := s.setFld .power 0 Pwr.plimit w
    .next ((s.setFld .power 0 Pwr.budget0 (budgetAt w)).setFld .power 0 Pwr.budget1 (budgetAt w)).kick
  | _ => .next s

/-- The trip bit of a die. -/
def tripFld (d : Nat) : Fld := if d = 0 then Pwr.trip0 else Pwr.trip1

/-- A junction temperature is read, in 0.1 °C. -/
def State.setTemp (s : State) (d t : Nat) : State := if d = 0 then { s with temp0 := t } else { s with temp1 := t }

/-- THERMAL_TRIP_SET (R427): above 105 °C. -/
def execThermalTripSet (s : State) : Host.Outcome State Fault Refusal :=
  match s.place with
  | .thermal d t =>
    if 1050 < t ∧ d < 2 then .next ((s.setTemp d t).setFld .power 0 (tripFld d) 1) else .next s
  | _ => .next s

/-- THERMAL_TRIP_CLEAR (R427): below 100 °C. -/
def execThermalTripClear (s : State) : Host.Outcome State Fault Refusal :=
  match s.place with
  | .thermal d t =>
    if t < 1000 ∧ d < 2 then .next ((s.setTemp d t).setFld .power 0 (tripFld d) 0) else .next s
  | _ => .next s

/-- A temperature that agrees with a die's trip bit (R427), from a free one. -/
def feltTemp (tripped : Bool) (x : Nat) : Nat := if tripped then 1000 + x % 1048 else x % 1051

/-- The internal reading of power and temperatures, every ms (R429, R430): free values (log 9), but for what the trip bits say. -/
def State.sense (s : State) : State :=
  { s with watts := s.choice 11 % 2 ^ 16, coolant := s.choice 12 % 2 ^ 16,
           temp0 := feltTemp (s.tripped 0) (s.choice 13), temp1 := feltTemp (s.tripped 1) (s.choice 14) }

/-- A storage error that has been found counts (R430). -/
def State.counted (s : State) : ScrubFinding → State
  | .clean => s
  | .corrected => { s with host := { s.host with correctable := s.host.correctable + 1 } }
  | .uncorrectable => s.errorFound

/-- What a scrub of a line does (R429, R430): a correction changes no value, and an uncorrectable error is handled as at an access. -/
def State.scrubbed (s : State) (l : Nat) (f : ScrubFinding) : State :=
  if f = .uncorrectable then (s.counted f).poisonLine l else s.counted f

/-- HBM_PATROL_SCRUB (R429). -/
def execHbmPatrolScrub (s : State) : Host.Outcome State Fault Refusal :=
  match s.place with
  | .scrub l f => .next (s.scrubbed l f)
  | _ => .next s

/-- SRAM_SCRUB (R429): of a line held in a stash or in L2; what a scrub finds in register files and instruction memory is only counted
(log 86). -/
def execSramScrub (s : State) : Host.Outcome State Fault Refusal :=
  match s.place with
  | .scrub l f => .next (s.scrubbed l f)
  | .sram f => .next (s.counted f)
  | _ => .next s

end Sys2Proof.Machine
end

