-- ==== Sys2Proof/Machine/EvQueue.lean ====
section
/-! DEFINITION. The events of the queue table and of the cox configuration word (R73, R76, R89 to R91, R95, R96). -/

namespace Sys2Proof.Machine

/-- A queue command is done or refused: it counts, with its status (R76, R89). -/
def State.queueDone (s : State) (q st : Nat) : State :=
  let s := s.setFld .queue q Que.cseq (s.fld .queue q Que.cseq + 1)
  s.setFld .queue q Que.cstat st

/-- Run a queue command at its place. -/
def queueCommand (s : State) (f : State → Nat → Nat × State) : Host.Outcome State Fault Refusal :=
  atQueue s (fun q => let r := f s q; r.2.queueDone q r.1)

/-- A queue record is valid (R90): its reserved fields must be zero (R8). -/
def State.queueValid (s : State) (q : Nat) : Bool :=
  decide (1 ≤ s.fld .queue q Que.depth) && decide (s.fld .queue q Que.depth ≤ 16384) &&
    decide (s.fld .context (s.fld .queue q Que.ctx) Ctx.state ≠ 0) && Que.reserved.all (fun f => decide (s.fld .queue q f = 0))

/-- The counters that OPEN clears. -/
def State.clearQueue (s : State) (q : Nat) : State :=
  [Que.nposted, Que.nready, Que.done, Que.late].foldl (fun s f => s.setFld .queue q f 0) s

/-- OPEN (R90). -/
def execQueueOpen (s : State) : Host.Outcome State Fault Refusal :=
  queueCommand s (fun s q =>
    let ctx := s.fld .queue q Que.ctx
    let n := s.fld .context ctx Ctx.nqueues
    if s.fld .queue q Que.state ≠ 0 then (2, s)
    else if !s.queueValid q || decide (s.cfg ctx Ctx.qmax ≤ n) then (3, s)
    else
      let s := { s with queueCfg := s.queueCfg.set q (s.rcd .queue q) }
      (0, (((s.clearQueue q).setFld .queue q Que.state 1).setFld .context ctx Ctx.nqueues (n + 1)).kick))

/-- HOLD (R90). -/
def execQueueHold (s : State) : Host.Outcome State Fault Refusal := queueCommand s State.holdQueue

/-- RELEASE (R90). -/
def execQueueRelease (s : State) : Host.Outcome State Fault Refusal := queueCommand s State.releaseQueue

/-- FLUSH (R90). -/
def execQueueFlush (s : State) : Host.Outcome State Fault Refusal := queueCommand s State.flushQueue

/-- CLOSE (R90). -/
def execQueueClose (s : State) : Host.Outcome State Fault Refusal :=
  queueCommand s (fun s q =>
    let ctx := s.qcfg q Que.ctx
    if s.fld .queue q Que.state = 0 then (2, s)
    else if s.fld .queue q Que.nposted ≠ 0 then (5, s)
    else (0, (s.setFld .queue q Que.state 0).setFld .context ctx Ctx.nqueues (s.fld .context ctx Ctx.nqueues - 1)))

/-- RECONF (R90). -/
def execQueueReconf (s : State) : Host.Outcome State Fault Refusal :=
  queueCommand s (fun s q =>
    if s.fld .queue q Que.state = 0 then (2, s)
    else if !s.queueValid q || decide (s.fld .queue q Que.ctx ≠ s.qcfg q Que.ctx) then (3, s)
    else (0, { s with queueCfg := s.queueCfg.set q (s.rcd .queue q) }.kick))

/-- RSV_WRITE (R95, R96): every ready persistent kernel is tested again. -/
def execRsvWrite (s : State) : Host.Outcome State Fault Refusal :=
  match s.place with
  | .rsv v =>
    let s := s.setFld .cox 0 Cox.rsv v.toNat
    .next (s.kernels.foldl (fun s p => if p.2.state = .ready then s.judgeFit p.1 else s) s).kick
  | _ => .next s

/-- SYSTEM_RECORD_WRITE (R8, R9, R73): a byte written to the system range. -/
def execSystemRecordWrite (s : State) : Host.Outcome State Fault Refusal :=
  match s.place with
  | .byteWrite pa v => if inSys pa then .next (s.write pa [v]) else .next s
  | _ => .next s

end Sys2Proof.Machine
end

