-- ==== Sys2Proof/Machine/EvTree.lean ====
section
/-! DEFINITION. The events of token trees (R344, R349, R353). -/

namespace Sys2Proof.Machine

/-- A crew on a bay is still to be cancelled for a tree. -/
def State.dooms (s : State) (slot : Nat) : Bool := s.crews.any (fun p => decide (p.2.doomed = some slot) && decide (p.2.life ≠ .exited))

/-- TREE_NODES_FREE (R340, R344, R353): the cancellations of a tree's cuts are complete. -/
def execTreeNodesFree (s : State) : Host.Outcome State Fault Refusal :=
  atEntry s (fun slot => if s.fld .tree slot Tre.state = 0 ∨ s.dooms slot = true then s else s.freeNodes slot)

/-- An entry of the template table has the form of R349. -/
def templateOk (cls entry : Nat) : Bool := decide (cls < 64) && decide (slice 31 8 entry = 0)

/-- TEMPLATE_PUBLISH (R349): the firmware's choice for a sequence class, written whole as one stroke of the Slaeldy controller. -/
def execTemplatePublish (s : State) : Host.Outcome State Fault Refusal :=
  match s.place with
  | .template ctx cls entry =>
    let base := s.cfg ctx Ctx.tmplva
    if base = 0 ∨ templateOk cls entry.toNat = false then .next s
    else
      let va := sext56 (base * 2 ^ 12) + 8 * cls
      let t := s.makeWritable ctx va
      match t.ringSlot ctx va .write with
      | .ok pa =>
        -- as any stroke, it waits for a held one that has reserved the line's umpire (R224)
        if t.linesHeld [lineOf pa] then .next t
        else .next (({ t with order := t.order + 1 }.writeNum pa 8 entry.toNat).broadcast [lineOf pa] none)
      | .none => .next t
      | .bad cause => .next (t.ctxFault ctx cause)
  | _ => .next s

end Sys2Proof.Machine
end

