-- ==== Sys2Proof/Machine/ExecConv.lean ====
section
/-! DEFINITION. The meanings of the conversion and random-number instructions (R196 to R200). -/

namespace Sys2Proof.Machine

/-- 4 clk; 6 clk with a 64-bit source or destination (R184). -/
def cvtLat (dt st : Ty) : Nat := if dt.regs = 2 ∨ st.regs = 2 then 6 else 4

def execCvt (k : Ctl) (dt st : Ty) (r : Rnd) (sat : Bool) (d a : Reg) : State → Host.Outcome State Fault Refusal :=
  ordinary (.cvt k dt st r sat d a) (laneOp k dt.regs d (cvtLat dt st) (fun x l => Alu.cvt dt st r sat (x.val st.regs a l)))

def execPack (k : Ctl) (dt st : Ty) (r : Rnd) (sat : Bool) (d a b c : Reg) : State → Host.Outcome State Fault Refusal :=
  ordinary (.pack k dt st r sat d a b c) (laneOp k 1 d 4 (fun x l =>
    Alu.pack dt st r sat (x.v32 d l) (x.v32 a l) (x.v32 b l) (x.v32 c l)))

/-- An element index beyond the word in an acting lane is an operand fault on b (R198). -/
def execUnpack (k : Ctl) (dt st : Ty) (r : Rnd) (d a b : Reg) : State → Host.Outcome State Fault Refusal :=
  ordinary (.unpack k dt st r d a b) (fun s rid c =>
    match (c.acting k.pred).find? (fun l => decide (elems st ≤ c.v32 b l)) with
    | some l => .error (c.trapAt 0x018 2 0 l)
    | none => laneOp k dt.regs d (cvtLat dt st) (fun x l => Alu.unpack dt st r (x.v32 a l) (x.v32 b l)) s rid c)

def execMxscale (k : Ctl) (st : Ty) (d a b : Reg) : State → Host.Outcome State Fault Refusal :=
  ordinary (.mxscale k st d a b) (laneOp k 1 d 4 (fun x l => Alu.mxscale st (x.v32 a l) (x.v32 b l)))

/-- Counter in the group b, key in the pair a, output in the group d; 12 clk (R200). -/
def execRand (k : Ctl) (d a b : Reg) : State → Host.Outcome State Fault Refusal :=
  ordinary (.rand k d a b) (laneOp k 4 d 12 (fun x l =>
    let r (j : Nat) : Nat := (x.reg (b.toNat + j) l).toNat
    match Alu.philox ⟨r 0, r 1, r 2, r 3, (x.reg a.toNat l).toNat, (x.reg (a.toNat + 1) l).toNat⟩ with
    | [w, y, z, u] => w + y * 2 ^ 32 + z * 2 ^ 64 + u * 2 ^ 96
    | _ => 0))

end Sys2Proof.Machine
end

