-- ==== Sys2Proof/Machine/ExecCross.lean ====
section
/-! DEFINITION. The meanings of the cross-lane instructions (R179, R180). -/

namespace Sys2Proof.Machine

/-- The membership mask of a cross-lane instruction, from register m (R179): a membership fault where it is not uniform or has a bit
outside em. -/
def Crew.members (c : Crew) (m : Reg) : Except Stop (List Nat) :=
  let v := c.uval 1 m
  let x := BitVec.ofNat 32 v
  if c.uni 1 m && decide (x &&& ~~~c.em = 0#32) then .ok (lanesOf x) else .error (c.crewTrap 0x015 v)

/-- A result of n registers in each lane of the membership mask, written after lat clk; no effect with an empty em (R179). -/
def crossOp (n : Nat) (d m : Reg) (lat : Nat) (f : Crew → List Nat → Nat → Nat) : Body := fun s rid c =>
  let next := { c with pc := s.nextPc rid c }
  if c.em = 0#32 then .ok { crew := next }
  else
    match c.members m with
    | .error x => .error x
    | .ok ls => .ok { crew := next, cells := cellsIn ls n d (f c ls), lat := some lat }

/-- 4 clk; 6 clk with .n64 (R146). -/
def crossLat (t : Ty) : Nat := if t.regs = 2 then 6 else 4
/-- 8 clk; 12 clk with a 64-bit type (R146). -/
def scanLat (t : Ty) : Nat := if t.regs = 2 then 12 else 8

/-- The source lane of SHFL (R180). -/
def shflLane (op : ShflOp) (l k : Nat) : Int :=
  match op with
  | .idx => k
  | .up => (l : Int) - k
  | .down => l + k
  | .xor => (l ^^^ k : Nat)

def execShfl (k : Ctl) (op : ShflOp) (ty : Ty) (d a b c : Reg) : State → Host.Outcome State Fault Refusal :=
  ordinary (.shfl k op ty d a b c) (crossOp ty.regs d c (crossLat ty) (fun x m l =>
    let t := shflLane op l (x.v32 b l)
    if 0 ≤ t ∧ m.contains t.toNat = true then x.val ty.regs a t.toNat else x.val ty.regs a l))

def execBallot (k : Ctl) (d a b : Reg) : State → Host.Outcome State Fault Refusal :=
  ordinary (.ballot k d a b) (crossOp 1 d b 4 (fun x m _ => (maskOf (m.filter (fun j => decide (x.v32 a j ≠ 0)))).toNat))

/-- The verdict of VOTE over the lanes of the mask (R180). -/
def voteOf (op : VoteOp) (vs : List Nat) : Bool :=
  match op with
  | .all => vs.all (fun v => decide (v ≠ 0))
  | .any => vs.any (fun v => decide (v ≠ 0))
  | .uni => uniform vs

def execVote (k : Ctl) (op : VoteOp) (d a b : Reg) : State → Host.Outcome State Fault Refusal :=
  ordinary (.vote k op d a b) (crossOp 1 d b 4 (fun x m _ => (voteOf op (m.map (x.v32 a))).toNat))

/-- op over a list of values (R180). -/
def foldOp (op : RmwOp) (ty : Ty) : List Nat → Nat
  | [] => 0
  | v :: vs => vs.foldl (fun m x => Alu.rmw op ty m x 0) v

def execLred (k : Ctl) (op : RmwOp) (ty : Ty) (d a b : Reg) : State → Host.Outcome State Fault Refusal :=
  ordinary (.lred k op ty d a b) (crossOp ty.regs d b (scanLat ty) (fun x m _ => foldOp op ty (m.map (x.val ty.regs a))))

def execLscan (k : Ctl) (op : RmwOp) (ty : Ty) (d a b : Reg) : State → Host.Outcome State Fault Refusal :=
  ordinary (.lscan k op ty d a b) (crossOp ty.regs d b (scanLat ty) (fun x m l =>
    foldOp op ty ((m.filter (fun j => decide (j ≤ l))).map (x.val ty.regs a))))

/-- MATCH writes one register under every type (R180); its latency follows the type (R146). -/
def execLaneMatch (k : Ctl) (op : MatchOp) (ty : Ty) (d a b : Reg) : State → Host.Outcome State Fault Refusal :=
  ordinary (.laneMatch k op ty d a b) (crossOp 1 d b (crossLat ty) (fun x m l =>
    match op with
    | .any => (maskOf (m.filter (fun j => decide (x.val ty.regs a j = x.val ty.regs a l)))).toNat
    | .all => if uniform (m.map (x.val ty.regs a)) then (maskOf m).toNat else 0))

/-- The source lane must be uniform over the mask, below 32 and in the mask (R180). -/
def execBcast (k : Ctl) (ty : Ty) (d a b c : Reg) : State → Host.Outcome State Fault Refusal :=
  ordinary (.bcast k ty d a b c) (fun s rid x =>
    if x.em = 0#32 then crossOp ty.regs d c (crossLat ty) (fun _ _ _ => 0) s rid x
    else
      match x.members c with
      | .error e => .error e
      | .ok m =>
        let t := x.v32 b (m.headD 0)
        if m.isEmpty || (uniform (m.map (x.v32 b)) && m.contains t) then
          crossOp ty.regs d c (crossLat ty) (fun x _ _ => x.val ty.regs a t) s rid x
        else .error (x.crewTrap 0x015 (maskOf m).toNat))

def execElect (k : Ctl) (d a : Reg) : State → Host.Outcome State Fault Refusal :=
  ordinary (.elect k d a) (crossOp 1 d a 4 (fun _ m l => if m.head? = some l then 1 else 0))

end Sys2Proof.Machine
end

