-- ==== Sys2Proof/Machine/ExecFloat.lean ====
section
/-! DEFINITION. The meanings of the floating-point and dot-product instructions (R189 to R195). -/

namespace Sys2Proof.Machine

/-- Operations on a and operand b of one register each, an immediate b being the operand's bit pattern (R183); 4 clk (R184). -/
def fltAB (k : Ctl) (ty : Ty) (d a : Reg) (b : Src) (f : Nat → Nat → Nat) : Body :=
  laneOp k 1 d 4 (fun c l => f (c.v32 a l) (c.src ty true b l))

def execFadd (k : Ctl) (ty : Ty) (r : Rnd) (d a : Reg) (b : Src) : State → Host.Outcome State Fault Refusal :=
  ordinary (.fadd k ty r d a b) (fltAB k ty d a b (Alu.fadd ty r))

def execFsub (k : Ctl) (ty : Ty) (r : Rnd) (d a : Reg) (b : Src) : State → Host.Outcome State Fault Refusal :=
  ordinary (.fsub k ty r d a b) (fltAB k ty d a b (Alu.fsub ty r))

def execFmul (k : Ctl) (ty : Ty) (r : Rnd) (d a : Reg) (b : Src) : State → Host.Outcome State Fault Refusal :=
  ordinary (.fmul k ty r d a b) (fltAB k ty d a b (Alu.fmul ty r))

def execFma (k : Ctl) (ty : Ty) (r : Rnd) (d a b c : Reg) : State → Host.Outcome State Fault Refusal :=
  ordinary (.fma k ty r d a b c) (laneOp k 1 d 4 (fun x l => Alu.fma ty r (x.v32 a l) (x.v32 b l) (x.v32 c l)))

def execFmin (k : Ctl) (ty : Ty) (d a : Reg) (b : Src) : State → Host.Outcome State Fault Refusal :=
  ordinary (.fmin k ty d a b) (fltAB k ty d a b (Alu.fminmax ty false))

def execFmax (k : Ctl) (ty : Ty) (d a : Reg) (b : Src) : State → Host.Outcome State Fault Refusal :=
  ordinary (.fmax k ty d a b) (fltAB k ty d a b (Alu.fminmax ty true))

def execFcmp (k : Ctl) (ty : Ty) (cond : Cond) (d a : Reg) (b : Src) : State → Host.Outcome State Fault Refusal :=
  ordinary (.fcmp k ty cond d a b) (fltAB k ty d a b (Alu.fcmp ty cond))

def execFrnd (k : Ctl) (ty : Ty) (r : Rnd) (d a : Reg) : State → Host.Outcome State Fault Refusal :=
  ordinary (.frnd k ty r d a) (laneOp k 1 d 4 (fun x l => Alu.frnd ty r (x.v32 a l)))

def execFclass (k : Ctl) (ty : Ty) (d a : Reg) : State → Host.Outcome State Fault Refusal :=
  ordinary (.fclass k ty d a) (laneOp k 1 d 4 (fun x l => Alu.fclass ty (x.v32 a l)))

def execFscale (k : Ctl) (ty : Ty) (r : Rnd) (d a : Reg) (b : Src) : State → Host.Outcome State Fault Refusal :=
  ordinary (.fscale k ty r d a b) (fltAB k ty d a b (Alu.fscale ty r))

/-! The FP64 pipe of a side takes one of these in 4 clk (R184): fp64 holds the clk from which it takes another. -/

/-- A binary64 operation on pairs: 8 clk, and it takes the side's FP64 pipe (R184, R192). -/
def dblOp (k : Ctl) (n : Nat) (d : Reg) (f : Crew → Nat → Nat) : Body := fun s rid c =>
  (laneOp k n d 8 f s rid c).map (fun o => { o with fp64 := true })

def execDadd (k : Ctl) (r : Rnd) (d a b : Reg) : State → Host.Outcome State Fault Refusal :=
  ordinary (.dadd k r d a b) (dblOp k 2 d (fun x l => Alu.fadd .f64 r (x.v64 a l) (x.v64 b l)))

def execDmul (k : Ctl) (r : Rnd) (d a b : Reg) : State → Host.Outcome State Fault Refusal :=
  ordinary (.dmul k r d a b) (dblOp k 2 d (fun x l => Alu.fmul .f64 r (x.v64 a l) (x.v64 b l)))

def execDfma (k : Ctl) (r : Rnd) (d a b c : Reg) : State → Host.Outcome State Fault Refusal :=
  ordinary (.dfma k r d a b c) (dblOp k 2 d (fun x l => Alu.fma .f64 r (x.v64 a l) (x.v64 b l) (x.v64 c l)))

/-- DCMP writes one register (R192). -/
def execDcmp (k : Ctl) (cond : Cond) (d a b : Reg) : State → Host.Outcome State Fault Refusal :=
  ordinary (.dcmp k cond d a b) (dblOp k 1 d (fun x l => Alu.fcmp .f64 cond (x.v64 a l) (x.v64 b l)))

/-! ### Dot products (R193, R194): 6 clk (R184) -/

def execDotf4 (k : Ctl) (fmt : Ty) (sc : BitVec 2) (d a b c : Reg) : State → Host.Outcome State Fault Refusal :=
  ordinary (.dotf4 k fmt sc d a b c) (laneOp k 1 d 6 (fun x l =>
    Alu.dotScaled fmt sc.toNat (x.v32 a l) (x.v32 b l) (x.v32 c l) (x.v32 d l)))

def execDotf6 (k : Ctl) (fmt : Ty) (sc : BitVec 2) (d a b c : Reg) : State → Host.Outcome State Fault Refusal :=
  ordinary (.dotf6 k fmt sc d a b c) (laneOp k 1 d 6 (fun x l =>
    Alu.dotScaled fmt sc.toNat (x.v32 a l) (x.v32 b l) (x.v32 c l) (x.v32 d l)))

def execDotf8 (k : Ctl) (fmt : Ty) (sc : BitVec 2) (d a b c : Reg) : State → Host.Outcome State Fault Refusal :=
  ordinary (.dotf8 k fmt sc d a b c) (laneOp k 1 d 6 (fun x l =>
    Alu.dotScaled fmt sc.toNat (x.v32 a l) (x.v32 b l) (x.v32 c l) (x.v32 d l)))

def execDoth (k : Ctl) (fmt : Ty) (d a b c : Reg) : State → Host.Outcome State Fault Refusal :=
  ordinary (.doth k fmt d a b c) (laneOp k 1 d 6 (fun x l => Alu.doth fmt (x.v32 a l) (x.v32 b l) (x.v32 c l)))

def execDoti8 (k : Ctl) (fmt : Ty) (d a b c : Reg) : State → Host.Outcome State Fault Refusal :=
  ordinary (.doti8 k fmt d a b c) (laneOp k 1 d 6 (fun x l => Alu.doti fmt (x.v32 a l) (x.v32 b l) (x.v32 c l)))

def execDoti4 (k : Ctl) (fmt : Ty) (d a b c : Reg) : State → Host.Outcome State Fault Refusal :=
  ordinary (.doti4 k fmt d a b c) (laneOp k 1 d 6 (fun x l => Alu.doti fmt (x.v32 a l) (x.v32 b l) (x.v32 c l)))

end Sys2Proof.Machine
end

