-- ==== Sys2Proof/Machine/ExecFunc.lean ====
section
/-! DEFINITION. The meanings of the function-unit instructions and the row statistics (R201 to R211). -/

namespace Sys2Proof.Machine

/-- A function-unit instruction: outstanding on its side's unit until its groups are served (R201, R202). With no acting lane it has
no result. -/
def fuOp (k : Ctl) (i : Instr) (a : Reg) : Body := fun s rid c =>
  let ls := c.acting k.pred
  let j := fuJob i c.slot c.pc ls (fun l => c.reg a.toNat l) s.clock s.serial false
  .ok { crew := { c with pc := s.nextPc rid c }, cells := fuCells i j.a, lat := none, fu := if ls.isEmpty then none else some j }

def execFsint (k : Ctl) (d a : Reg) : State → Host.Outcome State Fault Refusal :=
  ordinary (.fsint k d a) (fuOp k (.fsint k d a) a)
def execFcost (k : Ctl) (d a : Reg) : State → Host.Outcome State Fault Refusal :=
  ordinary (.fcost k d a) (fuOp k (.fcost k d a) a)
def execFexp2 (k : Ctl) (d a : Reg) : State → Host.Outcome State Fault Refusal :=
  ordinary (.fexp2 k d a) (fuOp k (.fexp2 k d a) a)
def execFlog2 (k : Ctl) (d a : Reg) : State → Host.Outcome State Fault Refusal :=
  ordinary (.flog2 k d a) (fuOp k (.flog2 k d a) a)
def execFrcp (k : Ctl) (d a : Reg) : State → Host.Outcome State Fault Refusal :=
  ordinary (.frcp k d a) (fuOp k (.frcp k d a) a)
def execFrsq (k : Ctl) (d a : Reg) : State → Host.Outcome State Fault Refusal :=
  ordinary (.frsq k d a) (fuOp k (.frsq k d a) a)
def execFsqrt (k : Ctl) (d a : Reg) : State → Host.Outcome State Fault Refusal :=
  ordinary (.fsqrt k d a) (fuOp k (.fsqrt k d a) a)
def execFtanh (k : Ctl) (d a : Reg) : State → Host.Outcome State Fault Refusal :=
  ordinary (.ftanh k d a) (fuOp k (.ftanh k d a) a)

/-- A row result of n registers, the same in every active lane (R205). -/
def rowOp (n : Nat) (d a : Reg) (lat : Nat) (f : List (Nat × Nat) → Nat) : Body := fun s rid c =>
  let row := c.active.map (fun l => (l, c.v32 a l))
  let v := f row
  .ok { crew := { c with pc := s.nextPc rid c }, cells := cellsIn c.active n d (fun _ => v), lat := some lat }

def execRmax (k : Ctl) (ty : Ty) (d a : Reg) : State → Host.Outcome State Fault Refusal :=
  ordinary (.rmax k ty d a) (rowOp 1 d a 8 (Alu.rmax ty))

def execRsum (k : Ctl) (ty : Ty) (r : Rnd) (d a : Reg) : State → Host.Outcome State Fault Refusal :=
  ordinary (.rsum k ty r d a) (rowOp 1 d a 10 (Alu.rsum ty r))

/-- Mean in d, variance in d + 1 (R208). -/
def execRstat (k : Ctl) (d a : Reg) : State → Host.Outcome State Fault Refusal :=
  ordinary (.rstat k d a) (rowOp 2 d a 16 (fun row => let m := Alu.rstat row; m.1 + m.2 * 2 ^ 32))

/-- Variable-latency: its groups are served by the side's function unit; results and the row-empty flag are written together
(R209 to R211). -/
def execSmxup (k : Ctl) (d a : Reg) : State → Host.Outcome State Fault Refusal :=
  ordinary (.smxup k d a) (fun s rid c =>
    let ls := c.active
    let (res, empty) := softmax c.em (ls.map (fun l => (l, c.reg a.toNat l)))
    let j := fuJob (.smxup k d a) c.slot c.pc ls (fun l => c.reg a.toNat l) s.clock s.serial true
    .ok { crew := { c with pc := s.nextPc rid c }, cells := res.map (fun p => (32 * d.toNat + p.1, p.2)), lat := none,
          row := if ls.isEmpty then none else some empty, fu := if ls.isEmpty then none else some j })

end Sys2Proof.Machine
end

