-- ==== Sys2Proof/Machine/ExecTree.lean ====
section
/-! DEFINITION. The meanings of the tree instructions (R350 to R362). -/

namespace Sys2Proof.Machine

/-- The result cells of a tree instruction that acts once per crew: d in every active lane (R350). -/
def Crew.crewResult (c : Crew) (d : Reg) (v : Nat) : List (Nat × Word) := cellsIn c.active 1 d (fun _ => v)

/-- A tree instruction of a crew completes: the operation's state, its result and the next instruction. The operation may have cut the
node that the crew itself works for (R344). -/
def State.treeDone (s : State) (rid : Nat) (k : Ctl) (c : Crew) (cells : List (Nat × Word)) : State :=
  let doomed := match s.crews.get? rid with | some y => y.doomed | none => none
  s.finish rid k { c with pc := s.nextPc rid c, doomed := doomed } cells

/-- A tree instruction that acts once per crew on the tree named by operand a: its operation on the tree's slot, or the code that
refuses the handle. -/
def State.onTree (s : State) (rid : Nat) (k : Ctl) (c : Crew) (d a : Reg) (op : Nat → TreeOp) : Except Stop State :=
  match s.treeFor (c.ctx s) (c.uval 1 a) with
  | .error code => .ok (s.treeDone rid k c (c.crewResult d code))
  | .ok slot =>
    match op slot with
    | .error e => .error e
    | .ok (t, v) => .ok (t.treeDone rid k c (c.crewResult d v))

/-- The physical addresses of 64 bytes, each checked as a load (R257, R355). -/
def State.bytes64 (s : State) (rid : Nat) (c : Crew) (va : Nat) : Except Stop (List Nat) :=
  match checkLanes (fun i => s.checkAccess rid c ((va + i) % 2 ^ 64) 1 .read c.low) (List.range 64) with
  | .ok l => .ok (l.map (fun p => p.2.pa))
  | .error e => .error e

/-- TSHAPE (R355). -/
def execTshape (k : Ctl) (d a b : Reg) : State → Host.Outcome State Fault Refusal :=
  bounding (.tshape k d a b) (fun s rid c =>
    let v := c.uval 1 b
    let n := v / 2 ^ 8 % 2 ^ 7
    if c.em = 0#32 then .ok (s.treeDone rid k c [])
    else if !c.uni 2 a || !c.uni 1 b then .error c.diverges
    else if v / 2 ^ 15 ≠ 0 ∨ v / 2 ^ 5 % 2 ^ 3 ≠ 0 ∨ 64 < n then .error (c.operandFault 2)
    else
      match s.bytes64 rid c (c.uval 2 a) with
      | .error e => .error e
      | .ok pas =>
        let (t, code) := s.treeShape (c.ctx s) (v % 32) n (pas.map (fun pa => (s.byte pa).toNat))
        .ok (t.treeDone rid k c (c.crewResult d code)))

/-- TFORK (R356). -/
def execTfork (k : Ctl) (d a b c' : Reg) : State → Host.Outcome State Fault Refusal :=
  bounding (.tfork k d a b c') (fun s rid c =>
    let v := c.uval 1 b
    if c.em = 0#32 then .ok (s.treeDone rid k c [])
    else if !c.uni 1 a || !c.uni 1 b || !c.uni 2 c' then .error c.diverges
    else if v / 2 ^ 29 ≠ 0 ∨ v / 2 ^ 17 % 2 ^ 7 ≠ 0 ∨ (v.testBit 16 = true ∧ v % 2 ^ 16 ≠ 0) then .error (c.operandFault 2)
    else s.onTree rid k c d a (fun slot => s.treeFork (c.ctx s) slot v (c.uval 2 c') c.low))

/-- TPRUNE (R358). -/
def execTprune (k : Ctl) (d a b : Reg) : State → Host.Outcome State Fault Refusal :=
  bounding (.tprune k d a b) (fun s rid c =>
    if c.em = 0#32 then .ok (s.treeDone rid k c [])
    else if !c.uni 1 a || !c.uni 1 b then .error c.diverges
    else if 2 ^ 16 ≤ c.uval 1 b then .error (c.operandFault 2)
    else s.onTree rid k c d a (fun slot => s.treePrune (c.ctx s) slot (c.uval 1 b) c.low))

/-- TCOMMIT (R359). -/
def execTcommit (k : Ctl) (d a b : Reg) : State → Host.Outcome State Fault Refusal :=
  bounding (.tcommit k d a b) (fun s rid c =>
    if c.em = 0#32 then .ok (s.treeDone rid k c [])
    else if !c.uni 1 a || !c.uni 1 b then .error c.diverges
    else if 2 ^ 16 ≤ c.uval 1 b then .error (c.operandFault 2)
    else s.onTree rid k c d a (fun slot => s.treeCommit (c.ctx s) slot (c.uval 1 b) c.low))

/-- The lowest active lane in which an operand has reserved bits set raises an operand fault that names operand b (R171, R350). -/
def Crew.badLane (c : Crew) (bad : Nat → Bool) : Option Stop := (c.active.find? bad).map (fun l => c.trapAt 0x018 2 0 l)

/-- TMASK (R360): the words of the active lanes. -/
def execTmask (k : Ctl) (d a b : Reg) : State → Host.Outcome State Fault Refusal :=
  bounding (.tmask k d a b) (fun s rid c =>
    if c.em = 0#32 then .ok (s.treeDone rid k c [])
    else if !c.uni 1 a then .error c.diverges
    else
      match c.badLane (fun l => decide (2 ^ 19 ≤ c.v32 b l)), s.treeFor (c.ctx s) (c.uval 1 a) with
      | some e, _ => .error e
      | none, .error _ => .ok (s.treeDone rid k c (c.crewResult d 0))
      | none, .ok slot =>
        match s.treePage (c.ctx s) slot c.low .read with
        | .error e => .error e
        | .ok tp => .ok (s.treeDone rid k c (cellsIn c.active 1 d (fun l => maskWord (s.nodes tp) (c.v32 b l)))))

/-- TMASK.vfy (R360): drafted queries become verifying. -/
def execTmaskVfy (k : Ctl) (d a b : Reg) : State → Host.Outcome State Fault Refusal :=
  bounding (.tmaskVfy k d a b) (fun s rid c =>
    if c.em = 0#32 then .ok (s.treeDone rid k c [])
    else if !c.uni 1 a then .error c.diverges
    else
      match c.badLane (fun l => decide (2 ^ 19 ≤ c.v32 b l)), s.treeFor (c.ctx s) (c.uval 1 a) with
      | some e, _ => .error e
      | none, .error _ => .ok (s.treeDone rid k c (c.crewResult d 0))
      | none, .ok slot =>
        match s.treePage (c.ctx s) slot c.low .write with
        | .error e => .error e
        | .ok tp =>
          let ns := s.nodes tp
          let t := s.putNodes tp ns (c.active.foldl (fun ns l => verifyQuery ns (c.v32 b l)) ns)
          -- a verifying node is as live as a drafted one, so the words do not depend on the lanes' order
          .ok (t.treeDone rid k c (cellsIn c.active 1 d (fun l => maskWord ns (c.v32 b l)))))

/-- A tree of the caller's context that is live or freeing (R361). -/
def State.treeSeen (s : State) (ctx h : Nat) : Option Nat :=
  let slot := h % 2 ^ 16
  if (s.fld .tree slot Tre.state = 1 ∨ s.fld .tree slot Tre.state = 2) ∧ s.fld .tree slot Tre.gen = h / 2 ^ 16 ∧
      s.fld .tree slot Tre.ctx = ctx then some slot
  else none

/-- The record of a node that an nref names, zero when it is gone. -/
def nodeSeen (ns : List Nat) (b : Nat) : Nat :=
  match findNode ns (b % 2 ^ 16) with | some n => nodeOf ns n | none => 0

/-- What TINFO.lo and .hi write in each lane from the records of a tree. -/
def State.treeInfo (s : State) (rid : Nat) (k : Ctl) (c : Crew) (d a b : Reg) (part : Nat → Nat) : Except Stop State :=
  match c.badLane (fun l => decide (2 ^ 16 ≤ c.v32 b l)), s.treeSeen (c.ctx s) (c.uval 1 a) with
  | some e, _ => .error e
  | none, none => .ok (s.treeDone rid k c (cellsIn c.active 2 d (fun _ => 2 ^ 64 - 1)))
  | none, some slot =>
    match s.treePage (c.ctx s) slot c.low .read with
    | .error e => .error e
    | .ok tp => .ok (s.treeDone rid k c (cellsIn c.active 2 d (fun l => part (nodeSeen (s.nodes tp) (c.v32 b l)))))

/-- TINFO.lo (R361). -/
def execTinfoLo (k : Ctl) (d a b : Reg) : State → Host.Outcome State Fault Refusal :=
  bounding (.tinfoLo k d a b) (fun s rid c =>
    if c.em = 0#32 then .ok (s.treeDone rid k c [])
    else if !c.uni 1 a then .error c.diverges
    else s.treeInfo rid k c d a b (fun r => r % 2 ^ 64))

/-- TINFO.hi (R361). -/
def execTinfoHi (k : Ctl) (d a b : Reg) : State → Host.Outcome State Fault Refusal :=
  bounding (.tinfoHi k d a b) (fun s rid c =>
    if c.em = 0#32 then .ok (s.treeDone rid k c [])
    else if !c.uni 1 a then .error c.diverges
    else s.treeInfo rid k c d a b (fun r => r / 2 ^ 64))

/-- TINFO.tree (R361). -/
def execTinfoTree (k : Ctl) (d a b : Reg) : State → Host.Outcome State Fault Refusal :=
  bounding (.tinfoTree k d a b) (fun s rid c =>
    if c.em = 0#32 then .ok (s.treeDone rid k c [])
    else if !c.uni 1 a then .error c.diverges
    else
      match c.badLane (fun l => decide (c.v32 b l ≠ 0)), s.treeSeen (c.ctx s) (c.uval 1 a) with
      | some e, _ => .error e
      | none, none => .ok (s.treeDone rid k c (cellsIn c.active 2 d (fun _ => 2 ^ 64 - 1)))
      | none, some slot =>
        let f (x : Fld) : Nat := s.fld .tree slot x
        .ok (s.treeDone rid k c (cellsIn c.active 2 d (fun _ =>
          f Tre.tlen + 2 ^ 32 * (f Tre.nlive + 2 ^ 16 * f Tre.cls + 2 ^ 24 * f Tre.kvsl)))))

/-- TACC (R347, R348, R362): the lanes in ascending order. -/
def execTacc (k : Ctl) (d a b c' : Reg) : State → Host.Outcome State Fault Refusal :=
  bounding (.tacc k d a b c') (fun s rid c =>
    if c.em = 0#32 then .ok (s.treeDone rid k c [])
    else if !c.uni 1 a then .error c.diverges
    else
      match s.treeFor (c.ctx s) (c.uval 1 a) with
      | .error code => .ok (s.treeDone rid k c (c.crewResult d code))
      | .ok slot =>
        match s.treePage (c.ctx s) slot c.low .write with
        | .error e => .error e
        | .ok tp =>
          let ns := s.nodes tp
          let (t, ns', cells) := c.active.foldl (fun (r : State × List Nat × List (Nat × Word)) l =>
            let (t, ns, v) := r.1.judgeNode tp r.2.1 (c.v32 b l) (c.v32 c' l)
            (t, ns, r.2.2 ++ cellsAt 1 d.toNat l v)) (s, ns, [])
          .ok ((t.putNodes tp ns ns').treeDone rid k c cells))

/-- TAPPEND (R354). -/
def execTappend (k : Ctl) (d a b : Reg) : State → Host.Outcome State Fault Refusal :=
  bounding (.tappend k d a b) (fun s rid c =>
    if c.em = 0#32 then .ok (s.treeDone rid k c [])
    else if !c.uni 1 a || !c.uni 1 b then .error c.diverges
    else if c.uval 1 b = 0 ∨ 2 ^ 16 ≤ c.uval 1 b then .error (c.operandFault 2)
    else s.onTree rid k c d a (fun slot => s.treeAppend (c.ctx s) slot (c.uval 1 b) c.low))

/-- TNEW (R352). -/
def execTnew (k : Ctl) (d a : Reg) : State → Host.Outcome State Fault Refusal :=
  bounding (.tnew k d a) (fun s rid c =>
    if c.em = 0#32 then .ok (s.treeDone rid k c [])
    else if !c.uni 1 a then .error c.diverges
    else
      match s.treeNew (c.ctx s) (c.uval 1 a) c.low with
      | .error e => .error e
      | .ok (t, v) => .ok (t.treeDone rid k c (c.crewResult d v)))

/-- TFREE (R353). -/
def execTfree (k : Ctl) (d a : Reg) : State → Host.Outcome State Fault Refusal :=
  bounding (.tfree k d a) (fun s rid c =>
    if c.em = 0#32 then .ok (s.treeDone rid k c [])
    else if !c.uni 1 a then .error c.diverges
    else s.onTree rid k c d a (fun slot => s.treeFree (c.ctx s) slot c.low))

end Sys2Proof.Machine
end

