-- ==== Sys2Proof/Machine/Dispatch.lean ====
section
/-! DEFINITION. One arm for each instruction and event (R64, 95_what_each_step_holds.md). -/

namespace Sys2Proof.Machine

def exec (i : Instr) (s : State) : Host.Outcome State Fault Refusal :=
  match i with
  | .nop k => Sys2Proof.Machine.execNop k s
  | .bra k off => Sys2Proof.Machine.execBra k off s
  | .brx k a => Sys2Proof.Machine.execBrx k a s
  | .bdiv k a off => Sys2Proof.Machine.execBdiv k a off s
  | .join k => Sys2Proof.Machine.execJoin k s
  | .call k d off => Sys2Proof.Machine.execCall k d off s
  | .ret k a => Sys2Proof.Machine.execRet k a s
  | .exit k => Sys2Proof.Machine.execExit k s
  | .fjmp k a n => Sys2Proof.Machine.execFjmp k a n s
  | .cfetch k a b n => Sys2Proof.Machine.execCfetch k a b n s
  | .cinv k n => Sys2Proof.Machine.execCinv k n s
  | .trap k n => Sys2Proof.Machine.execTrap k n s
  | .rte k => Sys2Proof.Machine.execRte k s
  | .bkpt k n => Sys2Proof.Machine.execBkpt k n s
  | .yieldHint k => Sys2Proof.Machine.execYieldHint k s
  | .cut k => Sys2Proof.Machine.execCut k s
  | .emrd k d => Sys2Proof.Machine.execEmrd k d s
  | .emwr k a => Sys2Proof.Machine.execEmwr k a s
  | .allot k d a => Sys2Proof.Machine.execAllot k d a s
  | .sread k d sr => Sys2Proof.Machine.execSread k d sr s
  | .swrite k a => Sys2Proof.Machine.execSwrite k a s
  | .lget k d a b => Sys2Proof.Machine.execLget k d a b s
  | .lset k d a b => Sys2Proof.Machine.execLset k d a b s
  | .iadd k ty sat d a b => Sys2Proof.Machine.execIadd k ty sat d a b s
  | .isub k ty sat d a b => Sys2Proof.Machine.execIsub k ty sat d a b s
  | .iaddx k ty sat d a b c => Sys2Proof.Machine.execIaddx k ty sat d a b c s
  | .imul k ty d a b => Sys2Proof.Machine.execImul k ty d a b s
  | .imulh k ty d a b => Sys2Proof.Machine.execImulh k ty d a b s
  | .imad k ty d a b c => Sys2Proof.Machine.execImad k ty d a b c s
  | .iabs k ty sat d a => Sys2Proof.Machine.execIabs k ty sat d a s
  | .imin k ty d a b => Sys2Proof.Machine.execImin k ty d a b s
  | .imax k ty d a b => Sys2Proof.Machine.execImax k ty d a b s
  | .iclamp k ty d a b c => Sys2Proof.Machine.execIclamp k ty d a b c s
  | .icmp k ty cond d a b => Sys2Proof.Machine.execIcmp k ty cond d a b s
  | .isel k ty d a b c => Sys2Proof.Machine.execIsel k ty d a b c s
  | .csub k ty d a b => Sys2Proof.Machine.execCsub k ty d a b s
  | .lea k d a b n => Sys2Proof.Machine.execLea k d a b n s
  | .mov k ty d a => Sys2Proof.Machine.execMov k ty d a s
  | .movi k d v => Sys2Proof.Machine.execMovi k d v s
  | .shl k ty d a b => Sys2Proof.Machine.execShl k ty d a b s
  | .shr k ty d a b => Sys2Proof.Machine.execShr k ty d a b s
  | .sar k ty d a b => Sys2Proof.Machine.execSar k ty d a b s
  | .shf k ty d a b c => Sys2Proof.Machine.execShf k ty d a b c s
  | .and k ty d a b => Sys2Proof.Machine.execAnd k ty d a b s
  | .or k ty d a b => Sys2Proof.Machine.execOr k ty d a b s
  | .xor k ty d a b => Sys2Proof.Machine.execXor k ty d a b s
  | .andn k ty d a b => Sys2Proof.Machine.execAndn k ty d a b s
  | .bfx k ty d a b => Sys2Proof.Machine.execBfx k ty d a b s
  | .bfi k ty d a b c => Sys2Proof.Machine.execBfi k ty d a b c s
  | .popc k ty d a => Sys2Proof.Machine.execPopc k ty d a s
  | .clz k ty d a => Sys2Proof.Machine.execClz k ty d a s
  | .brev k ty d a => Sys2Proof.Machine.execBrev k ty d a s
  | .prmt k d a b c => Sys2Proof.Machine.execPrmt k d a b c s
  | .fadd k ty r d a b => Sys2Proof.Machine.execFadd k ty r d a b s
  | .fsub k ty r d a b => Sys2Proof.Machine.execFsub k ty r d a b s
  | .fmul k ty r d a b => Sys2Proof.Machine.execFmul k ty r d a b s
  | .fma k ty r d a b c => Sys2Proof.Machine.execFma k ty r d a b c s
  | .fmin k ty d a b => Sys2Proof.Machine.execFmin k ty d a b s
  | .fmax k ty d a b => Sys2Proof.Machine.execFmax k ty d a b s
  | .fcmp k ty cond d a b => Sys2Proof.Machine.execFcmp k ty cond d a b s
  | .frnd k ty r d a => Sys2Proof.Machine.execFrnd k ty r d a s
  | .fclass k ty d a => Sys2Proof.Machine.execFclass k ty d a s
  | .fscale k ty r d a b => Sys2Proof.Machine.execFscale k ty r d a b s
  | .dadd k r d a b => Sys2Proof.Machine.execDadd k r d a b s
  | .dmul k r d a b => Sys2Proof.Machine.execDmul k r d a b s
  | .dfma k r d a b c => Sys2Proof.Machine.execDfma k r d a b c s
  | .dcmp k cond d a b => Sys2Proof.Machine.execDcmp k cond d a b s
  | .dotf4 k fmt sel d a b c => Sys2Proof.Machine.execDotf4 k fmt sel d a b c s
  | .dotf6 k fmt sel d a b c => Sys2Proof.Machine.execDotf6 k fmt sel d a b c s
  | .dotf8 k fmt sel d a b c => Sys2Proof.Machine.execDotf8 k fmt sel d a b c s
  | .doth k fmt d a b c => Sys2Proof.Machine.execDoth k fmt d a b c s
  | .doti8 k fmt d a b c => Sys2Proof.Machine.execDoti8 k fmt d a b c s
  | .doti4 k fmt d a b c => Sys2Proof.Machine.execDoti4 k fmt d a b c s
  | .cvt k dt st r sat d a => Sys2Proof.Machine.execCvt k dt st r sat d a s
  | .pack k dt st r sat d a b c => Sys2Proof.Machine.execPack k dt st r sat d a b c s
  | .unpack k dt st r d a b => Sys2Proof.Machine.execUnpack k dt st r d a b s
  | .mxscale k st d a b => Sys2Proof.Machine.execMxscale k st d a b s
  | .rand k d a b => Sys2Proof.Machine.execRand k d a b s
  | .fsint k d a => Sys2Proof.Machine.execFsint k d a s
  | .fcost k d a => Sys2Proof.Machine.execFcost k d a s
  | .fexp2 k d a => Sys2Proof.Machine.execFexp2 k d a s
  | .flog2 k d a => Sys2Proof.Machine.execFlog2 k d a s
  | .frcp k d a => Sys2Proof.Machine.execFrcp k d a s
  | .frsq k d a => Sys2Proof.Machine.execFrsq k d a s
  | .fsqrt k d a => Sys2Proof.Machine.execFsqrt k d a s
  | .ftanh k d a => Sys2Proof.Machine.execFtanh k d a s
  | .rmax k ty d a => Sys2Proof.Machine.execRmax k ty d a s
  | .rsum k ty r d a => Sys2Proof.Machine.execRsum k ty r d a s
  | .rstat k d a => Sys2Proof.Machine.execRstat k d a s
  | .smxup k d a => Sys2Proof.Machine.execSmxup k d a s
  | .shfl k op ty d a b c => Sys2Proof.Machine.execShfl k op ty d a b c s
  | .ballot k d a b => Sys2Proof.Machine.execBallot k d a b s
  | .vote k op d a b => Sys2Proof.Machine.execVote k op d a b s
  | .lred k op ty d a b => Sys2Proof.Machine.execLred k op ty d a b s
  | .lscan k op ty d a b => Sys2Proof.Machine.execLscan k op ty d a b s
  | .laneMatch k op ty d a b => Sys2Proof.Machine.execLaneMatch k op ty d a b s
  | .bcast k ty d a b c => Sys2Proof.Machine.execBcast k ty d a b c s
  | .elect k d a => Sys2Proof.Machine.execElect k d a s
  | .ld k w sx h d a off => Sys2Proof.Machine.execLd k w sx h d a off s
  | .st k w h a b off => Sys2Proof.Machine.execSt k w h a b off s
  | .atom k op ty d a b c off => Sys2Proof.Machine.execAtom k op ty d a b c off s
  | .red k op ty a b off => Sys2Proof.Machine.execRed k op ty a b off s
  | .mwait k cond ty a b off => Sys2Proof.Machine.execMwait k cond ty a b off s
  | .pref k h a off => Sys2Proof.Machine.execPref k h a off s
  | .mfence k eng peer => Sys2Proof.Machine.execMfence k eng peer s
  | .mma k fmt reuse sel d a b c => Sys2Proof.Machine.execMma k fmt reuse sel d a b c s
  | .mbatch k d => Sys2Proof.Machine.execMbatch k d s
  | .sumdeclDecl k a b => Sys2Proof.Machine.execSumdeclDecl k a b s
  | .sumdeclFree k a => Sys2Proof.Machine.execSumdeclFree k a s
  | .sumdeclTl k a => Sys2Proof.Machine.execSumdeclTl k a s
  | .sumrd k op d a off => Sys2Proof.Machine.execSumrd k op d a off s
  | .sumrdClr k op d a off => Sys2Proof.Machine.execSumrdClr k op d a off s
  | .sumred k op a b off => Sys2Proof.Machine.execSumred k op a b off s
  | .sumz k a b => Sys2Proof.Machine.execSumz k a b s
  | .sumdrain k clr a b => Sys2Proof.Machine.execSumdrain k clr a b s
  | .sumq k d a => Sys2Proof.Machine.execSumq k d a s
  | .barinitPh k bent a b c => Sys2Proof.Machine.execBarinitPh k bent a b c s
  | .barinitTl k a b c => Sys2Proof.Machine.execBarinitTl k a b c s
  | .barinitEng k a b c => Sys2Proof.Machine.execBarinitEng k a b c s
  | .arrive k bent a b => Sys2Proof.Machine.execArrive k bent a b s
  | .expect k a b => Sys2Proof.Machine.execExpect k a b s
  | .wait k a b => Sys2Proof.Machine.execWait k a b s
  | .tladvMax k a b => Sys2Proof.Machine.execTladvMax k a b s
  | .tladvAdd k a b => Sys2Proof.Machine.execTladvAdd k a b s
  | .copy k a => Sys2Proof.Machine.execCopy k a s
  | .gather k a => Sys2Proof.Machine.execGather k a s
  | .scatter k a => Sys2Proof.Machine.execScatter k a s
  | .encode k a => Sys2Proof.Machine.execEncode k a s
  | .batch k d => Sys2Proof.Machine.execBatch k d s
  | .barq k w d a => Sys2Proof.Machine.execBarq k w d a s
  | .tshape k d a b => Sys2Proof.Machine.execTshape k d a b s
  | .tfork k d a b c => Sys2Proof.Machine.execTfork k d a b c s
  | .tprune k d a b => Sys2Proof.Machine.execTprune k d a b s
  | .tcommit k d a b => Sys2Proof.Machine.execTcommit k d a b s
  | .tmask k d a b => Sys2Proof.Machine.execTmask k d a b s
  | .tmaskVfy k d a b => Sys2Proof.Machine.execTmaskVfy k d a b s
  | .tinfoLo k d a b => Sys2Proof.Machine.execTinfoLo k d a b s
  | .tinfoHi k d a b => Sys2Proof.Machine.execTinfoHi k d a b s
  | .tinfoTree k d a b => Sys2Proof.Machine.execTinfoTree k d a b s
  | .tacc k d a b c => Sys2Proof.Machine.execTacc k d a b c s
  | .tappend k d a b => Sys2Proof.Machine.execTappend k d a b s
  | .tnew k d a => Sys2Proof.Machine.execTnew k d a s
  | .tfree k d a => Sys2Proof.Machine.execTfree k d a s
  | .pgpin k d a b => Sys2Proof.Machine.execPgpin k d a b s
  | .pgunpin k d a b => Sys2Proof.Machine.execPgunpin k d a b s
  | .pgcowMark k d a b => Sys2Proof.Machine.execPgcowMark k d a b s
  | .pgcowClear k d a b => Sys2Proof.Machine.execPgcowClear k d a b s
  | .pgqNext k d a => Sys2Proof.Machine.execPgqNext k d a s
  | .pgqDone k d a => Sys2Proof.Machine.execPgqDone k d a s
  | .pgqFail k d a => Sys2Proof.Machine.execPgqFail k d a s
  | .pgqInval k d a => Sys2Proof.Machine.execPgqInval k d a s
  | .smap k d a b => Sys2Proof.Machine.execSmap k d a b s
  | .sflushWb k a b => Sys2Proof.Machine.execSflushWb k a b s
  | .sflushInv k a b => Sys2Proof.Machine.execSflushInv k a b s
  | .xput k w a b => Sys2Proof.Machine.execXput k w a b s
  | .xget k w d a => Sys2Proof.Machine.execXget k w d a s
  | .xred k op ty a b sel => Sys2Proof.Machine.execXred k op ty a b sel s
  | .xsigArr k a b => Sys2Proof.Machine.execXsigArr k a b s
  | .xsigMax k a b => Sys2Proof.Machine.execXsigMax k a b s
  | .xfence k => Sys2Proof.Machine.execXfence k s
  | .xprobe k d a => Sys2Proof.Machine.execXprobe k d a s
  | .launch k d a => Sys2Proof.Machine.execLaunch k d a s
  | .qctlHold k d a => Sys2Proof.Machine.execQctlHold k d a s
  | .qctlRelease k d a => Sys2Proof.Machine.execQctlRelease k d a s
  | .qctlFlush k d a => Sys2Proof.Machine.execQctlFlush k d a s
  | .qctlClass k d a b => Sys2Proof.Machine.execQctlClass k d a b s
  | .qctlQuery k d a => Sys2Proof.Machine.execQctlQuery k d a s
  | .kstopStop k d a => Sys2Proof.Machine.execKstopStop k d a s
  | .kstopKill k d a => Sys2Proof.Machine.execKstopKill k d a s
  | .kstopResume k d a => Sys2Proof.Machine.execKstopResume k d a s
  | .kq k d a => Sys2Proof.Machine.execKq k d a s
  | .leave k d a => Sys2Proof.Machine.execLeave k d a s
  | .notify k a b => Sys2Proof.Machine.execNotify k a b s
  | .ckptCut k d a => Sys2Proof.Machine.execCkptCut k d a s
  | .ckptBack k d a => Sys2Proof.Machine.execCkptBack k d a s
  | .bpset k a b n => Sys2Proof.Machine.execBpset k a b n s
  | .bpclr k n => Sys2Proof.Machine.execBpclr k n s
  | .stamp k d a => Sys2Proof.Machine.execStamp k d a s
  | .trace k a b => Sys2Proof.Machine.execTrace k a b s
  | .moduleBoot => Sys2Proof.Machine.execModuleBoot s
  | .systemRecordWrite => Sys2Proof.Machine.execSystemRecordWrite s
  | .ctxCreate => Sys2Proof.Machine.execCtxCreate s
  | .ctxActivate => Sys2Proof.Machine.execCtxActivate s
  | .ctxSuspend => Sys2Proof.Machine.execCtxSuspend s
  | .suspensionComplete => Sys2Proof.Machine.execSuspensionComplete s
  | .ctxResume => Sys2Proof.Machine.execCtxResume s
  | .ctxDestroy => Sys2Proof.Machine.execCtxDestroy s
  | .ctxClear => Sys2Proof.Machine.execCtxClear s
  | .unknownCommand => Sys2Proof.Machine.execUnknownCommand s
  | .contextFault => Sys2Proof.Machine.execContextFault s
  | .queueOpen => Sys2Proof.Machine.execQueueOpen s
  | .queueHold => Sys2Proof.Machine.execQueueHold s
  | .queueRelease => Sys2Proof.Machine.execQueueRelease s
  | .queueFlush => Sys2Proof.Machine.execQueueFlush s
  | .queueClose => Sys2Proof.Machine.execQueueClose s
  | .queueReconf => Sys2Proof.Machine.execQueueReconf s
  | .rsvWrite => Sys2Proof.Machine.execRsvWrite s
  | .plofoAck => Sys2Proof.Machine.execPlofoAck s
  | .plofoWrite => Sys2Proof.Machine.execPlofoWrite s
  | .plofoRead => Sys2Proof.Machine.execPlofoRead s
  | .plofoLaunch => Sys2Proof.Machine.execPlofoLaunch s
  | .plofoSignalArrive => Sys2Proof.Machine.execPlofoSignalArrive s
  | .plofoSignalRaise => Sys2Proof.Machine.execPlofoSignalRaise s
  | .plofoQuery => Sys2Proof.Machine.execPlofoQuery s
  | .frameDrop => Sys2Proof.Machine.execFrameDrop s
  | .replayResendTimeout => Sys2Proof.Machine.execReplayResendTimeout s
  | .telemetry => Sys2Proof.Machine.execTelemetry s
  | .kernelDependenceMet => Sys2Proof.Machine.execKernelDependenceMet s
  | .candidateAged => Sys2Proof.Machine.execCandidateAged s
  | .coxChoose => Sys2Proof.Machine.execCoxChoose s
  | .admissionGrant => Sys2Proof.Machine.execAdmissionGrant s
  | .governorRequest => Sys2Proof.Machine.execGovernorRequest s
  | .coxPreempt => Sys2Proof.Machine.execCoxPreempt s
  | .kernelPlacing => Sys2Proof.Machine.execKernelPlacing s
  | .launchSegmentFetched => Sys2Proof.Machine.execLaunchSegmentFetched s
  | .crewPlace => Sys2Proof.Machine.execCrewPlace s
  | .crewResident => Sys2Proof.Machine.execCrewResident s
  | .pendingToActive => Sys2Proof.Machine.execPendingToActive s
  | .longStallSwap => Sys2Proof.Machine.execLongStallSwap s
  | .pendingAgeSwap => Sys2Proof.Machine.execPendingAgeSwap s
  | .swapComplete => Sys2Proof.Machine.execSwapComplete s
  | .issuePick => Sys2Proof.Machine.execIssuePick s
  | .urgencyUpdate => Sys2Proof.Machine.execUrgencyUpdate s
  | .resultWriteback => Sys2Proof.Machine.execResultWriteback s
  | .fuGroupServe => Sys2Proof.Machine.execFuGroupServe s
  | .fuResultWrite => Sys2Proof.Machine.execFuResultWrite s
  | .preciseTrapEntry => Sys2Proof.Machine.execPreciseTrapEntry s
  | .impreciseFault => Sys2Proof.Machine.execImpreciseFault s
  | .kernelStopMessage => Sys2Proof.Machine.execKernelStopMessage s
  | .crewSave => Sys2Proof.Machine.execCrewSave s
  | .stopCutComplete => Sys2Proof.Machine.execStopCutComplete s
  | .kernelRetire => Sys2Proof.Machine.execKernelRetire s
  | .crewExit => Sys2Proof.Machine.execCrewExit s
  | .strokeCommit => Sys2Proof.Machine.execStrokeCommit s
  | .localCommit => Sys2Proof.Machine.execLocalCommit s
  | .signatureSquash => Sys2Proof.Machine.execSignatureSquash s
  | .orderLogCheckpoint => Sys2Proof.Machine.execOrderLogCheckpoint s
  | .replayDigestCheck => Sys2Proof.Machine.execReplayDigestCheck s
  | .heldStrokeStart => Sys2Proof.Machine.execHeldStrokeStart s
  | .shadowSpaceGrant => Sys2Proof.Machine.execShadowSpaceGrant s
  | .shadowDeadlockSquash => Sys2Proof.Machine.execShadowDeadlockSquash s
  | .mwaitWake => Sys2Proof.Machine.execMwaitWake s
  | .waitTableRecheck => Sys2Proof.Machine.execWaitTableRecheck s
  | .tlbWalk => Sys2Proof.Machine.execTlbWalk s
  | .faultQueueJoin => Sys2Proof.Machine.execFaultQueueJoin s
  | .kvCopyOnWrite => Sys2Proof.Machine.execKvCopyOnWrite s
  | .checkpointCowCopy => Sys2Proof.Machine.execCheckpointCowCopy s
  | .kvCountFree => Sys2Proof.Machine.execKvCountFree s
  | .mmaAccept => Sys2Proof.Machine.execMmaAccept s
  | .mmaPipeFree => Sys2Proof.Machine.execMmaPipeFree s
  | .reductionApply => Sys2Proof.Machine.execReductionApply s
  | .matrixBatchRaise => Sys2Proof.Machine.execMatrixBatchRaise s
  | .linePoisoned => Sys2Proof.Machine.execLinePoisoned s
  | .leaveWindow => Sys2Proof.Machine.execLeaveWindow s
  | .leaveRaiseAnswer => Sys2Proof.Machine.execLeaveRaiseAnswer s
  | .leaveGrantArrive => Sys2Proof.Machine.execLeaveGrantArrive s
  | .allotGrant => Sys2Proof.Machine.execAllotGrant s
  | .allotDeadlockFail => Sys2Proof.Machine.execAllotDeadlockFail s
  | .engineUnitLand => Sys2Proof.Machine.execEngineUnitLand s
  | .engineCommandComplete => Sys2Proof.Machine.execEngineCommandComplete s
  | .engineBatchRaise => Sys2Proof.Machine.execEngineBatchRaise s
  | .cfetchComplete => Sys2Proof.Machine.execCfetchComplete s
  | .encodeStart => Sys2Proof.Machine.execEncodeStart s
  | .encodeDone => Sys2Proof.Machine.execEncodeDone s
  | .crewCancel => Sys2Proof.Machine.execCrewCancel s
  | .treeNodesFree => Sys2Proof.Machine.execTreeNodesFree s
  | .templatePublish => Sys2Proof.Machine.execTemplatePublish s
  | .peerAccessPerform => Sys2Proof.Machine.execPeerAccessPerform s
  | .xredCellApply => Sys2Proof.Machine.execXredCellApply s
  | .peerAck => Sys2Proof.Machine.execPeerAck s
  | .portEnSet => Sys2Proof.Machine.execPortEnSet s
  | .portEnClear => Sys2Proof.Machine.execPortEnClear s
  | .portTrained => Sys2Proof.Machine.execPortTrained s
  | .portTrainingTimeout => Sys2Proof.Machine.execPortTrainingTimeout s
  | .heartbeatArrive => Sys2Proof.Machine.execHeartbeatArrive s
  | .heartbeatSend => Sys2Proof.Machine.execHeartbeatSend s
  | .heartbeatPeriodMissed => Sys2Proof.Machine.execHeartbeatPeriodMissed s
  | .portRetryLimit => Sys2Proof.Machine.execPortRetryLimit s
  | .portSignalSeen => Sys2Proof.Machine.execPortSignalSeen s
  | .plimitWrite => Sys2Proof.Machine.execPlimitWrite s
  | .thermalTripSet => Sys2Proof.Machine.execThermalTripSet s
  | .thermalTripClear => Sys2Proof.Machine.execThermalTripClear s
  | .hbmPatrolScrub => Sys2Proof.Machine.execHbmPatrolScrub s
  | .sramScrub => Sys2Proof.Machine.execSramScrub s
  | .stampRecordWrite => Sys2Proof.Machine.execStampRecordWrite s
  | .pcSample => Sys2Proof.Machine.execPcSample s
  | .moduleReset => Sys2Proof.Machine.execModuleReset s
  | .corruptedFlit => Sys2Proof.Machine.execCorruptedFlit s

end Sys2Proof.Machine
end

