-- ==== Sys2Proof/Machine/Sched.lean ====
section
/-! DEFINITION. What comes next when the agenda is empty (log 4). What the manual ties to a clk happens in that clk, in the order of
State.due. Whatever else may happen, an input from outside the module among it, does so at a time of free choice, or a clk passes. -/

namespace Sys2Proof.Machine

/-- An event at its place. -/
abbrev Happening := Place × Instr

/-! ### What is due in a clk -/

/-- A result of a crew that is to be written in this clk (R146, R148, R202, R211). -/
def Crew.dueResult (c : Crew) (clk rid : Nat) : Option Happening :=
  (c.pends.zip (List.range c.pends.length)).findSome? (fun q =>
    match q.1.due, q.1.fu with
    | some t, none => if t ≤ clk then some (.result rid q.2 0xFFFF_FFFF#32, .resultWriteback) else none
    | some t, some f => if f.groups.isEmpty && decide (t ≤ clk) then some (.result rid q.2 0xFFFF_FFFF#32, .fuResultWrite) else none
    | none, _ => none)

/-- The local commit of a crew that falls into this clk (R223). -/
def State.dueLocal (s : State) (rid : Nat) (c : Crew) : Option Happening :=
  match c.closing with
  | some st =>
    if s.isLocal c st && (match st.closed with | some t => decide (t < s.clock) | none => false) then some (.crew rid, .localCommit) else none
  | none => none

/-- The re-check of a crew that the wait table had no room for, where it finds the condition true (R241). -/
def State.dueRecheck (s : State) (rid : Nat) (c : Crew) : Option Happening :=
  match c.wait with
  | .mwait pa ty cond x (.recheck since) =>
    if since < s.clock ∧ (s.clock - since) % 2048 = 0 ∧ mwaitHolds ty cond (s.num pa (tyBytes ty)) x = true then
      some (.crew rid, .waitTableRecheck)
    else none
  | _ => none

/-- The 100 clk of a LEAVE have passed (R133). -/
def State.dueAsker (s : State) (rid : Nat) (c : Crew) : Option Happening :=
  match c.wait with
  | .leaveAsk _ _ u => if u < s.clock then some (.kernelBay c.kernel (ridBay rid), .leaveGrantArrive) else none
  | _ => none

/-- What is due of a crew. -/
def State.dueCrew (s : State) (rid : Nat) (c : Crew) : Option Happening :=
  (c.dueResult s.clock rid).or ((s.dueLocal rid c).or ((s.dueRecheck rid c).or ((s.dueAsker rid c).or
    (if s.canExit c then some (.crew rid, .crewExit) else none))))

/-- A PC sample that is due on a side (R400). -/
def State.dueSample (s : State) (b d : Nat) : Option Happening :=
  (s.crewsAt b d).findSome? (fun p =>
    let ctx := p.2.ctx s
    if s.sampleDue b d ctx && (s.sampleSlot b d ctx).isSome then some (.sample b d ctx, .pcSample) else none)

/-- The swap that begins on a side (R144, R145). -/
def State.dueSwap (s : State) (b d : Nat) : Option Instr :=
  match (s.side b d).swap, s.readiest b d with
  | none, some (_, c) =>
    if (s.stalledLongest b d).isSome then some .longStallSwap
    else if (s.leastUrgent b d).isSome && (match c.ready with | some t => decide (t + 256 ≤ s.clock) | none => false) then
      some .pendingAgeSwap
    else none
  | _, _ => none

/-- What is due on a side but for the pick and the sample. -/
def State.dueSide (s : State) (b d : Nat) : Option Happening :=
  let x := s.side b d
  if decide (x.fuServed ≤ s.clock) && (s.fuPickSlot b d).isSome then some (.side b d, .fuGroupServe)
  else if (match x.swap with | some w => decide (w.until_ ≤ s.clock) | none => false) then some (.side b d, .swapComplete)
  else if x.openPos.isSome && (s.readiest b d).isSome then some (.side b d, .pendingToActive)
  else match s.dueSwap b d with
    | some i => some (.side b d, i)
    | none => none

/-- What is due on a bay: the end of the pipe's occupancy (R16), a new window of its leave unit (R113), its sides. -/
def State.dueBay (s : State) (b : Nat) (y : Bay) : Option Happening :=
  if y.pipeFree ≠ 0 ∧ y.pipeFree ≤ s.clock then some (.bay b, .mmaPipeFree)
  else if s.clock % 1500 = 0 ∧ y.kerns.any (fun p => decide (p.2.window ≠ windowOf s.clock)) = true then some (.bay b, .leaveWindow)
  else (s.dueSide b 0).or (s.dueSide b 1)

/-- The sides of a bay, first the one whose MMA the pipe takes before the other's (R16). -/
def State.sideOrder (s : State) (b : Nat) : List Nat :=
  match (s.bay b).pipeSide with | some p => [1 - p, p] | none => [0, 1]

/-- An MMA that a stop has left of an active crew of a side, which the pipe can take (log 63). -/
def State.dueLeft (s : State) (b d : Nat) : Option Happening :=
  if s.pipeTakes b d then
    (s.actives b d).findSome? (fun p =>
      if s.couldRest (sideRid b d p.2.1) p.2.2 then some (.crew (sideRid b d p.2.1), .mmaAccept) else none)
  else none

/-- A side issues an MMA that was left, or picks a crew in this clk (R143). -/
def State.duePick (s : State) (b : Nat) : Option Happening :=
  (s.sideOrder b).findSome? (fun d => (s.dueLeft b d).or
    (if (s.side b d).picked ≤ s.clock ∧ (s.pick b d).isSome = true then some (.side b d, .issuePick) else none))

/-- What is due of a kernel: its candidacy ages (R93), its urgency (R114), the end of its stop (R110), its end (R111). -/
def State.dueKernel (s : State) (k : Nat) (y : Kernel) : Option Happening :=
  if !y.aged && (match y.candidate with | some t => decide (t + 50000 ≤ s.time) | none => false) then some (.kernel k, .candidateAged)
  else if s.clock % 1500 = 0 ∧ y.urg ≠ s.urgencyOf k ∧ y.state ≠ .retired then some (.kernel k, .urgencyUpdate)
  else if s.cutDone k then some (.kernel k, .stopCutComplete)
  else if (s.retireCause k).isSome then some (.kernel k, .kernelRetire)
  else none

/-- What is due of the ports and members (R367, R368). -/
def State.dueLink (s : State) : Option Happening :=
  if s.clock < beatPeriod then none
  else
    ((List.range 64).findSome? (fun p =>
      if s.trainingLate p then some (.port p, .portTrainingTimeout)
      else if s.beatDue p then some (.port p, .heartbeatSend)
      else if s.portMisses p then some (.port p, .heartbeatPeriodMissed)
      else none)).or
    ((List.range 768).findSome? (fun m => (List.range 64).findSome? (fun p =>
      if s.memberMisses m p then some (.beat p m, .heartbeatPeriodMissed) else none)))

/-- What is due of the host link (R105, R430). -/
def State.dueHost (s : State) : Option Happening :=
  if s.telemetryDue then some (.none, .telemetry)
  else if s.host.window.isEmpty = false ∧ resendClk ≤ s.clock - s.host.lastAdvance then some (.none, .replayResendTimeout)
  else none

/-- The first event that is due in this clk; the samples come last, when its issues are known (R400). -/
def State.due (s : State) : Option Happening :=
  (s.crews.findSome? (fun p => s.dueCrew p.1 p.2)).or
    ((s.bays.findSome? (fun p => s.dueBay p.1 p.2)).or
    ((s.kernels.findSome? (fun p => s.dueKernel p.1 p.2)).or
    ((s.suspending.findSome? (fun p => if s.ctxQuiet p.1 p.2 then some (.ctx p.1, .suspensionComplete) else none)).or
    ((s.ctxCfg.findSome? (fun p => if s.checkpointAt p.1 then some (.ctx p.1, .replayDigestCheck) else none)).or
    (s.dueHost.or
    (s.dueLink.or
    ((s.bays.findSome? (fun p => s.duePick p.1)).or
    (s.bays.findSome? (fun p => (s.dueSample p.1 0).or (s.dueSample p.1 1))))))))))

/-! ### What may happen -/

/-- A number of free choice with n bits, by a salt. -/
def State.freeBits (s : State) (salt n : Nat) : Nat := s.choice (2 ^ 40 * salt) % 2 ^ n

/-- Bytes of free choice. -/
def State.freeBytes (s : State) (salt n : Nat) : List Byte := (List.range n).map (fun i => BitVec.ofNat 8 (s.choice (2 ^ 40 * salt + 1 + i)))

/-- A condition turned into an option. -/
def may (b : Bool) (p : Place) (i : Instr) : List Happening := if b then [(p, i)] else []

/-- What may happen to a crew: a result that has no fixed latency in some lanes, a commit, a held stroke, a cancellation, residence, a save,
a wake. -/
def State.mayCrew (s : State) (rid : Nat) (c : Crew) : List Happening :=
  ((c.pends.zip (List.range c.pends.length)).flatMap (fun q =>
    may (q.1.due.isNone && q.1.fu.isNone) (.result rid q.2 (BitVec.ofNat 32 (s.choice (2 + q.2)))) .resultWriteback)) ++
  may (match c.closing with | some st => !s.isLocal c st | none => false) (.crew rid) .strokeCommit ++
  may (decide (c.wait = .held) && c.strokes.isEmpty && c.heldSet.isSome && !c.heldReady) (.crew rid) .heldStrokeStart ++
  may (c.doomed.isSome && decide (c.life ≠ .exited) && !c.cancelled) (.crew rid) .crewCancel ++
  may (s.residable rid c) (.crew rid) .crewResident ++
  (if decide ((s.kern c.kernel).state = .stopping) && (s.kern c.kernel).ending.isNone && s.drained c then
    ((List.range (s.lch c.kernel Lch.nsave)).filter (s.saveFree c.kernel)).map (fun n => ((.save rid n : Place), Instr.crewSave))
   else []) ++
  may (match c.wait with
    | .mwait pa ty cond x .monitor => mwaitHolds ty cond (s.num pa (tyBytes ty)) x
    | .mwait pa ty cond x .entry => mwaitHolds ty cond (s.num pa (tyBytes ty)) x
    | _ => false) (.crew rid) .mwaitWake

/-- What may happen on a bay: shadow space, the end of a fetch, a grow. -/
def State.mayBay (s : State) (b : Nat) (y : Bay) : List Happening :=
  may ((s.shadowFirst b).isSome && decide (s.shadowFree b ≠ 0)) (.bay b) .shadowSpaceGrant ++
  may (s.shadowDead b).isSome (.bay b) .shadowDeadlockSquash ++
  y.kerns.flatMap (fun p => may (!(s.coxFills b p.1).isEmpty) (.kernelBay p.1 b) .launchSegmentFetched) ++
  [0, 1].flatMap (fun d =>
    may (s.growFits b d) (.side b d) .allotGrant ++ may (s.growDead b d && !s.growFits b d) (.side b d) .allotDeadlockFail)

/-- What may happen to a kernel: the placing of its next crew. -/
def State.mayKernel (s : State) (k : Nat) : List Happening :=
  if !s.places k || (s.nextCrewOf k).isNone then []
  else if s.lch k Lch.persistent = 1 then [(.kernel k, .crewPlace)]
  else
    -- without leave to pay for, a kernel's later crews may go to any bay on which something frees
    (if s.lch k Lch.intensity = 0 ∧ (s.ridsOf k).isEmpty = false then
      [((.kernelSide k (s.choice (2 ^ 40 * 47) % Config.bays) (s.freeBits 48 1) : Place), Instr.crewPlace)] else []) ++
    (s.planSides k).map (fun q => (.kernelSide k q.1 q.2, Instr.crewPlace))

/-- What may come of the governors: a request judged, an answer arriving (R112, R113, R133, R426). -/
def State.mayGov (s : State) : List Happening :=
  s.gov.map (fun r => (.die r.die, Instr.governorRequest)) ++
  s.answers.map (fun a =>
    match a.1.what with
    | .admission k _ _ => (.kernel k, .admissionGrant)
    | .raise b k _ => (.kernelBay k b, .leaveRaiseAnswer)
    | .leave b k _ _ _ => (.kernelBay k b, .leaveGrantArrive))

/-- What may come of an engine command. -/
def State.mayCmd (s : State) (m : Cmd) : List Happening :=
  let goes := !m.aborted && (decide (m.stage = .running) || (decide (m.stage = .waiting) && s.mayStart m)) && s.served m
  match m.kind with
  | .copy => may (goes && !s.peers.any (fun p => decide (p.cmd = some m.id))) (.entry m.id) .engineUnitLand
  | .gather => may goes (.entry m.id) .engineUnitLand
  | .scatter => may goes (.entry m.id) .engineUnitLand
  | .cfetch _ _ => may goes (.entry m.id) .cfetchComplete
  | .encode => may (goes && m.status.isNone) (.entry m.id) .encodeStart ++ may (goes && m.status.isSome) (.entry m.id) .encodeDone

/-- A tree has pruned nodes, or is being freed. -/
def State.hasPruned (s : State) (slot : Nat) : Bool :=
  decide (s.fld .tree slot Tre.state = 2) ||
    (match s.treePage (s.fld .tree slot Tre.ctx) slot 0 .read with
     | .ok tp => let ns := s.nodes tp; (List.range 256).any (fun n => decide (Nod.state.get (nodeOf ns n) = 6))
     | .error _ => false)

/-- What may come of pages and trees: freed pages and nodes. -/
def State.mayFree (s : State) : List Happening :=
  (List.range s.kvFree.length).flatMap (fun i =>
    may (match s.kvFree[i]? with | some p => s.pageQuiet p.2 | none => false) (.entry i) .kvCountFree) ++
  (s.listed .tree).flatMap (fun t => may (decide (s.fld .tree t Tre.state ≠ 0) && !s.dooms t && s.hasPruned t) (.entry t) .treeNodesFree)

/-- Reductions that may be applied: the first ones of a number of free choice. -/
def State.mayRed (s : State) : List Happening :=
  let n := s.reds.length
  let i := s.choice 1 % (n + 1)
  may (s.mayApply i) (.entry i) .reductionApply ++
    (match (List.range n).find? s.mayApply with | some j => [(.entry j, .reductionApply)] | none => [])

/-- A packet that this module has sent to itself has been performed; one to another member, acknowledged. -/
def State.performed (s : State) (id : Nat) : Bool :=
  s.peers.all (fun p => decide (p.id ≠ id) || p.answer.isSome) || s.replies.any (fun r => decide (r.1 = s.selfId) && decide (r.2.1 = id))

/-- Nothing stands before a packet: the accesses of its marker, and earlier ones of its crew to the same module (R242, R372). -/
def State.packetFirst (s : State) (p : PeerOut) : Bool :=
  p.after.all s.performed &&
    s.peers.all (fun q => !(q.pkt.sameCrew p.pkt && decide (q.pkt.dst = p.pkt.dst) && decide (q.id < p.id)) || s.performed q.id)

/-- The answer of another module: free. -/
def State.freeStatus (s : State) (p : Pkt) : PeerStatus :=
  match s.choice (2 ^ 40) % 4 with
  | 0 => .done ((p.ops.zip (List.range p.ops.length)).filterMap (fun q =>
      match q.1 with | .get _ w => some (ofBytes (s.freeBytes (2 + q.2) w)) | _ => none))
  | 1 => .refused (1 + s.choice (2 ^ 40 + 1) % 3)
  | 2 => .epoch
  | _ => .barrierMode (s.choice (2 ^ 40 + 1) % 4)

/-- What may come of the packets of this module: those to itself are performed, answers arrive over a port that is up (R374), paused ones
go on. A write to a KV page of a crew that is to be cancelled is not performed any more: the cancellation drops it (R344). -/
def State.mayPeer (s : State) : List Happening :=
  s.peers.flatMap (fun p =>
    if p.answer.isSome then []
    else if p.pkt.dst = s.selfId then
      match s.replies.find? (fun r => decide (r.1 = s.selfId) && decide (r.2.1 = p.id)) with
      | some r => [(.ack p.id r.2.2, .peerAck)]
      | none => may (s.packetFirst p && s.peersIn.all (fun x => !(x.pkt.sameCrew p.pkt && decide (x.pkt.id = p.pkt.id))) &&
        !(s.doomedCrew p.k p.crew && s.writesKv p.pkt)) (.packet p.pkt) .peerAccessPerform
    else may (s.packetFirst p && s.linkUp) (.ack p.id (s.freeStatus p.pkt)) .peerAck) ++
  s.peersIn.flatMap (fun x =>
    may (x.fault.isNone && s.peersIn.all (fun y => !(y.pkt.sameCrew x.pkt && decide (y.pkt.id < x.pkt.id)))) (.packet x.pkt) .peerAccessPerform)

/-! ### What comes from outside -/

/-- A frame of free content with a message, most often one that the host sends to this module (R102). -/
def State.freeFrame (s : State) (m : HostMsg) : EthFrame :=
  if s.freeBits 40 1 = 0 then ⟨s.mac, s.hostMac, s.freeBits 41 1 = 1, 0x88B5, true, m⟩
  else ⟨s.freeBits 42 48, s.freeBits 43 48, s.freeBits 41 1 = 1, s.freeBits 44 16, s.freeBits 45 1 = 1, m⟩

/-- What a frame does: its message is judged, or it is dropped. -/
def State.arrival (s : State) (f : EthFrame) : Happening := if s.accepts f then (.host f.msg, f.msg.event) else (.frame f, .frameDrop)

/-- A host message of free content (R102, R103). -/
def State.freeMsg (s : State) : HostMsg :=
  let n := s.choice 3 % 1042
  ⟨s.freeBits 11 8, s.freeBits 12 8, (if s.freeBits 13 1 = 0 then n else s.freeBits 14 16), s.freeBits 15 16, s.freeBits 16 16, s.freeBits 17 64,
    s.freeBits 18 64, s.freeBits 19 16, s.freeBytes 20 n⟩

/-- An access of free content, by a salt. -/
def State.freeOp (s : State) (salt : Nat) : PeerOp :=
  let off := s.freeBits (8 * salt) 45
  let v := BitVec.ofNat 64 (s.choice (2 ^ 40 * (8 * salt + 1)))
  let w := 2 ^ (s.freeBits (8 * salt + 2) 3 % 5)
  let ty : Ty := [Ty.n32, .i32, .n64, .i64, .f32, .f64, .bf16, .f16].getD (s.freeBits (8 * salt + 3) 3) .n32
  let rmw : RmwOp := [RmwOp.add, .min, .max, .and, .or, .xor].getD (s.freeBits (8 * salt + 4) 3) .add
  match s.choice (2 ^ 40 * (8 * salt + 5)) % 7 with
  | 0 => .put off w (ofBytes (s.freeBytes (8 * salt + 6) w))
  | 1 => .get off w
  | 2 => .red rmw ty off v
  | 3 => .cell ty ((s.freeBits (8 * salt + 7) 16 : Int) - 2 ^ 15) off v
  | 4 => .marker off
  | 5 => .arrive off v.toNat
  | _ => .raise off v.toNat

/-- A packet of another member, of free content. -/
def State.freePacket (s : State) : Pkt :=
  ⟨s.freeBits 21 10, s.selfId, s.freeBits 22 32, s.freeBits 23 10, s.freeBits 24 32, s.freeBits 25 24, s.freeBits 26 64,
    (List.range (1 + s.freeBits 27 5)).map (fun i => s.freeOp (4 + i))⟩

/-- What may come from outside: frames, packets, the ports' far ends, temperatures, errors of the memory, choices of
the firmware, and reset (R102, R349, R366, R370, R427 to R429). -/
def State.inputs (s : State) : List Happening :=
  let p := s.freeBits 30 6
  let d := s.freeBits 31 1
  let l := s.freeBits 32 32
  let f : ScrubFinding := match s.choice (2 ^ 40 * 33) % 3 with | 0 => .clean | 1 => .corrected | _ => .uncorrectable
  let m := s.freeMsg
  [(.none, .moduleReset), s.arrival (s.freeFrame m),
   (.trained p (BitVec.ofNat 10 (s.choice (2 ^ 40 * 34))), .portTrained), (.port p, .portSignalSeen), (.flit p (decide (s.freeBits 46 1 = 1)), .corruptedFlit),
   (.beat p (s.freeBits 35 10), .heartbeatArrive),
   (.thermal d (s.freeBits 36 12), .thermalTripSet), (.thermal d (s.freeBits 36 12), .thermalTripClear),
   (.scrub l f, .hbmPatrolScrub), (.scrub l f, .sramScrub), (.sram f, .sramScrub), (.line l, .linePoisoned),
   (.template (s.freeBits 37 10) (s.freeBits 38 6) (BitVec.ofNat 64 (s.choice (2 ^ 40 * 39))), .templatePublish)] ++
  may (decide ((s.freePacket).src ≠ s.selfId) && s.linkUp && s.peerNext s.freePacket) (.packet s.freePacket) .peerAccessPerform

/-- Everything that may happen now. -/
def State.options (s : State) : List Happening :=
  s.crews.flatMap (fun p => s.mayCrew p.1 p.2) ++ s.bays.flatMap (fun p => s.mayBay p.1 p.2) ++
  s.kernels.flatMap (fun p => s.mayKernel p.1) ++ s.mayGov ++ s.cmds.flatMap s.mayCmd ++ s.mayFree ++ s.mayRed ++ s.mayPeer ++
  (match s.host.inbox with | m :: _ => [(.host m, m.event)] | [] => []) ++ s.inputs

/-! ### The plan -/

/-- 1 ms in clk (R13). -/
def msClk : Nat := 1500000

/-- One clk passes (R13), for the crews and the sensors too (R429). -/
def State.tick (s : State) : State :=
  let s := { s with clock := s.clock + 1, fresh := s.fresh + 1 }
  let s := if s.clock % msClk = 0 then s.sense else s
  { s with crews := s.crews.map (fun (p : Nat × Crew) => (p.1, s.crewTick p.1 p.2)) }

/-- An event comes next. -/
def State.next (s : State) (h : Happening) : State := { s with fresh := s.fresh + 1, agenda := [.event h.1 h.2] }

/-- What comes next: before the boot, its outcome; then what is due, or what is chosen of that which may happen, or the next clk. -/
def State.plan (s : State) : State :=
  match s.power with
  | .reset => s.next (.boot (decide (s.choice 0 % 2 = 0)), .moduleBoot)
  | .failed => if s.choice 0 % 2 = 0 then s.next (.none, .moduleReset) else s.tick
  | .up =>
    match s.due with
    | some h => s.next h
    | none =>
      let l := s.options
      match l[s.choice 0 % (l.length + 1)]? with
      | some h => s.next h
      | none => s.tick

end Sys2Proof.Machine
end

