-- ==== Sys2Proof/Machine/Step.lean ====
section
/-! DEFINITION. One step of the module: the first entry of the agenda, or, when it is empty, what comes next (log 4). -/

namespace Sys2Proof.Machine

/-- One step: the issue of a crew's next instruction, an event at its place, or the choice of what comes next. -/
def step (s : State) : Host.Outcome State Fault Refusal :=
  match s.agenda with
  | [] => .next s.plan
  | .event p i :: rest => exec i { s with agenda := rest, place := p }
  | .issue rid :: rest =>
    let s := { s with agenda := rest, place := .crew rid }
    match s.crews.get? rid with
    | none => .next s
    | some c =>
      match s.fetch rid c with
      | .trap t => .next (s.takeTrap rid t)
      | .run i => exec i s

/-- A word placed where step fetches its next instruction (log 15). -/
def State.withFetchWord (s : State) (nbits w : Nat) : State := s.placeWord (BitVec.ofNat 128 (w % 2 ^ nbits))

end Sys2Proof.Machine
end

