-- ==== Sys2Proof/Safety.lean ====
section
/-! DEFINITION. What a safe run is, and the words in which claims about instructions are stated. -/

namespace Sys2Proof

/-- The invariant of every state: memory is in canonical form. -/
def Machine.State.Inv (s : Machine.State) : Prop := Machine.Memory.wf s.mem = true

/-- A step answers a next state. -/
def StepsOn (s t : Machine.State) : Prop := Machine.step s = .next t

/-- The states that a run from a state reaches. -/
inductive Reaches : Machine.State → Machine.State → Prop where
  | refl (s : Machine.State) : Reaches s s
  | step (s t u : Machine.State) (h : StepsOn s t) (r : Reaches t u) : Reaches s u

/-- A run from a state is safe when no state it reaches faults or is refused. -/
def SafeFrom (s : Machine.State) : Prop := ∀ t, Reaches s t → ∃ u, StepsOn t u

end Sys2Proof

namespace Sys2Proof.Claims

open Machine

/-! ### An instruction that issues -/

/-- Crew c, resident at rid, issues i: it is the crew of the present place, and every register that i names lies below its allotment. -/
structure Issuing (s : State) (rid : Nat) (c : Crew) (i : Instr) : Prop where
  place : s.place = .crew rid
  crew : s.crews.get? rid = some c
  range : ∀ k e, enc i = some (k, e) → rangeFault c.allot k e = none

/-- A stroke stays within the limits of R212 with more blocks, lines written and sum lines. -/
def Fits (st : Stroke) (bl wl sl : List Nat) : Prop :=
  (addLines st.wlines wl).length ≤ 64 ∧ (addLines st.blocks bl).length ≤ 8 ∧ (addLines st.sumLines sl).length ≤ 8

/-- The stroke that an ordinary instruction joins takes it: the executing stroke within its limits, or a new one that may begin; it
is not held (R224). -/
def Takes (s : State) (rid : Nat) (c : Crew) (bl wl sl : List Nat) : Prop :=
  match c.executing with
  | some st => st.held = false ∧ Fits st bl wl sl
  | none => s.mayBegin rid c = none ∧ c.heldReady = false

/-- The blocks that an instruction's destination names. -/
def blocksOf (i : Instr) : List Nat := match enc i with | some (_, e) => encBlocks e | none => []

/-- The completion flag that an instruction names. -/
def flagOf (i : Instr) : Option (Fin 12) := match enc i with | some (k, _) => k.set | none => none

/-- Of the module, only resident crew rid and the model's two counters differ. -/
def OnlyCrew (s t : State) (rid : Nat) : Prop :=
  t = { s with crews := t.crews, fresh := t.fresh, serial := t.serial } ∧ ∀ r, r ≠ rid → t.crews.get? r = s.crews.get? r

/-- Of a crew, only the PC, the flags, results outstanding, strokes and the marks of an issue differ: every register, em, the exited
lanes, the stack, the slot, the tag, the allotment and the trap state stay. -/
def OnlyIssue (c d : Crew) : Prop :=
  d = { c with pc := d.pc, flags := d.flags, pends := d.pends, strokes := d.strokes, skip := d.skip, lastIssue := d.lastIssue,
               yielded := d.yielded, yieldOut := d.yieldOut, ready := d.ready, stalled := d.stalled, flagWait := d.flagWait,
               granted := d.granted, heldReady := d.heldReady }

/-- What an instruction leaves to be written: cells, the clk at which they land (none: variable), the row-empty flag, and the work it
leaves to its side's function unit. -/
structure Result where
  cells : List (Nat × Word) := []
  due : Option Nat := none
  row : Option Bool := none
  unit : Option Fu := none

/-- A result is outstanding under its instruction's flag, which is set; nothing where there is no result (R57, R148). -/
def Outstanding (c d : Crew) (i : Instr) (r : Result) : Prop :=
  if r.cells = [] ∧ r.row = none ∧ r.unit.all (fun f => f.groups.isEmpty) = true then d.pends = c.pends ∧ d.flags = c.flags
  else
    (∃ n, d.pends = c.pends ++ [⟨n, r.cells, [], r.due, flagOf i, r.row, r.unit⟩]) ∧
      d.flags = (match flagOf i with | some f => c.flags ||| (1#12 <<< f.val) | none => c.flags)

/-- The stroke that an instruction joined is the crew's last, with the instruction counted and its effects last in order (R212, R214). -/
def Joined (c d : Crew) (effs : List Eff) : Prop :=
  ∃ st, d.strokes.getLast? = some st ∧
    match c.executing with
    | some old => st.serial = old.serial ∧ st.count = old.count + 1 ∧ st.effs = old.effs ++ effs
    | none => st.count = 1 ∧ st.effs = effs

/-- An instruction issues as an ordinary one: crew c becomes d, equal to x but for the marks of the issue; the module is s' but for the
crew. -/
def Issues (i : Instr) (s s' : State) (rid : Nat) (c x : Crew) (r : Result) (effs : List Eff) : Prop :=
  ∃ t d, exec i s = .next t ∧ t.crews.get? rid = some d ∧ OnlyCrew s' t rid ∧ OnlyIssue x d ∧ d.pc = x.pc ∧
    Outstanding c d i r ∧ Joined c d effs

/-- The crew goes on after its instruction. -/
def goOn (s : State) (rid : Nat) (c : Crew) : Crew := { c with pc := s.nextPc rid c }

/-- An ordinary instruction whose only effect is a result of n registers at d in each of some lanes, written after lat clk: it names
no memory and changes nothing else of the crew or the module. -/
def Computes (i : Instr) (ls : Crew → List Nat) (n : Nat) (d : Reg) (lat : Nat) (f : Crew → Nat → Nat) : Prop :=
  ∀ (s : State) (rid : Nat) (c : Crew), Issuing s rid c i → Takes s rid c (blocksOf i) [] [] →
    Issues i s s rid c (goOn s rid c) { cells := cellsIn (ls c) n d (f c), due := some (s.clock + lat) } []

/-- The same for an instruction that the FP64 pipe of the crew's side takes: the pipe takes the next one 4 clk later (R184). -/
def ComputesFp64 (i : Instr) (k : Ctl) (n : Nat) (d : Reg) (f : Crew → Nat → Nat) : Prop :=
  ∀ (s : State) (rid : Nat) (c : Crew), Issuing s rid c i → Takes s rid c (blocksOf i) [] [] →
    Issues i s (s.setSide (ridBay rid) (ridSide rid) (fun x => { x with fp64 := s.clock + 4 })) rid c (goOn s rid c)
      { cells := cellsIn (c.acting k.pred) n d (f c), due := some (s.clock + 8) } []

/-! ### Integers as the manual names them (R28, R185) -/

/-- The width of an integer type of the vector unit. -/
def width (ty : Ty) : Nat := if ty.regs = 2 then 64 else 32

/-- An operand as bits. -/
def bits (ty : Ty) (x : Nat) : BitVec (width ty) := BitVec.ofNat (width ty) x

/-- An operand as the number its type makes of it. -/
def number (ty : Ty) (x : Nat) : Int := if ty = .i32 ∨ ty = .i64 then (bits ty x).toInt else (bits ty x).toNat

/-- The least and the greatest number of a type. -/
def least (ty : Ty) : Int := if ty = .i32 ∨ ty = .i64 then -2 ^ (width ty - 1) else 0
def greatest (ty : Ty) : Int := if ty = .i32 ∨ ty = .i64 then 2 ^ (width ty - 1) - 1 else 2 ^ width ty - 1

/-- A number in the width of its type: modulo 2^w, or clamped first with .sat. -/
def narrow (ty : Ty) (sat : Bool) (v : Int) : Nat :=
  (BitVec.ofInt (width ty) (if sat then max (least ty) (min (greatest ty) v) else v)).toNat

/-- A comparison of two numbers. -/
def holds (cond : Cond) (x y : Int) : Bool :=
  match cond with
  | .eq => decide (x = y)
  | .ne => decide (x ≠ y)
  | .lt => decide (x < y)
  | .le => decide (x ≤ y)
  | .gt => decide (x > y)
  | .ge => decide (x ≥ y)
  | .ord => false
  | .uno => false

/-- The latency of an instruction by its type's width (R184). -/
def slow (ty : Ty) (short long : Nat) : Nat := if ty.regs = 2 then long else short

/-- The lanes of an instruction with P = L. -/
def acting (k : Ctl) (c : Crew) : List Nat := c.acting k.pred

/-- The active lanes. -/
def active (c : Crew) : List Nat := c.active

/-! ### Floating point as the manual names it (R189) -/

/-- The format of one element of a float type. -/
def format (ty : Ty) : Fmt :=
  if ty = .f64 then f64 else if ty = .f16x2 then f16 else if ty = .bf16x2 then bf16 else f32

/-- An element's exact value, or the infinity or NaN that it is. -/
def exact (ty : Ty) (x : Nat) : Machine.Num := (format ty).val x

/-- A packed type computes its two elements apart, element 0 in the low half; any other type is one element. -/
def elementwise (ty : Ty) (f : Nat → Nat → Nat → Nat) (a b c : Nat) : Nat :=
  if ty = .f16x2 ∨ ty = .bf16x2 then
    f (a % 2 ^ 16) (b % 2 ^ 16) (c % 2 ^ 16) +
      2 ^ 16 * f (a / 2 ^ 16 % 2 ^ 16) (b / 2 ^ 16 % 2 ^ 16) (c / 2 ^ 16 % 2 ^ 16)
  else f a b c

/-- A finite exact value as a rational number; 0 stands for the others. -/
def rat : Machine.Num → ℚ
  | .fin s n d e => (if s then -1 else 1) * ((n : ℚ) / (d : ℚ)) * (2 : ℚ) ^ e
  | .nan => 0
  | .inf _ => 0

/-- An exact value times a power of two. -/
def scaled (x : Machine.Num) (j : Int) : Machine.Num :=
  match x with
  | .fin s n d e => .fin s n d (e + j)
  | .nan => .nan
  | .inf s => .inf s

/-- z is x rounded to an integer in a direction (R38, R42); there is no .rs among them. -/
def roundsTo (mode : Rnd) (x : ℚ) (z : Int) : Prop :=
  match mode with
  | .rn => |x - z| ≤ 1 / 2 ∧ (|x - z| = 1 / 2 → z % 2 = 0)
  | .rz => z = if 0 ≤ x then ⌊x⌋ else ⌈x⌉
  | .rd => z = ⌊x⌋
  | .ru => z = ⌈x⌉
  | .rs => False

/-- The number k is floor(log2 x). -/
def Log2Is (x : ℚ) (k : Int) : Prop := (2 : ℚ) ^ k ≤ x ∧ x < (2 : ℚ) ^ (k + 1)

/-- Philox4x32-10 with its key and counter words, as R200 writes it out: round i uses the key stepped i times. -/
def philox10 (k0 k1 : Nat) (counter : List Nat) : List Nat :=
  (List.range 10).foldl (fun c i =>
    let p0 := 0xD2511F53 * c.getD 0 0
    let p1 := 0xCD9E8D57 * c.getD 2 0
    [p1 / 2 ^ 32 ^^^ c.getD 1 0 ^^^ (k0 + i * 0x9E3779B9) % 2 ^ 32, p1 % 2 ^ 32,
      p0 / 2 ^ 32 ^^^ c.getD 3 0 ^^^ (k1 + i * 0xBB67AE85) % 2 ^ 32, p0 % 2 ^ 32]) counter

/-- The pairwise tree of R207 over the lanes: the sum of the 2^n lanes from lane i on, an absent one left out. -/
def rowTree {α : Type} (add : α → α → α) (lanes : Nat → Option α) : Nat → Nat → Option α
  | 0, i => lanes i
  | n + 1, i =>
    match rowTree add lanes n i, rowTree add lanes n (i + 2 ^ n) with
    | some x, some y => some (add x y)
    | some x, none => some x
    | none, y => y

/-- The value of a lane of a row, absent where the lane is not active. -/
def laneOf {α : Type} (r : List (Nat × α)) (l : Nat) : Option α := (r.find? (fun p => decide (p.1 = l))).map Prod.snd

/-- A binary32 pattern is finite and lies within k ulp of a positive or negative real number (R203): an ulp is that of binary32 at the number. -/
def WithinUlp (k : ℕ) (w : Word) (y : ℝ) : Prop :=
  (f32.val w.toNat).isNan = false ∧ (f32.val w.toNat).isInf = false ∧
    ∀ q : Int, (2 : ℝ) ^ q ≤ |y| → |y| < (2 : ℝ) ^ (q + 1) → |((rat (f32.val w.toNat) : ℚ) : ℝ) - y| ≤ k * (2 : ℝ) ^ (max q (-126) - 23)

/-- The products of the packed elements of two words (R193). -/
def products (fmt : Ty) (a b : Nat) : List Machine.Num :=
  (List.range (elems fmt)).map (fun i => (tyVal fmt (elemAt (elemW fmt) a i)).mul (tyVal fmt (elemAt (elemW fmt) b i)))

/-- A sum of integers of packed elements (R194). -/
def integerDot (fmt : Ty) (a b : Nat) : Int :=
  ((List.range (elems fmt)).map (fun i =>
    intVal (intS fmt) (elemW fmt) (elemAt (elemW fmt) a i) * intVal (intS fmt) (elemW fmt) (elemAt (elemW fmt) b i))).sum

/-- The active lanes with their value of a register. -/
def row (c : Crew) (a : Reg) : List (Nat × Nat) := c.active.map (fun l => (l, (c.reg a.toNat l).toNat))

/-! ### Stops -/

/-- An instruction stops before any effect with a precise trap of the given kind, aux value and elected lane, which the crew takes at
once (R171, R172). -/
def Traps (i : Instr) (s : State) (rid : Nat) (c : Crew) (kind aux addr lane : Nat) : Prop :=
  exec i s = .next ({ s with fresh := s.fresh + 1 }.takeTrap rid ⟨kind, aux, addr, lane, 0, c.pc, c.slot⟩)

/-- The lanes of a membership mask in register m, where it is uniform over the active lanes and lies in em (R179). -/
def Members (c : Crew) (m : Reg) (x : LaneMask) : Prop := (∀ l ∈ c.active, c.reg m.toNat l = x) ∧ x &&& ~~~c.em = 0#32

/-- A cross-lane instruction with its mask in register m: with an empty em it only goes on; with a mask that is uniform over the active
lanes and lies in em it writes n registers at d in the mask's lanes, and only there; with any other it takes a membership fault whose aux
is the mask of the lowest active lane (R179). -/
def CrossLane (i : Instr) (m : Reg) (n : Nat) (d : Reg) (lat : Nat) (f : Crew → List Nat → Nat → Nat) : Prop :=
  ∀ (s : State) (rid : Nat) (c : Crew), Issuing s rid c i → Takes s rid c (blocksOf i) [] [] →
    (c.em = 0#32 → Issues i s s rid c (goOn s rid c) {} []) ∧
    (∀ x, c.em ≠ 0#32 → Members c m x →
      Issues i s s rid c (goOn s rid c) { cells := cellsIn (lanesOf x) n d (f c (lanesOf x)), due := some (s.clock + lat) } []) ∧
    (c.em ≠ 0#32 → (∀ x, ¬Members c m x) → Traps i s rid c 0x015 (c.reg m.toNat c.low).toNat 0 c.low)

/-- The function-unit instructions FSINT to FTANH with their destination, their operand and their function (R201 to R204). -/
def FuOp (i : Instr) (k : Ctl) (d a : Reg) (f : Word → Word) : Prop :=
  i = .fsint k d a ∧ f = fsintOf ∨ i = .fcost k d a ∧ f = fcostOf ∨ i = .fexp2 k d a ∧ f = fexp2Of ∨ i = .flog2 k d a ∧ f = flog2Of ∨
    i = .frcp k d a ∧ f = frcpOf ∨ i = .frsq k d a ∧ f = frsqOf ∨ i = .fsqrt k d a ∧ f = fsqrtOf ∨ i = .ftanh k d a ∧ f = ftanhOf

/-- Part of a list of bytes as a number. -/
def bytesAt (bs : List Byte) (off n : Nat) : Nat := ofBytes ((bs.drop off).take n)

/-- The bytes of a trap frame below its stack, for crew c and trap t: the header, the elected lane's v0 to v3, and one replay entry for
each outstanding function-unit instruction in issue order; all else is zero (R174, R175, R176). -/
def FrameOf (s : State) (rid : Nat) (c : Crew) (t : Trap) (bs : List Byte) : Prop :=
  let hd := bytesAt bs 0 64
  let n := c.fuPends.length
  bs.length = 0xA00 ∧
  (slice 511 448 hd = t.addr % 2 ^ 64 ∧ slice 447 384 hd = c.srStroke % 2 ^ 64 ∧ slice 383 352 hd = c.exited.toNat ∧
    slice 351 320 hd = c.em.toNat ∧ slice 319 306 hd = 0 ∧ slice 305 305 hd = 1 ∧ slice 304 304 hd = 0 ∧ slice 303 300 hd = t.slot % 2 ^ 4 ∧
    slice 299 288 hd = t.pc % 2 ^ 12 ∧ slice 287 280 hd = 0 ∧ slice 279 268 hd = c.flags.toNat ∧ slice 267 264 hd = n % 2 ^ 4 ∧
    slice 263 256 hd = c.stack.length % 2 ^ 8 ∧ slice 255 224 hd = t.aux % 2 ^ 32 ∧ slice 223 192 hd = c.idx % 2 ^ 32 ∧
    slice 191 160 hd = s.handle c.kernel % 2 ^ 32 ∧ slice 159 144 hd = bayCode (ridBay rid) % 2 ^ 16 ∧ slice 143 136 hd = 0 ∧
    slice 135 128 hd = t.lane % 2 ^ 8 ∧ slice 127 96 hd = c.tag.toNat ∧ slice 95 64 hd = c.allot % 2 ^ 32 ∧ slice 63 46 hd = 0 ∧
    slice 45 32 hd = t.code % 2 ^ 14 ∧ slice 31 12 hd = 0 ∧ slice 11 0 hd = t.kind % 2 ^ 12) ∧
  (∀ j, j < 4 → bytesAt bs (0x40 + 4 * j) 4 = (c.reg j t.lane).toNat) ∧
  (∀ j, 0x50 ≤ j ∧ j < 0x80 ∨ 0x80 + 160 * n ≤ j ∧ j < 0xA00 → bs[j]? = some 0#8) ∧
  ∀ i f, c.fuPends[i]? = some f →
    let at_ := 0x80 + 160 * i
    bytesAt bs at_ 16 = f.bits.toNat ∧ bytesAt bs (at_ + 16) 4 = (f.slot * 2 ^ 12 + f.pc) % 2 ^ 32 ∧ bytesAt bs (at_ + 20) 4 = f.lanes.toNat ∧
      bytesAt bs (at_ + 24) 8 = 0 ∧
      ∀ l v, l < 32 → f.a.find? (fun p => p.1 == l) = some (l, v) → bytesAt bs (at_ + 32 + 4 * l) 4 = v.toNat

/-! ### Conditions and bounding instructions -/

/-- The condition of an instruction with P = U passes (R59): it has none, or some lane is active and every active lane passes. -/
def CondTrue (c : Crew) (p : Pred) : Prop := p = .always ∨ c.em ≠ 0#32 ∧ ∀ l ∈ c.active, c.passes p l = true

/-- It does not pass. -/
def CondFalse (c : Crew) (p : Pred) : Prop := p ≠ .always ∧ ∀ l ∈ c.active, c.passes p l = false

/-- A register operand of n registers holds v in every active lane, and some lane is active. -/
def Uniform (c : Crew) (n : Nat) (r : Reg) (v : Nat) : Prop := c.em ≠ 0#32 ∧ ∀ l ∈ c.active, c.val n r l = v

/-- A register operand of n registers gives an instruction the value v: every active lane holds it, or with an empty em lane 0 does (R151). -/
def Gives (c : Crew) (n : Nat) (r : Reg) (v : Nat) : Prop := Uniform c n r v ∨ c.em = 0#32 ∧ c.val n r 0 = v

/-- A bounding instruction issues with every stroke of its crew committed (R214). -/
structure Bounding (s : State) (rid : Nat) (c : Crew) (i : Instr) : Prop extends Issuing s rid c i where
  quiet : c.strokes = []

/-- The state in which a bounding instruction performs: the present one, but for the model's counter. -/
def begun (s : State) (rid : Nat) (c : Crew) : State := { s.setCrew rid (fun _ => c) with fresh := s.fresh + 1 }

/-- A bounding instruction is done: crew c becomes x with some cells written at once, but for the marks of the issue; the module is s'
but for the crew. -/
def Finishes (i : Instr) (s s' : State) (rid : Nat) (x : Crew) (cells : List (Nat × Word)) : Prop :=
  ∃ t d, exec i s = .next t ∧ t.crews.get? rid = some d ∧ OnlyCrew s' t rid ∧
    d = { x with regs := writeCells x.regs cells, pends := x.pends.map (Pend.raced (cells.map Prod.fst)), lastIssue := d.lastIssue,
                 yielded := d.yielded, yieldOut := d.yieldOut, ready := d.ready, stalled := d.stalled, flagWait := d.flagWait,
                 skip := false, wait := .none, mmaRun := x.mmaRun.map MmaRun.passed }

/-- A bounding instruction leaves its crew asleep in a wait at the same PC, to go on or to issue again. -/
def Sleeps (i : Instr) (s s' : State) (rid : Nat) (c : Crew) (w : Wait) : Prop :=
  ∃ t d, exec i s = .next t ∧ t.crews.get? rid = some d ∧ OnlyCrew s' t rid ∧ d.wait = w ∧ d.pc = c.pc ∧ d.regs = c.regs ∧
    d.em = c.em ∧ d.strokes = c.strokes

/-- A bounding instruction takes a precise trap. -/
def TrapsNow (i : Instr) (s : State) (rid : Nat) (c : Crew) (kind aux addr lane : Nat) : Prop :=
  exec i s = .next ({ begun s rid c with fresh := s.fresh + 2 }.takeTrap rid ⟨kind, aux, addr, lane, 0, c.pc, c.slot⟩)

/-- v in one register of every active lane. -/
def inActive (c : Crew) (d : Reg) (v : Nat) : List (Nat × Word) := cellsIn c.active 1 d (fun _ => v)


/-- An instruction may be bounding by R214's table: an ATOM is by its lines, a RET by its target. -/
def mayBound : Instr → Bool
  | .mma .. | .mbatch .. | .sumdeclDecl .. | .sumdeclFree .. | .sumdeclTl .. | .sumz .. | .sumdrain .. | .sumrdClr .. | .copy ..
  | .gather .. | .scatter .. | .encode .. | .batch .. | .xput .. | .xget .. | .xred .. | .xsigArr .. | .xsigMax .. | .xfence ..
  | .xprobe .. | .wait .. | .mwait .. | .atom .. | .fjmp .. | .cfetch .. | .cinv .. | .ret .. | .trap .. | .allot .. | .launch ..
  | .qctlHold .. | .qctlRelease .. | .qctlFlush .. | .qctlClass .. | .qctlQuery .. | .kstopStop .. | .kstopKill .. | .kstopResume ..
  | .kq .. | .leave .. | .notify .. | .ckptCut .. | .ckptBack .. | .tshape .. | .tfork .. | .tprune .. | .tcommit .. | .tmask ..
  | .tmaskVfy .. | .tinfoLo .. | .tinfoHi .. | .tinfoTree .. | .tacc .. | .tappend .. | .tnew .. | .tfree .. | .pgpin .. | .pgunpin ..
  | .pgcowMark .. | .pgcowClear .. | .pgqNext .. | .pgqDone .. | .pgqFail .. | .pgqInval .. | .smap .. | .sflushWb .. | .sflushInv ..
  | .stamp .. | .bpset .. | .bpclr .. => true
  | _ => false

/-! ### Accesses to memory -/

/-- In each of some lanes the access of n bytes at va lane passes every check of R235; hit lane is its translation. -/
def Reached (s : State) (rid : Nat) (c : Crew) (va : Nat → Nat) (n : Nat) (need : Need) (ls : List Nat) (hit : Nat → Hit) : Prop :=
  ∀ l ∈ ls, s.checkAccess rid c (va l) n need l = .ok (hit l)

/-- The lines of the accesses of some lanes that are not memory-side, each once. -/
def linesOf (ls : List Nat) (hit : Nat → Hit) : List Nat :=
  addLines [] (((ls.map hit).filter (fun h => !h.memside)).map (fun h => lineOf h.pa))

/-- The module after the accesses of some lanes: the TLB walks of those that missed follow (R255). -/
def walked (s : State) (rid : Nat) (c : Crew) (va : Nat → Nat) (ls : List Nat) (hit : Nat → Hit) : State :=
  s.fills rid (c.ctx s) ((ls.filter (fun l => (hit l).miss)).map va)

/-- A narrow load's value in its register: zero-extended, or sign-extended with .sx (R237). -/
def loaded (w : Width) (sx : Bool) (x : Nat) : Nat :=
  if sx = true ∧ w.bytes < 4 then ((BitVec.ofNat (8 * w.bytes) x).signExtend 32).toNat else x

/-- An atomic operation writes, having read m, unless it is a .cas that expects another value (R238). -/
def atomWrites (op : RmwOp) (m v : Nat) : Bool := !(decide (op = .cas) && decide (m ≠ v))

/-- The bytes written by the lanes of an ATOM, one after another, over bytes written before. -/
def atomAfter (s : State) (op : RmwOp) (ty : Ty) (hit : Nat → Hit) (v x : Nat → Nat) (ls : List Nat) (own : Tbl Byte) : Tbl Byte :=
  ls.foldl (fun own l =>
    let m := s.underNum own (hit l).pa (tyBytes ty)
    if atomWrites op m (v l) then putBytes own (hit l).pa (toBytes (tyBytes ty) (Alu.rmw op ty m (v l) (x l))) else own) own

/-- The value that lane l of an ATOM reads: memory under the writes before the instruction and those of the lanes below l (R228, R238). -/
def atomSees (s : State) (op : RmwOp) (ty : Ty) (hit : Nat → Hit) (v x : Nat → Nat) (ls : List Nat) (own : Tbl Byte) (l : Nat) : Nat :=
  s.underNum (atomAfter s op ty hit v x (ls.filter (fun j => decide (j < l))) own) (hit l).pa (tyBytes ty)

/-- The elements of a SUMRD converted (R299): unchanged but for a NaN, which becomes the canonical NaN, or rounded
once to nearest; .e4m3 divides by the E8M0 scale sc first. -/
def converted (op : SumRdOp) (x : Nat → Nat) (sc : Nat) : Nat :=
  let inv : Machine.Num := if sc % 256 = 255 then .nan else .fin false 1 1 (127 - (sc % 256 : Nat))
  let e (i : Nat) : Nat := e4m3.round .rn ((f64.val (x i)).mul inv)
  match op with
  | .f64 => match f64.val (x 0) with | .nan => 0x7FF8_0000_0000_0000 | _ => x 0
  | .f32 => f32.round .rn (f64.val (x 0))
  | .bf16 => bf16.round .rn (f64.val (x 0)) + bf16.round .rn (f64.val (x 1)) * 2 ^ 16
  | .e4m3 => e 0 + e 1 * 2 ^ 8 + e 2 * 2 ^ 16 + e 3 * 2 ^ 24

/-- Memory after some ranges of n bytes have been set to 0. -/
def zeroed (m : Memory) (n : Nat) (pas : List Nat) : Memory := pas.foldl (fun m pa => Memory.writes m pa (List.replicate n 0#8)) m

/-- A step answers a next state with some property. -/
def Runs (i : Instr) (s : State) (P : State → Prop) : Prop := ∃ t, exec i s = .next t ∧ P t

/-- A bounding instruction leaves a next state in which its crew is d with some property, standing after its instruction with the
registers, em and trap state it had. -/
def GoesOn (i : Instr) (s : State) (rid : Nat) (c : Crew) (P : State → Prop) : Prop :=
  Runs i s (fun t => ∃ d, t.crews.get? rid = some d ∧ d.pc = s.nextPc rid c ∧ d.regs = c.regs ∧ d.em = c.em ∧ d.wait = .none ∧
    d.strokes = [] ∧ P t)


/-! ### Barrier objects and engine commands -/

/-- A barrier instruction on the object that operand a names leaves one operation on it for the commit, makes its registration, and goes on
(R311, R315); one that begins an object keeps only that registration. -/
def OnObject (i : Instr) (a : Reg) (op : BarOp) (begins : Bool) (src : Option RegSrc) (s : State) (rid : Nat) (c : Crew) : Prop :=
  ∀ va h, Issuing s rid c i → Uniform c 2 a va → s.objCheck rid c va .write = .ok h →
    let rs : List Regn := match src with | some x => [⟨h.pa, c.ctx s, va, c.kernel, x⟩] | none => []
    (∀ r ∈ rs, s.regRefused r = none) → Takes s rid c [] [lineOf h.pa] [] →
    Issues i s ((rs.foldl State.register s).fills rid (c.ctx s) (if h.miss then [va] else [])) rid c (goOn s rid c) {}
      [.bar va h.pa op (if begins then some rs else none)]

/-- The WAIT condition of R309 holds of object o and value x. -/
def Met (o x : Nat) : Prop :=
  (Bar.mode.get o = 1 ∧ 1 ≤ (Bar.phase.get o + 2 ^ 32 - x % 2 ^ 32) % 2 ^ 32 ∧ (Bar.phase.get o + 2 ^ 32 - x % 2 ^ 32) % 2 ^ 32 ≤ 2 ^ 31) ∨
    (Bar.mode.get o = 2 ∧ x ≤ Bar.value.get o)

/-- A command is released to its engine, with its number, registered on its barrier if it has one, and the crew goes on; it needs a
place among the crew's commands of its sort and room for the registration (R311, R322). -/
def Released (i : Instr) (s : State) (rid : Nat) (c : Crew) (kind : CmdKind) (desc : Nat) (bar : Option (Nat × Nat)) (ready : Option Nat) : Prop :=
  (∀ m ∈ s.cmds, m.id < s.serial) →
  (∀ va pa, bar = some (va, pa) → s.regRefused ⟨pa, c.ctx s, va, c.kernel, .cmd s.serial⟩ = none) →
  (s.cmds.filter (fun m => decide (m.k = c.kernel ∧ m.crew = c.idx) && (if kind.moves then m.kind.moves else m.kind.encodes))).length <
    (if kind.moves then 32 else 8) →
  GoesOn i s rid c (fun t => ∃ m, t.cmds = s.cmds ++ [m] ∧ m.id = s.serial ∧ m.kind = kind ∧ m.desc = desc ∧ m.bar = bar.map Prod.snd ∧
    m.ready = ready ∧ m.k = c.kernel ∧ m.crew = c.idx ∧ m.ctx = c.ctx s ∧ m.bay = ridBay rid ∧ m.stage = .waiting ∧ m.done = 0 ∧
    m.batch = ((s.kern c.kernel).keepOf c.idx).ecount + 1 ∧ m.after = ((s.kern c.kernel).keepOf c.idx).engAfter ∧ m.pc = c.pc ∧
    m.aborted = false ∧ t.mem = s.mem ∧ (∀ va pa, bar = some (va, pa) → (⟨pa, c.ctx s, va, c.kernel, .cmd s.serial⟩ : Regn) ∈ t.regns))


/-- The address at which an effect of a stroke writes. -/
def writtenAt : Eff → Option Nat
  | .store _ pa _ _ => some pa
  | .red _ pa _ _ _ _ => some pa
  | .sumred _ pa _ => some pa
  | .bar _ pa _ _ => some pa
  | .trace .. => none
  | .mfence .. => none

/-- Two ranges of bytes, each with its start and length, do not overlap. -/
def Apart (x y : Nat × Nat) : Prop := x.1 + x.2 ≤ y.1 ∨ y.1 + y.2 ≤ x.1

/-! ### Trees and pages -/

/-- A tree or page instruction is done: its cells are written and the crew goes on; the operation may have doomed the crew itself (R344). -/
def Answers (i : Instr) (s s' : State) (rid : Nat) (c : Crew) (cells : List (Nat × Word)) : Prop :=
  ∃ x, x = { goOn s rid c with doomed := x.doomed } ∧ Finishes i s s' rid x cells

/-- A tree instruction on the tree of handle h: a handle that names no live tree of the context gives its code, and an operation's result
is what every active lane receives (R350, R351). -/
def OnTree (i : Instr) (s : State) (rid : Nat) (c : Crew) (d : Reg) (h : Nat) (op : Nat → TreeOp) : Prop :=
  Bounding s rid c i →
    (∀ code, s.treeFor (c.ctx s) h = .error code → Answers i s s rid c (inActive c d code)) ∧
    (∀ slot t r, s.treeFor (c.ctx s) h = .ok slot → op slot = .ok (t, r) → Answers i s t rid c (inActive c d r))

/-- Node n of the records is a crown ancestor of node m, or m itself, and is live. -/
def above (ns : List Nat) (m n : Nat) : Bool := decide (n ∈ chainOf ns 256 m) && nodeLive (nodeOf ns n)


/-! ### Events -/

/-- Of the bays, only side d of bay b differs. -/
def OnlySide (s t : State) (b d : Nat) : Prop :=
  (∀ b', b' ≠ b → t.bay b' = s.bay b') ∧ t.bay b = (s.bay b).setSide d (fun _ => t.side b d)

/-- A crew after a result of it has landed in some lanes, no other write to its cells having landed since its issue: the cells of those
lanes are written, and with the last of them the row-empty flag is written and the completion flag clears (R57, R148). -/
def landed (c : Crew) (idx : Nat) (p : Pend) (lanes : LaneMask) : Crew :=
  let now := p.cells.filter (fun q => lanes.getLsbD (q.1 % 32))
  let left := p.cells.filter (fun q => !lanes.getLsbD (q.1 % 32))
  let row := if left = [] then p.rowEmpty else none
  let rest := (c.pends.eraseIdx idx).map (Pend.raced (now.map Prod.fst))
  { c with
    regs := writeCells c.regs now
    rowEmpty := row.getD c.rowEmpty
    strokes := c.strokes.map (Stroke.landed p.serial now row)
    flags := match p.flag with
      | some f => if left = [] then c.flags &&& ~~~(1#12 <<< f.val) else c.flags
      | none => c.flags
    pends := if left = [] then rest else rest.insertIdx idx { p with cells := left } }


/-! ### Records of the system range -/

/-- Some fields of record n of a table are set, in order; every other record is as before. -/
def Sets (s t : State) (tab : SysTab) (n : Nat) (l : List (Fld × Nat)) : Prop :=
  t.rcd tab n = l.foldl (fun r p => p.1.set r p.2) (s.rcd tab n) ∧ ∀ tab' m, tab'.addr m ≠ tab.addr n → t.rcd tab' m = s.rcd tab' m

/-- A command of context n counts and reports a status, and does nothing else (R76, R78). -/
def CtxReports (i : Instr) (s : State) (n st : Nat) : Prop :=
  Runs i s (fun t => t = { s with sys := t.sys } ∧
    Sets s t .context n [(Ctx.cseq, s.fld .context n Ctx.cseq + 1), (Ctx.cstat, st)])

/-- A command of queue q counts and reports a status, and does nothing else (R89). -/
def QueReports (i : Instr) (s : State) (q st : Nat) : Prop :=
  Runs i s (fun t => t = { s with sys := t.sys } ∧
    Sets s t .queue q [(Que.cseq, s.fld .queue q Que.cseq + 1), (Que.cstat, st)])

/-- The fields of a context's record that CREATE and RESUME read (R74). -/
def configFields : List Fld :=
  [Ctx.tmplva, Ctx.treemax, Ctx.qmax, Ctx.pinmax, Ctx.fbar, Ctx.stampva, Ctx.ssz, Ctx.ologva, Ctx.osz, Ctx.flogva, Ctx.fsz, Ctx.trapva,
    Ctx.ptroot, Ctx.kvsl, Ctx.recover, Ctx.replay, Ctx.record]


/-- What a software write of byte v at byte k of record n, which it takes from old to new, has happen next (R73, R76, R89, R95, R366). -/
def follows (tab : SysTab) (n k : Nat) (v : Byte) (old new : Nat) : List Task :=
  if tab = .context ∧ k = 120 ∧ v ≠ 0#8 then [.event (.ctx n) (ctxCmd v.toNat)]
  else if tab = .queue ∧ k = 56 ∧ v ≠ 0#8 then [.event (.queue n) (queueCmd v.toNat)]
  else if tab = .cox ∧ Cox.rsv.get old ≠ Cox.rsv.get new then [.event (.rsv (BitVec.ofNat 64 new)) .rsvWrite]
  else if tab = .port ∧ Port.en.get old ≠ Port.en.get new then
    [.event (.port n) (if Port.en.get new = 1 then .portEnSet else .portEnClear)]
  else []

/-! ### The host link -/

/-- A message goes to the host: it is the last one sent, or the last one that waits for room in the replay window. -/
def Tells (t : State) (typ ctx : Nat) (body : List Byte) : Prop :=
  ∃ o, o.typ = typ ∧ o.ctx = ctx ∧ o.body = body ∧ (t.host.sent.getLast? = some o ∨ t.host.waiting.getLast? = some o)

/-- The module that performs a sequenced message of the host: its ack has been taken, and its number consumed (R105), as it arrives or, where it
has waited for its turn, before. -/
def taken (s : State) (m : HostMsg) : State := if s.host.inbox.head? = some m then s.dropIn m else (s.takeAck m.ack).consume

/-- The turn of a well-formed sequenced message of a type has come: it arrives with the next number and none waits before it, or it is the first
of those that wait. -/
structure Arrives (s : State) (m : HostMsg) (typ : Nat) : Prop where
  place : s.place = .host m
  up : s.power = .up
  ok : m.ok = true
  typ : m.typ = typ
  turn : s.host.inbox = [] ∧ m.seq = s.host.nextIn ∨ s.host.inbox.head? = some m


/-- The stores and reductions of a stroke, none of them on a poisoned line or in the system range. -/
def Plain (s : State) (effs : List Eff) : Prop :=
  ∀ e ∈ effs, match e with
    | .store _ pa _ _ => inSys pa = false ∧ lineOf pa ∉ s.poisoned
    | .red _ pa _ _ _ _ => inSys pa = false ∧ lineOf pa ∉ s.poisoned
    | .sumred .. => False
    | .bar .. => False
    | .trace .. => False
    | .mfence .. => False

/-- Memory after the stores and reductions of a stroke in order: a RED reads what stands in memory in its turn (R220, R239). -/
def performed (s : State) (effs : List Eff) : Memory :=
  effs.foldl (fun m e =>
    match e with
    | .store _ pa bs _ => Memory.writes m pa bs
    | .red _ pa op ty v _ => Memory.writes m pa (toBytes (tyBytes ty) (Alu.rmw op ty ({ s with mem := m }.num pa (tyBytes ty)) v 0))
    | _ => m) s.mem

/-- A stroke of a crew is its oldest, closed and with its results written, and may commit now: no held stroke of another crew has an umpire
of it, and its kernel neither records nor replays (R220, R224, R244). -/
structure Commits (s : State) (rid : Nat) (c : Crew) (st : Stroke) : Prop where
  place : s.place = .crew rid
  crew : s.crews.get? rid = some c
  oldest : c.closing = some st
  free : ∀ u ∈ st.umpires, u ∉ s.reserved rid
  unlogged : s.logged c.kernel = false
  ungated : s.gated c.kernel = false

/-- The digest of a crew after the stores and reductions of a stroke in order: each that is not at a memory-side line enters with its virtual
address and its bytes (R246). -/
def digested (s : State) (g : DWord) (effs : List Eff) : DWord :=
  (effs.foldl (fun (p : State × DWord) e =>
    let bs := match e with
      | .store _ _ bs _ => bs
      | .red _ pa op ty v _ => toBytes (tyBytes ty) (Alu.rmw op ty (p.1.num pa (tyBytes ty)) v 0)
      | _ => []
    ({ p.1 with mem := performed p.1 [e] }, match e with
      | .store va _ _ false => crcWrite p.2 va bs
      | .red va _ _ _ _ false => crcWrite p.2 va bs
      | _ => p.2)) (s, g)).2

/-- The state in which the entries of a stroke are logged, as far as the log reads it: the stroke has taken its number, and its stores and
reductions stand in memory. -/
def stored (s : State) (effs : List Eff) : State := { s with order := s.order + 1, mem := performed s effs }

/-- A stroke of a crew is its oldest, closed and with its results written, and no held stroke of another crew has an umpire of it. -/
structure Closes (s : State) (rid : Nat) (c : Crew) (st : Stroke) : Prop where
  place : s.place = .crew rid
  crew : s.crews.get? rid = some c
  oldest : c.closing = some st
  free : ∀ u ∈ st.umpires, u ∉ s.reserved rid
  shared : s.isLocal c st = false
  plain : Plain s st.effs
  unbound : st.binds = []

/-- A record of 64 bytes has given values in given ranges of bits, and zeros elsewhere. -/
def Fields (r : Nat) (l : List (Nat × Nat × Nat)) : Prop :=
  r < 2 ^ 512 ∧ (∀ x ∈ l, slice x.1 x.2.1 r = x.2.2 % 2 ^ (x.1 + 1 - x.2.1)) ∧
    ∀ i, (∀ x ∈ l, i < x.2.1 ∨ x.1 < i) → r.testBit i = false

/-- A truss holds a member of one of a crew's bents with affinity (R115, R137). -/
def Near (s : State) (k idx truss : Nat) : Prop :=
  ∃ p ∈ s.crews, p.2.kernel = k ∧ ridBay p.1 / 16 = truss ∧
    ∃ n ∈ p.2.bents, ∃ x, (s.kern k).bents[n]? = some x ∧ x.aff = true ∧ s.member k n idx = true

/-- A bay may take a crew as far as affinity goes (R115): it lies in such a truss, there is none, or no planned side of one can take it. -/
def Prefers (s : State) (k idx b blocks : Nat) (map : Option (List Nat)) : Prop :=
  Near s k idx (b / 16) ∨ (∀ truss, ¬Near s k idx truss) ∨
    ∀ q ∈ s.planSides k, Near s k idx (q.1 / 16) → s.canHost k q.1 q.2 blocks map = false

end Sys2Proof.Claims
end

