-- ==== Sys2Proof/Certificates/Slice0/Obligations.lean ====
section
/-! DEFINITION. The statements about this model. Each docstring says which rules of spec/ a statement formalises; where a clause rests on a reading or
a choice of the model's, it names the log entry. -/

open Sys2Proof Sys2Proof.Machine Sys2Proof.Claims

/-! ## General -/

/-- The words that the spec derives for instructions of ten families decode to those instructions (R55 to R63, R71). -/
def Obligations.DecodeWords : Prop :=
  let k (l : Len) : Ctl := ⟨l, 0, none, 0, false, false, .always⟩
  decodeWords [0x0000_C880, 0x0006_0504] = .ok (.iadd ⟨.l64, 2, some 3, 0, false, false, .always⟩ .i32 false 4 5 (.reg 6)) ∧
  decodeWords [0x4023_C102, 0x5100_0B0A, 0x0002_0900, 0x3FC0_0000] =
    .ok (.fadd ⟨.l128, 0, none, 8, true, false, .zero 9⟩ .f32 .rz 10 11 (.imm 0x3FC0_0000)) ∧
  decodeWords [0x0003_C00D, 0x0000_0300, 0x0028_0000] = .ok (.bdiv (k .l96) 3 10) ∧
  decodeWords [0x0003_C1E1, 0x610A_0908, 0x0000_000B] = .ok (.shfl (k .l96) .xor .n32 8 9 10 11) ∧
  decodeWords [0x0003_C149, 0x9C0E_0D0C, 0x0000_000F] = .ok (.dotf8 (k .l96) .e4m3 2 12 13 14 15) ∧
  decodeWords [0x0003_C201, 0x4000_0208, 0x0100_0000] = .ok (.ld (k .l96) .b32 false .none 8 2 0x40) ∧
  decodeWords [0x0003_C209, 0xE306_040A, 0x0000_0008] = .ok (.atom (k .l96) .cas .n64 10 4 6 8 0) ∧
  decodeWords [0x0003_C241, 0x9D04_4002, 0x0000_0008] = .ok (.mma (k .l96) .e4m3 true 1 2 64 4 8) ∧
  decodeWords [0x0003_C281, 0x0106_0400, 0x0000_0007] = .ok (.barinitPh (k .l96) true 4 6 7) ∧
  decodeWords [0x0203_C2D0, 0x1009_0E0F] = .ok (.tmaskVfy ⟨.l64, 0, none, 0x80, false, false, .always⟩ 15 14 9) ∧
  decodeWords [0x0003_C30C, 0x1000_0604] = .ok (.pgqDone (k .l64) 4 6) ∧
  decodeWords [0x0003_C340, 0x6006_0400] = .ok (.xput (k .l64) .b64 4 6) ∧
  decodeWords [0x0003_C388, 0x1000_0803] = .ok (.kstopKill (k .l64) 3 8) ∧
  decodeWords [0x0003_C3CC, 0x0007_0600] = .ok (.trace (k .l64) 6 7)

/-- Every well-formed crew instruction, with every operand at every value its encoding admits, is what its words decode to (R50, R55 to R64). -/
def Obligations.DecodeEncode : Prop :=
  ∀ i : Instr, i.WF → decodeWords (encode i) = .ok i

/-- Granules decode to an instruction in one way only: those of its length are its encoding, so that no bit of an accepted instruction is
dropped (R50, R55 to R66). -/
def Obligations.EncodeDecode : Prop :=
  ∀ (gs : List Word) (i : Instr), gs.length = 4 → decodeWords gs = .ok i → i.WF ∧ encode i = gs.take (encode i).length

/-- Bits 1:0 of the first granule give an instruction's granules: 2 under 00, 3 under 01, 4 under 10, and none under 11, which is illegal;
what stands behind them is not looked at (R50). -/
def Obligations.InstructionLength : Prop :=
  ∀ (w : Word) (rest more : List Word), rest.length = 3 →
    (w.toNat % 4 = 3 → decodeWords (w :: rest) = .error .length) ∧
    (w.toNat % 4 ≠ 3 → decodeWords ((w :: rest).take (2 + w.toNat % 4) ++ more) = decodeWords (w :: rest)) ∧
    (∀ i, decodeWords (w :: rest) = .ok i → w.toNat % 4 ≠ 3 ∧ (encode i).length = 2 + w.toNat % 4)

/-- A step is the first entry of the agenda: the issue of a crew runs exec of the instruction that the granules at its PC decode to, with
nothing around it; an event runs exec at its place; of a crew that has gone nothing is left (R53, R56, R66). (The model's readings and
choices in this: log 15.) -/
def Obligations.StepRunsDecoded : Prop :=
  ∀ (s : State) (rest : List Task),
    (∀ (rid : Nat) (c : Crew) (ws : List Word) (lines : Nat) (i : Instr), s.agenda = .issue rid :: rest → s.crews.get? rid = some c →
      c.diverged = none → (c.skip = true ∨ s.cmpHit (ridBay rid) c = none) → (c.em ≠ 0#32 ∨ c.stack ≠ [] ∨ c.exited = 0xFFFF_FFFF#32) →
      s.codeOf rid c = some (ws, lines) → c.pc < 128 * lines → c.pc % 4 = 0 → lineOk ws (c.pc / 128) = true → startAt ws (c.pc / 4) = true →
      decodeWords [segWord ws (c.pc / 4), segWord ws (c.pc / 4 + 1), segWord ws (c.pc / 4 + 2), segWord ws (c.pc / 4 + 3)] = .ok i →
      step s = exec i { s with agenda := rest, place := .crew rid }) ∧
    (∀ p i, s.agenda = .event p i :: rest → step s = exec i { s with agenda := rest, place := p }) ∧
    (∀ rid, s.agenda = .issue rid :: rest → s.crews.get? rid = none → step s = .next { s with agenda := rest, place := .crew rid })

/-- What stops a crew at the fetch, as a trap of the whole crew at its present instruction, the first of these that holds: a divergence that
was found later (0x022, R248), a comparator (0x070 with its number, R392), an empty em with an empty stack (0x016, R154), a code slot that
is not full (0x017 with the slot, R123), a line that is not well formed, a PC past the segment or at no start (0x010, R53, R66), and
granules that are no instruction (0x011, R66). An instruction that names a register at or above its crew's allotment, alone, in a group or
as its predicate, raises a register-range fault at its present instruction, before anything else of it (R66, step 9; R67); its aux is the
first register of such an operand or the allotment, whichever is greater (the model's reading, log 18). (The model's readings and choices
in this: log 20.) -/
def Obligations.FetchChecks : Prop :=
  (
  ∀ (s : State) (rest : List Task) (rid : Nat) (c : Crew), s.agenda = .issue rid :: rest → s.crews.get? rid = some c →
    let stops (kind aux log : Nat) : Prop :=
      step s = .next (({ s with agenda := rest, place := .crew rid } : State).takeTrap rid ⟨kind, aux, log, c.low, 0, c.pc, c.slot⟩)
    (∀ log, c.diverged = some log → stops 0x022 0 log) ∧
    (∀ n, c.diverged = none → c.skip = false → s.cmpHit (ridBay rid) c = some n → stops 0x070 n 0) ∧
    (c.diverged = none → (c.skip = true ∨ s.cmpHit (ridBay rid) c = none) →
      (c.em = 0#32 → c.stack = [] → c.exited ≠ 0xFFFF_FFFF#32 → stops 0x016 0 0) ∧
      (c.em ≠ 0#32 ∨ c.stack ≠ [] ∨ c.exited = 0xFFFF_FFFF#32 →
        (s.codeOf rid c = none → stops 0x017 c.slot 0) ∧
        ∀ (ws : List Word) (lines : Nat), s.codeOf rid c = some (ws, lines) →
          (128 * lines ≤ c.pc ∨ c.pc % 4 ≠ 0 ∨ lineOk ws (c.pc / 128) = false ∨ startAt ws (c.pc / 4) = false → stops 0x010 0 0) ∧
          (∀ err, c.pc < 128 * lines → c.pc % 4 = 0 → lineOk ws (c.pc / 128) = true → startAt ws (c.pc / 4) = true →
            decodeWords [segWord ws (c.pc / 4), segWord ws (c.pc / 4 + 1), segWord ws (c.pc / 4 + 2), segWord ws (c.pc / 4 + 3)] = .error err →
            stops 0x011 0 0)))
  ) ∧
  (
  ∀ (i : Instr) (s : State) (rid : Nat) (c : Crew) (k : Ctl) (e : Enc), s.place = .crew rid → s.crews.get? rid = some c → enc i = some (k, e) →
    let past (g : Reg × Nat) : Prop := g ∈ operands e ++ predReg k.pred ∧ c.allot < g.1.toNat + g.2
    (∃ g, past g) → ∃ g, past g ∧ exec i s = .next (s.takeTrap rid ⟨0x012, max g.1.toNat c.allot, 0, c.low, 0, c.pc, c.slot⟩)
  )

/-- With an empty agenda a step is the model's choice of what comes next (log 4): it puts one event on the agenda, or one clk passes (R13);
memory, the records, every crew's registers, em and stack, and all else of the module stay, but that the sensors are read anew each
millisecond (R429). A crew that waits to look again does so in the next clk, and one whose SUMDECL.free waits for nothing any more goes on
(R298). sr.clock counts clk since module reset, and in every clk sr.time is floor(2/3 of it), so it advances by 0 or 1 in each clk (R13).
(The model's readings and choices in this: log 33.) -/
def Obligations.ChoosingChangesNothing : Prop :=
  (
  ∀ (s : State), s.agenda = [] → ∃ t : State, step s = .next t ∧
    t = { s with clock := t.clock, fresh := t.fresh, crews := t.crews, agenda := t.agenda, watts := t.watts, temp0 := t.temp0, temp1 := t.temp1,
                 coolant := t.coolant } ∧
    ((s.clock + 1) % 1500000 ≠ 0 ∨ t.clock = s.clock → t.watts = s.watts ∧ t.temp0 = s.temp0 ∧ t.temp1 = s.temp1 ∧ t.coolant = s.coolant) ∧
    (t.clock = s.clock ∧ t.crews = s.crews ∧ (∃ p i, t.agenda = [.event p i]) ∨
      t.clock = s.clock + 1 ∧ t.agenda = [] ∧ ∀ rid, match s.crews.get? rid, t.crews.get? rid with
        | some c, some d => d = { c with ready := d.ready, stalled := d.stalled, flagWait := d.flagWait, wait := d.wait, pc := d.pc } ∧
            (d.wait = c.wait ∧ d.pc = c.pc ∨ c.wait = .retry ∧ d.wait = .none ∧ d.pc = c.pc ∨
              ∃ base lines, c.wait = .freeing base lines ∧ s.freeDone (c.ctx s) base lines = true ∧ d.wait = .none ∧ d.pc = s.nextPc rid c)
        | none, none => True
        | _, _ => False)
  ) ∧
  (
  ∀ (s t : State), t.clock = s.clock + 1 → s.time = s.clock * 2 / 3 ∧ (t.time = s.time ∨ t.time = s.time + 1)
  )

/-- Every step keeps the canonical form of memory, from every state that has it. Memories in canonical form that read alike at every address
are the same data. (The model's readings and choices in this: log 2.) -/
def Obligations.StepKeepsMemory : Prop :=
  (
  ∀ s t : State, s.Inv → step s = .next t → t.Inv
  ) ∧
  (
  ∀ m n : Memory, Memory.wf m = true → Memory.wf n = true → (∀ a, Memory.byte m a = Memory.byte n a) → m = n
  )

/-- An ordinary instruction, by R214's table, whose crew enters no handler, stops for good nor stands in a context fault, changes no memory,
no record of the system range (so no comparator, context, tree or region), no kernel and no queue: of the module only its crew, the
registrations and the marks of its side differ, with the steps to come (R73, R214, R391). The crew keeps its kernel and its index. -/
def Obligations.OrdinaryInstructions : Prop :=
  ∀ (i : Instr) (s t : State) (rid : Nat) (c d : Crew),
    enc i ≠ none → mayBound i = false → s.place = .crew rid → s.crews.get? rid = some c → exec i s = .next t → t.crews.get? rid = some d →
    (∀ k a off, i = .bdiv k a off → c.stack.length < 32) →
    c.life = .active → d.life = .active → d.wait ≠ .ctxFault → (d.handler = true → c.handler = true) →
    t = { s with crews := t.crews, fresh := t.fresh, serial := t.serial, regns := t.regns, bays := t.bays, agenda := t.agenda } ∧
      (∀ r, r ≠ rid → t.crews.get? r = s.crews.get? r) ∧ (∀ b, b ≠ ridBay rid → t.bay b = s.bay b) ∧
      (∀ side, t.side (ridBay rid) side = { s.side (ridBay rid) side with fp64 := (t.side (ridBay rid) side).fp64 }) ∧
      d.kernel = c.kernel ∧ d.idx = c.idx

/-- No instruction changes a crew's context: a crew that is there before and after keeps its kernel and index, and a kernel that is alive its
context (R83). Only BPSET and BPCLR, of the instructions, change a comparator (R391). -/
def Obligations.ContextsAndComparators : Prop :=
  ∀ (i : Instr) (s t : State) (rid : Nat), enc i ≠ none → s.place = .crew rid → exec i s = .next t →
    (∀ r c d, s.crews.get? r = some c → t.crews.get? r = some d → d.kernel = c.kernel ∧ d.idx = c.idx) ∧
    (∀ k, k < 65536 → (s.kern k).state ≠ .retired → (t.kern k).ctx = (s.kern k).ctx) ∧
    ((∀ k, (s.kern k).ctx < 1024 ∧ (s.kern k).queue < 4096) → (∀ k a b n, i ≠ .bpset k a b n) → (∀ k n, i ≠ .bpclr k n) →
      ∀ n, n < 3584 → t.rcd .comparator n = s.rcd .comparator n)

/-- After reset: memory is in canonical form, the clock is 0 and the order clock 1 (R13, R219), and every record of the system range reads
zero but for the module's own number and its ports' peers, 0x3FF, the power limit 4,800, the telemetry interval 10 and the budgets 3,712
(R428). That every byte of memory reads 0 is the model's choice, the spec giving RAM no reset value (log 2); no crew, kernel, packet,
command, reduction or registration is there, and context 0 awaits the boot. (The model's readings and choices in this: log 5.) -/
def Obligations.ResetState : Prop :=
  State.reset.Inv ∧ State.reset.clock = 0 ∧ State.reset.order = 1 ∧ State.reset.power = .reset ∧
  (∀ a, Memory.byte State.reset.mem a = 0#8) ∧ State.reset.crews = [] ∧ State.reset.kernels = [] ∧ State.reset.peers = [] ∧
  State.reset.cmds = [] ∧ State.reset.reds = [] ∧ State.reset.regns = [] ∧
  State.reset.rcd .link 0 = 0x3FF * 2 ^ 320 ∧ (∀ p, p < 64 → State.reset.rcd .port p = 0x3FF * 2 ^ 64) ∧
  State.reset.rcd .power 0 = 4800 + 10 * 2 ^ 40 + 3712 * 2 ^ 64 + 3712 * 2 ^ 80 ∧
  (∀ p, p < 64 → ∀ f ∈ [Port.state, Port.en, Port.missed, Port.lastbeat, Port.crcerr, Port.retries], State.reset.fld .port p f = 0) ∧
  (∀ f ∈ [Lnk.epoch, Lnk.evbar], State.reset.fld .link 0 f = 0) ∧
  (∀ f ∈ [Pwr.held0, Pwr.held1, Pwr.trip0, Pwr.trip1], State.reset.fld .power 0 f = 0) ∧
  (∀ tab n, tab ≠ .port → tab ≠ .link → tab ≠ .power → State.reset.rcd tab n = 0)

/-! ## Crew arithmetic -/

/-- IADD, ISUB, IADDX, IMUL, IMULH and IMAD complete: each acting lane's result is the exact sum, difference or product of the numbers that
the type makes of the operands, modulo 2^w or clamped, after the latency of R184; the frame is that of Computes (R184, R185). IABS, IMIN,
IMAX, ICLAMP, ICMP, ISEL, CSUB, LEA, MOV and MOVI complete with the results of R185, R187 and R188. -/
def Obligations.IntegerOperations : Prop :=
  (
  ∀ (k : Ctl) (ty : Ty) (sat : Bool) (d a b c : Reg) (s : Src), ty.int4 = true →
    Computes (.iadd k ty sat d a s) (acting k) ty.regs d (slow ty 4 6)
        (fun x l => narrow ty sat (number ty (x.val ty.regs a l) + number ty (x.src ty true s l))) ∧
      Computes (.isub k ty sat d a s) (acting k) ty.regs d (slow ty 4 6)
        (fun x l => narrow ty sat (number ty (x.val ty.regs a l) - number ty (x.src ty true s l))) ∧
      Computes (.iaddx k ty sat d a b c) (acting k) ty.regs d (slow ty 4 6)
        (fun x l => narrow ty sat (number ty (x.val ty.regs a l) + number ty (x.val ty.regs b l) + number ty (x.val ty.regs c l))) ∧
      Computes (.imul k ty d a s) (acting k) ty.regs d (slow ty 6 12)
        (fun x l => (bits ty (x.val ty.regs a l) * bits ty (x.src ty true s l)).toNat) ∧
      Computes (.imulh k ty d a s) (acting k) ty.regs d (slow ty 6 12)
        (fun x l => narrow ty false (number ty (x.val ty.regs a l) * number ty (x.src ty true s l) / 2 ^ width ty)) ∧
      Computes (.imad k ty d a b c) (acting k) ty.regs d (slow ty 6 12)
        (fun x l => (bits ty (x.val ty.regs a l) * bits ty (x.val ty.regs b l) + bits ty (x.val ty.regs c l)).toNat)
  ) ∧
  (
  (∀ (k : Ctl) (ty : Ty) (sat : Bool) (d a : Reg), ty = .i32 ∨ ty = .i64 →
    Computes (.iabs k ty sat d a) (acting k) ty.regs d (slow ty 4 6) (fun x l => narrow ty sat |number ty (x.val ty.regs a l)|)) ∧
  (∀ (k : Ctl) (ty : Ty) (cond : Cond) (d a b c : Reg) (s : Src), ty.int4 = true →
    Computes (.imin k ty d a s) (acting k) ty.regs d (slow ty 4 6)
        (fun x l => narrow ty false (min (number ty (x.val ty.regs a l)) (number ty (x.src ty true s l)))) ∧
      Computes (.imax k ty d a s) (acting k) ty.regs d (slow ty 4 6)
        (fun x l => narrow ty false (max (number ty (x.val ty.regs a l)) (number ty (x.src ty true s l)))) ∧
      Computes (.iclamp k ty d a b c) (acting k) ty.regs d (slow ty 4 6)
        (fun x l => narrow ty false
          (min (max (number ty (x.val ty.regs a l)) (number ty (x.val ty.regs b l))) (number ty (x.val ty.regs c l)))) ∧
      (cond ≠ .ord → cond ≠ .uno → Computes (.icmp k ty cond d a s) (acting k) 1 d (slow ty 4 6)
        (fun x l => if holds cond (number ty (x.val ty.regs a l)) (number ty (x.src ty true s l)) then 0xFFFF_FFFF else 0))) ∧
  (∀ (k : Ctl) (ty : Ty) (d a b c : Reg) (s : Src), ty = .n32 ∨ ty = .n64 →
    Computes (.isel k ty d a b c) (acting k) ty.regs d (slow ty 4 6)
        (fun x l => if x.reg c.toNat l ≠ 0#32 then x.val ty.regs a l else x.val ty.regs b l) ∧
      Computes (.csub k ty d a s) (acting k) ty.regs d (slow ty 4 6)
        (fun x l => let p := bits ty (x.val ty.regs a l); let q := bits ty (x.src ty true s l)
          if q ≤ p then (p - q).toNat else p.toNat) ∧
      Computes (.mov k ty d a) (acting k) ty.regs d (slow ty 4 6) (fun x l => x.val ty.regs a l)) ∧
  (∀ (k : Ctl) (d a b : Reg) (n : BitVec 14), Computes (.lea k d a b n) (acting k) 2 d 4
    (fun x l => let y := if n.getLsbD 4 then (x.reg b.toNat l).zeroExtend 64 else (x.reg b.toNat l).signExtend 64
      (BitVec.ofNat 64 (x.val 2 a l) + y <<< (n.toNat % 16)).toNat)) ∧
  (∀ (k : Ctl) (d : Reg) (v : Word), Computes (.movi k d v) (acting k) 1 d 4 (fun _ _ => v.toNat))
  )

/-- SHL, SHR, SAR, SHF, AND, OR, XOR and ANDN complete: shifts of bit vectors by the whole count (a count of w or more shifts every bit out),
and the bitwise operations (R185). BFX, BFI, POPC, CLZ, BREV and PRMT complete: fields, counts and bit and byte permutations (R185, R186,
R187). -/
def Obligations.LogicAndBitFields : Prop :=
  (
  (∀ (k : Ctl) (ty : Ty) (d a : Reg) (s : Src), ty = .n32 ∨ ty = .n64 →
    Computes (.shl k ty d a s) (acting k) ty.regs d (slow ty 4 6)
        (fun x l => (bits ty (x.val ty.regs a l) <<< x.src ty false s l).toNat) ∧
      Computes (.shr k ty d a s) (acting k) ty.regs d (slow ty 4 6)
        (fun x l => (bits ty (x.val ty.regs a l) >>> x.src ty false s l).toNat) ∧
      Computes (.and k ty d a s) (acting k) ty.regs d (slow ty 4 6)
        (fun x l => (bits ty (x.val ty.regs a l) &&& bits ty (x.src ty true s l)).toNat) ∧
      Computes (.or k ty d a s) (acting k) ty.regs d (slow ty 4 6)
        (fun x l => (bits ty (x.val ty.regs a l) ||| bits ty (x.src ty true s l)).toNat) ∧
      Computes (.xor k ty d a s) (acting k) ty.regs d (slow ty 4 6)
        (fun x l => (bits ty (x.val ty.regs a l) ^^^ bits ty (x.src ty true s l)).toNat) ∧
      Computes (.andn k ty d a s) (acting k) ty.regs d (slow ty 4 6)
        (fun x l => (bits ty (x.val ty.regs a l) &&& ~~~bits ty (x.src ty true s l)).toNat)) ∧
  (∀ (k : Ctl) (ty : Ty) (d a : Reg) (s : Src), ty = .i32 ∨ ty = .i64 →
    Computes (.sar k ty d a s) (acting k) ty.regs d (slow ty 4 6)
      (fun x l => ((bits ty (x.val ty.regs a l)).sshiftRight (x.src ty false s l)).toNat)) ∧
  (∀ (k : Ctl) (d a b c : Reg), Computes (.shf k .n32 d a b c) (acting k) 1 d 4
    (fun x l => ((x.reg b.toNat l ++ x.reg a.toNat l) >>> min (x.reg c.toNat l).toNat 32).extractLsb' 0 32 |>.toNat))
  ) ∧
  (
  (∀ (k : Ctl) (ty : Ty) (d a : Reg) (s : Src), ty.int4 = true →
    Computes (.bfx k ty d a s) (acting k) ty.regs d (slow ty 4 6) (fun x l =>
      let p := x.src ty false s l % 256
      let n := x.src ty false s l / 256 % 256
      if n = 0 ∨ width ty ≤ p then 0
      else
        let field := (bits ty (x.val ty.regs a l)).extractLsb' p (min n (width ty - p))
        if ty = .i32 ∨ ty = .i64 then (field.signExtend (width ty)).toNat else field.toNat)) ∧
  (∀ (k : Ctl) (ty : Ty) (d a b c : Reg), ty = .n32 ∨ ty = .n64 →
    Computes (.bfi k ty d a b c) (acting k) ty.regs d (slow ty 4 6) (fun x l =>
        let f := (x.reg c.toNat l).toNat
        let p := f % 256
        let n := min (f / 256 % 256) (width ty - p)
        ((List.range (width ty)).map (fun i =>
          if (if p ≤ i ∧ i < p + n then (x.val ty.regs a l).testBit (i - p) else (x.val ty.regs b l).testBit i) then 2 ^ i else 0)).sum) ∧
      Computes (.popc k ty d a) (acting k) 1 d (slow ty 4 6)
        (fun x l => ((List.range (width ty)).filter (fun i => (x.val ty.regs a l).testBit i)).length) ∧
      Computes (.clz k ty d a) (acting k) 1 d (slow ty 4 6) (fun x l => (bits ty (x.val ty.regs a l)).clz.toNat) ∧
      Computes (.brev k ty d a) (acting k) ty.regs d (slow ty 4 6) (fun x l => (bits ty (x.val ty.regs a l)).reverse.toNat)) ∧
  (∀ (k : Ctl) (d a b c : Reg), Computes (.prmt k d a b c) (acting k) 1 d 4 (fun x l =>
    let v := x.reg b.toNat l ++ x.reg a.toNat l
    let byte (i : Nat) : BitVec 8 :=
      let t := (x.reg c.toNat l).extractLsb' (4 * i) 4
      let y := v.extractLsb' (8 * (t.toNat % 8)) 8
      if t.getLsbD 3 then (if y.getLsbD 7 then 0xFF#8 else 0#8) else y
    (byte 3 ++ byte 2 ++ byte 1 ++ byte 0).toNat))
  )

/-- FADD, FSUB, FMUL, FMA, FSCALE, FRND, FMIN, FMAX, FCMP and FCLASS complete; each element of the first five is the exact result of the
operands' values, rounded once in the instruction's direction, and FCMP gives ones where its condition holds (R189, R190, R191). FMIN and
FMAX give the smaller or larger operand, −0 below +0, the other operand where one is NaN and the canonical NaN where both are; FRND rounds
to an integer in its direction, with the sign of its operand, and leaves integers, zeros and infinities; FCLASS sets the one bit of its
operand's class (R190). DADD, DMUL, DFMA and DCMP complete after 8 clk and take their side's FP64 pipe for 4 clk (R184, R192). (The
model's readings and choices in this: log 23.) -/
def Obligations.FloatArithmetic : Prop :=
  (
  ∀ (k : Ctl) (ty : Ty) (r : Rnd) (cond : Cond) (d a b c : Reg) (s : Src), ty.vf = true →
    Computes (.fadd k ty r d a s) (acting k) 1 d 4 (fun x l => elementwise ty
        (fun p q _ => (format ty).round r ((exact ty p).add r (exact ty q))) (x.v32 a l) (x.src ty true s l) 0) ∧
      Computes (.fsub k ty r d a s) (acting k) 1 d 4 (fun x l => elementwise ty
        (fun p q _ => (format ty).round r ((exact ty p).add r (exact ty q).neg)) (x.v32 a l) (x.src ty true s l) 0) ∧
      Computes (.fmul k ty r d a s) (acting k) 1 d 4 (fun x l => elementwise ty
        (fun p q _ => (format ty).round r ((exact ty p).mul (exact ty q))) (x.v32 a l) (x.src ty true s l) 0) ∧
      Computes (.fma k ty r d a b c) (acting k) 1 d 4 (fun x l => elementwise ty
        (fun p q z => (format ty).round r (((exact ty p).mul (exact ty q)).add r (exact ty z))) (x.v32 a l) (x.v32 b l) (x.v32 c l)) ∧
      Computes (.fscale k ty r d a s) (acting k) 1 d 4 (fun x l => elementwise ty
        (fun p q _ => (format ty).round r (scaled (exact ty p) (intVal true (if ty = .f32 then 32 else 16) q))) (x.v32 a l) (x.src ty true s l) 0) ∧
      Computes (.frnd k ty r d a) (acting k) 1 d 4 (fun x l => elementwise ty (fun p _ _ => Alu.frnd1 (format ty) r p) (x.v32 a l) 0 0) ∧
      Computes (.fmin k ty d a s) (acting k) 1 d 4 (fun x l => elementwise ty
        (fun p q _ => Alu.fminmax1 (format ty) false p q) (x.v32 a l) (x.src ty true s l) 0) ∧
      Computes (.fmax k ty d a s) (acting k) 1 d 4 (fun x l => elementwise ty
        (fun p q _ => Alu.fminmax1 (format ty) true p q) (x.v32 a l) (x.src ty true s l) 0) ∧
      Computes (.fcmp k ty cond d a s) (acting k) 1 d 4 (fun x l => elementwise ty
        (fun p q _ => if condHolds cond ((exact ty p).cmp (exact ty q)) then (if ty = .f32 then 0xFFFF_FFFF else 0xFFFF) else 0)
        (x.v32 a l) (x.src ty true s l) 0) ∧
      Computes (.fclass k ty d a) (acting k) 1 d 4 (fun x l => elementwise ty (fun p _ _ => Alu.fclass1 (format ty) p) (x.v32 a l) 0 0)
  ) ∧
  (
  ∀ f ∈ [f16, bf16, f32], ∀ a b : Nat, a < 2 ^ f.width → b < 2 ^ f.width →
    let x := f.val a
    let y := f.val b
    let E := a / 2 ^ f.m % 2 ^ f.e
    let M := a % 2 ^ f.m
    let neg := a / 2 ^ (f.e + f.m) = 1
    (∀ mx, let z := Alu.fminmax1 f mx a b
      (x.isNan = true → y.isNan = true → some z = f.nan) ∧ (x.isNan = true → y.isNan = false → z = b) ∧
      (x.isNan = false → y.isNan = true → z = a) ∧
      (x.isNan = false → y.isNan = false →
        (z = a ∨ z = b) ∧ (∀ w ∈ [x, y], w.cmp (f.val z) ≠ some (if mx then .gt else .lt)) ∧
          (x.cmp y = some .eq → x.sign ≠ y.sign → (f.val z).sign = !mx))) ∧
    (∀ r, r ≠ .rs → let z := Alu.frnd1 f r a
      (x.isNan = true → some z = f.nan) ∧ (x.isInf = true → z = a) ∧
      (x.isNan = false → x.isInf = false →
        (f.val z).isNan = false ∧ (f.val z).isInf = false ∧ (f.val z).sign = x.sign ∧ (∀ i : Int, rat x = i → z = a) ∧
          ∃ i : Int, roundsTo r (rat x) i ∧ rat (f.val z) = i)) ∧
    (E = 2 ^ f.e - 1 → M ≠ 0 → Alu.fclass1 f a = 2 ^ 8) ∧
    (E = 2 ^ f.e - 1 → M = 0 → Alu.fclass1 f a = if neg then 2 ^ 0 else 2 ^ 7) ∧
    (E = 0 → M = 0 → Alu.fclass1 f a = if neg then 2 ^ 3 else 2 ^ 4) ∧
    (E = 0 → M ≠ 0 → Alu.fclass1 f a = if neg then 2 ^ 2 else 2 ^ 5) ∧
    (E ≠ 0 → E ≠ 2 ^ f.e - 1 → Alu.fclass1 f a = if neg then 2 ^ 1 else 2 ^ 6)
  ) ∧
  (
  ∀ (k : Ctl) (r : Rnd) (cond : Cond) (d a b c : Reg),
    ComputesFp64 (.dadd k r d a b) k 2 d (fun x l => f64.round r ((f64.val (x.v64 a l)).add r (f64.val (x.v64 b l)))) ∧
      ComputesFp64 (.dmul k r d a b) k 2 d (fun x l => f64.round r ((f64.val (x.v64 a l)).mul (f64.val (x.v64 b l)))) ∧
      ComputesFp64 (.dfma k r d a b c) k 2 d (fun x l =>
        f64.round r (((f64.val (x.v64 a l)).mul (f64.val (x.v64 b l))).add r (f64.val (x.v64 c l)))) ∧
      ComputesFp64 (.dcmp k cond d a b) k 1 d (fun x l =>
        if condHolds cond ((f64.val (x.v64 a l)).cmp (f64.val (x.v64 b l))) then 0xFFFF_FFFF else 0)
  )

/-- DOTF4, DOTF6, DOTF8, DOTH, DOTI8 and DOTI4 complete after 6 clk: one rounding of the exact sum of the accumulator and the products, scaled
by byte s of c in the first three; integer sums modulo 2^32 (R193, R194). (The model's readings and choices in this: log 22.) -/
def Obligations.DotProducts : Prop :=
  ∀ (k : Ctl) (fmt : Ty) (sc : BitVec 2) (d a b c : Reg),
    let scaled (x : Crew) (l : Nat) : Nat := f32.round .rn (sumNum (f32.val (x.v32 d l) ::
      (products fmt (x.v32 a l) (x.v32 b l)).map (fun p => (e8m0Val (x.v32 c l / 256 ^ sc.toNat % 256)).mul p)))
    let whole (x : Crew) (l : Nat) : Nat := (BitVec.ofInt 32 ((x.v32 c l : Int) + integerDot fmt (x.v32 a l) (x.v32 b l))).toNat
    Computes (.dotf4 k fmt sc d a b c) (acting k) 1 d 6 scaled ∧ Computes (.dotf6 k fmt sc d a b c) (acting k) 1 d 6 scaled ∧
      Computes (.dotf8 k fmt sc d a b c) (acting k) 1 d 6 scaled ∧
      Computes (.doth k fmt d a b c) (acting k) 1 d 6
        (fun x l => f32.round .rn (sumNum (f32.val (x.v32 c l) :: products fmt (x.v32 a l) (x.v32 b l)))) ∧
      Computes (.doti8 k fmt d a b c) (acting k) 1 d 6 whole ∧ Computes (.doti4 k fmt d a b c) (acting k) 1 d 6 whole

/-- CVT, PACK, UNPACK, MXSCALE and RAND complete; UNPACK with an element index past the word in an acting lane takes an operand fault of
operand 2 in the lowest such lane, before any effect (R196 to R200). A conversion to a float gives the canonical NaN of a NaN (zero where
the format has none), the infinity or, with .sat or without infinities, the largest value of an infinity, and of a finite value its one
rounding, which is exact where some pattern has the value; a float in its own format is unchanged. A float becomes an integer rounded by
the mode and clamped, 0 of a NaN; an integer becomes another by its low bits, or clamped with .sat. Conversion to E8M0 takes the exponent
of |x|, and MXSCALE the exponent of the larger operand less that of the largest element (R42, R43, R196, R199). -/
def Obligations.Conversions : Prop :=
  (
  ∀ (k : Ctl) (dt st : Ty) (r : Rnd) (sat : Bool) (d a b c : Reg),
    let lat := if dt.regs = 2 ∨ st.regs = 2 then 6 else 4
    Computes (.cvt k dt st r sat d a) (acting k) dt.regs d lat (fun x l => widen dt (convert dt st r sat 0 (x.val st.regs a l))) ∧
    Computes (.pack k dt st r sat d a b c) (acting k) 1 d 4 (fun x l =>
      (x.v32 d l * 2 ^ (2 * elemW dt) + convert dt st r sat (x.v32 c l / 2 ^ 16) (x.v32 b l) * 2 ^ elemW dt +
        convert dt st r sat (x.v32 c l % 2 ^ 16) (x.v32 a l)) % 2 ^ (elems dt * elemW dt)) ∧
    Computes (.mxscale k st d a b) (acting k) 1 d 4 (fun x l => Alu.mxscale st (x.v32 a l) (x.v32 b l)) ∧
    (∀ (s : State) (rid : Nat) (x : Crew), Issuing s rid x (.unpack k dt st r d a b) →
      Takes s rid x (blocksOf (.unpack k dt st r d a b)) [] [] →
      ((∀ l ∈ x.acting k.pred, x.v32 b l < elems st) →
        Issues (.unpack k dt st r d a b) s s rid x (goOn s rid x)
          { cells := cellsIn (x.acting k.pred) dt.regs d (fun l => convert dt st r false 0 (elemAt (elemW st) (x.v32 a l) (x.v32 b l))),
            due := some (s.clock + lat) } []) ∧
      (∀ l, l ∈ x.acting k.pred → elems st ≤ x.v32 b l → (∀ j ∈ x.acting k.pred, j < l → x.v32 b j < elems st) →
        Traps (.unpack k dt st r d a b) s rid x 0x018 2 0 l)) ∧
    Computes (.rand k d a b) (acting k) 4 d 12 (fun x l =>
      let r (n : Nat) : Nat := (x.reg n l).toNat
      let q := philox10 (r a.toNat) (r (a.toNat + 1)) [r b.toNat, r (b.toNat + 1), r (b.toNat + 2), r (b.toNat + 3)]
      q.getD 0 0 + q.getD 1 0 * 2 ^ 32 + q.getD 2 0 * 2 ^ 64 + q.getD 3 0 * 2 ^ 96)
  ) ∧
  (
  ∀ (dt st : Ty) (mode : Rnd) (sat : Bool) (rand x : Nat),
    let v := tyVal st x
    let z := convert dt st mode sat rand x
    let number (ty : Ty) (w : Nat) : Int := if intS ty then (BitVec.ofNat (intW ty) w).toInt else (BitVec.ofNat (intW ty) w).toNat
    let low : Int := if intS dt then -2 ^ (intW dt - 1) else 0
    let high : Int := if intS dt then 2 ^ (intW dt - 1) - 1 else 2 ^ intW dt - 1
    (∀ f, fmtOf dt = some f →
      (v.isNan = true → z = f.nan.getD 0) ∧
      (dt = st → x < 2 ^ f.width → v.isNan = false → z = x) ∧
      (dt ≠ st → v.isNan = false → z = f.round mode v sat rand) ∧
      (dt ≠ st → v.isInf = true →
        z = (if v.sign then 2 ^ (f.e + f.m) else 0) + (if f.inf && !sat then (2 ^ f.e - 1) * 2 ^ f.m else f.maxCode)) ∧
      (dt ≠ st → v.isNan = false → v.isInf = false → ∀ y, y < 2 ^ f.width → (f.val y).isNan = false → (f.val y).isInf = false →
        rat (f.val y) = rat v → (f.val y).sign = v.sign → z = y)) ∧
    (fmtOf dt = none → dt ≠ .e8m0 → mode ≠ .rs → fmtOf st ≠ none →
      (v.isNan = true → z = 0) ∧
      (v.isInf = true → z = (BitVec.ofInt (intW dt) (if v.sign then low else high)).toNat) ∧
      (v.isNan = false → v.isInf = false →
        ∃ i : Int, roundsTo mode (rat v) i ∧ z = (BitVec.ofInt (intW dt) (max low (min high i))).toNat)) ∧
    (fmtOf dt = none → dt ≠ .e8m0 → fmtOf st = none → st ≠ .e8m0 →
      z = (BitVec.ofInt (intW dt) (if sat then max low (min high (number st x)) else number st x)).toNat) ∧
    (dt = .e8m0 → st = .e8m0 → x < 256 → z = x) ∧
    (dt = .e8m0 → st ≠ .e8m0 → mode = .rz ∨ mode = .ru →
      (v.isNan = true → z = 0xFF) ∧ (v.isInf = true → z = 0xFE) ∧
      (v.isNan = false → v.isInf = false → rat v = 0 → z = 0) ∧
      (v.isNan = false → v.isInf = false → rat v ≠ 0 →
        ∃ k : Int, (mode = .rz → Log2Is |rat v| k) ∧ (mode = .ru → (2 : ℚ) ^ (k - 1) < |rat v| ∧ |rat v| ≤ (2 : ℚ) ^ k) ∧
          z = (max 0 (min 0xFE (k + 127))).toNat)) ∧
    (∀ emax : Int, (st, emax) ∈ [(Ty.e2m1, 2), (.e2m3, 2), (.e3m2, 4), (.e4m3, 8), (.e5m2, 15)] → ∀ b : Nat,
      let p := f32.val x
      let q := f32.val b
      let fin := p.isNan = false ∧ p.isInf = false ∧ q.isNan = false ∧ q.isInf = false
      (¬fin → Alu.mxscale st x b = 0xFF) ∧
      (fin → rat p = 0 → rat q = 0 → Alu.mxscale st x b = 0x7F) ∧
      (fin → rat p ≠ 0 ∨ rat q ≠ 0 →
        ∃ k : Int, Log2Is (max |rat p| |rat q|) k ∧ Alu.mxscale st x b = (max 0 (min 254 (k - emax + 127))).toNat))
  )

/-- FSINT, FCOST, FEXP2, FLOG2, FRCP, FRSQ, FSQRT and FTANH complete: with acting lanes, the result of each is outstanding on the side's
function unit, which holds the instruction, its lanes, the operand captured at issue and the lane groups to be served (R176, R201, R202);
with none there is no result. The function unit's results for special operands: a NaN gives the canonical NaN, and zeros, infinities,
negative values, integers, quarters, powers of two and large operands give what the table of R204 lists; FRCP rounds the quotient once
(R203, R204). RMAX, RSUM and RSTAT complete: every active lane receives the same statistic of the active lanes' values, after 8, 10 and 16
clk (R184, R205 to R208). SMXUP completes: the shares of the row and the row-empty flag are written together by the function unit, which
serves every lane group that holds an active lane; with an empty em it has no result and leaves the flag (R209, R210, R211). The
statistics of a row of active lanes: RMAX gives the largest value, +0 above −0 and the canonical NaN for a NaN; RSUM adds in the pairwise
tree of R207; RSTAT gives the mean and the variance by R208's steps, and NaNs and infinities as R208 says; a softmax follows the lines of
R209's table, with its row-empty flag (R206 to R209). (The model's readings and choices in this: log 11.) -/
def Obligations.FunctionUnitAndRows : Prop :=
  (
  ∀ (k : Ctl) (d a : Reg) (f : Word → Word) (i : Instr),
    FuOp i k d a f →
    ∀ (s : State) (rid : Nat) (c : Crew), Issuing s rid c i → Takes s rid c (blocksOf i) [] [] →
      let ls := c.acting k.pred
      Issues i s s rid c (goOn s rid c)
        { cells := ls.map (fun l => (32 * d.toNat + l, f (c.reg a.toNat l))),
          unit := if ls = [] then none else some
            { bits := (encodeBits i).getD 0#128, slot := c.slot, pc := c.pc, lanes := maskOf ls,
              a := ls.map (fun l => (l, c.reg a.toNat l)), groups := (List.range 4).filter (fun g => ls.any (fun l => l / 8 = g)),
              avail := s.clock + 1, smx := false, order := s.serial } } []
  ) ∧
  (
  ∀ x : Word,
    let v := f32.val x.toNat
    let q : ℚ := rat v
    let finite := v.isNan = false ∧ v.isInf = false
    (v.isNan = true → ∀ f ∈ [fsintOf, fcostOf, fexp2Of, flog2Of, frcpOf, frsqOf, fsqrtOf, ftanhOf], f x = 0x7FC0_0000#32) ∧
    (v.isInf = true → fsintOf x = 0x7FC0_0000#32 ∧ fcostOf x = 0x7FC0_0000#32 ∧
      fexp2Of x = (if v.sign then 0#32 else 0x7F80_0000#32) ∧ flog2Of x = (if v.sign then 0x7FC0_0000#32 else 0x7F80_0000#32) ∧
      frcpOf x = (if v.sign then 0x8000_0000#32 else 0#32) ∧ frsqOf x = (if v.sign then 0x7FC0_0000#32 else 0#32) ∧
      fsqrtOf x = (if v.sign then 0x7FC0_0000#32 else 0x7F80_0000#32) ∧
      ftanhOf x = (if v.sign then 0xBF80_0000#32 else 0x3F80_0000#32)) ∧
    (finite → q = 0 → fsintOf x = x ∧ flog2Of x = 0xFF80_0000#32 ∧ frcpOf x = x ||| 0x7F80_0000#32 ∧ frsqOf x = x ||| 0x7F80_0000#32 ∧
      fsqrtOf x = x ∧ ftanhOf x = x) ∧
    (finite → q < 0 → flog2Of x = 0x7FC0_0000#32 ∧ frsqOf x = 0x7FC0_0000#32 ∧ fsqrtOf x = 0x7FC0_0000#32) ∧
    (∀ k : Int, finite →
      (q = k → (q ≠ 0 → fsintOf x = 0#32) ∧ fcostOf x = 0x3F80_0000#32) ∧
      (q = k + 1 / 2 → fsintOf x = 0#32 ∧ fcostOf x = 0xBF80_0000#32) ∧
      (q = k + 1 / 4 → fsintOf x = 0x3F80_0000#32 ∧ fcostOf x = 0#32) ∧
      (q = k + 3 / 4 → fsintOf x = 0xBF80_0000#32 ∧ fcostOf x = 0#32) ∧
      (q = k → -149 ≤ k → k ≤ 127 → (f32.val (fexp2Of x).toNat).sign = false ∧ rat (f32.val (fexp2Of x).toNat) = (2 : ℚ) ^ k) ∧
      (q = (2 : ℚ) ^ k → rat (f32.val (flog2Of x).toNat) = k ∧ (k = 0 → flog2Of x = 0#32)) ∧
      (q = (4 : ℚ) ^ k → rat (f32.val (frsqOf x).toNat) = (2 : ℚ) ^ (-k))) ∧
    (finite → q < -149 → fexp2Of x = 0#32) ∧ (finite → 128 ≤ q → fexp2Of x = 0x7F80_0000#32) ∧
    (finite → 9 ≤ |q| → ftanhOf x = if v.sign then 0xBF80_0000#32 else 0x3F80_0000#32) ∧
    (∀ s n d e, v = .fin s n d e → n ≠ 0 → frcpOf x = BitVec.ofNat 32 (f32.round .rn (.fin s d n (-e))))
  ) ∧
  (
  ∀ (k : Ctl) (ty : Ty) (r : Rnd) (d a : Reg),
    Computes (.rmax k ty d a) active 1 d 8 (fun c _ => Alu.rmax ty (row c a)) ∧
      Computes (.rsum k ty r d a) active 1 d 10 (fun c _ => Alu.rsum ty r (row c a)) ∧
      Computes (.rstat k d a) active 2 d 16 (fun c _ => (Alu.rstat (row c a)).1 + (Alu.rstat (row c a)).2 * 2 ^ 32)
  ) ∧
  (
  ∀ (k : Ctl) (d a : Reg) (s : State) (rid : Nat) (c : Crew), Issuing s rid c (.smxup k d a) →
    Takes s rid c (blocksOf (.smxup k d a)) [] [] →
    let vals := c.active.map (fun l => (l, c.reg a.toNat l))
    (c.em = 0#32 → Issues (.smxup k d a) s s rid c (goOn s rid c) {} []) ∧
    (c.em ≠ 0#32 → ∃ j, j.smx = true ∧ j.groups = (List.range 4).filter (fun g => c.active.any (fun l => l / 8 = g)) ∧
      Issues (.smxup k d a) s s rid c (goOn s rid c)
        { cells := (softmax c.em vals).1.map (fun p => (32 * d.toNat + p.1, p.2)), row := some (softmax c.em vals).2, unit := some j } [])
  ) ∧
  (
  ∀ (r : List (Nat × Nat)), r ≠ [] → (∀ p ∈ r, p.1 < 32 ∧ p.2 < 2 ^ 32) → (r.map Prod.fst).Pairwise (· < ·) →
    let nan (p : Nat × Nat) : Bool := (f32.val p.2).isNan
    let inf (p : Nat × Nat) : Bool := (f32.val p.2).isInf
    ((∃ p ∈ r, nan p = true) → Alu.rmax .f32 r = 0x7FC0_0000 ∧ Alu.rstat r = (0x7FC0_0000, 0x7FC0_0000)) ∧
    ((∀ p ∈ r, nan p = false) → ∃ p ∈ r, Alu.rmax .f32 r = p.2 ∧ ∀ w : Nat × Nat, w ∈ r → (f32.val w.2).cmp (f32.val p.2) ≠ some .gt ∧
      ((f32.val w.2).cmp (f32.val p.2) = some .eq → (f32.val p.2).sign = true → (f32.val w.2).sign = true)) ∧
    (∀ ty, ty = .i32 ∨ ty = .n32 → ∃ p ∈ r, Alu.rmax ty r = p.2 ∧ ∀ w : Nat × Nat, w ∈ r → number ty w.2 ≤ number ty p.2) ∧
    (∀ mode, some (Alu.rsum .f32 mode r) =
      rowTree (fun x y => f32.round mode ((f32.val x).add mode (f32.val y))) (laneOf r) 5 0) ∧
    (∀ ty mode, ty = .i32 ∨ ty = .n32 → some (Alu.rsum ty mode r) = rowTree (fun x y => (x + y) % 2 ^ 32) (laneOf r) 5 0) ∧
    ((∀ p ∈ r, nan p = false) → (∃ p ∈ r, inf p = true) → (Alu.rstat r).2 = 0x7FC0_0000 ∧
      (Alu.rstat r).1 = if ∀ p ∈ r, inf p = true → (f32.val p.2).sign = false then 0x7F80_0000
        else if ∀ p ∈ r, inf p = true → (f32.val p.2).sign = true then 0xFF80_0000 else 0x7FC0_0000) ∧
    ((∀ p ∈ r, nan p = false ∧ inf p = false) → ∀ c, r.head?.map (fun p => f32.val p.2) = some c →
      let rd (x : Machine.Num) : Nat := f64.round .rn x
      let add (x y : Nat) : Nat := rd ((f64.val x).add .rn (f64.val y))
      let es := r.map (fun p => (p.1, rd ((f32.val p.2).add .rn c.neg)))
      let s1 := (rowTree add (laneOf es) 5 0).getD 0
      let s2 := (rowTree add (laneOf (es.map (fun p => (p.1, rd ((f64.val p.2).mul (f64.val p.2)))))) 5 0).getD 0
      let m := f64.val (rd ((f64.val s1).divNat r.length))
      let x := f64.val (rd ((f64.val (rd ((f64.val s2).divNat r.length))).add .rn (f64.val (rd (m.mul m))).neg))
      Alu.rstat r = (f32.round .rn (c.add .rn m), if x.cmp .zero = some .gt then f32.round .rn x else 0)) ∧
    (∀ em, let row := r.map (fun p => (p.1, BitVec.ofNat 32 p.2))
      let share (k : Nat) : Word := BitVec.ofNat 32 (f32.round .rn (.fin false 1 k 0))
      let fin := r.filter (fun p => !inf p)
      let tops := r.filter (fun p => decide (p.2 = 0x7F80_0000))
      ((∃ p ∈ r, nan p = true) → softmax em row = (row.map (fun p => (p.1, 0x7FC0_0000#32)), false)) ∧
      ((∀ p ∈ r, p.2 = 0xFF80_0000) → softmax em row = (row.map (fun p => (p.1, 0#32)), true)) ∧
      ((∀ p ∈ r, nan p = false) → tops ≠ [] →
        softmax em row = (row.map (fun p => (p.1, if p.2 = 0x7F80_0000#32 then share tops.length else 0#32)), false)) ∧
      ((∀ p ∈ r, nan p = false ∧ inf p = false) → (∀ p ∈ r, ∀ w ∈ r, rat (f32.val p.2) = rat (f32.val w.2)) →
        softmax em row = (row.map (fun p => (p.1, share r.length)), false)) ∧
      ((∀ p ∈ r, nan p = false) → tops = [] → fin ≠ [] →
        (softmax em row).2 = false ∧ (softmax em row).1.map Prod.fst = r.map Prod.fst ∧
          ∀ (i : Nat) (p : Nat × Nat) (w : Nat × Word), r[i]? = some p → (softmax em row).1[i]? = some w →
            (inf p = true → w.2 = 0#32) ∧ (fin.length = 1 → inf p = false → w.2 = 0x3F80_0000#32)))
  )

/-- The function unit's results and the shares of a softmax lie within the bounds of R203 and R209 of the real functions they stand for; FSQRT
is the nearest binary32 value. The bounds say no more than this: which value within them the unit gives is free (log 11). -/
def Obligations.FunctionBounds : Prop :=
  (∀ x : Word, (f32.val x.toNat).isNan = false → (f32.val x.toNat).isInf = false →
    let q : ℚ := rat (f32.val x.toNat)
    let y : ℝ := (q : ℝ)
    let val (w : Word) : ℝ := ((rat (f32.val w.toNat) : ℚ) : ℝ)
    let finite (w : Word) : Prop := (f32.val w.toNat).isNan = false ∧ (f32.val w.toNat).isInf = false
    (finite (fsintOf x) ∧ |val (fsintOf x) - Real.sin (2 * Real.pi * y)| ≤ (2 : ℝ) ^ (-22 : Int) ∧ |val (fsintOf x)| ≤ 1) ∧
    (finite (fcostOf x) ∧ |val (fcostOf x) - Real.cos (2 * Real.pi * y)| ≤ (2 : ℝ) ^ (-22 : Int) ∧ |val (fcostOf x)| ≤ 1) ∧
    (-149 ≤ q → q < 128 → WithinUlp 2 (fexp2Of x) ((2 : ℝ) ^ y)) ∧
    (1 / 2 ≤ q → q ≤ 2 → finite (flog2Of x) ∧ |val (flog2Of x) - Real.logb 2 y| ≤ (2 : ℝ) ^ (-22 : Int)) ∧
    (0 < q → q < 1 / 2 ∨ 2 < q → WithinUlp 2 (flog2Of x) (Real.logb 2 y)) ∧
    (0 < q → WithinUlp 1 (frsqOf x) (1 / Real.sqrt y)) ∧
    (0 < q → finite (fsqrtOf x) ∧ ∀ w, finite w → |val (fsqrtOf x) - Real.sqrt y| ≤ |val w - Real.sqrt y|) ∧
    (q ≠ 0 → WithinUlp 2 (ftanhOf x) (Real.tanh y))) ∧
  ∀ (em : LaneMask) (r : List (Nat × Word)), (r.map Prod.fst).Pairwise (· < ·) → (∀ p ∈ r, p.1 < 32) →
    (∀ p ∈ r, (f32.val p.2.toNat).isNan = false ∧ p.2 ≠ 0x7F80_0000#32) → (∃ p ∈ r, p.2 ≠ 0xFF80_0000#32) →
    let ex (p : Nat × Word) : ℝ := if p.2 = 0xFF80_0000#32 then 0 else Real.exp ((rat (f32.val p.2.toNat) : ℚ) : ℝ)
    ∀ (i : Nat) (p w : Nat × Word), r[i]? = some p → (softmax em r).1[i]? = some w →
      (f32.val w.2.toNat).sign = false ∧ rat (f32.val w.2.toNat) ≤ 1 ∧
        (p.2 ≠ 0xFF80_0000#32 → WithinUlp 2 w.2 (ex p / (r.map ex).sum))

/-- SHFL, BALLOT, VOTE, LRED, LSCAN, MATCH, BCAST and ELECT complete in the lanes of their membership mask, and take a membership fault where
it is not uniform or names a lane outside em (R179, R180; which mask the aux names is log 17); BCAST also where its source lane is not
uniform over a non-empty mask or not in it. -/
def Obligations.CrossLaneOperations : Prop :=
  ∀ (k : Ctl) (ty : Ty) (d a b c : Reg), ty = .n32 ∨ ty = .n64 ∨ ty = .i32 ∨ ty = .i64 →
    (∀ op, CrossLane (.shfl k op ty d a b c) c ty.regs d (slow ty 4 6) (fun x m l =>
      let j : Int := match op with
        | .idx => x.v32 b l
        | .up => (l : Int) - x.v32 b l
        | .down => (l : Int) + x.v32 b l
        | .xor => (l ^^^ x.v32 b l : Nat)
      if 0 ≤ j ∧ j.toNat ∈ m then x.val ty.regs a j.toNat else x.val ty.regs a l)) ∧
    CrossLane (.ballot k d a b) b 1 d 4 (fun x m _ => (maskOf (m.filter (fun j => x.reg a.toNat j ≠ 0#32))).toNat) ∧
    CrossLane (.vote k .all d a b) b 1 d 4 (fun x m _ => if ∀ j ∈ m, x.v32 a j ≠ 0 then 1 else 0) ∧
    CrossLane (.vote k .any d a b) b 1 d 4 (fun x m _ => if ∃ j ∈ m, x.v32 a j ≠ 0 then 1 else 0) ∧
    CrossLane (.vote k .uni d a b) b 1 d 4 (fun x m _ => if ∀ i ∈ m, ∀ j ∈ m, x.v32 a i = x.v32 a j then 1 else 0) ∧
    (∀ op, op ≠ .xchg → op ≠ .cas →
      CrossLane (.lred k op ty d a b) b ty.regs d (slow ty 8 12) (fun x m _ =>
        match m.map (x.val ty.regs a) with | [] => 0 | v :: vs => vs.foldl (fun y z => Alu.rmw op ty y z 0) v) ∧
      CrossLane (.lscan k op ty d a b) b ty.regs d (slow ty 8 12) (fun x m l =>
        match (m.filter (fun j => j ≤ l)).map (x.val ty.regs a) with | [] => 0 | v :: vs => vs.foldl (fun y z => Alu.rmw op ty y z 0) v)) ∧
    CrossLane (.laneMatch k .any ty d a b) b 1 d (slow ty 4 6)
      (fun x m l => (maskOf (m.filter (fun j => x.val ty.regs a j = x.val ty.regs a l))).toNat) ∧
    CrossLane (.laneMatch k .all ty d a b) b 1 d (slow ty 4 6)
      (fun x m _ => if ∀ i ∈ m, ∀ j ∈ m, x.val ty.regs a i = x.val ty.regs a j then (maskOf m).toNat else 0) ∧
    CrossLane (.elect k d a) a 1 d 4 (fun _ m l => if ∀ j ∈ m, l ≤ j then 1 else 0) ∧
    (∀ (s : State) (rid : Nat) (x : Crew) (m : LaneMask), Issuing s rid x (.bcast k ty d a b c) →
      Takes s rid x (blocksOf (.bcast k ty d a b c)) [] [] → Members x c m → x.em ≠ 0#32 →
      (∀ j, j ∈ lanesOf m → (∀ l ∈ lanesOf m, x.v32 b l = j) →
        Issues (.bcast k ty d a b c) s s rid x (goOn s rid x)
          { cells := cellsIn (lanesOf m) ty.regs d (fun _ => x.val ty.regs a j), due := some (s.clock + slow ty 4 6) } []) ∧
      (m = 0#32 → Issues (.bcast k ty d a b c) s s rid x (goOn s rid x) {} []) ∧
      (m ≠ 0#32 → (∀ j, j ∈ lanesOf m → ¬∀ l ∈ lanesOf m, x.v32 b l = j) →
        Traps (.bcast k ty d a b c) s rid x 0x015 m.toNat 0 x.low)) ∧
    (∀ (s : State) (rid : Nat) (x : Crew), Issuing s rid x (.bcast k ty d a b c) → Takes s rid x (blocksOf (.bcast k ty d a b c)) [] [] →
      (x.em = 0#32 → Issues (.bcast k ty d a b c) s s rid x (goOn s rid x) {} []) ∧
      (x.em ≠ 0#32 → (∀ m, ¬Members x c m) → Traps (.bcast k ty d a b c) s rid x 0x015 (x.reg c.toNat x.low).toNat 0 x.low))

/-! ## Control, traps, special registers -/

/-- NOP and PREF go on with no other effect; CUT goes on and closes the stroke it joined; YIELD goes on, acts as with the yield bit set and
asks for its crew to be swapped out (R155, R237, R243). LGET and LSET, where in every active lane the lane named is below 32 and the
register below the allotment: LGET reads the register of the other lane; after LSET each register of a lane that some active lane names
receives the value of the highest active lane naming it, and no other register is written (R169). A lane or register out of range is an
operand fault, one past the allotment a register-range fault, in the lowest such lane, before any effect. (The model's readings and
choices in this: log 24.) -/
def Obligations.HintsAndOtherLanes : Prop :=
  (
  ∀ (s : State) (rid : Nat) (c : Crew) (k : Ctl),
    (Issuing s rid c (.nop k) → Takes s rid c [] [] [] → Issues (.nop k) s s rid c (goOn s rid c) {} []) ∧
    (∀ h a off, Issuing s rid c (.pref k h a off) → Takes s rid c [] [] [] →
      Issues (.pref k h a off) s s rid c (goOn s rid c) {} []) ∧
    (Issuing s rid c (.cut k) → Takes s rid c [] [] [] →
      Issues (.cut k) s s rid c (goOn s rid c) {} [] ∧
      ∃ t d, exec (.cut k) s = .next t ∧ t.crews.get? rid = some d ∧ ∀ st ∈ d.strokes, st.closed ≠ none) ∧
    (Issuing s rid c (.yieldHint k) → Takes s rid c [] [] [] →
      Issues (.yieldHint k) s s rid c (goOn s rid c) {} [] ∧
      ∃ t d, exec (.yieldHint k) s = .next t ∧ t.crews.get? rid = some d ∧ d.yielded = true ∧ d.yieldOut = true)
  ) ∧
  (
  ∀ (s : State) (rid : Nat) (c : Crew) (k : Ctl) (d a b : Reg),
    let lane (l : Nat) := (c.reg a.toNat l).toNat
    let reg (l : Nat) := (c.reg b.toNat l).toNat
    let fine (l : Nat) : Prop := lane l < 32 ∧ reg l < 256 ∧ reg l < c.allot
    (Issuing s rid c (.lget k d a b) → Takes s rid c (blocksOf (.lget k d a b)) [] [] → (∀ l ∈ c.active, fine l) →
      Issues (.lget k d a b) s s rid c (goOn s rid c)
        { cells := cellsIn c.active 1 d (fun l => (c.reg (reg l) (lane l)).toNat), due := some (s.clock + 4) } []) ∧
    (Issuing s rid c (.lset k d a b) → Takes s rid c ((c.active.map (fun l => reg l / 8)).dedup) [] [] → (∀ l ∈ c.active, fine l) →
      ∃ cells : Tbl Word, (∀ r m, m < 32 →
          Tbl.get? cells (32 * r + m) =
            (c.active.reverse.find? (fun l => decide (reg l = r ∧ lane l = m))).map (fun l => c.reg d.toNat l)) ∧
        Issues (.lset k d a b) s s rid c (goOn s rid c) { cells := cells, due := some (s.clock + 4) } []) ∧
    (∀ i l, i = .lget k d a b ∨ i = .lset k d a b → Issuing s rid c i → l ∈ c.active → (∀ j ∈ c.active, j < l → fine j) →
      (32 ≤ lane l → Traps i s rid c 0x018 1 0 l) ∧
      (lane l < 32 → 256 ≤ reg l → Traps i s rid c 0x018 2 0 l) ∧
      (lane l < 32 → reg l < 256 → c.allot ≤ reg l → Traps i s rid c 0x012 (reg l) 0 l))
  )

/-- BRA and CALL: the static target is checked first, taken or not (R54); a marked one is where the crew goes when the condition passes (CALL
writes the return word in every active lane after 2 clk), the next instruction otherwise; a condition that is neither takes a divergence
fault (R59, R151, R156, R158). BRX goes to a uniform, marked offset below 4,096 when its condition passes; with an empty em it takes the
value of lane 0; its value and target are judged only then (R54, R151, R157). RET takes its slot and offset from a return word when its
condition passes, of lane 0 with an empty em (R151): within the current slot as an ordinary instruction, into another as a bounding one
(R158, R214). A condition or a word that is not uniform is a divergence fault; a set bit in 31:16 or a slot at or above the kernel's slots
an operand fault, but for slot 15 from within it (R395); a slot that is not full a segment-absent trap; a target that is not marked a
branch-target fault. (The model's readings and choices in this: log 26, 35, 81.) -/
def Obligations.BranchesAndReturns : Prop :=
  (
  ∀ (s : State) (rid : Nat) (c : Crew) (k : Ctl) (d : Reg) (off : BitVec 14) (i : Instr), i = .bra k off ∨ i = .call k d off →
    Issuing s rid c i → Takes s rid c (blocksOf i) [] [] →
    let t : Int := (c.pc : Int) + 4 * off.toInt
    (s.marked rid c c.slot t = false → Traps i s rid c 0x013 (c.slot * 2 ^ 12 + (t % 4096).toNat) 0 c.low) ∧
    (s.marked rid c c.slot t = true →
      (¬CondTrue c k.pred → ¬CondFalse c k.pred → Traps i s rid c 0x014 0 0 c.low) ∧
      (CondFalse c k.pred → Issues i s s rid c (goOn s rid c) {} []) ∧
      (CondTrue c k.pred → i = .bra k off → Issues i s s rid c { c with pc := t.toNat } {} []) ∧
      (CondTrue c k.pred → i = .call k d off → Issues i s s rid c { c with pc := t.toNat }
        { cells := inActive c d (c.slot * 2 ^ 12 + s.nextPc rid c % 2 ^ 12), due := some (s.clock + 2) } []))
  ) ∧
  (
  ∀ (s : State) (rid : Nat) (c : Crew) (k : Ctl) (a : Reg), Issuing s rid c (.brx k a) → Takes s rid c [] [] [] →
    (CondFalse c k.pred → Issues (.brx k a) s s rid c (goOn s rid c) {} []) ∧
    (¬CondTrue c k.pred → ¬CondFalse c k.pred → Traps (.brx k a) s rid c 0x014 0 0 c.low) ∧
    (CondTrue c k.pred → c.em ≠ 0#32 → (∀ v, ¬Uniform c 1 a v) → Traps (.brx k a) s rid c 0x014 0 0 c.low) ∧
    (∀ v, CondTrue c k.pred → Gives c 1 a v →
      (4096 ≤ v → Traps (.brx k a) s rid c 0x018 1 0 c.low) ∧
      (v < 4096 → s.marked rid c c.slot v = false → Traps (.brx k a) s rid c 0x013 (c.slot * 2 ^ 12 + v) 0 c.low) ∧
      (v < 4096 → s.marked rid c c.slot v = true → Issues (.brx k a) s s rid c { c with pc := v } {} []))
  ) ∧
  (
  ∀ (s : State) (rid : Nat) (c : Crew) (k : Ctl) (a : Reg), Issuing s rid c (.ret k a) →
    (Takes s rid c [] [] [] →
      (CondFalse c k.pred → Issues (.ret k a) s s rid c (goOn s rid c) {} []) ∧
      (¬CondTrue c k.pred → ¬CondFalse c k.pred → Traps (.ret k a) s rid c 0x014 0 0 c.low) ∧
      (CondTrue c k.pred → c.em ≠ 0#32 → (∀ v, ¬Uniform c 1 a v) → Traps (.ret k a) s rid c 0x014 0 0 c.low)) ∧
    (∀ v, CondTrue c k.pred → Gives c 1 a v →
      let slot : Nat := v / 2 ^ 12 % 16
      let off : Nat := v % 2 ^ 12
      let fine : Prop := v < 2 ^ 16 ∧ (slot < Lch.slots.get (s.kern c.kernel).launch ∨ slot = 15 ∧ c.slot = 15)
      let full : Prop := (s.codeSlot (ridBay rid) c.kernel slot).code? ≠ none
      (v / 2 ^ 12 = c.slot → Takes s rid c [] [] [] →
        (¬fine → Traps (.ret k a) s rid c 0x018 1 0 c.low) ∧
        (fine → ¬full → Traps (.ret k a) s rid c 0x017 slot 0 c.low) ∧
        (fine → full → s.marked rid c slot off = false → Traps (.ret k a) s rid c 0x013 (slot * 2 ^ 12 + off) 0 c.low) ∧
        (fine → s.marked rid c slot off = true → Issues (.ret k a) s s rid c { c with slot := slot, pc := off } {} [])) ∧
      (v / 2 ^ 12 ≠ c.slot → c.strokes = [] →
        (¬fine → TrapsNow (.ret k a) s rid c 0x018 1 0 c.low) ∧
        (fine → ¬full → TrapsNow (.ret k a) s rid c 0x017 slot 0 c.low) ∧
        (fine → full → s.marked rid c slot off = false → TrapsNow (.ret k a) s rid c 0x013 (slot * 2 ^ 12 + off) 0 c.low) ∧
        (fine → s.marked rid c slot off = true → Finishes (.ret k a) s s rid { c with slot := slot, pc := off } [])))
  )

/-- BDIV splits the active lanes: it pushes em, the lanes taken, the marked reconvergence point and the slot, and goes on with the lanes
taken, or to the reconvergence point where none is; at depth 96 it is a stack overflow (R159). From depth 32 on, the entry that leaves the
top 32 spills to its place in the crew's trap frame (R152). JOIN at the reconvergence point of the top entry, in its slot, pops it and
restores the saved lanes that have not exited; with none left the crew goes to the next entry's reconvergence point. Anywhere else, and
with an empty stack, it is a join mismatch (R154, R160). EXIT removes the active lanes that pass its predicate from em and adds them to
the exited lanes; with lanes left it goes on, or to the reconvergence point of the top entry where em is empty; with none left its stroke
closes (R154, R161). (The model's readings and choices in this: log 32, 81.) -/
def Obligations.Divergence : Prop :=
  (
  ∀ (s : State) (rid : Nat) (c : Crew) (k : Ctl) (a : Reg) (off : BitVec 14), Issuing s rid c (.bdiv k a off) → Takes s rid c [] [] [] →
    let t : Int := (c.pc : Int) + 4 * off.toInt
    ∀ taken : LaneMask, (∀ l < 32, taken.getLsbD l = (c.em.getLsbD l && decide (c.reg a.toNat l ≠ 0#32))) →
    (s.marked rid c c.slot t = false → Traps (.bdiv k a off) s rid c 0x013 (c.slot * 2 ^ 12 + (t % 4096).toNat) 0 c.low) ∧
    (s.marked rid c c.slot t = true → 96 ≤ c.stack.length → Traps (.bdiv k a off) s rid c 0x019 0 0 c.low) ∧
    (s.marked rid c c.slot t = true → ∀ m, (c.stack.length < 32 ∧ m = s.mem ∨ 32 ≤ c.stack.length ∧ c.stack.length < 96 ∧ ∃ e pa,
        c.stack[31]? = some e ∧ s.frameSlot (c.ctx s) ((s.frameVa rid c + 0xA00 + 16 * (c.stack.length - 32)) % 2 ^ 64) = .ok pa ∧ inSys pa = false ∧
          m = Memory.writes s.mem pa (stackEntry e)) →
      Issues (.bdiv k a off) s { s with mem := m } rid c
        { c with em := taken, stack := { slot := c.slot, rpc := t.toNat, path := taken, saved := c.em } :: c.stack,
                 pc := if taken = 0#32 then t.toNat else s.nextPc rid c } {} [])
  ) ∧
  (
  ∀ (s : State) (rid : Nat) (c : Crew) (k : Ctl), Issuing s rid c (.join k) → Takes s rid c [] [] [] →
    (c.stack = [] → Traps (.join k) s rid c 0x01A 0xFFFF_FFFF 0 c.low) ∧
    (∀ e rest, c.stack = e :: rest → (e.rpc ≠ c.pc ∨ e.slot ≠ c.slot) → Traps (.join k) s rid c 0x01A e.rpc 0 c.low) ∧
    (∀ e rest, c.stack = e :: rest → e.rpc = c.pc → e.slot = c.slot →
      let em := e.saved &&& ~~~c.exited
      (em ≠ 0#32 ∨ rest = [] → Issues (.join k) s s rid c { c with em := em, stack := rest, pc := s.nextPc rid c } {} []) ∧
      (∀ e' rest', em = 0#32 → rest = e' :: rest' →
        Issues (.join k) s s rid c { c with em := em, stack := rest, pc := e'.rpc, slot := e'.slot } {} []))
  ) ∧
  (
  ∀ (s : State) (rid : Nat) (c : Crew) (k : Ctl) (ls : LaneMask), Issuing s rid c (.exit k) → Takes s rid c [] [] [] →
    (∀ l < 32, ls.getLsbD l = (c.em.getLsbD l && c.passes k.pred l)) →
    let x := { c with exited := c.exited ||| ls, em := c.em &&& ~~~ls }
    (x.exited = 0xFFFF_FFFF#32 → Issues (.exit k) s s rid c { x with pc := s.nextPc rid c } {} [] ∧
      ∃ t d, exec (.exit k) s = .next t ∧ t.crews.get? rid = some d ∧ ∀ st ∈ d.strokes, st.closed ≠ none) ∧
    (x.exited ≠ 0xFFFF_FFFF#32 → (x.em ≠ 0#32 ∨ c.stack = []) → Issues (.exit k) s s rid c { x with pc := s.nextPc rid c } {} []) ∧
    (∀ e rest, x.exited ≠ 0xFFFF_FFFF#32 → x.em = 0#32 → c.stack = e :: rest →
      Issues (.exit k) s s rid c { x with pc := e.rpc, slot := e.slot } {} [])
  )

/-- TRAP, with no stroke in flight, takes a software trap of kind 0x01B when its condition passes and goes on when it does not; BKPT takes a
breakpoint trap of kind 0x01E. The frame names the instruction after them and carries the code (R162). A trap of a crew with no stroke in
flight, whose frame can be written, outside a handler: outstanding results of fixed latency are written first, in their order (the model's
reading, log 34); the frame is written at its place with the crew's state as it stood (R174 to R176), outstanding function-unit results
are taken back, every flag and the row-empty flag clear, and the handler begins at its entry in kernel slot 0, a breakpoint of a crew with
a resident debug handler in slot 15, with the elected lane alone active, whose v0:1 hold the frame's address, v2 the kind and v3 the aux
value. The stack, the exited lanes, the tag, the allotment and every other register stay (R172, R173, R395). Within a handler a trap is a
double trap: no frame is written, a fault-log record of kind 0x01C is, and the crew becomes trapped. In a kernel without a handler the
frame is written, a record of the trap's kind, PC, address and identity follows, and the crew is trapped. A trapped crew leaves its side's
sets and keeps its registers and allotment (R135, R172). RTE in a handler, with a frame that can be read and passes the checks of R177:
the elected lane's v0 to v3 come back from the frame, em becomes the frame's em within the path mask and without exited lanes, slot and PC
the frame's (or, with em empty, the top entry's), handler-active clears, and the stroke closes; each replay entry's instruction is
outstanding again in its lanes, with the operand captured, under its own flag, which is set. While these would exceed the limits of R147
and R201, or a flag of theirs is held, it waits (log 95). An uncorrectable error in the frame is a context fault of cause 4 (R80). Outside
one it is illegal. (The model's readings and choices in this: log 26, 30, 32.) -/
def Obligations.TrapsAndReturns : Prop :=
  (
  ∀ (s : State) (rid : Nat) (c : Crew) (k : Ctl) (n : BitVec 14),
    (Bounding s rid c (.trap k n) →
      (CondTrue c k.pred → exec (.trap k n) s =
        .next ({ begun s rid c with fresh := s.fresh + 2 }.takeTrap rid ⟨0x01B, 0, 0, c.low, n.toNat, s.nextPc rid c, c.slot⟩)) ∧
      (CondFalse c k.pred → Finishes (.trap k n) s s rid (goOn s rid c) [])) ∧
    (Issuing s rid c (.bkpt k n) → exec (.bkpt k n) s =
      .next ({ s with fresh := s.fresh + 1 }.takeTrap rid ⟨0x01E, 0, 0, c.low, n.toNat, s.nextPc rid c, c.slot⟩))
  ) ∧
  (
  (∀ (c : Crew) (n : Nat),
    ((∀ p ∈ c.pends, p.due = none ∨ p.fu ≠ none) → c.settled n = c) ∧
    (∀ i p, c.pends[i]? = some p → p.due ≠ none → p.fu = none → p.race = [] →
      (∀ j q, j < i → c.pends[j]? = some q → q.due = none ∨ q.fu ≠ none) → c.settled n = (landed c i p 0xFFFF_FFFF#32).settled n)) ∧
  (∀ (s : State) (rid : Nat) (c : Crew) (t : Trap) (pa slot entry : Nat), s.crews.get? rid = some c → c.strokes = [] → c.handler = false →
    t.lane < 32 →
    let va := s.frameVa rid c
    let x := { c with mma := c.leftMma, drain := none }.settled s.fresh
    let w := (s.setCrew rid (fun _ => x)).makeWritable (c.ctx s) va
    let debugs := x.debug = true ∧ (t.kind = 0x070 ∨ t.kind = 0x01E)
    w.crews.get? rid = some x → w.frameSlot (c.ctx s) va = .ok pa → inSys pa = false → inSys (pa + 0xA00) = false → x.fuPends.length ≤ 8 →
    (¬debugs ∧ slot = 0 ∧ (w.writeFrame rid x t pa).handlerOf (ridBay rid) c.kernel = some entry ∨
      debugs ∧ slot = 15 ∧ ∃ ws lines g, (w.codeSlot (ridBay rid) c.kernel 15).code? = some (ws, lines) ∧ firstFrom ws lines 0 = some g ∧
        entry = 4 * g) →
    ∃ d bs, (s.takeTrap rid t).crews.get? rid = some d ∧ d.handler = true ∧ d.elected = t.lane ∧ d.em = 1#32 <<< t.lane ∧ d.slot = slot ∧
      d.pc = entry ∧ d.flags = 0#12 ∧ d.rowEmpty = false ∧ d.stack = c.stack ∧ d.exited = c.exited ∧ d.tag = c.tag ∧ d.allot = c.allot ∧
      d.wait = .none ∧ d.trap = none ∧ (∀ p ∈ d.pends, p.fu = none ∧ p.flag = none) ∧
      d.reg 0 t.lane = BitVec.ofNat 32 va ∧ d.reg 1 t.lane = BitVec.ofNat 32 (va / 2 ^ 32) ∧ d.reg 2 t.lane = BitVec.ofNat 32 t.kind ∧
      d.reg 3 t.lane = BitVec.ofNat 32 t.aux ∧
      (∀ r l, l < 32 → (l ≠ t.lane ∨ 4 ≤ r) → d.reg r l = x.reg r l) ∧ FrameOf w rid x t bs ∧
      (s.takeTrap rid t).mem = Memory.writes (Memory.writes w.mem pa bs) (pa + 0xA00) (c.stack.reverse.flatMap stackEntry))
  ) ∧
  (
  (∀ (s : State) (rid : Nat) (c : Crew) (t : Trap), s.crews.get? rid = some c → c.strokes = [] →
    let y := { c with mma := c.leftMma, drain := none }
    let u := s.setCrew rid (fun _ => y)
    let va := s.frameVa rid c
    let x := y.settled s.fresh
    let w := (s.setCrew rid (fun _ => x)).makeWritable (c.ctx s) va
    let rec_ (kind : Nat) : FaultRec := ⟨kind, false, false, bayCode (ridBay rid), s.handle c.kernel, c.idx, t.pc, t.addr, c.srStroke⟩
    (c.handler = true → s.takeTrap rid t = (u.faultLog (c.ctx s) (rec_ 0x01C)).becomeTrapped rid t.kind) ∧
    (∀ pa, c.handler = false → ¬(x.debug = true ∧ (t.kind = 0x070 ∨ t.kind = 0x01E)) → w.frameSlot (c.ctx s) va = .ok pa →
      inSys pa = false → inSys (pa + 0xA00) = false →
      (w.writeFrame rid x t pa).handlerOf (ridBay rid) c.kernel = none →
      ∃ v : State, v = { w.writeFrame rid x t pa with crews := v.crews, bays := v.bays, mmaFlags := v.mmaFlags } ∧
        s.takeTrap rid t = (v.faultLog (c.ctx s) (rec_ t.kind)).becomeTrapped rid t.kind)) ∧
  (∀ (u : State) (rid kind : Nat) (x : Crew), u.crews.get? rid = some x →
    ∃ d, (u.becomeTrapped rid kind).crews.get? rid = some d ∧ d.life = .trapped ∧ d.regs = x.regs ∧ d.allot = x.allot ∧ d.em = x.em ∧
      (∀ y ∈ ((u.becomeTrapped rid kind).side (ridBay rid) (ridSide rid)).active, y ≠ some (ridSlot rid)) ∧
      ridSlot rid ∉ ((u.becomeTrapped rid kind).side (ridBay rid) (ridSide rid)).pending)
  ) ∧
  (
  (∀ (c : Crew) (f : List Byte) (es : List (Instr × Nat × LaneMask × (Nat → Word))), frameCheck c f = .ok es →
    es.length = slice 267 264 (bytesAt f 0 64) ∧ es.length ≤ 8 ∧ c.stack.length = slice 263 256 (bytesAt f 0 64) ∧
    ∀ n i at_ m op, es[n]? = some (i, at_, m, op) → (∃ k d a g, FuOp i k d a g) ∧
      bytesAt f (0x80 + 160 * n) 16 = ((encodeBits i).getD 0#128).toNat ∧ at_ = bytesAt f (0x80 + 160 * n + 16) 4 ∧
      m.toNat = bytesAt f (0x80 + 160 * n + 20) 4 ∧ ∀ l, l < 32 → (op l).toNat = bytesAt f (0x80 + 160 * n + 32 + 4 * l) 4) ∧
  (∀ (s : State) (rid : Nat) (c : Crew) (k : Ctl), Issuing s rid c (.rte k) →
    (c.handler = false → Traps (.rte k) s rid c 0x011 0 0 c.low) ∧
    (∀ h es, c.handler = true → c.executing = none → s.mayBegin rid c = none → c.heldReady = false → c.elected < 32 →
      s.xlat (ridBay rid) (c.ctx s) (s.frameVa rid c) .read = .ok h →
      let f := (List.range 0x580).map (fun j => s.under (s.ownWrites c) (h.pa + j))
      let hd := bytesAt f 0 64
      let em := BitVec.ofNat 32 (slice 351 320 hd) &&& ~~~c.exited &&& c.path
      let live := es.filter (fun e => decide (e.2.2.1 ≠ 0#32))
      frameCheck c f = .ok es →
      s.frameSpoilt (h.pa / 4096 * 4096) = false →
      (slice 305 305 hd = 1 ∨ s.marked rid c (slice 303 300 hd) (slice 299 288 hd) = true) →
      let room : Prop := c.fuOut + es.length ≤ 8 ∧ s.fuHeld rid + es.length ≤ 16 ∧
        ∀ e ∈ es, ∀ x, flagOf e.1 = some x → c.flags.getLsbD x.val = false
      (¬room → Sleeps (.rte k) s s rid c .retry) ∧
      (room → ∃ (t : State) (d : Crew) (new : List Pend), exec (.rte k) s = .next t ∧ t.crews.get? rid = some d ∧ d.handler = false ∧ d.em = em ∧ d.stack = c.stack ∧ t.mem = s.mem ∧
        (em ≠ 0#32 ∨ c.stack = [] → d.slot = slice 303 300 hd ∧ d.pc = slice 299 288 hd) ∧
        (∀ e rest, em = 0#32 → c.stack = e :: rest → d.slot = e.slot ∧ d.pc = e.rpc) ∧
        (∀ j, j < 4 → (d.reg j c.elected).toNat = bytesAt f (0x40 + 4 * j) 4) ∧
        (∀ r l, l < 32 → (l ≠ c.elected ∨ 4 ≤ r) → d.reg r l = c.reg r l) ∧
        (∀ st ∈ d.strokes, st.closed ≠ none) ∧ d.pends = c.pends ++ new ∧ new.length = live.length ∧
        ∀ (n : Nat) (i : Instr) (at_ : Nat) (m : LaneMask) (op : Nat → Word), live[n]? = some (i, at_, m, op) → ∃ (p : Pend) (j : Fu), new[n]? = some p ∧ p.fu = some j ∧ p.due = none ∧ p.rowEmpty = none ∧
          p.flag = flagOf i ∧ (∀ x, flagOf i = some x → d.flags.getLsbD x.val = true) ∧ j.bits = (encodeBits i).getD 0#128 ∧
          j.slot = slice 15 12 at_ ∧ j.pc = slice 11 0 at_ ∧ j.lanes = m ∧ j.a = (lanesOf m).map (fun l => (l, op l)) ∧ j.smx = false ∧
          ∀ k' r a g, FuOp i k' r a g → p.cells = (lanesOf m).map (fun l => (32 * r.toNat + l, g (op l))))) ∧
    (∀ h, c.handler = true → s.xlat (ridBay rid) (c.ctx s) (s.frameVa rid c) .read = .ok h → s.frameSpoilt (h.pa / 4096 * 4096) = true →
      Runs (.rte k) s (fun t => t = { s.ctxFault (c.ctx s) 4 with crews := t.crews } ∧
        ∃ d, t.crews.get? rid = some d ∧ d.wait = .ctxFault ∧ d.handler = true ∧ d.regs = c.regs)))
  )

/-- EMRD, SREAD, EMWR and SWRITE: em into every active lane, a special register as it stands at issue into the acting lanes, a uniform value
under the path mask into em, a uniform value into the tag (R165 to R168). The special registers read the state that the manual names: em,
the lane's number, the crew's index, its kernel's handle, its bay with the die in bit 8, the truss in bits 7:4 and the bay in bits 3:0
(R18), the device clock and its nanoseconds at 2 ns for 3 clk, the progress of a resumed MMA or the last one, the last sequence number,
the flags with the row-empty flag in bit 12, the allotment and the tag (R13, R65, R210). (The model's readings and choices in this: log
33, 63.) -/
def Obligations.MaskAndSpecialRegisters : Prop :=
  (
  ∀ (s : State) (rid : Nat) (c : Crew) (k : Ctl) (d a : Reg),
    (Issuing s rid c (.emrd k d) → Takes s rid c (blocksOf (.emrd k d)) [] [] →
      Issues (.emrd k d) s s rid c (goOn s rid c) { cells := inActive c d c.em.toNat, due := some (s.clock + 2) } []) ∧
    (∀ sr, Issuing s rid c (.sread k d sr) → Takes s rid c (blocksOf (.sread k d sr)) [] [] →
      Issues (.sread k d sr) s s rid c (goOn s rid c)
        { cells := cellsIn (c.acting k.pred) sr.regs d (s.sreg rid c sr), due := some (s.clock + 2) } []) ∧
    (Issuing s rid c (.emwr k a) → Takes s rid c [] [] [] →
      (c.em = 0#32 → Issues (.emwr k a) s s rid c (goOn s rid c) {} []) ∧
      (c.em ≠ 0#32 → (∀ v, ¬Uniform c 1 a v) → Traps (.emwr k a) s rid c 0x014 0 0 c.low) ∧
      (∀ v : Word, Uniform c 1 a v.toNat →
        let x := v &&& c.path &&& ~~~c.exited
        (x ≠ 0#32 → Issues (.emwr k a) s s rid c { goOn s rid c with em := x } {} []) ∧
        (x = 0#32 → c.stack = [] → Traps (.emwr k a) s rid c 0x015 v.toNat 0 c.low) ∧
        (∀ e rest, x = 0#32 → c.stack = e :: rest →
          Issues (.emwr k a) s s rid c { c with em := 0#32, pc := e.rpc, slot := e.slot } {} []))) ∧
    (Issuing s rid c (.swrite k a) → Takes s rid c [] [] [] →
      (c.em = 0#32 → Issues (.swrite k a) s s rid c (goOn s rid c) {} []) ∧
      (c.em ≠ 0#32 → (∀ v, ¬Uniform c 1 a v) → Traps (.swrite k a) s rid c 0x014 0 0 c.low) ∧
      (∀ v : Word, Uniform c 1 a v.toNat → s.tagDoom (c.ctx s) v = none →
        Issues (.swrite k a) s s rid c { goOn s rid c with tag := v } {} []))
  ) ∧
  (
  ∀ (s : State) (rid : Nat) (c : Crew) (l : Nat),
    s.sreg rid c .em l = c.em.toNat ∧ s.sreg rid c .lane l = l ∧ s.sreg rid c .crew l = c.idx ∧
      s.sreg rid c .kernel l = s.handle c.kernel ∧ s.sreg rid c .clock l = s.clock ∧ s.sreg rid c .time l = s.clock * 2 / 3 ∧
      s.sreg rid c .stroke l = c.srStroke ∧ s.sreg rid c .allot l = c.allot ∧ s.sreg rid c .tag l = c.tag.toNat ∧
      s.sreg rid c .progress l = c.progress ∧
      (∀ f : Fin 12, (s.sreg rid c .flags l).testBit f.val = c.flags.getLsbD f.val) ∧
      (s.sreg rid c .flags l).testBit 12 = c.rowEmpty ∧ s.sreg rid c .flags l < 2 ^ 13 ∧
      ∀ die truss bay side slot, truss < 14 → bay < 16 → side < 2 → slot < 32 → rid = 64 * (224 * die + 16 * truss + bay) + 32 * side + slot →
        s.sreg rid c .bay l = 2 ^ 8 * die + 2 ^ 4 * truss + bay
  )

/-- ALLOT of a uniform n that is a multiple of 8 from 8 to 256 and above d: a shrink, or a grow whose blocks are free on the side where no
other grow waits, is done at once and every active lane receives n; registers kept read as before, those at or above the smaller allotment
read 0. Any other grow waits (R163). A non-uniform n is a divergence fault, a bad n an operand fault of operand 1, n at or below d one of
operand 0; an empty em has no effect. FJMP to a slot that the crew may name: into a full slot at a marked, uniform offset it goes there; a
slot that is not full is a segment-absent trap, an unmarked offset a branch-target fault (R128). CFETCH of a segment that can be fetched
into a slot not being filled makes the slot filling, leaves a command for the copy engine and goes on (R126). CINV empties such a slot and
goes on (R127). (The model's readings and choices in this: log 46, 81.) -/
def Obligations.AllotmentAndCode : Prop :=
  (
  ∀ (s : State) (rid : Nat) (c : Crew) (k : Ctl) (d a : Reg), Bounding s rid c (.allot k d a) →
    let b := (begun s rid c).dropLatch rid
    (c.em = 0#32 → Finishes (.allot k d a) s s rid (goOn s rid c) []) ∧
    (c.em ≠ 0#32 → (∀ v, ¬Uniform c 1 a v) → TrapsNow (.allot k d a) s rid c 0x014 0 0 c.low) ∧
    (∀ n, Uniform c 1 a n →
      (n % 8 ≠ 0 ∨ n < 8 ∨ 256 < n → TrapsNow (.allot k d a) s rid c 0x018 1 0 c.low) ∧
      (n % 8 = 0 → 8 ≤ n → n ≤ 256 → n ≤ d.toNat → TrapsNow (.allot k d a) s rid c 0x018 0 0 c.low) ∧
      (n % 8 = 0 → 8 ≤ n → n ≤ 256 → d.toNat < n →
        (n ≤ c.allot ∨ b.growFirst (ridBay rid) (ridSide rid) = none ∧ (n - c.allot) / 8 ≤ b.blocksFree (ridBay rid) (ridSide rid) →
          ∃ x, x = { goOn s rid c with allot := n, regs := x.regs } ∧
            (∀ r l, l < 32 → x.reg r l = if r < min c.allot n then c.reg r l else 0#32) ∧
            Finishes (.allot k d a) s (s.dropLatch rid) rid x (inActive c d n)) ∧
        (c.allot < n → (b.growFirst (ridBay rid) (ridSide rid) ≠ none ∨ b.blocksFree (ridBay rid) (ridSide rid) < (n - c.allot) / 8) →
          Sleeps (.allot k d a) s (s.dropLatch rid) rid c (.allot n s.serial d.toNat))))
  ) ∧
  (
  ∀ (s : State) (rid : Nat) (c : Crew) (k : Ctl) (a b : Reg) (n : BitVec 14),
    (∀ v, Bounding s rid c (.fjmp k a n) → (Uniform c 1 a v ∨ c.em = 0#32 ∧ c.val 1 a 0 = v) → s.slotOk c (n.toNat % 16) true = true →
      ((s.codeSlot (ridBay rid) c.kernel (n.toNat % 16)).code? = none → TrapsNow (.fjmp k a n) s rid c 0x017 (n.toNat % 16) 0 c.low) ∧
      ((s.codeSlot (ridBay rid) c.kernel (n.toNat % 16)).code? ≠ none → s.marked rid c (n.toNat % 16) v = false →
        TrapsNow (.fjmp k a n) s rid c 0x013 (n.toNat % 16 * 2 ^ 12 + v % 4096) 0 c.low) ∧
      (s.marked rid c (n.toNat % 16) v = true → Finishes (.fjmp k a n) s s rid { c with slot := n.toNat % 16, pc := v } [])) ∧
    (∀ bk, Bounding s rid c (.cinv k n) → c.em ≠ 0#32 → s.slotOk c (n.toNat % 16) false = true →
      (s.bay (ridBay rid)).kerns.get? c.kernel = some bk → (∀ p q r, s.codeSlot (ridBay rid) c.kernel (n.toNat % 16) ≠ .filling p q r) →
      ∃ t d, exec (.cinv k n) s = .next t ∧ t.crews.get? rid = some d ∧ d.pc = s.nextPc rid c ∧ d.regs = c.regs ∧ t.mem = s.mem ∧
        t.codeSlot (ridBay rid) c.kernel (n.toNat % 16) = .empty ∧
        ∀ m, m ≠ n.toNat % 16 → t.codeSlot (ridBay rid) c.kernel m = s.codeSlot (ridBay rid) c.kernel m) ∧
    (∀ bk va bva pa l, Bounding s rid c (.cfetch k a b n) → Uniform c 2 a va → Uniform c 2 b bva →
      s.slotOk c (n.toNat % 16) false = true → c.addrCheck' va 128 c.low = none → (begun s rid c).fetchBar rid c bva = .ok pa →
      (begun s rid c).crewRange rid c va (128 * (n.toNat / 16 % 32 + 1)) .fetch = .ok l →
      (begun s rid c).regRefused ⟨pa, c.ctx s, bva, c.kernel, .cmd s.serial⟩ = none →
      (s.bay (ridBay rid)).kerns.get? c.kernel = some bk → (∀ p q r, s.codeSlot (ridBay rid) c.kernel (n.toNat % 16) ≠ .filling p q r) →
      ∃ t d m, exec (.cfetch k a b n) s = .next t ∧ t.crews.get? rid = some d ∧ d.pc = s.nextPc rid c ∧ d.regs = c.regs ∧ t.mem = s.mem ∧
        t.codeSlot (ridBay rid) c.kernel (n.toNat % 16) = .filling va (n.toNat / 16 % 32 + 1) (some m.id) ∧
        t.cmds = s.cmds ++ [m] ∧ m.kind = .cfetch (n.toNat % 16) (n.toNat / 16 % 32 + 1) ∧ m.stage = .waiting ∧ m.bar = some pa)
  )

/-! ## Memory and sums -/

/-- LD, ST and RED in the lanes that act, where every lane's access passes its checks. LD reads memory under the crew's own writes, or the
base die on a memory-side line, with variable latency; ST leaves one store in each lane and RED one update, in ascending lane order, for
the commit (R227, R228, R235, R237, R239). The checks of a lane's access and their order: canonical, aligned to the width, local,
translated and permitted, not poisoned. The lowest failing lane decides, before any effect; a translation fault waits for the crew's
strokes, and with none in flight joins the fault queue at once (R235, R236, R249, R257, R287). (The model's readings and choices in this:
log 36, 37.) -/
def Obligations.LoadsAndStores : Prop :=
  (
  ∀ (s : State) (rid : Nat) (c : Crew) (k : Ctl) (d a b : Reg) (off : Word) (h : Hint) (hit : Nat → Hit),
    let ls := c.acting k.pred
    let va := c.addr a off
    (∀ w sx, Issuing s rid c (.ld k w sx h d a off) → Reached s rid c va w.bytes .read ls hit →
      Takes s rid c (blocksOf (.ld k w sx h d a off)) [] [] →
      Issues (.ld k w sx h d a off) s (walked s rid c va ls hit) rid c (goOn s rid c)
        { cells := cellsIn ls w.regs d (fun l => loaded w sx
            (if (hit l).memside then s.num (hit l).pa w.bytes else s.underNum (s.ownWrites c) (hit l).pa w.bytes)) } []) ∧
    (∀ w, Issuing s rid c (.st k w h a b off) → Reached s rid c va w.bytes .write ls hit →
      Takes s rid c [] (addLines [] (ls.map (fun l => lineOf (hit l).pa))) [] →
      Issues (.st k w h a b off) s (walked s rid c va ls hit) rid c (goOn s rid c) {}
        (ls.map (fun l => .store (va l) (hit l).pa (toBytes w.bytes (c.val w.regs b l)) (hit l).memside))) ∧
    (∀ op ty, Issuing s rid c (.red k op ty a b off) → Reached s rid c va (tyBytes ty) .write ls hit →
      Takes s rid c [] (linesOf ls hit) [] →
      Issues (.red k op ty a b off) s (walked s rid c va ls hit) rid c (goOn s rid c) {}
        (ls.map (fun l => .red (va l) (hit l).pa op ty (c.val ty.regs b l) (hit l).memside)))
  ) ∧
  (
  ∀ (s : State) (rid : Nat) (c : Crew) (i : Instr) (k : Ctl) (d a b x : Reg) (off : Word) (n : Nat) (need : Need),
    ((∃ w sx h, i = .ld k w sx h d a off ∧ n = w.bytes ∧ need = .read) ∨ (∃ w h, i = .st k w h a b off ∧ n = w.bytes ∧ need = .write) ∨
      (∃ op ty, (i = .atom k op ty d a b x off ∨ i = .red k op ty a b off) ∧ n = tyBytes ty ∧ need = .write)) →
    Issuing s rid c i → ∀ l ∈ c.acting k.pred, (∀ j ∈ c.acting k.pred, j < l → ∃ h, s.checkAccess rid c (c.addr a off j) n need j = .ok h) →
    let va := c.addr a off l
    (canonical va = false → Traps i s rid c 0x032 0 va l) ∧
    (canonical va = true → va % n ≠ 0 → Traps i s rid c 0x020 n va l) ∧
    (canonical va = true → va % n = 0 → isPeer va = true → Traps i s rid c 0x021 0 va l) ∧
    (canonical va = true → va % n = 0 → isPeer va = false →
      (∀ h, s.xlat (ridBay rid) (c.ctx s) va need = .ok h → lineOf h.pa ∈ s.poisoned → Traps i s rid c 0x042 (h.pa % 128 / 8) va l) ∧
      (∀ kind copy, s.xlat (ridBay rid) (c.ctx s) va need = .fault kind copy →
        Runs i s (fun t => ∃ y, t.crews.get? rid = some y ∧ y.fault = some ⟨kind, va, decide (need = .write), copy, l⟩ ∧
          y.wait = .strokes ∧ y.pc = c.pc ∧ y.regs = c.regs ∧ t.mem = s.mem ∧ (∀ st ∈ y.strokes, st.closed ≠ none) ∧
          (c.strokes = [] → t.agenda.head? = some (.event (.crew rid) .faultQueueJoin)))))
  )

/-- ATOM: each lane that acts receives the value that the lanes below it left, and one that writes leaves a store of the new value: for the
commit on cached lines, at once where a line is memory-side (R228, R232, R235, R238). The new value of a read-modify-write of old value m
and operand v (R238): sums modulo 2^w of integers and rounded once of floats, the smaller and the larger under the type's signedness,
bitwise operations, exchange, and the third operand for a .cas that finds what it expects. (The model's readings and choices in this: log
36.) -/
def Obligations.Atomics : Prop :=
  (
  ∀ (s : State) (rid : Nat) (c : Crew) (k : Ctl) (op : RmwOp) (ty : Ty) (d a b x : Reg) (off : Word) (hit : Nat → Hit),
    let i : Instr := .atom k op ty d a b x off
    let ls := c.acting k.pred
    let va := c.addr a off
    let v := c.val ty.regs b
    let y := c.val ty.regs x
    (Issuing s rid c i → Reached s rid c va (tyBytes ty) .write ls hit → (∀ l ∈ ls, (hit l).memside = false) →
      Takes s rid c (blocksOf i) (linesOf ls hit) [] →
      let sees := atomSees s op ty hit v y ls (s.ownWrites c)
      Issues i s (walked s rid c va ls hit) rid c (goOn s rid c) { cells := cellsIn ls ty.regs d sees }
        ((ls.filter (fun l => atomWrites op (sees l) (v l))).map
          (fun l => .store (va l) (hit l).pa (toBytes (tyBytes ty) (Alu.rmw op ty (sees l) (v l) (y l))) false))) ∧
    (Bounding s rid c i → Reached s rid c va (tyBytes ty) .write ls hit → Reached (begun s rid c) rid c va (tyBytes ty) .write ls hit →
      ls ≠ [] → (∀ l ∈ ls, (hit l).memside = true ∧ inSys (hit l).pa = false) →
      let sees := atomSees s op ty hit v y ls []
      Finishes i s
        { s with mem := (ls.filter (fun l => atomWrites op (sees l) (v l))).foldl (fun m l =>
            Memory.writes m (hit l).pa (toBytes (tyBytes ty) (Alu.rmw op ty (sees l) (v l) (y l)))) s.mem }
        rid (goOn s rid c) (cellsIn ls ty.regs d sees))
  ) ∧
  (
  ∀ (ty : Ty) (m v x : Nat), m < 2 ^ (32 * ty.regs) → v < 2 ^ (32 * ty.regs) →
    (ty = .i32 ∨ ty = .n32 ∨ ty = .i64 ∨ ty = .n64 →
      Alu.rmw .add ty m v x = narrow ty false (number ty m + number ty v) ∧
      number ty (Alu.rmw .min ty m v x) = min (number ty m) (number ty v) ∧
      number ty (Alu.rmw .max ty m v x) = max (number ty m) (number ty v)) ∧
    (ty = .f32 ∨ ty = .f64 → Alu.rmw .add ty m v x = (format ty).round .rn ((exact ty m).add .rn (exact ty v))) ∧
    Alu.rmw .and ty m v x = m &&& v ∧ Alu.rmw .or ty m v x = m ||| v ∧ Alu.rmw .xor ty m v x = m ^^^ v ∧ Alu.rmw .xchg ty m v x = v ∧
    Alu.rmw .cas ty m m x = x
  )

/-- MWAIT goes on where its condition holds of memory and sleeps where it does not: on a monitor for a cached line outside recovery mode, else
in the wait table of the line's home slice or, with the table full, to look again (R240, R241). MFENCE leaves its markers for the commit
(R242). XFENCE goes on where no posted access of its crew is outstanding and sleeps where one is (R383). (The model's readings and choices
in this: log 42.) -/
def Obligations.WaitsAndFences : Prop :=
  (
  ∀ (s : State) (rid : Nat) (c : Crew) (k : Ctl) (cond : Cond) (ty : Ty) (a b : Reg) (off : Word),
    let i : Instr := .mwait k cond ty a b off
    (Bounding s rid c i → c.em = 0#32 → Finishes i s s rid (goOn s rid c) []) ∧
    (Bounding s rid c i → c.em ≠ 0#32 → ((∀ v, ¬Uniform c 2 a v) ∨ ∀ v, ¬Uniform c ty.regs b v) → TrapsNow i s rid c 0x014 0 0 c.low) ∧
    (∀ p x h, Bounding s rid c i → Uniform c 2 a p → Uniform c ty.regs b x →
      (begun s rid c).checkAccess rid c (c.addr a off c.low) (tyBytes ty) .read c.low = .ok h →
      ty = .i32 ∨ ty = .n32 ∨ ty = .i64 ∨ ty = .n64 →
      let m := s.num h.pa (tyBytes ty)
      (holds cond (number ty m) (number ty x) = true → Finishes i s s rid (goOn s rid c) []) ∧
      (holds cond (number ty m) (number ty x) = false → ∃ how, Sleeps i s s rid c (.mwait h.pa ty cond x how) ∧
        (h.memside = false ∧ s.cfg (c.ctx s) Ctx.recover ≠ 1 → how = .monitor) ∧
        (h.memside = true ∨ s.cfg (c.ctx s) Ctx.recover = 1 → how = .entry ∨ how = .recheck s.clock))) ∧
    (∀ eng peer, Issuing s rid c (.mfence k eng peer) → Takes s rid c [] [] [] →
      Issues (.mfence k eng peer) s s rid c (goOn s rid c) {} [.mfence eng peer])
  ) ∧
  (
  ∀ (s : State) (rid : Nat) (c : Crew) (k : Ctl), Bounding s rid c (.xfence k) →
    (s.posted c.kernel c.idx = false → Finishes (.xfence k) s s rid (goOn s rid c) []) ∧
    (s.posted c.kernel c.idx = true → Sleeps (.xfence k) s s rid c .fence)
  )

/-- SUMRD reads its elements of a sum region under the crew's own writes and converts them; SUMRED leaves one binary64 update in each lane for
the commit, a binary32 operand widened exactly; SUMQ gives every active lane the number of updates in flight to the region; more than 8
lines in one SUMRED are an operand fault (R284, R299, R300, R303). SUMRD.clr reads and clears the elements of its lanes at once, lane
after lane. SUMZ, with no reduction of the crew in flight to the range, sets its lines to +0 and takes their poison away. SUMDRAIN sends
the 16 elements of each of 256 lines as reductions to the matching elements of the destination, clearing them behind it with .clr; with
reductions of its crew to the source in flight it waits for them, and does not check again (R287, R298, R299, R301, R302). SUMDECL.decl
enters a region with its scope, base, length and the place of the crew's bay in the first free entry of its context's table; .free, with
no update to the region in a stroke, empties its entry and goes on when none is in flight, or waits; .tl binds a timeline for the batches
from the open one on (R281, R295, R298). (The model's readings and choices in this: log 62, 64.) -/
def Obligations.SumRegions : Prop :=
  (
  ∀ (s : State) (rid : Nat) (c : Crew) (k : Ctl) (d a b : Reg) (off : Word),
    let ls := c.acting k.pred
    let va := c.addr a off
    (∀ op hit, Issuing s rid c (.sumrd k op d a off) → Takes s rid c (blocksOf (.sumrd k op d a off)) [] [] →
      (∀ l ∈ ls, s.sumrdLane rid c (va l) (8 * sumrdCount op) l = .ok (hit l)) →
      Issues (.sumrd k op d a off) s (walked s rid c va ls hit) rid c (goOn s rid c)
        { cells := cellsIn ls (sumrdRegs op) d (fun l =>
            converted op (fun j => s.underNum (s.ownWrites c) ((hit l).pa + 8 * j) 8) (c.reg d.toNat l).toNat) } []) ∧
    (∀ (op : SumRedOp) (pa : Nat → Nat), Issuing s rid c (.sumred k op a b off) → (∀ l ∈ ls, s.sumLane rid c (va l) 8 l = .ok (pa l)) →
      let lines := addLines [] (ls.map (fun l => lineOf (pa l)))
      (8 < lines.length → Traps (.sumred k op a b off) s rid c 0x018 1 0 c.low) ∧
      (lines.length ≤ 8 → Takes s rid c [] [] lines →
        Issues (.sumred k op a b off) s s rid c (goOn s rid c) {}
          (ls.map (fun l => .sumred (va l) (pa l)
            (match op with | .f64 => c.val 2 b l | .f32 => f64.round .rn (f32.val (c.reg b.toNat l).toNat)))))) ∧
    (∀ v r, Issuing s rid c (.sumq k d a) → Takes s rid c (blocksOf (.sumq k d a)) [] [] → Uniform c 2 a v → canonical v = true →
      isPeer v = false → s.regionOf (c.ctx s) v 1 = some r →
      Issues (.sumq k d a) s s rid c (goOn s rid c)
        { cells := inActive c d (min (s.reds.filter (fun q => decide (q.ctx = c.ctx s ∧ r.base ≤ q.va ∧ q.va < r.base + 128 * r.lines))).length
            (2 ^ 32 - 1)) } [])
  ) ∧
  (
  ∀ (s : State) (rid : Nat) (c : Crew) (k : Ctl) (d a b : Reg) (off : Word),
    let u := begun s rid c
    (∀ (op : SumRdOp) (pa : Nat → Nat), Bounding s rid c (.sumrdClr k op d a off) →
      (∀ l ∈ c.acting k.pred, u.sumLane rid c (c.addr a off l) (8 * sumrdCount op) l = .ok (pa l) ∧ inSys (pa l) = false) →
      let ls := c.acting k.pred
      let n := 8 * sumrdCount op
      let then_ (l : Nat) : State := { s with mem := zeroed s.mem n ((ls.filter (fun j => decide (j < l))).map pa) }
      (∀ l ∈ ls, ∀ j, j < n → inSys (pa l + j) = false) →
      Finishes (.sumrdClr k op d a off) s { s with mem := zeroed s.mem n (ls.map pa) } rid (goOn s rid c)
        (cellsIn ls (sumrdRegs op) d (fun l => converted op (fun j => (then_ l).num (pa l + 8 * j) 8) (c.reg d.toNat l).toNat))) ∧
    (∀ va n r l, Bounding s rid c (.sumz k a b) → Uniform c 2 a va → Uniform c 1 b n → 0 < n → n < 2 ^ 24 →
      c.addrCheck' va 128 c.low = none → u.sumCheck rid c va (128 * n) c.low = .ok (r, l) → s.ownReds c va (128 * n) = [] →
      (∀ q ∈ pieceLines l, inSys q.2 = false) →
      ∃ s', s' = { s with mem := s'.mem, poisoned := s'.poisoned, told := s'.told } ∧
        (∀ p, Memory.byte s'.mem p = if ∃ q ∈ pieceLines l, q.2 ≤ p ∧ p < q.2 + 128 then 0#8 else Memory.byte s.mem p) ∧
        (∀ x, x ∈ s'.poisoned ↔ x ∈ s.poisoned ∧ ∀ q ∈ pieceLines l, x ≠ lineOf q.2) ∧
        Finishes (.sumz k a b) s s' rid (goOn s rid c) []) ∧
    (∀ clr src dst from_ to_, Bounding s rid c (.sumdrain k clr a b) → Uniform c 2 a src → Uniform c 2 b dst →
      (c.drain = some ⟨src, dst, from_, to_⟩ ∨ c.drain = none ∧ c.addrCheck' src 128 c.low = none ∧ c.addrCheck' dst 128 c.low = none ∧
        u.drainSource rid c clr src = .ok from_ ∧ u.drainDest rid c dst = .ok to_) →
      (s.ownReds c src 32768 ≠ [] → Sleeps (.sumdrain k clr a b) s s rid c .reds ∧ Runs (.sumdrain k clr a b) s (fun t =>
        ∃ y, t.crews.get? rid = some y ∧ y.drain = some ⟨src, dst, from_, to_⟩)) ∧
      (s.ownReds c src 32768 = [] → (∀ q ∈ from_, lineOf q.2 ∉ s.poisoned ∧ ∀ j, j < 128 → inSys (q.2 + j) = false) →
      (∀ q ∈ to_, ∀ j, j < 128 → lineOf (q.2 + j) ∉ s.poisoned) → (from_.map Prod.snd).Pairwise (fun p q => p + 128 ≤ q ∨ q + 128 ≤ p) →
      GoesOn (.sumdrain k clr a b) s rid c (fun t => (∀ y, t.crews.get? rid = some y → y.drain = none) ∧
        t.mem = (if clr then zeroed s.mem 8 ((from_.zip to_).flatMap (fun p => (List.range 16).map (fun e => p.1.2 + 8 * e))) else s.mem) ∧
        t.reds = s.reds ++ (from_.zip to_).flatMap (fun p => (List.range 16).map (fun e => drainRed s rid c p.2 e (s.num (p.1.2 + 8 * e) 8))))))
  ) ∧
  (
  ∀ (s : State) (rid : Nat) (c : Crew) (k : Ctl) (a b : Reg) (va : Nat), Uniform c 2 a va → canonical va = true → isPeer va = false →
    let ctx := c.ctx s
    let u := begun s rid c
    (∀ scope lines e, Bounding s rid c (.sumdeclDecl k a b) → Uniform c 1 b (256 * lines + scope) → scope ≤ 3 → 0 < lines →
      va % (if scope = 0 then 4096 else 128) = 0 → va + 128 * lines ≤ 2 ^ 55 →
      (scope = 0 → lines % 32 = 0 ∧ lines ≤ 8192 ∧ ∀ p, va ≤ p → p < va + 128 * lines → (s.pinOf ctx (ridBay rid) p).isSome) →
      (∀ r ∈ s.regions ctx, r.base + 128 * r.lines ≤ va ∨ va + 128 * lines ≤ r.base) →
      e < 64 → Reg.valid.get (s.regionRaw (64 * ctx + e)) = 0 → (∀ f, f < e → Reg.valid.get (s.regionRaw (64 * ctx + f)) ≠ 0) →
      ∃ rec_, Reg.valid.get rec_ = 1 ∧ Reg.scope.get rec_ = scope ∧ Reg.base.get rec_ = va / 128 ∧ Reg.nlines.get rec_ = lines ∧
        Reg.place.get rec_ = scopePlace scope (ridBay rid) % 2 ^ 9 ∧
        Finishes (.sumdeclDecl k a b) s (s.setRegion (64 * ctx + e) rec_) rid (goOn s rid c) []) ∧
    (∀ r, Bounding s rid c (.sumdeclFree k a) → (s.regions ctx).find? (fun r => decide (r.base = va)) = some r →
      (∀ p ∈ u.crews, ∀ st ∈ p.2.strokes, st.sumsInto va r.lines = false) →
      let s' := s.setRegion (64 * ctx + r.entry) (Reg.valid.set (s.regionRaw (64 * ctx + r.entry)) 0)
      (u.freeDone ctx va r.lines = true → Finishes (.sumdeclFree k a) s s' rid (goOn s rid c) []) ∧
      (u.freeDone ctx va r.lines = false → Sleeps (.sumdeclFree k a) s s' rid c (.freeing va r.lines))) ∧
    (∀ h, Bounding s rid c (.sumdeclTl k a) → va % 32 = 0 → u.xlat (ridBay rid) ctx va .write = .ok h → Pte.m h.leaf = false →
      Pte.kv h.leaf = false → Bar.mode.get (s.num h.pa 32) = 2 →
      let r : Regn := ⟨h.pa, ctx, va, c.kernel, .bound c.idx false⟩
      s.regRefused r = none → ((s.kern c.kernel).keepOf c.idx).mbinds = [] →
      Finishes (.sumdeclTl k a) s
        ((s.register r).setKern c.kernel (fun y => y.setKeep c.idx (fun e => { e with mbinds := [(h.pa, e.mcount + 1)] })))
        rid (goOn s rid c) [])
  )

/-- MBATCH closes the open batch of reductions and gives its number to every active lane. MMA needs all 32 lanes and is checked and handed to
the matrix pipe with its operands' places; with another em it is a full-crew fault whose aux is em; one that has passed its checks waits
for the pipe again without them (R16, R294, R296). (The model's readings and choices in this: log 12.) -/
def Obligations.MatrixInstructions : Prop :=
  ∀ (s : State) (rid : Nat) (c : Crew) (k : Ctl) (fmt : Ty) (reuse : Bool) (sel : BitVec 2) (d a b x : Reg),
    let i : Instr := .mma k fmt reuse sel d a b x
    let u := begun s rid c
    let n := ((s.kern c.kernel).keepOf c.idx).mcount + 1
    (Bounding s rid c (.mbatch k d) →
      Finishes (.mbatch k d) s ((s.setKern c.kernel (fun y => y.setKeep c.idx (fun e => { e with mcount := n, mopen := false }))).post
        (.kernelCrew c.kernel c.idx) .matrixBatchRaise) rid (goOn s rid c) (inActive c d n)) ∧
    (∀ j, Bounding s rid c i → c.mma = some j → Sleeps i s (s.postFirst (.crew rid) .mmaAccept) rid c .pipe ∧
      Runs i s (fun t => ∃ y, t.crews.get? rid = some y ∧ y.mma = some j)) ∧
    (Bounding s rid c i → c.mma = none → c.em ≠ 0xFFFF_FFFF#32 → TrapsNow i s rid c 0x016 c.em.toNat 0 c.low) ∧
    (∀ dst bsrc r l, Bounding s rid c i → c.mma = none → c.em = 0xFFFF_FFFF#32 → Uniform c 2 d dst → Uniform c 2 b bsrc →
      c.addrCheck' dst 128 c.low = none → u.sumCheck rid c dst 32768 c.low = .ok (r, l) → u.bMapped rid c bsrc (mmaShape fmt).blen = true →
      (bsrc + (mmaShape fmt).blen ≤ r.base ∨ r.base + 128 * r.lines ≤ bsrc) →
      Sleeps i s (s.postFirst (.crew rid) .mmaAccept) rid c .pipe ∧ Runs i s (fun t => ∃ y, t.crews.get? rid = some y ∧
        y.mma = some ⟨fmt, reuse, sel.toNat, a.toNat, x.toNat, dst, bsrc, k.set, (pieceLines l).map Prod.snd, c.pc, c.slot, [], k.yield, none⟩))

/-! ## Barriers and engines -/

/-- BARINIT, ARRIVE, EXPECT and TLADV leave one operation on their object for the commit (R315 to R319): a phase object with its counts, a
timeline with its value, arrivals, expected bytes, a raise, a sum. BARINIT.eng also binds the object as the crew's engine timeline (R327),
and ARRIVE registers its crew (R311). With an empty em each only goes on. BARINIT makes a phase object whose phase, counts, overrun and
orphan are 0, with the arrivals given, and the bytes given as both expected bytes and base, or a timeline of the value given, whatever
stood there (R306, R307, R316). What the other operations make of a phase object (R305, R308): an arrival or landed bytes count up to the
field's limit, setting overrun beyond it; when the arrivals and the bytes expected are there, the phase goes up by one, the counts start
again from 0 and from the base, the bytes landed are kept, and arrivals beyond those expected set overrun. A timeline takes the greater
value, or a sum that stops at its limit. Any of them on an object of the other mode fails with 2, on one of no mode with 1 (R314). -/
def Obligations.BarrierOperations : Prop :=
  (
  ∀ (s : State) (rid : Nat) (c : Crew) (k : Ctl) (a b x : Reg),
    (∀ bent v w, Uniform c 1 b v → Uniform c 1 x w → v < 2 ^ 24 → (bent = false → v < 2 ^ 16) →
      (bent = true → v / 2 ^ 16 < (s.kern c.kernel).bents.length) →
      OnObject (.barinitPh k bent a b x) a (.initPhase (v % 2 ^ 16) w) true (if bent then some (.bent (v / 2 ^ 16)) else none) s rid c) ∧
    (∀ v w, Uniform c 1 b v → Uniform c 1 x w →
      OnObject (.barinitTl k a b x) a (.initTimeline (v * 2 ^ 32 + w)) true none s rid c ∧
      OnObject (.barinitEng k a b x) a (.initTimeline (v * 2 ^ 32 + w)) true (some (.bound c.idx true)) s rid c) ∧
    (∀ bent v, Uniform c 1 b v → v % 2 ^ 16 ≠ 0 → v < (if bent then 2 ^ 24 else 2 ^ 16) →
      (bent = true → s.member c.kernel (v / 2 ^ 16) c.idx = true) →
      OnObject (.arrive k bent a b) a (.arrive (v % 2 ^ 16)) false (some (.crew c.idx)) s rid c) ∧
    (∀ v, Uniform c 1 b v → OnObject (.expect k a b) a (.expect v) false (some (.crew c.idx)) s rid c) ∧
    (∀ v, Uniform c 2 b v → OnObject (.tladvMax k a b) a (.raise v) false none s rid c ∧
      OnObject (.tladvAdd k a b) a (.tladd v) false none s rid c) ∧
    (∀ va h v w, Issuing s rid c (.barinitEng k a b x) → Uniform c 2 a va → Uniform c 1 b v → Uniform c 1 x w →
      s.objCheck rid c va .write = .ok h → s.regRefused ⟨h.pa, c.ctx s, va, c.kernel, .bound c.idx true⟩ = none →
      Takes s rid c [] [lineOf h.pa] [] →
      Runs (.barinitEng k a b x) s (fun t => ∃ d st, t.crews.get? rid = some d ∧ d.strokes.getLast? = some st ∧ st.binds.getLast? = some h.pa)) ∧
    (∀ i bent, (i = .barinitPh k bent a b x ∨ i = .barinitTl k a b x ∨ i = .barinitEng k a b x ∨ i = .arrive k bent a b ∨ i = .expect k a b ∨
        i = .tladvMax k a b ∨ i = .tladvAdd k a b) → Issuing s rid c i → c.em = 0#32 → Takes s rid c [] [] [] →
      Issues i s s rid c (goOn s rid c) {} [])
  ) ∧
  (
  (∀ (o ea eb v : Nat),
    (∃ p, BarOp.apply (.initPhase ea eb) o = .ok p ∧ p < 2 ^ 256 ∧ Bar.mode.get p = 1 ∧ Bar.phase.get p = 0 ∧ Bar.landed.get p = 0 ∧
      Bar.exbytes.get p = eb % 2 ^ 32 ∧ Bar.exbase.get p = eb % 2 ^ 32 ∧ Bar.exarr.get p = ea % 2 ^ 16 ∧ Bar.arrived.get p = 0 ∧
      Bar.lastland.get p = 0 ∧ Bar.touched.get p = 0 ∧ Bar.overrun.get p = 0 ∧ Bar.orphan.get p = 0) ∧
    (∃ p, BarOp.apply (.initTimeline v) o = .ok p ∧ p < 2 ^ 256 ∧ Bar.mode.get p = 2 ∧ Bar.value.get p = v % 2 ^ 64 ∧ Bar.overrun.get p = 0 ∧
      Bar.orphan.get p = 0 ∧ slice 191 5 p = 0)) ∧
  ∀ (o n : Nat), o < 2 ^ 256 →
    let full (x : Nat) : Prop := Bar.exarr.get o ≤ min (Bar.arrived.get o + x) 65535
    (Bar.mode.get o = 1 →
      (∃ p, BarOp.apply (.arrive n) o = .ok p ∧ Bar.mode.get p = 1 ∧ Bar.exarr.get p = Bar.exarr.get o ∧ Bar.exbase.get p = Bar.exbase.get o ∧
        Bar.orphan.get p = Bar.orphan.get o ∧
        (¬(full n ∧ Bar.exbytes.get o ≤ Bar.landed.get o) → Bar.arrived.get p = min (Bar.arrived.get o + n) 65535 ∧ Bar.touched.get p = 1 ∧
          Bar.phase.get p = Bar.phase.get o ∧ Bar.landed.get p = Bar.landed.get o ∧ Bar.exbytes.get p = Bar.exbytes.get o ∧
          Bar.lastland.get p = Bar.lastland.get o ∧ Bar.overrun.get p = (if 65535 < Bar.arrived.get o + n then 1 else Bar.overrun.get o)) ∧
        (full n ∧ Bar.exbytes.get o ≤ Bar.landed.get o → Bar.arrived.get p = 0 ∧ Bar.landed.get p = 0 ∧ Bar.touched.get p = 0 ∧
          Bar.phase.get p = (Bar.phase.get o + 1) % 2 ^ 32 ∧ Bar.exbytes.get p = Bar.exbase.get o ∧ Bar.lastland.get p = Bar.landed.get o ∧
          Bar.overrun.get p = (if Bar.exarr.get o < Bar.arrived.get o + n then 1 else Bar.overrun.get o))) ∧
      (∃ p, BarOp.apply (.land n) o = .ok p ∧ Bar.mode.get p = 1 ∧
        let l := min (Bar.landed.get o + n) (2 ^ 32 - 1)
        Bar.exarr.get p = Bar.exarr.get o ∧ Bar.exbase.get p = Bar.exbase.get o ∧ Bar.orphan.get p = Bar.orphan.get o ∧
        if Bar.exarr.get o ≤ Bar.arrived.get o ∧ Bar.exbytes.get o ≤ l then
          Bar.landed.get p = 0 ∧ Bar.lastland.get p = l ∧ Bar.phase.get p = (Bar.phase.get o + 1) % 2 ^ 32 ∧ Bar.arrived.get p = 0 ∧
          Bar.exbytes.get p = Bar.exbase.get o ∧ Bar.touched.get p = 0 ∧
          Bar.overrun.get p = (if 2 ^ 32 - 1 < Bar.landed.get o + n ∨ Bar.exarr.get o < Bar.arrived.get o then 1 else Bar.overrun.get o)
        else Bar.landed.get p = l ∧ Bar.touched.get p = 1 ∧ Bar.phase.get p = Bar.phase.get o ∧ Bar.arrived.get p = Bar.arrived.get o ∧
          Bar.exbytes.get p = Bar.exbytes.get o ∧ Bar.lastland.get p = Bar.lastland.get o ∧
          Bar.overrun.get p = (if 2 ^ 32 - 1 < Bar.landed.get o + n then 1 else Bar.overrun.get o)) ∧
      (∃ p, BarOp.apply (.expect n) o = .ok p ∧ Bar.exbytes.get p = min (Bar.exbytes.get o + n) (2 ^ 32 - 1) ∧ Bar.touched.get p = 1 ∧
        Bar.phase.get p = Bar.phase.get o ∧ Bar.arrived.get p = Bar.arrived.get o ∧ Bar.landed.get p = Bar.landed.get o ∧
        Bar.exarr.get p = Bar.exarr.get o ∧ Bar.exbase.get p = Bar.exbase.get o ∧ Bar.orphan.get p = Bar.orphan.get o ∧
        Bar.lastland.get p = Bar.lastland.get o ∧ Bar.mode.get p = 1 ∧
        Bar.overrun.get p = (if 2 ^ 32 - 1 < Bar.exbytes.get o + n then 1 else Bar.overrun.get o)) ∧
      BarOp.apply (.raise n) o = .error 2 ∧ BarOp.apply (.tladd n) o = .error 2) ∧
    (Bar.mode.get o = 2 → n < 2 ^ 64 →
      (∃ p, BarOp.apply (.raise n) o = .ok p ∧ Bar.value.get p = max (Bar.value.get o) n ∧ Bar.mode.get p = 2 ∧
        Bar.overrun.get p = Bar.overrun.get o) ∧
      (∃ p, BarOp.apply (.tladd n) o = .ok p ∧ Bar.value.get p = min (Bar.value.get o + n) (2 ^ 64 - 1) ∧ Bar.mode.get p = 2 ∧
        Bar.overrun.get p = (if 2 ^ 64 - 1 < Bar.value.get o + n then 1 else Bar.overrun.get o)) ∧
      BarOp.apply (.arrive n) o = .error 2 ∧ BarOp.apply (.land n) o = .error 2 ∧ BarOp.apply (.expect n) o = .error 2) ∧
    (Bar.mode.get o ≠ 1 → Bar.mode.get o ≠ 2 → ∀ op, (∀ ea eb, op ≠ .initPhase ea eb) → (∀ v, op ≠ .initTimeline v) →
      BarOp.apply op o = .error 1)
  )

/-- WAIT goes on where its condition holds (R309), sleeps on the object where it does not, and is an orphan fault on an orphaned object or a
barrier-state fault on an object in no mode (R313, R314, R320). BARQ reads a word of the object under the crew's own stores (R321). COPY,
GATHER, SCATTER and ENCODE with a well-formed descriptor release a command to their engine and go on (R322 to R328); a COPY that would
pass the end of the local space is a page fault at the first such address (R249, R315; log 50); BATCH closes the open batch of commands,
gives its number to every active lane and ends the crew's stamp window (R327, R399). (The model's readings and choices in this: log 44.) -/
def Obligations.BarrierWaitsAndEngines : Prop :=
  (
  ∀ (s : State) (rid : Nat) (c : Crew) (k : Ctl) (a b d : Reg),
    (∀ va x h, Bounding s rid c (.wait k a b) → Uniform c 2 a va → Uniform c 2 b x → (begun s rid c).objCheck rid c va .read = .ok h →
      let o := s.num h.pa 32
      (Met o x → Finishes (.wait k a b) s s rid (goOn s rid c) []) ∧
      (Bar.mode.get o = 0 ∨ Bar.mode.get o = 3 → TrapsNow (.wait k a b) s rid c 0x051 1 va c.low) ∧
      (Bar.mode.get o = 1 ∨ Bar.mode.get o = 2 → ¬Met o x →
        (Bar.orphan.get o = 1 → TrapsNow (.wait k a b) s rid c 0x050 0 va c.low) ∧
        (Bar.orphan.get o = 0 → Sleeps (.wait k a b) s (s.waitBegins c.kernel c.idx) rid c (.barrier h.pa va x (Bar.mode.get o))))) ∧
    (∀ w va h, Issuing s rid c (.barq k w d a) → Uniform c 2 a va → s.objCheck rid c va .read = .ok h →
      Takes s rid c (blocksOf (.barq k w d a)) [] [] →
      Issues (.barq k w d a) s (s.fills rid (c.ctx s) (if h.miss then [va] else [])) rid c (goOn s rid c)
        { cells := cellsIn c.active 2 d (fun _ => s.underNum (s.ownWrites c) (h.pa + 8 * w.toNat) 8) } [])
  ) ∧
  (
  ∀ (s : State) (rid : Nat) (c : Crew) (k : Ctl) (a d : Reg),
    let u := begun s rid c
    (∀ desc bar, Uniform c 8 a desc → u.barOf rid c desc = .ok bar →
      (∀ rows bytes, Bounding s rid c (.copy k a) → slice 196 194 desc = 0 → slice 127 120 desc = 0 → slice 63 56 desc = 0 →
        slice 55 0 desc % 16 = 0 → slice 119 64 desc % 16 = 0 → copyShape desc = some (rows, bytes) →
        ¬(isPeer (sext56 (slice 55 0 desc)) = true ∧ isPeer (sext56 (slice 119 64 desc)) = true) →
        (∀ va, copyPast desc = some va → TrapsNow (.copy k a) s rid c 0x032 0 va c.low) ∧
        (copyPast desc = none → (slice 193 193 desc = 0 → slice 255 248 desc = 0) →
        (slice 193 193 desc = 1 → isPeer (sext56 (slice 119 64 desc)) = false ∧ s.member c.kernel (slice 255 248 desc) c.idx = true) →
        Released (.copy k a) s rid c .copy desc bar none)) ∧
      (∀ bytes, u.listCheck rid c desc = .ok bytes →
        (Bounding s rid c (.gather k a) → Released (.gather k a) s rid c .gather desc bar none) ∧
        (Bounding s rid c (.scatter k a) → Released (.scatter k a) s rid c .scatter desc bar none)) ∧
      (∀ ready, Bounding s rid c (.encode k a) → slice 255 248 desc = 0 → slice 196 192 desc = 0 → slice 127 120 desc = 0 →
        slice 68 56 desc = 0 → slice 247 197 desc ≠ 0 → slice 55 0 desc % 256 = 0 → isPeer (sext56 (slice 55 0 desc)) = false →
        u.readyOf rid c desc = .ok ready → Released (.encode k a) s rid c .encode desc bar ready)) ∧
    (Bounding s rid c (.batch k d) →
      let n := ((s.kern c.kernel).keepOf c.idx).ecount + 1
      Finishes (.batch k d) s
        (((((s.setKern c.kernel (fun y => y.setKeep c.idx (fun e => { e with ecount := n, eopen := false }))).closeWindow c.kernel c.idx
          (ridBay rid) false).post (.kernelCrew c.kernel c.idx) .engineBatchRaise).post (.kernelCrew c.kernel c.idx) .stampRecordWrite))
        rid (goOn s rid c) (inActive c d n))
  )

/-! ## Trees and pages -/

/-- TSHAPE, TFORK, TPRUNE, TCOMMIT, TAPPEND, TNEW and TFREE act once per crew and give their status to every active lane (R350 to R359).
TSHAPE writes the shape whole where every parent byte is 0xFF or below its own index, and changes nothing otherwise (R346, R355). The
statuses of the tree operations (R352, R354, R356, R358): a context at its limit of trees, a window that is refused; a tree with live
nodes, a trunk past its last page, room left in the trunk's last page; a reference that names no node or one that is not live; an
undefined shape. None of the refusals changes anything. What the tree operations leave, given the pages that the page engine can reach.
TNEW makes a tree in the lowest free slot with a generation that is never 0 and zeroes its tree page (R333, R352). TPRUNE cuts the live
nodes of a subtree: pruned, views unmapped, their context's crews marked for cancellation (R24, R344, R358); TFREE cuts all and unmaps the
trunk (R353); TCOMMIT takes a path of accepted nodes into the trunk, frees them, hangs the tip's children from the new trunk tip and cuts
the rest (R359). TFORK makes one node for each template node that is not suppressed, nor below one that is, in the lowest run of free
indices, each with its record, its zeroed draft entry and its view (R342, R356). (The model's readings and choices in this: log 31, 58.) -/
def Obligations.TreeOperations : Prop :=
  (
  ∀ (s : State) (rid : Nat) (c : Crew) (k : Ctl) (d a b x : Reg) (h v : Nat),
    let u := begun s rid c
    let ctx := c.ctx s
    (Uniform c 1 a h →
      (OnTree (.tfree k d a) s rid c d h (fun slot => u.treeFree ctx slot c.low)) ∧
      (∀ t r, Bounding s rid c (.tnew k d a) → u.treeNew ctx h c.low = .ok (t, r) → Answers (.tnew k d a) s t rid c (inActive c d r)) ∧
      (Uniform c 1 b v →
        (v < 2 ^ 16 → OnTree (.tprune k d a b) s rid c d h (fun slot => u.treePrune ctx slot v c.low) ∧
          OnTree (.tcommit k d a b) s rid c d h (fun slot => u.treeCommit ctx slot v c.low) ∧
          (v ≠ 0 → OnTree (.tappend k d a b) s rid c d h (fun slot => u.treeAppend ctx slot v c.low))) ∧
        (∀ sup, Uniform c 2 x sup → v < 2 ^ 29 → v / 2 ^ 17 % 2 ^ 7 = 0 → (v.testBit 16 = true → v % 2 ^ 16 = 0) →
          OnTree (.tfork k d a b x) s rid c d h (fun slot => u.treeFork ctx slot v sup c.low)))) ∧
    (∀ va pas tm n, Bounding s rid c (.tshape k d a b) → Uniform c 2 a va → Uniform c 1 b (2 ^ 8 * n + tm) → tm < 32 → n ≤ 64 →
      u.bytes64 rid c va = .ok pas →
      let parent (j : Nat) : Nat := (s.byte (pas.getD j 0)).toNat
      (¬(∀ j, j < n → parent j = 0xFF ∨ parent j < j) → Answers (.tshape k d a b) s s rid c (inActive c d 0x26)) ∧
      ((∀ j, j < n → parent j = 0xFF ∨ parent j < j) →
        ∃ r, Shape.n.get r = n ∧ (∀ j, j < n → (Shape.parent j).get r = parent j) ∧
          Answers (.tshape k d a b) s (s.setRcd .shape (32 * ctx + tm) r) rid c (inActive c d 0)))
  ) ∧
  (
  ∀ (s : State) (ctx slot v lane : Nat),
    (s.cfg ctx Ctx.treemax ≤ s.fld .context ctx Ctx.ntrees → s.treeNew ctx v lane = .ok (s, 0x24)) ∧
    (s.fld .context ctx Ctx.ntrees < s.cfg ctx Ctx.treemax → s.freeTree ≠ none → (v % 2 ^ 26).testBit 25 = true →
      s.treeNew ctx v lane = .ok (s, 0x29)) ∧
    (s.fld .tree slot Tre.nlive ≠ 0 → s.treeAppend ctx slot v lane = .ok (s, 0x25)) ∧
    (s.fld .tree slot Tre.nlive = 0 → 16126 < (s.fld .tree slot Tre.tlen + v - 1) / s.spp slot → s.treeAppend ctx slot v lane = .ok (s, 0x27)) ∧
    (s.fld .tree slot Tre.nlive = 0 → 0 < v → s.fld .tree slot Tre.tlen + v ≤ s.spp slot * s.trunkPages slot →
      s.fld .tree slot Tre.tlen + v ≤ 16127 * s.spp slot →
      s.treeAppend ctx slot v lane = .ok (s.setFld .tree slot Tre.tlen (s.fld .tree slot Tre.tlen + v), 0)) ∧
    (∀ tp, s.treePage ctx slot lane .write = .ok tp →
      let r := nodeOf (s.nodes tp) (v % 256)
      let gone := Nod.gen.get r ≠ v % 2 ^ 16 / 256 ∨ Nod.state.get r = 0
      (v < 2 ^ 16 → gone → s.treePrune ctx slot v lane = .ok (s, 0x21) ∧ s.treeCommit ctx slot v lane = .ok (s, 0x21)) ∧
      (v < 2 ^ 16 → ¬gone → nodeLive r = false → s.treePrune ctx slot v lane = .ok (s, 0x22)) ∧
      (∀ sup, v.testBit 16 = false → gone ∨ Nod.state.get r = 6 → s.treeFork ctx slot v sup lane = .ok (s, 0x21)) ∧
      (∀ sup, v.testBit 16 = false → ¬gone → Nod.state.get r = 4 → s.treeFork ctx slot v sup lane = .ok (s, 0x22)) ∧
      (∀ sup, v.testBit 16 = true → s.fld .shape (32 * ctx + v / 2 ^ 24 % 32) Shape.n = 0 → s.treeFork ctx slot v sup lane = .ok (s, 0x26)))
  ) ∧
  (
  ∀ (s : State) (ctx slot lane : Nat),
    let live (ns : List Nat) (p : Nat → Prop) (l : List Nat) : Prop :=
      l.Pairwise (· < ·) ∧ ∀ j, j ∈ l ↔ j < 256 ∧ nodeLive (nodeOf ns j) = true ∧ p j
    let tags (ns l : List Nat) : List Nat := l.map (fun n => slot * 2 ^ 16 + Nod.gen.get (nodeOf ns n) * 2 ^ 8 + n)
    let views (l : List Nat) : List Nat := l.map (s.viewVa slot)
    -- TNEW
    (∀ n v tp, n < 65536 → s.fld .tree n Tre.state = 0 → (∀ m, m < n → s.fld .tree m Tre.state ≠ 0) →
      s.fld .context ctx Ctx.ntrees < s.cfg ctx Ctx.treemax → s.windowBad ctx (v % 2 ^ 26) = .ok false →
      ∃ rcd, (∀ p ∈ [(Tre.state, 1), (Tre.ctx, ctx % 2 ^ 10), (Tre.kvsl, s.cfg ctx Ctx.kvsl % 2 ^ 3), (Tre.cls, v / 2 ^ 26 % 2 ^ 6),
          (Tre.window, v % 2 ^ 26), (Tre.tlen, 0), (Tre.nlive, 0), (Tre.fgen, 0)], p.1.get rcd = p.2) ∧
        Tre.gen.get rcd = (if s.fld .tree n Tre.gen = 0xFFFF then 1 else s.fld .tree n Tre.gen + 1) ∧
        ((s.setRcd .tree n rcd).treePage ctx n lane .write = .ok tp →
          s.treeNew ctx v lane = .ok (((s.setRcd .tree n rcd).write tp (List.replicate 0x8000 0#8)).setFld .context ctx Ctx.ntrees
            (s.fld .context ctx Ctx.ntrees + 1), Tre.gen.get rcd * 2 ^ 16 + n))) ∧
    -- leaves, crews and records
    (∀ va page ea, s.treeLeaf ctx va = .ok (some (page, ea)) →
      s.unmapLeaf ctx va = .ok (((s.writeNum ea 8 0).tlbDrop ctx va).countDec ctx page)) ∧
    (∀ va page ea, s.leafSlot ctx va lane = .ok ea →
      let t := (s.writeNum ea 8 (page + 0x27)).tlbDrop ctx va
      s.mapNew ctx va page lane = .ok (t.setRcd .count (page / 2 ^ 16) 1) ∧ s.mapShared ctx va page lane = .ok (t.countInc ctx page)) ∧
    (∀ l rid c, s.crews.get? rid = some c → (s.doom ctx slot l).crews.get? rid =
      some (if c.ctx s = ctx ∧ c.tag.toNat ∈ l ∧ c.life ≠ .exited then { c with doomed := some slot } else c)) ∧
    (∀ tp new, (∀ j, j < 0x10000 → inSys (tp + j) = false) →
      let t := s.putNodes tp (s.nodes tp) new
      (∀ n, n < 256 → t.num (nodeAt tp n) 16 = nodeOf new n % 2 ^ 128) ∧
        ∀ pa, (∀ n, n < 256 → pa < nodeAt tp n ∨ nodeAt tp n + 16 ≤ pa) → t.byte pa = s.byte pa) ∧
    (∀ tp, s.treePage ctx slot lane .write = .ok tp →
      let ns := s.nodes tp
      -- TPRUNE
      (∀ n l t, n < 256 → Nod.gen.get (nodeOf ns n) < 2 ^ 8 → live ns (fun j => n ∈ chainOf ns 256 j) l → nodeLive (nodeOf ns n) = true →
        s.unmapAll ctx (views l) = .ok t →
        ∃ ns', (∀ j, j < 256 → nodeOf ns' j = if j ∈ l then Nod.state.set (nodeOf ns j) 6 else nodeOf ns j) ∧
          s.treePrune ctx slot (Nod.gen.get (nodeOf ns n) * 2 ^ 8 + n) lane = .ok ((t.doom ctx slot (tags ns l)).putNodes tp ns ns', l.length * 2 ^ 8)) ∧
      -- TFREE
      (∀ l t u, live ns (fun _ => True) l → s.unmapAll ctx (views l) = .ok t →
        (t.doom ctx slot (tags ns l)).unmapAll ctx ((List.range ((s.fld .tree slot Tre.tlen + s.spp slot - 1) / s.spp slot)).map (s.trunkVa slot)) = .ok u →
        ∃ ns', (∀ j, j < 256 → nodeOf ns' j = if j ∈ l then Nod.state.set (nodeOf ns j) 6 else nodeOf ns j) ∧
          s.treeFree ctx slot lane = .ok ((u.putNodes tp ns ns').setFld .tree slot Tre.state 2, 0)) ∧
      -- TCOMMIT
      (∀ tip t u w l, tip < 256 → Nod.gen.get (nodeOf ns tip) < 2 ^ 8 →
        let path := (chainOf ns 256 tip).reverse
        let below (j : Nat) : Prop := j ≠ tip ∧ j < 256 ∧ Nod.state.get (nodeOf ns j) ≠ 0 ∧ tip ∈ chainOf ns 256 j
        (∀ n ∈ path, Nod.state.get (nodeOf ns n) = 3) →
        path.foldlM (fun t n => t.commitNode ctx slot lane n (nodeOf ns n)) s = .ok t →
        live ns (fun j => ¬below j ∧ j ∉ path) l → t.unmapAll ctx (l.map (t.viewVa slot)) = .ok u →
        (u.doom ctx slot (tags ns l)).unmapAll ctx (path.map ((u.doom ctx slot (tags ns l)).viewVa slot)) = .ok w →
        ∃ ns', s.treeCommit ctx slot (Nod.gen.get (nodeOf ns tip) * 2 ^ 8 + tip) lane =
            .ok (((w.putNodes tp ns ns').setFld .tree slot Tre.tlen (Nod.pos.get (nodeOf ns tip) + 1)).liveLess slot path.length, path.length * 2 ^ 8) ∧
          ∀ j, j < 256 →
            (j ∈ path → nodeOf ns' j = Nod.state.set (nodeOf ns j) 0) ∧ (j ∈ l → nodeOf ns' j = Nod.state.set (nodeOf ns j) 6) ∧
            (j ∉ path → j ∉ l → ¬below j → nodeOf ns' j = nodeOf ns j) ∧
            (below j → let x := Nod.depth.set (nodeOf ns j) (Nod.depth.get (nodeOf ns j) - Nod.depth.get (nodeOf ns tip))
              nodeOf ns' j = if Nod.root.get (nodeOf ns j) = 0 ∧ Nod.parent.get (nodeOf ns j) = tip then Nod.root.set (Nod.parent.set x 0) 1 else x)) ∧
      -- TFORK
      (∀ b sup at_ first qs t u ns',
        let sh := 32 * ctx + b / 2 ^ 24 % 32
        let K := s.forkNodes ctx (b / 2 ^ 24 % 32) sup
        let gen := t.fld .tree slot Tre.fgen % 255 + 1
        (at_ = ⟨none, s.fld .tree slot Tre.tlen, 1⟩ ∧ b.testBit 16 = true ∨
          ∃ p, findNode ns (b % 2 ^ 16) = some p ∧ b.testBit 16 = false ∧ Nod.state.get (nodeOf ns p) ≠ 6 ∧ Nod.state.get (nodeOf ns p) ≠ 4 ∧
            at_ = ⟨some p, Nod.pos.get (nodeOf ns p) + 1, Nod.depth.get (nodeOf ns p) + 1⟩) →
        s.fld .shape sh Shape.n ≠ 0 → K ≠ [] → (∀ x ∈ K, at_.depth + x.2.2 ≤ 256 ∧ (at_.pos + x.2.2 - 1) / s.spp slot ≤ 16126) →
        freeRun ns K.length = some first →
        s.supply ctx (K.filter (fun x => decide ((at_.pos + x.2.2 - 1) % s.spp slot = 0))).length = .ok (qs, t) →
        t.makeNodes ctx slot tp gen (b / 2 ^ 24 % 32) first lane at_ K ((List.range K.length).zip K) ns qs = .ok (u, ns') →
        s.treeFork ctx slot b sup lane = .ok (((u.putNodes tp ns ns').setFld .tree slot Tre.fgen gen).liveMore slot K.length,
          gen * 2 ^ 24 + K.length * 2 ^ 16 + first * 2 ^ 8))) ∧
    -- which nodes a fork makes, and where
    (∀ t sup, let K := s.forkNodes ctx t sup
      (K.map Prod.fst).Pairwise (· < ·) ∧ ∀ i p d, (i, p, d) ∈ K ↔ i < s.fld .shape (32 * ctx + t) Shape.n ∧ sup.testBit i = false ∧
        p = s.fld .shape (32 * ctx + t) (Shape.parent i) ∧
        (p = 0xFF ∧ d = 1 ∨ p ≠ 0xFF ∧ p < i ∧ ∃ q e, (p, q, e) ∈ K ∧ d = e + 1)) ∧
    (∀ ns k, k ≤ 256 → let free (f : Nat) : Prop := f + k ≤ 256 ∧ ∀ j, j < k → Nod.state.get (nodeOf ns (f + j)) = 0
      (∀ f, freeRun ns k = some f ↔ free f ∧ ∀ g, g < f → ¬free g) ∧ (freeRun ns k = none ↔ ∀ f, ¬free f)) ∧
    (∀ tp gen t first at_ K k i p d rest ns qs u qs',
      let n := first + k
      let parent : Option Nat := if p = 0xFF then at_.parent else some (first + K.findIdx (fun x => decide (x.1 = p)))
      s.mapView ctx slot n (at_.pos + d - 1) parent qs lane = .ok (u, qs') →
      ∃ r, (∀ q ∈ [(Nod.tag, slot * 2 ^ 16 + gen * 2 ^ 8 + n), (Nod.pos, at_.pos + d - 1), (Nod.root, if parent = none then 1 else 0), (Nod.tmpl, t),
          (Nod.tnode, i), (Nod.depth, at_.depth + d - 1), (Nod.parent, parent.getD 0), (Nod.gen, gen), (Nod.state, 1), (Nod.nan, 0)],
          q.1.get r = q.2 % 2 ^ q.1.w) ∧
        s.makeNodes ctx slot tp gen t first lane at_ K ((k, i, p, d) :: rest) ns qs =
          (u.writeNum (draftAt tp n) 8 0).makeNodes ctx slot tp gen t first lane at_ K rest (ns.set n r) qs') ∧
    (∀ n pos parent qs,
      (∀ q rest, qs = q :: rest → pos % s.spp slot = 0 → ∀ t, s.mapNew ctx (s.viewVa slot n) q lane = .ok t →
        s.mapView ctx slot n pos parent qs lane = .ok (t, rest)) ∧
      (pos % s.spp slot ≠ 0 → ∀ page ea t,
        s.treeLeaf ctx (match parent with | some p => s.viewVa slot p | none => s.trunkVa slot ((pos - 1) / s.spp slot)) = .ok (some (page, ea)) →
        s.mapShared ctx (s.viewVa slot n) page lane = .ok t → s.mapView ctx slot n pos parent qs lane = .ok (t, qs))) ∧
    -- a path node goes into the trunk
    (∀ n r page ea, s.treeLeaf ctx (s.viewVa slot n) = .ok (some (page, ea)) →
      let pos := Nod.pos.get r
      let va := s.trunkVa slot (pos / s.spp slot)
      let sz := 4096 / 2 ^ s.fld .tree slot Tre.kvsl
      (pos % s.spp slot = 0 → s.commitNode ctx slot lane n r = s.mapShared ctx va page lane) ∧
      (pos % s.spp slot ≠ 0 → ∀ t pa, s.trunkForWrite ctx va lane = .ok (t, pa) →
        s.commitNode ctx slot lane n r = .ok (t.write (pa + sz * (pos % s.spp slot)) (t.bytes sz (page + sz * (pos % s.spp slot))))))
  )

/-- TMASK and TMASK.vfy give each active lane the scribe's word of its query: bit j of group g is set where node 32g + j is a live ancestor of
the query's node or that node itself; a reference that names no node gives 0. TMASK.vfy also makes drafted queries verifying (R360). TINFO
gives the halves of a node's record, or the tree's trunk length, nodes, class and slot size; all ones for no tree (R361). TACC judges the
nodes of the active lanes in ascending order, each lane seeing what the lanes before it did (R362). The verdict follows the table of R347.
A judged node becomes accepted or rejected and counts in the histogram of its template and depth, tries saturating (R347, R348); a
reference that names no node gives 0x21, a node in another state 0x22. (The model's readings and choices in this: log 58.) -/
def Obligations.TreeQueries : Prop :=
  (
  ∀ (s : State) (rid : Nat) (c : Crew) (k : Ctl) (d a b : Reg) (h : Nat), Uniform c 1 a h →
    let u := begun s rid c
    let ctx := c.ctx s
    let arg (l : Nat) : Nat := (c.reg b.toNat l).toNat
    ((∀ l ∈ c.active, arg l < 2 ^ 19) → ∀ i vfy, (i = .tmask k d a b ∧ vfy = false ∨ i = .tmaskVfy k d a b ∧ vfy = true) → Bounding s rid c i →
      (∀ code, s.treeFor ctx h = .error code → Answers i s s rid c (inActive c d 0)) ∧
      (∀ slot tp, s.treeFor ctx h = .ok slot → u.treePage ctx slot c.low (if vfy then .write else .read) = .ok tp →
        let ns := s.nodes tp
        ∃ (f : Nat → Nat) (ns' : List Nat),
          (∀ l ∈ c.active, f l < 2 ^ 32 ∧ ∀ j, j < 32 → (f l).testBit j =
            (match findNode ns (arg l % 2 ^ 16) with | some n => above ns n (32 * (arg l / 2 ^ 16) + j) | none => false)) ∧
          (∀ n, n < 256 → nodeOf ns' n =
            if vfy = true ∧ Nod.state.get (nodeOf ns n) = 1 ∧ ∃ l ∈ c.active, findNode ns (arg l % 2 ^ 16) = some n
            then Nod.state.set (nodeOf ns n) 2 else nodeOf ns n) ∧
          Answers i s (s.putNodes tp ns ns') rid c (cellsIn c.active 1 d f))) ∧
    ((∀ l ∈ c.active, arg l < 2 ^ 16) → ∀ i hi, (i = .tinfoLo k d a b ∧ hi = 0 ∨ i = .tinfoHi k d a b ∧ hi = 64) → Bounding s rid c i →
      (s.treeSeen ctx h = none → Answers i s s rid c (cellsIn c.active 2 d (fun _ => 2 ^ 64 - 1))) ∧
      (∀ slot tp, s.treeSeen ctx h = some slot → u.treePage ctx slot c.low .read = .ok tp →
        Answers i s s rid c (cellsIn c.active 2 d (fun l =>
          (match findNode (s.nodes tp) (arg l) with | some n => nodeOf (s.nodes tp) n / 2 ^ hi % 2 ^ 64 | none => 0))))) ∧
    ((∀ l ∈ c.active, arg l = 0) → Bounding s rid c (.tinfoTree k d a b) →
      (s.treeSeen ctx h = none → Answers (.tinfoTree k d a b) s s rid c (cellsIn c.active 2 d (fun _ => 2 ^ 64 - 1))) ∧
      (∀ slot, s.treeSeen ctx h = some slot → Answers (.tinfoTree k d a b) s s rid c (cellsIn c.active 2 d (fun _ =>
        s.fld .tree slot Tre.tlen + 2 ^ 32 * s.fld .tree slot Tre.nlive + 2 ^ 48 * s.fld .tree slot Tre.cls +
          2 ^ 56 * s.fld .tree slot Tre.kvsl))))
  ) ∧
  (
  (∀ (s : State) (rid : Nat) (c : Crew) (k : Ctl) (d a b x : Reg) (h : Nat), Uniform c 1 a h → Bounding s rid c (.tacc k d a b x) →
    (∀ code, s.treeFor (c.ctx s) h = .error code → Answers (.tacc k d a b x) s s rid c (inActive c d code)) ∧
    (∀ slot tp, s.treeFor (c.ctx s) h = .ok slot → (begun s rid c).treePage (c.ctx s) slot c.low .write = .ok tp →
      let one (r : State × List Nat) (l : Nat) := r.1.judgeNode tp r.2 (c.reg b.toNat l).toNat (c.reg x.toNat l).toNat
      let run (ls : List Nat) : State × List Nat := ls.foldl (fun r l => ((one r l).1, (one r l).2.1)) (s, s.nodes tp)
      Answers (.tacc k d a b x) s ((run c.active).1.putNodes tp (s.nodes tp) (run c.active).2) rid c
        (cellsIn c.active 1 d (fun l => (one (run (c.active.filter (fun j => decide (j < l)))) l).2.2)))) ∧
  (∀ (s : State) (tp : Nat) (ns : List Nat) (b p : Nat),
    (findNode ns (b % 2 ^ 16) = none → s.judgeNode tp ns b p = (s, ns, 0x21)) ∧
    (∀ n, findNode ns (b % 2 ^ 16) = some n →
      (Nod.state.get (nodeOf ns n) ≠ 1 → Nod.state.get (nodeOf ns n) ≠ 2 → s.judgeNode tp ns b p = (s, ns, 0x22)) ∧
      (n < ns.length → Nod.state.get (nodeOf ns n) = 1 ∨ Nod.state.get (nodeOf ns n) = 2 →
        let w := verdict (s.num (draftAt tp n) 8) (b / 2 ^ 16 % 2 ^ 16) p
        let old := s.num (histAt tp (nodeOf ns n)) 8
        ∃ ns' new, s.judgeNode tp ns b p = (s.writeNum (histAt tp (nodeOf ns n)) 8 new, ns', if w.1 then 1 else 0) ∧
          Nod.state.get (nodeOf ns' n) = (if w.1 then 3 else 4) ∧ (w.2 = true → Nod.nan.get (nodeOf ns' n) = 1) ∧
          (∀ m, m ≠ n → nodeOf ns' m = nodeOf ns m) ∧
          (old % 2 ^ 32 = 2 ^ 32 - 1 → new = old) ∧
          (old % 2 ^ 32 ≠ 2 ^ 32 - 1 → new % 2 ^ 32 = old % 2 ^ 32 + 1 ∧ new / 2 ^ 32 = (old / 2 ^ 32 + if w.1 then 1 else 0) % 2 ^ 32)))) ∧
  (∀ draft u x : Nat,
    let q := if draft.testBit 48 then f16.val (slice 47 32 draft) else Num.ofInt 1
    let p := f32.val x
    let positive (y : Machine.Num) : Prop := (y.isInf = true ∧ y.sign = false) ∨ (y.isInf = false ∧ 0 < rat y)
    (p.isNan = true ∨ q.isNan = true → verdict draft u x = (false, true)) ∧
    (p.isNan = false → q.isNan = false →
      (¬positive p → verdict draft u x = (false, false)) ∧
      (positive p → ¬positive q → verdict draft u x = (true, false)) ∧
      (positive p → positive q →
        (q.isInf = true → verdict draft u x = (p.isInf, false)) ∧
        (q.isInf = false → p.isInf = true → verdict draft u x = (true, false)) ∧
        (q.isInf = false → p.isInf = false → verdict draft u x = (decide ((u : ℚ) / 65536 * rat q < rat p), false)))))
  )

/-- PGPIN pins pages that the crew's kernel maps on its bay, up to the context's limit; a page it does not map is 0x13, a limit passed 0x12.
PGUNPIN takes pins away; a page that is not pinned is 0x13 (R264, R273, R277). A range of pages that passes the end of the local space is
a page fault at 2^55, for them and for SFLUSH (R249). SMAP binds a stash page of the kernel to a virtual page with the backing that a load
finds, unless another holds the page unpinned (0x15) or its backing is memory-side or KV (0x14). SFLUSH.wb goes on once no reduction is in
flight to the frames of its range, and no GATHER or SCATTER that is not complete names a page of it (R326); .inv then removes their
mappings, a pinned page that its kernel holds staying (R262 to R264, R276, R279). Until then each of them issues again. PGQ.next writes
the context's oldest pending entry to 32 bytes of memory and claims it, or answers 0x10; .done lets the waiters of a claimed entry go on,
and .fail ends them, and the entry becomes free; an id that names none is 0x11, one of 8,192 or more an operand fault. .inval removes the
page's TLB entries and its unpinned stash mappings on every bay (R258, R260, R275). (The model's readings and choices in this: log 53, 54,
55.) -/
def Obligations.PinsAndMappings : Prop :=
  (
  ∀ (s : State) (rid : Nat) (c : Crew) (k : Ctl) (d a b : Reg) (va n : Nat), Uniform c 2 a va → Uniform c 1 b n → canonical va = true →
    isPeer va = false → va % 4096 = 0 → 0 < n → n ≤ 256 →
    let ctx := c.ctx s
    let y := ridBay rid
    (2 ^ 55 < va + 4096 * n → ∀ i, i = .pgpin k d a b ∨ i = .pgunpin k d a b ∨ i = .sflushWb k a b ∨ i = .sflushInv k a b →
      Bounding s rid c i → TrapsNow i s rid c 0x032 0 (2 ^ 55) c.low) ∧
    (va + 4096 * n ≤ 2 ^ 55 →
    let ps := (List.range n).map (fun i => va + 4096 * i)
    let mine (p : Nat) : Prop := ∃ m q, s.stashOf y ctx p = some m ∧ m.owner = some (c.kernel, q)
    let new := (ps.filter (fun p => (s.pinOf ctx y p).isNone)).length
    (Bounding s rid c (.pgpin k d a b) →
      ((∃ p ∈ ps, ¬mine p) → Finishes (.pgpin k d a b) s s rid (goOn s rid c) (inActive c d 0x13)) ∧
      ((∀ p ∈ ps, mine p) → s.cfg ctx Ctx.pinmax < s.fld .context ctx Ctx.npinned + new →
        Finishes (.pgpin k d a b) s s rid (goOn s rid c) (inActive c d 0x12)) ∧
      ((∀ p ∈ ps, mine p) → s.fld .context ctx Ctx.npinned + new ≤ s.cfg ctx Ctx.pinmax →
        ∃ l : List Pin, l.length = new ∧ (∀ p ∈ ps, s.pinOf ctx y p = none → ∃ q ∈ l, q.va = p ∧ q.ctx = ctx ∧ q.bay = y) ∧
          Finishes (.pgpin k d a b) s ({ s with pins := s.pins ++ l }.setFld .context ctx Ctx.npinned (s.fld .context ctx Ctx.npinned + new)) rid
            (goOn s rid c) (inActive c d 0))) ∧
    (Bounding s rid c (.pgunpin k d a b) →
      ((∃ p ∈ ps, s.pinOf ctx y p = none) → Finishes (.pgunpin k d a b) s s rid (goOn s rid c) (inActive c d 0x13)) ∧
      ((∀ p ∈ ps, s.pinOf ctx y p ≠ none) → (∀ m ∈ (s.bay y).stash, m.ctx = ctx → m.va ∈ ps → s.frameBusy m.pa = false) →
        ∃ s', s' = { s with pins := s'.pins, sys := s'.sys, bays := s'.bays } ∧
          s'.pins = s.pins.filter (fun p => !(decide (p.ctx = ctx) && decide (p.bay = y) && ps.contains p.va)) ∧
          s'.fld .context ctx Ctx.npinned = s.fld .context ctx Ctx.npinned - n ∧
          Finishes (.pgunpin k d a b) s s' rid (goOn s rid c) (inActive c d 0))))
  ) ∧
  (
  ∀ (s : State) (rid : Nat) (c : Crew) (k : Ctl) (d a b : Reg) (va n : Nat), Uniform c 2 a va → Uniform c 1 b n → canonical va = true →
    isPeer va = false → va % 4096 = 0 →
    let ctx := c.ctx s
    let y := ridBay rid
    (n < s.lch c.kernel Lch.spages → Bounding s rid c (.smap k d a b) →
      (∀ m, s.stashOf y ctx va = some m → (∀ q, m.owner ≠ some (c.kernel, q)) → s.pinOf ctx y va = none →
        Finishes (.smap k d a b) s s rid (goOn s rid c) (inActive c d 0x15)) ∧
      (∀ pa w unfit, (∀ m, s.stashOf y ctx va = some m → (∃ q, m.owner = some (c.kernel, q)) ∨ s.pinOf ctx y va ≠ none) →
        (begun s rid c).backing rid c va = .ok (pa, w, unfit) →
        (unfit = true → Finishes (.smap k d a b) s s rid (goOn s rid c) (inActive c d 0x14)) ∧
        (unfit = false → (∀ m, s.ownedMap y c.kernel n = some m → s.mapHeld y m = false) → s.listHolds y ctx va = false →
          ∃ s', s' = { s with bays := s'.bays } ∧ s'.stashOf y ctx va = some ⟨ctx, va, pa, w, some (c.kernel, n)⟩ ∧
            (∀ z, z ≠ y → s'.bay z = s.bay z) ∧ Finishes (.smap k d a b) s s' rid (goOn s rid c) (inActive c d 0)))) ∧
    (0 < n → n ≤ 256 → va + 4096 * n ≤ 2 ^ 55 →
      let ps := (List.range n).map (fun i => va + 4096 * i)
      let here (m : StashMap) : Bool := decide (m.ctx = ctx) && ps.contains m.va
      ((∃ m ∈ (s.bay y).stash, here m = true ∧ s.mapHeld y m = true) → ∀ i, i = .sflushWb k a b ∨ i = .sflushInv k a b → Bounding s rid c i →
        Sleeps i s s rid c .retry) ∧
      ((∀ m ∈ (s.bay y).stash, here m = true → s.mapHeld y m = false) →
        (Bounding s rid c (.sflushWb k a b) → Finishes (.sflushWb k a b) s s rid (goOn s rid c) []) ∧
        (Bounding s rid c (.sflushInv k a b) → ∃ s', s' = { s with bays := s'.bays } ∧
          (s'.bay y).stash = (s.bay y).stash.filter (fun m => !(here m && ((s.pinOf ctx y m.va).isNone || m.owner.isNone))) ∧
          (s'.bay y).tlb = (s.bay y).tlb ∧ (∀ z, z ≠ y → s'.bay z = s.bay z) ∧
          Finishes (.sflushInv k a b) s s' rid (goOn s rid c) []))) ∧
    (∀ m, s.mapHeld y m = true ↔ (∃ r ∈ s.reds, r.pa / 4096 = m.pa / 4096) ∨ s.listHolds y m.ctx m.va = true) ∧
    (s.listHolds y ctx va = true ↔ ∃ m ∈ s.cmds, (m.kind = .gather ∨ m.kind = .scatter) ∧ m.bay = y ∧ m.ctx = ctx ∧
      sext56 (slice 119 64 m.desc) < va + 4096 ∧ va < sext56 (slice 119 64 m.desc) + (listShape m.desc).1 * (listShape m.desc).2)
  ) ∧
  (
  ∀ (s : State) (rid : Nat) (c : Crew) (k : Ctl) (d a : Reg) (x : Nat), Uniform c 2 a x →
    let u := begun s rid c
    let ctx := c.ctx s
    (∀ h, Bounding s rid c (.pgqNext k d a) → canonical x = true → isPeer x = false → x % 32 = 0 → u.checkAccess rid c x 32 .write c.low = .ok h →
      (s.fqOldest ctx = none → Finishes (.pgqNext k d a) s s rid (goOn s rid c) (inActive c d 0x10)) ∧
      (∀ e, s.fqOldest ctx = some e → ∃ r, slice 11 0 r = e.kind % 2 ^ 12 ∧ slice 75 64 r = e.idx % 2 ^ 12 ∧ slice 76 76 r = e.die % 2 ∧
        slice 255 192 r = e.addr % 2 ^ 64 ∧ slice 191 160 r = e.kernel % 2 ^ 32 ∧ slice 159 128 r = e.crew % 2 ^ 32 ∧
        (slice 80 80 r = 0 ↔ e.writers = []) ∧ (slice 81 81 r = 1 ↔ ∃ id, .cmd id ∈ e.waiters) ∧ slice 111 96 r = min e.waiters.length 65535 ∧
        Finishes (.pgqNext k d a) s
          ({ s with fq := s.fq.map (fun y => if y = e then { y with claimed := true } else y) }.writeNum h.pa 32 r) rid (goOn s rid c)
          (inActive c d 0))) ∧
    (∀ i, i = .pgqDone k d a ∨ i = .pgqFail k d a → Bounding s rid c i →
      (8192 ≤ x → TrapsNow i s rid c 0x018 1 0 c.low) ∧
      (x < 8192 → s.claimedEntry ctx x = none → Finishes i s s rid (goOn s rid c) (inActive c d 0x11))) ∧
    (∀ e, Bounding s rid c (.pgqDone k d a) → x < 8192 → s.claimedEntry ctx x = some e → (∀ w ∈ s.fqWait, w.die ≠ e.die) →
      ∃ s', s' = { s with crews := s'.crews, cmds := s'.cmds, peersIn := s'.peersIn, agenda := s'.agenda, fq := s'.fq } ∧
        s'.fq = s.fq.filter (fun y => !(decide (y.die = e.die) && decide (y.idx = e.idx))) ∧
        (∀ r y, .crew r ∈ e.waiters → s.crews.get? r = some y → ∃ z, s'.crews.get? r = some z ∧ z.wait = .none ∧ z.fault = none ∧ z.pc = y.pc ∧
          z.regs = y.regs) ∧
        Finishes (.pgqDone k d a) s s' rid (goOn s rid c) (inActive c d 0)) ∧
    (∀ e, Bounding s rid c (.pgqFail k d a) → x < 8192 → s.claimedEntry ctx x = some e →
      Finishes (.pgqFail k d a) s ((e.waiters.foldl (State.failWaiter e.kind) u).freeEntry e) rid (goOn s rid c) (inActive c d 0)) ∧
    (Bounding s rid c (.pgqInval k d a) → canonical x = true → isPeer x = false →
      let n := if s.bigPage ctx x then 2 ^ 21 else 2 ^ 16
      let sel (b : Nat) (m : StashMap) : Bool := decide (m.ctx = ctx) && decide (m.va / n = x / n) && (s.pinOf ctx b m.va).isNone
      (∀ p ∈ s.bays, ∀ m ∈ p.2.stash, sel p.1 m = true → s.frameBusy m.pa = false) →
      ∃ s', s' = { s with bays := s'.bays } ∧
        (∀ b, (s'.bay b).stash = (s.bay b).stash.filter (fun m => !sel b m) ∧
          (s'.bay b).tlb = (s.bay b).tlb.filter (fun t => !(decide (t.ctx = ctx) &&
            decide (t.va = (if t.big then x / 2 ^ 21 * 2 ^ 21 else x / 2 ^ 16 * 2 ^ 16))))) ∧
        Finishes (.pgqInval k d a) s s' rid (goOn s rid c) (inActive c d 0))
  )

/-- PGCOW.mark over present leaves squashes, of each crew of the context, the oldest uncommitted stroke with a buffered write to a page of one
of them and every later one, draws a sequence number and sets C in each leaf; it waits while a held stroke has an umpire, or a command at
work has its barrier there; .clear takes C away again (R269, R272, R278). CKPT.cut with a valid descriptor and no other kernel of the
context running cuts its ranges' leaves, and writes the cut's sequence number and the snapshot index into the descriptor; .back takes the
marks of its ranges away and copies the snapshots back, from the newest entry of the ring down to the descriptor's: of each whose piece
lies in a range, 64 KiB of its copy to the piece as it is translated now. An invalid descriptor is 0x30, another running kernel 0x31,
snapshots that the ring no longer holds 0x32 (R386 to R388), and so for a ring without an address or with a slot that does not translate
(R266, R431; log 93). (The model's readings and choices in this: log 54, 76.) -/
def Obligations.Checkpoints : Prop :=
  (
  (∀ (s : State) (rid : Nat) (c : Crew) (k : Ctl) (d a b : Reg) (va n : Nat) (l : List Leaf), Uniform c 2 a va → Uniform c 2 b n →
    let u := begun s rid c
    u.cowRange c va n = .ok l →
    (Bounding s rid c (.pgcowMark k d a b) → n = 0 → Finishes (.pgcowMark k d a b) s s rid (goOn s rid c) (inActive c d 0)) ∧
    (Bounding s rid c (.pgcowMark k d a b) → n ≠ 0 → u.reserved rid ≠ [] ∨ u.landingIn (c.ctx s) l = true → Sleeps (.pgcowMark k d a b) s s rid c .retry) ∧
    (Bounding s rid c (.pgcowMark k d a b) → n ≠ 0 → u.reserved rid = [] → u.landingIn (c.ctx s) l = false →
      Finishes (.pgcowMark k d a b) s (u.cutLeaves (c.ctx s) l) rid (goOn s rid c) (inActive c d 0)) ∧
    (Bounding s rid c (.pgcowClear k d a b) →
      Finishes (.pgcowClear k d a b) s (u.clearLeaves (c.ctx s) l) rid (goOn s rid c) (inActive c d 0))) ∧
  (∀ (s : State) (ctx : Nat) (l : List Leaf), l.Pairwise (fun x y => x.ea + 8 ≤ y.ea ∨ y.ea + 8 ≤ x.ea) →
    (∀ x ∈ l, x.e < 2 ^ 64 ∧ s.num x.ea 8 = x.e ∧ ∀ j, j < 8 → inSys (x.ea + j) = false) →
    (s.cutLeaves ctx l).order = s.order + 1 ∧
      ∀ x ∈ l, (s.cutLeaves ctx l).num x.ea 8 = x.e ||| 64 ∧ (s.clearLeaves ctx l).num x.ea 8 = if x.e.testBit 6 then x.e - 64 else x.e) ∧
  (∀ (s : State) (ctx rid : Nat) (l : List Leaf) (c : Crew), s.crews.get? rid = some c → (∀ p ∈ s.crews, p.1 = rid → p.2 = c) →
    let frm (x : Leaf) : Nat := leafPa x.e x.big x.va / 2 ^ 16 * 2 ^ 16
    let writes (st : Stroke) : Bool := st.effs.any (fun e => match writtenAt e with
      | some pa => l.any (fun x => decide (frm x ≤ pa ∧ pa < frm x + if x.big then 2 ^ 21 else 2 ^ 16)) | none => false)
    (c.ctx s ≠ ctx ∨ c.strokes.findIdx? writes = none → (s.cutLeaves ctx l).crews.get? rid = some c) ∧
    ∀ i st, c.ctx s = ctx → c.strokes.findIdx? writes = some i → c.strokes[i]? = some st → ∃ d,
      (s.cutLeaves ctx l).crews.get? rid = some d ∧ d.strokes = c.strokes.take i ∧ d.pc = st.snap.pc ∧ d.regs = st.snap.regs ∧ d.em = st.snap.em ∧
      d.squashes = c.squashes + 1)
  ) ∧
  (
  ∀ (s : State) (rid : Nat) (c : Crew) (k : Ctl) (d a : Reg) (va : Nat), Uniform c 2 a va →
    let u := begun s rid c
    let ctx := c.ctx s
    (∀ pa desc r, Bounding s rid c (.ckptCut k d a) → u.ckptRead rid c va .write = .ok (pa, desc, r) →
      (r = none → Finishes (.ckptCut k d a) s s rid (goOn s rid c) (inActive c d 0x30)) ∧
      (∀ rs, r = some rs → s.othersRun c = true → Finishes (.ckptCut k d a) s s rid (goOn s rid c) (inActive c d 0x31)) ∧
      (∀ rs, r = some rs → s.othersRun c = false → u.reserved rid ≠ [] ∨ u.landingIn ctx (rs.flatMap (fun r => r.2.2)) = true →
        Sleeps (.ckptCut k d a) s s rid c .retry) ∧
      (∀ rs h, r = some rs → s.othersRun c = false → u.reserved rid = [] → u.landingIn ctx (rs.flatMap (fun r => r.2.2)) = false →
        let t := (u.cutLeaves ctx (rs.flatMap (fun r => r.2.2))).makeWritable ctx va
        t.xlat (ridBay rid) ctx va .write = .ok h →
        ∃ desc', Ckp.cutseq.get desc' = s.order % 2 ^ 64 ∧ Ckp.snapidx.get desc' = s.fld .pool ctx Pool.snpput ∧
          Ckp.nranges.get desc' = Ckp.nranges.get desc ∧ Ckp.list.get desc' = Ckp.list.get desc ∧
          Finishes (.ckptCut k d a) s (t.writeNum h.pa 64 desc') rid (goOn s rid c) (inActive c d 0))) ∧
    (∀ pa desc r, Bounding s rid c (.ckptBack k d a) → u.ckptRead rid c va .read = .ok (pa, desc, r) →
      let n := ringUsed (s.fld .pool ctx Pool.snpput) (Ckp.snapidx.get desc)
      (r = none → Finishes (.ckptBack k d a) s s rid (goOn s rid c) (inActive c d 0x30)) ∧
      (∀ rs, r = some rs → s.othersRun c = true → Finishes (.ckptBack k d a) s s rid (goOn s rid c) (inActive c d 0x31)) ∧
      (∀ rs, r = some rs → s.othersRun c = false → (s.snpRing ctx).cap < n →
        Finishes (.ckptBack k d a) s s rid (goOn s rid c) (inActive c d 0x32)) ∧
      (∀ rs, r = some rs → s.othersRun c = false → n ≤ (s.snpRing ctx).cap → u.snapsThere ctx (Ckp.snapidx.get desc) n = .ok false →
        Finishes (.ckptBack k d a) s s rid (goOn s rid c) (inActive c d 0x32)) ∧
      (∀ rs t, r = some rs → s.othersRun c = false → n ≤ (s.snpRing ctx).cap → u.snapsThere ctx (Ckp.snapidx.get desc) n = .ok true →
        (∀ q ∈ s.reds, q.ctx = ctx → ∀ r ∈ rs, q.va < r.1 ∨ r.1 + r.2.1 ≤ q.va) →
        State.restore ctx (Ckp.snapidx.get desc) c.low
          (fun p => rs.any (fun r => decide (r.1 ≤ p) && decide (p + 65536 ≤ r.1 + r.2.1))) n
          (rs.foldl (fun s r => (s.stashGone ctx r.1 r.2.1).clearLeaves ctx r.2.2) u) = .ok t →
        Finishes (.ckptBack k d a) s t rid (goOn s rid c) (inActive c d 0))) ∧
    (∀ (v : State) (n idx lane : Nat) (inside : Nat → Bool), State.restore ctx idx lane inside 0 v = .ok v ∧
      ∀ pa, v.ringSlot ctx (sext56 (v.snpRing ctx).va + 16 * ((idx + n) % 2 ^ 32 % (v.snpRing ctx).cap)) .read = .ok pa →
        (inside (v.num pa 8) = false → State.restore ctx idx lane inside (n + 1) v = State.restore ctx idx lane inside n v) ∧
        ∀ h, inside (v.num pa 8) = true → v.xlatWalk ctx (v.num pa 8) .write = .ok h → 0x200_0000 ≤ h.pa →
          0x200_0000 ≤ v.num (pa + 8) 8 → ∃ w : State, w = { v with mem := w.mem } ∧
            (∀ i, i < 65536 → w.byte (h.pa + i) = v.byte (v.num (pa + 8) 8 + i)) ∧
            (∀ x, x < h.pa ∨ h.pa + 65536 ≤ x → w.byte x = v.byte x) ∧
            State.restore ctx idx lane inside (n + 1) v = State.restore ctx idx lane inside n w)
  )

/-! ## Peers, kernels, debug -/

/-- XPUT, XRED of finite values, XSIG.arr and XSIG.max with addresses that pass send their accesses, a packet for each module and 256-byte
block, and go on, unless a burst is to wait; XGET sends its own and sleeps for the answers (R374 to R379, R382). The accesses of one
posted instruction to members that can be reached: a packet for each module and 256-byte block, in the order of their first lanes, from
this module in the present epoch, with the accesses of its block in lane order, to be performed after the marked ones (R242, R374, R375).
The checks of a peer address, the lowest failing lane first: canonical, of the peer kind, of a module below 768, aligned to the width
(R377). (The model's readings and choices in this: log 72.) -/
def Obligations.PeerAccesses : Prop :=
  (
  ∀ (s : State) (rid : Nat) (c : Crew) (k : Ctl) (a b d : Reg),
    let ls := c.acting k.pred
    let va := c.v64 a
    let x := c.sender s rid
    let on := { goOn s rid c with burst := false }
    (∀ w, Bounding s rid c (.xput k w a b) → (∀ l ∈ ls, c.peerCheck (va l) w.bytes l = none) → s.burstWaits rid c (w.bytes * ls.length) = false →
      Finishes (.xput k w a b) s (s.sendPosted x (ls.map (fun l =>
        { lane := l, va := va l, op := .put (va l % 2 ^ 45) w.bytes (c.val w.regs b l % 2 ^ (8 * w.bytes)), bytes := w.bytes }))) rid on []) ∧
    (∀ op ty n, Bounding s rid c (.xred k op ty a b n) → intW ty ≠ 0 → (∀ l ∈ ls, c.peerCheck (va l) (tyBytes ty) l = none) →
      s.burstWaits rid c (tyBytes ty * ls.length) = false →
      Finishes (.xred k op ty a b n) s (s.sendPosted x (ls.map (fun l =>
        { lane := l, va := va l, op := .red op ty (va l % 2 ^ 45) (BitVec.ofNat 64 (c.val ty.regs b l)), bytes := tyBytes ty }))) rid on []) ∧
    (∀ op ty n, Bounding s rid c (.xred k op ty a b n) → intW ty = 0 → -1100 ≤ n.toInt → n.toInt ≤ 1023 →
      (∀ l ∈ ls, c.peerCheck (va l) 32 l = none) →
      ((∀ l ∈ ls, xredBad c ty b l = false) → s.burstWaits rid c (tyBytes ty * ls.length) = false →
        Finishes (.xred k op ty a b n) s (s.sendPosted x (ls.map (fun l =>
          { lane := l, va := va l, op := .cell ty n.toInt (va l % 2 ^ 45) (BitVec.ofNat 64 (c.val ty.regs b l % 2 ^ 64 % 2 ^ elemW ty)),
            bytes := tyBytes ty }))) rid on []) ∧
      (∀ l ∈ ls, xredBad c ty b l = true → (∀ j ∈ ls, j < l → xredBad c ty b j = false) →
        exec (.xred k op ty a b n) s = .next (({ begun s rid c with fresh := s.fresh + 2 }.sendPosted x
          ((ls.filter (xredBad c ty b)).map (fun l => { lane := l, va := va l, op := .marker (va l % 2 ^ 45), bytes := 0 }))).takeTrap rid
            ⟨0x063, l, va l, l, 0, c.pc, c.slot⟩))) ∧
    (∀ v n, Uniform c 2 a v → Uniform c 1 b n → c.peerCheck v 32 c.low = none →
      (Bounding s rid c (.xsigArr k a b) → 0 < n → n < 2 ^ 16 → Finishes (.xsigArr k a b) s
        (s.sendPosted x [{ lane := c.low, va := v, op := .arrive (v % 2 ^ 45) n, bytes := 0 }]) rid on []) ∧
      (Bounding s rid c (.xsigMax k a b) → Finishes (.xsigMax k a b) s
        (s.sendPosted x [{ lane := c.low, va := v, op := .raise (v % 2 ^ 45) n, bytes := 0 }]) rid on [])) ∧
    (∀ w, Bounding s rid c (.xget k w d a) → (∀ l ∈ ls, c.peerCheck (va l) w.bytes l = none) →
      (ls = [] → Finishes (.xget k w d a) s s rid (goOn s rid c) []) ∧
      (ls ≠ [] → (∀ l ∈ ls, s.memberLive (peerOf (va l)) = true) →
        Sleeps (.xget k w d a) s ({ s with serial := s.serial + 1 }.sendAll x s.serial (some rid) none (ls.map (fun l =>
          { lane := l, va := va l, op := .get (va l % 2 ^ 45) w.bytes, bytes := 0, dst := (d.toNat, w.regs) }))) rid c (.peer s.serial)) ∧
      (∀ l ∈ ls, s.memberLive (peerOf (va l)) = false → (∀ j ∈ ls, j < l → s.memberLive (peerOf (va j)) = true) →
        TrapsNow (.xget k w d a) s rid c 0x062 1 (va l) l))
  ) ∧
  (
  ∀ (s : State) (x : Sender) (l : List PeerAcc), (∀ a ∈ l, s.memberLive (peerOf a.va) = true) →
    ∃ new, (s.sendPosted x l).peers = s.peers ++ new ∧ (s.sendPosted x l).mem = s.mem ∧
      new.map (fun p => (p.pkt.dst, p.pkt.ops)) =
        (l.map (fun a => (peerOf a.va, peerOff a.va / 256))).reverse.dedup.reverse.map (fun q =>
          (q.1, (l.filter (fun a => decide (peerOf a.va = q.1 ∧ peerOff a.va / 256 = q.2))).map (fun a => a.op))) ∧
      ∀ p ∈ new, p.pkt.src = s.fld .link 0 Lnk.self ∧ p.pkt.epoch = s.fld .link 0 Lnk.epoch ∧ p.pkt.id = p.id ∧ p.k = x.k ∧ p.crew = x.crew ∧
        p.after = ((s.kern x.k).keepOf x.crew).peerAfter ∧ p.answer = none
  ) ∧
  (
  ∀ (s : State) (rid : Nat) (c : Crew) (i : Instr) (k : Ctl) (a b d : Reg) (n : Nat),
    ((∃ w, (i = .xput k w a b ∨ i = .xget k w d a) ∧ n = w.bytes) ∨ (∃ op ty m, i = .xred k op ty a b m ∧ intW ty ≠ 0 ∧ n = tyBytes ty)) →
    Bounding s rid c i → ∀ l ∈ c.acting k.pred, (∀ j ∈ c.acting k.pred, j < l → c.peerCheck (c.v64 a j) n j = none) →
    let va := c.v64 a l
    (canonical va = false → TrapsNow i s rid c 0x032 0 va l) ∧
    (canonical va = true → isPeer va = false → TrapsNow i s rid c 0x061 0 va l) ∧
    (canonical va = true → isPeer va = true → 767 < slice 54 45 va → TrapsNow i s rid c 0x060 (slice 54 45 va) va l) ∧
    (canonical va = true → isPeer va = true → slice 54 45 va ≤ 767 → va % n ≠ 0 → TrapsNow i s rid c 0x020 n va l)
  )

/-- XPROBE of an identifier that is the same in every active lane gives each of them the epoch's low 16 bits, the ports field and the state
field of the member's entry; an identifier above 767 is a module fault, one with a bit above bit 9 an operand fault of operand 1 (R384). -/
def Obligations.ProbeReadsMember : Prop :=
  ∀ (s : State) (rid : Nat) (c : Crew) (k : Ctl) (d a : Reg) (x : Nat), Bounding s rid c (.xprobe k d a) → Uniform c 1 a x →
    (x ≤ 767 → Finishes (.xprobe k d a) s s rid (goOn s rid c)
      (inActive c d (s.fld .member x Mem.state + 2 ^ 8 * s.fld .member x Mem.ports + 2 ^ 16 * (s.fld .link 0 Lnk.epoch % 2 ^ 16)))) ∧
    (767 < x → x < 1024 → TrapsNow (.xprobe k d a) s rid c 0x060 x 0 c.low) ∧
    (1024 ≤ x → TrapsNow (.xprobe k d a) s rid c 0x018 1 0 c.low)

/-- LAUNCH of a record that the tests of R99 refuse gives their status and posts nothing; of one that they accept, it posts a kernel in the
lowest free slot, with its generation one higher, and writes its handle into the record (R23, R99). The tests of R99 in their order: a
queue that is free, one of another context, a path it does not allow, a malformed record, one that depends on a kernel of another context
(R24; that this is refused as a malformed record is log 84), no room. (The model's readings and choices in this: log 88.) -/
def Obligations.Launches : Prop :=
  (
  ∀ (s : State) (rid : Nat) (c : Crew) (k : Ctl) (d a : Reg) (va : Nat) (l : List (Nat × Hit × Nat)), Bounding s rid c (.launch k d a) →
    Uniform c 2 a va → c.addrCheck' va 64 c.low = none → (begun s rid c).crewRange rid c va 256 .read = .ok l →
    let rec_ := ofBytes (s.readPieces l)
    let q := Lch.queue.get rec_
    (∀ st, s.launchTest (c.ctx s) rec_ Que.dev true q = .refused st → Finishes (.launch k d a) s s rid (goOn s rid c) (inActive c d st)) ∧
    (∀ y deps h, s.launchTest (c.ctx s) rec_ Que.dev true q = .post y deps → (begun s rid c).crewRange rid c (va + 4) 4 .write = .ok h →
      let p := s.postKernel y q rec_ deps
      (p.kern y).state = .posted ∧ (p.kern y).gen = ((s.kern y).gen + 1) % 2 ^ 18 ∧ (p.kern y).launch = rec_ ∧ (p.kern y).queue = q ∧
        (p.kern y).deps = deps ∧ (∀ z, z ≠ y → p.kern z = s.kern z) ∧
        Finishes (.launch k d a) s (p.writePieces h (toBytes 4 (p.handle y))) rid (goOn s rid c) (inActive c d 0))
  ) ∧
  (
  ∀ (s : State) (ctx rec_ q : Nat) (path : Fld) (same : Bool),
    let owner := s.qcfg q Que.ctx
    let r := s.launchTest ctx rec_ path same q
    (s.fld .queue q Que.state = 0 → r = .refused 2) ∧
    (s.fld .queue q Que.state ≠ 0 → owner ≠ ctx ∧ ctx ≠ 0 → r = .refused 7) ∧
    (s.fld .queue q Que.state ≠ 0 → owner = ctx ∨ ctx = 0 → s.qcfg q path = 0 → r = .refused 8) ∧
    (s.fld .queue q Que.state ≠ 0 → owner = ctx ∨ ctx = 0 → s.qcfg q path ≠ 0 → same = false ∨ s.launchOk rec_ owner = false → r = .refused 9) ∧
    (s.fld .queue q Que.state ≠ 0 → owner = ctx ∨ ctx = 0 → s.qcfg q path ≠ 0 → same = true → s.launchOk rec_ owner = true →
      ∀ deps, s.depsOf ctx rec_ [0, 1, 2, 3] = .ok (some deps) →
        let foreign : Prop := ∃ h, .kernel h ∈ deps ∧ s.handle (h % 2 ^ 14) = h ∧ (s.kern (h % 2 ^ 14)).ctx ≠ owner
        (foreign → r = .refused 9) ∧ (¬foreign →
        (s.qcfg q Que.depth ≤ s.fld .queue q Que.nposted → r = .refused 6) ∧
        (∀ y, s.fld .queue q Que.nposted < s.qcfg q Que.depth → s.inFlight < Config.kernelSlots → s.freeSlot = some y → r = .post y deps)))
  )

/-- QCTL: a number past the queues is 4, a free queue 2 (0 for .query), another context's queue 7. On an open or held queue of the caller
.hold holds an open one, .release opens a held one, .flush retires every kernel not yet admitted as cancelled, at once where nothing of it
is left, .class sets a class below 8, .query gives state, class, policy and number posted (R90, R91, R100). KSTOP and KQ name a kernel by
its handle: a stale one is 0x0A, another context's 7. .stop stops a kernel not yet admitted at once and begins the stop of an admitted one
that has a save area (0x0C without one); .kill sets it to retire as killed; .resume makes a stopped one ready or blocked and a trapped one
running; any other state is 0x0B. KQ gives state, cause and crews exited (R110, R117, R131, R132). (The model's readings and choices in
this: log 51, 88.) -/
def Obligations.QueueAndKernelControl : Prop :=
  (
  ∀ (s : State) (rid : Nat) (c : Crew) (k : Ctl) (d a b : Reg) (q v : Nat), Uniform c 1 a q → Uniform c 1 b v →
    let st := s.fld .queue q Que.state
    let own := s.qcfg q Que.ctx = c.ctx s ∨ c.ctx s = 0
    let fin (i : Instr) (s' : State) (r : Nat) : Prop := Finishes i s s' rid (goOn s rid c) (inActive c d r)
    (∀ i, i = .qctlHold k d a ∨ i = .qctlRelease k d a ∨ i = .qctlFlush k d a ∨ i = .qctlClass k d a b ∨ i = .qctlQuery k d a →
      Bounding s rid c i →
      (2 ^ 12 ≤ q → fin i s 4) ∧ (q < 2 ^ 12 → st = 0 → fin i s (if i = .qctlQuery k d a then 0 else 2)) ∧
      (q < 2 ^ 12 → st ≠ 0 → ¬own → fin i s 7)) ∧
    (q < 2 ^ 12 → st ≠ 0 → own →
      (Bounding s rid c (.qctlHold k d a) → (st = 1 → fin (.qctlHold k d a) ((s.withdrawAll q).setFld .queue q Que.state 2).refreshCandidates 0) ∧
        (st ≠ 1 → fin (.qctlHold k d a) s 2)) ∧
      (Bounding s rid c (.qctlRelease k d a) → (st = 2 → fin (.qctlRelease k d a) (s.setFld .queue q Que.state 1).kick 0) ∧
        (st ≠ 2 → fin (.qctlRelease k d a) s 2)) ∧
      (Bounding s rid c (.qctlFlush k d a) → Runs (.qctlFlush k d a) s (fun t =>
        (∀ y z, s.kernels.get? y = some z → z.queue = q → z.unadmitted = true →
          (t.kern y).ending = some 1 ∨ (t.kern y).state = .retired ∧ (t.kern y).cause = 1) ∧
        ((∀ p ∈ s.kernels, p.2.queue = q → p.2.unadmitted = true → (s.kern p.1).keep = [] ∧ ∀ r ∈ s.regns, r.k ≠ p.1) → t.mem = s.mem))) ∧
      (Bounding s rid c (.qctlClass k d a b) → (8 ≤ v → fin (.qctlClass k d a b) s 3) ∧
        (v < 8 → ∃ cfg, Que.cls.get cfg = v ∧
          fin (.qctlClass k d a b) { s.setFld .queue q Que.cls v with queueCfg := s.queueCfg.set q cfg } 0)) ∧
      (Bounding s rid c (.qctlQuery k d a) →
        fin (.qctlQuery k d a) s (st + 2 ^ 4 * s.qcfg q Que.cls + 2 ^ 8 * s.qcfg q Que.policy + 2 ^ 16 * s.fld .queue q Que.nposted)))
  ) ∧
  (
  ∀ (s : State) (rid : Nat) (c : Crew) (k : Ctl) (d a : Reg) (h : Nat), Uniform c 1 a h →
    let y := h % 2 ^ 14
    let z := s.kern y
    let mine := z.ctx = c.ctx s ∨ c.ctx s = 0
    let early := z.state = .posted ∨ z.state = .blocked ∨ z.state = .ready
    let late := z.state = .admitted ∨ z.state = .placing ∨ z.state = .running ∨ z.state = .trapped
    let fin (i : Instr) (r : Nat) : Prop := Finishes i s s rid (goOn s rid c) (inActive c d r)
    (∀ i, i = .kstopStop k d a ∨ i = .kstopKill k d a ∨ i = .kstopResume k d a → Bounding s rid c i →
      (s.handle y ≠ h → fin i 0x0A) ∧ (s.handle y = h → ¬mine → fin i 7)) ∧
    (s.handle y = h → mine →
      (Bounding s rid c (.kstopStop k d a) →
        (z.ending = none → early → Runs (.kstopStop k d a) s (fun t => (t.kern y).state = .stopped ∧ t.mem = s.mem)) ∧
        (z.ending = none → late → s.lch y Lch.nsave = 0 → fin (.kstopStop k d a) 0x0C) ∧
        (z.ending = none → late → s.lch y Lch.nsave ≠ 0 → Runs (.kstopStop k d a) s (fun t => (t.kern y).state = .stopping ∧ t.mem = s.mem)) ∧
        (z.ending ≠ none ∨ (¬early ∧ ¬late) → fin (.kstopStop k d a) 0x0B)) ∧
      (Bounding s rid c (.kstopKill k d a) →
        (z.state = .retired → fin (.kstopKill k d a) 0x0B) ∧
        (z.state ≠ .retired → z.ending = none → Runs (.kstopKill k d a) s (fun t => (t.kern y).ending = some 2)) ∧
        (z.state ≠ .retired → z.ending ≠ none → fin (.kstopKill k d a) 0)) ∧
      (Bounding s rid c (.kstopResume k d a) →
        (z.ending = none → z.state = .stopped → Runs (.kstopResume k d a) s (fun t => (t.kern y).state = if z.deps = [] then .ready else .blocked)) ∧
        (z.ending = none → z.state = .trapped → Runs (.kstopResume k d a) s (fun t => (t.kern y).state = .running)) ∧
        (z.ending ≠ none ∨ (z.state ≠ .stopped ∧ z.state ≠ .trapped) → fin (.kstopResume k d a) 0x0B))) ∧
    (Bounding s rid c (.kq k d a) →
      Finishes (.kq k d a) s s rid (goOn s rid c) (cellsIn c.active 2 d (fun _ =>
        if s.handle y ≠ h then 0x0A * 2 ^ 8 else if ¬(z.ctx = c.ctx s) ∧ c.ctx s ≠ 0 then 7 * 2 ^ 8
        else z.state.code + z.cause * 2 ^ 4 + z.exited * 2 ^ 32)))
  )

/-- LEAVE: a level above 15 is 4; a level not above the present one is taken at once and the units go back; a higher one is asked of the die's
governor and the crew sleeps for at most 100 clk (R133). NOTIFY with room in the replay window sends its message; its payload is at most
1,024 bytes (R101, R103). BPSET sets a comparator of the crew's bay to its context, an offset, a slot, a queue and a bent, and BPCLR
disables one, for the issues of the next clk on; one that another context has enabled is a breakpoint-ownership trap but for context 0
(R391, R396, R397). STAMP closes the open stamp window and opens one with the next number, whatever em is (R399). TRACE leaves a record
for the commit with the values of the lowest active lane (R400). (The model's readings and choices in this: log 19, 66, 78, 88.) -/
def Obligations.LeaveNotifyDebug : Prop :=
  (
  ∀ (s : State) (rid : Nat) (c : Crew) (k : Ctl) (d a b : Reg),
    (∀ x, Bounding s rid c (.leave k d a) → Uniform c 1 a x →
      let y := ridBay rid
      let now := s.level y c.kernel
      (16 ≤ x → Finishes (.leave k d a) s s rid (goOn s rid c) (inActive c d 4)) ∧
      (x < 16 → x ≤ now → Finishes (.leave k d a) s (s.lowerLevel y c.kernel x) rid (goOn s rid c) (inActive c d 0)) ∧
      (x < 16 → now < x → Sleeps (.leave k d a) s
        { s.onBayKernel y c.kernel (fun z => { z with openLeave := some s.serial }) with
          gov := s.gov ++ [⟨dieOf y, .leave y c.kernel s.serial x (x - now)⟩] } rid c (.leaveAsk s.serial d.toNat (s.clock + 100)))) ∧
    (∀ va x bs, Bounding s rid c (.notify k a b) → Uniform c 2 a va → Uniform c 1 b x →
      (slice 15 11 x ≠ 0 ∨ 1024 < x % 2 ^ 11 → TrapsNow (.notify k a b) s rid c 0x018 2 0 c.low) ∧
      (slice 15 11 x = 0 → x % 2 ^ 11 ≤ 1024 → (begun s rid c).payload rid c va (x % 2 ^ 11) = .ok bs → s.windowFull = false → s.host.waiting = [] →
        Finishes (.notify k a b) s (s.sendSeq 0x85 (c.ctx s) (toBytes 2 (c.ctx s) ++ toBytes 2 (slice 31 16 x) ++ toBytes 4 (s.handle c.kernel) ++
          toBytes 4 c.idx ++ toBytes 4 0 ++ bs)) rid (goOn s rid c) []))
  ) ∧
  (
  ∀ (s : State) (rid : Nat) (c : Crew) (k : Ctl) (d a b : Reg),
    let ctx := c.ctx s
    (∀ n : BitVec 14, ∀ i, i = .bpset k a b n ∨ i = .bpclr k n → Bounding s rid c i → c.em ≠ 0#32 →
      let at_ := 8 * ridBay rid + n.toNat % 8
      let r := s.rcd .comparator at_
      (Cmp.en.get r = 1 → Cmp.ctx.get r ≠ ctx → ctx ≠ 0 → TrapsNow i s rid c 0x071 (n.toNat % 8) 0 c.low) ∧
      ((Cmp.en.get r = 1 → Cmp.ctx.get r = ctx ∨ ctx = 0) →
        (n.toNat < 8 → i = .bpclr k n → Finishes i s (s.setCmp at_ (Cmp.en.set r 0)) rid (goOn s rid c) []) ∧
        (∀ x bent, n.toNat < 32 → i = .bpset k a b n → Uniform c 2 a x → Uniform c 1 b bent → slice 31 16 x = 0 → slice 63 44 x = 0 →
          (n.toNat.testBit 3 = false → ctx ≠ 0 ∧ s.ownsQueue ctx (slice 43 32 x) = true) → bent < 256 →
          ∃ new, Cmp.en.get new = 1 ∧ Cmp.ctx.get new = ctx % 2 ^ 10 ∧ Cmp.pc.get new = slice 11 0 x ∧ Cmp.slot.get new = slice 15 12 x ∧ Cmp.bent.get new = bent ∧ Cmp.queue.get new = slice 43 32 x ∧
            Cmp.bentf.get new = n.toNat / 16 % 2 ∧ Cmp.anyq.get new = n.toNat / 8 % 2 ∧
            Finishes i s (s.setCmp at_ new) rid (goOn s rid c) []))) ∧
    (∀ at_ v, let t := s.setCmp at_ v
      t.rcd .comparator at_ = v ∧ (∀ m, m ≠ at_ → t.rcd .comparator m = s.rcd .comparator m) ∧ (∀ m, t.cmpRecord m = s.cmpRecord m) ∧
        ∀ clk, s.clock < clk → { t with clock := clk }.cmpRecord at_ = v) ∧
    (∀ v, Bounding s rid c (.stamp k d a) → (Uniform c 2 a v ∨ c.em = 0#32 ∧ c.val 2 a 0 = v) →
      let n := ((s.kern c.kernel).keepOf c.idx).stamps + 1
      Finishes (.stamp k d a) s
        (((s.closeWindow c.kernel c.idx (ridBay rid) true).setKern c.kernel (fun y => y.setKeep c.idx (fun e =>
          { e with stamps := n, windows := e.windows ++ [Window.open v (n % 2 ^ 32) s.clock (ridBay rid)] }))).post
          (.kernelCrew c.kernel c.idx) .stampRecordWrite) rid (goOn s rid c) (inActive c d n)) ∧
    (Issuing s rid c (.trace k a b) → Takes s rid c [] [] [] →
      Issues (.trace k a b) s s rid c (goOn s rid c) {}
        (if c.em = 0#32 then [] else
          [.trace (c.reg a.toNat c.low).toNat (c.reg b.toNat c.low).toNat (c.slot * 2 ^ 12 + c.pc) c.em c.tag]))
  )

/-! ## Events: sides, contexts, queues, host -/

/-- The pick of a side (R143): the crew it names stands at an active position, can issue and takes part in no swap; no other such crew goes
before it, crews whose last issue had no yield bit first and then by urgency. It issues next, and the side's round goes on from its
position. The crew that has been pending and ready longest takes a free active position; a placing kernel is then running (R110, R141). A
swap of 4 clk begins for an active crew in a long stall, or for one that a crew ready for 256 clk replaces, and ends with the two crews
having changed sets (R144, R145). -/
def Obligations.PickAndSwaps : Prop :=
  (
  ∀ (s : State) (b d pos slot : Nat), s.place = .side b d → s.pick b d = some (pos, slot) →
    let may (p q : Nat) (c : Crew) : Prop := (s.side b d).active[p]? = some (some q) ∧ s.crews.get? (sideRid b d q) = some c ∧
      s.couldIssue (sideRid b d q) c = true ∧ (s.side b d).swapping q = false
    (∃ c, may pos slot c ∧ ∀ p q e, may p q e → (c.yielded = true → e.yielded = true) ∧
      (c.yielded = e.yielded → min 3 (s.kern e.kernel).urg ≤ min 3 (s.kern c.kernel).urg)) ∧
    ((s.side b d).picked ≤ s.clock →
      Runs .issuePick s (fun t => t = { s with bays := t.bays, agenda := .issue (sideRid b d slot) :: s.agenda } ∧ OnlySide s t b d ∧
        t.side b d = { s.side b d with picked := s.clock + 1, lastPos := pos }))
  ) ∧
  (
  ∀ (s : State) (b d : Nat), s.place = .side b d →
    let x := s.side b d
    (∀ pos slot c, x.openPos = some pos → s.readiest b d = some (slot, c) →
      Runs .pendingToActive s (fun t =>
        t = { s with crews := t.crews, bays := t.bays, kernels := t.kernels, sys := t.sys } ∧ OnlySide s t b d ∧
        t.side b d = { x with active := x.active.set pos (some slot), pending := x.pending.filter (fun y => decide (y ≠ slot)) } ∧
        (∀ r, t.crews.get? r = if r = sideRid b d slot then some { c with life := .active, ready := none } else s.crews.get? r) ∧
        (t.kern c.kernel).state = (if (s.kern c.kernel).state = .placing then .running else (s.kern c.kernel).state))) ∧
    (∀ pos out inn c, x.swap = none → s.stalledLongest b d = some (pos, out) → s.readiest b d = some (inn, c) →
      Runs .longStallSwap s (fun t => t = { s with bays := t.bays } ∧ OnlySide s t b d ∧
        t.side b d = { x with swap := some ⟨some out, inn, pos, s.clock + 4⟩ })) ∧
    (∀ pos out inn c r, x.swap = none → (s.stalledLongest b d).or (s.leastUrgent b d) = some (pos, out) →
      s.readiest b d = some (inn, c) → c.ready = some r →
      Runs .pendingAgeSwap s (fun t =>
        (r + 256 ≤ s.clock → t = { s with bays := t.bays } ∧ OnlySide s t b d ∧
          t.side b d = { x with swap := some ⟨some out, inn, pos, s.clock + 4⟩ }) ∧
        (s.clock < r + 256 → t = s))) ∧
    (∀ out inn pos u c e, x.swap = some ⟨some out, inn, pos, u⟩ → out ≠ inn → x.active[pos]? = some (some out) → inn ∈ x.pending →
      s.crews.get? (sideRid b d out) = some c → s.crews.get? (sideRid b d inn) = some e →
      Runs .swapComplete s (fun t =>
        (s.clock < u → t = s) ∧
        (u ≤ s.clock → t = { s with crews := t.crews, bays := t.bays, kernels := t.kernels, sys := t.sys } ∧ OnlySide s t b d ∧
          t.side b d = { x with swap := none, active := x.active.set pos (some inn),
                                pending := (x.pending ++ [out]).filter (fun y => decide (y ≠ inn)) } ∧
          t.crews.get? (sideRid b d inn) = some { e with life := .active, ready := none } ∧
          t.crews.get? (sideRid b d out) =
            some { c with life := .pending, yieldOut := false, stalled := none, flagWait := none, ready := none })))
  )

/-- A fixed-latency result is written whole once its clk has come, a variable-latency one in any of its lanes at any time, and the function
unit serves one group of lanes of a side in a clk, the results being due 6 clk after the last group of an instruction, 8 for SMXUP, and
written then (R146, R148, R202, R211). Nothing else of the crew or the module changes. (The model's readings and choices in this: log 11,
12.) -/
def Obligations.Results : Prop :=
  ∀ (s : State),
    (∀ rid idx lanes c p, s.place = .result rid idx lanes → s.crews.get? rid = some c → c.life ≠ .exited → c.pends[idx]? = some p →
      p.race = [] →
      let lands (i : Instr) (m : LaneMask) : Prop :=
        Runs i s (fun t => t = { s with crews := t.crews, fresh := s.fresh + 1 } ∧
          ∀ r, t.crews.get? r = if r = rid then some (landed c idx p m) else s.crews.get? r)
      (p.fu = none → ∀ u, p.due = some u → u ≤ s.clock → lands .resultWriteback 0xFFFF_FFFF#32) ∧
      (p.fu = none → ∀ u, p.due = some u → s.clock < u → exec .resultWriteback s = .next s) ∧
      (p.fu = none → p.due = none → lands .resultWriteback lanes) ∧
      (∀ f u, p.fu = some f → f.groups = [] → p.due = some u → u ≤ s.clock → lands .fuResultWrite 0xFFFF_FFFF#32)) ∧
    (∀ b d slot c i p f, s.place = .side b d → (s.side b d).fuServed ≤ s.clock → s.fuPickSlot b d = some slot →
      s.crews.get? (sideRid b d slot) = some c → c.fuReady s.clock = some i → c.pends[i]? = some p → p.fu = some f →
      Runs .fuGroupServe s (fun t => t = { s with crews := t.crews, bays := t.bays } ∧ OnlySide s t b d ∧
        t.side b d = { s.side b d with fuLast := slot, fuServed := s.clock + 1 } ∧
        ∀ r, t.crews.get? r = if r = sideRid b d slot then
          some { c with pends := c.pends.set i { p with
            fu := some { f with groups := f.groups.drop 1 }
            due := if f.groups.length ≤ 1 then some (s.clock + (if f.smx then 8 else 6)) else p.due } }
          else s.crews.get? r))

/-- CREATE, ACTIVATE, RESUME and CLEAR of context n, which is not busy: refused with status 2 in a wrong state and with status 3 for an
invalid record, else done with status 0; CREATE and RESUME read the configuration; an unknown command reports 4, and while the context is
busy each of them, and SUSPEND, reports 1 (R74, R76 to R79). SUSPEND of an active context other than 0, and DESTROY of any that exists,
make it busy, stop each of its kernels that runs and has a save area, and give each that has none its end as killed; they report at the
end. A command in progress that DESTROY abandons reports 2. Any other is refused with status 2. A context fault of a context that exists
records its cause, makes it faulted, and does the same to the kernels of an active one; a FAULT message goes to the host (R77, R78, R80 to
R82). A suspension is complete once nothing of the context's kernels runs: its stash pages are released, it is busy no longer, and SUSPEND
reports 0 with the context suspended; a destruction removes its pins and reports 0 with the context absent (R81, R82). (The model's
readings and choices in this: log 16, 48, 87.) -/
def Obligations.ContextCommands : Prop :=
  (
  ∀ (s : State) (n : Nat), s.place = .ctx n →
    let st := s.fld .context n Ctx.state
    let ok (l : List (Fld × Nat)) := l ++ [(Ctx.cseq, s.fld .context n Ctx.cseq + 1), (Ctx.cstat, 0)]
    (s.fld .context n Ctx.busy = 1 → CtxReports .ctxCreate s n 1 ∧ CtxReports .ctxActivate s n 1 ∧ CtxReports .ctxSuspend s n 1 ∧
      CtxReports .ctxResume s n 1 ∧ CtxReports .ctxClear s n 1 ∧ CtxReports .unknownCommand s n 1) ∧
    (s.fld .context n Ctx.busy = 0 →
      CtxReports .unknownCommand s n 4 ∧
      (st ≠ 0 → CtxReports .ctxCreate s n 2) ∧
      (st = 0 → s.ctxValid n = false → CtxReports .ctxCreate s n 3) ∧
      (st = 0 → s.ctxValid n = true → Runs .ctxCreate s (fun t =>
        t = { s with sys := t.sys, ctxCfg := t.ctxCfg, logs := t.logs } ∧ t.log n = CtxLog.init ∧
        Sets s t .context n (ok [(Ctx.ntrees, 0), (Ctx.nqueues, 0), (Ctx.npinned, 0), (Ctx.fput, 0), (Ctx.oput, 0), (Ctx.sput, 0),
          (Ctx.flost, 0), (Ctx.cause, 0), (Ctx.state, 1)]) ∧ ∀ f ∈ configFields, t.cfg n f = s.fld .context n f)) ∧
      (st ≠ 1 → CtxReports .ctxActivate s n 2) ∧
      (st = 1 → Runs .ctxActivate s (fun t =>
        t = { s with sys := t.sys, agenda := s.agenda ++ [.event .none .coxChoose] } ∧ Sets s t .context n (ok [(Ctx.state, 2)]))) ∧
      (st ≠ 3 → CtxReports .ctxResume s n 2) ∧
      (st = 3 → s.ctxValid n = false → CtxReports .ctxResume s n 3) ∧
      (st = 3 → s.ctxValid n = true → Runs .ctxResume s (fun t =>
        t = { s with sys := t.sys, ctxCfg := t.ctxCfg, logs := t.logs, agenda := s.agenda ++ [.event .none .coxChoose] } ∧
        Sets s t .context n (ok [(Ctx.state, 2)]) ∧ ∀ f ∈ configFields, t.cfg n f = s.fld .context n f)) ∧
      (st ≠ 4 → CtxReports .ctxClear s n 2) ∧
      (st = 4 → Runs .ctxClear s (fun t => t = { s with sys := t.sys } ∧ Sets s t .context n (ok [(Ctx.state, 3)]))))
  ) ∧
  (
  ∀ (s : State) (n : Nat), n < 1024 →
    let st := s.fld .context n Ctx.state
    let stops (t : State) : Prop := ∀ k y, s.kernels.get? k = some y → y.ctx = n → y.stoppable = true →
      (s.lch k Lch.nsave ≠ 0 → (t.kern k).state = .stopping ∧ (t.kern k).stop = some .suspend) ∧
      (s.lch k Lch.nsave = 0 → (t.kern k).ending = some 2)
    (s.place = .ctx n → s.fld .context n Ctx.busy = 0 → n = 0 ∨ st ≠ 2 → CtxReports .ctxSuspend s n 2) ∧
    (s.place = .ctx n → s.fld .context n Ctx.busy = 0 → n ≠ 0 → st = 2 → Runs .ctxSuspend s (fun t =>
      t.fld .context n Ctx.busy = 1 ∧ t.suspending.get? n = some .suspend ∧ t.fld .context n Ctx.state = 2 ∧
      t.fld .context n Ctx.cseq = s.fld .context n Ctx.cseq ∧ stops t)) ∧
    (s.place = .ctx n → n = 0 ∨ st = 0 → CtxReports .ctxDestroy s n 2) ∧
    (s.place = .ctx n → n ≠ 0 → st ≠ 0 → Runs .ctxDestroy s (fun t =>
      t.fld .context n Ctx.busy = 1 ∧ t.suspending.get? n = some .destroy ∧ t.fld .context n Ctx.state = st ∧
      (s.suspending.get? n = some .suspend ∨ s.suspending.get? n = some .destroy →
        t.fld .context n Ctx.cseq = (s.fld .context n Ctx.cseq + 1) % 2 ^ 16 ∧ t.fld .context n Ctx.cstat = 2) ∧
      (s.suspending.get? n = none → t.fld .context n Ctx.cseq = s.fld .context n Ctx.cseq) ∧ stops t)) ∧
    (∀ cause, s.place = .ctxCause n cause → st = 0 ∨ 3 < st → exec .contextFault s = .next s) ∧
    (∀ cause, s.place = .ctxCause n cause → 1 ≤ st → st ≤ 3 → Runs .contextFault s (fun t =>
      t.fld .context n Ctx.state = 4 ∧ t.fld .context n Ctx.cause = cause % 2 ^ 16 ∧
      (∃ m, m.typ = 0x83 ∧ m.ctx = n ∧ (t.host.sent.getLast? = some m ∨ t.host.waiting.getLast? = some m)) ∧
      (s.suspending.get? n = none → st = 2 →
        t.fld .context n Ctx.busy = 1 ∧ t.suspending.get? n = some .fault ∧ stops t)))
  ) ∧
  (
  ∀ (s : State) (n : Nat) (how : Suspending), s.place = .ctx n → n < 1024 → s.suspending.get? n = some how →
    let ok := [(Ctx.cseq, s.fld .context n Ctx.cseq + 1), (Ctx.cstat, 0)]
    let released (t : State) : Prop := ∀ b, (t.bay b).stash = (s.bay b).stash.filter (fun m => decide (m.ctx ≠ n))
    (s.ctxQuiet n how = false → exec .suspensionComplete s = .next s) ∧
    (s.ctxQuiet n how = true →
      (how = .suspend → Runs .suspensionComplete s (fun t => t = { s with sys := t.sys, bays := t.bays, suspending := t.suspending } ∧
        t.suspending.get? n = none ∧ released t ∧ Sets s t .context n ([(Ctx.busy, 0), (Ctx.state, 3)] ++ ok))) ∧
      (how = .fault → Runs .suspensionComplete s (fun t => t = { s with sys := t.sys, bays := t.bays, suspending := t.suspending } ∧
        t.suspending.get? n = none ∧ released t ∧ Sets s t .context n [(Ctx.busy, 0)])) ∧
      (how = .destroy → Runs .suspensionComplete s (fun t => t.fld .context n Ctx.state = 0 ∧ t.fld .context n Ctx.busy = 0 ∧
        t.fld .context n Ctx.cstat = 0 ∧ ∀ p ∈ t.pins, p.ctx ≠ n)))
  )

/-- The boot gives every record its reset value and makes context 0 active, where the firmware image passes its check; else the module stays
down (R428). A reset brings the module back to its state before the boot, but for its MAC addresses and sensors (log 60). (The model's
readings and choices in this: log 87.) -/
def Obligations.BootAndReset : Prop :=
  ∀ (s : State),
    (∀ ok, s.place = .boot ok → s.power ≠ .reset → exec .moduleBoot s = .next s) ∧
    (s.place = .boot false → s.power = .reset → exec .moduleBoot s = .next { s with power := .failed }) ∧
    (s.place = .boot true → s.power = .reset → Runs .moduleBoot s (fun t => t = { s with power := .up, sys := t.sys } ∧
      t.rcd .context 0 = 2 ∧ ∀ tab m, tab.addr m ≠ 0 → t.rcd tab m = tab.reset)) ∧
    Runs .moduleReset s (fun t => t = { State.reset with mac := s.mac, hostMac := s.hostMac, watts := s.watts, temp0 := s.temp0, temp1 := s.temp1, coolant := s.coolant,
                                                         fresh := s.fresh, place := s.place })

/-- The queue commands: each counts and reports its status, 2 in a wrong state, 3 for an invalid record, 5 for CLOSE of a queue with kernels
posted, 0 when it is done (R89, R90). A record is valid with a depth of 1 to 16,384, an existing context and zero reserved fields (R8;
that they keep what software writes is log 82). A queue on HOLD has no candidates (R93). A byte written to the system range changes the
bits of its record that software may write and no others, and starts the command or the change that the record gives it; the power limit
is clamped to 2,400 to 4,800; a member's state takes the values 0 and 1; a new epoch ends the declarations of dead members and has their
counts begin anew (R368; the latter is log 83). A byte of no record is ignored (R8, R9, R73, R369, R425). A change of the reserved trusses
has every ready persistent kernel tested again and the cox choose (R95, R96). (The model's readings and choices in this: log 29, 77.) -/
def Obligations.QueuesAndRecords : Prop :=
  (
  ∀ (s : State) (q : Nat), s.place = .queue q → q < 4096 →
    let st := s.fld .queue q Que.state
    let ok := [(Que.cseq, s.fld .queue q Que.cseq + 1), (Que.cstat, 0)]
    let own := s.fld .queue q Que.ctx
    let ctx := s.qcfg q Que.ctx
    let kick := s.agenda ++ [Task.event .none .coxChoose]
    let elsewhere (t : State) (c : Nat) : Prop := ∀ tab m, tab.addr m ≠ SysTab.queue.addr q → tab.addr m ≠ SysTab.context.addr c →
      t.rcd tab m = s.rcd tab m
    (s.queueValid q = true ↔ 1 ≤ s.fld .queue q Que.depth ∧ s.fld .queue q Que.depth ≤ 16384 ∧ s.fld .context own Ctx.state ≠ 0 ∧
      ∀ f ∈ Que.reserved, s.fld .queue q f = 0) ∧
    (st ≠ 0 → QueReports .queueOpen s q 2) ∧
    (st = 0 → s.queueValid q = false ∨ s.cfg own Ctx.qmax ≤ s.fld .context own Ctx.nqueues → QueReports .queueOpen s q 3) ∧
    (st = 0 → s.queueValid q = true → s.fld .context own Ctx.nqueues < s.cfg own Ctx.qmax → Runs .queueOpen s (fun t =>
      t = { s with sys := t.sys, queueCfg := s.queueCfg.set q (s.rcd .queue q), agenda := kick } ∧ elsewhere t own ∧
      t.rcd .context own = Ctx.nqueues.set (s.rcd .context own) (s.fld .context own Ctx.nqueues + 1) ∧
      t.rcd .queue q = ([(Que.nposted, 0), (Que.nready, 0), (Que.done, 0), (Que.late, 0), (Que.state, 1)] ++ ok).foldl
        (fun (r : Nat) (p : Fld × Nat) => p.1.set r p.2) (s.rcd .queue q))) ∧
    (st ≠ 1 → QueReports .queueHold s q 2) ∧
    (st = 1 → Runs .queueHold s (fun t => t.fld .queue q Que.state = 2 ∧ t.fld .queue q Que.cstat = 0 ∧ t.mem = s.mem ∧
      t.fld .queue q Que.cseq = (s.fld .queue q Que.cseq + 1) % 2 ^ 16 ∧ ∀ k, (s.kern k).queue = q → (t.kern k).chosen = none ∧ (t.kern k).candidate = none ∧ (t.kern k).aged = false)) ∧
    (st ≠ 2 → QueReports .queueRelease s q 2) ∧
    (st = 2 → Runs .queueRelease s (fun t => t = { s with sys := t.sys, agenda := kick } ∧ Sets s t .queue q ([(Que.state, 1)] ++ ok))) ∧
    (st = 0 → QueReports .queueFlush s q 2 ∧ QueReports .queueClose s q 2 ∧ QueReports .queueReconf s q 2) ∧
    (st ≠ 0 → Runs .queueFlush s (fun t => t.fld .queue q Que.state = st ∧ t.fld .queue q Que.cstat = 0 ∧
      t.fld .queue q Que.cseq = (s.fld .queue q Que.cseq + 1) % 2 ^ 16 ∧
      ∀ k y, s.kernels.get? k = some y → y.queue = q → y.unadmitted = true →
        (t.kern k).ending = some 1 ∨ (t.kern k).state = .retired ∧ (t.kern k).cause = 1)) ∧
    (st ≠ 0 → s.fld .queue q Que.nposted ≠ 0 → QueReports .queueClose s q 5) ∧
    (st ≠ 0 → s.fld .queue q Que.nposted = 0 → Runs .queueClose s (fun t => t = { s with sys := t.sys } ∧ elsewhere t ctx ∧
      t.rcd .context ctx = Ctx.nqueues.set (s.rcd .context ctx) (s.fld .context ctx Ctx.nqueues - 1) ∧
      t.rcd .queue q = ([(Que.state, 0)] ++ ok).foldl (fun (r : Nat) (p : Fld × Nat) => p.1.set r p.2) (s.rcd .queue q))) ∧
    (st ≠ 0 → s.queueValid q = false ∨ own ≠ ctx → QueReports .queueReconf s q 3) ∧
    (st ≠ 0 → s.queueValid q = true → own = ctx → Runs .queueReconf s (fun t =>
      t = { s with sys := t.sys, queueCfg := s.queueCfg.set q (s.rcd .queue q), agenda := kick } ∧ Sets s t .queue q ok))
  ) ∧
  (
  ∀ (s : State),
    (∀ pa v, s.place = .byteWrite pa v → inSys pa = false ∨ sysAt pa = none → exec .systemRecordWrite s = .next s) ∧
    (∀ pa v tab n k, s.place = .byteWrite pa v → inSys pa = true → sysAt pa = some (tab, n, k) →
      let old := s.rcd tab n
      let bit (i : Nat) : Bool :=
        if 8 * k ≤ i ∧ i < 8 * k + 8 ∧ tab.rwMask.testBit i = true then v.getLsbD (i - 8 * k) else old.testBit i
      (tab ≠ .power → tab ≠ .member → tab ≠ .link → Runs .systemRecordWrite s (fun t =>
        t = { s with sys := t.sys, agenda := s.agenda ++ follows tab n k v old (t.rcd tab n) } ∧
        (∀ i, (t.rcd tab n).testBit i = bit i) ∧ ∀ tab' m, tab'.addr m ≠ tab.addr n → t.rcd tab' m = s.rcd tab' m)) ∧
      (tab = .link → Runs .systemRecordWrite s (fun t =>
        t = { s with sys := t.sys, declared := t.declared, reach := t.reach } ∧ (∀ i, (t.rcd .link 0).testBit i = bit i) ∧
        (∀ tab' m, tab'.addr m ≠ tab.addr n → t.rcd tab' m = s.rcd tab' m) ∧
        (t.fld .link 0 Lnk.epoch = s.fld .link 0 Lnk.epoch → t.declared = s.declared ∧ t.reach = s.reach) ∧
        (t.fld .link 0 Lnk.epoch ≠ s.fld .link 0 Lnk.epoch →
          t.declared = [] ∧ ∀ p, p ∈ t.reach ↔ p ∈ s.reach ∧ p.1 / 64 ∉ s.declared))) ∧
      (tab = .power → ∃ p, p < 2 ^ 13 ∧ (∀ i, i < 13 → p.testBit i = bit i) ∧
        let limit := max 2400 (min 4800 p)
        Runs .systemRecordWrite s (fun t => t.fld .power 0 Pwr.plimit = limit ∧ (∀ i, 13 ≤ i → (t.rcd .power 0).testBit i = bit i) ∧
          t = { s with sys := t.sys, agenda := s.agenda ++
            (if s.fld .power 0 Pwr.plimit = limit then [] else [.event (.plimit (BitVec.ofNat 13 limit)) .plimitWrite]) })) ∧
      (tab = .member →
        let was := s.fld .member n Mem.state
        let given := if k = 0 then v.toNat % 4 else was
        let is := if 2 ≤ given then was else given
        Runs .systemRecordWrite s (fun t => t.fld .member n Mem.state = is ∧ (∀ i, 2 ≤ i → (t.rcd .member n).testBit i = old.testBit i) ∧
          t = { s with sys := t.sys, agenda := s.agenda ++ (if was = given then [] else [.event (.beat 0 n) .heartbeatPeriodMissed]) }))) ∧
    (∀ v, s.place = .rsv v →
      let u := s.setFld .cox 0 Cox.rsv v.toNat
      Runs .rsvWrite s (fun t => t.agenda.getLast? = some (.event .none .coxChoose) ∧
        ((∀ p ∈ s.kernels, u.persistFits p.1 = true ∨ (s.kern p.1).unfitLogged = true) →
          t = { s with sys := t.sys, kernels := t.kernels, agenda := t.agenda } ∧ t.rsv = v.toNat % 2 ^ 28 ∧
          ∀ k y, s.kernels.get? k = some y → y.state = .ready → s.lch k Lch.persistent = 1 → (t.kern k).unfit = !u.persistFits k)))
  )

/-- Messages of the host that arrive in their turn (R102 to R106). WRITE writes its bytes as one stroke, unless a held stroke has one of its
lines, READ is answered by READDATA, LAUNCH posts the kernel that its tests let pass and its COMPLETION tells the status, SIGNAL makes one
arrival or one raise on the object it names, ACK that advances takes the acknowledged messages out of the replay window, any other ACK has
the window sent again, and QUERY is answered with both numbers. A message with the next number uses it up as it arrives; where it must
wait, or another one waits, it stands last in the inbox until its turn (R104, R105). One with another number is not performed. A malformed
ACK is ignored; another malformed message in its turn is answered by a COMPLETION of kind 3 with status 3 and uses up its number. A frame
from another sender than the host, not for the module, not of the EtherType 0x88B5, above the greatest size or with a bad check sequence
is dropped and counted; any other gives its message to the step that performs it (R102). Messages not acknowledged for 100 µs are sent
again in order (R105). TELEMETRY goes out each period, and is dropped while the replay window is full (R430). (The model's readings and
choices in this: log 59.) -/
def Obligations.HostMessages : Prop :=
  (
  ∀ (s : State) (m : HostMsg),
    let u := taken s m
    let va := m.at_ 0 8
    let bs := m.body.drop 8
    (Arrives s m 1 → ∀ l, (u.hostWritable m.ctx va bs.length).hostReach m.ctx va bs.length .write = .ok l →
      (((u.hostWritable m.ctx va bs.length).linesHeld (linesOfPieces l) = false → Runs .plofoWrite s (fun t =>
        t.mem = (((u.hostWritable m.ctx va bs.length).drawOrder).writePieces l bs).mem ∧
        t.order = (u.hostWritable m.ctx va bs.length).order + 1 ∧ t.host.nextIn = u.host.nextIn)) ∧
      ((u.hostWritable m.ctx va bs.length).linesHeld (linesOfPieces l) = true → Runs .plofoWrite s (fun t =>
        t.mem = s.mem ∧ m ∈ t.host.inbox ∧ t.host.nextIn = u.host.nextIn)))) ∧
    (Arrives s m 1 → m.ctx = 0xFFFF → 0x200_0000 ≤ va → va + bs.length ≤ 2 ^ 39 →
      s.linesHeld ((List.range ((va + bs.length - 1) / 128 + 1 - va / 128)).map (fun i => va / 128 + i)) = false →
      Runs .plofoWrite s (fun t => t.mem = Memory.writes s.mem va bs ∧ t.order = s.order + 1)) ∧
    (Arrives s m 2 → ∀ l, u.hostReach m.ctx va (m.at_ 8 4) .read = .ok l → u.linesHeld (linesOfPieces l) = false →
      Runs .plofoRead s (fun t => Tells t 0x82 m.ctx (toBytes 8 m.seq ++ u.readPieces l) ∧ t.mem = s.mem ∧ t.order = s.order + 1 ∧
        t.host.nextIn = u.host.nextIn)) ∧
    (Arrives s m 3 → m.ctx = 0xFFFF ∨ s.ctxThere m.ctx = true →
      let launch := m.at_ 8 256
      let q := Lch.queue.get launch
      (∀ k deps, u.launchTest m.ctx launch Que.host (decide (m.at_ 0 2 = q)) q = .post k deps → Runs .plofoLaunch s (fun t =>
        (t.kern k).state = .posted ∧ (t.kern k).launch = launch ∧ (t.kern k).queue = q ∧ (t.kern k).deps = deps ∧
        t.host.nextIn = u.host.nextIn ∧ Tells t 0x81 m.ctx (completionBody m.seq 0 0 (t.handle k) 0 0))) ∧
      (∀ st, u.launchTest m.ctx launch Que.host (decide (m.at_ 0 2 = q)) q = .refused st → Runs .plofoLaunch s (fun t =>
        t.kernels = s.kernels ∧ Tells t 0x81 m.ctx (completionBody m.seq 0 st 0 0 0)))) ∧
    (∀ l pa t', let w := u.hostWritable m.ctx va 32
      Arrives s m 4 → va % 32 = 0 → w.hostReach m.ctx va 32 .read = .ok l → (l.head?.map (fun (p : Nat × Hit × Nat) => p.2.1.pa)) = some pa →
      (∀ p : Nat × Hit × Nat, p ∈ l → Pte.m p.2.1.leaf = false ∧ Pte.kv p.2.1.leaf = false) →
      (m.ctx = 0xFFFF ∨ ∀ e ea big, w.leafOf m.ctx va = some (e, ea, big) → Pte.c e = false) →
      (m.at_ 8 1 = 0 → 1 ≤ m.at_ 16 8 → m.at_ 16 8 ≤ 65535 → Bar.mode.get (w.num pa 32) = 1 → w.barPerform pa (.arrive (m.at_ 16 8)) = .ok t' →
        Runs .plofoSignalArrive s (fun t => t.mem = t'.mem)) ∧
      (m.at_ 8 1 = 1 → Bar.mode.get (w.num pa 32) = 2 → w.barPerform pa (.raise (m.at_ 16 8)) = .ok t' →
        Runs .plofoSignalRaise s (fun t => t.mem = t'.mem))) ∧
    (s.place = .host m → s.power = .up → m.ok = true → m.typ = 0 →
      (s.host.acked < m.ack → m.ack ≤ s.host.nextOut → s.host.waiting = [] → s.host.queried = false → Runs .plofoAck s (fun t =>
        t.host.acked = m.ack ∧ t.host.window = s.host.window.filter (fun o => decide (m.ack ≤ o.seq)) ∧ t.host.sent = s.host.sent ∧
        t.host.lastAdvance = s.clock)) ∧
      (m.ack ≤ s.host.acked → m.ack ≤ s.host.nextOut → Runs .plofoAck s (fun t => t.host.window = s.host.window ∧
        t.host.sent.take s.host.sent.length = s.host.sent ∧
        (t.host.sent.drop s.host.sent.length).map (fun o => (o.seq, o.body, o.ack)) =
          s.host.window.map (fun o => (o.seq, o.body, s.host.nextIn))))) ∧
    (s.place = .host m → s.power = .up → m.ok = true → m.typ = 5 → Runs .plofoQuery s (fun t =>
      Tells t 0x81 m.ctx (completionBody 0 2 0 0 t.host.nextIn (t.host.nextOut - 1)) ∧ t.host.nextIn = s.host.nextIn ∧ t.mem = s.mem)) ∧
    (∀ i, i ∈ [Instr.plofoWrite, .plofoRead, .plofoLaunch, .plofoSignalArrive, .plofoSignalRaise] → s.place = .host m → s.power = .up →
      m.ok = true → m.unsequenced = false → m.seq ≠ s.host.nextIn → s.host.inbox.head? ≠ some m →
      Runs i s (fun t => t.mem = s.mem ∧ t.host.nextIn = s.host.nextIn ∧ t.kernels = s.kernels)) ∧
    (s.place = .host m → s.power = .up → m.ok = true → m.unsequenced = false → m.seq = s.host.nextIn → s.host.inbox ≠ [] →
      s.host.inbox.head? ≠ some m → Runs m.event s (fun t => t.mem = s.mem ∧ t.kernels = s.kernels ∧ t.host.inbox = s.host.inbox ++ [m] ∧
        t.host.nextIn = s.host.nextIn + 1)) ∧
    (s.place = .host m → s.power = .up → m.ok = false → s.host.inbox = [] →
      (m.typ = 0 → exec .plofoAck s = .next s) ∧
      (m.typ ≠ 0 → m.unsequenced = false → m.seq = s.host.nextIn → Runs .plofoWrite s (fun t =>
        t.mem = s.mem ∧ t.host.nextIn = s.host.nextIn + 1 ∧ Tells t 0x81 m.ctx (completionBody m.seq 3 3 0 0 0))))
  ) ∧
  (
  ∀ (s : State), s.power = .up →
    (∀ f : EthFrame,
      let bad : Prop := f.dst ≠ s.mac ∨ f.src ≠ s.hostMac ∨ f.etype ≠ 0x88B5 ∨ f.fcsOk = false ∨
        (if f.tagged then 1522 else 1518) < 18 + (if f.tagged then 4 else 0) + max 46 (32 + f.msg.body.length)
      (bad → s.arrival f = (.frame f, .frameDrop)) ∧ (¬bad → s.arrival f = (.host f.msg, f.msg.event)) ∧
      (s.place = .frame f →
        (bad → exec .frameDrop s = .next { s with host := { s.host with dropped := s.host.dropped + 1 } }) ∧
        (¬bad → exec .frameDrop s = .next s))) ∧
    (s.host.window ≠ [] → 150000 ≤ s.clock - s.host.lastAdvance → Runs .replayResendTimeout s (fun t =>
      t = { s with host := t.host } ∧ t.host.window = s.host.window ∧ t.host.lastAdvance = s.clock ∧
      t.host.sent.take s.host.sent.length = s.host.sent ∧
      (t.host.sent.drop s.host.sent.length).map (fun o => (o.seq, o.body, o.ack)) =
        s.host.window.map (fun o => (o.seq, o.body, s.host.nextIn)))) ∧
    (s.fld .power 0 Pwr.tint ≠ 0 → s.host.lastTelem + s.fld .power 0 Pwr.tint * 1500000 ≤ s.clock → Runs .telemetry s (fun t =>
      t = { s with host := t.host } ∧ t.host.lastTelem = s.clock ∧
      (s.host.window.length < Config.replayWindow → t.host.window.length = s.host.window.length + 1 ∧
        ∃ o, t.host.sent.getLast? = some o ∧ o.typ = 0x84 ∧ o.seq = s.host.nextOut ∧ o.body = s.telemetryBody) ∧
      (Config.replayWindow ≤ s.host.window.length → t.host.sent = s.host.sent)))
  )

/-! ## Events: kernels and crews -/

/-- A posted or blocked kernel whose dependences are all met is ready, one with a dependence left is blocked, and one with a dependence that
has failed is to retire as cancelled (R109, R110). A candidate of 50,000 ns is aged (R93). The urgency of a kernel follows its deadline
(R114). The candidates stand in an order in which none goes before an earlier one by R93's tests: class, aged before not aged, time of
becoming a candidate or deadline, posting, queue. One whose first placement fits is admitted at once where it needs no leave, else its
units are asked for on each die; the next is tried after it. One that does not fit, or whose units are asked for, is passed over; but an
aged one ends the choice, and one that does not fit has the cox consider a stop (R94, R112). While a bay is planned for the first crew of
a kernel just admitted, one that does not fit ends the choice: it is tried again once that crew is placed (log 47). The stop that the cox
makes for an aged candidate falls on the kernel it has found (R117). The governor of a die grants the first request there where its held
units and those asked for fit its budget, and refuses it otherwise (R426). An answer for the admission of a kernel whose choice stands
counts; with the last grant the kernel is admitted where its first placement still fits, unless a candidate that comes before it has aged;
a refusal withdraws the choice; a grant for a choice that no longer stands goes back (R94, R112). -/
def Obligations.Admission : Prop :=
  (
  ∀ (s : State) (k : Nat), s.place = .kernel k →
    let y := s.kern k
    let left := y.deps.filter (fun d => decide (s.depHolds d ≠ some true))
    (y.state = .posted ∨ y.state = .blocked → y.ending = none →
      ((∃ d ∈ left, s.depHolds d = some false) → Runs .kernelDependenceMet s (fun t =>
        t = { s with kernels := t.kernels, agenda := s.agenda ++ [.event (.kernel k) .kernelRetire] } ∧ (t.kern k).ending = some 1 ∧
        (t.kern k).state = y.state)) ∧
      ((∀ d ∈ left, s.depHolds d ≠ some false) → left ≠ [] → Runs .kernelDependenceMet s (fun t =>
        t = { s with kernels := t.kernels, sys := t.sys } ∧ t.kern k = { y with deps := left, state := .blocked })) ∧
      (left = [] → Runs .kernelDependenceMet s (fun t => (t.kern k).state = .ready ∧ (t.kern k).deps = [] ∧ (t.kern k).stop = none ∧
        t.agenda.getLast? = some (.event .none .coxChoose) ∧ t.crews = s.crews))) ∧
    (∀ c, y.candidate = some c → y.aged = false →
      (c + 50000 ≤ s.time → Runs .candidateAged s (fun t =>
        t = { s with kernels := t.kernels, agenda := s.agenda ++ [.event .none .coxChoose] } ∧ t.kern k = { y with aged := true } ∧
        ∀ j, j ≠ k → t.kern j = s.kern j)) ∧
      (s.time < c + 50000 → exec .candidateAged s = .next s)) ∧
    (let dl := s.lch k Lch.deadline
     let u := s.lch k Lch.urgency
     Runs .urgencyUpdate s (fun t => t = { s with kernels := t.kernels } ∧ (∀ j, j ≠ k → t.kern j = s.kern j) ∧
       t.kern k = { y with urg := if dl = 0 ∨ s.time + 100000 < dl then u else if s.time ≤ dl then min 3 (u + 1) else 3 }))
  ) ∧
  (
  ∀ (s : State),
    let u := s.refreshCandidates
    (u.candidates = [] → exec .coxChoose s = .next u) ∧
    (let cls (k : Nat) : Nat := u.qcfg (u.kern k).queue Que.cls
     let cand (k : Nat) : Nat := (u.kern k).candidate.getD 0
     let key (k : Nat) : Nat := if u.lch k Lch.deadline = 0 then 2 ^ 64 - 1 else u.lch k Lch.deadline
     let last (j k : Nat) : Prop := (u.kern j).posted < (u.kern k).posted ∨
       (u.kern j).posted = (u.kern k).posted ∧ (u.kern j).queue < (u.kern k).queue
     let before (j k : Nat) : Prop := cls k < cls j ∨ cls j = cls k ∧
       ((u.kern j).aged = true ∧ (u.kern k).aged = false ∨
        (u.kern j).aged = true ∧ (u.kern k).aged = true ∧ (cand j < cand k ∨ cand j = cand k ∧ last j k) ∨
        (u.kern j).aged = false ∧ (u.kern k).aged = false ∧ (key j < key k ∨ key j = key k ∧ last j k))
     u.candidates.Pairwise (fun j k => ¬before k j) ∧ ∀ k, k ∈ u.candidates ↔ (s.kernels.get? k).isSome = true ∧ u.isCandidate k = true) ∧
    exec .coxChoose s = .next (State.tryAll u.candidates u) ∧
    (∀ k rest (w : State), let y := w.kern k
      (y.chosen ≠ none → y.aged = false → State.tryAll (k :: rest) w = State.tryAll rest w) ∧
      (y.chosen ≠ none → y.aged = true → State.tryAll (k :: rest) w = w) ∧
      (y.chosen = none → w.planOf k = none → w.someAwaited = true → State.tryAll (k :: rest) w = w) ∧
      (y.chosen = none → w.planOf k = none → w.someAwaited = false → y.aged = false → State.tryAll (k :: rest) w = State.tryAll rest w)) ∧
    (∀ k rest, u.candidates = k :: rest → k ∉ rest →
      ((u.kern k).chosen = none →
        (∀ plan, u.planOf k = some plan →
          (u.unitsOf k plan 0 = 0 → u.unitsOf k plan 1 = 0 → Runs .coxChoose s (fun t =>
            (t.kern k).state = .admitted ∧ (t.kern k).plan = plan ∧ (t.kern k).candidate = none ∧ t.crews = s.crews ∧
            .event (.kernel k) .kernelPlacing ∈ t.agenda)) ∧
          (u.unitsOf k plan 0 ≠ 0 ∨ u.unitsOf k plan 1 ≠ 0 → Runs .coxChoose s (fun t =>
            (t.kern k).chosen = some ([0, 1].filter (fun d => decide (u.unitsOf k plan d ≠ 0))) ∧ (t.kern k).plan = plan ∧
            ∃ others, t.gov = s.gov ++ ([0, 1].filter (fun d => decide (u.unitsOf k plan d ≠ 0))).map
              (fun d => ⟨d, .admission k ((u.kern k).attempt + 1) (u.unitsOf k plan d)⟩) ++ others ∧ ((u.kern k).aged = true → others = [])))) ∧
        (u.planOf k = none → u.someAwaited = true → exec .coxChoose s = .next u) ∧
        (u.planOf k = none → u.someAwaited = false → (u.kern k).aged = true → exec .coxChoose s = .next (u.post (.kernel k) .coxPreempt)))) ∧
    (∀ k v, s.place = .kernel k → s.isCandidate k = true → (s.kern k).aged = true → s.planOf k = none →
      (∀ p ∈ s.kernels, p.2.stop ≠ some .cox) → s.victim k = some v →
      s.lch v Lch.nsave ≠ 0 ∧ Runs .coxPreempt s (fun t => (t.kern v).state = .stopping ∧ (t.kern v).stop = some .cox ∧ t.mem = s.mem))
  ) ∧
  (
  ∀ (s : State),
    (∀ d r, s.place = .die d → s.gov.find? (fun r => decide (r.die = d)) = some r →
      let held := s.fld .power 0 (heldFld d)
      Runs .governorRequest s (fun t => t = { s with gov := s.gov.erase r, answers := t.answers, sys := t.sys } ∧
        (held + r.what.units ≤ s.fld .power 0 (budgetFld d) → t.answers = s.answers ++ [(r, true)] ∧
          Sets s t .power 0 [(heldFld d, held + r.what.units)]) ∧
        (s.fld .power 0 (budgetFld d) < held + r.what.units → t.answers = s.answers ++ [(r, false)] ∧ t.sys = s.sys))) ∧
    (∀ k die a n ok, s.place = .kernel k →
      s.answers.find? (fun x => match x.1.what with | .admission j _ _ => decide (j = k) | .raise .. => false | .leave .. => false) =
        some (⟨die, .admission k a n⟩, ok) →
      let y := s.kern k
      let stands : Prop := y.attempt = a ∧ ∃ l, y.chosen = some l ∧ die ∈ l
      let left : List Nat := (y.chosen.getD []).filter (fun x => decide (x ≠ die))
      let u := { s with answers := s.answers.erase (⟨die, .admission k a n⟩, ok) }.setKern k
        (fun y => { y.setHeld die (y.held die + n) with chosen := some [] })
      let fits : Prop := (u.lch k Lch.persistent = 1 → (u.baysTaking k y.plan (u.ncrews k) []).isSome = true) ∧
        (u.lch k Lch.persistent ≠ 1 → ∃ b ∈ y.plan, 0 < u.bayCrews b k)
      let aged : Prop := ∃ p ∈ u.kernels, p.1 ≠ k ∧ p.2.aged = true ∧ u.isCandidate p.1 = true ∧ lexLe (u.rank p.1) (u.rank k) = true
      (stands → ok = false → Runs .admissionGrant s (fun t => (t.kern k).chosen = none ∧ (t.kern k).held0 = 0 ∧ (t.kern k).held1 = 0 ∧
        (t.kern k).state = y.state)) ∧
      (¬stands → ok = false → exec .admissionGrant s = .next { s with answers := s.answers.erase (⟨die, .admission k a n⟩, ok) }) ∧
      (¬stands → ok = true → Runs .admissionGrant s (fun t => t.kernels = s.kernels ∧
        Sets s t .power 0 [(heldFld die, s.fld .power 0 (heldFld die) - n)])) ∧
      (stands → ok = true → left ≠ [] → Runs .admissionGrant s (fun t =>
        (t.kern k).chosen = some left ∧ (t.kern k).held die = y.held die + n ∧ (t.kern k).state = y.state)) ∧
      (stands → ok = true → left = [] → fits → u.isCandidate k = true → ¬aged → Runs .admissionGrant s (fun t =>
        (t.kern k).state = .admitted ∧ (t.kern k).held die = y.held die + n)) ∧
      (stands → ok = true → left = [] → ¬fits ∨ u.isCandidate k = false ∨ aged → Runs .admissionGrant s (fun t =>
        (t.kern k).chosen = none ∧ (t.kern k).held0 = 0 ∧ (t.kern k).held1 = 0 ∧ (t.kern k).state = y.state)))
  )

/-- An admitted kernel reads its bent table and is placing; with a malformed table it is faulted (R110, R138). A kernel whose cut is complete
is stopped, or ready again where the cox or a suspension stopped it (R110, R117). A kernel whose work is done retires: completed where all
its crews have exited, trapped where it met a fault, or with the cause it was to end with (R110, R111). The stop message of a stopping
kernel reaches each of its crews (R117, R118): an MMA in the pipe ends after its current block, the reductions of the later blocks are
dropped, and the number of blocks computed is the crew's progress index (R118, R294). A drained crew of a stopping kernel is saved into a
free slot of the save area, and leaves its bay (R118, R120). (The model's readings and choices in this: log 48, 49, 63, 88.) -/
def Obligations.KernelStates : Prop :=
  (
  ∀ (s : State) (k : Nat), s.place = .kernel k →
    let y := s.kern k
    (y.state = .admitted → y.ending = none →
      (∀ l, s.bentTable k = .ok (some l) → y.exited < s.ncrews k → Runs .kernelPlacing s (fun t =>
        t = { s with kernels := t.kernels, sys := t.sys } ∧ t.kern k = { y with bents := l, state := .placing } ∧
        ∀ j, j ≠ k → t.kern j = s.kern j)) ∧
      (s.bentTable k = .ok none → Runs .kernelPlacing s (fun t => (t.kern k).state = .faulted ∧ t.crews = s.crews))) ∧
    (y.state ≠ .admitted ∨ y.ending ≠ none → exec .kernelPlacing s = .next s) ∧
    (s.cutDone k = false → exec .stopCutComplete s = .next s) ∧
    (s.cutDone k = true → Runs .stopCutComplete s (fun t =>
      (t.kern k).state = (if y.stop = some .kstop then .stopped else .ready) ∧ (t.kern k).held0 = 0 ∧ (t.kern k).held1 = 0 ∧
      t.crews = s.crews ∧ ∀ b, (t.bay b).kerns.get? k = none)) ∧
    (∀ cause, y.state ≠ .retired → s.workDone k = true →
      (y.ending = some cause ∧ y.killLater = false ∨
        y.ending = none ∧ s.ncrews k ≤ y.nextCrew ∧ s.ncrews k ≤ y.exited ∧
          (y.state = .running ∧ cause = 0 ∨ y.state = .trapped ∧ cause = 3)) →
      Runs .kernelRetire s (fun t => (t.kern k).state = .retired ∧ (t.kern k).cause = cause ∧ (t.kern k).gen = y.gen ∧
        (t.kern k).held0 = 0 ∧ (t.kern k).held1 = 0)) ∧
    (s.workDone k = false ∨ y.state = .retired → exec .kernelRetire s = .next s)
  ) ∧
  (
  ∀ (s : State),
    (∀ k, s.place = .kernel k → (s.kern k).state = .stopping → (s.kern k).messaged = true → (s.kern k).ending = none →
      Runs .kernelStopMessage s (fun t => t.agenda.getLast? = some (.event (.kernel k) .stopCutComplete) ∧ t.mem = s.mem ∧
        ∀ rid c, s.crews.get? rid = some c → c.kernel = k → ∃ d, t.crews.get? rid = some d ∧ d.stopping = true ∧ d.kernel = k)) ∧
    (∀ rid c r, s.crews.get? rid = some c → c.mmaRun = some r → c.strokes = [] →
      let n := max r.first (min 16 (s.clock + 1 - r.start))
      n < 16 → ∃ d, (s.stopCrew rid).crews.get? rid = some d ∧ d.progress = n ∧ d.mmaRun = none ∧
        (s.stopCrew rid).reds = s.reds.filter (fun x => decide (¬(x.mma = some r.id ∧ n ≤ x.block))) ∧
        ∀ f, r.job.flag = some f → d.flags.getLsbD f.val = false) ∧
    (∀ rid slot c l blocks, s.place = .save rid slot → s.crews.get? rid = some c → (s.kern c.kernel).state = .stopping →
      (s.kern c.kernel).ending = none → s.drained c = true → s.saveFree c.kernel slot = true →
      let u := (pieces (s.saveVa c.kernel slot) 40960).foldl (fun (s : State) p => s.makeWritable (c.ctx s) p.1) s
      u.saveReach c.kernel slot .write = .ok l → u.liveBlocks rid c = .ok blocks → Runs .crewSave s (fun t =>
        t.mem = (u.writePieces l (u.saveBytes rid c blocks)).mem ∧ t.crews.get? rid = none ∧
        (∀ r, r ≠ rid → t.crews.get? r = s.crews.get? r) ∧ ((t.kern c.kernel).keepOf c.idx).save = some slot ∧
        ((t.kern c.kernel).keepOf c.idx).savedTrapped = (decide (c.life = .trapped) ||
          ((s.kern c.kernel).keepOf c.idx).savedTrapped && decide (c.life = .placed)) ∧ (t.kern c.kernel).state = .stopping))
  )

/-- The next crew of a kernel is placed in a free slot of a side that can take it (R115): a fresh one with every lane active, argva in v0:1 of
every lane and 0 in every other register, the allotment and the tag of the launch record; one that was saved with the state of its save
slot, sr.stroke 0 and the progress index saved (R122, R226). A bay outside the trusses that hold a member of one of the crew's bents with
affinity is passed over while a side in one of them can take the crew (R115, R137), and a saved crew goes where the function unit takes
the instructions it has to be replayed (R176, R201; log 95); a bad walk of its save slot is a context fault (R80). Of a persistent kernel
each crew goes to a side that can take it while there is one, and all crews are placed together, or none where one finds no side (R115).
The fetch of a segment into a kernel slot fills it, or finds the segment malformed: the slot is empty and the kernel faulted, which one
that is faulted already shows no second time (R122 to R124). A crew whose kernel slot 0 is full, and slot 15 where it has a resident debug
handler, becomes resident where the pending set of its side holds fewer than 24 crews: pending, a fresh one at the first start-marked
granule of the launch segment, a saved one where it stood, and trapped where it was saved so (R115, R123, R135, R141, R395). (The model's
readings and choices in this: log 8, 47, 48, 49.) -/
def Obligations.Placement : Prop :=
  (
  ∀ (s : State) (k : Nat), s.places k = true →
    (∀ b d idx, s.place = .kernelSide k b d → s.lch k Lch.persistent = 0 → s.freeSlots b d ≠ [] →
      let others (t : State) (rid : Nat) : Prop := ∀ r, r ≠ rid → t.crews.get? r = s.crews.get? r
      (∀ sv blocks map, s.nextCrewOf k = some (idx, sv) →
        (sv = none → blocks = s.lch k Lch.allot + 1 ∧ map = none) →
        (∀ x, sv = some x → ∃ l, s.saveReach k x .read = .ok l ∧ blocks = s.blocksOf k x l ∧ map = some (s.savedMap k x l)) →
        s.canHost k b d blocks map = false ∨ ¬Claims.Prefers s k idx b blocks map ∨
          (∃ x l, sv = some x ∧ s.saveReach k x .read = .ok l ∧ s.fuTakes b d k x l = false) → exec .crewPlace s = .next s) ∧
      (∀ x cause, s.nextCrewOf k = some (idx, some x) → s.saveReach k x .read = .bad cause →
        exec .crewPlace s = .next (s.ctxFault (s.kern k).ctx cause)) ∧
      (s.nextCrewOf k = some (idx, none) → s.canHost k b d (s.lch k Lch.allot + 1) none = true →
        Claims.Prefers s k idx b (s.lch k Lch.allot + 1) none → Runs .crewPlace s (fun t =>
        ∃ slot ∈ s.freeSlots b d, ∃ c, t.crews.get? (sideRid b d slot) = some c ∧ others t (sideRid b d slot) ∧ c.kernel = k ∧ c.idx = idx ∧
          c.life = .placed ∧ c.fresh = true ∧ c.em = 0xFFFF_FFFF#32 ∧ c.exited = 0#32 ∧ c.flags = 0#12 ∧ c.stack = [] ∧ c.strokes = [] ∧
          c.handler = false ∧ c.allot = 8 * (s.lch k Lch.allot + 1) ∧
          c.tag = (if s.lch k Lch.tagged = 1 then BitVec.ofNat 32 (s.lch k Lch.tag) else 0#32) ∧
          (∀ l, l < 32 → c.val 2 0#8 l = sext56 (s.lch k Lch.argva) ∧ ∀ r, 2 ≤ r → c.reg r l = 0#32) ∧
          (t.kern k).nextCrew = max (s.kern k).nextCrew (idx + 1) ∧ ((t.kern k).keepOf idx).placed = true ∧ t.mem = s.mem)) ∧
      (∀ sv l, s.nextCrewOf k = some (idx, some sv) → s.saveReach k sv .read = .ok l →
        s.canHost k b d (s.blocksOf k sv l) (some (s.savedMap k sv l)) = true → s.fuTakes b d k sv l = true →
        Claims.Prefers s k idx b (s.blocksOf k sv l) (some (s.savedMap k sv l)) → Runs .crewPlace s (fun t =>
          let h := s.saved k sv l 0 64
          ∃ slot ∈ s.freeSlots b d, ∃ c, t.crews.get? (sideRid b d slot) = some c ∧ others t (sideRid b d slot) ∧ c.kernel = k ∧ c.idx = idx ∧
            c.life = .placed ∧ c.fresh = ((s.kern k).keepOf idx).fresh ∧ c.restAt = ((s.kern k).keepOf idx).restAt ∧ c.pc = Frm.pc.get h ∧ c.slot = Frm.slot.get h ∧ c.exited = BitVec.ofNat 32 (Frm.exited.get h) ∧
            c.em = BitVec.ofNat 32 (Frm.em.get h) &&& ~~~c.exited ∧ c.flags = BitVec.ofNat 12 (Frm.flags.get h) ∧
            c.tag = BitVec.ofNat 32 (Frm.tag.get h) ∧ c.handler = ((s.kern k).keepOf idx).handler ∧
            c.srStroke = 0 ∧ c.progress = slice 127 96 (s.saved k sv l 0x1000 64) ∧ c.mma = ((s.kern k).keepOf idx).mma ∧
            ((t.kern k).keepOf idx).save = none ∧ t.mem = s.mem))) ∧
    (∀ cause, s.place = .kernel k → s.lch k Lch.persistent = 1 → s.saveBad k = some cause →
      exec .crewPlace s = .next (s.ctxFault (s.kern k).ctx cause)) ∧
    (s.place = .kernel k → s.lch k Lch.persistent = 1 → s.saveBad k = none →
      let placed (n : Nat) : Option State := (fun o : Option State => o.bind (fun a => a.placeFirst k (a.planSides k)))^[n] (some s)
      (∀ n t, n ≤ s.ncrews k → placed n = some t → t.nextCrewOf k = none → exec .crewPlace s = .next t) ∧
      (∀ n t, n < s.ncrews k → placed n = some t → t.nextCrewOf k ≠ none → t.placeFirst k (t.planSides k) = none →
        exec .crewPlace s = .next s)) ∧
    (∀ idx b d, s.nextCrewOf k = some (idx, none) → (b, d) ∈ s.planSides k → s.freeSlots b d ≠ [] →
      s.canHost k b d (s.lch k Lch.allot + 1) none = true → Claims.Prefers s k idx b (s.lch k Lch.allot + 1) none →
      ∃ t rid c, s.placeFirst k (s.planSides k) = some t ∧ s.crews.get? rid = none ∧ t.crews.get? rid = some c ∧ c.kernel = k ∧
        c.idx = idx ∧ c.life = .placed ∧ (t.kern k).nextCrew = max (s.kern k).nextCrew (idx + 1) ∧
        ∀ r, r ≠ rid → t.crews.get? r = s.crews.get? r)
  ) ∧
  (
  ∀ (s : State),
    (∀ k b n va lines, s.place = .kernelBay k b → s.coxFills b k = [(n, va, lines)] →
      (∀ ws, s.segment (s.kern k).ctx va lines = .ok ws → Runs .launchSegmentFetched s (fun t => t = { s with bays := t.bays } ∧
        t.codeSlot b k n = .full va lines ws ∧ ∀ m, m ≠ n → t.codeSlot b k m = s.codeSlot b k m)) ∧
      (∀ aux addr, s.segment (s.kern k).ctx va lines = .malformed aux addr → Runs .launchSegmentFetched s (fun t =>
        t.codeSlot b k n = .empty ∧ (t.kern k).state = .faulted ∧ ((s.kern k).state = .faulted → t = { s with bays := t.bays })))) ∧
    (∀ rid c ws lines, s.place = .crew rid → s.crews.get? rid = some c → c.life = .placed →
      (s.codeSlot (ridBay rid) c.kernel 0).code? = some (ws, lines) →
      (c.debug = true ∧ (s.codeSlot (ridBay rid) c.kernel 15).code? = none → exec .crewResident s = .next s) ∧
      (c.debug = false ∨ (∃ x, (s.codeSlot (ridBay rid) c.kernel 15).code? = some x) →
      (((s.kern c.kernel).keepOf c.idx).savedTrapped = false → 24 ≤ (s.side (ridBay rid) (ridSide rid)).pending.length →
        exec .crewResident s = .next s) ∧
      (((s.kern c.kernel).keepOf c.idx).savedTrapped = false → (s.side (ridBay rid) (ridSide rid)).pending.length < 24 → Runs .crewResident s (fun t =>
        t = { s with crews := t.crews, bays := t.bays } ∧ OnlySide s t (ridBay rid) (ridSide rid) ∧
        (t.side (ridBay rid) (ridSide rid)).pending = (s.side (ridBay rid) (ridSide rid)).pending ++ [ridSlot rid] ∧
        t.crews.get? rid = some { c with
          life := .pending, fresh := false, pc := if c.fresh then 4 * (firstFrom ws lines 0).getD 0 else c.pc })) ∧
      (((s.kern c.kernel).keepOf c.idx).savedTrapped = true → Runs .crewResident s (fun t =>
        t = { s with crews := t.crews, kernels := t.kernels } ∧ t.crews.get? rid = some { c with life := .trapped } ∧
        ((t.kern c.kernel).keepOf c.idx).savedTrapped = false)))) ∧
    (∀ rid c, s.place = .crew rid → s.crews.get? rid = some c → c.life ≠ .placed ∨ (s.codeSlot (ridBay rid) c.kernel 0).code? = none →
      exec .crewResident s = .next s)
  )

/-- A crew all of whose lanes have exited, or whose kernel ends, exits once no stroke of it is in flight: it counts for its kernel and, with
no result outstanding, frees its place (R131, R135); so does a stopping crew of a kernel in the state faulted (the model's reading, log
16). At its final EXIT, unless a cancellation came before it, the reductions and the commands not yet in a batch close into one further
batch (R296, R327). A crew of a cancelled node is squashed whole, every lane of it exits, its commands are aborted, and no write of it to
a KV page that it has posted to its own module and that is not performed is left (R344). A trap that waited for its crew's strokes enters
its handler when they have committed, and is a double trap in a handler (R172). A late fault appends its record to the fault log of its
context, and its kernel, if it runs, is trapped (R86, R178). (The model's readings and choices in this: log 57.) -/
def Obligations.CrewEnds : Prop :=
  (
  ∀ (s : State) (rid : Nat) (c : Crew), s.place = .crew rid → s.crews.get? rid = some c →
    (c.life ≠ .exited → c.strokes = [] → (c.exited = 0xFFFF_FFFF#32 ∧ c.trap = none ∨ (s.kern c.kernel).ending ≠ none ∨
        (s.kern c.kernel).state = .faulted ∧ c.stopping = true) →
      let e := (s.kern c.kernel).keepOf c.idx
      let final : Prop := c.exited = 0xFFFF_FFFF#32 ∧ c.cancelled = false
      Runs .crewExit s (fun t => (t.kern c.kernel).exited = (s.kern c.kernel).exited + 1 ∧
        ((t.kern c.kernel).keepOf c.idx).exited = true ∧
        ((t.kern c.kernel).keepOf c.idx).mcount = (if final ∧ e.mopen = true then e.mcount + 1 else e.mcount) ∧
        ((t.kern c.kernel).keepOf c.idx).ecount = (if final ∧ e.eopen = true then e.ecount + 1 else e.ecount) ∧
        (c.pends = [] → t.crews.get? rid = none) ∧
        (c.pends ≠ [] → ∃ d, t.crews.get? rid = some d ∧ d.life = .exited ∧ d.em = 0#32 ∧ d.pends = c.pends))) ∧
    (s.canExit c = false → exec .crewExit s = .next s) ∧
    (c.doomed ≠ none → c.life ≠ .exited → Runs .crewCancel s (fun t => t.agenda.getLast? = some (.event (.crew rid) .crewExit) ∧
      t.mem = s.mem ∧ (∃ d, t.crews.get? rid = some d ∧ d.exited = 0xFFFF_FFFF#32 ∧ d.em = 0#32 ∧ d.strokes = [] ∧ d.trap = none ∧
        d.wait = .none ∧ d.cancelled = true) ∧ (∀ m ∈ t.cmds, m.k = c.kernel → m.crew = c.idx → m.aborted = true) ∧
      ∀ p ∈ t.peers, p.k = c.kernel → p.crew = c.idx → p.answer = none →
        t.writesKv p.pkt = false ∨ ∃ r ∈ t.replies, r.1 = t.selfId ∧ r.2.1 = p.id)) ∧
    (c.doomed = none ∨ c.life = .exited → exec .crewCancel s = .next s)
  ) ∧
  (
  ∀ (s : State),
    (∀ rid c x, s.place = .crew rid → s.crews.get? rid = some c → c.trap = some x → c.wait = .strokes →
      (c.strokes ≠ [] → exec .preciseTrapEntry s = .next s) ∧
      (c.strokes = [] → exec .preciseTrapEntry s = .next (s.enterTrap rid x)) ∧
      (c.strokes = [] → c.handler = true → Runs .preciseTrapEntry s (fun t => ∃ d, t.crews.get? rid = some d ∧ d.life = .trapped ∧
        d.regs = c.regs ∧ d.em = c.em ∧ d.pc = c.pc)) ∧
      (∀ pa entry, c.strokes = [] → c.handler = false → c.debug = false → x.lane < 32 →
        let va := s.frameVa rid c
        let y := c.settled s.fresh
        let w := (s.setCrew rid (fun _ => y)).makeWritable (c.ctx s) va
        w.frameSlot (c.ctx s) va = .ok pa → (w.writeFrame rid y x pa).handlerOf (ridBay rid) c.kernel = some entry →
        Runs .preciseTrapEntry s (fun t => ∃ d, t.crews.get? rid = some d ∧ d.handler = true ∧ d.elected = x.lane ∧
          d.em = 1#32 <<< x.lane ∧ d.slot = 0 ∧ d.pc = entry ∧ d.flags = 0#12 ∧ d.trap = none ∧ d.wait = .none ∧
          d.val 2 0#8 x.lane = va ∧ (d.reg 2 x.lane).toNat = x.kind % 2 ^ 32 ∧ (d.reg 3 x.lane).toNat = x.aux % 2 ^ 32))) ∧
    (∀ f pa, s.place = .late f → f.ctx < 1024 →
      let k := f.kernel % 2 ^ 14
      let cap := 256 * 2 ^ s.cfg f.ctx Ctx.fsz
      let put := s.fld .context f.ctx Ctx.fput
      let va := sext56 (s.cfg f.ctx Ctx.flogva * 2 ^ 12) + 32 * (put % cap)
      let w := s.makeWritable f.ctx va
      let r : FaultRec := ⟨f.kind, true, s.lateGone f, bayCode f.bay, f.kernel, f.crew, f.pc, f.addr.toNat, f.stroke.toNat⟩
      ringUsed put (s.fld .context f.ctx Ctx.fget) < cap → w.ringSlot f.ctx va .write = .ok pa → inSys pa = false →
      Runs .impreciseFault s (fun t => t.mem = Memory.writes w.mem pa (toBytes 32 r.bits) ∧
        t.fld .context f.ctx Ctx.fput = (put + 1) % 2 ^ 32 ∧ t.crews = s.crews ∧
        (t.kern k).state = (if s.handle k = f.kernel ∧ (s.kern k).state = .running ∧ (s.kern k).ending = none then .trapped
          else (s.kern k).state)))
  )

/-! ## Events: strokes, pages, pipes -/

/-- The oldest stroke of a crew commits (R220): it takes the next order number, its stores and reductions are performed in order, it leaves
the crew, and its write signature goes to each bay where a stroke in flight has accessed a line that it wrote. One whose umpire a held
stroke has does not (R224). A local stroke commits with no number and writes nothing (R223). A stroke that also holds one effect of
another kind commits it after all its stores and reductions, wherever it stands among them (R220, R305): a barrier operation makes of the
object what it makes of the 32 bytes found then (R308, R314), its BARINIT keeps of the object's registrations its own alone (R316), and an
ARRIVE or EXPECT registers the crew (R311); one whose mode is wrong is dropped with a late 0x051 (R315); a SUMRED update becomes a
reduction in flight of the open batch (R230, R300); a TRACE writes its record of 64 bytes where the buffer has room (R398, R400); an
MFENCE marks the commands, or the accesses to peers, of its crew that are then outstanding (R242). A write signature that reaches a bay
squashes, of each crew there but the committer, the oldest stroke that it meets and every later one: the crew is as it was when that
stroke began, and the squash counts. A crew that it does not meet, or of another bay, stays as it is. Memory does not change (R217, R221).
Two signatures meet where both their halves have a bit in common. (The model's readings and choices in this: log 43, 64.) -/
def Obligations.CommitsAndSquashes : Prop :=
  (
  ∀ (s : State) (rid : Nat) (c : Crew) (st : Stroke),
    (Claims.Commits s rid c st → s.isLocal c st = false → Plain s st.effs → st.binds = [] → Runs .strokeCommit s (fun t =>
      t.order = s.order + 1 ∧ t.mem = performed s st.effs ∧ (∀ r, r ≠ rid → t.crews.get? r = s.crews.get? r) ∧
      (∃ d, t.crews.get? rid = some d ∧ d.strokes = c.strokes.drop 1 ∧ d.srStroke = s.order ∧ d.squashes = 0 ∧ d.regs = c.regs ∧
        d.em = c.em ∧ d.pc = c.pc) ∧
      ((t.kern c.kernel).keepOf c.idx).stroke = s.order ∧
      ∀ r e, r ≠ rid → (r, e) ∈ s.crews → (∃ x ∈ e.strokes, ∃ l ∈ st.effs.filterMap Eff.line, l ∈ x.rlines ∨ l ∈ x.wlines) →
        Task.event (.squash (ridBay r) (sigOf (addLines [] (st.effs.filterMap Eff.line))) (some rid)) .signatureSquash ∈ t.agenda)) ∧
    (s.place = .crew rid → s.crews.get? rid = some c → c.closing = some st → s.gated c.kernel = false → s.isLocal c st = false →
      (∃ u ∈ st.umpires, u ∈ s.reserved rid) → exec .strokeCommit s = .next s) ∧
    (s.place = .crew rid → s.crews.get? rid = some c → c.closing = some st → s.isLocal c st = true → Runs .localCommit s (fun t =>
      t.order = s.order ∧ t.mem = s.mem ∧ (∀ r, r ≠ rid → t.crews.get? r = s.crews.get? r) ∧
      ∃ d, t.crews.get? rid = some d ∧ d.strokes = c.strokes.drop 1 ∧ d.srStroke = c.srStroke ∧ d.regs = c.regs ∧ d.em = c.em ∧
        d.pc = c.pc))
  ) ∧
  (
  ∀ (s : State) (rid : Nat) (c : Crew) (st : Stroke) (pre post : List Eff) (e : Eff),
    Claims.Commits s rid c st → s.isLocal c st = false → st.effs = pre ++ e :: post → Plain s (pre ++ post) → st.binds = [] →
    let u := stored s (pre ++ post)
    (∀ va pa op keep, e = .bar va pa op keep → inSys pa = false → lineOf pa ∉ s.poisoned → Runs .strokeCommit s (fun t =>
      t.order = s.order + 1 ∧
      (∀ o, op.apply (u.num pa 32) = .ok o → t.mem = Memory.writes u.mem pa (toBytes 32 o)) ∧
      (∀ a, op.apply (u.num pa 32) = .error a → t.mem = u.mem ∧
        Task.event (.late ⟨c.ctx s, 0x051, a, BitVec.ofNat 64 va, st.snap.pc, BitVec.ofNat 64 s.order, s.handle c.kernel, c.idx, ridBay rid, false⟩)
          .impreciseFault ∈ t.agenda) ∧
      (∀ own, keep = some own → ∀ r ∈ t.regns, r.obj = pa → r ∈ own ∨ r = ⟨pa, c.ctx s, va, c.kernel, .crew c.idx⟩ ∧ op.arrives = true) ∧
      (op.arrives = true → ⟨pa, c.ctx s, va, c.kernel, .crew c.idx⟩ ∈ t.regns))) ∧
    (∀ va pa v, e = .sumred va pa v → lineOf pa ∉ s.poisoned → Runs .strokeCommit s (fun t =>
      t.order = s.order + 1 ∧ t.mem = u.mem ∧ ((t.kern c.kernel).keepOf c.idx).mopen = true ∧
      t.reds = s.reds ++ [⟨va, pa, v, c.kernel, c.idx, c.ctx s, ((s.kern c.kernel).keepOf c.idx).mcount + 1, none, 0, s.clock, st.snap.pc,
        ridBay rid, s.order, none⟩])) ∧
    (∀ value code pc em tag pa w, e = .trace value code pc em tag →
      let ctx := c.ctx s
      let cap := 1024 * 2 ^ s.cfg ctx Ctx.ssz
      let va := sext56 (s.cfg ctx Ctx.stampva * 2 ^ 12) + 64 * (s.fld .context ctx Ctx.sput % cap)
      s.cfg ctx Ctx.stampva ≠ 0 → ringUsed (s.fld .context ctx Ctx.sput) (s.fld .context ctx Ctx.sget) < cap → w = u.makeWritable ctx va →
      w.ringSlot ctx va .write = .ok pa → inSys pa = false → Runs .strokeCommit s (fun t => t.order = s.order + 1 ∧
        ∃ r, t.mem = Memory.writes w.mem pa (toBytes 64 r) ∧
          Claims.Fields r [(511, 504, 2), (495, 480, bayCode (ridBay rid)), (479, 448, em.toNat), (447, 416, pc), (415, 384, tag.toNat),
            (383, 320, s.clock), (319, 256, s.order), (255, 224, code), (223, 192, value), (127, 96, c.idx), (95, 64, s.handle c.kernel)])) ∧
    (∀ eng peer, e = .mfence eng peer → Runs .strokeCommit s (fun t => t.order = s.order + 1 ∧ t.mem = u.mem ∧
      let d := (t.kern c.kernel).keepOf c.idx
      let f := (s.kern c.kernel).keepOf c.idx
      (∀ id, eng = true → (id ∈ d.engAfter ↔ ∃ x ∈ s.cmds, x.id = id ∧ x.k = c.kernel ∧ x.crew = c.idx ∧ ∀ a b, x.kind ≠ .cfetch a b)) ∧
      (∀ id, peer = true → (id ∈ d.peerAfter ↔ ∃ p ∈ s.peers, p.id = id ∧ p.k = c.kernel ∧ p.crew = c.idx ∧ p.get = none ∧ p.cmd = none)) ∧
      (eng = false → d.engAfter = f.engAfter) ∧ (peer = false → d.peerAfter = f.peerAfter)))
  ) ∧
  (
  (∀ x y : BitVec 2048, sigMeets x y = true ↔ (∃ i, i < 1024 ∧ x.getLsbD i = true ∧ y.getLsbD i = true) ∧
    ∃ i, 1024 ≤ i ∧ x.getLsbD i = true ∧ y.getLsbD i = true) ∧
  (∀ (s : State) (b rid : Nat) (w : BitVec 2048) (who : Option Nat) (c : Crew), s.place = .squash b w who →
    s.crews.get? rid = some c → (∀ p ∈ s.crews, p.1 = rid → p.2 = c) →
    Runs .signatureSquash s (fun t => t.mem = s.mem ∧ t.order = s.order ∧
      (ridBay rid ≠ b ∨ who = some rid ∨ c.hitBy w = none → t.crews.get? rid = some c) ∧
      (∀ i st, ridBay rid = b → who ≠ some rid → c.hitBy w = some i → c.strokes[i]? = some st →
        ∃ d, t.crews.get? rid = some d ∧ d.strokes = c.strokes.take i ∧ d.pc = st.snap.pc ∧ d.slot = st.snap.slot ∧ d.em = st.snap.em ∧
          d.regs = st.snap.regs ∧ d.stack = st.snap.stack ∧ d.squashes = c.squashes + 1 ∧ d.wait = .none)))
  )

/-- A held stroke whose umpires no other held stroke has takes them and its shadow space (R224). Free shadow space goes to the crew of the bay
that has waited longest (R222); where the order gate waits for a crew without space, the most recently begun stroke of another crew gives
up its own (R222). A commit of a recording kernel whose entries can be written appends them after its stores (R244, R245): a kernel entry
with the first commit of the kernel, then a run entry of one commit, or in its place the run entry that stands last, with one more. It
counts, the crew's digest takes its stores in (R246), and the 256th commit has a checkpoint come next. One whose entries cannot be written
commits nothing: its crew waits, and the context takes a fault (R80, R431). The order gate of a replay kernel (R247). At a commit-run
entry that names the crew its stroke commits, and counts: the entry is used up with its last commit. At the end of the log the gate is
open. At an entry of another crew that has not exited the crew waits; at a checkpoint its check comes next; at an entry that no crew can
use there is a divergence fault (R248). A checkpoint of the order log appends its entry and the digest of each crew that has committed
since the last, and begins anew; one whose slots cannot be written is a context fault (R246). In replay the checkpoint's digests are
compared, and it is used up; a digest that differs squashes its crew, which takes a divergence fault, while the gate goes on granting its
kernel's other crews (R248, R415; log 91). A checkpoint whose digest records are not all in the log yet waits for them. (The model's
readings and choices in this: log 43, 61.) -/
def Obligations.ShadowAndReplay : Prop :=
  (
  ∀ (s : State),
    (∀ rid c set, s.place = .crew rid → s.crews.get? rid = some c → c.wait = .held → c.heldSet = some set → c.strokes = [] →
      c.heldReady = false → s.gated c.kernel = false →
      (c.granted = true ∨ s.shadowFree (ridBay rid) ≠ 0 ∧ s.shadowQueue (ridBay rid) = false →
        ((∀ u ∈ set, u ∉ s.reserved rid) → Runs .heldStrokeStart s (fun t => t = { s with crews := t.crews } ∧
          t.crews.get? rid = some { c with granted := true, heldReady := true, wait := .none, gateSince := none })) ∧
        ((∃ u ∈ set, u ∈ s.reserved rid) → exec .heldStrokeStart s = .next s)) ∧
      (c.granted = false → s.shadowFree (ridBay rid) = 0 ∨ s.shadowQueue (ridBay rid) = true → Runs .heldStrokeStart s (fun t =>
        t.crews.get? rid = some { c with wait := .shadow s.serial, ready := none }))) ∧
    (∀ b rid, s.place = .bay b → s.shadowFirst b = some rid → s.shadowFree b ≠ 0 →
      (∃ c n, (rid, c) ∈ s.crews ∧ c.wait = .shadow n ∧ ridBay rid = b ∧
        ∀ p ∈ s.crews, ∀ m, ridBay p.1 = b → p.2.wait = .shadow m → n ≤ m) ∧
      Runs .shadowSpaceGrant s (fun t => t = { s with crews := t.crews } ∧
        ∀ r, t.crews.get? r = if r = rid then (s.crews.get? rid).map (fun c => { c with granted := true, wait := .none }) else s.crews.get? r)) ∧
    (∀ b rid other i e, s.place = .bay b → s.shadowDead b = some rid → s.newestOther b rid = some (other, i) →
      s.crews.get? other = some e → other ≠ rid ∧ Runs .shadowDeadlockSquash s (fun t => t.mem = s.mem ∧
        (∃ d, t.crews.get? other = some d ∧ d.strokes = e.strokes.take i) ∧
        t.crews.get? rid = (s.crews.get? rid).map (fun c => { c with granted := true, wait := .none })))
  ) ∧
  (
  ∀ (s : State) (rid : Nat) (c : Crew) (st : Stroke), Closes s rid c st → s.logged c.kernel = true → s.gated c.kernel = false →
    let ctx := c.ctx s
    let put := s.fld .context ctx Ctx.oput
    let l := s.log ctx
    let k := c.kernel
    let kn := ((s.kern k).knum).getD l.nextKnum
    let run := kn * 2 ^ 50 + c.idx * 2 ^ 26
    let key := digestKey kn c.idx
    let g := digested s ((s.kern k).keepOf c.idx).digest st.effs
    let u := stored s st.effs
    -- no page of the slots is marked for a copy
    s.logReady ctx put (s.logNeeds ctx k c.idx) = s → (∀ a b n i, l.run = some (a, b, n, i) → s.logReady ctx i 1 = s) →
    (∀ cause, s.logRefuses ctx k c.idx = some cause → s.givesUp c = false →
      exec .strokeCommit s = .next ((s.setCrew rid (fun c => { c with wait := .ctxFault })).ctxFault ctx cause)) ∧
    (s.logRefuses ctx k c.idx = none → ctx < 1024 → Runs .strokeCommit s (fun t =>
      t.order = s.order + 1 ∧ (t.kern k).knum = some kn ∧ ((t.kern k).keepOf c.idx).digest = g ∧
      (t.log ctx).logged = l.logged + 1 ∧ (t.log ctx).digests.get? key = some g ∧
      (∃ d, t.crews.get? rid = some d ∧ d.strokes = c.strokes.drop 1 ∧ d.srStroke = s.order) ∧
      ((l.logged + 1) % 256 = 0 → Task.event (.ctx ctx) .orderLogCheckpoint ∈ t.agenda) ∧
      (∀ pa pb, (s.kern k).knum = none → u.logSlot ctx put .write = .ok pa → inSys pa = false →
        let v := u.logPush ctx (2 ^ 62 + kn * 2 ^ 50 + s.handle k)
        v.mem = Memory.writes u.mem pa (toBytes 8 (2 ^ 62 + kn * 2 ^ 50 + s.handle k)) ∧
        (v.logSlot ctx ((put + 1) % 2 ^ 32) .write = .ok pb → inSys pb = false →
          t.mem = Memory.writes v.mem pb (toBytes 8 (run + 1)) ∧ t.fld .context ctx Ctx.oput = (put + 2) % 2 ^ 32 ∧
          (t.log ctx).nextKnum = (kn + 1) % 4096 ∧ (t.log ctx).run = some (kn, c.idx, 1, (put + 1) % 2 ^ 32))) ∧
      (∀ pa, (s.kern k).knum = some kn → l.extends (some kn) c.idx = false → u.logSlot ctx put .write = .ok pa → inSys pa = false →
        t.mem = Memory.writes u.mem pa (toBytes 8 (run + 1)) ∧ t.fld .context ctx Ctx.oput = (put + 1) % 2 ^ 32 ∧
        (t.log ctx).run = some (kn, c.idx, 1, put)) ∧
      (∀ n i pa, (s.kern k).knum = some kn → l.run = some (kn, c.idx, n, i) → n < 2 ^ 26 - 1 → u.logSlot ctx i .write = .ok pa →
        inSys pa = false → t.mem = Memory.writes u.mem pa (toBytes 8 (run + (n + 1))) ∧ t.fld .context ctx Ctx.oput = put ∧
          (t.log ctx).run = some (kn, c.idx, n + 1, i))))
  ) ∧
  (
  ∀ (s : State) (rid : Nat) (c : Crew) (st : Stroke), Closes s rid c st → s.gated c.kernel = true → s.logged c.kernel = false →
    let ctx := c.ctx s
    let u := State.takeKnums ctx (s.logLeft ctx) s
    let get := u.fld .context ctx Ctx.oget
    let l := u.log ctx
    (u.gate c.kernel c.idx = .pass ∨ u.gate c.kernel c.idx = .opened → Runs .strokeCommit s (fun t =>
      t.order = s.order + 1 ∧ t.mem = performed u st.effs ∧
      ((t.kern c.kernel).keepOf c.idx).digest = digested u ((u.kern c.kernel).keepOf c.idx).digest st.effs ∧
      (∃ d, t.crews.get? rid = some d ∧ d.strokes = c.strokes.drop 1 ∧ d.srStroke = s.order ∧ d.gateSince = none) ∧
      (u.gate c.kernel c.idx = .opened → t.fld .context ctx Ctx.oget = get) ∧
      (∀ e, u.gate c.kernel c.idx = .pass → ctx < 1024 → { u with mem := performed u st.effs }.logEntry ctx get = .ok e →
        let done := (match l.cur with | some (i, n) => if i = get then n else 0 | none => 0) + 1
        (slice 25 0 e ≤ done → t.fld .context ctx Ctx.oget = (get + 1) % 2 ^ 32 ∧ (t.log ctx).cur = none) ∧
        (done < slice 25 0 e → t.fld .context ctx Ctx.oget = get ∧ (t.log ctx).cur = some (get, done))))) ∧
    (u.givesUp c = false →
      (u.gate c.kernel c.idx = .hold → exec .strokeCommit s = .next (u.arriveGate rid)) ∧
      (u.gate c.kernel c.idx = .check → exec .strokeCommit s = .next ((u.arriveGate rid).postFirst (.ctx ctx) .replayDigestCheck)) ∧
      (∀ i, u.gate c.kernel c.idx = .diverge i → exec .strokeCommit s = .next ((u.arriveGate rid).gateFault ctx i))) ∧
    ((u.kern c.kernel).ctx = ctx → l.diverge = none → (u.kern c.kernel).barred = false →
      (u.logLeft ctx = 0 → u.gate c.kernel c.idx = .opened) ∧
      ∀ e, u.logLeft ctx ≠ 0 → u.logEntry ctx get = .ok e →
        (slice 63 62 e = 0 → ∀ k, u.knumKernel ctx (slice 61 50 e) = some k →
          (((u.kern k).keepOf (slice 49 26 e)).exited = true → u.gate c.kernel c.idx = .diverge get) ∧
          (((u.kern k).keepOf (slice 49 26 e)).exited = false →
            u.gate c.kernel c.idx = if k = c.kernel ∧ slice 49 26 e = c.idx then .pass else .hold)) ∧
        (slice 63 62 e = 0 → u.knumKernel ctx (slice 61 50 e) = none → u.gate c.kernel c.idx = .diverge get) ∧
        (slice 63 62 e = 1 → u.replayPosted ctx = false → u.gate c.kernel c.idx = .diverge get) ∧
        (slice 63 62 e = 2 → u.gate c.kernel c.idx = .check))
  ) ∧
  (
  ∀ (s : State) (ctx : Nat), s.place = .ctx ctx →
    let l := s.log ctx
    let put := s.fld .context ctx Ctx.oput
    let get := s.fld .context ctx Ctx.oget
    let n := 1 + 2 * l.digests.length
    let u := s.logReady ctx put n
    (∀ cause, u.logWritable ctx put n = some cause →
      exec .orderLogCheckpoint s = .next (u.post (.ctxCause ctx cause) .contextFault)) ∧
    (u.logWritable ctx put n = none → Runs .orderLogCheckpoint s (fun t =>
      t.mem = (((u.logPush ctx (2 * 2 ^ 62 + l.logged % 2 ^ 34 * 2 ^ 16 + l.digests.length)).pushDigests ctx l.digests).mem) ∧
      (t.log ctx).digests = [] ∧ (t.log ctx).run = none ∧ (t.log ctx).logged = l.logged ∧ t.crews = s.crews)) ∧
    (s.logLeft ctx = 0 → exec .replayDigestCheck s = .next s) ∧
    (∀ e, s.logLeft ctx ≠ 0 → s.logEntry ctx get = .ok e →
      (slice 63 62 e ≠ 2 ∨ s.logLeft ctx < 1 + 2 * slice 15 0 e → exec .replayDigestCheck s = .next s) ∧
      (slice 63 62 e = 2 → 1 + 2 * slice 15 0 e ≤ s.logLeft ctx → ctx < 1024 →
        (∀ v, State.checkDigests ctx (get + 1) (slice 15 0 e) s = .ok v → Runs .replayDigestCheck s (fun t =>
          t = { v with sys := t.sys } ∧ t.fld .context ctx Ctx.oget = (get + 1 + 2 * slice 15 0 e) % 2 ^ 32)) ∧
        (∀ x raw kn h rid c, slice 15 0 e = 1 → s.logEntry ctx (get + 1) = .ok x → s.logEntry ctx (get + 2) = .ok raw →
          (l.knums.zip l.rkernels).reverse.find? (fun p => decide (p.1 = slice 61 50 x)) = some (kn, h) →
          s.handle (h % 2 ^ 14) = h → ((s.kern (h % 2 ^ 14)).keepOf (slice 49 26 x)).placed = true →
          ((s.kern (h % 2 ^ 14)).keepOf (slice 49 26 x)).exited = false →
          (l.digests.getD (digestKey (slice 61 50 x) (slice 49 26 x)) 0#64).toNat ≠ raw →
          s.ridOf (h % 2 ^ 14) (slice 49 26 x) = some rid → s.crews.get? rid = some c → Runs .replayDigestCheck s (fun t =>
            (t.kern (h % 2 ^ 14)).parted = true ∧ (t.kern (h % 2 ^ 14)).barred = (s.kern (h % 2 ^ 14)).barred ∧ ∃ d, t.crews.get? rid = some d ∧ d.diverged = some (get + 1) ∧ d.strokes = []))))
  )

/-- A wake of an MWAIT has it look at its location again: the crew goes on where the condition holds, and sleeps on where it does not (R240);
monitors and entries of the wait table are woken, an MWAIT that found the table full looks again every 2,048 clk (R241). The grow of a
side that began to wait first is granted once its blocks are free: every active lane receives n; where every crew of the side waits on a
grow and the first does not fit, the one that began to wait last fails with 0 (R163, R164). Which crews count as resident there is the
model's reading: not those placed and not yet resident, nor exited ones (log 46). (The model's readings and choices in this: log 42.) -/
def Obligations.WakesAndGrants : Prop :=
  ∀ (s : State),
    (∀ rid c pa ty cond x how, s.place = .crew rid → s.crews.get? rid = some c → c.wait = .mwait pa ty cond x how →
      let looks (i : Instr) : Prop := Runs i s (fun t => t = { s with crews := t.crews } ∧ t.crews.get? rid =
        some (if mwaitHolds ty cond (s.num pa (tyBytes ty)) x = true then { c with pc := s.nextPc rid c, wait := .none, ready := none } else c))
      (how = .monitor ∨ how = .entry → looks .mwaitWake) ∧
      (∀ u, how = .recheck u → exec .mwaitWake s = .next s ∧
        ((s.clock - u) % 2048 = 0 → looks .waitTableRecheck) ∧
        ((s.clock - u) % 2048 ≠ 0 → exec .waitTableRecheck s = .next s))) ∧
    (∀ b d u rid n r c, s.place = .side b d → s.crews.get? rid = some c →
      (s.growFirst b d = some (u, rid, n, r) → c.wait = .allot n u r → (n - c.allot) / 8 ≤ s.blocksFree b d → r < n →
        Runs .allotGrant s (fun t => t = { s with crews := t.crews } ∧ ∃ e, t.crews.get? rid = some e ∧ e.allot = n ∧ e.wait = .none ∧
          e.pc = s.nextPc rid c ∧ e.em = c.em ∧
          ∀ q l, l < 32 → e.reg q l = if q = r ∧ l ∈ c.active then BitVec.ofNat 32 n else if q < min c.allot n then c.reg q l else 0#32)) ∧
      (s.growLast b d = some (u, rid, n, r) → c.wait = .allot n u r → s.growDead b d = true → s.growFits b d = false →
        Runs .allotDeadlockFail s (fun t => t = { s with crews := t.crews } ∧ ∃ e, t.crews.get? rid = some e ∧ e.allot = c.allot ∧
          e.wait = .none ∧ e.pc = s.nextPc rid c ∧ e.em = c.em ∧
          ∀ q l, l < 32 → e.reg q l = if q = r ∧ l ∈ c.active then 0#32 else c.reg q l)) ∧
      (s.growFits b d = false → exec .allotGrant s = .next s) ∧
      (s.growDead b d = false → exec .allotDeadlockFail s = .next s))

/-- A walk that finds a leaf fills the bay's TLB with it, and one that finds none leaves the TLB; a bad entry is a context fault (R253, R255).
A pinned page that is not resident refills its frame instead, from the backing of its pin, where the bay has a frame free (R264; log 38).
A translation fault whose crew has no stroke left joins the entry of its page, or takes the lowest free one, or waits where the queue is
full; one that waits for a copy has the copy made (R257, R258, R268, R270). The copy of a shared KV page moves its bytes to a supply page,
which counts 1, and the leaf names it; the count of the page that was shared falls by 1, unless it has saturated (R265, R268). The copy of
a page marked for a checkpoint keeps the bytes of each of its 64 KiB pieces as they were in a supply page, which an entry of the snapshot
ring names with the piece's virtual address; snpput counts the entries, and the leaf is marked no longer (R266, R270); an operation of the
device that was held for it is then performed (log 92). A page whose count has come to 0 goes to the free ring once no write to it is
still to land (R265, R345). The clauses on bytes are for a ring, tables and pages that do not overlap. (The model's readings and choices
in this: log 54.) -/
def Obligations.FaultsAndCopies : Prop :=
  (
  ∀ (s : State),
    (∀ b ctx va p, s.place = .walk b ctx va → s.pinOf ctx b va.toNat = some p →
      ((s.stashOf b ctx va.toNat).isSome = true ∨ Config.stashPages ≤ s.stashUsed b → exec .tlbWalk s = .next s) ∧
      (s.stashOf b ctx va.toNat = none → s.stashUsed b < Config.stashPages → Runs .tlbWalk s (fun t =>
        t = { s with bays := t.bays } ∧ (∀ b', b' ≠ b → t.bay b' = s.bay b') ∧
        t.bay b = { s.bay b with stash := (s.bay b).stash ++ [⟨p.ctx, p.va, p.pa, p.w, none⟩] }))) ∧
    (∀ b ctx va, s.place = .walk b ctx va → s.pinOf ctx b va.toNat = none →
      (s.walk ctx va.toNat = .absent → exec .tlbWalk s = .next s) ∧
      (∀ cause, s.walk ctx va.toNat = .bad cause → exec .tlbWalk s = .next (s.post (.ctxCause ctx cause) .contextFault)) ∧
      (∀ e ea big, s.walk ctx va.toNat = .leaf e ea big →
        let page := if big then va.toNat / 2 ^ 21 * 2 ^ 21 else va.toNat / 2 ^ 16 * 2 ^ 16
        Runs .tlbWalk s (fun t => t = { s with bays := t.bays, fresh := s.fresh + 1 } ∧ (∀ b', b' ≠ b → t.bay b' = s.bay b') ∧
          ((s.bay b).tlb.length ≤ Config.tlbEntries → (t.bay b).tlb.length ≤ Config.tlbEntries) ∧
          ∃ x ∈ (t.bay b).tlb, x.ctx = ctx ∧ x.va = page ∧ x.big = big ∧
            ((∀ y ∈ (s.bay b).tlb, y.ctx = ctx → y.va = page → y.big ≠ big) → x.leaf = e)))) ∧
    (∀ rid c q, s.place = .crew rid → s.crews.get? rid = some c → c.fault = some q → c.wait = .strokes →
      let die := dieOf (ridBay rid)
      let mine (e : FqEntry) : Prop := e.die = die ∧ e.ctx = c.ctx s ∧ e.page = pageKey q.va
      let waits (w : Wait) (t : State) : Prop := t.crews.get? rid = some { c with wait := w, ready := none }
      (c.strokes ≠ [] → exec .faultQueueJoin s = .next s) ∧
      (c.strokes = [] → q.copy = 0 → (∀ e, s.fq.find? (fun e => decide (mine e)) = some e → Runs .faultQueueJoin s (fun t =>
        waits (.queue e.die e.idx) t ∧ t.mem = s.mem ∧
        ∀ x ∈ t.fq, mine x → .crew rid ∈ x.waiters))) ∧
      (c.strokes = [] → q.copy = 0 → (∀ e ∈ s.fq, ¬mine e) → ∀ i, i < Config.fqEntries → (∀ e ∈ s.fq, ¬(e.die = die ∧ e.idx = i)) →
        (∀ j, j < i → ∃ e ∈ s.fq, e.die = die ∧ e.idx = j) → Runs .faultQueueJoin s (fun t =>
          t.fq = s.fq ++ [⟨die, i, c.ctx s, pageKey q.va, false, q.kind, q.va, s.handle c.kernel, c.idx, ridBay rid, c.pc, [.crew rid],
            if q.write then [.crew rid] else [], s.time⟩])) ∧
      (c.strokes = [] → q.copy = 0 → (∀ e ∈ s.fq, ¬mine e) → (∀ i, i < Config.fqEntries → ∃ e ∈ s.fq, e.die = die ∧ e.idx = i) →
        Runs .faultQueueJoin s (fun t => waits .queueFull t ∧ t.fq = s.fq ∧ t.fqWait.length = s.fqWait.length + 1)) ∧
      (c.strokes = [] → q.copy ≠ 0 → Runs .faultQueueJoin s (fun t => waits .copy t ∧ t.agenda = s.agenda ++
        [.event (.page (c.ctx s) (BitVec.ofNat 64 q.va)) (if q.copy = 1 then .kvCopyOnWrite else .checkpointCowCopy)])))
  ) ∧
  (
  ∀ (s : State),
    (∀ ctx va e ea q u, s.place = .page ctx va → s.leafOf ctx va.toNat = some (e, ea, false) → Pte.kv e = true →
      let p := slice 38 16 e * 2 ^ 16
      2 ≤ s.count p → s.takeSupply ctx 1 = (some [q], u) → inSys p = false → inSys q = false → inSys ea = false → Apart (ea, 8) (q, 65536) →
      Runs .kvCopyOnWrite s (fun t =>
        (∀ i, i < 65536 → t.byte (q + i) = s.byte (p + i)) ∧ t.num ea 8 = (slice 63 39 e * 2 ^ 39 + q + e % 2 ^ 16) % 2 ^ 64 ∧
        (ctx < 1024 → q < 2 ^ 39 → q / 2 ^ 16 ≠ p / 2 ^ 16 →
          t.count q = 1 ∧ t.count p = if s.count p = 65535 then 65535 else s.count p - 1))) ∧
    (∀ ctx h op u, s.heldBars = [h] → h.ctx = ctx → s.barMarked ctx h.va h.pa = false → h.op = some op →
      State.barPerform { s with heldBars := [] } h.pa op = .ok u → s.serveBars ctx = u) ∧
    (∀ ctx va e ea big qs slots u, s.place = .page ctx va → s.leafOf ctx va.toNat = some (e, ea, big) → Pte.c e = true →
      (∀ h ∈ s.heldBars, h.ctx ≠ ctx) →
      let n := if big then 32 else 1
      let base := va.toNat / (65536 * n) * (65536 * n)
      let from_ := leafPa e big base
      let put := s.fld .pool ctx Pool.snpput
      s.snapSlots ctx (s.snpRing ctx) put (s.fld .pool ctx Pool.snpget) n = .ok slots → s.takeSupply ctx n = (some qs, u) →
      inSys from_ = false → inSys ea = false → (∀ q ∈ qs ++ slots, inSys q = false ∧ Apart (ea, 8) (q, 16)) →
      (qs.map (fun q => (q, 65536)) ++ slots.map (fun x => (x, 16))).Pairwise Apart →
      (∀ q ∈ qs, Apart (from_, 65536 * n) (q, 65536) ∧ Apart (ea, 8) (q, 65536)) →
      Runs .checkpointCowCopy s (fun t =>
        (∀ (i q slot : Nat), qs[i]? = some q → slots[i]? = some slot →
          (∀ j, j < 65536 → t.byte (q + j) = s.byte (from_ + 65536 * i + j)) ∧
          t.num slot 16 = (base + 65536 * i + q * 2 ^ 64) % 2 ^ 128) ∧
        (ctx < 1024 → t.fld .pool ctx Pool.snpput = (put + n) % 2 ^ 32) ∧ t.num ea 8 = (e - 64) % 2 ^ 64 ∧ Pte.c (t.num ea 8) = false)) ∧
    (∀ i, s.place = .entry i →
      (∀ p, s.kvFree[i]? = some p → s.pageQuiet p.2 = true →
        exec .kvCountFree s = .next ({ s with kvFree := s.kvFree.eraseIdx i }.pushFree p.1 p.2)) ∧
      ((∀ p, s.kvFree[i]? = some p → s.pageQuiet p.2 = false) → exec .kvCountFree s = .next s))
  )

/-- The pipe of a bay accepts an MMA whose kernel has allowance when it is free: it is occupied for 16 clk, the reductions of its blocks, from
the progress index on where a stop has ended it, are issued in order, and the crew goes on after it from the next clk (R16, R45, R294);
the index stays until those reductions have been applied (R122). One that the pipe does not take now leaves its crew issuable (R16). One
beyond its allowance waits and asks for a raise, but for a kernel that was refused in this window (R113). An MMA of which a stop has left
blocks behind its crew is checked anew, and those blocks' reductions are issued, the A latch taking with .reuse the values it had used
(R293; log 63). A reduction whose turn has come is applied to its element: the binary64 sum of element and update, rounded to nearest even
(R44, R284); one to a poisoned line is dropped (R287). No reduction is applied before an earlier one of its crew to the same element
(R230). An uncorrectable error poisons its line, drops every reduction in flight to it, and is counted (R287, R430). A batch all of whose
work is done raises the timeline bound to it, where that timeline stands lower (R295, R296, R327); where the object's page is marked for a
checkpoint, the raise is held and the copy of the page comes first (R270; log 92). (The model's readings and choices in this: log 62, 65,
89.) -/
def Obligations.PipeAndReductions : Prop :=
  (
  ∀ (s : State),
    (∀ rid c j, s.place = .crew rid → s.crews.get? rid = some c → c.wait = .pipe → c.mma = some j → j.rest = [] →
      let b := ridBay rid
      let l := s.takeA rid c j
      let first := if c.restAt = some (j.slot, j.pc) then c.progress else 0
      let reds := (mmaElems first).map (fun e => s.mmaRed rid c j l e.1 e.2)
      (s.mmaAllowed b c.kernel = true → s.pipeTakes b (ridSide rid) = true → first < 16 → (∀ r ∈ reds, lineOf r.pa ∉ s.poisoned) →
        Runs .mmaAccept s (fun t => t.reds = s.reds ++ reds ∧ t.mem = s.mem ∧ (t.bay b).pipeFree = s.clock + 16 ∧
          (t.bay b).pipeSide = some (ridSide rid) ∧ (∀ r, r ≠ rid → t.crews.get? r = s.crews.get? r) ∧
          (∃ d, t.crews.get? rid = some d ∧ d.pc = s.nextPc rid c ∧ d.regs = c.regs ∧ d.em = c.em ∧ d.mma = none ∧ d.progress = c.progress ∧
            d.resumed = (if first = 0 then c.resumed else some s.serial) ∧
            d.wait = .retry ∧ d.mmaRun = some ⟨s.serial, j.pc, j.slot, first, s.clock, false, { j with used := if j.reuse then some l else none }⟩ ∧
            d.restAt = none ∧ d.lastIssue = some s.clock ∧
            d.flags = match j.flag with | some f => c.flags ||| (1#12 <<< f.val) | none => c.flags) ∧
          (j.reuse = false → (t.side b (ridSide rid)).latch = none) ∧ (j.reuse = true → (t.side b (ridSide rid)).latch = some l) ∧
          ∀ x, (s.bay b).kerns.get? c.kernel = some x → ∃ y, (t.bay b).kerns.get? c.kernel = some y ∧ y.level = x.level ∧
            y.window = s.clock / 1500 ∧ y.accepted = (if x.window = s.clock / 1500 then x.accepted else 0) + 1)) ∧
      (s.mmaAllowed b c.kernel = true → s.pipeTakes b (ridSide rid) = false →
        exec .mmaAccept s = .next (s.setCrew rid (fun c => { c with wait := .none }))) ∧
      (∀ x, (s.bay b).kerns.get? c.kernel = some x → s.mmaAllowed b c.kernel = false →
        (x.refused = some (s.clock / 1500) → exec .mmaAccept s = .next s) ∧
        (x.refused ≠ some (s.clock / 1500) → s.raising b c.kernel .mma = false →
          exec .mmaAccept s = .next { s with gov := s.gov ++ [⟨dieOf b, .raise b c.kernel .mma⟩] }))) ∧
    (∀ rid c j, s.place = .crew rid → s.crews.get? rid = some c → c.wait = .none → c.mma = some j → j.rest ≠ [] →
      s.mmaAllowed (ridBay rid) c.kernel = true → s.pipeTakes (ridBay rid) (ridSide rid) = true →
      let at_ : Crew := { c with pc := j.pc, slot := j.slot }
      (∀ t, s.sumCheck rid at_ j.dst 32768 c.low = .error (.trap t) → exec .mmaAccept s =
        .next ({ s.setCrew rid (fun c => { c with mma := none, restAt := some (j.slot, j.pc) }) with fresh := s.fresh + 1 }.takeTrap rid t)) ∧
      (∀ g l, s.sumCheck rid at_ j.dst 32768 c.low = .ok (g, l) →
        let lines := (pieceLines l).map Prod.snd
        let reds := j.rest.map (fun r => { r with
          pa := (lines[(r.va - j.dst) / 128]?).getD 0 + (r.va - j.dst) % 128, mma := some s.serial, ready := s.clock + r.block,
          bay := ridBay rid })
        (∀ r ∈ reds, lineOf r.pa ∉ s.poisoned) → Runs .mmaAccept s (fun t => t.reds = s.reds ++ reds ∧ t.mem = s.mem ∧
          (t.bay (ridBay rid)).pipeFree = s.clock + 16 ∧ (∀ r, r ≠ rid → t.crews.get? r = s.crews.get? r) ∧
          (t.side (ridBay rid) (ridSide rid)).latch = (if j.reuse then j.used.map (fun l => { l with owner := rid }) else none) ∧
          ∃ d, t.crews.get? rid = some d ∧ d.pc = c.pc ∧ d.regs = c.regs ∧ d.em = c.em ∧ d.mma = none ∧ d.progress = c.progress ∧
            d.resumed = some s.serial ∧ d.wait = .retry ∧ d.flags = c.flags))) ∧
    (∀ b, s.place = .bay b →
      ((s.bay b).pipeFree = 0 ∨ s.clock < (s.bay b).pipeFree → exec .mmaPipeFree s = .next s) ∧
      ((s.bay b).pipeFree ≠ 0 → (s.bay b).pipeFree ≤ s.clock → Runs .mmaPipeFree s (fun t =>
        t = { s with bays := t.bays, crews := t.crews } ∧ (t.bay b).pipeFree = 0 ∧ (t.bay b).tlb = (s.bay b).tlb ∧
        ∀ rid c, s.crews.get? rid = some c → t.crews.get? rid = some (if ridBay rid = b then
          { c with mmaRun := c.mmaRun.filter (fun m => decide (s.clock < m.start + 16)) } else c))))
  ) ∧
  (
  ∀ (s : State),
    (∀ i r, s.place = .entry i → s.reds[i]? = some r →
      (s.mayApply i = false → exec .reductionApply s = .next s) ∧
      (s.mayApply i = true →
        (r.ready ≤ s.clock ∧ ∀ j e, j < i → s.reds[j]? = some e → e.k = r.k → e.crew = r.crew → e.pa ≠ r.pa) ∧
        (s.backingC r.ctx r.va = false → lineOf r.pa ∉ s.poisoned → inSys r.pa = false → Runs .reductionApply s (fun t =>
          t.mem = Memory.writes s.mem r.pa (toBytes 8 (f64.round .rn ((f64.val (s.num r.pa 8)).add .rn (f64.val r.v)))) ∧
          t.reds = s.reds.eraseIdx i)) ∧
        (s.backingC r.ctx r.va = false → lineOf r.pa ∈ s.poisoned → Runs .reductionApply s (fun t =>
          t.mem = s.mem ∧ t.reds = s.reds.eraseIdx i)) ∧
        (s.backingC r.ctx r.va = true → s.redsJoined r.ctx r.va = false → exec .reductionApply s =
          .next (s.post (.page r.ctx (BitVec.ofNat 64 r.va)) .checkpointCowCopy)))) ∧
    (∀ l, s.place = .line l → (l ∈ s.poisoned → exec .linePoisoned s = .next s) ∧
      (l ∉ s.poisoned → Runs .linePoisoned s (fun t => l ∈ t.poisoned ∧ (∀ r ∈ t.reds, lineOf r.pa ≠ l) ∧ t.mem = s.mem ∧
        t.host.uncorrectable = s.host.uncorrectable + 1 ∧ ∀ r ∈ s.reds, lineOf r.pa ≠ l → r ∈ t.reds)))
  ) ∧
  (
  ∀ (s : State) (k c pa first : Nat) (eng : Bool), s.place = .kernelCrew k c →
    let i : Instr := if eng then .engineBatchRaise else .matrixBatchRaise
    let e := (s.kern k).keepOf c
    let n := s.reached eng k c
    let o := s.num pa 32
    let va := s.boundVa eng k c pa
    (if eng then e.ebinds else e.mbinds) = [(pa, first)] → (∀ h ∈ s.heldBars, h.pa ≠ pa) →
    (first ≤ n → Bar.mode.get o = 2 → Bar.value.get o < n → s.barMarked (s.kern k).ctx va pa = false →
      ∀ u, s.barPerform pa (.raise n) = .ok u → Runs i s (fun t => t.mem = u.mem ∧ t.crews = u.crews ∧ t.reds = u.reds)) ∧
    (first ≤ n → Bar.mode.get o = 2 → Bar.value.get o < n → s.barMarked (s.kern k).ctx va pa = true → Runs i s (fun t =>
      t.mem = s.mem ∧ t.crews = s.crews ∧ t.heldBars = s.heldBars ++ [⟨(s.kern k).ctx, va, pa, some (.raise n)⟩] ∧
      t.agenda.head? = some (.event (.page (s.kern k).ctx (BitVec.ofNat 64 va)) .checkpointCowCopy))) ∧
    (n < first ∨ Bar.mode.get o ≠ 2 ∨ n ≤ Bar.value.get o → Runs i s (fun t => t.mem = s.mem ∧ t.crews = s.crews ∧ t.sys = s.sys))
  )

/-- A window of the leave unit begins each kernel's allowance anew; what waited for leave looks again, and a peer burst asks again, or goes on
at level 15 (R113). A granted raise adds 1 to the level, up to 15: what asked for it goes on, each MMA of its kernel that waits looks
again, and at level 15 nothing of it waits on; a refused MMA waits for the next window. A LEAVE whose request stands raises the level by
its units; its crew receives 0 or 0x0E within 100 clk and 0x0D after them (R133). A power limit is clamped to 2,400 and 4,800 W and gives
each die its budget of 1,326 milli-units a watt above 2,000 (R425, R426). Above 105 °C the trip bit of a die is set, below 100 °C it is
cleared, and in between nothing changes (R427). A scrub of a line with a corrected error changes no value; with an uncorrectable one the
line is poisoned (R429). Both count (R430); what a scrub finds in register files and instruction memory is counted and changes nothing
else (the model's choice, log 86). (The model's readings and choices in this: log 66, 77.) -/
def Obligations.LeaveAndPower : Prop :=
  (
  ∀ (s : State) (b k : Nat),
    let d := dieOf b
    (s.place = .bay b → Runs .leaveWindow s (fun t => t.mem = s.mem ∧
      (∀ rid c, s.crews.get? rid = some c → (∀ p ∈ s.crews, p.1 = rid → p.2 = c) →
        t.crews.get? rid = some (if ridBay rid ≠ b then c else if c.wait = .pipe then { c with wait := .none } else
          if c.wait = .leave ∧ s.level b c.kernel = 15 then { c with burst := true, wait := .none } else c) ∧
        (ridBay rid = b → c.wait = .leave → s.level b c.kernel ≠ 15 → t.raising b c.kernel (.burst rid) = true)) ∧ ∀ j x, (s.bay b).kerns.get? j = some x →
      (t.bay b).kerns.get? j = some { x with
        window := s.clock / 1500, accepted := if x.window = s.clock / 1500 then x.accepted else 0, refused := none })) ∧
    (∀ die who ok x, s.place = .kernelBay k b → (s.bay b).kerns.get? k = some x →
      s.answers.find? (fun a => match a.1.what with | .raise b' k' _ => decide (b' = b) && decide (k' = k) | _ => false) =
        some (⟨die, .raise b k who⟩, ok) → Runs .leaveRaiseAnswer s (fun t =>
          t.answers = s.answers.erase (⟨die, .raise b k who⟩, ok) ∧
          (ok = true → x.level < 15 → (t.bay b).kerns.get? k = some { x with level := x.level + 1 } ∧
            (t.kern k).held d = (s.kern k).held d + 1) ∧
          (ok = true → 15 ≤ x.level → (t.bay b).kerns.get? k = some x ∧ Sets s t .power 0 [(heldFld d, s.fld .power 0 (heldFld d) - 1)]) ∧
          (ok = false → (t.bay b).kerns.get? k =
            some { x with refused := if who = .mma then some (s.clock / 1500) else x.refused }) ∧
          ((∀ r, who ≠ .burst r) → ok = true → ∀ r c, s.crews.get? r = some c → t.crews.get? r =
            some (if ridBay r ≠ b ∨ c.kernel ≠ k then c else if c.wait = .pipe then { c with wait := .none }
              else if c.wait = .leave ∧ (x.level = 14 ∨ x.level = 15) then { c with burst := true, wait := .none } else c)) ∧
          (ok = true → x.level = 14 ∨ x.level = 15 → ∀ m ∈ t.cmds, m.bay = b → m.k = k → m.leave = false) ∧
          (∀ id, who = .cmd id → ok = true → ∀ m ∈ t.cmds, m.id = id → m.leave = false) ∧
          (∀ r c, who = .burst r → ok = true → s.crews.get? r = some c → c.kernel = k → c.wait = .leave →
            t.crews.get? r = some { c with burst := true, wait := .none }))) ∧
    (∀ die n lvl units ok x, s.place = .kernelBay k b → (s.bay b).kerns.get? k = some x →
      s.answers.find? (fun a => match a.1.what with | .leave b' k' _ _ _ => decide (b' = b) && decide (k' = k) | _ => false) =
        some (⟨die, .leave b k n lvl units⟩, ok) →
      (x.openLeave ≠ some n → ok = false → exec .leaveGrantArrive s =
        .next { s with answers := s.answers.erase (⟨die, .leave b k n lvl units⟩, ok) }) ∧
      (x.openLeave = some n → Runs .leaveGrantArrive s (fun t =>
        (t.bay b).kerns.get? k = some { x with
          openLeave := none, level := if ok then x.level + min units (15 - x.level) else x.level } ∧
        (ok = true → ∀ r c, s.crews.get? r = some c → ridBay r = b → c.kernel = k → c.wait = .pipe → ∃ e, t.crews.get? r = some e ∧ e.wait = .none) ∧
        ∀ rid r u c, s.leaveAsker n = some (rid, r, u) → s.crews.get? rid = some c → ∃ e, t.crews.get? rid = some e ∧ e.wait = .none ∧
          e.pc = s.nextPc rid c ∧ ∀ l ∈ c.active, (e.reg r l).toNat = if u < s.clock then 0x0D else if ok then 0 else 0x0E))) ∧
    (∀ rid c n r u, s.place = .kernelBay k b →
      (∀ a ∈ s.answers, ∀ n lvl units, a.1.what ≠ .leave b k n lvl units) → s.crews.filter (fun p => decide (p.1 = rid)) = [(rid, c)] →
      c.wait = .leaveAsk n r u → ridBay rid = b → c.kernel = k → u < s.clock → Runs .leaveGrantArrive s (fun t =>
        ∃ e, t.crews.get? rid = some e ∧ e.wait = .none ∧ e.pc = s.nextPc rid c ∧ ∀ l ∈ c.active, (e.reg r l).toNat = 0x0D))
  ) ∧
  (
  ∀ (s : State),
    (∀ v, s.place = .plimit v →
      let w := max 2400 (min 4800 v.toNat)
      Runs .plimitWrite s (fun t => t = { s with sys := t.sys, agenda := s.agenda ++ [.event .none .coxChoose] } ∧
        Sets s t .power 0 [(Pwr.plimit, w), (Pwr.budget0, 1326 * (w - 2000) / 1000), (Pwr.budget1, 1326 * (w - 2000) / 1000)])) ∧
    (∀ d x, s.place = .thermal d x → d < 2 →
      (1050 < x → Runs .thermalTripSet s (fun t => t = { s with sys := t.sys, temp0 := t.temp0, temp1 := t.temp1 } ∧
        (if d = 0 then t.temp0 else t.temp1) = x ∧ Sets s t .power 0 [(if d = 0 then Pwr.trip0 else Pwr.trip1, 1)])) ∧
      (x ≤ 1050 → exec .thermalTripSet s = .next s) ∧
      (x < 1000 → Runs .thermalTripClear s (fun t => t = { s with sys := t.sys, temp0 := t.temp0, temp1 := t.temp1 } ∧
        (if d = 0 then t.temp0 else t.temp1) = x ∧ Sets s t .power 0 [(if d = 0 then Pwr.trip0 else Pwr.trip1, 0)])) ∧
      (1000 ≤ x → exec .thermalTripClear s = .next s)) ∧
    (∀ l f i, s.place = .scrub l f → i = .hbmPatrolScrub ∨ i = .sramScrub →
      (f = .clean → exec i s = .next s) ∧
      (f = .corrected → exec i s = .next { s with host := { s.host with correctable := s.host.correctable + 1 } }) ∧
      (f = .uncorrectable → Runs i s (fun t => l ∈ t.poisoned ∧ t.mem = s.mem ∧ t.host.uncorrectable = s.host.uncorrectable + 1 ∧
        (l ∉ s.poisoned → ∀ r ∈ t.reds, lineOf r.pa ≠ l)))) ∧
    (∀ f, s.place = .sram f → exec .sramScrub s = .next { s with host := { s.host with
      correctable := s.host.correctable + (if f = .corrected then 1 else 0),
      uncorrectable := s.host.uncorrectable + (if f = .uncorrectable then 1 else 0) } })
  )

/-- A unit of a command that may run is performed and lands (R310, R322, R323), or its landing is held where its object's page is marked for a
checkpoint (R270; log 92): the command counts it. A COPY between two ranges of memory moves the bytes of the unit, and changes no other
byte; with truss multicast its lines are also installed on each bay of the issuing crew's truss that maps the page and holds a resident
crew of the bent, over a path that serves one request at a time (R17, R325). A command takes a free engine of the issuing crew's die where
one is free; of the other die where none is, or where source and destination both lie there (R12, R27). A command whose units are all
done, or that has been aborted, ends (R322). A code fetch fills its slot with the segment's words and ends (R126). An ENCODE whose ready
condition holds reads its command block (R328, R329): a block that breaks a rule has status 2, poison status 4; a frame that refers to a
slot in which no frame stands has status 3; otherwise the engine settles a status of 0 or 1 and a length within the buffer (R330). At the
end the status and the number of bytes are stored in the block, the bytes land, the done object receives its arrival, and the command
ends; a write that meets a translation fault pauses the command (R257). A ready object that is orphaned has status 5. What a success
writes begins with a temporal delimiter, then the sequence header that the block asks for or a frame (R329; log 13), and in the stream
state that it writes the slots of the refresh mask hold a frame. (The model's readings and choices in this: log 28, 67, 69, 85.) -/
def Obligations.EngineWork : Prop :=
  (
  ∀ (s : State) (m : Cmd), s.place = .entry m.id → s.cmds.find? (fun x => decide (x.id = m.id)) = some m → m.aborted = false →
    m.kind = .copy ∨ (m.kind = .gather ∨ m.kind = .scatter) ∧ m.list ≠ none → m.peerEnds = none →
    m.stage = .running ∨ m.stage = .waiting ∧ s.mayStart m = true →
    let x : Cmd := { m with stage := .running }
    let w : State := { s.engage m with fresh := s.fresh + 1 }
    let v : State := if m.stage = .waiting then w.mapCmd m.id (fun y => { y with stage := .running }) else w
    (s.served m = false → exec .engineUnitLand s = .next s) ∧
    (s.served m = true ↔ (m.engine ≠ none ∨ s.engineFor m ≠ none) ∧
      (m.kind = .copy → slice 193 193 m.desc = 1 → ∀ tm b, s.casts.get? (m.bay / 16) = some (tm, b) → tm ≠ s.clock ∨ b ≤ m.bay)) ∧
    (∀ d i, s.engineFor m = some (d, i) → i < 16 ∧
      (∀ y ∈ s.cmds, y.engine = some (d, i) → y.kind.encodes = true) ∧
      (d ≠ dieOf m.bay → d = 1 - dieOf m.bay ∧ (s.bothFar m = true ∨
        ∀ j, j < 16 → ∃ y ∈ s.cmds, y.engine = some (dieOf m.bay, j) ∧ y.kind.encodes = false))) ∧
    (s.engineFor m = none → ∀ j, j < 16 → ∃ y ∈ s.cmds, y.engine = some (dieOf m.bay, j) ∧ y.kind.encodes = false) ∧
    (s.served m = true → m.units ≤ m.done → Runs .engineUnitLand s (fun t => t.mem = s.mem ∧
      t.agenda = s.agenda ++ [.event (.entry m.id) .engineCommandComplete])) ∧
    (s.served m = true → m.done < m.units → ∀ u, v.perform x (x.work m.done) = .ok u → Runs .engineUnitLand s (fun t =>
      (∃ y ∈ t.cmds, y.id = m.id ∧ y.done = m.done + 1 ∧ y.stage = .running ∧
        y.engine = if m.engine = none then s.engineFor m else m.engine) ∧
      (m.bar = none → t.mem = u.mem) ∧
      (∀ pa w, m.bar = some pa → (u.windowLand x).barMarked m.ctx m.barVa pa = false →
        (u.windowLand x).barPerform pa (.land (x.work m.done).bytes) = .ok w → t.mem = w.mem) ∧
      (∀ pa o, m.bar = some pa → (u.windowLand x).barMarked m.ctx m.barVa pa = true →
        BarOp.apply (.land (x.work m.done).bytes) ((u.windowLand x).num pa 32) = .ok o →
        t.mem = u.mem ∧ t.heldBars = u.heldBars ++ [⟨m.ctx, m.barVa, pa, some (.land (x.work m.done).bytes)⟩]))) ∧
    (∀ src dst n h g, s.served m = true → m.done < m.units → m.bar = none → x.work m.done = .move (some src) dst n → n % 16 = 0 →
      v.need x src n .read = .ok [(src, h, n)] → v.need x dst n .write = .ok [(dst, g, n)] →
      (∀ i, i < n → lineOf (h.pa + i) ∉ s.poisoned) → 0x200_0000 ≤ h.pa → 0x200_0000 ≤ g.pa → Runs .engineUnitLand s (fun t =>
        (∀ i, i < n → t.byte (g.pa + i) = s.byte (h.pa + i)) ∧
        (∀ a, a < g.pa ∨ g.pa + n ≤ a → t.byte a = s.byte a) ∧
        (m.kind = .copy → slice 193 193 m.desc = 1 → t.casts.get? (m.bay / 16) = some (s.clock, m.bay) ∧
          ∀ b, b / 16 = m.bay / 16 → (s.stashOf b m.ctx dst).isSome = true →
            (∃ p ∈ s.crewsOn b, p.2.kernel = m.k ∧ slice 255 248 m.desc ∈ p.2.bents) →
            ∀ i, i < n → lineOf (g.pa + i) ∈ (t.bay b).cast)))
  ) ∧
  (
  ∀ (s : State) (m : Cmd), s.place = .entry m.id → s.cmds.find? (fun x => decide (x.id = m.id)) = some m →
    let gone (t : State) : Prop := (∀ x ∈ t.cmds, x.id ≠ m.id) ∧ t.agenda.getLast? = some (.event (.kernel m.k) .kernelRetire)
    (m.kind.moves = true → m.aborted = true ∨ m.units ≤ m.done → Runs .engineCommandComplete s gone) ∧
    (m.kind.moves = true → m.aborted = false → m.done < m.units → exec .engineCommandComplete s = .next s) ∧
    (m.kind = .encode → m.aborted = true → Runs .engineCommandComplete s gone) ∧
    (∀ slot lines, m.kind = .cfetch slot lines →
      (m.aborted = true → Runs .engineCommandComplete s gone) ∧
      (m.aborted = false → exec .engineCommandComplete s = .next s) ∧
      (∀ l bk, m.aborted = false → m.stage = .waiting ∨ m.stage = .running →
        reachOf (fun v => if outside v 1 then .fault 0x030 0 else s.xlatWalk m.ctx v .fetch) (pieces m.desc (128 * lines)) = .ok l →
        s.poisonIn l = [] → (s.bay m.bay).kerns.get? m.k = some bk → (∃ p ∈ s.crews, ridBay p.1 = m.bay ∧ p.2.kernel = m.k) →
        Runs .cfetchComplete s (fun t => gone t ∧ t.codeSlot m.bay m.k slot = .full m.desc lines (s.wordsAt l))))
  ) ∧
  (
  ∀ (s : State) (m : Cmd), s.place = .entry m.id → s.cmds.find? (fun x => decide (x.id = m.id)) = some m → m.kind = .encode →
    m.aborted = false →
    let w : State := s.engage m
    let v : State := { w with fresh := s.fresh + 1 }
    let eng := if m.engine = none then s.engineFor m else m.engine
    let blk := sext56 (slice 55 0 m.desc)
    let now (t : State) (y : Cmd) : Prop := t.cmds.find? (fun x => decide (x.id = m.id)) = some y
    let ends (u : State) (n : Nat) : State :=
      ((match m.bar with | some pa => (u.landCmd m n).cmdOp m pa (.arrive 1) | none => u.landCmd m n)).endCmd m
    (s.served m = true ↔ m.engine ≠ none ∨ s.engineFor m ≠ none) ∧
    (s.served m = false → exec .encodeStart s = .next s ∧ exec .encodeDone s = .next s) ∧
    (∀ pa, s.served m = true → m.status = none → m.stage = .running ∨ m.stage = .waiting ∧ s.mayStart m = true → m.ready = some pa →
      Bar.holds (s.num pa 32) (if Bar.mode.get (s.num pa 32) = 1 then slice 159 128 m.desc else slice 191 128 m.desc) ≠ some true →
      (Bar.orphan.get (s.num pa 32) = 1 → Runs .encodeStart s (fun t => now t { m with stage := .running, status := some 5 })) ∧
      (Bar.orphan.get (s.num pa 32) ≠ 1 → exec .encodeStart s = .next s)) ∧
    (s.served m = true → m.status = none → m.stage = .running ∨ m.stage = .waiting ∧ s.mayStart m = true →
      (m.ready = none ∨ ∃ pa, m.ready = some pa ∧ Bar.holds (s.num pa 32)
        (if Bar.mode.get (s.num pa 32) = 1 then slice 159 128 m.desc else slice 191 128 m.desc) = some true) →
      ∀ l, v.need m blk 256 .read = .ok l →
        (v.poisonIn l ≠ [] → Runs .encodeStart s (fun t => now t { m with stage := .running, status := some 4, engine := eng })) ∧
        (v.poisonIn l = [] → blkValid (v.readPieces l) = false → Runs .encodeStart s (fun t =>
          now t { m with stage := .running, status := some 2, engine := eng })) ∧
        (∀ o, v.poisonIn l = [] → blkValid (v.readPieces l) = true → v.readAll m (blkReads (v.readPieces l)) = .ok false →
          v.need m (blkNum (v.readPieces l) 0x28 8) (blkNum (v.readPieces l) 0x30 4) .write = .ok o → Runs .encodeStart s (fun t =>
            let b := v.readPieces l
            let held (n : Nat) : Prop := (v.slotMask m b).testBit n = true
            ∃ y st, now t y ∧ y.status = some st ∧ (st = 0 ∨ st = 1 ∨ st = 3) ∧ y.stage = .running ∧ y.engine = eng ∧
              (st = 3 ↔ (blkNum b 0x34 4).testBit 0 = true ∧ (¬held (slice 6 4 (blkNum b 0x34 4)) ∨
                (blkNum b 0x34 4).testBit 11 = true ∧ ¬held (slice 10 8 (blkNum b 0x34 4)))) ∧
              (st = 0 → unitMin m.id b ≤ y.done) ∧ y.done ≤ blkNum b 0x30 4 ∧ t.mem = s.mem))) ∧
    (∀ st, s.served m = true → m.status = some st → st ≠ 0 → m.stage = .running →
      (∀ l, st ≠ 6 → w.reachEng m.bay m.ctx blk 8 .write = .ok l → Runs .encodeDone s (fun t =>
        t.mem = (ends (w.writePieces l (toBytes 4 st ++ toBytes 4 0)) 0).mem ∧ ∀ x ∈ t.cmds, x.id ≠ m.id)) ∧
      (∀ kind copy at_, st ≠ 6 → w.reachEng m.bay m.ctx blk 8 .write = .fault kind copy at_ → Runs .encodeDone s (fun t =>
        ∃ y ∈ t.cmds, y.id = m.id ∧ y.status = some st ∧ y.stage = .faulted ∧ y.engine = none)) ∧
      (st = 6 → Runs .encodeDone s (fun t => t.mem = (ends w 0).mem ∧ ∀ x ∈ t.cmds, x.id ≠ m.id))) ∧
    (∀ b n tiles, unitMin m.id b ≤ n → (temporalUnit m.id b n tiles).length = n ∧ (temporalUnit m.id b n tiles).take 3 =
      [0x12#8, 0x00#8, if (blkNum b 0x34 4).testBit 3 then 0x0A#8 else 0x32#8]) ∧
    (∀ b, (v.nextStream m b).length = stateBytes b ∧ (v.nextStream m b)[Config.stateMaskAt % 4096]? =
      some (BitVec.ofNat 8 (v.slotMask m b ||| slice 23 16 (blkNum b 0x34 4)))) ∧
    (∀ q u l, s.served m = true → m.status = some 0 → m.stage = .running → v.need m blk 256 .write = .ok q →
      v.encodeWrites m ((m.list.getD []).map (fun (x : Nat) => BitVec.ofNat 8 x)) m.done = .ok u →
      u.reachEng m.bay m.ctx blk 8 .write = .ok l →
      Runs .encodeDone s (fun t => t.mem = (ends (u.writePieces l (toBytes 4 0 ++ toBytes 4 m.done)) m.done).mem ∧
        ∀ x ∈ t.cmds, x.id ≠ m.id))
  )

/-! ## Events: trees, packages, records -/

/-- Once no crew is still to be cancelled for a tree, its pruned nodes are free and no other node changes; a freeing tree is gone (R340, R344,
R353). The firmware's choice for a sequence class is written to the template table as one stroke, which waits while a held stroke has
reserved the umpire of its line (R220, R224, R349). A packet of another epoch is refused and counted (R370), a held one too. A packet of a
crew that has been answered here, or one before it, is not performed again, and one behind a held packet of its crew is held (R372, R374).
A packet of one access that the window takes is performed and answered: a write stores its bytes, a read answers with them, an RMW stores
its result, a barrier operation is performed or answered with its mode failure, 3 where its page is memory-side or KV (R315, R382); one
outside the window is refused with 1 (R372, R379, R382). An access to a reduction cell is one step (R381): a halted cell drops it, a
marker halts the cell, a contribution of another type or anchor is a mismatch, and any other adds its value in fixed point, counts, and
leaves the rounded sum. The last access of a packet answers, with 3 after a mismatch. The answer to a posted access takes it off; a
failure is reported late, once for its instruction and destination (R373). With the last answer of an XGET its results are written and its
crew goes on, or the crew traps at the lowest failing lane (R378). (The model's readings and choices in this: log 58, 70, 71, 72.) -/
def Obligations.TreesAndPackets : Prop :=
  (
  ∀ (s : State),
    (∀ slot, s.place = .entry slot →
      (s.fld .tree slot Tre.state = 0 ∨ s.dooms slot = true → exec .treeNodesFree s = .next s) ∧
      (∀ tp, s.fld .tree slot Tre.state = 1 → s.dooms slot = false → s.treePage (s.fld .tree slot Tre.ctx) slot 0 .write = .ok tp →
        inSys tp = false → Runs .treeNodesFree s (fun t => t.crews = s.crews ∧
          t.fld .tree slot Tre.nlive = s.fld .tree slot Tre.nlive -
            ((List.range 256).filter (fun n => decide (Nod.state.get (nodeOf (s.nodes tp) n) = 6))).length ∧
          ∀ n, n < 256 → nodeOf (t.nodes tp) n =
            if Nod.state.get (nodeOf (s.nodes tp) n) = 6 then Nod.state.set (nodeOf (s.nodes tp) n) 0 else nodeOf (s.nodes tp) n)) ∧
      (s.fld .tree slot Tre.state = 2 → s.dooms slot = false → Runs .treeNodesFree s (fun t =>
        t.fld .tree slot Tre.state = 0 ∧ t.fld .tree slot Tre.nlive = 0 ∧
        t.fld .context (s.fld .tree slot Tre.ctx) Ctx.ntrees = s.fld .context (s.fld .tree slot Tre.ctx) Ctx.ntrees - 1))) ∧
    (∀ ctx cls (e : DWord), s.place = .template ctx cls e →
      (s.cfg ctx Ctx.tmplva = 0 ∨ 64 ≤ cls ∨ slice 31 8 e.toNat ≠ 0 → exec .templatePublish s = .next s) ∧
      (s.cfg ctx Ctx.tmplva ≠ 0 → cls < 64 → slice 31 8 e.toNat = 0 →
        let va := sext56 (s.cfg ctx Ctx.tmplva * 2 ^ 12) + 8 * cls
        let w := s.makeWritable ctx va
        let held (pa : Nat) : Prop := ∃ p ∈ w.crews, (p.2.heldReady = true ∨ ∃ st ∈ p.2.strokes, st.held = true) ∧
          umpireOf (lineOf pa) ∈ p.2.heldSet.getD []
        ∀ pa, w.ringSlot ctx va .write = .ok pa → inSys pa = false →
          (held pa → exec .templatePublish s = .next w) ∧
          (¬held pa → Runs .templatePublish s (fun t =>
            t.mem = Memory.writes w.mem pa (toBytes 8 e.toNat) ∧ t.order = w.order + 1))))
  ) ∧
  (
  ∀ (s : State) (p : Pkt), s.place = .packet p →
    (p.dst ≠ s.selfId → exec .peerAccessPerform s = .next s) ∧
    let twin : Prop := ∃ x ∈ s.peersIn, x.pkt.sameCrew p = true ∧ x.pkt.id = p.id ∧ ¬(x.pkt = p ∧ x.fault = none)
    let answered (t : State) (st : PeerStatus) : Prop := t.replies = s.replies ++ [(p.src, p.id, st)] ∧ t.peerNext p = false
    (s.peerNext p = false ↔ ∃ y ∈ s.peersSeen, y.src = p.src ∧ y.epoch = p.epoch ∧ y.kernel = p.kernel ∧ y.crew = p.crew ∧ p.id ≤ y.id) ∧
    (s.peerNext p = false ∨ twin → exec .peerAccessPerform s = .next s) ∧
    (p.dst = s.selfId → s.peerNext p = true → ¬twin → p.epoch ≠ s.epoch → Runs .peerAccessPerform s (fun t => t.mem = s.mem ∧
      answered t .epoch ∧ t.host.peerDropped = s.host.peerDropped + 1 ∧ ∀ x ∈ t.peersIn, x.pkt ≠ p ∨ x.fault ≠ none)) ∧
    (p.dst = s.selfId → s.peerNext p = true → ¬twin → p.epoch = s.epoch → (∃ x ∈ s.peersIn, x.pkt.sameCrew p = true ∧ x.pkt.id < p.id) →
      Runs .peerAccessPerform s (fun t => t.mem = s.mem ∧ t.replies = s.replies ∧ ∃ x ∈ t.peersIn, x.pkt = p ∧ x.fault = none)) ∧
    (∀ op, p.dst = s.selfId → s.peerNext p = true → p.epoch = s.epoch → p.ops = [op] → (∀ x ∈ s.peersIn, x.pkt.sameCrew p = false) →
      let pa := s.peerPa p.ctx op
      let v : State := { s with peersIn := s.peersIn.filter (fun x => !(decide (x.pkt = p) && x.fault.isNone)) }
      let answers := answered
      (∀ st, s.peerStop p.ctx op = some (.answer st) → Runs .peerAccessPerform s (fun t => answers t st ∧ t.mem = s.mem)) ∧
      (∀ a off n, s.peerStop p.ctx op = none → op = .arrive off n ∧ v.barPerform pa (.arrive n) = .error a ∨
          op = .raise off n ∧ v.barPerform pa (.raise n) = .error a →
        Runs .peerAccessPerform s (fun t => answers t (.barrierMode a) ∧ t.mem = s.mem)) ∧
      (∀ off n h, op = .arrive off n ∨ op = .raise off n → s.windowShut p.ctx off = false → s.xlatWindow p.ctx op = .ok h →
        Pte.m h.leaf = true ∨ Pte.kv h.leaf = true → Runs .peerAccessPerform s (fun t => answers t (.barrierMode 3) ∧ t.mem = s.mem)) ∧
      (s.windowShut p.ctx op.access.1 = true → Runs .peerAccessPerform s (fun t => answers t (.refused 1) ∧ t.mem = s.mem)) ∧
      (s.peerStop p.ctx op = none → inSys pa = false →
        (∀ off w x, op = .put off w x → Runs .peerAccessPerform s (fun t => answers t (.done []) ∧
          t.mem = Memory.writes s.mem pa (toBytes w x))) ∧
        (∀ off w, op = .get off w → Runs .peerAccessPerform s (fun t => answers t (.done [s.num pa w]) ∧ t.mem = s.mem)) ∧
        (∀ r ty off v, op = .red r ty off v → Runs .peerAccessPerform s (fun t => answers t (.done []) ∧
          t.mem = Memory.writes s.mem pa (toBytes (tyBytes ty) (Alu.rmw r ty (s.num pa (tyBytes ty)) v.toNat 0)))) ∧
        (∀ off n u, op = .arrive off n → v.barPerform pa (.arrive n) = .ok u → Runs .peerAccessPerform s (fun t => t.mem = u.mem ∧ t.replies = u.replies ++ [(p.src, p.id, .done [])])) ∧
        (∀ off n u, op = .raise off n → v.barPerform pa (.raise n) = .ok u → Runs .peerAccessPerform s (fun t => t.mem = u.mem ∧ t.replies = u.replies ++ [(p.src, p.id, .done [])])) ∧
        (op.toCell = true → Runs .peerAccessPerform s (fun t =>
          t.agenda = .event (.cell p false) .xredCellApply :: s.agenda ∧ t.mem = s.mem))))
  ) ∧
  (
  (∀ cell op, Cel.halt.get cell = 1 → onCell op cell = (cell, false)) ∧
  (∀ cell off, Cel.halt.get cell = 0 → onCell (.marker off) cell = (Cel.halt.set cell 1, false)) ∧
  (∀ cell ty f a off v, Cel.halt.get cell = 0 → fmtOf ty = some f →
    (Cel.type.get cell ≠ ty.code.toNat ∨ intVal true 16 (Cel.anchor.get cell) ≠ a → onCell (.cell ty a off v) cell = (Cel.mism.set cell 1, true)) ∧
    (Cel.type.get cell = ty.code.toNat → intVal true 16 (Cel.anchor.get cell) = a →
      let n := intVal true 96 (Cel.N.get cell) + (cellAddend a (f.val v.toNat)).1
      let z := max (-(2 ^ 95 - 1)) (min (2 ^ 95 - 1) n)
      let c := (onCell (.cell ty a off v) cell).1
      (onCell (.cell ty a off v) cell).2 = false ∧ Cel.halt.get c = 0 ∧ Cel.type.get c = Cel.type.get cell ∧
        Cel.anchor.get c = Cel.anchor.get cell ∧ intVal true 96 (Cel.N.get c) = z ∧
        Cel.count.get c = min (Cel.count.get cell + 1) (2 ^ 64 - 1) ∧
        (Cel.sat.get c = 1 ↔ Cel.sat.get cell = 1 ∨ (cellAddend a (f.val v.toNat)).2 = true ∨ z ≠ n) ∧
        Cel.result.get c = f.round .rn (.fin (decide (z < 0)) z.natAbs 1 (a - 79)) % 2 ^ 64)) ∧
  (∀ (s : State) (p : Pkt) (bad : Bool), s.place = .cell p bad →
    ∀ op rest, p.ops = op :: rest → s.peerStop p.ctx op = none → inSys (s.peerPa p.ctx op) = false →
      let r := onCell op (s.num (s.peerPa p.ctx op) 32)
      Runs .xredCellApply s (fun t => t.mem = Memory.writes s.mem (s.peerPa p.ctx op) (toBytes 32 r.1) ∧
        (rest = [] → t.replies = s.replies ++ [(p.src, p.id, if bad || r.2 then .refused 3 else .done [])]) ∧
        (rest ≠ [] → t.replies = s.replies ∧ t.agenda = .event (.cell { p with ops := rest } (bad || r.2)) .xredCellApply :: s.agenda)))
  ) ∧
  (
  ∀ (s : State) (id : Nat) (st : PeerStatus) (p : PeerOut), s.place = .ack id st →
    s.peers.find? (fun q => decide (q.id = id) && q.answer.isNone) = some p →
    (p.get = none → p.cmd = none → Runs .peerAck s (fun (t : State) => t.mem = s.mem ∧ (∀ q ∈ t.peers, q.id ≠ id) ∧
      t.agenda.getLast? = some (.event (.kernel p.k) .kernelRetire) ∧
      (∀ kind aux, st.fault = some (kind, aux) → p.told = true → ∀ f, Task.event (.late f) .impreciseFault ∈ t.agenda →
        Task.event (.late f) .impreciseFault ∈ s.agenda) ∧
      ∀ kind aux, st.fault = some (kind, aux) → p.told = false →
        (∀ q ∈ t.peers, q.instr = p.instr → q.pkt.dst = p.pkt.dst → q.told = true) ∧ ∃ f, Task.event (.late f) .impreciseFault ∈ t.agenda ∧
        f.kind = kind ∧ f.aux = aux ∧ f.addr = BitVec.ofNat 64 p.addr ∧ f.pc = p.pc ∧ f.kernel = s.handle p.k ∧ f.crew = p.crew ∧
        f.stroke = BitVec.ofNat 64 p.stroke ∧ f.ctx = p.ctx)) ∧
    (∀ rid ds c, p.get = some (rid, ds) → s.peers.filter (fun q => decide (q.instr = p.instr)) = [p] → s.crews.get? rid = some c →
      c.wait = .peer p.instr →
      (∀ data, st = .done data → Runs .peerAck s (fun t => t.mem = s.mem ∧ (∀ q ∈ t.peers, q.instr ≠ p.instr) ∧
        ∃ d, t.crews.get? rid = some d ∧ d.wait = .none ∧ d.pc = s.nextPc rid c ∧ d.em = c.em ∧
          d.regs = writeCells c.regs ((ds.zip data).flatMap (fun x => cellsAt x.1.2.2 x.1.2.1 x.1.1 x.2)))) ∧
      (∀ lane kind aux va, lowestFailing [{ p with answer := some st }] = some (lane, kind, aux, va) → exec .peerAck s = .next ({ s with
        peers := (s.peers.map (fun (q : PeerOut) => if q.id = id then { q with answer := some st } else q)).filter (fun q =>
          decide (q.instr ≠ p.instr)), fresh := s.fresh + 1 }.takeTrap rid
          ⟨kind, aux, va, lane, 0, c.pc, c.slot⟩))) ∧
    (∀ m, p.get = none → p.cmd = some m → (∃ q ∈ s.peers, q.instr = p.instr ∧ q.id ≠ id ∧ q.answer = none) → Runs .peerAck s (fun (t : State) =>
      t = { s with peers := s.peers.map (fun (q : PeerOut) => if q.id = id then { q with answer := some st } else q) }))
  )

/-- The states of a port (R366, R367): enabling a disabled one has it train, disabling any takes it down, training ends with the far end's
identifier and the port up, 10 ms of training begin anew, a signal on a dead port and 1,024 flits resent within 1 ms have it train. Each
change of state arrives on the link event barrier, with count 1, where one is set that translates to a phase object of an ordinary page
(R367, R369). A flit received with a bad check counts in crcerr, one that the port sends again in retries. A heartbeat of a member over an
up port makes it reachable there and gives both their time; one from a module that is no member counts for the port alone (R367, R368). A
heartbeat goes out each 10 µs. A period of a port without one counts, and the eighth makes the port dead (R367); a period of a member over
a port counts for the pair, and a live member that every pair has lost is declared dead: a link event, and the accesses to it that are not
acknowledged fail (R368, R375). A retired stamp window leaves its record of 64 bytes in the shared buffer, where it has room, and is gone
(R398, R399). A due sample of a side's crews writes one record for the crew that follows the one sampled last, in ascending slot: where it
stands and what it did in this clk (R400). That the first sample of all begins at slot 0 is the model's choice (log 7). (The model's
readings and choices in this: log 54, 73, 74, 83.) -/
def Obligations.PortsAndRecords : Prop :=
  (
  ∀ (s : State) (p : Nat), p < 64 →
    let st := s.fld .port p Port.state
    let becomes (i : Instr) (l : List (Fld × Nat)) : Prop := ∃ u : State, u = { s with sys := u.sys, portTimes := u.portTimes } ∧ Sets s u .port p l ∧
      exec i s = .next u.linkEvent
    (s.fld .link 0 Lnk.evbar = 0 → s.linkEvent = s) ∧
    (let va := sext56 (s.fld .link 0 Lnk.evbar * 32)
     ∀ h, s.fld .link 0 Lnk.evbar ≠ 0 → isPeer va = false → s.xlatWalk 0 va .read = .ok h →
      (∀ w, Pte.m h.leaf = false → Pte.kv h.leaf = false → Bar.mode.get (s.num h.pa 32) = 1 → s.barMarked 0 va h.pa = false →
        s.barPerform h.pa (.arrive 1) = .ok w → s.linkEvent = w) ∧
      (Pte.m h.leaf = false → Pte.kv h.leaf = false → Bar.mode.get (s.num h.pa 32) = 1 → s.barMarked 0 va h.pa = true →
        s.linkEvent = s.holdBar ⟨0, va, h.pa, some (.arrive 1)⟩) ∧
      (Pte.m h.leaf = true ∨ Pte.kv h.leaf = true ∨ Bar.mode.get (s.num h.pa 32) ≠ 1 → s.linkEvent = s)) ∧
    (s.place = .port p →
      (s.fld .port p Port.en = 1 → st = 0 → becomes .portEnSet [(Port.state, 1)]) ∧
      (s.fld .port p Port.en = 0 ∨ st ≠ 0 → exec .portEnSet s = .next s) ∧
      (s.fld .port p Port.en = 0 → st ≠ 0 → becomes .portEnClear [(Port.state, 0)]) ∧
      (s.fld .port p Port.en = 0 → st = 0 → exec .portEnClear s = .next s) ∧
      (st = 3 → becomes .portSignalSeen [(Port.state, 1)]) ∧
      (st ≠ 3 → exec .portSignalSeen s = .next s) ∧
      (st = 1 → s.portTime (trainKey p) + 15000000 ≤ s.clock → Runs .portTrainingTimeout s (fun t =>
        t = { s with portTimes := t.portTimes } ∧ t.portTime (trainKey p) = s.clock)) ∧
      (s.clock < s.portTime (trainKey p) + 15000000 → exec .portTrainingTimeout s = .next s) ∧
      (s.retriesOver p = true → becomes .portRetryLimit [(Port.state, 1)]) ∧
      (s.retriesOver p = false → exec .portRetryLimit s = .next s)) ∧
    (∀ resent, s.place = .flit p resent →
      (st = 1 ∨ st = 2 → Runs .corruptedFlit s (fun t => t = { s with sys := t.sys, portTimes := t.portTimes, agenda := t.agenda } ∧
        Sets s t .port p [if resent then (Port.retries, s.fld .port p Port.retries + 1) else (Port.crcerr, s.fld .port p Port.crcerr + 1)])) ∧
      (st ≠ 1 → st ≠ 2 → exec .corruptedFlit s = .next s)) ∧
    (∀ peer, s.place = .trained p peer →
      (st = 1 → becomes .portTrained [(Port.peer, peer.toNat), (Port.missed, 0), (Port.state, 2)]) ∧
      (st ≠ 1 → exec .portTrained s = .next s))
  ) ∧
  (
  ∀ (s : State) (p : Nat), p < 64 →
    let up : Prop := s.fld .port p Port.state = 2
    (∀ m, s.place = .beat p m → up → 768 ≤ m → Runs .heartbeatArrive s (fun t =>
      t = { s with sys := t.sys, portTimes := t.portTimes } ∧ t.portTime (beatKey p) = s.clock ∧
      Sets s t .port p [(Port.missed, 0), (Port.lastbeat, s.time % 2 ^ 32)])) ∧
    (∀ m, s.place = .beat p m → up → m < 768 → Runs .heartbeatArrive s (fun t =>
      t = { s with sys := t.sys, reach := t.reach, portTimes := t.portTimes } ∧ t.fld .port p Port.missed = 0 ∧
      t.fld .port p Port.lastbeat = s.time % 2 ^ 32 ∧ t.fld .member m Mem.lastbeat = s.time % 2 ^ 32 ∧ t.reachCount m p = 0 ∧
      t.fld .member m Mem.ports = ((List.range 64).filter (fun q => decide (t.reachCount m q < 8))).length ∧
      t.portTime (beatKey p) = s.clock ∧ t.portTime (memberKey m p) = s.clock)) ∧
    (s.place = .port p → up → s.portTime (sendKey p) + 15000 ≤ s.clock → Runs .heartbeatSend s (fun t =>
      t = { s with portTimes := t.portTimes } ∧ t.portTime (sendKey p) = s.clock)) ∧
    (s.place = .port p → up → s.clock < s.portTime (sendKey p) + 15000 → exec .heartbeatSend s = .next s) ∧
    (s.place = .port p → up → s.portTime (beatKey p) + 15000 ≤ s.clock →
      let n := s.fld .port p Port.missed + 1
      (n < 8 → Runs .heartbeatPeriodMissed s (fun t => t = { s with sys := t.sys, portTimes := t.portTimes } ∧
        Sets s t .port p [(Port.missed, n)])) ∧
      (8 ≤ n → ∃ u : State, u = { s with sys := u.sys, portTimes := u.portTimes } ∧ Sets s u .port p [(Port.missed, n), (Port.state, 3)] ∧
        exec .heartbeatPeriodMissed s = .next u.linkEvent)) ∧
    (∀ m, s.place = .beat p m → s.memberMisses m p = false → s.memberLive m = false ∨ m = s.selfId ∨ s.portsOf m ≠ 0 →
      exec .heartbeatPeriodMissed s = .next s) ∧
    (∀ m, s.place = .beat p m → m < 768 → s.memberMisses m p = true →
      let t : State := ((s.setPortTime (memberKey m p) (s.portTime (memberKey m p) + 15000)).setReach m p (s.reachCount m p + 1))
      (s.memberLive m = false ∨ m = s.selfId ∨ t.portsOf m ≠ 0 → Runs .heartbeatPeriodMissed s (fun u =>
        u = { s with sys := u.sys, reach := u.reach, portTimes := u.portTimes } ∧ u.reachCount m p = s.reachCount m p + 1 ∧
        u.fld .member m Mem.ports = t.portsOf m)) ∧
      (s.memberLive m = true → m ≠ s.selfId → t.portsOf m = 0 → ∃ u : State, u = { s with sys := u.sys, reach := u.reach, portTimes := u.portTimes, declared := s.declared ++ [m] } ∧
        u.fld .member m Mem.state = 2 ∧ u.memberLive m = false ∧ Runs .heartbeatPeriodMissed s (fun v => v.mem = u.linkEvent.mem ∧
          ∀ q ∈ u.linkEvent.peers, q.pkt.dst = m → q.answer = none → Task.event (.ack q.id .unreachable) .peerAck ∈ v.agenda)))
  ) ∧
  (
  ∀ (s : State),
    let room (s : State) (ctx pa : Nat) (w : State) : Prop := s.cfg ctx Ctx.stampva ≠ 0 ∧
      ringUsed (s.fld .context ctx Ctx.sput) (s.fld .context ctx Ctx.sget) < 1024 * 2 ^ s.cfg ctx Ctx.ssz ∧ inSys pa = false ∧
      let va := sext56 (s.cfg ctx Ctx.stampva * 2 ^ 12) + 64 * (s.fld .context ctx Ctx.sput % (1024 * 2 ^ s.cfg ctx Ctx.ssz))
      w = s.makeWritable ctx va ∧ w.ringSlot ctx va .write = .ok pa
    (∀ k c, s.place = .kernelCrew k c →
      ((∀ w ∈ ((s.kern k).keepOf c).windows, s.retired k c w = false) → exec .stampRecordWrite s = .next s) ∧
      (∀ w, ((s.kern k).keepOf c).windows.filter (s.retired k c) = [w] → Runs .stampRecordWrite s (fun t =>
        ((t.kern k).keepOf c).windows = ((s.kern k).keepOf c).windows.filter (fun x => decide (x ≠ w)) ∧ t.crews = s.crews ∧
        (s.cfg (s.kern k).ctx Ctx.stampva = 0 → t.mem = s.mem) ∧
        let since (x : Option Nat) : Nat := match x with | some n => n - w.opened | none => 0
        let sat (n : Nat) : Nat := min n (2 ^ 32 - 1)
        let all := [since w.cin, since w.cinland, w.opwait, since w.mstart, since w.mend, since w.cout, s.clock - w.opened]
        let flags := (if w.cin = none then 1 else 0) + (if w.mstart = none then 2 else 0) + (if w.coutAny then 0 else 4) +
          (if ∃ n ∈ all, 2 ^ 32 ≤ n then 8 else 0) + (if w.stop then 16 else 0) + (if w.early then 32 else 0)
        ∀ pa v, room s (s.kern k).ctx pa v → ∃ r, t.mem = Memory.writes v.mem pa (toBytes 64 r) ∧
          Claims.Fields r [(511, 504, 1), (501, 496, flags), (495, 480, bayCode w.bay), (479, 448, w.seq), (447, 416, w.nmma),
            (415, 384, sat (s.clock - w.opened)), (383, 352, sat (since w.cout)), (351, 320, sat (since w.mend)),
            (319, 288, sat (since w.mstart)), (287, 256, sat w.opwait), (255, 224, sat (since w.cinland)), (223, 192, sat (since w.cin)),
            (191, 128, w.opened), (127, 96, c), (95, 64, s.handle k), (63, 0, w.label)]))) ∧
    (∀ b d ctx, s.place = .sample b d ctx →
      (s.sampleDue b d ctx = false → exec .pcSample s = .next s) ∧
      (∀ slot c, s.sampleDue b d ctx = true → s.sampleSlot b d ctx = some (slot, c) → Runs .pcSample s (fun t =>
        (t.side b d).sampled.get? ctx = some (slot, s.clock) ∧ t.crews = s.crews ∧
        (s.cfg ctx Ctx.stampva = 0 → t.mem = s.mem) ∧
        let code := if c.life = .trapped then 5 else if (s.side b d).swapping slot = true then 4 else if c.wait ≠ .none then 3
          else if c.lastIssue = some s.clock then 0 else if s.couldIssue (sideRid b d slot) c = true then 1 else 2
        ∀ pa v, room (s.setSide b d (fun x => { x with sampled := x.sampled.set ctx (slot, s.clock) })) ctx pa v →
          ∃ r, t.mem = Memory.writes v.mem pa (toBytes 64 r) ∧
            Claims.Fields r [(511, 504, 3), (495, 480, bayCode b), (479, 448, c.em.toNat), (447, 416, c.slot * 2 ^ 12 + c.pc),
              (415, 384, c.tag.toNat), (383, 320, s.clock), (319, 256, c.srStroke), (255, 224, code), (127, 96, c.idx),
              (95, 64, s.handle c.kernel)])) ∧
      (s.sampleDue b d ctx = true → ∀ slot c, s.sampleSlot b d ctx = some (slot, c) →
        (∃ p ∈ s.crewsAt b d, p.1 % 32 = slot ∧ p.2 = c ∧ c.ctx s = ctx ∧ c.life ≠ .exited ∧ c.life ≠ .placed) ∧
        ∀ p ∈ s.crewsAt b d, p.2.ctx s = ctx → p.2.life ≠ .exited → p.2.life ≠ .placed →
          let last := match (s.side b d).sampled.get? ctx with | some (n, _) => n | none => 31
          (slot + 32 - (last + 1) % 32) % 32 ≤ (p.1 % 32 + 32 - (last + 1) % 32) % 32))
  )
end

