-- ==== Sys2Proof/Laws/Code.lean ====
section
/-! SUPPORT. Laws of the encoding: fields, lengths and modifiers read back what the encoder wrote. -/

namespace Sys2Proof

/-! ### Bits and granules -/

theorem Raw.ofBits_bits (r : Raw) : Raw.ofBits r.bits = r := by
  obtain ⟨x0, x1, x2, x3, x4, x5, x6, x7, x8, x9, x10, x11, x12, x13, x14, x15⟩ := r
  simp only [Raw.bits, Raw.ofBits, Raw.mk.injEq]
  refine ⟨?_, ?_, ?_, ?_, ?_, ?_, ?_, ?_, ?_, ?_, ?_, ?_, ?_, ?_, ?_, ?_⟩ <;>
    simp (disch := omega) only [BitVec.extractLsb'_append_eq_of_le, BitVec.extractLsb'_append_eq_of_add_le, Nat.reduceSub,
      BitVec.extractLsb'_eq_self]

theorem Len.mask_getLsbD (l : Len) (i : Nat) (h : i < 128) : l.mask.getLsbD i = decide (i < 32 * l.granules) := by
  have : ∀ i : Fin 128, ∀ l ∈ [Len.l64, .l96, .l128], l.mask.getLsbD i.val = decide (i.val < 32 * l.granules) := by decide +kernel
  exact this ⟨i, h⟩ l (by cases l <;> simp)

/-- Bits that are zero from a length on survive its mask. -/
theorem Len.and_mask (l : Len) (w : BitVec 128) (h : ∀ i, 32 * l.granules ≤ i → i < 128 → w.getLsbD i = false) : w &&& l.mask = w := by
  apply BitVec.eq_of_getLsbD_eq
  intro i hi
  rw [BitVec.getLsbD_and, l.mask_getLsbD i hi]
  by_cases hl : i < 32 * l.granules
  · simp [hl]
  · simp [h i (by omega) hi]

/-- A field of zeros holds zeros. -/
theorem getLsbD_of_field {w : BitVec 128} {s n i : Nat} (h : w.extractLsb' s n = 0#n) (h1 : s ≤ i) (h2 : i < s + n) :
    w.getLsbD i = false := by
  have e : (w.extractLsb' s n).getLsbD (i - s) = false := by rw [h]; simp
  rw [BitVec.getLsbD_extractLsb'] at e
  simpa [show i - s < n by omega, show s + (i - s) = i by omega] using e

/-- Fields above a length that are zero survive the length's mask. -/
theorem Raw.bits_mask (r : Raw) (l : Len) (h32 : l ≠ .l128 → r.imm32 = 0#32)
    (h64 : l = .l64 → r.imm14 = 0#14 ∧ r.pmode = 0#2 ∧ r.vP = 0#8 ∧ r.c = 0#8) : r.bits &&& l.mask = r.bits := by
  have e := r.ofBits_bits
  apply Len.and_mask
  intro i hi h128
  cases l with
  | l128 => simp [Len.granules] at hi; omega
  | l96 =>
    have f : r.bits.extractLsb' 96 32 = 0#32 := (congrArg Raw.imm32 e).trans (h32 (by simp))
    exact getLsbD_of_field f hi h128
  | l64 =>
    obtain ⟨h1, h2, h3, h4⟩ := h64 rfl
    have f0 : r.bits.extractLsb' 96 32 = 0#32 := (congrArg Raw.imm32 e).trans (h32 (by simp))
    have f1 : r.bits.extractLsb' 82 14 = 0#14 := (congrArg Raw.imm14 e).trans h1
    have f2 : r.bits.extractLsb' 80 2 = 0#2 := (congrArg Raw.pmode e).trans h2
    have f3 : r.bits.extractLsb' 72 8 = 0#8 := (congrArg Raw.vP e).trans h3
    have f4 : r.bits.extractLsb' 64 8 = 0#8 := (congrArg Raw.c e).trans h4
    simp only [Len.granules] at hi
    by_cases a4 : i < 72
    · exact getLsbD_of_field f4 hi (by omega)
    by_cases a3 : i < 80
    · exact getLsbD_of_field f3 (by omega) (by omega)
    by_cases a2 : i < 82
    · exact getLsbD_of_field f2 (by omega) (by omega)
    by_cases a1 : i < 96
    · exact getLsbD_of_field f1 (by omega) (by omega)
    exact getLsbD_of_field f0 (by omega) (by omega)

/-- The bits of an instruction's granules are its bits below its length. -/
theorem bitsOf_granulesOf (l : Len) (w : BitVec 128) : bitsOf ((granulesOf l.granules w).take 4) = w &&& l.mask := by
  apply BitVec.eq_of_getLsbD_eq
  intro i hi
  rw [BitVec.getLsbD_and, l.mask_getLsbD i hi]
  cases l <;>
    simp [granulesOf, bitsOf, Len.granules, List.range_succ, BitVec.getLsbD_or, BitVec.getLsbD_shiftLeft, BitVec.getLsbD_extractLsb'] <;>
    grind

/-! ### Codes -/

@[simp] theorem Len.ofCode?_code (l : Len) : Len.ofCode? l.code = some l := by cases l <;> rfl
@[simp] theorem Ty.ofCode?_code (t : Ty) : Ty.ofCode? t.code = some t := by cases t <;> rfl
@[simp] theorem Rnd.ofCode?_code (r : Rnd) : Rnd.ofCode? r.code = some r := by cases r <;> rfl
@[simp] theorem Cond.ofCode_code (c : Cond) : Cond.ofCode c.code = c := by cases c <;> rfl
@[simp] theorem RmwOp.ofCode_code (c : RmwOp) : RmwOp.ofCode c.code = c := by cases c <;> rfl
@[simp] theorem ShflOp.ofCode?_code (c : ShflOp) : ShflOp.ofCode? c.code = some c := by cases c <;> rfl
@[simp] theorem VoteOp.ofCode?_code (c : VoteOp) : VoteOp.ofCode? c.code = some c := by cases c <;> rfl
@[simp] theorem MatchOp.ofCode?_code (c : MatchOp) : MatchOp.ofCode? c.code = some c := by cases c <;> rfl
@[simp] theorem SumRdOp.ofCode?_code (c : SumRdOp) : SumRdOp.ofCode? c.code = some c := by cases c <;> rfl
@[simp] theorem SumRedOp.ofCode?_code (c : SumRedOp) : SumRedOp.ofCode? c.code = some c := by cases c <;> rfl
@[simp] theorem SReg.ofCode?_code (c : SReg) : SReg.ofCode? c.code = some c := by cases c <;> rfl

theorem setOf?_setCode (s : Option (Fin 12)) : setOf? (setCode s) = some s := by
  cases s with
  | none => rfl
  | some f => revert f; decide

@[simp] theorem predOf?_pred (p : Pred) : predOf? p.mode p.reg = some p := by cases p <;> rfl

theorem ctlOf?_rawOf (k : Ctl) (e : Enc) : ctlOf? (rawOf k e) k.len = some k := by
  obtain ⟨l, st, s, w, c, y, p⟩ := k
  simp only [ctlOf?, rawOf, setOf?_setCode, predOf?_pred]
  cases c <;> cases y <;> rfl

/-! ### Modifiers -/

@[simp] theorem ti?_modTI (t : Ty) (s : Bool) : ti? (modTI t s) = some (t, s) := by cases t <;> cases s <;> rfl
@[simp] theorem tf?_modTF (t : Ty) (r : Rnd) : tf? (modTF t r) = some (t, r) := by cases t <;> cases r <;> rfl
@[simp] theorem t0?_modT0 (t : Ty) : t0? (modT0 t) = some t := by cases t <;> rfl
@[simp] theorem c?_modC (t : Ty) (c : Cond) : c? (modC t c) = some (t, c) := by cases t <;> cases c <;> rfl
@[simp] theorem o?_modO (t : Ty) (o : BitVec 3) : o? (modO o t) = some (o, t) := by
  cases t <;> (revert o; decide)
@[simp] theorem m?_modM (w : Width) (s : Bool) (h : Hint) : m? (modM w s h) = some (w, s, h) := by
  cases w <;> cases s <;> cases h <;> rfl
@[simp] theorem d?_modD (t : Ty) (s : BitVec 2) : d? (modD t s) = some (t, s) := by cases t <;> (revert s; decide)
@[simp] theorem q?_modQ (t : Ty) (u : Bool) (s : BitVec 2) : q? (modQ t u s) = some (t, u, s) := by
  cases t <;> cases u <;> (revert s; decide)
@[simp] theorem x?_ext (t s : Ty) (r : Rnd) (b : Bool) : x? (modTF t r) (extX s b) = some (t, s, r, b) := by
  cases t <;> cases r <;> cases s <;> cases b <;> rfl
@[simp] theorem x?_ext0 (s : Ty) (b : Bool) : x? (modT0 .e8m0) (extX s b) = some (.e8m0, s, .rn, b) := by
  cases s <;> cases b <;> rfl

@[simp] theorem f?_modF (o : BitVec 4) : f? (modF o 0#4) = some o.toNat := by revert o; decide
@[simp] theorem f0_modF (i : Instr) : f0 (modF 0#4 0#4) i = some i := by simp [f0]
@[simp] theorem fb?_modF (o : BitVec 4) (b : Bool) : fb? (modF o (flag56 b)) = some (o.toNat, b) := by
  cases b <;> (revert o; decide)
@[simp] theorem fb?_modF0 (o : BitVec 4) : fb? (modF o 0#4) = some (o.toNat, false) := fb?_modF o false
@[simp] theorem fb?_modF1 (o : BitVec 4) : fb? (modF o 1#4) = some (o.toNat, true) := fb?_modF o true

end Sys2Proof
end

