-- ==== Sys2Proof/Laws/Tbl.lean ====
section
/-! SUPPORT. Laws of sparse tables: a read after a write, and the canonical form. -/

namespace Sys2Proof.Machine

variable {α : Type}

@[simp] theorem Tbl.get?_nil (k : Nat) : Tbl.get? ([] : Tbl α) k = none := rfl

@[simp] theorem Tbl.get?_cons (j : Nat) (v : α) (t : Tbl α) (k : Nat) :
    Tbl.get? ((j, v) :: t) k = if j = k then some v else Tbl.get? t k := rfl

/-- A key below the bound of a rising table is not listed. -/
theorem Tbl.get?_of_lt {b k : Nat} {t : Tbl α} (h : Tbl.risingFrom b t = true) (hk : k < b) : Tbl.get? t k = none := by
  induction t generalizing b with
  | nil => rfl
  | cons p t ih =>
    obtain ⟨j, v⟩ := p
    simp only [Tbl.risingFrom, Bool.and_eq_true, decide_eq_true_eq] at h
    rw [Tbl.get?_cons, if_neg (by omega), ih h.2 (by omega)]

/-- The entry that has been set is read. -/
@[simp] theorem Tbl.get?_set_self (t : Tbl α) (k : Nat) (v : α) : Tbl.get? (Tbl.set t k v) k = some v := by
  induction t with
  | nil => simp [Tbl.set]
  | cons p t ih =>
    obtain ⟨j, w⟩ := p
    simp only [Tbl.set]
    split
    · simp
    · split
      · simp
      · simp_all

/-- A set leaves every other entry. -/
theorem Tbl.get?_set_ne (t : Tbl α) {k k' : Nat} (v : α) (h : k ≠ k') : Tbl.get? (Tbl.set t k v) k' = Tbl.get? t k' := by
  induction t with
  | nil => simp [Tbl.set, h]
  | cons p t ih =>
    obtain ⟨j, w⟩ := p
    simp only [Tbl.set]
    split
    · simp [h]
    · split
      · next hj => subst hj; simp [h]
      · simp [ih]

/-- A change of an entry that is listed, or not. -/
@[simp] theorem Tbl.get?_modify_self (t : Tbl α) (k : Nat) (f : α → α) : Tbl.get? (Tbl.modify t k f) k = (Tbl.get? t k).map f := by
  unfold Tbl.modify
  cases h : Tbl.get? t k <;> simp [h]

/-- A change leaves every other entry. -/
theorem Tbl.get?_modify_ne (t : Tbl α) {k k' : Nat} (f : α → α) (h : k ≠ k') :
    Tbl.get? (Tbl.modify t k f) k' = Tbl.get? t k' := by
  unfold Tbl.modify
  cases Tbl.get? t k with
  | none => rfl
  | some v => exact Tbl.get?_set_ne t (f v) h

/-- An erased entry is not listed. -/
@[simp] theorem Tbl.get?_erase_self (t : Tbl α) (k : Nat) : Tbl.get? (Tbl.erase t k) k = none := by
  induction t with
  | nil => rfl
  | cons p t ih =>
    obtain ⟨j, w⟩ := p
    simp only [Tbl.erase]
    split
    · exact ih
    · next hj => simp [hj, ih]

/-- An erase leaves every other entry. -/
theorem Tbl.get?_erase_ne (t : Tbl α) {k k' : Nat} (h : k ≠ k') : Tbl.get? (Tbl.erase t k) k' = Tbl.get? t k' := by
  induction t with
  | nil => rfl
  | cons p t ih =>
    obtain ⟨j, w⟩ := p
    simp only [Tbl.erase]
    split
    · next hj => subst hj; simp [ih, h]
    · simp [ih]

/-- The value that has been written is read. -/
@[simp] theorem Tbl.getD_write_self [DecidableEq α] (d : α) (t : Tbl α) (k : Nat) (v : α) : Tbl.getD (Tbl.write d t k v) k d = v := by
  unfold Tbl.write Tbl.getD
  split
  · next h => simp [h]
  · simp

/-- A write leaves every other value. -/
theorem Tbl.getD_write_ne [DecidableEq α] (d : α) (t : Tbl α) {k k' : Nat} (v e : α) (h : k ≠ k') :
    Tbl.getD (Tbl.write d t k v) k' e = Tbl.getD t k' e := by
  unfold Tbl.write Tbl.getD
  split
  · rw [Tbl.get?_erase_ne t h]
  · rw [Tbl.get?_set_ne t v h]

theorem Tbl.risingFrom_mono {b c : Nat} {t : Tbl α} (h : Tbl.risingFrom c t = true) (hb : b ≤ c) : Tbl.risingFrom b t = true := by
  cases t with
  | nil => rfl
  | cons p t =>
    obtain ⟨j, w⟩ := p
    simp only [Tbl.risingFrom, Bool.and_eq_true, decide_eq_true_eq] at h ⊢
    exact ⟨by omega, h.2⟩

theorem Tbl.risingFrom_set {b k : Nat} {t : Tbl α} (v : α) (h : Tbl.risingFrom b t = true) (hb : b ≤ k) :
    Tbl.risingFrom b (Tbl.set t k v) = true := by
  induction t generalizing b with
  | nil => simp [Tbl.set, Tbl.risingFrom, hb]
  | cons p t ih =>
    obtain ⟨j, w⟩ := p
    simp only [Tbl.risingFrom, Bool.and_eq_true, decide_eq_true_eq] at h
    simp only [Tbl.set]
    split
    · simp only [Tbl.risingFrom, Bool.and_eq_true, decide_eq_true_eq]
      exact ⟨hb, by omega, h.2⟩
    · split
      · next hj => subst hj; simpa [Tbl.risingFrom, hb] using h.2
      · simp only [Tbl.risingFrom, Bool.and_eq_true, decide_eq_true_eq]
        exact ⟨h.1, ih h.2 (by omega)⟩

theorem Tbl.risingFrom_erase {b : Nat} (k : Nat) {t : Tbl α} (h : Tbl.risingFrom b t = true) :
    Tbl.risingFrom b (Tbl.erase t k) = true := by
  induction t generalizing b with
  | nil => rfl
  | cons p t ih =>
    obtain ⟨j, w⟩ := p
    simp only [Tbl.risingFrom, Bool.and_eq_true, decide_eq_true_eq] at h
    simp only [Tbl.erase]
    split
    · exact Tbl.risingFrom_mono (ih h.2) (by omega)
    · simp only [Tbl.risingFrom, Bool.and_eq_true, decide_eq_true_eq]
      exact ⟨h.1, ih h.2⟩

theorem Tbl.all_set {p : Nat × α → Bool} {k : Nat} {v : α} {t : Tbl α} (h : t.all p = true) (hv : p (k, v) = true) :
    (Tbl.set t k v).all p = true := by
  induction t with
  | nil => simp [Tbl.set, hv]
  | cons q t ih =>
    obtain ⟨j, w⟩ := q
    simp only [List.all_cons, Bool.and_eq_true] at h
    simp only [Tbl.set]
    split
    · simp [hv, h]
    · split
      · simp [hv, h.2]
      · simp [h.1, ih h.2]

theorem Tbl.all_erase {p : Nat × α → Bool} (k : Nat) {t : Tbl α} (h : t.all p = true) : (Tbl.erase t k).all p = true := by
  induction t with
  | nil => rfl
  | cons q t ih =>
    obtain ⟨j, w⟩ := q
    simp only [List.all_cons, Bool.and_eq_true] at h
    simp only [Tbl.erase]
    split
    · exact ih h.2
    · simp [h.1, ih h.2]

/-- A write keeps the canonical form. -/
theorem Tbl.canon_write [DecidableEq α] {d : α} {t : Tbl α} (k : Nat) (v : α) (h : Tbl.canon d t = true) :
    Tbl.canon d (Tbl.write d t k v) = true := by
  simp only [Tbl.canon, Bool.and_eq_true] at h ⊢
  unfold Tbl.write
  split
  · exact ⟨Tbl.risingFrom_erase k h.1, Tbl.all_erase k h.2⟩
  · next hv => exact ⟨Tbl.risingFrom_set v h.1 (Nat.zero_le k), Tbl.all_set h.2 (by simpa using hv)⟩

end Sys2Proof.Machine
end

