-- ==== Sys2Proof/Laws/State.lean ====
section
/-! SUPPORT. What each primitive update of the state leaves, field by field, and what it sets. -/

namespace Sys2Proof.Machine

variable (s : State)

/-! ### setCrew -/

@[simp] theorem State.setCrew_power (rid : Nat) (f : Crew → Crew) : (s.setCrew rid f).power = s.power := rfl
@[simp] theorem State.setCrew_clock (rid : Nat) (f : Crew → Crew) : (s.setCrew rid f).clock = s.clock := rfl
@[simp] theorem State.setCrew_order (rid : Nat) (f : Crew → Crew) : (s.setCrew rid f).order = s.order := rfl
@[simp] theorem State.setCrew_mem (rid : Nat) (f : Crew → Crew) : (s.setCrew rid f).mem = s.mem := rfl
@[simp] theorem State.setCrew_poisoned (rid : Nat) (f : Crew → Crew) : (s.setCrew rid f).poisoned = s.poisoned := rfl
@[simp] theorem State.setCrew_told (rid : Nat) (f : Crew → Crew) : (s.setCrew rid f).told = s.told := rfl
@[simp] theorem State.setCrew_sys (rid : Nat) (f : Crew → Crew) : (s.setCrew rid f).sys = s.sys := rfl
@[simp] theorem State.setCrew_regionTab (rid : Nat) (f : Crew → Crew) : (s.setCrew rid f).regionTab = s.regionTab := rfl
@[simp] theorem State.setCrew_ctxCfg (rid : Nat) (f : Crew → Crew) : (s.setCrew rid f).ctxCfg = s.ctxCfg := rfl
@[simp] theorem State.setCrew_queueCfg (rid : Nat) (f : Crew → Crew) : (s.setCrew rid f).queueCfg = s.queueCfg := rfl
@[simp] theorem State.setCrew_logs (rid : Nat) (f : Crew → Crew) : (s.setCrew rid f).logs = s.logs := rfl
@[simp] theorem State.setCrew_suspending (rid : Nat) (f : Crew → Crew) : (s.setCrew rid f).suspending = s.suspending := rfl
@[simp] theorem State.setCrew_kernels (rid : Nat) (f : Crew → Crew) : (s.setCrew rid f).kernels = s.kernels := rfl
@[simp] theorem State.setCrew_bays (rid : Nat) (f : Crew → Crew) : (s.setCrew rid f).bays = s.bays := rfl
@[simp] theorem State.setCrew_reds (rid : Nat) (f : Crew → Crew) : (s.setCrew rid f).reds = s.reds := rfl
@[simp] theorem State.setCrew_mmaFlags (rid : Nat) (f : Crew → Crew) : (s.setCrew rid f).mmaFlags = s.mmaFlags := rfl
@[simp] theorem State.setCrew_cmds (rid : Nat) (f : Crew → Crew) : (s.setCrew rid f).cmds = s.cmds := rfl
@[simp] theorem State.setCrew_regns (rid : Nat) (f : Crew → Crew) : (s.setCrew rid f).regns = s.regns := rfl
@[simp] theorem State.setCrew_fq (rid : Nat) (f : Crew → Crew) : (s.setCrew rid f).fq = s.fq := rfl
@[simp] theorem State.setCrew_fqWait (rid : Nat) (f : Crew → Crew) : (s.setCrew rid f).fqWait = s.fqWait := rfl
@[simp] theorem State.setCrew_pins (rid : Nat) (f : Crew → Crew) : (s.setCrew rid f).pins = s.pins := rfl
@[simp] theorem State.setCrew_peers (rid : Nat) (f : Crew → Crew) : (s.setCrew rid f).peers = s.peers := rfl
@[simp] theorem State.setCrew_peersIn (rid : Nat) (f : Crew → Crew) : (s.setCrew rid f).peersIn = s.peersIn := rfl
@[simp] theorem State.setCrew_replies (rid : Nat) (f : Crew → Crew) : (s.setCrew rid f).replies = s.replies := rfl
@[simp] theorem State.setCrew_peersSeen (rid : Nat) (f : Crew → Crew) : (s.setCrew rid f).peersSeen = s.peersSeen := rfl
@[simp] theorem State.setCrew_heldBars (rid : Nat) (f : Crew → Crew) : (s.setCrew rid f).heldBars = s.heldBars := rfl
@[simp] theorem State.setCrew_reach (rid : Nat) (f : Crew → Crew) : (s.setCrew rid f).reach = s.reach := rfl
@[simp] theorem State.setCrew_kvFree (rid : Nat) (f : Crew → Crew) : (s.setCrew rid f).kvFree = s.kvFree := rfl
@[simp] theorem State.setCrew_gov (rid : Nat) (f : Crew → Crew) : (s.setCrew rid f).gov = s.gov := rfl
@[simp] theorem State.setCrew_answers (rid : Nat) (f : Crew → Crew) : (s.setCrew rid f).answers = s.answers := rfl
@[simp] theorem State.setCrew_host (rid : Nat) (f : Crew → Crew) : (s.setCrew rid f).host = s.host := rfl
@[simp] theorem State.setCrew_mac (rid : Nat) (f : Crew → Crew) : (s.setCrew rid f).mac = s.mac := rfl
@[simp] theorem State.setCrew_hostMac (rid : Nat) (f : Crew → Crew) : (s.setCrew rid f).hostMac = s.hostMac := rfl
@[simp] theorem State.setCrew_casts (rid : Nat) (f : Crew → Crew) : (s.setCrew rid f).casts = s.casts := rfl
@[simp] theorem State.setCrew_cmpOld (rid : Nat) (f : Crew → Crew) : (s.setCrew rid f).cmpOld = s.cmpOld := rfl
@[simp] theorem State.setCrew_declared (rid : Nat) (f : Crew → Crew) : (s.setCrew rid f).declared = s.declared := rfl
@[simp] theorem State.setCrew_watts (rid : Nat) (f : Crew → Crew) : (s.setCrew rid f).watts = s.watts := rfl
@[simp] theorem State.setCrew_temp0 (rid : Nat) (f : Crew → Crew) : (s.setCrew rid f).temp0 = s.temp0 := rfl
@[simp] theorem State.setCrew_temp1 (rid : Nat) (f : Crew → Crew) : (s.setCrew rid f).temp1 = s.temp1 := rfl
@[simp] theorem State.setCrew_coolant (rid : Nat) (f : Crew → Crew) : (s.setCrew rid f).coolant = s.coolant := rfl
@[simp] theorem State.setCrew_portTimes (rid : Nat) (f : Crew → Crew) : (s.setCrew rid f).portTimes = s.portTimes := rfl
@[simp] theorem State.setCrew_fresh (rid : Nat) (f : Crew → Crew) : (s.setCrew rid f).fresh = s.fresh := rfl
@[simp] theorem State.setCrew_serial (rid : Nat) (f : Crew → Crew) : (s.setCrew rid f).serial = s.serial := rfl
@[simp] theorem State.setCrew_agenda (rid : Nat) (f : Crew → Crew) : (s.setCrew rid f).agenda = s.agenda := rfl
@[simp] theorem State.setCrew_place (rid : Nat) (f : Crew → Crew) : (s.setCrew rid f).place = s.place := rfl

/-! ### setKern -/

@[simp] theorem State.setKern_power (k : Nat) (f : Kernel → Kernel) : (s.setKern k f).power = s.power := rfl
@[simp] theorem State.setKern_clock (k : Nat) (f : Kernel → Kernel) : (s.setKern k f).clock = s.clock := rfl
@[simp] theorem State.setKern_order (k : Nat) (f : Kernel → Kernel) : (s.setKern k f).order = s.order := rfl
@[simp] theorem State.setKern_mem (k : Nat) (f : Kernel → Kernel) : (s.setKern k f).mem = s.mem := rfl
@[simp] theorem State.setKern_poisoned (k : Nat) (f : Kernel → Kernel) : (s.setKern k f).poisoned = s.poisoned := rfl
@[simp] theorem State.setKern_told (k : Nat) (f : Kernel → Kernel) : (s.setKern k f).told = s.told := rfl
@[simp] theorem State.setKern_sys (k : Nat) (f : Kernel → Kernel) : (s.setKern k f).sys = s.sys := rfl
@[simp] theorem State.setKern_regionTab (k : Nat) (f : Kernel → Kernel) : (s.setKern k f).regionTab = s.regionTab := rfl
@[simp] theorem State.setKern_ctxCfg (k : Nat) (f : Kernel → Kernel) : (s.setKern k f).ctxCfg = s.ctxCfg := rfl
@[simp] theorem State.setKern_queueCfg (k : Nat) (f : Kernel → Kernel) : (s.setKern k f).queueCfg = s.queueCfg := rfl
@[simp] theorem State.setKern_logs (k : Nat) (f : Kernel → Kernel) : (s.setKern k f).logs = s.logs := rfl
@[simp] theorem State.setKern_suspending (k : Nat) (f : Kernel → Kernel) : (s.setKern k f).suspending = s.suspending := rfl
@[simp] theorem State.setKern_bays (k : Nat) (f : Kernel → Kernel) : (s.setKern k f).bays = s.bays := rfl
@[simp] theorem State.setKern_crews (k : Nat) (f : Kernel → Kernel) : (s.setKern k f).crews = s.crews := rfl
@[simp] theorem State.setKern_reds (k : Nat) (f : Kernel → Kernel) : (s.setKern k f).reds = s.reds := rfl
@[simp] theorem State.setKern_mmaFlags (k : Nat) (f : Kernel → Kernel) : (s.setKern k f).mmaFlags = s.mmaFlags := rfl
@[simp] theorem State.setKern_cmds (k : Nat) (f : Kernel → Kernel) : (s.setKern k f).cmds = s.cmds := rfl
@[simp] theorem State.setKern_regns (k : Nat) (f : Kernel → Kernel) : (s.setKern k f).regns = s.regns := rfl
@[simp] theorem State.setKern_fq (k : Nat) (f : Kernel → Kernel) : (s.setKern k f).fq = s.fq := rfl
@[simp] theorem State.setKern_fqWait (k : Nat) (f : Kernel → Kernel) : (s.setKern k f).fqWait = s.fqWait := rfl
@[simp] theorem State.setKern_pins (k : Nat) (f : Kernel → Kernel) : (s.setKern k f).pins = s.pins := rfl
@[simp] theorem State.setKern_peers (k : Nat) (f : Kernel → Kernel) : (s.setKern k f).peers = s.peers := rfl
@[simp] theorem State.setKern_peersIn (k : Nat) (f : Kernel → Kernel) : (s.setKern k f).peersIn = s.peersIn := rfl
@[simp] theorem State.setKern_replies (k : Nat) (f : Kernel → Kernel) : (s.setKern k f).replies = s.replies := rfl
@[simp] theorem State.setKern_peersSeen (k : Nat) (f : Kernel → Kernel) : (s.setKern k f).peersSeen = s.peersSeen := rfl
@[simp] theorem State.setKern_heldBars (k : Nat) (f : Kernel → Kernel) : (s.setKern k f).heldBars = s.heldBars := rfl
@[simp] theorem State.setKern_reach (k : Nat) (f : Kernel → Kernel) : (s.setKern k f).reach = s.reach := rfl
@[simp] theorem State.setKern_kvFree (k : Nat) (f : Kernel → Kernel) : (s.setKern k f).kvFree = s.kvFree := rfl
@[simp] theorem State.setKern_gov (k : Nat) (f : Kernel → Kernel) : (s.setKern k f).gov = s.gov := rfl
@[simp] theorem State.setKern_answers (k : Nat) (f : Kernel → Kernel) : (s.setKern k f).answers = s.answers := rfl
@[simp] theorem State.setKern_host (k : Nat) (f : Kernel → Kernel) : (s.setKern k f).host = s.host := rfl
@[simp] theorem State.setKern_mac (k : Nat) (f : Kernel → Kernel) : (s.setKern k f).mac = s.mac := rfl
@[simp] theorem State.setKern_hostMac (k : Nat) (f : Kernel → Kernel) : (s.setKern k f).hostMac = s.hostMac := rfl
@[simp] theorem State.setKern_casts (k : Nat) (f : Kernel → Kernel) : (s.setKern k f).casts = s.casts := rfl
@[simp] theorem State.setKern_cmpOld (k : Nat) (f : Kernel → Kernel) : (s.setKern k f).cmpOld = s.cmpOld := rfl
@[simp] theorem State.setKern_declared (k : Nat) (f : Kernel → Kernel) : (s.setKern k f).declared = s.declared := rfl
@[simp] theorem State.setKern_watts (k : Nat) (f : Kernel → Kernel) : (s.setKern k f).watts = s.watts := rfl
@[simp] theorem State.setKern_temp0 (k : Nat) (f : Kernel → Kernel) : (s.setKern k f).temp0 = s.temp0 := rfl
@[simp] theorem State.setKern_temp1 (k : Nat) (f : Kernel → Kernel) : (s.setKern k f).temp1 = s.temp1 := rfl
@[simp] theorem State.setKern_coolant (k : Nat) (f : Kernel → Kernel) : (s.setKern k f).coolant = s.coolant := rfl
@[simp] theorem State.setKern_portTimes (k : Nat) (f : Kernel → Kernel) : (s.setKern k f).portTimes = s.portTimes := rfl
@[simp] theorem State.setKern_fresh (k : Nat) (f : Kernel → Kernel) : (s.setKern k f).fresh = s.fresh := rfl
@[simp] theorem State.setKern_serial (k : Nat) (f : Kernel → Kernel) : (s.setKern k f).serial = s.serial := rfl
@[simp] theorem State.setKern_agenda (k : Nat) (f : Kernel → Kernel) : (s.setKern k f).agenda = s.agenda := rfl
@[simp] theorem State.setKern_place (k : Nat) (f : Kernel → Kernel) : (s.setKern k f).place = s.place := rfl

/-! ### setBay -/

@[simp] theorem State.setBay_power (b : Nat) (f : Bay → Bay) : (s.setBay b f).power = s.power := rfl
@[simp] theorem State.setBay_clock (b : Nat) (f : Bay → Bay) : (s.setBay b f).clock = s.clock := rfl
@[simp] theorem State.setBay_order (b : Nat) (f : Bay → Bay) : (s.setBay b f).order = s.order := rfl
@[simp] theorem State.setBay_mem (b : Nat) (f : Bay → Bay) : (s.setBay b f).mem = s.mem := rfl
@[simp] theorem State.setBay_poisoned (b : Nat) (f : Bay → Bay) : (s.setBay b f).poisoned = s.poisoned := rfl
@[simp] theorem State.setBay_told (b : Nat) (f : Bay → Bay) : (s.setBay b f).told = s.told := rfl
@[simp] theorem State.setBay_sys (b : Nat) (f : Bay → Bay) : (s.setBay b f).sys = s.sys := rfl
@[simp] theorem State.setBay_regionTab (b : Nat) (f : Bay → Bay) : (s.setBay b f).regionTab = s.regionTab := rfl
@[simp] theorem State.setBay_ctxCfg (b : Nat) (f : Bay → Bay) : (s.setBay b f).ctxCfg = s.ctxCfg := rfl
@[simp] theorem State.setBay_queueCfg (b : Nat) (f : Bay → Bay) : (s.setBay b f).queueCfg = s.queueCfg := rfl
@[simp] theorem State.setBay_logs (b : Nat) (f : Bay → Bay) : (s.setBay b f).logs = s.logs := rfl
@[simp] theorem State.setBay_suspending (b : Nat) (f : Bay → Bay) : (s.setBay b f).suspending = s.suspending := rfl
@[simp] theorem State.setBay_kernels (b : Nat) (f : Bay → Bay) : (s.setBay b f).kernels = s.kernels := rfl
@[simp] theorem State.setBay_crews (b : Nat) (f : Bay → Bay) : (s.setBay b f).crews = s.crews := rfl
@[simp] theorem State.setBay_reds (b : Nat) (f : Bay → Bay) : (s.setBay b f).reds = s.reds := rfl
@[simp] theorem State.setBay_mmaFlags (b : Nat) (f : Bay → Bay) : (s.setBay b f).mmaFlags = s.mmaFlags := rfl
@[simp] theorem State.setBay_cmds (b : Nat) (f : Bay → Bay) : (s.setBay b f).cmds = s.cmds := rfl
@[simp] theorem State.setBay_regns (b : Nat) (f : Bay → Bay) : (s.setBay b f).regns = s.regns := rfl
@[simp] theorem State.setBay_fq (b : Nat) (f : Bay → Bay) : (s.setBay b f).fq = s.fq := rfl
@[simp] theorem State.setBay_fqWait (b : Nat) (f : Bay → Bay) : (s.setBay b f).fqWait = s.fqWait := rfl
@[simp] theorem State.setBay_pins (b : Nat) (f : Bay → Bay) : (s.setBay b f).pins = s.pins := rfl
@[simp] theorem State.setBay_peers (b : Nat) (f : Bay → Bay) : (s.setBay b f).peers = s.peers := rfl
@[simp] theorem State.setBay_peersIn (b : Nat) (f : Bay → Bay) : (s.setBay b f).peersIn = s.peersIn := rfl
@[simp] theorem State.setBay_replies (b : Nat) (f : Bay → Bay) : (s.setBay b f).replies = s.replies := rfl
@[simp] theorem State.setBay_peersSeen (b : Nat) (f : Bay → Bay) : (s.setBay b f).peersSeen = s.peersSeen := rfl
@[simp] theorem State.setBay_heldBars (b : Nat) (f : Bay → Bay) : (s.setBay b f).heldBars = s.heldBars := rfl
@[simp] theorem State.setBay_reach (b : Nat) (f : Bay → Bay) : (s.setBay b f).reach = s.reach := rfl
@[simp] theorem State.setBay_kvFree (b : Nat) (f : Bay → Bay) : (s.setBay b f).kvFree = s.kvFree := rfl
@[simp] theorem State.setBay_gov (b : Nat) (f : Bay → Bay) : (s.setBay b f).gov = s.gov := rfl
@[simp] theorem State.setBay_answers (b : Nat) (f : Bay → Bay) : (s.setBay b f).answers = s.answers := rfl
@[simp] theorem State.setBay_host (b : Nat) (f : Bay → Bay) : (s.setBay b f).host = s.host := rfl
@[simp] theorem State.setBay_mac (b : Nat) (f : Bay → Bay) : (s.setBay b f).mac = s.mac := rfl
@[simp] theorem State.setBay_hostMac (b : Nat) (f : Bay → Bay) : (s.setBay b f).hostMac = s.hostMac := rfl
@[simp] theorem State.setBay_casts (b : Nat) (f : Bay → Bay) : (s.setBay b f).casts = s.casts := rfl
@[simp] theorem State.setBay_cmpOld (b : Nat) (f : Bay → Bay) : (s.setBay b f).cmpOld = s.cmpOld := rfl
@[simp] theorem State.setBay_declared (b : Nat) (f : Bay → Bay) : (s.setBay b f).declared = s.declared := rfl
@[simp] theorem State.setBay_watts (b : Nat) (f : Bay → Bay) : (s.setBay b f).watts = s.watts := rfl
@[simp] theorem State.setBay_temp0 (b : Nat) (f : Bay → Bay) : (s.setBay b f).temp0 = s.temp0 := rfl
@[simp] theorem State.setBay_temp1 (b : Nat) (f : Bay → Bay) : (s.setBay b f).temp1 = s.temp1 := rfl
@[simp] theorem State.setBay_coolant (b : Nat) (f : Bay → Bay) : (s.setBay b f).coolant = s.coolant := rfl
@[simp] theorem State.setBay_portTimes (b : Nat) (f : Bay → Bay) : (s.setBay b f).portTimes = s.portTimes := rfl
@[simp] theorem State.setBay_fresh (b : Nat) (f : Bay → Bay) : (s.setBay b f).fresh = s.fresh := rfl
@[simp] theorem State.setBay_serial (b : Nat) (f : Bay → Bay) : (s.setBay b f).serial = s.serial := rfl
@[simp] theorem State.setBay_agenda (b : Nat) (f : Bay → Bay) : (s.setBay b f).agenda = s.agenda := rfl
@[simp] theorem State.setBay_place (b : Nat) (f : Bay → Bay) : (s.setBay b f).place = s.place := rfl

/-! ### setSide -/

@[simp] theorem State.setSide_power (b n : Nat) (f : Side → Side) : (s.setSide b n f).power = s.power := rfl
@[simp] theorem State.setSide_clock (b n : Nat) (f : Side → Side) : (s.setSide b n f).clock = s.clock := rfl
@[simp] theorem State.setSide_order (b n : Nat) (f : Side → Side) : (s.setSide b n f).order = s.order := rfl
@[simp] theorem State.setSide_mem (b n : Nat) (f : Side → Side) : (s.setSide b n f).mem = s.mem := rfl
@[simp] theorem State.setSide_poisoned (b n : Nat) (f : Side → Side) : (s.setSide b n f).poisoned = s.poisoned := rfl
@[simp] theorem State.setSide_told (b n : Nat) (f : Side → Side) : (s.setSide b n f).told = s.told := rfl
@[simp] theorem State.setSide_sys (b n : Nat) (f : Side → Side) : (s.setSide b n f).sys = s.sys := rfl
@[simp] theorem State.setSide_regionTab (b n : Nat) (f : Side → Side) : (s.setSide b n f).regionTab = s.regionTab := rfl
@[simp] theorem State.setSide_ctxCfg (b n : Nat) (f : Side → Side) : (s.setSide b n f).ctxCfg = s.ctxCfg := rfl
@[simp] theorem State.setSide_queueCfg (b n : Nat) (f : Side → Side) : (s.setSide b n f).queueCfg = s.queueCfg := rfl
@[simp] theorem State.setSide_logs (b n : Nat) (f : Side → Side) : (s.setSide b n f).logs = s.logs := rfl
@[simp] theorem State.setSide_suspending (b n : Nat) (f : Side → Side) : (s.setSide b n f).suspending = s.suspending := rfl
@[simp] theorem State.setSide_kernels (b n : Nat) (f : Side → Side) : (s.setSide b n f).kernels = s.kernels := rfl
@[simp] theorem State.setSide_crews (b n : Nat) (f : Side → Side) : (s.setSide b n f).crews = s.crews := rfl
@[simp] theorem State.setSide_reds (b n : Nat) (f : Side → Side) : (s.setSide b n f).reds = s.reds := rfl
@[simp] theorem State.setSide_mmaFlags (b n : Nat) (f : Side → Side) : (s.setSide b n f).mmaFlags = s.mmaFlags := rfl
@[simp] theorem State.setSide_cmds (b n : Nat) (f : Side → Side) : (s.setSide b n f).cmds = s.cmds := rfl
@[simp] theorem State.setSide_regns (b n : Nat) (f : Side → Side) : (s.setSide b n f).regns = s.regns := rfl
@[simp] theorem State.setSide_fq (b n : Nat) (f : Side → Side) : (s.setSide b n f).fq = s.fq := rfl
@[simp] theorem State.setSide_fqWait (b n : Nat) (f : Side → Side) : (s.setSide b n f).fqWait = s.fqWait := rfl
@[simp] theorem State.setSide_pins (b n : Nat) (f : Side → Side) : (s.setSide b n f).pins = s.pins := rfl
@[simp] theorem State.setSide_peers (b n : Nat) (f : Side → Side) : (s.setSide b n f).peers = s.peers := rfl
@[simp] theorem State.setSide_peersIn (b n : Nat) (f : Side → Side) : (s.setSide b n f).peersIn = s.peersIn := rfl
@[simp] theorem State.setSide_replies (b n : Nat) (f : Side → Side) : (s.setSide b n f).replies = s.replies := rfl
@[simp] theorem State.setSide_peersSeen (b n : Nat) (f : Side → Side) : (s.setSide b n f).peersSeen = s.peersSeen := rfl
@[simp] theorem State.setSide_heldBars (b n : Nat) (f : Side → Side) : (s.setSide b n f).heldBars = s.heldBars := rfl
@[simp] theorem State.setSide_reach (b n : Nat) (f : Side → Side) : (s.setSide b n f).reach = s.reach := rfl
@[simp] theorem State.setSide_kvFree (b n : Nat) (f : Side → Side) : (s.setSide b n f).kvFree = s.kvFree := rfl
@[simp] theorem State.setSide_gov (b n : Nat) (f : Side → Side) : (s.setSide b n f).gov = s.gov := rfl
@[simp] theorem State.setSide_answers (b n : Nat) (f : Side → Side) : (s.setSide b n f).answers = s.answers := rfl
@[simp] theorem State.setSide_host (b n : Nat) (f : Side → Side) : (s.setSide b n f).host = s.host := rfl
@[simp] theorem State.setSide_mac (b n : Nat) (f : Side → Side) : (s.setSide b n f).mac = s.mac := rfl
@[simp] theorem State.setSide_hostMac (b n : Nat) (f : Side → Side) : (s.setSide b n f).hostMac = s.hostMac := rfl
@[simp] theorem State.setSide_casts (b n : Nat) (f : Side → Side) : (s.setSide b n f).casts = s.casts := rfl
@[simp] theorem State.setSide_cmpOld (b n : Nat) (f : Side → Side) : (s.setSide b n f).cmpOld = s.cmpOld := rfl
@[simp] theorem State.setSide_declared (b n : Nat) (f : Side → Side) : (s.setSide b n f).declared = s.declared := rfl
@[simp] theorem State.setSide_watts (b n : Nat) (f : Side → Side) : (s.setSide b n f).watts = s.watts := rfl
@[simp] theorem State.setSide_temp0 (b n : Nat) (f : Side → Side) : (s.setSide b n f).temp0 = s.temp0 := rfl
@[simp] theorem State.setSide_temp1 (b n : Nat) (f : Side → Side) : (s.setSide b n f).temp1 = s.temp1 := rfl
@[simp] theorem State.setSide_coolant (b n : Nat) (f : Side → Side) : (s.setSide b n f).coolant = s.coolant := rfl
@[simp] theorem State.setSide_portTimes (b n : Nat) (f : Side → Side) : (s.setSide b n f).portTimes = s.portTimes := rfl
@[simp] theorem State.setSide_fresh (b n : Nat) (f : Side → Side) : (s.setSide b n f).fresh = s.fresh := rfl
@[simp] theorem State.setSide_serial (b n : Nat) (f : Side → Side) : (s.setSide b n f).serial = s.serial := rfl
@[simp] theorem State.setSide_agenda (b n : Nat) (f : Side → Side) : (s.setSide b n f).agenda = s.agenda := rfl
@[simp] theorem State.setSide_place (b n : Nat) (f : Side → Side) : (s.setSide b n f).place = s.place := rfl

/-! ### setRcd -/

@[simp] theorem State.setRcd_power (t : SysTab) (n v : Nat) : (s.setRcd t n v).power = s.power := rfl
@[simp] theorem State.setRcd_clock (t : SysTab) (n v : Nat) : (s.setRcd t n v).clock = s.clock := rfl
@[simp] theorem State.setRcd_order (t : SysTab) (n v : Nat) : (s.setRcd t n v).order = s.order := rfl
@[simp] theorem State.setRcd_mem (t : SysTab) (n v : Nat) : (s.setRcd t n v).mem = s.mem := rfl
@[simp] theorem State.setRcd_poisoned (t : SysTab) (n v : Nat) : (s.setRcd t n v).poisoned = s.poisoned := rfl
@[simp] theorem State.setRcd_told (t : SysTab) (n v : Nat) : (s.setRcd t n v).told = s.told := rfl
@[simp] theorem State.setRcd_regionTab (t : SysTab) (n v : Nat) : (s.setRcd t n v).regionTab = s.regionTab := rfl
@[simp] theorem State.setRcd_ctxCfg (t : SysTab) (n v : Nat) : (s.setRcd t n v).ctxCfg = s.ctxCfg := rfl
@[simp] theorem State.setRcd_queueCfg (t : SysTab) (n v : Nat) : (s.setRcd t n v).queueCfg = s.queueCfg := rfl
@[simp] theorem State.setRcd_logs (t : SysTab) (n v : Nat) : (s.setRcd t n v).logs = s.logs := rfl
@[simp] theorem State.setRcd_suspending (t : SysTab) (n v : Nat) : (s.setRcd t n v).suspending = s.suspending := rfl
@[simp] theorem State.setRcd_kernels (t : SysTab) (n v : Nat) : (s.setRcd t n v).kernels = s.kernels := rfl
@[simp] theorem State.setRcd_bays (t : SysTab) (n v : Nat) : (s.setRcd t n v).bays = s.bays := rfl
@[simp] theorem State.setRcd_crews (t : SysTab) (n v : Nat) : (s.setRcd t n v).crews = s.crews := rfl
@[simp] theorem State.setRcd_reds (t : SysTab) (n v : Nat) : (s.setRcd t n v).reds = s.reds := rfl
@[simp] theorem State.setRcd_mmaFlags (t : SysTab) (n v : Nat) : (s.setRcd t n v).mmaFlags = s.mmaFlags := rfl
@[simp] theorem State.setRcd_cmds (t : SysTab) (n v : Nat) : (s.setRcd t n v).cmds = s.cmds := rfl
@[simp] theorem State.setRcd_regns (t : SysTab) (n v : Nat) : (s.setRcd t n v).regns = s.regns := rfl
@[simp] theorem State.setRcd_fq (t : SysTab) (n v : Nat) : (s.setRcd t n v).fq = s.fq := rfl
@[simp] theorem State.setRcd_fqWait (t : SysTab) (n v : Nat) : (s.setRcd t n v).fqWait = s.fqWait := rfl
@[simp] theorem State.setRcd_pins (t : SysTab) (n v : Nat) : (s.setRcd t n v).pins = s.pins := rfl
@[simp] theorem State.setRcd_peers (t : SysTab) (n v : Nat) : (s.setRcd t n v).peers = s.peers := rfl
@[simp] theorem State.setRcd_peersIn (t : SysTab) (n v : Nat) : (s.setRcd t n v).peersIn = s.peersIn := rfl
@[simp] theorem State.setRcd_replies (t : SysTab) (n v : Nat) : (s.setRcd t n v).replies = s.replies := rfl
@[simp] theorem State.setRcd_peersSeen (t : SysTab) (n v : Nat) : (s.setRcd t n v).peersSeen = s.peersSeen := rfl
@[simp] theorem State.setRcd_heldBars (t : SysTab) (n v : Nat) : (s.setRcd t n v).heldBars = s.heldBars := rfl
@[simp] theorem State.setRcd_reach (t : SysTab) (n v : Nat) : (s.setRcd t n v).reach = s.reach := rfl
@[simp] theorem State.setRcd_kvFree (t : SysTab) (n v : Nat) : (s.setRcd t n v).kvFree = s.kvFree := rfl
@[simp] theorem State.setRcd_gov (t : SysTab) (n v : Nat) : (s.setRcd t n v).gov = s.gov := rfl
@[simp] theorem State.setRcd_answers (t : SysTab) (n v : Nat) : (s.setRcd t n v).answers = s.answers := rfl
@[simp] theorem State.setRcd_host (t : SysTab) (n v : Nat) : (s.setRcd t n v).host = s.host := rfl
@[simp] theorem State.setRcd_mac (t : SysTab) (n v : Nat) : (s.setRcd t n v).mac = s.mac := rfl
@[simp] theorem State.setRcd_hostMac (t : SysTab) (n v : Nat) : (s.setRcd t n v).hostMac = s.hostMac := rfl
@[simp] theorem State.setRcd_casts (t : SysTab) (n v : Nat) : (s.setRcd t n v).casts = s.casts := rfl
@[simp] theorem State.setRcd_cmpOld (t : SysTab) (n v : Nat) : (s.setRcd t n v).cmpOld = s.cmpOld := rfl
@[simp] theorem State.setRcd_declared (t : SysTab) (n v : Nat) : (s.setRcd t n v).declared = s.declared := rfl
@[simp] theorem State.setRcd_watts (t : SysTab) (n v : Nat) : (s.setRcd t n v).watts = s.watts := rfl
@[simp] theorem State.setRcd_temp0 (t : SysTab) (n v : Nat) : (s.setRcd t n v).temp0 = s.temp0 := rfl
@[simp] theorem State.setRcd_temp1 (t : SysTab) (n v : Nat) : (s.setRcd t n v).temp1 = s.temp1 := rfl
@[simp] theorem State.setRcd_coolant (t : SysTab) (n v : Nat) : (s.setRcd t n v).coolant = s.coolant := rfl
@[simp] theorem State.setRcd_portTimes (t : SysTab) (n v : Nat) : (s.setRcd t n v).portTimes = s.portTimes := rfl
@[simp] theorem State.setRcd_fresh (t : SysTab) (n v : Nat) : (s.setRcd t n v).fresh = s.fresh := rfl
@[simp] theorem State.setRcd_serial (t : SysTab) (n v : Nat) : (s.setRcd t n v).serial = s.serial := rfl
@[simp] theorem State.setRcd_agenda (t : SysTab) (n v : Nat) : (s.setRcd t n v).agenda = s.agenda := rfl
@[simp] theorem State.setRcd_place (t : SysTab) (n v : Nat) : (s.setRcd t n v).place = s.place := rfl

/-! ### setFld -/

@[simp] theorem State.setFld_power (t : SysTab) (n : Nat) (f : Fld) (v : Nat) : (s.setFld t n f v).power = s.power := rfl
@[simp] theorem State.setFld_clock (t : SysTab) (n : Nat) (f : Fld) (v : Nat) : (s.setFld t n f v).clock = s.clock := rfl
@[simp] theorem State.setFld_order (t : SysTab) (n : Nat) (f : Fld) (v : Nat) : (s.setFld t n f v).order = s.order := rfl
@[simp] theorem State.setFld_mem (t : SysTab) (n : Nat) (f : Fld) (v : Nat) : (s.setFld t n f v).mem = s.mem := rfl
@[simp] theorem State.setFld_poisoned (t : SysTab) (n : Nat) (f : Fld) (v : Nat) : (s.setFld t n f v).poisoned = s.poisoned := rfl
@[simp] theorem State.setFld_told (t : SysTab) (n : Nat) (f : Fld) (v : Nat) : (s.setFld t n f v).told = s.told := rfl
@[simp] theorem State.setFld_regionTab (t : SysTab) (n : Nat) (f : Fld) (v : Nat) : (s.setFld t n f v).regionTab = s.regionTab := rfl
@[simp] theorem State.setFld_ctxCfg (t : SysTab) (n : Nat) (f : Fld) (v : Nat) : (s.setFld t n f v).ctxCfg = s.ctxCfg := rfl
@[simp] theorem State.setFld_queueCfg (t : SysTab) (n : Nat) (f : Fld) (v : Nat) : (s.setFld t n f v).queueCfg = s.queueCfg := rfl
@[simp] theorem State.setFld_logs (t : SysTab) (n : Nat) (f : Fld) (v : Nat) : (s.setFld t n f v).logs = s.logs := rfl
@[simp] theorem State.setFld_suspending (t : SysTab) (n : Nat) (f : Fld) (v : Nat) : (s.setFld t n f v).suspending = s.suspending := rfl
@[simp] theorem State.setFld_kernels (t : SysTab) (n : Nat) (f : Fld) (v : Nat) : (s.setFld t n f v).kernels = s.kernels := rfl
@[simp] theorem State.setFld_bays (t : SysTab) (n : Nat) (f : Fld) (v : Nat) : (s.setFld t n f v).bays = s.bays := rfl
@[simp] theorem State.setFld_crews (t : SysTab) (n : Nat) (f : Fld) (v : Nat) : (s.setFld t n f v).crews = s.crews := rfl
@[simp] theorem State.setFld_reds (t : SysTab) (n : Nat) (f : Fld) (v : Nat) : (s.setFld t n f v).reds = s.reds := rfl
@[simp] theorem State.setFld_mmaFlags (t : SysTab) (n : Nat) (f : Fld) (v : Nat) : (s.setFld t n f v).mmaFlags = s.mmaFlags := rfl
@[simp] theorem State.setFld_cmds (t : SysTab) (n : Nat) (f : Fld) (v : Nat) : (s.setFld t n f v).cmds = s.cmds := rfl
@[simp] theorem State.setFld_regns (t : SysTab) (n : Nat) (f : Fld) (v : Nat) : (s.setFld t n f v).regns = s.regns := rfl
@[simp] theorem State.setFld_fq (t : SysTab) (n : Nat) (f : Fld) (v : Nat) : (s.setFld t n f v).fq = s.fq := rfl
@[simp] theorem State.setFld_fqWait (t : SysTab) (n : Nat) (f : Fld) (v : Nat) : (s.setFld t n f v).fqWait = s.fqWait := rfl
@[simp] theorem State.setFld_pins (t : SysTab) (n : Nat) (f : Fld) (v : Nat) : (s.setFld t n f v).pins = s.pins := rfl
@[simp] theorem State.setFld_peers (t : SysTab) (n : Nat) (f : Fld) (v : Nat) : (s.setFld t n f v).peers = s.peers := rfl
@[simp] theorem State.setFld_peersIn (t : SysTab) (n : Nat) (f : Fld) (v : Nat) : (s.setFld t n f v).peersIn = s.peersIn := rfl
@[simp] theorem State.setFld_replies (t : SysTab) (n : Nat) (f : Fld) (v : Nat) : (s.setFld t n f v).replies = s.replies := rfl
@[simp] theorem State.setFld_peersSeen (t : SysTab) (n : Nat) (f : Fld) (v : Nat) : (s.setFld t n f v).peersSeen = s.peersSeen := rfl
@[simp] theorem State.setFld_heldBars (t : SysTab) (n : Nat) (f : Fld) (v : Nat) : (s.setFld t n f v).heldBars = s.heldBars := rfl
@[simp] theorem State.setFld_reach (t : SysTab) (n : Nat) (f : Fld) (v : Nat) : (s.setFld t n f v).reach = s.reach := rfl
@[simp] theorem State.setFld_kvFree (t : SysTab) (n : Nat) (f : Fld) (v : Nat) : (s.setFld t n f v).kvFree = s.kvFree := rfl
@[simp] theorem State.setFld_gov (t : SysTab) (n : Nat) (f : Fld) (v : Nat) : (s.setFld t n f v).gov = s.gov := rfl
@[simp] theorem State.setFld_answers (t : SysTab) (n : Nat) (f : Fld) (v : Nat) : (s.setFld t n f v).answers = s.answers := rfl
@[simp] theorem State.setFld_host (t : SysTab) (n : Nat) (f : Fld) (v : Nat) : (s.setFld t n f v).host = s.host := rfl
@[simp] theorem State.setFld_mac (t : SysTab) (n : Nat) (f : Fld) (v : Nat) : (s.setFld t n f v).mac = s.mac := rfl
@[simp] theorem State.setFld_hostMac (t : SysTab) (n : Nat) (f : Fld) (v : Nat) : (s.setFld t n f v).hostMac = s.hostMac := rfl
@[simp] theorem State.setFld_casts (t : SysTab) (n : Nat) (f : Fld) (v : Nat) : (s.setFld t n f v).casts = s.casts := rfl
@[simp] theorem State.setFld_cmpOld (t : SysTab) (n : Nat) (f : Fld) (v : Nat) : (s.setFld t n f v).cmpOld = s.cmpOld := rfl
@[simp] theorem State.setFld_declared (t : SysTab) (n : Nat) (f : Fld) (v : Nat) : (s.setFld t n f v).declared = s.declared := rfl
@[simp] theorem State.setFld_watts (t : SysTab) (n : Nat) (f : Fld) (v : Nat) : (s.setFld t n f v).watts = s.watts := rfl
@[simp] theorem State.setFld_temp0 (t : SysTab) (n : Nat) (f : Fld) (v : Nat) : (s.setFld t n f v).temp0 = s.temp0 := rfl
@[simp] theorem State.setFld_temp1 (t : SysTab) (n : Nat) (f : Fld) (v : Nat) : (s.setFld t n f v).temp1 = s.temp1 := rfl
@[simp] theorem State.setFld_coolant (t : SysTab) (n : Nat) (f : Fld) (v : Nat) : (s.setFld t n f v).coolant = s.coolant := rfl
@[simp] theorem State.setFld_portTimes (t : SysTab) (n : Nat) (f : Fld) (v : Nat) : (s.setFld t n f v).portTimes = s.portTimes := rfl
@[simp] theorem State.setFld_fresh (t : SysTab) (n : Nat) (f : Fld) (v : Nat) : (s.setFld t n f v).fresh = s.fresh := rfl
@[simp] theorem State.setFld_serial (t : SysTab) (n : Nat) (f : Fld) (v : Nat) : (s.setFld t n f v).serial = s.serial := rfl
@[simp] theorem State.setFld_agenda (t : SysTab) (n : Nat) (f : Fld) (v : Nat) : (s.setFld t n f v).agenda = s.agenda := rfl
@[simp] theorem State.setFld_place (t : SysTab) (n : Nat) (f : Fld) (v : Nat) : (s.setFld t n f v).place = s.place := rfl

/-! ### post -/

@[simp] theorem State.post_power (p : Place) (i : Instr) : (s.post p i).power = s.power := rfl
@[simp] theorem State.post_clock (p : Place) (i : Instr) : (s.post p i).clock = s.clock := rfl
@[simp] theorem State.post_order (p : Place) (i : Instr) : (s.post p i).order = s.order := rfl
@[simp] theorem State.post_mem (p : Place) (i : Instr) : (s.post p i).mem = s.mem := rfl
@[simp] theorem State.post_poisoned (p : Place) (i : Instr) : (s.post p i).poisoned = s.poisoned := rfl
@[simp] theorem State.post_told (p : Place) (i : Instr) : (s.post p i).told = s.told := rfl
@[simp] theorem State.post_sys (p : Place) (i : Instr) : (s.post p i).sys = s.sys := rfl
@[simp] theorem State.post_regionTab (p : Place) (i : Instr) : (s.post p i).regionTab = s.regionTab := rfl
@[simp] theorem State.post_ctxCfg (p : Place) (i : Instr) : (s.post p i).ctxCfg = s.ctxCfg := rfl
@[simp] theorem State.post_queueCfg (p : Place) (i : Instr) : (s.post p i).queueCfg = s.queueCfg := rfl
@[simp] theorem State.post_logs (p : Place) (i : Instr) : (s.post p i).logs = s.logs := rfl
@[simp] theorem State.post_suspending (p : Place) (i : Instr) : (s.post p i).suspending = s.suspending := rfl
@[simp] theorem State.post_kernels (p : Place) (i : Instr) : (s.post p i).kernels = s.kernels := rfl
@[simp] theorem State.post_bays (p : Place) (i : Instr) : (s.post p i).bays = s.bays := rfl
@[simp] theorem State.post_crews (p : Place) (i : Instr) : (s.post p i).crews = s.crews := rfl
@[simp] theorem State.post_reds (p : Place) (i : Instr) : (s.post p i).reds = s.reds := rfl
@[simp] theorem State.post_mmaFlags (p : Place) (i : Instr) : (s.post p i).mmaFlags = s.mmaFlags := rfl
@[simp] theorem State.post_cmds (p : Place) (i : Instr) : (s.post p i).cmds = s.cmds := rfl
@[simp] theorem State.post_regns (p : Place) (i : Instr) : (s.post p i).regns = s.regns := rfl
@[simp] theorem State.post_fq (p : Place) (i : Instr) : (s.post p i).fq = s.fq := rfl
@[simp] theorem State.post_fqWait (p : Place) (i : Instr) : (s.post p i).fqWait = s.fqWait := rfl
@[simp] theorem State.post_pins (p : Place) (i : Instr) : (s.post p i).pins = s.pins := rfl
@[simp] theorem State.post_peers (p : Place) (i : Instr) : (s.post p i).peers = s.peers := rfl
@[simp] theorem State.post_peersIn (p : Place) (i : Instr) : (s.post p i).peersIn = s.peersIn := rfl
@[simp] theorem State.post_replies (p : Place) (i : Instr) : (s.post p i).replies = s.replies := rfl
@[simp] theorem State.post_peersSeen (p : Place) (i : Instr) : (s.post p i).peersSeen = s.peersSeen := rfl
@[simp] theorem State.post_heldBars (p : Place) (i : Instr) : (s.post p i).heldBars = s.heldBars := rfl
@[simp] theorem State.post_reach (p : Place) (i : Instr) : (s.post p i).reach = s.reach := rfl
@[simp] theorem State.post_kvFree (p : Place) (i : Instr) : (s.post p i).kvFree = s.kvFree := rfl
@[simp] theorem State.post_gov (p : Place) (i : Instr) : (s.post p i).gov = s.gov := rfl
@[simp] theorem State.post_answers (p : Place) (i : Instr) : (s.post p i).answers = s.answers := rfl
@[simp] theorem State.post_host (p : Place) (i : Instr) : (s.post p i).host = s.host := rfl
@[simp] theorem State.post_mac (p : Place) (i : Instr) : (s.post p i).mac = s.mac := rfl
@[simp] theorem State.post_hostMac (p : Place) (i : Instr) : (s.post p i).hostMac = s.hostMac := rfl
@[simp] theorem State.post_casts (p : Place) (i : Instr) : (s.post p i).casts = s.casts := rfl
@[simp] theorem State.post_cmpOld (p : Place) (i : Instr) : (s.post p i).cmpOld = s.cmpOld := rfl
@[simp] theorem State.post_declared (p : Place) (i : Instr) : (s.post p i).declared = s.declared := rfl
@[simp] theorem State.post_watts (p : Place) (i : Instr) : (s.post p i).watts = s.watts := rfl
@[simp] theorem State.post_temp0 (p : Place) (i : Instr) : (s.post p i).temp0 = s.temp0 := rfl
@[simp] theorem State.post_temp1 (p : Place) (i : Instr) : (s.post p i).temp1 = s.temp1 := rfl
@[simp] theorem State.post_coolant (p : Place) (i : Instr) : (s.post p i).coolant = s.coolant := rfl
@[simp] theorem State.post_portTimes (p : Place) (i : Instr) : (s.post p i).portTimes = s.portTimes := rfl
@[simp] theorem State.post_fresh (p : Place) (i : Instr) : (s.post p i).fresh = s.fresh := rfl
@[simp] theorem State.post_serial (p : Place) (i : Instr) : (s.post p i).serial = s.serial := rfl
@[simp] theorem State.post_place (p : Place) (i : Instr) : (s.post p i).place = s.place := rfl

/-! ### postFirst -/

@[simp] theorem State.postFirst_power (p : Place) (i : Instr) : (s.postFirst p i).power = s.power := rfl
@[simp] theorem State.postFirst_clock (p : Place) (i : Instr) : (s.postFirst p i).clock = s.clock := rfl
@[simp] theorem State.postFirst_order (p : Place) (i : Instr) : (s.postFirst p i).order = s.order := rfl
@[simp] theorem State.postFirst_mem (p : Place) (i : Instr) : (s.postFirst p i).mem = s.mem := rfl
@[simp] theorem State.postFirst_poisoned (p : Place) (i : Instr) : (s.postFirst p i).poisoned = s.poisoned := rfl
@[simp] theorem State.postFirst_told (p : Place) (i : Instr) : (s.postFirst p i).told = s.told := rfl
@[simp] theorem State.postFirst_sys (p : Place) (i : Instr) : (s.postFirst p i).sys = s.sys := rfl
@[simp] theorem State.postFirst_regionTab (p : Place) (i : Instr) : (s.postFirst p i).regionTab = s.regionTab := rfl
@[simp] theorem State.postFirst_ctxCfg (p : Place) (i : Instr) : (s.postFirst p i).ctxCfg = s.ctxCfg := rfl
@[simp] theorem State.postFirst_queueCfg (p : Place) (i : Instr) : (s.postFirst p i).queueCfg = s.queueCfg := rfl
@[simp] theorem State.postFirst_logs (p : Place) (i : Instr) : (s.postFirst p i).logs = s.logs := rfl
@[simp] theorem State.postFirst_suspending (p : Place) (i : Instr) : (s.postFirst p i).suspending = s.suspending := rfl
@[simp] theorem State.postFirst_kernels (p : Place) (i : Instr) : (s.postFirst p i).kernels = s.kernels := rfl
@[simp] theorem State.postFirst_bays (p : Place) (i : Instr) : (s.postFirst p i).bays = s.bays := rfl
@[simp] theorem State.postFirst_crews (p : Place) (i : Instr) : (s.postFirst p i).crews = s.crews := rfl
@[simp] theorem State.postFirst_reds (p : Place) (i : Instr) : (s.postFirst p i).reds = s.reds := rfl
@[simp] theorem State.postFirst_mmaFlags (p : Place) (i : Instr) : (s.postFirst p i).mmaFlags = s.mmaFlags := rfl
@[simp] theorem State.postFirst_cmds (p : Place) (i : Instr) : (s.postFirst p i).cmds = s.cmds := rfl
@[simp] theorem State.postFirst_regns (p : Place) (i : Instr) : (s.postFirst p i).regns = s.regns := rfl
@[simp] theorem State.postFirst_fq (p : Place) (i : Instr) : (s.postFirst p i).fq = s.fq := rfl
@[simp] theorem State.postFirst_fqWait (p : Place) (i : Instr) : (s.postFirst p i).fqWait = s.fqWait := rfl
@[simp] theorem State.postFirst_pins (p : Place) (i : Instr) : (s.postFirst p i).pins = s.pins := rfl
@[simp] theorem State.postFirst_peers (p : Place) (i : Instr) : (s.postFirst p i).peers = s.peers := rfl
@[simp] theorem State.postFirst_peersIn (p : Place) (i : Instr) : (s.postFirst p i).peersIn = s.peersIn := rfl
@[simp] theorem State.postFirst_replies (p : Place) (i : Instr) : (s.postFirst p i).replies = s.replies := rfl
@[simp] theorem State.postFirst_peersSeen (p : Place) (i : Instr) : (s.postFirst p i).peersSeen = s.peersSeen := rfl
@[simp] theorem State.postFirst_heldBars (p : Place) (i : Instr) : (s.postFirst p i).heldBars = s.heldBars := rfl
@[simp] theorem State.postFirst_reach (p : Place) (i : Instr) : (s.postFirst p i).reach = s.reach := rfl
@[simp] theorem State.postFirst_kvFree (p : Place) (i : Instr) : (s.postFirst p i).kvFree = s.kvFree := rfl
@[simp] theorem State.postFirst_gov (p : Place) (i : Instr) : (s.postFirst p i).gov = s.gov := rfl
@[simp] theorem State.postFirst_answers (p : Place) (i : Instr) : (s.postFirst p i).answers = s.answers := rfl
@[simp] theorem State.postFirst_host (p : Place) (i : Instr) : (s.postFirst p i).host = s.host := rfl
@[simp] theorem State.postFirst_mac (p : Place) (i : Instr) : (s.postFirst p i).mac = s.mac := rfl
@[simp] theorem State.postFirst_hostMac (p : Place) (i : Instr) : (s.postFirst p i).hostMac = s.hostMac := rfl
@[simp] theorem State.postFirst_casts (p : Place) (i : Instr) : (s.postFirst p i).casts = s.casts := rfl
@[simp] theorem State.postFirst_cmpOld (p : Place) (i : Instr) : (s.postFirst p i).cmpOld = s.cmpOld := rfl
@[simp] theorem State.postFirst_declared (p : Place) (i : Instr) : (s.postFirst p i).declared = s.declared := rfl
@[simp] theorem State.postFirst_watts (p : Place) (i : Instr) : (s.postFirst p i).watts = s.watts := rfl
@[simp] theorem State.postFirst_temp0 (p : Place) (i : Instr) : (s.postFirst p i).temp0 = s.temp0 := rfl
@[simp] theorem State.postFirst_temp1 (p : Place) (i : Instr) : (s.postFirst p i).temp1 = s.temp1 := rfl
@[simp] theorem State.postFirst_coolant (p : Place) (i : Instr) : (s.postFirst p i).coolant = s.coolant := rfl
@[simp] theorem State.postFirst_portTimes (p : Place) (i : Instr) : (s.postFirst p i).portTimes = s.portTimes := rfl
@[simp] theorem State.postFirst_fresh (p : Place) (i : Instr) : (s.postFirst p i).fresh = s.fresh := rfl
@[simp] theorem State.postFirst_serial (p : Place) (i : Instr) : (s.postFirst p i).serial = s.serial := rfl
@[simp] theorem State.postFirst_place (p : Place) (i : Instr) : (s.postFirst p i).place = s.place := rfl

/-! ### setLog -/

@[simp] theorem State.setLog_power (ctx : Nat) (f : CtxLog → CtxLog) : (s.setLog ctx f).power = s.power := rfl
@[simp] theorem State.setLog_clock (ctx : Nat) (f : CtxLog → CtxLog) : (s.setLog ctx f).clock = s.clock := rfl
@[simp] theorem State.setLog_order (ctx : Nat) (f : CtxLog → CtxLog) : (s.setLog ctx f).order = s.order := rfl
@[simp] theorem State.setLog_mem (ctx : Nat) (f : CtxLog → CtxLog) : (s.setLog ctx f).mem = s.mem := rfl
@[simp] theorem State.setLog_poisoned (ctx : Nat) (f : CtxLog → CtxLog) : (s.setLog ctx f).poisoned = s.poisoned := rfl
@[simp] theorem State.setLog_told (ctx : Nat) (f : CtxLog → CtxLog) : (s.setLog ctx f).told = s.told := rfl
@[simp] theorem State.setLog_sys (ctx : Nat) (f : CtxLog → CtxLog) : (s.setLog ctx f).sys = s.sys := rfl
@[simp] theorem State.setLog_regionTab (ctx : Nat) (f : CtxLog → CtxLog) : (s.setLog ctx f).regionTab = s.regionTab := rfl
@[simp] theorem State.setLog_ctxCfg (ctx : Nat) (f : CtxLog → CtxLog) : (s.setLog ctx f).ctxCfg = s.ctxCfg := rfl
@[simp] theorem State.setLog_queueCfg (ctx : Nat) (f : CtxLog → CtxLog) : (s.setLog ctx f).queueCfg = s.queueCfg := rfl
@[simp] theorem State.setLog_suspending (ctx : Nat) (f : CtxLog → CtxLog) : (s.setLog ctx f).suspending = s.suspending := rfl
@[simp] theorem State.setLog_kernels (ctx : Nat) (f : CtxLog → CtxLog) : (s.setLog ctx f).kernels = s.kernels := rfl
@[simp] theorem State.setLog_bays (ctx : Nat) (f : CtxLog → CtxLog) : (s.setLog ctx f).bays = s.bays := rfl
@[simp] theorem State.setLog_crews (ctx : Nat) (f : CtxLog → CtxLog) : (s.setLog ctx f).crews = s.crews := rfl
@[simp] theorem State.setLog_reds (ctx : Nat) (f : CtxLog → CtxLog) : (s.setLog ctx f).reds = s.reds := rfl
@[simp] theorem State.setLog_mmaFlags (ctx : Nat) (f : CtxLog → CtxLog) : (s.setLog ctx f).mmaFlags = s.mmaFlags := rfl
@[simp] theorem State.setLog_cmds (ctx : Nat) (f : CtxLog → CtxLog) : (s.setLog ctx f).cmds = s.cmds := rfl
@[simp] theorem State.setLog_regns (ctx : Nat) (f : CtxLog → CtxLog) : (s.setLog ctx f).regns = s.regns := rfl
@[simp] theorem State.setLog_fq (ctx : Nat) (f : CtxLog → CtxLog) : (s.setLog ctx f).fq = s.fq := rfl
@[simp] theorem State.setLog_fqWait (ctx : Nat) (f : CtxLog → CtxLog) : (s.setLog ctx f).fqWait = s.fqWait := rfl
@[simp] theorem State.setLog_pins (ctx : Nat) (f : CtxLog → CtxLog) : (s.setLog ctx f).pins = s.pins := rfl
@[simp] theorem State.setLog_peers (ctx : Nat) (f : CtxLog → CtxLog) : (s.setLog ctx f).peers = s.peers := rfl
@[simp] theorem State.setLog_peersIn (ctx : Nat) (f : CtxLog → CtxLog) : (s.setLog ctx f).peersIn = s.peersIn := rfl
@[simp] theorem State.setLog_replies (ctx : Nat) (f : CtxLog → CtxLog) : (s.setLog ctx f).replies = s.replies := rfl
@[simp] theorem State.setLog_peersSeen (ctx : Nat) (f : CtxLog → CtxLog) : (s.setLog ctx f).peersSeen = s.peersSeen := rfl
@[simp] theorem State.setLog_heldBars (ctx : Nat) (f : CtxLog → CtxLog) : (s.setLog ctx f).heldBars = s.heldBars := rfl
@[simp] theorem State.setLog_reach (ctx : Nat) (f : CtxLog → CtxLog) : (s.setLog ctx f).reach = s.reach := rfl
@[simp] theorem State.setLog_kvFree (ctx : Nat) (f : CtxLog → CtxLog) : (s.setLog ctx f).kvFree = s.kvFree := rfl
@[simp] theorem State.setLog_gov (ctx : Nat) (f : CtxLog → CtxLog) : (s.setLog ctx f).gov = s.gov := rfl
@[simp] theorem State.setLog_answers (ctx : Nat) (f : CtxLog → CtxLog) : (s.setLog ctx f).answers = s.answers := rfl
@[simp] theorem State.setLog_host (ctx : Nat) (f : CtxLog → CtxLog) : (s.setLog ctx f).host = s.host := rfl
@[simp] theorem State.setLog_mac (ctx : Nat) (f : CtxLog → CtxLog) : (s.setLog ctx f).mac = s.mac := rfl
@[simp] theorem State.setLog_hostMac (ctx : Nat) (f : CtxLog → CtxLog) : (s.setLog ctx f).hostMac = s.hostMac := rfl
@[simp] theorem State.setLog_casts (ctx : Nat) (f : CtxLog → CtxLog) : (s.setLog ctx f).casts = s.casts := rfl
@[simp] theorem State.setLog_cmpOld (ctx : Nat) (f : CtxLog → CtxLog) : (s.setLog ctx f).cmpOld = s.cmpOld := rfl
@[simp] theorem State.setLog_declared (ctx : Nat) (f : CtxLog → CtxLog) : (s.setLog ctx f).declared = s.declared := rfl
@[simp] theorem State.setLog_watts (ctx : Nat) (f : CtxLog → CtxLog) : (s.setLog ctx f).watts = s.watts := rfl
@[simp] theorem State.setLog_temp0 (ctx : Nat) (f : CtxLog → CtxLog) : (s.setLog ctx f).temp0 = s.temp0 := rfl
@[simp] theorem State.setLog_temp1 (ctx : Nat) (f : CtxLog → CtxLog) : (s.setLog ctx f).temp1 = s.temp1 := rfl
@[simp] theorem State.setLog_coolant (ctx : Nat) (f : CtxLog → CtxLog) : (s.setLog ctx f).coolant = s.coolant := rfl
@[simp] theorem State.setLog_portTimes (ctx : Nat) (f : CtxLog → CtxLog) : (s.setLog ctx f).portTimes = s.portTimes := rfl
@[simp] theorem State.setLog_fresh (ctx : Nat) (f : CtxLog → CtxLog) : (s.setLog ctx f).fresh = s.fresh := rfl
@[simp] theorem State.setLog_serial (ctx : Nat) (f : CtxLog → CtxLog) : (s.setLog ctx f).serial = s.serial := rfl
@[simp] theorem State.setLog_agenda (ctx : Nat) (f : CtxLog → CtxLog) : (s.setLog ctx f).agenda = s.agenda := rfl
@[simp] theorem State.setLog_place (ctx : Nat) (f : CtxLog → CtxLog) : (s.setLog ctx f).place = s.place := rfl

/-! ### mapCmd -/

@[simp] theorem State.mapCmd_power (id : Nat) (f : Cmd → Cmd) : (s.mapCmd id f).power = s.power := rfl
@[simp] theorem State.mapCmd_clock (id : Nat) (f : Cmd → Cmd) : (s.mapCmd id f).clock = s.clock := rfl
@[simp] theorem State.mapCmd_order (id : Nat) (f : Cmd → Cmd) : (s.mapCmd id f).order = s.order := rfl
@[simp] theorem State.mapCmd_mem (id : Nat) (f : Cmd → Cmd) : (s.mapCmd id f).mem = s.mem := rfl
@[simp] theorem State.mapCmd_poisoned (id : Nat) (f : Cmd → Cmd) : (s.mapCmd id f).poisoned = s.poisoned := rfl
@[simp] theorem State.mapCmd_told (id : Nat) (f : Cmd → Cmd) : (s.mapCmd id f).told = s.told := rfl
@[simp] theorem State.mapCmd_sys (id : Nat) (f : Cmd → Cmd) : (s.mapCmd id f).sys = s.sys := rfl
@[simp] theorem State.mapCmd_regionTab (id : Nat) (f : Cmd → Cmd) : (s.mapCmd id f).regionTab = s.regionTab := rfl
@[simp] theorem State.mapCmd_ctxCfg (id : Nat) (f : Cmd → Cmd) : (s.mapCmd id f).ctxCfg = s.ctxCfg := rfl
@[simp] theorem State.mapCmd_queueCfg (id : Nat) (f : Cmd → Cmd) : (s.mapCmd id f).queueCfg = s.queueCfg := rfl
@[simp] theorem State.mapCmd_logs (id : Nat) (f : Cmd → Cmd) : (s.mapCmd id f).logs = s.logs := rfl
@[simp] theorem State.mapCmd_suspending (id : Nat) (f : Cmd → Cmd) : (s.mapCmd id f).suspending = s.suspending := rfl
@[simp] theorem State.mapCmd_kernels (id : Nat) (f : Cmd → Cmd) : (s.mapCmd id f).kernels = s.kernels := rfl
@[simp] theorem State.mapCmd_bays (id : Nat) (f : Cmd → Cmd) : (s.mapCmd id f).bays = s.bays := rfl
@[simp] theorem State.mapCmd_crews (id : Nat) (f : Cmd → Cmd) : (s.mapCmd id f).crews = s.crews := rfl
@[simp] theorem State.mapCmd_reds (id : Nat) (f : Cmd → Cmd) : (s.mapCmd id f).reds = s.reds := rfl
@[simp] theorem State.mapCmd_mmaFlags (id : Nat) (f : Cmd → Cmd) : (s.mapCmd id f).mmaFlags = s.mmaFlags := rfl
@[simp] theorem State.mapCmd_regns (id : Nat) (f : Cmd → Cmd) : (s.mapCmd id f).regns = s.regns := rfl
@[simp] theorem State.mapCmd_fq (id : Nat) (f : Cmd → Cmd) : (s.mapCmd id f).fq = s.fq := rfl
@[simp] theorem State.mapCmd_fqWait (id : Nat) (f : Cmd → Cmd) : (s.mapCmd id f).fqWait = s.fqWait := rfl
@[simp] theorem State.mapCmd_pins (id : Nat) (f : Cmd → Cmd) : (s.mapCmd id f).pins = s.pins := rfl
@[simp] theorem State.mapCmd_peers (id : Nat) (f : Cmd → Cmd) : (s.mapCmd id f).peers = s.peers := rfl
@[simp] theorem State.mapCmd_peersIn (id : Nat) (f : Cmd → Cmd) : (s.mapCmd id f).peersIn = s.peersIn := rfl
@[simp] theorem State.mapCmd_replies (id : Nat) (f : Cmd → Cmd) : (s.mapCmd id f).replies = s.replies := rfl
@[simp] theorem State.mapCmd_peersSeen (id : Nat) (f : Cmd → Cmd) : (s.mapCmd id f).peersSeen = s.peersSeen := rfl
@[simp] theorem State.mapCmd_heldBars (id : Nat) (f : Cmd → Cmd) : (s.mapCmd id f).heldBars = s.heldBars := rfl
@[simp] theorem State.mapCmd_reach (id : Nat) (f : Cmd → Cmd) : (s.mapCmd id f).reach = s.reach := rfl
@[simp] theorem State.mapCmd_kvFree (id : Nat) (f : Cmd → Cmd) : (s.mapCmd id f).kvFree = s.kvFree := rfl
@[simp] theorem State.mapCmd_gov (id : Nat) (f : Cmd → Cmd) : (s.mapCmd id f).gov = s.gov := rfl
@[simp] theorem State.mapCmd_answers (id : Nat) (f : Cmd → Cmd) : (s.mapCmd id f).answers = s.answers := rfl
@[simp] theorem State.mapCmd_host (id : Nat) (f : Cmd → Cmd) : (s.mapCmd id f).host = s.host := rfl
@[simp] theorem State.mapCmd_mac (id : Nat) (f : Cmd → Cmd) : (s.mapCmd id f).mac = s.mac := rfl
@[simp] theorem State.mapCmd_hostMac (id : Nat) (f : Cmd → Cmd) : (s.mapCmd id f).hostMac = s.hostMac := rfl
@[simp] theorem State.mapCmd_casts (id : Nat) (f : Cmd → Cmd) : (s.mapCmd id f).casts = s.casts := rfl
@[simp] theorem State.mapCmd_cmpOld (id : Nat) (f : Cmd → Cmd) : (s.mapCmd id f).cmpOld = s.cmpOld := rfl
@[simp] theorem State.mapCmd_declared (id : Nat) (f : Cmd → Cmd) : (s.mapCmd id f).declared = s.declared := rfl
@[simp] theorem State.mapCmd_watts (id : Nat) (f : Cmd → Cmd) : (s.mapCmd id f).watts = s.watts := rfl
@[simp] theorem State.mapCmd_temp0 (id : Nat) (f : Cmd → Cmd) : (s.mapCmd id f).temp0 = s.temp0 := rfl
@[simp] theorem State.mapCmd_temp1 (id : Nat) (f : Cmd → Cmd) : (s.mapCmd id f).temp1 = s.temp1 := rfl
@[simp] theorem State.mapCmd_coolant (id : Nat) (f : Cmd → Cmd) : (s.mapCmd id f).coolant = s.coolant := rfl
@[simp] theorem State.mapCmd_portTimes (id : Nat) (f : Cmd → Cmd) : (s.mapCmd id f).portTimes = s.portTimes := rfl
@[simp] theorem State.mapCmd_fresh (id : Nat) (f : Cmd → Cmd) : (s.mapCmd id f).fresh = s.fresh := rfl
@[simp] theorem State.mapCmd_serial (id : Nat) (f : Cmd → Cmd) : (s.mapCmd id f).serial = s.serial := rfl
@[simp] theorem State.mapCmd_agenda (id : Nat) (f : Cmd → Cmd) : (s.mapCmd id f).agenda = s.agenda := rfl
@[simp] theorem State.mapCmd_place (id : Nat) (f : Cmd → Cmd) : (s.mapCmd id f).place = s.place := rfl

/-! ### kick -/

@[simp] theorem State.kick_power  : (s.kick ).power = s.power := rfl
@[simp] theorem State.kick_clock  : (s.kick ).clock = s.clock := rfl
@[simp] theorem State.kick_order  : (s.kick ).order = s.order := rfl
@[simp] theorem State.kick_mem  : (s.kick ).mem = s.mem := rfl
@[simp] theorem State.kick_poisoned  : (s.kick ).poisoned = s.poisoned := rfl
@[simp] theorem State.kick_told  : (s.kick ).told = s.told := rfl
@[simp] theorem State.kick_sys  : (s.kick ).sys = s.sys := rfl
@[simp] theorem State.kick_regionTab  : (s.kick ).regionTab = s.regionTab := rfl
@[simp] theorem State.kick_ctxCfg  : (s.kick ).ctxCfg = s.ctxCfg := rfl
@[simp] theorem State.kick_queueCfg  : (s.kick ).queueCfg = s.queueCfg := rfl
@[simp] theorem State.kick_logs  : (s.kick ).logs = s.logs := rfl
@[simp] theorem State.kick_suspending  : (s.kick ).suspending = s.suspending := rfl
@[simp] theorem State.kick_kernels  : (s.kick ).kernels = s.kernels := rfl
@[simp] theorem State.kick_bays  : (s.kick ).bays = s.bays := rfl
@[simp] theorem State.kick_crews  : (s.kick ).crews = s.crews := rfl
@[simp] theorem State.kick_reds  : (s.kick ).reds = s.reds := rfl
@[simp] theorem State.kick_mmaFlags  : (s.kick ).mmaFlags = s.mmaFlags := rfl
@[simp] theorem State.kick_cmds  : (s.kick ).cmds = s.cmds := rfl
@[simp] theorem State.kick_regns  : (s.kick ).regns = s.regns := rfl
@[simp] theorem State.kick_fq  : (s.kick ).fq = s.fq := rfl
@[simp] theorem State.kick_fqWait  : (s.kick ).fqWait = s.fqWait := rfl
@[simp] theorem State.kick_pins  : (s.kick ).pins = s.pins := rfl
@[simp] theorem State.kick_peers  : (s.kick ).peers = s.peers := rfl
@[simp] theorem State.kick_peersIn  : (s.kick ).peersIn = s.peersIn := rfl
@[simp] theorem State.kick_replies  : (s.kick ).replies = s.replies := rfl
@[simp] theorem State.kick_peersSeen  : (s.kick ).peersSeen = s.peersSeen := rfl
@[simp] theorem State.kick_heldBars  : (s.kick ).heldBars = s.heldBars := rfl
@[simp] theorem State.kick_reach  : (s.kick ).reach = s.reach := rfl
@[simp] theorem State.kick_kvFree  : (s.kick ).kvFree = s.kvFree := rfl
@[simp] theorem State.kick_gov  : (s.kick ).gov = s.gov := rfl
@[simp] theorem State.kick_answers  : (s.kick ).answers = s.answers := rfl
@[simp] theorem State.kick_host  : (s.kick ).host = s.host := rfl
@[simp] theorem State.kick_mac  : (s.kick ).mac = s.mac := rfl
@[simp] theorem State.kick_hostMac  : (s.kick ).hostMac = s.hostMac := rfl
@[simp] theorem State.kick_casts  : (s.kick ).casts = s.casts := rfl
@[simp] theorem State.kick_cmpOld  : (s.kick ).cmpOld = s.cmpOld := rfl
@[simp] theorem State.kick_declared  : (s.kick ).declared = s.declared := rfl
@[simp] theorem State.kick_watts  : (s.kick ).watts = s.watts := rfl
@[simp] theorem State.kick_temp0  : (s.kick ).temp0 = s.temp0 := rfl
@[simp] theorem State.kick_temp1  : (s.kick ).temp1 = s.temp1 := rfl
@[simp] theorem State.kick_coolant  : (s.kick ).coolant = s.coolant := rfl
@[simp] theorem State.kick_portTimes  : (s.kick ).portTimes = s.portTimes := rfl
@[simp] theorem State.kick_fresh  : (s.kick ).fresh = s.fresh := rfl
@[simp] theorem State.kick_serial  : (s.kick ).serial = s.serial := rfl
@[simp] theorem State.kick_place  : (s.kick ).place = s.place := rfl

/-! ### What the updates set -/

@[simp] theorem State.setCrew_crew_self (rid : Nat) (f : Crew → Crew) : (s.setCrew rid f).crews.get? rid = (s.crews.get? rid).map f :=
  Tbl.get?_modify_self _ _ _

theorem State.setCrew_crew_ne {rid r : Nat} (f : Crew → Crew) (h : rid ≠ r) : (s.setCrew rid f).crews.get? r = s.crews.get? r :=
  Tbl.get?_modify_ne _ _ h

@[simp] theorem State.setKern_kern_self (k : Nat) (f : Kernel → Kernel) : (s.setKern k f).kern k = f (s.kern k) := by
  simp [State.kern, State.setKern, Tbl.getD]

theorem State.setKern_kern_ne {k j : Nat} (f : Kernel → Kernel) (h : k ≠ j) : (s.setKern k f).kern j = s.kern j := by
  simp [State.kern, State.setKern, Tbl.getD, Tbl.get?_set_ne _ _ h]

@[simp] theorem State.setBay_bay_self (b : Nat) (f : Bay → Bay) : (s.setBay b f).bay b = f (s.bay b) := by
  simp [State.bay, State.setBay, Tbl.getD]

theorem State.setBay_bay_ne {b c : Nat} (f : Bay → Bay) (h : b ≠ c) : (s.setBay b f).bay c = s.bay c := by
  simp [State.bay, State.setBay, Tbl.getD, Tbl.get?_set_ne _ _ h]

@[simp] theorem State.setRcd_rcd_self (t : SysTab) (n v : Nat) : (s.setRcd t n v).rcd t n = v := by
  simp [State.rcd, State.setRcd]

@[simp] theorem State.post_agenda (p : Place) (i : Instr) : (s.post p i).agenda = s.agenda ++ [.event p i] := rfl
@[simp] theorem State.postFirst_agenda (p : Place) (i : Instr) : (s.postFirst p i).agenda = .event p i :: s.agenda := rfl

end Sys2Proof.Machine
end

