-- ==== Sys2Proof/Laws/Issue.lean ====
section
/-! SUPPORT. What issuing an ordinary instruction does, said once. -/

namespace Sys2Proof.Laws

open Machine Claims

theorem setCrew_of {s : State} {rid : Nat} {c : Crew} (h : s.crews.get? rid = some c) (f : Crew → Crew) :
    s.setCrew rid f = { s with crews := s.crews.set rid (f c) } := by
  simp [State.setCrew, Tbl.modify, h]

/-- A result issued: outstanding, its flag set; nothing where it has none. -/
theorem issueResult_spec (c : Crew) (p : Pend) :
    OnlyIssue c (c.issueResult p) ∧ (c.issueResult p).pc = c.pc ∧ (c.issueResult p).strokes = c.strokes := by
  unfold Crew.issueResult
  generalize (p.cells.isEmpty && p.rowEmpty.isNone && p.fu.all (fun f => f.groups.isEmpty)) = e
  cases e
  · simp only [Bool.false_eq_true, if_false]
    unfold Crew.setFlag
    cases p.flag <;> exact ⟨rfl, rfl, rfl⟩
  · exact ⟨rfl, rfl, rfl⟩

theorem onlyIssue_refl (c : Crew) : OnlyIssue c c := rfl

theorem onlyIssue_trans {a b c : Crew} (h : OnlyIssue a b) (g : OnlyIssue b c) : OnlyIssue a c := by
  unfold OnlyIssue at *
  rw [h] at g
  exact g

/-- The module around a crew whose instruction joins its stroke: registrations made, the FP64 pipe taken, walks to come. -/
def around (s : State) (rid : Nat) (o : Out) : State :=
  let s1 := { s with regns := s.regns ++ o.regns.filter (fun r => !s.regns.contains r) }
  let s2 := if o.fp64 then s1.setSide (ridBay rid) (ridSide rid) (fun x => { x with fp64 := s.clock + 4 }) else s1
  s2.fills rid (o.crew.ctx s) o.misses

/-- The crew that a recorded instruction leaves. -/
theorem record_crew {s : State} {rid : Nat} {c : Crew} (k : Ctl) (bl : List Nat) (st : Stroke) (o : Out)
    (hc : s.crews.get? rid = some c) (hm : o.more = []) (hs : o.spill = none) (hh : st.held = false) :
    ∃ d, s.record rid k bl st o =
        { around s rid o with crews := s.crews.set rid d, serial := s.serial + 1, fresh := s.fresh + 1 } ∧
      OnlyIssue o.crew d ∧ d.pc = o.crew.pc ∧
      (if (o.cells.isEmpty && o.row.isNone && o.fu.all (fun f => f.groups.isEmpty)) = true then d.pends = o.crew.pends ∧ d.flags = o.crew.flags
       else d.pends = o.crew.pends ++ [⟨st.serial, o.cells, [], o.lat.map (s.clock + ·), k.set, o.row, o.fu⟩] ∧
        d.flags = (match k.set with | some f => o.crew.flags ||| (1#12 <<< f.val) | none => o.crew.flags)) ∧
      (∃ st', d.strokes.getLast? = some st' ∧ st'.serial = st.serial ∧ st'.count = st.count + 1 ∧ st'.effs = st.effs ++ o.effs) ∧
      d.skip = o.skips := by
  obtain ⟨oc, cells, lat, row, fu, more, rl, wl, unw, sl, pin, effs, sums, blocks, regns, binds, misses, closes, skips, yields, fp64, spill⟩ := o
  simp only at hm hs ⊢
  subst hm hs
  unfold State.record
  simp only [List.map_nil, List.foldl_nil]
  rw [if_neg (by simp [Stroke.strays, Stroke.join, Stroke.reads, Stroke.writes, hh])]
  refine ⟨?d, ?eq, ?rest⟩
  case eq =>
    cases fp64 <;> simp only [State.fills, State.setCrew, State.setSide, State.setBay, around, if_true, Bool.false_eq_true, if_false] <;>
    (rw [Tbl.modify, show (s.crews.get? rid) = some c from hc]; try rfl)
  case rest =>
    set jn := st.join bl _ with hjn
    have e1 : jn.count = st.count + 1 := rfl
    have e2 : jn.effs = st.effs ++ effs := rfl
    have e3 : jn.serial = st.serial := rfl
    clear_value jn
    have hg : ∀ (l : List Stroke) (g : Stroke → Stroke) (x : Stroke), (List.map g (l ++ [x])).getLast? = some (g x) := by
      intro l g x; simp
    generalize jn.full k _ = full
    by_cases hE : (cells.isEmpty && row.isNone && fu.all (fun f => f.groups.isEmpty)) = true <;>
    cases full <;>
    cases k.set <;>
    (simp only [hE, if_true, Crew.close, Crew.issued, Crew.issueResult, Bool.false_eq_true, if_false, Crew.setFlag]
     refine ⟨rfl, by trivial, by first | trivial | (rw [e3]; exact ⟨rfl, rfl⟩) | (rw [e3]; exact ⟨rfl, trivial⟩), ?_, by trivial⟩
     first
     | (refine ⟨_, hg _ _ _, ?_, ?_, ?_⟩ <;> split <;> assumption)
     | (refine ⟨jn, ?_, e3, e1, e2⟩
        simp))

/-- An ordinary instruction whose body answers o issues it. -/
theorem ordinary_issues {i : Instr} {k : Ctl} {e : Enc} {body : Body} {s : State} {rid : Nat} {c : Crew} {o : Out}
    (he : enc i = some (k, e)) (hi : Issuing s rid c i) (ht : Takes s rid c (o.blocks.getD (encBlocks e)) o.wl o.sums)
    (hb : body s rid c = .ok o) (hpd : o.crew.pends = c.pends) (hfl : o.crew.flags = c.flags) (hm : o.more = []) (hs : o.spill = none)
    {s' : State} (ha : around s rid o = s') :
    ∃ t d, ordinary i body s = .next t ∧ t.crews.get? rid = some d ∧ OnlyCrew s' t rid ∧ OnlyIssue o.crew d ∧
      d.pc = o.crew.pc ∧ Outstanding c d i ⟨o.cells, o.lat.map (s.clock + ·), o.row, o.fu⟩ ∧ Joined c d o.effs := by
  subst ha
  have hflag : flagOf i = k.set := by simp [flagOf, he]
  have hrange := hi.range k e he
  have key : ∀ st o', st.held = false → o' = o ∨ o' = { o with crew := { o.crew with granted := false, heldReady := false } } →
      s.issueOrdinary rid c k e body = s.record rid k (o.blocks.getD (encBlocks e)) st o' →
      (match c.executing with | some old => st = old | none => st.count = 0 ∧ st.effs = []) →
      ∃ t d, ordinary i body s = .next t ∧ t.crews.get? rid = some d ∧ OnlyCrew (around s rid o) t rid ∧ OnlyIssue o.crew d ∧
        d.pc = o.crew.pc ∧ Outstanding c d i ⟨o.cells, o.lat.map (s.clock + ·), o.row, o.fu⟩ ∧ Joined c d o.effs := by
    intro st o' hh ho hrec hx
    obtain ⟨d, h1, h2, h3, h4, ⟨st', h5, h6, h7, h8⟩, -⟩ := record_crew (o := o') (c := c) k (o.blocks.getD (encBlocks e)) st hi.crew
      (by rcases ho with rfl | rfl <;> exact hm) (by rcases ho with rfl | rfl <;> exact hs) hh
    have haround : around s rid o' = around s rid o := by rcases ho with rfl | rfl <;> rfl
    have hcrews : (around s rid o).crews = s.crews := by unfold around; dsimp only; split <;> rfl
    refine ⟨s.record rid k (o.blocks.getD (encBlocks e)) st o', d, by simp only [ordinary, hi.place, hi.crew, he, hrec],
      by rw [h1]; simp, ?_, ?_, ?_, ?_, ?_⟩
    · rw [h1, haround]
      exact ⟨rfl, fun r hne => (Tbl.get?_set_ne _ _ (Ne.symm hne)).trans (by rw [hcrews])⟩
    · rcases ho with rfl | rfl
      · exact h2
      · exact onlyIssue_trans (show OnlyIssue o.crew { o.crew with granted := false, heldReady := false } from rfl) h2
    · rcases ho with rfl | rfl <;> exact h3
    · have hp : o'.crew.pends = c.pends := by rcases ho with rfl | rfl <;> exact hpd
      have hf2 : o'.crew.flags = c.flags := by rcases ho with rfl | rfl <;> exact hfl
      have hcell : o'.cells = o.cells ∧ o'.lat = o.lat ∧ o'.row = o.row ∧ o'.fu = o.fu := by rcases ho with rfl | rfl <;> simp
      rw [hcell.1, hcell.2.1, hcell.2.2.1, hcell.2.2.2, hp, hf2] at h4
      unfold Outstanding
      simp only [Bool.and_eq_true, List.isEmpty_iff, Option.isNone_iff_eq_none, and_assoc] at h4 ⊢
      split at h4
      · rename_i hx; rw [if_pos hx]; exact h4
      · rename_i hx; rw [if_neg hx, hflag]; exact ⟨⟨_, h4.1⟩, h4.2⟩
    · refine ⟨st', h5, ?_⟩
      have hef : o'.effs = o.effs := by rcases ho with rfl | rfl <;> rfl
      rw [hef] at h8
      cases hc : c.executing with
      | some old => simp only [hc] at hx ⊢; subst hx; exact ⟨h6, h7, h8⟩
      | none => simp only [hc] at hx ⊢; rw [h7, h8, hx.1, hx.2]; simp
  unfold Takes at ht
  cases hc : c.executing with
  | some st =>
    simp only [hc] at ht
    obtain ⟨hh, f1, f2, f3⟩ := ht
    refine key st o hh (.inl rfl) ?_ (by simp [hc])
    have hne : st.exceeds (o.blocks.getD (encBlocks e)) o = false := by
      simp only [Stroke.exceeds, Bool.or_eq_false_iff, decide_eq_false_iff_not]
      omega
    simp [State.issueOrdinary, hrange, hb, hc, hne]
  | none =>
    simp only [hc] at ht
    refine key (c.newStroke s.serial) _ ht.2 (.inr rfl) ?_ (by simp [hc, Crew.newStroke])
    simp [State.issueOrdinary, hrange, hb, hc, ht.1]

/-- What an instruction's issue leaves around the crew when its body names no registration, no FP64 pipe and no walk. -/
theorem around_plain {s : State} {rid : Nat} {o : Out} (hr : o.regns = []) (hf : o.fp64 = false) (hm : o.misses = []) : around s rid o = s := by
  simp [around, hr, hf, hm, State.fills]

end Sys2Proof.Laws
end

