-- ==== Sys2Proof/Laws/Mem.lean ====
section
/-! SUPPORT. Laws of memory: a read after a write, and the canonical form, which every memory operation keeps. -/

namespace Sys2Proof.Machine

/-! ### Memory proper -/

/-- The byte that has been written is read. -/
@[simp] theorem Memory.byte_write_self (m : Memory) (pa : Nat) (v : Byte) : Memory.byte (Memory.write m pa v) pa = v :=
  Tbl.getD_write_self _ _ _ _

/-- A write leaves every other byte. -/
theorem Memory.byte_write_ne (m : Memory) {pa a : Nat} (v : Byte) (h : pa ≠ a) : Memory.byte (Memory.write m pa v) a = Memory.byte m a :=
  Tbl.getD_write_ne _ _ _ _ h

theorem Memory.wf_write {m : Memory} (pa : Nat) (v : Byte) (h : Memory.wf m = true) : Memory.wf (Memory.write m pa v) = true :=
  Tbl.canon_write _ _ h

theorem Memory.wf_writes {m : Memory} (pa : Nat) (bs : List Byte) (h : Memory.wf m = true) : Memory.wf (Memory.writes m pa bs) = true := by
  induction bs generalizing m pa with
  | nil => exact h
  | cons b bs ih => exact ih _ (Memory.wf_write _ _ h)

/-- Bytes outside those written stay. -/
theorem Memory.byte_writes_out (m : Memory) (pa : Nat) (bs : List Byte) {a : Nat} (h : a < pa ∨ pa + bs.length ≤ a) :
    Memory.byte (Memory.writes m pa bs) a = Memory.byte m a := by
  induction bs generalizing m pa with
  | nil => rfl
  | cons b bs ih =>
    simp only [List.length_cons] at h
    rw [Memory.writes, ih _ _ (by omega), Memory.byte_write_ne _ _ (by omega)]

/-- Bytes written are read. -/
theorem Memory.byte_writes_in (m : Memory) (pa : Nat) (bs : List Byte) (j : Nat) (h : j < bs.length) :
    Memory.byte (Memory.writes m pa bs) (pa + j) = bs[j] := by
  induction bs generalizing m pa j with
  | nil => simp at h
  | cons b bs ih =>
    cases j with
    | zero => rw [Memory.writes, Memory.byte_writes_out _ _ _ (by omega)]; simp
    | succ j =>
      rw [Memory.writes, show pa + (j + 1) = pa + 1 + j by omega]
      exact ih _ _ j (by simpa using h)

/-! ### Writes of the system range keep memory -/

@[simp] theorem State.sysEffect_mem (s : State) (t : SysTab) (n old new cmd : Nat) : (s.sysEffect t n old new cmd).mem = s.mem := by
  cases t <;> simp only [State.sysEffect] <;> (repeat' split) <;> rfl

@[simp] theorem State.sysWriteRec_mem (s : State) (t : SysTab) (n k : Nat) (bs : List Byte) : (s.sysWriteRec t n k bs).mem = s.mem := by
  simp [State.sysWriteRec]

@[simp] theorem State.sysWrite_mem (s : State) (f pa : Nat) (bs : List Byte) : (s.sysWrite f pa bs).mem = s.mem := by
  induction f generalizing s pa bs with
  | zero => rfl
  | succ f ih =>
    cases bs with
    | nil => rfl
    | cons b bs =>
      simp only [State.sysWrite]
      split <;> simp [ih]

/-- A write outside the system range is a write of memory proper and nothing else. -/
theorem State.write_eq (s : State) (pa : Nat) (bs : List Byte) (h : inSys pa = false) :
    s.write pa bs = { s with mem := Memory.writes s.mem pa bs } := by
  simp [State.write, h]

theorem State.write_wf {s : State} (pa : Nat) (bs : List Byte) (h : Memory.wf s.mem = true) : Memory.wf (s.write pa bs).mem = true := by
  unfold State.write
  split
  · simpa using h
  · exact Memory.wf_writes _ _ h

theorem State.writeNum_wf {s : State} (pa n v : Nat) (h : Memory.wf s.mem = true) : Memory.wf (s.writeNum pa n v).mem = true :=
  State.write_wf _ _ h

end Sys2Proof.Machine
end

