-- ==== Sys2Proof/Laws/PerInstr.lean ====
section
/-! SUPPORT. Decoding an encoded instruction gives it back: one lemma for each constructor of Instr. -/

set_option linter.unusedSimpArgs false
set_option linter.unusedVariables false

namespace Sys2Proof.Laws.RoundTrip

/-- The decoder reads a well-formed instruction back from the granules the encoder gives it. -/
def Statement (i : Instr) : Prop := i.WF → decodeWords (encode i) = .ok i

/-- An event is no instruction that a crew decodes. -/
theorem event {i : Instr} (h : enc i = none) : Statement i := by
  intro w; simp [Instr.WF, wfErr, h] at w

/-- The decoder's candidate under the encoder's fields decides the round trip. -/
theorem crew {i : Instr} {k : Ctl} {e : Enc} (he : enc i = some (k, e))
    (hc : accepts i = true → immFits k.len e.imm = true → cand k.len (rawOf k e) k = some i) : Statement i := by
  intro w
  simp only [Instr.WF, wfErr, he] at w
  cases ho : opRow e.op with
  | none => simp [ho] at w
  | some row =>
    obtain ⟨mn, p⟩ := row
    simp only [ho] at w
    split at w
    · simp at w
    rename_i hlen
    split at w
    · simp at w
    rename_i hpred
    split at w
    · simp at w
    rename_i hacc
    split at w
    · simp at w
    rename_i himm
    split at w
    · simp at w
    rename_i hgrp
    simp only [Bool.not_eq_eq_eq_not, Bool.not_true, Bool.not_eq_false] at hpred hacc hgrp
    have himm1 : immFits k.len e.imm = true := by
      cases hi : immFits k.len e.imm <;> simp [hi] at himm ⊢
    have hmn : mn.granules ≤ minLen i e := by
      unfold minLen
      split
      · have : e.op = 0x82 := by simp only [enc, Option.some.injEq, Prod.mk.injEq] at he; rw [← he.2]
        rw [this] at ho
        obtain ⟨rfl, -⟩ : Len.l64 = mn ∧ PCol.lane = p := by simpa [opRow] using ho
        decide
      · simp [ho]
    have h32 : k.len ≠ .l128 → (rawOf k e).imm32 = 0#32 := by
      intro hl
      have hb : (k.len == .l128) = false := by simpa using hl
      revert himm1
      simp only [rawOf]
      cases e.imm with
      | b s => cases s <;> simp [immFits, ImmF.imm32, hb]
      | o off => simp [ImmF.imm32, hl]
      | k v => simp [immFits, hb]
      | _ => simp [ImmF.imm32]
    have h64 : k.len = .l64 → (rawOf k e).imm14 = 0#14 ∧ (rawOf k e).pmode = 0#2 ∧ (rawOf k e).vP = 0#8 ∧ (rawOf k e).c = 0#8 := by
      intro hl
      rw [hl] at hpred himm himm1
      refine ⟨?_, ?_, ?_, ?_⟩
      · revert himm1
        simp only [rawOf, hl]
        cases e.imm <;> simp [immFits, ImmF.imm14]
      · simp only [rawOf]; cases hp : k.pred <;> simp [hp, predFits] at hpred ⊢; rfl
      · simp only [rawOf]; cases hp : k.pred <;> simp [hp, predFits] at hpred ⊢; rfl
      · simp only [rawOf]
        cases hcc : e.c with
        | none => rfl
        | some x => simp [hcc] at himm
    have hbits : bitsOf ((encode i).take 4) = (rawOf k e).bits := by
      simp only [encode, he]
      rw [bitsOf_granulesOf, Raw.bits_mask _ _ h32 h64]
    have hlen0 : (rawOf k e).bits.extractLsb' 0 2 = k.len.code := congrArg Raw.len (rawOf k e).ofBits_bits
    have hop : (rawOf k e).opcode = e.op := rfl
    simp only [decodeWords, hbits, decode, hlen0, Len.ofCode?_code, Raw.bits_mask _ _ h32 h64, Raw.ofBits_bits, hop, ho,
      if_neg (show ¬k.len.granules < mn.granules by omega), ctlOf?_rawOf, hc hacc himm1, he, if_neg hlen, hacc, hgrp]
    have hp : ¬(p = .none ∧ k.pred ≠ .always) := by
      rintro ⟨rfl, hp⟩
      cases hq : k.pred <;> simp [hq, predFits] at hpred hp
    simp [hp]

/-- An offset is read back where it fits. -/
theorem off {l : Len} {o : Word} {x : Raw} (h : immFits l (.o o) = true) (h14 : x.imm14 = ImmF.imm14 l (.o o))
    (h32 : x.imm32 = ImmF.imm32 l (.o o)) : offOf l x = o := by
  cases l with
  | l64 => simp only [immFits, beq_iff_eq] at h; simp only [offOf]; exact h.symm
  | l96 => simp only [immFits, beq_iff_eq] at h; simp only [offOf, h14, ImmF.imm14, if_true]; exact h.symm
  | l128 => simp [offOf, h32, ImmF.imm32]

@[simp] theorem opndReg_r1 (r : Reg) : opndReg (r1 r) = r := rfl
@[simp] theorem opndReg_rN (n : Nat) (r : Reg) : opndReg (rN n r) = r := rfl

theorem nop (k : Ctl) : Statement (.nop k) := by
  refine crew rfl (fun ha hi => ?_)
  simp [cand, candCtl, rawOf, encDAB, encDABC, encDA, encDAb, encAB, encA, encD, enc0,
    ImmF.imm14, ImmF.imm32, opndReg, rN, r1]
theorem bra (k : Ctl) (off : BitVec 14) : Statement (.bra k off) := by
  refine crew rfl (fun ha hi => ?_)
  simp [cand, candCtl, rawOf, encDAB, encDABC, encDA, encDAb, encAB, encA, encD, enc0,
    ImmF.imm14, ImmF.imm32, opndReg, rN, r1]
theorem brx (k : Ctl) (a : Reg) : Statement (.brx k a) := by
  refine crew rfl (fun ha hi => ?_)
  simp [cand, candCtl, rawOf, encDAB, encDABC, encDA, encDAb, encAB, encA, encD, enc0,
    ImmF.imm14, ImmF.imm32, opndReg, rN, r1]
theorem bdiv (k : Ctl) (a : Reg) (off : BitVec 14) : Statement (.bdiv k a off) := by
  refine crew rfl (fun ha hi => ?_)
  simp [cand, candCtl, rawOf, encDAB, encDABC, encDA, encDAb, encAB, encA, encD, enc0,
    ImmF.imm14, ImmF.imm32, opndReg, rN, r1]
theorem join (k : Ctl) : Statement (.join k) := by
  refine crew rfl (fun ha hi => ?_)
  simp [cand, candCtl, rawOf, encDAB, encDABC, encDA, encDAb, encAB, encA, encD, enc0,
    ImmF.imm14, ImmF.imm32, opndReg, rN, r1]
theorem call (k : Ctl) (d : Reg) (off : BitVec 14) : Statement (.call k d off) := by
  refine crew rfl (fun ha hi => ?_)
  simp [cand, candCtl, rawOf, encDAB, encDABC, encDA, encDAb, encAB, encA, encD, enc0,
    ImmF.imm14, ImmF.imm32, opndReg, rN, r1]
theorem ret (k : Ctl) (a : Reg) : Statement (.ret k a) := by
  refine crew rfl (fun ha hi => ?_)
  simp [cand, candCtl, rawOf, encDAB, encDABC, encDA, encDAb, encAB, encA, encD, enc0,
    ImmF.imm14, ImmF.imm32, opndReg, rN, r1]
theorem exit (k : Ctl) : Statement (.exit k) := by
  refine crew rfl (fun ha hi => ?_)
  simp [cand, candCtl, rawOf, encDAB, encDABC, encDA, encDAb, encAB, encA, encD, enc0,
    ImmF.imm14, ImmF.imm32, opndReg, rN, r1]
theorem fjmp (k : Ctl) (a : Reg) (n : BitVec 14) : Statement (.fjmp k a n) := by
  refine crew rfl (fun ha hi => ?_)
  simp [cand, candCtl, rawOf, encDAB, encDABC, encDA, encDAb, encAB, encA, encD, enc0,
    ImmF.imm14, ImmF.imm32, opndReg, rN, r1]
theorem cfetch (k : Ctl) (a : Reg) (b : Reg) (n : BitVec 14) : Statement (.cfetch k a b n) := by
  refine crew rfl (fun ha hi => ?_)
  simp [cand, candCtl, rawOf, encDAB, encDABC, encDA, encDAb, encAB, encA, encD, enc0,
    ImmF.imm14, ImmF.imm32, opndReg, rN, r1]
theorem cinv (k : Ctl) (n : BitVec 14) : Statement (.cinv k n) := by
  refine crew rfl (fun ha hi => ?_)
  simp [cand, candCtl, rawOf, encDAB, encDABC, encDA, encDAb, encAB, encA, encD, enc0,
    ImmF.imm14, ImmF.imm32, opndReg, rN, r1]
theorem trap (k : Ctl) (n : BitVec 14) : Statement (.trap k n) := by
  refine crew rfl (fun ha hi => ?_)
  simp [cand, candCtl, rawOf, encDAB, encDABC, encDA, encDAb, encAB, encA, encD, enc0,
    ImmF.imm14, ImmF.imm32, opndReg, rN, r1]
theorem rte (k : Ctl) : Statement (.rte k) := by
  refine crew rfl (fun ha hi => ?_)
  simp [cand, candCtl, rawOf, encDAB, encDABC, encDA, encDAb, encAB, encA, encD, enc0,
    ImmF.imm14, ImmF.imm32, opndReg, rN, r1]
theorem bkpt (k : Ctl) (n : BitVec 14) : Statement (.bkpt k n) := by
  refine crew rfl (fun ha hi => ?_)
  simp [cand, candCtl, rawOf, encDAB, encDABC, encDA, encDAb, encAB, encA, encD, enc0,
    ImmF.imm14, ImmF.imm32, opndReg, rN, r1]
theorem yieldHint (k : Ctl) : Statement (.yieldHint k) := by
  refine crew rfl (fun ha hi => ?_)
  simp [cand, candCtl, rawOf, encDAB, encDABC, encDA, encDAb, encAB, encA, encD, enc0,
    ImmF.imm14, ImmF.imm32, opndReg, rN, r1]
theorem cut (k : Ctl) : Statement (.cut k) := by
  refine crew rfl (fun ha hi => ?_)
  simp [cand, candCtl, rawOf, encDAB, encDABC, encDA, encDAb, encAB, encA, encD, enc0,
    ImmF.imm14, ImmF.imm32, opndReg, rN, r1]
theorem emrd (k : Ctl) (d : Reg) : Statement (.emrd k d) := by
  refine crew rfl (fun ha hi => ?_)
  simp [cand, candCtl, rawOf, encDAB, encDABC, encDA, encDAb, encAB, encA, encD, enc0,
    ImmF.imm14, ImmF.imm32, opndReg, rN, r1]
theorem emwr (k : Ctl) (a : Reg) : Statement (.emwr k a) := by
  refine crew rfl (fun ha hi => ?_)
  simp [cand, candCtl, rawOf, encDAB, encDABC, encDA, encDAb, encAB, encA, encD, enc0,
    ImmF.imm14, ImmF.imm32, opndReg, rN, r1]
theorem allot (k : Ctl) (d : Reg) (a : Reg) : Statement (.allot k d a) := by
  refine crew rfl (fun ha hi => ?_)
  simp [cand, candCtl, rawOf, encDAB, encDABC, encDA, encDAb, encAB, encA, encD, enc0,
    ImmF.imm14, ImmF.imm32, opndReg, rN, r1]
theorem sread (k : Ctl) (d : Reg) (sr : SReg) : Statement (.sread k d sr) := by
  refine crew rfl (fun ha hi => ?_)
  simp [cand, candCtl, rawOf, encDAB, encDABC, encDA, encDAb, encAB, encA, encD, enc0,
    ImmF.imm14, ImmF.imm32, opndReg, rN, r1]
theorem swrite (k : Ctl) (a : Reg) : Statement (.swrite k a) := by
  refine crew rfl (fun ha hi => ?_)
  simp [cand, candCtl, rawOf, encDAB, encDABC, encDA, encDAb, encAB, encA, encD, enc0,
    ImmF.imm14, ImmF.imm32, opndReg, rN, r1]
theorem lget (k : Ctl) (d : Reg) (a : Reg) (b : Reg) : Statement (.lget k d a b) := by
  refine crew rfl (fun ha hi => ?_)
  simp [cand, candCtl, rawOf, encDAB, encDABC, encDA, encDAb, encAB, encA, encD, enc0,
    ImmF.imm14, ImmF.imm32, opndReg, rN, r1]
theorem lset (k : Ctl) (d : Reg) (a : Reg) (b : Reg) : Statement (.lset k d a b) := by
  refine crew rfl (fun ha hi => ?_)
  simp [cand, candCtl, rawOf, encDAB, encDABC, encDA, encDAb, encAB, encA, encD, enc0,
    ImmF.imm14, ImmF.imm32, opndReg, rN, r1]
theorem iadd (k : Ctl) (ty : Ty) (sat : Bool) (d : Reg) (a : Reg) (b : Src) : Statement (.iadd k ty sat d a b) := by
  refine crew rfl (fun ha hi => ?_)
  cases b <;> simp_all [cand, candInt, rawOf, encDAB, encDABC, encDA, encDAb, encAB, encA, encD, enc0,
    ImmF.imm14, ImmF.imm32, opndReg, rN, r1, srcOf, immFits, srcOpnd]
theorem isub (k : Ctl) (ty : Ty) (sat : Bool) (d : Reg) (a : Reg) (b : Src) : Statement (.isub k ty sat d a b) := by
  refine crew rfl (fun ha hi => ?_)
  cases b <;> simp_all [cand, candInt, rawOf, encDAB, encDABC, encDA, encDAb, encAB, encA, encD, enc0,
    ImmF.imm14, ImmF.imm32, opndReg, rN, r1, srcOf, immFits, srcOpnd]
theorem iaddx (k : Ctl) (ty : Ty) (sat : Bool) (d : Reg) (a : Reg) (b : Reg) (c : Reg) : Statement (.iaddx k ty sat d a b c) := by
  refine crew rfl (fun ha hi => ?_)
  simp [cand, candInt, rawOf, encDAB, encDABC, encDA, encDAb, encAB, encA, encD, enc0,
    ImmF.imm14, ImmF.imm32, opndReg, rN, r1]
theorem imul (k : Ctl) (ty : Ty) (d : Reg) (a : Reg) (b : Src) : Statement (.imul k ty d a b) := by
  refine crew rfl (fun ha hi => ?_)
  cases b <;> simp_all [cand, candInt, rawOf, encDAB, encDABC, encDA, encDAb, encAB, encA, encD, enc0,
    ImmF.imm14, ImmF.imm32, opndReg, rN, r1, srcOf, immFits, srcOpnd]
theorem imulh (k : Ctl) (ty : Ty) (d : Reg) (a : Reg) (b : Src) : Statement (.imulh k ty d a b) := by
  refine crew rfl (fun ha hi => ?_)
  cases b <;> simp_all [cand, candInt, rawOf, encDAB, encDABC, encDA, encDAb, encAB, encA, encD, enc0,
    ImmF.imm14, ImmF.imm32, opndReg, rN, r1, srcOf, immFits, srcOpnd]
theorem imad (k : Ctl) (ty : Ty) (d : Reg) (a : Reg) (b : Reg) (c : Reg) : Statement (.imad k ty d a b c) := by
  refine crew rfl (fun ha hi => ?_)
  simp [cand, candInt, rawOf, encDAB, encDABC, encDA, encDAb, encAB, encA, encD, enc0,
    ImmF.imm14, ImmF.imm32, opndReg, rN, r1]
theorem iabs (k : Ctl) (ty : Ty) (sat : Bool) (d : Reg) (a : Reg) : Statement (.iabs k ty sat d a) := by
  refine crew rfl (fun ha hi => ?_)
  simp [cand, candInt, rawOf, encDAB, encDABC, encDA, encDAb, encAB, encA, encD, enc0,
    ImmF.imm14, ImmF.imm32, opndReg, rN, r1]
theorem imin (k : Ctl) (ty : Ty) (d : Reg) (a : Reg) (b : Src) : Statement (.imin k ty d a b) := by
  refine crew rfl (fun ha hi => ?_)
  cases b <;> simp_all [cand, candInt, rawOf, encDAB, encDABC, encDA, encDAb, encAB, encA, encD, enc0,
    ImmF.imm14, ImmF.imm32, opndReg, rN, r1, srcOf, immFits, srcOpnd]
theorem imax (k : Ctl) (ty : Ty) (d : Reg) (a : Reg) (b : Src) : Statement (.imax k ty d a b) := by
  refine crew rfl (fun ha hi => ?_)
  cases b <;> simp_all [cand, candInt, rawOf, encDAB, encDABC, encDA, encDAb, encAB, encA, encD, enc0,
    ImmF.imm14, ImmF.imm32, opndReg, rN, r1, srcOf, immFits, srcOpnd]
theorem iclamp (k : Ctl) (ty : Ty) (d : Reg) (a : Reg) (b : Reg) (c : Reg) : Statement (.iclamp k ty d a b c) := by
  refine crew rfl (fun ha hi => ?_)
  simp [cand, candInt, rawOf, encDAB, encDABC, encDA, encDAb, encAB, encA, encD, enc0,
    ImmF.imm14, ImmF.imm32, opndReg, rN, r1]
theorem icmp (k : Ctl) (ty : Ty) (cond : Cond) (d : Reg) (a : Reg) (b : Src) : Statement (.icmp k ty cond d a b) := by
  refine crew rfl (fun ha hi => ?_)
  cases b <;> simp_all [cand, candInt, rawOf, encDAB, encDABC, encDA, encDAb, encAB, encA, encD, enc0,
    ImmF.imm14, ImmF.imm32, opndReg, rN, r1, srcOf, immFits, srcOpnd]
theorem isel (k : Ctl) (ty : Ty) (d : Reg) (a : Reg) (b : Reg) (c : Reg) : Statement (.isel k ty d a b c) := by
  refine crew rfl (fun ha hi => ?_)
  simp [cand, candInt, rawOf, encDAB, encDABC, encDA, encDAb, encAB, encA, encD, enc0,
    ImmF.imm14, ImmF.imm32, opndReg, rN, r1]
theorem csub (k : Ctl) (ty : Ty) (d : Reg) (a : Reg) (b : Src) : Statement (.csub k ty d a b) := by
  refine crew rfl (fun ha hi => ?_)
  cases b <;> simp_all [cand, candInt, rawOf, encDAB, encDABC, encDA, encDAb, encAB, encA, encD, enc0,
    ImmF.imm14, ImmF.imm32, opndReg, rN, r1, srcOf, immFits, srcOpnd]
theorem lea (k : Ctl) (d : Reg) (a : Reg) (b : Reg) (n : BitVec 14) : Statement (.lea k d a b n) := by
  refine crew rfl (fun ha hi => ?_)
  simp [cand, candInt, rawOf, encDAB, encDABC, encDA, encDAb, encAB, encA, encD, enc0,
    ImmF.imm14, ImmF.imm32, opndReg, rN, r1]
theorem mov (k : Ctl) (ty : Ty) (d : Reg) (a : Reg) : Statement (.mov k ty d a) := by
  refine crew rfl (fun ha hi => ?_)
  simp [cand, candInt, rawOf, encDAB, encDABC, encDA, encDAb, encAB, encA, encD, enc0,
    ImmF.imm14, ImmF.imm32, opndReg, rN, r1]
theorem movi (k : Ctl) (d : Reg) (v : Word) : Statement (.movi k d v) := by
  refine crew rfl (fun ha hi => ?_)
  simp [cand, candInt, rawOf, encDAB, encDABC, encDA, encDAb, encAB, encA, encD, enc0,
    ImmF.imm14, ImmF.imm32, opndReg, rN, r1]
theorem shl (k : Ctl) (ty : Ty) (d : Reg) (a : Reg) (b : Src) : Statement (.shl k ty d a b) := by
  refine crew rfl (fun ha hi => ?_)
  cases b <;> simp_all [cand, candInt, rawOf, encDAB, encDABC, encDA, encDAb, encAB, encA, encD, enc0,
    ImmF.imm14, ImmF.imm32, opndReg, rN, r1, srcOf, immFits, srcOpnd]
theorem shr (k : Ctl) (ty : Ty) (d : Reg) (a : Reg) (b : Src) : Statement (.shr k ty d a b) := by
  refine crew rfl (fun ha hi => ?_)
  cases b <;> simp_all [cand, candInt, rawOf, encDAB, encDABC, encDA, encDAb, encAB, encA, encD, enc0,
    ImmF.imm14, ImmF.imm32, opndReg, rN, r1, srcOf, immFits, srcOpnd]
theorem sar (k : Ctl) (ty : Ty) (d : Reg) (a : Reg) (b : Src) : Statement (.sar k ty d a b) := by
  refine crew rfl (fun ha hi => ?_)
  cases b <;> simp_all [cand, candInt, rawOf, encDAB, encDABC, encDA, encDAb, encAB, encA, encD, enc0,
    ImmF.imm14, ImmF.imm32, opndReg, rN, r1, srcOf, immFits, srcOpnd]
theorem shf (k : Ctl) (ty : Ty) (d : Reg) (a : Reg) (b : Reg) (c : Reg) : Statement (.shf k ty d a b c) := by
  refine crew rfl (fun ha hi => ?_)
  simp [cand, candInt, rawOf, encDAB, encDABC, encDA, encDAb, encAB, encA, encD, enc0,
    ImmF.imm14, ImmF.imm32, opndReg, rN, r1]
theorem and (k : Ctl) (ty : Ty) (d : Reg) (a : Reg) (b : Src) : Statement (.and k ty d a b) := by
  refine crew rfl (fun ha hi => ?_)
  cases b <;> simp_all [cand, candInt, rawOf, encDAB, encDABC, encDA, encDAb, encAB, encA, encD, enc0,
    ImmF.imm14, ImmF.imm32, opndReg, rN, r1, srcOf, immFits, srcOpnd]
theorem or (k : Ctl) (ty : Ty) (d : Reg) (a : Reg) (b : Src) : Statement (.or k ty d a b) := by
  refine crew rfl (fun ha hi => ?_)
  cases b <;> simp_all [cand, candInt, rawOf, encDAB, encDABC, encDA, encDAb, encAB, encA, encD, enc0,
    ImmF.imm14, ImmF.imm32, opndReg, rN, r1, srcOf, immFits, srcOpnd]
theorem xor (k : Ctl) (ty : Ty) (d : Reg) (a : Reg) (b : Src) : Statement (.xor k ty d a b) := by
  refine crew rfl (fun ha hi => ?_)
  cases b <;> simp_all [cand, candInt, rawOf, encDAB, encDABC, encDA, encDAb, encAB, encA, encD, enc0,
    ImmF.imm14, ImmF.imm32, opndReg, rN, r1, srcOf, immFits, srcOpnd]
theorem andn (k : Ctl) (ty : Ty) (d : Reg) (a : Reg) (b : Src) : Statement (.andn k ty d a b) := by
  refine crew rfl (fun ha hi => ?_)
  cases b <;> simp_all [cand, candInt, rawOf, encDAB, encDABC, encDA, encDAb, encAB, encA, encD, enc0,
    ImmF.imm14, ImmF.imm32, opndReg, rN, r1, srcOf, immFits, srcOpnd]
theorem bfx (k : Ctl) (ty : Ty) (d : Reg) (a : Reg) (b : Src) : Statement (.bfx k ty d a b) := by
  refine crew rfl (fun ha hi => ?_)
  cases b <;> simp_all [cand, candInt, rawOf, encDAB, encDABC, encDA, encDAb, encAB, encA, encD, enc0,
    ImmF.imm14, ImmF.imm32, opndReg, rN, r1, srcOf, immFits, srcOpnd]
theorem bfi (k : Ctl) (ty : Ty) (d : Reg) (a : Reg) (b : Reg) (c : Reg) : Statement (.bfi k ty d a b c) := by
  refine crew rfl (fun ha hi => ?_)
  simp [cand, candInt, rawOf, encDAB, encDABC, encDA, encDAb, encAB, encA, encD, enc0,
    ImmF.imm14, ImmF.imm32, opndReg, rN, r1]
theorem popc (k : Ctl) (ty : Ty) (d : Reg) (a : Reg) : Statement (.popc k ty d a) := by
  refine crew rfl (fun ha hi => ?_)
  simp [cand, candInt, rawOf, encDAB, encDABC, encDA, encDAb, encAB, encA, encD, enc0,
    ImmF.imm14, ImmF.imm32, opndReg, rN, r1]
theorem clz (k : Ctl) (ty : Ty) (d : Reg) (a : Reg) : Statement (.clz k ty d a) := by
  refine crew rfl (fun ha hi => ?_)
  simp [cand, candInt, rawOf, encDAB, encDABC, encDA, encDAb, encAB, encA, encD, enc0,
    ImmF.imm14, ImmF.imm32, opndReg, rN, r1]
theorem brev (k : Ctl) (ty : Ty) (d : Reg) (a : Reg) : Statement (.brev k ty d a) := by
  refine crew rfl (fun ha hi => ?_)
  simp [cand, candInt, rawOf, encDAB, encDABC, encDA, encDAb, encAB, encA, encD, enc0,
    ImmF.imm14, ImmF.imm32, opndReg, rN, r1]
theorem prmt (k : Ctl) (d : Reg) (a : Reg) (b : Reg) (c : Reg) : Statement (.prmt k d a b c) := by
  refine crew rfl (fun ha hi => ?_)
  simp [cand, candInt, rawOf, encDAB, encDABC, encDA, encDAb, encAB, encA, encD, enc0,
    ImmF.imm14, ImmF.imm32, opndReg, rN, r1]
theorem fadd (k : Ctl) (ty : Ty) (r : Rnd) (d : Reg) (a : Reg) (b : Src) : Statement (.fadd k ty r d a b) := by
  refine crew rfl (fun ha hi => ?_)
  cases b <;> simp_all [cand, candFloat, rawOf, encDAB, encDABC, encDA, encDAb, encAB, encA, encD, enc0,
    ImmF.imm14, ImmF.imm32, opndReg, rN, r1, srcOf, immFits, srcOpnd]
theorem fsub (k : Ctl) (ty : Ty) (r : Rnd) (d : Reg) (a : Reg) (b : Src) : Statement (.fsub k ty r d a b) := by
  refine crew rfl (fun ha hi => ?_)
  cases b <;> simp_all [cand, candFloat, rawOf, encDAB, encDABC, encDA, encDAb, encAB, encA, encD, enc0,
    ImmF.imm14, ImmF.imm32, opndReg, rN, r1, srcOf, immFits, srcOpnd]
theorem fmul (k : Ctl) (ty : Ty) (r : Rnd) (d : Reg) (a : Reg) (b : Src) : Statement (.fmul k ty r d a b) := by
  refine crew rfl (fun ha hi => ?_)
  cases b <;> simp_all [cand, candFloat, rawOf, encDAB, encDABC, encDA, encDAb, encAB, encA, encD, enc0,
    ImmF.imm14, ImmF.imm32, opndReg, rN, r1, srcOf, immFits, srcOpnd]
theorem fma (k : Ctl) (ty : Ty) (r : Rnd) (d : Reg) (a : Reg) (b : Reg) (c : Reg) : Statement (.fma k ty r d a b c) := by
  refine crew rfl (fun ha hi => ?_)
  simp [cand, candFloat, rawOf, encDAB, encDABC, encDA, encDAb, encAB, encA, encD, enc0,
    ImmF.imm14, ImmF.imm32, opndReg, rN, r1]
theorem fmin (k : Ctl) (ty : Ty) (d : Reg) (a : Reg) (b : Src) : Statement (.fmin k ty d a b) := by
  refine crew rfl (fun ha hi => ?_)
  cases b <;> simp_all [cand, candFloat, rawOf, encDAB, encDABC, encDA, encDAb, encAB, encA, encD, enc0,
    ImmF.imm14, ImmF.imm32, opndReg, rN, r1, srcOf, immFits, srcOpnd]
theorem fmax (k : Ctl) (ty : Ty) (d : Reg) (a : Reg) (b : Src) : Statement (.fmax k ty d a b) := by
  refine crew rfl (fun ha hi => ?_)
  cases b <;> simp_all [cand, candFloat, rawOf, encDAB, encDABC, encDA, encDAb, encAB, encA, encD, enc0,
    ImmF.imm14, ImmF.imm32, opndReg, rN, r1, srcOf, immFits, srcOpnd]
theorem fcmp (k : Ctl) (ty : Ty) (cond : Cond) (d : Reg) (a : Reg) (b : Src) : Statement (.fcmp k ty cond d a b) := by
  refine crew rfl (fun ha hi => ?_)
  cases b <;> simp_all [cand, candFloat, rawOf, encDAB, encDABC, encDA, encDAb, encAB, encA, encD, enc0,
    ImmF.imm14, ImmF.imm32, opndReg, rN, r1, srcOf, immFits, srcOpnd]
theorem frnd (k : Ctl) (ty : Ty) (r : Rnd) (d : Reg) (a : Reg) : Statement (.frnd k ty r d a) := by
  refine crew rfl (fun ha hi => ?_)
  simp [cand, candFloat, rawOf, encDAB, encDABC, encDA, encDAb, encAB, encA, encD, enc0,
    ImmF.imm14, ImmF.imm32, opndReg, rN, r1]
theorem fclass (k : Ctl) (ty : Ty) (d : Reg) (a : Reg) : Statement (.fclass k ty d a) := by
  refine crew rfl (fun ha hi => ?_)
  simp [cand, candFloat, rawOf, encDAB, encDABC, encDA, encDAb, encAB, encA, encD, enc0,
    ImmF.imm14, ImmF.imm32, opndReg, rN, r1]
theorem fscale (k : Ctl) (ty : Ty) (r : Rnd) (d : Reg) (a : Reg) (b : Src) : Statement (.fscale k ty r d a b) := by
  refine crew rfl (fun ha hi => ?_)
  cases b <;> simp_all [cand, candFloat, rawOf, encDAB, encDABC, encDA, encDAb, encAB, encA, encD, enc0,
    ImmF.imm14, ImmF.imm32, opndReg, rN, r1, srcOf, immFits, srcOpnd]
theorem dadd (k : Ctl) (r : Rnd) (d : Reg) (a : Reg) (b : Reg) : Statement (.dadd k r d a b) := by
  refine crew rfl (fun ha hi => ?_)
  simp [cand, candFloat, rawOf, encDAB, encDABC, encDA, encDAb, encAB, encA, encD, enc0,
    ImmF.imm14, ImmF.imm32, opndReg, rN, r1]
theorem dmul (k : Ctl) (r : Rnd) (d : Reg) (a : Reg) (b : Reg) : Statement (.dmul k r d a b) := by
  refine crew rfl (fun ha hi => ?_)
  simp [cand, candFloat, rawOf, encDAB, encDABC, encDA, encDAb, encAB, encA, encD, enc0,
    ImmF.imm14, ImmF.imm32, opndReg, rN, r1]
theorem dfma (k : Ctl) (r : Rnd) (d : Reg) (a : Reg) (b : Reg) (c : Reg) : Statement (.dfma k r d a b c) := by
  refine crew rfl (fun ha hi => ?_)
  simp [cand, candFloat, rawOf, encDAB, encDABC, encDA, encDAb, encAB, encA, encD, enc0,
    ImmF.imm14, ImmF.imm32, opndReg, rN, r1]
theorem dcmp (k : Ctl) (cond : Cond) (d : Reg) (a : Reg) (b : Reg) : Statement (.dcmp k cond d a b) := by
  refine crew rfl (fun ha hi => ?_)
  simp [cand, candFloat, rawOf, encDAB, encDABC, encDA, encDAb, encAB, encA, encD, enc0,
    ImmF.imm14, ImmF.imm32, opndReg, rN, r1]
theorem dotf4 (k : Ctl) (fmt : Ty) (s : BitVec 2) (d : Reg) (a : Reg) (b : Reg) (c : Reg) : Statement (.dotf4 k fmt s d a b c) := by
  refine crew rfl (fun ha hi => ?_)
  simp [cand, candFloat, rawOf, encDAB, encDABC, encDA, encDAb, encAB, encA, encD, enc0,
    ImmF.imm14, ImmF.imm32, opndReg, rN, r1]
theorem dotf6 (k : Ctl) (fmt : Ty) (s : BitVec 2) (d : Reg) (a : Reg) (b : Reg) (c : Reg) : Statement (.dotf6 k fmt s d a b c) := by
  refine crew rfl (fun ha hi => ?_)
  simp [cand, candFloat, rawOf, encDAB, encDABC, encDA, encDAb, encAB, encA, encD, enc0,
    ImmF.imm14, ImmF.imm32, opndReg, rN, r1]
theorem dotf8 (k : Ctl) (fmt : Ty) (s : BitVec 2) (d : Reg) (a : Reg) (b : Reg) (c : Reg) : Statement (.dotf8 k fmt s d a b c) := by
  refine crew rfl (fun ha hi => ?_)
  simp [cand, candFloat, rawOf, encDAB, encDABC, encDA, encDAb, encAB, encA, encD, enc0,
    ImmF.imm14, ImmF.imm32, opndReg, rN, r1]
theorem doth (k : Ctl) (fmt : Ty) (d : Reg) (a : Reg) (b : Reg) (c : Reg) : Statement (.doth k fmt d a b c) := by
  refine crew rfl (fun ha hi => ?_)
  simp [cand, candFloat, rawOf, encDAB, encDABC, encDA, encDAb, encAB, encA, encD, enc0,
    ImmF.imm14, ImmF.imm32, opndReg, rN, r1]
theorem doti8 (k : Ctl) (fmt : Ty) (d : Reg) (a : Reg) (b : Reg) (c : Reg) : Statement (.doti8 k fmt d a b c) := by
  refine crew rfl (fun ha hi => ?_)
  simp [cand, candFloat, rawOf, encDAB, encDABC, encDA, encDAb, encAB, encA, encD, enc0,
    ImmF.imm14, ImmF.imm32, opndReg, rN, r1]
theorem doti4 (k : Ctl) (fmt : Ty) (d : Reg) (a : Reg) (b : Reg) (c : Reg) : Statement (.doti4 k fmt d a b c) := by
  refine crew rfl (fun ha hi => ?_)
  simp [cand, candFloat, rawOf, encDAB, encDABC, encDA, encDAb, encAB, encA, encD, enc0,
    ImmF.imm14, ImmF.imm32, opndReg, rN, r1]
theorem cvt (k : Ctl) (dt : Ty) (st : Ty) (r : Rnd) (sat : Bool) (d : Reg) (a : Reg) : Statement (.cvt k dt st r sat d a) := by
  refine crew rfl (fun ha hi => ?_)
  simp [cand, candFloat, rawOf, encDAB, encDABC, encDA, encDAb, encAB, encA, encD, enc0,
    ImmF.imm14, ImmF.imm32, opndReg, rN, r1]
theorem pack (k : Ctl) (dt : Ty) (st : Ty) (r : Rnd) (sat : Bool) (d : Reg) (a : Reg) (b : Reg) (c : Reg) : Statement (.pack k dt st r sat d a b c) := by
  refine crew rfl (fun ha hi => ?_)
  simp [cand, candFloat, rawOf, encDAB, encDABC, encDA, encDAb, encAB, encA, encD, enc0,
    ImmF.imm14, ImmF.imm32, opndReg, rN, r1]
theorem unpack (k : Ctl) (dt : Ty) (st : Ty) (r : Rnd) (d : Reg) (a : Reg) (b : Reg) : Statement (.unpack k dt st r d a b) := by
  refine crew rfl (fun ha hi => ?_)
  simp [cand, candFloat, rawOf, encDAB, encDABC, encDA, encDAb, encAB, encA, encD, enc0,
    ImmF.imm14, ImmF.imm32, opndReg, rN, r1]
theorem mxscale (k : Ctl) (st : Ty) (d : Reg) (a : Reg) (b : Reg) : Statement (.mxscale k st d a b) := by
  refine crew rfl (fun ha hi => ?_)
  simp [cand, candFloat, rawOf, encDAB, encDABC, encDA, encDAb, encAB, encA, encD, enc0,
    ImmF.imm14, ImmF.imm32, opndReg, rN, r1]
theorem rand (k : Ctl) (d : Reg) (a : Reg) (b : Reg) : Statement (.rand k d a b) := by
  refine crew rfl (fun ha hi => ?_)
  simp [cand, candFloat, rawOf, encDAB, encDABC, encDA, encDAb, encAB, encA, encD, enc0,
    ImmF.imm14, ImmF.imm32, opndReg, rN, r1]
theorem fsint (k : Ctl) (d : Reg) (a : Reg) : Statement (.fsint k d a) := by
  refine crew rfl (fun ha hi => ?_)
  simp [cand, candFloat, rawOf, encDAB, encDABC, encDA, encDAb, encAB, encA, encD, enc0,
    ImmF.imm14, ImmF.imm32, opndReg, rN, r1]
theorem fcost (k : Ctl) (d : Reg) (a : Reg) : Statement (.fcost k d a) := by
  refine crew rfl (fun ha hi => ?_)
  simp [cand, candFloat, rawOf, encDAB, encDABC, encDA, encDAb, encAB, encA, encD, enc0,
    ImmF.imm14, ImmF.imm32, opndReg, rN, r1]
theorem fexp2 (k : Ctl) (d : Reg) (a : Reg) : Statement (.fexp2 k d a) := by
  refine crew rfl (fun ha hi => ?_)
  simp [cand, candFloat, rawOf, encDAB, encDABC, encDA, encDAb, encAB, encA, encD, enc0,
    ImmF.imm14, ImmF.imm32, opndReg, rN, r1]
theorem flog2 (k : Ctl) (d : Reg) (a : Reg) : Statement (.flog2 k d a) := by
  refine crew rfl (fun ha hi => ?_)
  simp [cand, candFloat, rawOf, encDAB, encDABC, encDA, encDAb, encAB, encA, encD, enc0,
    ImmF.imm14, ImmF.imm32, opndReg, rN, r1]
theorem frcp (k : Ctl) (d : Reg) (a : Reg) : Statement (.frcp k d a) := by
  refine crew rfl (fun ha hi => ?_)
  simp [cand, candFloat, rawOf, encDAB, encDABC, encDA, encDAb, encAB, encA, encD, enc0,
    ImmF.imm14, ImmF.imm32, opndReg, rN, r1]
theorem frsq (k : Ctl) (d : Reg) (a : Reg) : Statement (.frsq k d a) := by
  refine crew rfl (fun ha hi => ?_)
  simp [cand, candFloat, rawOf, encDAB, encDABC, encDA, encDAb, encAB, encA, encD, enc0,
    ImmF.imm14, ImmF.imm32, opndReg, rN, r1]
theorem fsqrt (k : Ctl) (d : Reg) (a : Reg) : Statement (.fsqrt k d a) := by
  refine crew rfl (fun ha hi => ?_)
  simp [cand, candFloat, rawOf, encDAB, encDABC, encDA, encDAb, encAB, encA, encD, enc0,
    ImmF.imm14, ImmF.imm32, opndReg, rN, r1]
theorem ftanh (k : Ctl) (d : Reg) (a : Reg) : Statement (.ftanh k d a) := by
  refine crew rfl (fun ha hi => ?_)
  simp [cand, candFloat, rawOf, encDAB, encDABC, encDA, encDAb, encAB, encA, encD, enc0,
    ImmF.imm14, ImmF.imm32, opndReg, rN, r1]
theorem rmax (k : Ctl) (ty : Ty) (d : Reg) (a : Reg) : Statement (.rmax k ty d a) := by
  refine crew rfl (fun ha hi => ?_)
  simp [cand, candFloat, rawOf, encDAB, encDABC, encDA, encDAb, encAB, encA, encD, enc0,
    ImmF.imm14, ImmF.imm32, opndReg, rN, r1]
theorem rsum (k : Ctl) (ty : Ty) (r : Rnd) (d : Reg) (a : Reg) : Statement (.rsum k ty r d a) := by
  refine crew rfl (fun ha hi => ?_)
  simp [cand, candFloat, rawOf, encDAB, encDABC, encDA, encDAb, encAB, encA, encD, enc0,
    ImmF.imm14, ImmF.imm32, opndReg, rN, r1]
theorem rstat (k : Ctl) (d : Reg) (a : Reg) : Statement (.rstat k d a) := by
  refine crew rfl (fun ha hi => ?_)
  simp [cand, candFloat, rawOf, encDAB, encDABC, encDA, encDAb, encAB, encA, encD, enc0,
    ImmF.imm14, ImmF.imm32, opndReg, rN, r1]
theorem smxup (k : Ctl) (d : Reg) (a : Reg) : Statement (.smxup k d a) := by
  refine crew rfl (fun ha hi => ?_)
  simp [cand, candFloat, rawOf, encDAB, encDABC, encDA, encDAb, encAB, encA, encD, enc0,
    ImmF.imm14, ImmF.imm32, opndReg, rN, r1]
theorem shfl (k : Ctl) (op : ShflOp) (ty : Ty) (d : Reg) (a : Reg) (b : Reg) (c : Reg) : Statement (.shfl k op ty d a b c) := by
  refine crew rfl (fun ha hi => ?_)
  simp [cand, candMem, rawOf, encDAB, encDABC, encDA, encDAb, encAB, encA, encD, enc0,
    ImmF.imm14, ImmF.imm32, opndReg, rN, r1]
theorem ballot (k : Ctl) (d : Reg) (a : Reg) (b : Reg) : Statement (.ballot k d a b) := by
  refine crew rfl (fun ha hi => ?_)
  simp [cand, candMem, rawOf, encDAB, encDABC, encDA, encDAb, encAB, encA, encD, enc0,
    ImmF.imm14, ImmF.imm32, opndReg, rN, r1]
theorem vote (k : Ctl) (op : VoteOp) (d : Reg) (a : Reg) (b : Reg) : Statement (.vote k op d a b) := by
  refine crew rfl (fun ha hi => ?_)
  simp [cand, candMem, rawOf, encDAB, encDABC, encDA, encDAb, encAB, encA, encD, enc0,
    ImmF.imm14, ImmF.imm32, opndReg, rN, r1]
theorem lred (k : Ctl) (op : RmwOp) (ty : Ty) (d : Reg) (a : Reg) (b : Reg) : Statement (.lred k op ty d a b) := by
  refine crew rfl (fun ha hi => ?_)
  simp [cand, candMem, rawOf, encDAB, encDABC, encDA, encDAb, encAB, encA, encD, enc0,
    ImmF.imm14, ImmF.imm32, opndReg, rN, r1]
theorem lscan (k : Ctl) (op : RmwOp) (ty : Ty) (d : Reg) (a : Reg) (b : Reg) : Statement (.lscan k op ty d a b) := by
  refine crew rfl (fun ha hi => ?_)
  simp [cand, candMem, rawOf, encDAB, encDABC, encDA, encDAb, encAB, encA, encD, enc0,
    ImmF.imm14, ImmF.imm32, opndReg, rN, r1]
theorem laneMatch (k : Ctl) (op : MatchOp) (ty : Ty) (d : Reg) (a : Reg) (b : Reg) : Statement (.laneMatch k op ty d a b) := by
  refine crew rfl (fun ha hi => ?_)
  simp [cand, candMem, rawOf, encDAB, encDABC, encDA, encDAb, encAB, encA, encD, enc0,
    ImmF.imm14, ImmF.imm32, opndReg, rN, r1]
theorem bcast (k : Ctl) (ty : Ty) (d : Reg) (a : Reg) (b : Reg) (c : Reg) : Statement (.bcast k ty d a b c) := by
  refine crew rfl (fun ha hi => ?_)
  simp [cand, candMem, rawOf, encDAB, encDABC, encDA, encDAb, encAB, encA, encD, enc0,
    ImmF.imm14, ImmF.imm32, opndReg, rN, r1]
theorem elect (k : Ctl) (d : Reg) (a : Reg) : Statement (.elect k d a) := by
  refine crew rfl (fun ha hi => ?_)
  simp [cand, candMem, rawOf, encDAB, encDABC, encDA, encDAb, encAB, encA, encD, enc0,
    ImmF.imm14, ImmF.imm32, opndReg, rN, r1]
theorem ld (k : Ctl) (w : Width) (sx : Bool) (h : Hint) (d : Reg) (a : Reg) (off : Word) : Statement (.ld k w sx h d a off) := by
  refine crew rfl (fun ha hi => ?_)
  simp [cand, candMem, rawOf, encDAB, encDABC, encDA, encDAb, encAB, encA, encD, enc0, opndReg, rN, r1, RoundTrip.off hi]
theorem st (k : Ctl) (w : Width) (h : Hint) (a : Reg) (b : Reg) (off : Word) : Statement (.st k w h a b off) := by
  refine crew rfl (fun ha hi => ?_)
  simp [cand, candMem, rawOf, encDAB, encDABC, encDA, encDAb, encAB, encA, encD, enc0, opndReg, rN, r1, RoundTrip.off hi]
theorem atom (k : Ctl) (op : RmwOp) (ty : Ty) (d : Reg) (a : Reg) (b : Reg) (c : Reg) (off : Word) : Statement (.atom k op ty d a b c off) := by
  refine crew rfl (fun ha hi => ?_)
  simp [cand, candMem, rawOf, encDAB, encDABC, encDA, encDAb, encAB, encA, encD, enc0, opndReg, rN, r1, RoundTrip.off hi]
  simp [accepts] at ha
  split <;> simp_all
theorem red (k : Ctl) (op : RmwOp) (ty : Ty) (a : Reg) (b : Reg) (off : Word) : Statement (.red k op ty a b off) := by
  refine crew rfl (fun ha hi => ?_)
  simp [cand, candMem, rawOf, encDAB, encDABC, encDA, encDAb, encAB, encA, encD, enc0, opndReg, rN, r1, RoundTrip.off hi]
theorem mwait (k : Ctl) (cond : Cond) (ty : Ty) (a : Reg) (b : Reg) (off : Word) : Statement (.mwait k cond ty a b off) := by
  refine crew rfl (fun ha hi => ?_)
  simp [cand, candMem, rawOf, encDAB, encDABC, encDA, encDAb, encAB, encA, encD, enc0, opndReg, rN, r1, RoundTrip.off hi]
theorem pref (k : Ctl) (h : Hint) (a : Reg) (off : Word) : Statement (.pref k h a off) := by
  refine crew rfl (fun ha hi => ?_)
  simp [cand, candMem, rawOf, encDAB, encDABC, encDA, encDAb, encAB, encA, encD, enc0, opndReg, rN, r1, RoundTrip.off hi]
theorem mfence (k : Ctl) (eng : Bool) (peer : Bool) : Statement (.mfence k eng peer) := by
  refine crew rfl (fun ha hi => ?_)
  simp [cand, candMem, rawOf, encDAB, encDABC, encDA, encDAb, encAB, encA, encD, enc0,
    ImmF.imm14, ImmF.imm32, opndReg, rN, r1]
  cases eng <;> cases peer <;> simp [modF]
theorem mma (k : Ctl) (fmt : Ty) (reuse : Bool) (s : BitVec 2) (d : Reg) (a : Reg) (b : Reg) (c : Reg) : Statement (.mma k fmt reuse s d a b c) := by
  refine crew rfl (fun ha hi => ?_)
  simp [cand, candMem, rawOf, encDAB, encDABC, encDA, encDAb, encAB, encA, encD, enc0,
    ImmF.imm14, ImmF.imm32, opndReg, rN, r1]
  simp [accepts] at ha
  split <;> simp_all <;> grind
theorem mbatch (k : Ctl) (d : Reg) : Statement (.mbatch k d) := by
  refine crew rfl (fun ha hi => ?_)
  simp [cand, candMem, rawOf, encDAB, encDABC, encDA, encDAb, encAB, encA, encD, enc0,
    ImmF.imm14, ImmF.imm32, opndReg, rN, r1]
theorem sumdeclDecl (k : Ctl) (a : Reg) (b : Reg) : Statement (.sumdeclDecl k a b) := by
  refine crew rfl (fun ha hi => ?_)
  simp [cand, candMem, rawOf, encDAB, encDABC, encDA, encDAb, encAB, encA, encD, enc0,
    ImmF.imm14, ImmF.imm32, opndReg, rN, r1]
theorem sumdeclFree (k : Ctl) (a : Reg) : Statement (.sumdeclFree k a) := by
  refine crew rfl (fun ha hi => ?_)
  simp [cand, candMem, rawOf, encDAB, encDABC, encDA, encDAb, encAB, encA, encD, enc0,
    ImmF.imm14, ImmF.imm32, opndReg, rN, r1]
theorem sumdeclTl (k : Ctl) (a : Reg) : Statement (.sumdeclTl k a) := by
  refine crew rfl (fun ha hi => ?_)
  simp [cand, candMem, rawOf, encDAB, encDABC, encDA, encDAb, encAB, encA, encD, enc0,
    ImmF.imm14, ImmF.imm32, opndReg, rN, r1]
theorem sumrd (k : Ctl) (op : SumRdOp) (d : Reg) (a : Reg) (off : Word) : Statement (.sumrd k op d a off) := by
  refine crew rfl (fun ha hi => ?_)
  simp [cand, candMem, rawOf, encDAB, encDABC, encDA, encDAb, encAB, encA, encD, enc0, opndReg, rN, r1, RoundTrip.off hi]
theorem sumrdClr (k : Ctl) (op : SumRdOp) (d : Reg) (a : Reg) (off : Word) : Statement (.sumrdClr k op d a off) := by
  refine crew rfl (fun ha hi => ?_)
  simp [cand, candMem, rawOf, encDAB, encDABC, encDA, encDAb, encAB, encA, encD, enc0, opndReg, rN, r1, RoundTrip.off hi]
theorem sumred (k : Ctl) (op : SumRedOp) (a : Reg) (b : Reg) (off : Word) : Statement (.sumred k op a b off) := by
  refine crew rfl (fun ha hi => ?_)
  simp [cand, candMem, rawOf, encDAB, encDABC, encDA, encDAb, encAB, encA, encD, enc0, opndReg, rN, r1, RoundTrip.off hi]
theorem sumz (k : Ctl) (a : Reg) (b : Reg) : Statement (.sumz k a b) := by
  refine crew rfl (fun ha hi => ?_)
  simp [cand, candMem, rawOf, encDAB, encDABC, encDA, encDAb, encAB, encA, encD, enc0,
    ImmF.imm14, ImmF.imm32, opndReg, rN, r1]
theorem sumdrain (k : Ctl) (clr : Bool) (a : Reg) (b : Reg) : Statement (.sumdrain k clr a b) := by
  refine crew rfl (fun ha hi => ?_)
  simp [cand, candMem, rawOf, encDAB, encDABC, encDA, encDAb, encAB, encA, encD, enc0,
    ImmF.imm14, ImmF.imm32, opndReg, rN, r1]
theorem sumq (k : Ctl) (d : Reg) (a : Reg) : Statement (.sumq k d a) := by
  refine crew rfl (fun ha hi => ?_)
  simp [cand, candMem, rawOf, encDAB, encDABC, encDA, encDAb, encAB, encA, encD, enc0,
    ImmF.imm14, ImmF.imm32, opndReg, rN, r1]
theorem barinitPh (k : Ctl) (bent : Bool) (a : Reg) (b : Reg) (c : Reg) : Statement (.barinitPh k bent a b c) := by
  refine crew rfl (fun ha hi => ?_)
  simp [cand, candObj, rawOf, encDAB, encDABC, encDA, encDAb, encAB, encA, encD, enc0,
    ImmF.imm14, ImmF.imm32, opndReg, rN, r1]
theorem barinitTl (k : Ctl) (a : Reg) (b : Reg) (c : Reg) : Statement (.barinitTl k a b c) := by
  refine crew rfl (fun ha hi => ?_)
  simp [cand, candObj, rawOf, encDAB, encDABC, encDA, encDAb, encAB, encA, encD, enc0,
    ImmF.imm14, ImmF.imm32, opndReg, rN, r1]
theorem barinitEng (k : Ctl) (a : Reg) (b : Reg) (c : Reg) : Statement (.barinitEng k a b c) := by
  refine crew rfl (fun ha hi => ?_)
  simp [cand, candObj, rawOf, encDAB, encDABC, encDA, encDAb, encAB, encA, encD, enc0,
    ImmF.imm14, ImmF.imm32, opndReg, rN, r1]
theorem arrive (k : Ctl) (bent : Bool) (a : Reg) (b : Reg) : Statement (.arrive k bent a b) := by
  refine crew rfl (fun ha hi => ?_)
  simp [cand, candObj, rawOf, encDAB, encDABC, encDA, encDAb, encAB, encA, encD, enc0,
    ImmF.imm14, ImmF.imm32, opndReg, rN, r1]
theorem expect (k : Ctl) (a : Reg) (b : Reg) : Statement (.expect k a b) := by
  refine crew rfl (fun ha hi => ?_)
  simp [cand, candObj, rawOf, encDAB, encDABC, encDA, encDAb, encAB, encA, encD, enc0,
    ImmF.imm14, ImmF.imm32, opndReg, rN, r1]
theorem wait (k : Ctl) (a : Reg) (b : Reg) : Statement (.wait k a b) := by
  refine crew rfl (fun ha hi => ?_)
  simp [cand, candObj, rawOf, encDAB, encDABC, encDA, encDAb, encAB, encA, encD, enc0,
    ImmF.imm14, ImmF.imm32, opndReg, rN, r1]
theorem tladvMax (k : Ctl) (a : Reg) (b : Reg) : Statement (.tladvMax k a b) := by
  refine crew rfl (fun ha hi => ?_)
  simp [cand, candObj, rawOf, encDAB, encDABC, encDA, encDAb, encAB, encA, encD, enc0,
    ImmF.imm14, ImmF.imm32, opndReg, rN, r1]
theorem tladvAdd (k : Ctl) (a : Reg) (b : Reg) : Statement (.tladvAdd k a b) := by
  refine crew rfl (fun ha hi => ?_)
  simp [cand, candObj, rawOf, encDAB, encDABC, encDA, encDAb, encAB, encA, encD, enc0,
    ImmF.imm14, ImmF.imm32, opndReg, rN, r1]
theorem copy (k : Ctl) (a : Reg) : Statement (.copy k a) := by
  refine crew rfl (fun ha hi => ?_)
  simp [cand, candObj, rawOf, encDAB, encDABC, encDA, encDAb, encAB, encA, encD, enc0,
    ImmF.imm14, ImmF.imm32, opndReg, rN, r1]
theorem gather (k : Ctl) (a : Reg) : Statement (.gather k a) := by
  refine crew rfl (fun ha hi => ?_)
  simp [cand, candObj, rawOf, encDAB, encDABC, encDA, encDAb, encAB, encA, encD, enc0,
    ImmF.imm14, ImmF.imm32, opndReg, rN, r1]
theorem scatter (k : Ctl) (a : Reg) : Statement (.scatter k a) := by
  refine crew rfl (fun ha hi => ?_)
  simp [cand, candObj, rawOf, encDAB, encDABC, encDA, encDAb, encAB, encA, encD, enc0,
    ImmF.imm14, ImmF.imm32, opndReg, rN, r1]
theorem encode (k : Ctl) (a : Reg) : Statement (.encode k a) := by
  refine crew rfl (fun ha hi => ?_)
  simp [cand, candObj, rawOf, encDAB, encDABC, encDA, encDAb, encAB, encA, encD, enc0,
    ImmF.imm14, ImmF.imm32, opndReg, rN, r1]
theorem batch (k : Ctl) (d : Reg) : Statement (.batch k d) := by
  refine crew rfl (fun ha hi => ?_)
  simp [cand, candObj, rawOf, encDAB, encDABC, encDA, encDAb, encAB, encA, encD, enc0,
    ImmF.imm14, ImmF.imm32, opndReg, rN, r1]
theorem barq (k : Ctl) (w : BitVec 2) (d : Reg) (a : Reg) : Statement (.barq k w d a) := by
  refine crew rfl (fun ha hi => ?_)
  simp [cand, candObj, rawOf, encDAB, encDABC, encDA, encDAb, encAB, encA, encD, enc0,
    ImmF.imm14, ImmF.imm32, opndReg, rN, r1]
  clear ha hi
  revert w
  decide
theorem tshape (k : Ctl) (d : Reg) (a : Reg) (b : Reg) : Statement (.tshape k d a b) := by
  refine crew rfl (fun ha hi => ?_)
  simp [cand, candObj, rawOf, encDAB, encDABC, encDA, encDAb, encAB, encA, encD, enc0,
    ImmF.imm14, ImmF.imm32, opndReg, rN, r1]
theorem tfork (k : Ctl) (d : Reg) (a : Reg) (b : Reg) (c : Reg) : Statement (.tfork k d a b c) := by
  refine crew rfl (fun ha hi => ?_)
  simp [cand, candObj, rawOf, encDAB, encDABC, encDA, encDAb, encAB, encA, encD, enc0,
    ImmF.imm14, ImmF.imm32, opndReg, rN, r1]
theorem tprune (k : Ctl) (d : Reg) (a : Reg) (b : Reg) : Statement (.tprune k d a b) := by
  refine crew rfl (fun ha hi => ?_)
  simp [cand, candObj, rawOf, encDAB, encDABC, encDA, encDAb, encAB, encA, encD, enc0,
    ImmF.imm14, ImmF.imm32, opndReg, rN, r1]
theorem tcommit (k : Ctl) (d : Reg) (a : Reg) (b : Reg) : Statement (.tcommit k d a b) := by
  refine crew rfl (fun ha hi => ?_)
  simp [cand, candObj, rawOf, encDAB, encDABC, encDA, encDAb, encAB, encA, encD, enc0,
    ImmF.imm14, ImmF.imm32, opndReg, rN, r1]
theorem tmask (k : Ctl) (d : Reg) (a : Reg) (b : Reg) : Statement (.tmask k d a b) := by
  refine crew rfl (fun ha hi => ?_)
  simp [cand, candObj, rawOf, encDAB, encDABC, encDA, encDAb, encAB, encA, encD, enc0,
    ImmF.imm14, ImmF.imm32, opndReg, rN, r1]
theorem tmaskVfy (k : Ctl) (d : Reg) (a : Reg) (b : Reg) : Statement (.tmaskVfy k d a b) := by
  refine crew rfl (fun ha hi => ?_)
  simp [cand, candObj, rawOf, encDAB, encDABC, encDA, encDAb, encAB, encA, encD, enc0,
    ImmF.imm14, ImmF.imm32, opndReg, rN, r1]
theorem tinfoLo (k : Ctl) (d : Reg) (a : Reg) (b : Reg) : Statement (.tinfoLo k d a b) := by
  refine crew rfl (fun ha hi => ?_)
  simp [cand, candObj, rawOf, encDAB, encDABC, encDA, encDAb, encAB, encA, encD, enc0,
    ImmF.imm14, ImmF.imm32, opndReg, rN, r1]
theorem tinfoHi (k : Ctl) (d : Reg) (a : Reg) (b : Reg) : Statement (.tinfoHi k d a b) := by
  refine crew rfl (fun ha hi => ?_)
  simp [cand, candObj, rawOf, encDAB, encDABC, encDA, encDAb, encAB, encA, encD, enc0,
    ImmF.imm14, ImmF.imm32, opndReg, rN, r1]
theorem tinfoTree (k : Ctl) (d : Reg) (a : Reg) (b : Reg) : Statement (.tinfoTree k d a b) := by
  refine crew rfl (fun ha hi => ?_)
  simp [cand, candObj, rawOf, encDAB, encDABC, encDA, encDAb, encAB, encA, encD, enc0,
    ImmF.imm14, ImmF.imm32, opndReg, rN, r1]
theorem tacc (k : Ctl) (d : Reg) (a : Reg) (b : Reg) (c : Reg) : Statement (.tacc k d a b c) := by
  refine crew rfl (fun ha hi => ?_)
  simp [cand, candObj, rawOf, encDAB, encDABC, encDA, encDAb, encAB, encA, encD, enc0,
    ImmF.imm14, ImmF.imm32, opndReg, rN, r1]
theorem tappend (k : Ctl) (d : Reg) (a : Reg) (b : Reg) : Statement (.tappend k d a b) := by
  refine crew rfl (fun ha hi => ?_)
  simp [cand, candObj, rawOf, encDAB, encDABC, encDA, encDAb, encAB, encA, encD, enc0,
    ImmF.imm14, ImmF.imm32, opndReg, rN, r1]
theorem tnew (k : Ctl) (d : Reg) (a : Reg) : Statement (.tnew k d a) := by
  refine crew rfl (fun ha hi => ?_)
  simp [cand, candObj, rawOf, encDAB, encDABC, encDA, encDAb, encAB, encA, encD, enc0,
    ImmF.imm14, ImmF.imm32, opndReg, rN, r1]
theorem tfree (k : Ctl) (d : Reg) (a : Reg) : Statement (.tfree k d a) := by
  refine crew rfl (fun ha hi => ?_)
  simp [cand, candObj, rawOf, encDAB, encDABC, encDA, encDAb, encAB, encA, encD, enc0,
    ImmF.imm14, ImmF.imm32, opndReg, rN, r1]
theorem pgpin (k : Ctl) (d : Reg) (a : Reg) (b : Reg) : Statement (.pgpin k d a b) := by
  refine crew rfl (fun ha hi => ?_)
  simp [cand, candObj, rawOf, encDAB, encDABC, encDA, encDAb, encAB, encA, encD, enc0,
    ImmF.imm14, ImmF.imm32, opndReg, rN, r1]
theorem pgunpin (k : Ctl) (d : Reg) (a : Reg) (b : Reg) : Statement (.pgunpin k d a b) := by
  refine crew rfl (fun ha hi => ?_)
  simp [cand, candObj, rawOf, encDAB, encDABC, encDA, encDAb, encAB, encA, encD, enc0,
    ImmF.imm14, ImmF.imm32, opndReg, rN, r1]
theorem pgcowMark (k : Ctl) (d : Reg) (a : Reg) (b : Reg) : Statement (.pgcowMark k d a b) := by
  refine crew rfl (fun ha hi => ?_)
  simp [cand, candObj, rawOf, encDAB, encDABC, encDA, encDAb, encAB, encA, encD, enc0,
    ImmF.imm14, ImmF.imm32, opndReg, rN, r1]
theorem pgcowClear (k : Ctl) (d : Reg) (a : Reg) (b : Reg) : Statement (.pgcowClear k d a b) := by
  refine crew rfl (fun ha hi => ?_)
  simp [cand, candObj, rawOf, encDAB, encDABC, encDA, encDAb, encAB, encA, encD, enc0,
    ImmF.imm14, ImmF.imm32, opndReg, rN, r1]
theorem pgqNext (k : Ctl) (d : Reg) (a : Reg) : Statement (.pgqNext k d a) := by
  refine crew rfl (fun ha hi => ?_)
  simp [cand, candObj, rawOf, encDAB, encDABC, encDA, encDAb, encAB, encA, encD, enc0,
    ImmF.imm14, ImmF.imm32, opndReg, rN, r1]
theorem pgqDone (k : Ctl) (d : Reg) (a : Reg) : Statement (.pgqDone k d a) := by
  refine crew rfl (fun ha hi => ?_)
  simp [cand, candObj, rawOf, encDAB, encDABC, encDA, encDAb, encAB, encA, encD, enc0,
    ImmF.imm14, ImmF.imm32, opndReg, rN, r1]
theorem pgqFail (k : Ctl) (d : Reg) (a : Reg) : Statement (.pgqFail k d a) := by
  refine crew rfl (fun ha hi => ?_)
  simp [cand, candObj, rawOf, encDAB, encDABC, encDA, encDAb, encAB, encA, encD, enc0,
    ImmF.imm14, ImmF.imm32, opndReg, rN, r1]
theorem pgqInval (k : Ctl) (d : Reg) (a : Reg) : Statement (.pgqInval k d a) := by
  refine crew rfl (fun ha hi => ?_)
  simp [cand, candObj, rawOf, encDAB, encDABC, encDA, encDAb, encAB, encA, encD, enc0,
    ImmF.imm14, ImmF.imm32, opndReg, rN, r1]
theorem smap (k : Ctl) (d : Reg) (a : Reg) (b : Reg) : Statement (.smap k d a b) := by
  refine crew rfl (fun ha hi => ?_)
  simp [cand, candObj, rawOf, encDAB, encDABC, encDA, encDAb, encAB, encA, encD, enc0,
    ImmF.imm14, ImmF.imm32, opndReg, rN, r1]
theorem sflushWb (k : Ctl) (a : Reg) (b : Reg) : Statement (.sflushWb k a b) := by
  refine crew rfl (fun ha hi => ?_)
  simp [cand, candObj, rawOf, encDAB, encDABC, encDA, encDAb, encAB, encA, encD, enc0,
    ImmF.imm14, ImmF.imm32, opndReg, rN, r1]
theorem sflushInv (k : Ctl) (a : Reg) (b : Reg) : Statement (.sflushInv k a b) := by
  refine crew rfl (fun ha hi => ?_)
  simp [cand, candObj, rawOf, encDAB, encDABC, encDA, encDAb, encAB, encA, encD, enc0,
    ImmF.imm14, ImmF.imm32, opndReg, rN, r1]
theorem xput (k : Ctl) (w : Width) (a : Reg) (b : Reg) : Statement (.xput k w a b) := by
  refine crew rfl (fun ha hi => ?_)
  simp [cand, candSys, rawOf, encDAB, encDABC, encDA, encDAb, encAB, encA, encD, enc0,
    ImmF.imm14, ImmF.imm32, opndReg, rN, r1]
theorem xget (k : Ctl) (w : Width) (d : Reg) (a : Reg) : Statement (.xget k w d a) := by
  refine crew rfl (fun ha hi => ?_)
  simp [cand, candSys, rawOf, encDAB, encDABC, encDA, encDAb, encAB, encA, encD, enc0,
    ImmF.imm14, ImmF.imm32, opndReg, rN, r1]
theorem xred (k : Ctl) (op : RmwOp) (ty : Ty) (a : Reg) (b : Reg) (s : BitVec 14) : Statement (.xred k op ty a b s) := by
  refine crew rfl (fun ha hi => ?_)
  simp [cand, candSys, rawOf, encDAB, encDABC, encDA, encDAb, encAB, encA, encD, enc0,
    ImmF.imm14, ImmF.imm32, opndReg, rN, r1]
theorem xsigArr (k : Ctl) (a : Reg) (b : Reg) : Statement (.xsigArr k a b) := by
  refine crew rfl (fun ha hi => ?_)
  simp [cand, candSys, rawOf, encDAB, encDABC, encDA, encDAb, encAB, encA, encD, enc0,
    ImmF.imm14, ImmF.imm32, opndReg, rN, r1]
theorem xsigMax (k : Ctl) (a : Reg) (b : Reg) : Statement (.xsigMax k a b) := by
  refine crew rfl (fun ha hi => ?_)
  simp [cand, candSys, rawOf, encDAB, encDABC, encDA, encDAb, encAB, encA, encD, enc0,
    ImmF.imm14, ImmF.imm32, opndReg, rN, r1]
theorem xfence (k : Ctl) : Statement (.xfence k) := by
  refine crew rfl (fun ha hi => ?_)
  simp [cand, candSys, rawOf, encDAB, encDABC, encDA, encDAb, encAB, encA, encD, enc0,
    ImmF.imm14, ImmF.imm32, opndReg, rN, r1]
theorem xprobe (k : Ctl) (d : Reg) (a : Reg) : Statement (.xprobe k d a) := by
  refine crew rfl (fun ha hi => ?_)
  simp [cand, candSys, rawOf, encDAB, encDABC, encDA, encDAb, encAB, encA, encD, enc0,
    ImmF.imm14, ImmF.imm32, opndReg, rN, r1]
theorem launch (k : Ctl) (d : Reg) (a : Reg) : Statement (.launch k d a) := by
  refine crew rfl (fun ha hi => ?_)
  simp [cand, candSys, rawOf, encDAB, encDABC, encDA, encDAb, encAB, encA, encD, enc0,
    ImmF.imm14, ImmF.imm32, opndReg, rN, r1]
theorem qctlHold (k : Ctl) (d : Reg) (a : Reg) : Statement (.qctlHold k d a) := by
  refine crew rfl (fun ha hi => ?_)
  simp [cand, candSys, rawOf, encDAB, encDABC, encDA, encDAb, encAB, encA, encD, enc0,
    ImmF.imm14, ImmF.imm32, opndReg, rN, r1]
theorem qctlRelease (k : Ctl) (d : Reg) (a : Reg) : Statement (.qctlRelease k d a) := by
  refine crew rfl (fun ha hi => ?_)
  simp [cand, candSys, rawOf, encDAB, encDABC, encDA, encDAb, encAB, encA, encD, enc0,
    ImmF.imm14, ImmF.imm32, opndReg, rN, r1]
theorem qctlFlush (k : Ctl) (d : Reg) (a : Reg) : Statement (.qctlFlush k d a) := by
  refine crew rfl (fun ha hi => ?_)
  simp [cand, candSys, rawOf, encDAB, encDABC, encDA, encDAb, encAB, encA, encD, enc0,
    ImmF.imm14, ImmF.imm32, opndReg, rN, r1]
theorem qctlClass (k : Ctl) (d : Reg) (a : Reg) (b : Reg) : Statement (.qctlClass k d a b) := by
  refine crew rfl (fun ha hi => ?_)
  simp [cand, candSys, rawOf, encDAB, encDABC, encDA, encDAb, encAB, encA, encD, enc0,
    ImmF.imm14, ImmF.imm32, opndReg, rN, r1]
theorem qctlQuery (k : Ctl) (d : Reg) (a : Reg) : Statement (.qctlQuery k d a) := by
  refine crew rfl (fun ha hi => ?_)
  simp [cand, candSys, rawOf, encDAB, encDABC, encDA, encDAb, encAB, encA, encD, enc0,
    ImmF.imm14, ImmF.imm32, opndReg, rN, r1]
theorem kstopStop (k : Ctl) (d : Reg) (a : Reg) : Statement (.kstopStop k d a) := by
  refine crew rfl (fun ha hi => ?_)
  simp [cand, candSys, rawOf, encDAB, encDABC, encDA, encDAb, encAB, encA, encD, enc0,
    ImmF.imm14, ImmF.imm32, opndReg, rN, r1]
theorem kstopKill (k : Ctl) (d : Reg) (a : Reg) : Statement (.kstopKill k d a) := by
  refine crew rfl (fun ha hi => ?_)
  simp [cand, candSys, rawOf, encDAB, encDABC, encDA, encDAb, encAB, encA, encD, enc0,
    ImmF.imm14, ImmF.imm32, opndReg, rN, r1]
theorem kstopResume (k : Ctl) (d : Reg) (a : Reg) : Statement (.kstopResume k d a) := by
  refine crew rfl (fun ha hi => ?_)
  simp [cand, candSys, rawOf, encDAB, encDABC, encDA, encDAb, encAB, encA, encD, enc0,
    ImmF.imm14, ImmF.imm32, opndReg, rN, r1]
theorem kq (k : Ctl) (d : Reg) (a : Reg) : Statement (.kq k d a) := by
  refine crew rfl (fun ha hi => ?_)
  simp [cand, candSys, rawOf, encDAB, encDABC, encDA, encDAb, encAB, encA, encD, enc0,
    ImmF.imm14, ImmF.imm32, opndReg, rN, r1]
theorem leave (k : Ctl) (d : Reg) (a : Reg) : Statement (.leave k d a) := by
  refine crew rfl (fun ha hi => ?_)
  simp [cand, candSys, rawOf, encDAB, encDABC, encDA, encDAb, encAB, encA, encD, enc0,
    ImmF.imm14, ImmF.imm32, opndReg, rN, r1]
theorem notify (k : Ctl) (a : Reg) (b : Reg) : Statement (.notify k a b) := by
  refine crew rfl (fun ha hi => ?_)
  simp [cand, candSys, rawOf, encDAB, encDABC, encDA, encDAb, encAB, encA, encD, enc0,
    ImmF.imm14, ImmF.imm32, opndReg, rN, r1]
theorem ckptCut (k : Ctl) (d : Reg) (a : Reg) : Statement (.ckptCut k d a) := by
  refine crew rfl (fun ha hi => ?_)
  simp [cand, candSys, rawOf, encDAB, encDABC, encDA, encDAb, encAB, encA, encD, enc0,
    ImmF.imm14, ImmF.imm32, opndReg, rN, r1]
theorem ckptBack (k : Ctl) (d : Reg) (a : Reg) : Statement (.ckptBack k d a) := by
  refine crew rfl (fun ha hi => ?_)
  simp [cand, candSys, rawOf, encDAB, encDABC, encDA, encDAb, encAB, encA, encD, enc0,
    ImmF.imm14, ImmF.imm32, opndReg, rN, r1]
theorem bpset (k : Ctl) (a : Reg) (b : Reg) (n : BitVec 14) : Statement (.bpset k a b n) := by
  refine crew rfl (fun ha hi => ?_)
  simp [cand, candSys, rawOf, encDAB, encDABC, encDA, encDAb, encAB, encA, encD, enc0,
    ImmF.imm14, ImmF.imm32, opndReg, rN, r1]
theorem bpclr (k : Ctl) (n : BitVec 14) : Statement (.bpclr k n) := by
  refine crew rfl (fun ha hi => ?_)
  simp [cand, candSys, rawOf, encDAB, encDABC, encDA, encDAb, encAB, encA, encD, enc0,
    ImmF.imm14, ImmF.imm32, opndReg, rN, r1]
theorem stamp (k : Ctl) (d : Reg) (a : Reg) : Statement (.stamp k d a) := by
  refine crew rfl (fun ha hi => ?_)
  simp [cand, candSys, rawOf, encDAB, encDABC, encDA, encDAb, encAB, encA, encD, enc0,
    ImmF.imm14, ImmF.imm32, opndReg, rN, r1]
theorem trace (k : Ctl) (a : Reg) (b : Reg) : Statement (.trace k a b) := by
  refine crew rfl (fun ha hi => ?_)
  simp [cand, candSys, rawOf, encDAB, encDABC, encDA, encDAb, encAB, encA, encD, enc0,
    ImmF.imm14, ImmF.imm32, opndReg, rN, r1]
theorem moduleBoot : Statement .moduleBoot := event rfl
theorem systemRecordWrite : Statement .systemRecordWrite := event rfl
theorem ctxCreate : Statement .ctxCreate := event rfl
theorem ctxActivate : Statement .ctxActivate := event rfl
theorem ctxSuspend : Statement .ctxSuspend := event rfl
theorem suspensionComplete : Statement .suspensionComplete := event rfl
theorem ctxResume : Statement .ctxResume := event rfl
theorem ctxDestroy : Statement .ctxDestroy := event rfl
theorem ctxClear : Statement .ctxClear := event rfl
theorem unknownCommand : Statement .unknownCommand := event rfl
theorem contextFault : Statement .contextFault := event rfl
theorem queueOpen : Statement .queueOpen := event rfl
theorem queueHold : Statement .queueHold := event rfl
theorem queueRelease : Statement .queueRelease := event rfl
theorem queueFlush : Statement .queueFlush := event rfl
theorem queueClose : Statement .queueClose := event rfl
theorem queueReconf : Statement .queueReconf := event rfl
theorem rsvWrite : Statement .rsvWrite := event rfl
theorem plofoAck : Statement .plofoAck := event rfl
theorem plofoWrite : Statement .plofoWrite := event rfl
theorem plofoRead : Statement .plofoRead := event rfl
theorem plofoLaunch : Statement .plofoLaunch := event rfl
theorem plofoSignalArrive : Statement .plofoSignalArrive := event rfl
theorem plofoSignalRaise : Statement .plofoSignalRaise := event rfl
theorem plofoQuery : Statement .plofoQuery := event rfl
theorem frameDrop : Statement .frameDrop := event rfl
theorem replayResendTimeout : Statement .replayResendTimeout := event rfl
theorem telemetry : Statement .telemetry := event rfl
theorem kernelDependenceMet : Statement .kernelDependenceMet := event rfl
theorem candidateAged : Statement .candidateAged := event rfl
theorem coxChoose : Statement .coxChoose := event rfl
theorem admissionGrant : Statement .admissionGrant := event rfl
theorem governorRequest : Statement .governorRequest := event rfl
theorem coxPreempt : Statement .coxPreempt := event rfl
theorem kernelPlacing : Statement .kernelPlacing := event rfl
theorem launchSegmentFetched : Statement .launchSegmentFetched := event rfl
theorem crewPlace : Statement .crewPlace := event rfl
theorem crewResident : Statement .crewResident := event rfl
theorem pendingToActive : Statement .pendingToActive := event rfl
theorem longStallSwap : Statement .longStallSwap := event rfl
theorem pendingAgeSwap : Statement .pendingAgeSwap := event rfl
theorem swapComplete : Statement .swapComplete := event rfl
theorem issuePick : Statement .issuePick := event rfl
theorem urgencyUpdate : Statement .urgencyUpdate := event rfl
theorem resultWriteback : Statement .resultWriteback := event rfl
theorem fuGroupServe : Statement .fuGroupServe := event rfl
theorem fuResultWrite : Statement .fuResultWrite := event rfl
theorem preciseTrapEntry : Statement .preciseTrapEntry := event rfl
theorem impreciseFault : Statement .impreciseFault := event rfl
theorem kernelStopMessage : Statement .kernelStopMessage := event rfl
theorem crewSave : Statement .crewSave := event rfl
theorem stopCutComplete : Statement .stopCutComplete := event rfl
theorem kernelRetire : Statement .kernelRetire := event rfl
theorem crewExit : Statement .crewExit := event rfl
theorem strokeCommit : Statement .strokeCommit := event rfl
theorem localCommit : Statement .localCommit := event rfl
theorem signatureSquash : Statement .signatureSquash := event rfl
theorem orderLogCheckpoint : Statement .orderLogCheckpoint := event rfl
theorem replayDigestCheck : Statement .replayDigestCheck := event rfl
theorem heldStrokeStart : Statement .heldStrokeStart := event rfl
theorem shadowSpaceGrant : Statement .shadowSpaceGrant := event rfl
theorem shadowDeadlockSquash : Statement .shadowDeadlockSquash := event rfl
theorem mwaitWake : Statement .mwaitWake := event rfl
theorem waitTableRecheck : Statement .waitTableRecheck := event rfl
theorem tlbWalk : Statement .tlbWalk := event rfl
theorem faultQueueJoin : Statement .faultQueueJoin := event rfl
theorem kvCopyOnWrite : Statement .kvCopyOnWrite := event rfl
theorem checkpointCowCopy : Statement .checkpointCowCopy := event rfl
theorem kvCountFree : Statement .kvCountFree := event rfl
theorem mmaAccept : Statement .mmaAccept := event rfl
theorem mmaPipeFree : Statement .mmaPipeFree := event rfl
theorem reductionApply : Statement .reductionApply := event rfl
theorem matrixBatchRaise : Statement .matrixBatchRaise := event rfl
theorem linePoisoned : Statement .linePoisoned := event rfl
theorem leaveWindow : Statement .leaveWindow := event rfl
theorem leaveRaiseAnswer : Statement .leaveRaiseAnswer := event rfl
theorem leaveGrantArrive : Statement .leaveGrantArrive := event rfl
theorem allotGrant : Statement .allotGrant := event rfl
theorem allotDeadlockFail : Statement .allotDeadlockFail := event rfl
theorem engineUnitLand : Statement .engineUnitLand := event rfl
theorem engineCommandComplete : Statement .engineCommandComplete := event rfl
theorem engineBatchRaise : Statement .engineBatchRaise := event rfl
theorem cfetchComplete : Statement .cfetchComplete := event rfl
theorem encodeStart : Statement .encodeStart := event rfl
theorem encodeDone : Statement .encodeDone := event rfl
theorem crewCancel : Statement .crewCancel := event rfl
theorem treeNodesFree : Statement .treeNodesFree := event rfl
theorem templatePublish : Statement .templatePublish := event rfl
theorem peerAccessPerform : Statement .peerAccessPerform := event rfl
theorem xredCellApply : Statement .xredCellApply := event rfl
theorem peerAck : Statement .peerAck := event rfl
theorem portEnSet : Statement .portEnSet := event rfl
theorem portEnClear : Statement .portEnClear := event rfl
theorem portTrained : Statement .portTrained := event rfl
theorem portTrainingTimeout : Statement .portTrainingTimeout := event rfl
theorem heartbeatArrive : Statement .heartbeatArrive := event rfl
theorem heartbeatSend : Statement .heartbeatSend := event rfl
theorem heartbeatPeriodMissed : Statement .heartbeatPeriodMissed := event rfl
theorem portRetryLimit : Statement .portRetryLimit := event rfl
theorem portSignalSeen : Statement .portSignalSeen := event rfl
theorem plimitWrite : Statement .plimitWrite := event rfl
theorem thermalTripSet : Statement .thermalTripSet := event rfl
theorem thermalTripClear : Statement .thermalTripClear := event rfl
theorem hbmPatrolScrub : Statement .hbmPatrolScrub := event rfl
theorem sramScrub : Statement .sramScrub := event rfl
theorem stampRecordWrite : Statement .stampRecordWrite := event rfl
theorem pcSample : Statement .pcSample := event rfl
theorem moduleReset : Statement .moduleReset := event rfl
theorem corruptedFlit : Statement .corruptedFlit := event rfl

end Sys2Proof.Laws.RoundTrip
end

