-- ==== Sys2Proof/Tests/Slice0.lean ====
section
/-! SUPPORT. Tests of the model on values that the spec works out, and witnesses: for each statement, states and operands that meet its hypotheses. -/

open Sys2Proof Sys2Proof.Machine Sys2Proof.Claims

namespace Sys2Proof.Tests

set_option Elab.async false

/-! ## Which terms are no instruction (R56 to R63, R66) -/

def k64 : Ctl := ⟨.l64, 0, none, 0, false, false, .always⟩
def k96 : Ctl := ⟨.l96, 0, none, 0, false, false, .always⟩
def k128 : Ctl := ⟨.l128, 0, none, 0, false, false, .always⟩

theorem test_wf_accepts : wfErr (.iadd k64 .i32 false 4 5 (.reg 6)) = none := by decide +kernel
theorem test_wf_event : wfErr .moduleBoot = some .event := by decide +kernel
theorem test_wf_short : wfErr (.bdiv k64 3 10) = some .short := by decide +kernel
theorem test_wf_predicate : wfErr (.iadd { k64 with pred := .nonzero 9 } .i32 false 4 5 (.reg 6)) = some .predicate := by decide +kernel
theorem test_wf_modifier : wfErr (.icmp k64 .i32 .ord 4 5 (.reg 6)) = some .modifier := by decide +kernel
theorem test_wf_immediate : wfErr (.ld k96 .b32 false .none 8 2 0x2000) = some .immediate := by decide +kernel
theorem test_wf_operand : wfErr (.iadd k64 .i64 false 4 5 (.reg 6)) = some .operand := by decide +kernel

/-! ## Words that the spec writes out -/

/-- 03_encoding.md and 07_crew.md. -/
theorem test_decode_control :
    decodeWords [0x0003_C01C, 0] = .ok (.exit k64) ∧ decodeWords [0x0003_C03C, 0] = .ok (.cut k64) ∧
    decodeWords [0x0003_C00D, 0x0000_0300, 0x0028_0000] = .ok (.bdiv k96 3 10) ∧
    decodeWords [0x4003_D005, 0x0000_0000, 0xFFDD_0B00] =
      .ok (.bra ⟨.l96, 4, none, 0, true, false, .nonzero 11⟩ (BitVec.ofInt 14 (-9))) ∧
    decodeWords [0x0003_C025, 0x000C_0A00, 0x01C8_0000] = .ok (.cfetch k96 10 12 0x72) := by decide +kernel

/-- 08_arithmetic.md, 16_prog_verify.md to 20_prog_rollback.md. -/
theorem test_decode_integer :
    decodeWords [0x0000_C880, 0x0006_0504] = .ok (.iadd ⟨.l64, 2, some 3, 0, false, false, .always⟩ .i32 false 4 5 (.reg 6)) ∧
    decodeWords [0x0003_C092, 0x0800_0102, 0, 0x0005_5538] = .ok (.imulh k128 .n32 2 1 (.imm 0x0005_5538)) ∧
    decodeWords [0x0003_C0B1, 0x080A_0404, 0x0001_0900] = .ok (.csub { k96 with pred := .nonzero 9 } .n32 4 4 (.reg 10)) ∧
    decodeWords [0x0103_C0A8, 0x043C_2D2E] = .ok (.icmp { k64 with wait := 0x40 } .i32 .gt 46 45 (.reg 60)) ∧
    decodeWords [0x0003_C0F0, 0x0800_021A] = .ok (.brev k64 .n32 26 2) ∧
    decodeWords [0x0003_D0EC, 0x0800_1111] = .ok (.clz { k64 with stall := 4 } .n32 17 17) := by decide +kernel

theorem test_decode_float :
    decodeWords [0x4023_C102, 0x5100_0B0A, 0x0002_0900, 0x3FC0_0000] =
      .ok (.fadd ⟨.l128, 0, none, 8, true, false, .zero 9⟩ .f32 .rz 10 11 (.imm 0x3FC0_0000)) ∧
    decodeWords [0x0003_C149, 0x9C0E_0D0C, 0x0000_000F] = .ok (.dotf8 k96 .e4m3 2 12 13 14 15) ∧
    decodeWords [0x0402_41CC, 0x5000_3C3D] = .ok (.smxup ⟨.l64, 0, some 9, 0x100, false, false, .always⟩ 61 60) := by decide +kernel

theorem test_decode_cross_lane :
    decodeWords [0x0003_C1E1, 0x610A_0908, 0x0000_000B] = .ok (.shfl k96 .xor .n32 8 9 10 11) ∧
    decodeWords [0x0003_D1EC, 0x0105_252C] = .ok (.lred { k64 with stall := 4 } .add .n32 44 37 5) ∧
    decodeWords [0x0003_D1E4, 0x0005_2F48] = .ok (.ballot { k64 with stall := 4 } 72 47 5) := by decide +kernel

theorem test_decode_memory :
    decodeWords [0x0003_C201, 0x4000_0208, 0x0100_0000] = .ok (.ld k96 .b32 false .none 8 2 0x40) ∧
    decodeWords [0x0003_C209, 0xE306_040A, 0x0000_0008] = .ok (.atom k96 .cas .n64 10 4 6 8 0) ∧
    decodeWords [0x0003_C210, 0x0809_0600] = .ok (.mwait k64 .eq .n32 6 9 0) ∧
    decodeWords [0x0003_C218, 0x0300_0000] = .ok (.mfence k64 true true) ∧
    decodeWords [0x4013_C205, 0x4009_0600, 0x0401_0500] =
      .ok (.st ⟨.l96, 0, none, 4, true, false, .nonzero 5⟩ .b32 .none 6 9 0x100) ∧
    decodeWords [0x0003_E20D, 0x012C_3000, 0x1001_0400] =
      .ok (.red ⟨.l96, 8, none, 0, false, false, .nonzero 4⟩ .add .n32 48 44 0x400) ∧
    decodeWords [0x0004_8209, 0xC104_0009, 0x0201_0500] =
      .ok (.atom ⟨.l96, 0, some 2, 1, false, false, .nonzero 5⟩ .xchg .n32 9 0 4 0 0x80) := by decide +kernel

theorem test_decode_matrix :
    decodeWords [0x0003_C241, 0x9D04_4002, 0x0000_0008] = .ok (.mma k96 .e4m3 true 1 2 64 4 8) ∧
    decodeWords [0x0003_C244, 0x0000_000C] = .ok (.mbatch k64 12) ∧
    decodeWords [0x0003_C248, 0x0016_1400] = .ok (.sumdeclDecl k64 20 22) ∧
    decodeWords [0x0003_C248, 0x2000_1800] = .ok (.sumdeclTl k64 24) ∧
    decodeWords [0x0003_C250, 0x0004_0200] = .ok (.sumred k64 .f64 2 4 0) ∧
    decodeWords [0x0003_C24C, 0x0000_020E] = .ok (.sumrd k64 .f64 14 2 0) ∧
    decodeWords [0x0002_1A4C, 0x1000_363C] = .ok (.sumrd ⟨.l64, 6, some 8, 0, false, false, .always⟩ .f32 60 54 0) := by decide +kernel

theorem test_decode_barrier :
    decodeWords [0x0003_C281, 0x0106_0400, 0x0000_0007] = .ok (.barinitPh k96 true 4 6 7) ∧
    decodeWords [0x0003_C284, 0x0106_0400] = .ok (.arrive k64 true 4 6) ∧
    decodeWords [0x0003_C28C, 0x0008_0600] = .ok (.wait k64 6 8) ∧
    decodeWords [0x0003_C2A8, 0x3000_0402] = .ok (.barq k64 3 2 4) ∧
    decodeWords [0x0003_C288, 0x0008_0400] = .ok (.expect k64 4 8) ∧
    decodeWords [0x0003_C294, 0x0000_1000] = .ok (.copy k64 16) := by decide +kernel

theorem test_decode_tree :
    decodeWords [0x0203_C2D0, 0x1009_0E0F] = .ok (.tmaskVfy { k64 with wait := 0x80 } 15 14 9) ∧
    decodeWords [0x0003_C2C8, 0x000A_0507] = .ok (.tprune k64 7 5 10) ∧
    decodeWords [0x0003_C2C5, 0x0006_0504, 0x0000_0008] = .ok (.tfork k96 4 5 6 8) ∧
    decodeWords [0x0003_C2D9, 0x000F_050E, 0x0000_0010] = .ok (.tacc k96 14 5 15 16) := by decide +kernel

theorem test_decode_page :
    decodeWords [0x0003_C30C, 0x1000_0604] = .ok (.pgqDone k64 4 6) ∧ decodeWords [0x0003_C310, 0x000C_0A08] = .ok (.smap k64 8 10 12) ∧
    decodeWords [0x0003_C308, 0x1006_0402] = .ok (.pgcowClear k64 2 4 6) ∧
    decodeWords [0x0003_C314, 0x100A_0800] = .ok (.sflushInv k64 8 10) := by decide +kernel

theorem test_decode_link_kernel_debug :
    decodeWords [0x0003_C340, 0x6006_0400] = .ok (.xput k64 .b64 4 6) ∧ decodeWords [0x0003_C34C, 0x000A_0800] = .ok (.xsigArr k64 8 10) ∧
    decodeWords [0x0003_C380, 0x0000_0604] = .ok (.launch k64 4 6) ∧ decodeWords [0x0003_C388, 0x1000_0803] = .ok (.kstopKill k64 3 8) ∧
    decodeWords [0x0003_C3C1, 0x0006_0400, 0x0028_0000] = .ok (.bpset k96 4 6 0x0A) ∧
    decodeWords [0x0003_C3C5, 0, 0x0008_0000] = .ok (.bpclr k96 2) ∧ decodeWords [0x0003_C3C8, 0x0000_0402] = .ok (.stamp k64 2 4) ∧
    decodeWords [0x0003_C3CC, 0x0007_0600] = .ok (.trace k64 6 7) := by decide +kernel

/-- Steps 2 to 8 of R66 refuse: length 11, opcode 0xFF, a field not used, a misaligned pair. -/
theorem test_decode_refuses :
    decodeWords [0x0003_C003, 0] = .error .length ∧ decodeWords [0x0003_C3FC, 0] = .error .opcode ∧
    decodeWords [0x0003_C01C, 1] = .error .unused ∧ decodeWords [0x0003_C3C8, 0x0000_0502] = .error .operand := by decide +kernel

/-! ## A small machine: one crew of context 0 on bay 0, and a page of 2 MiB at VA 0 -/

/-- Page tables: VA 0 to 2 MiB at PA 0x400_0000, writable and executable (R251 to R253). -/
def tables : Memory :=
  let put (m : Memory) (pa v : Nat) : Memory := Memory.writes m pa (toBytes 8 v)
  put (put (put [] 0x200_0000 0x200_8001) 0x200_8000 0x201_0001) 0x201_0000 0x400_000F

def world : State :=
  let s := State.reset.placeWord 0x0006_0504_0000_C880
  { s with power := .up, place := .crew 0, agenda := [], mem := tables,
           ctxCfg := Tbl.set [] 0 (setAll [(Ctx.ptroot, 0x2000), (Ctx.trapva, 0x100), (Ctx.flogva, 0x180)]) }

/-- The crew at resident 0. -/
def cr (s : State) : Crew := (s.crews.get? 0).getD (Crew.start 0 0 0 0 0 0)
def withCrew (s : State) (f : Crew → Crew) : State := s.setCrew 0 f
/-- A register of every lane, and a pair. -/
def uni (r v : Nat) (c : Crew) : Crew :=
  { c with regs := writeCells c.regs ((List.range 32).map (fun l => (32 * r + l, BitVec.ofNat 32 v))) }
def uni2 (r v : Nat) (c : Crew) : Crew := uni (r + 1) (v / 2 ^ 32) (uni r v c)
/-- A register of one lane. -/
def one (r l v : Nat) (c : Crew) : Crew := { c with regs := writeCells c.regs [(32 * r + l, BitVec.ofNat 32 v)] }

/-- The next state, where there is one. -/
def after (i : Instr) (s : State) : Option State := match exec i s with | .next t => some t | .fault _ => none | .refused _ => none
/-- A register's value in a lane, of an instruction's outstanding result. -/
def result (i : Instr) (s : State) (r l : Nat) : Option Word :=
  (after i s).bind (fun t => (cr t).pends.findSome? (fun p => Tbl.get? p.cells (32 * r + l)))
/-- What the crew is after an instruction. -/
def crewAfter {α : Type} (i : Instr) (s : State) (f : Crew → α) : Option α := (after i s).bind (fun t => (t.crews.get? 0).map f)

/-- The small machine after a NOP: its crew has a stroke in flight, so that a trap waits in the crew. -/
def joined : State := (after (.nop k64) world).getD world
/-- The trap that an instruction's crew has taken and that waits. -/
def trapOf (i : Instr) (s : State) : Option Trap := (after i s).bind (fun t => (cr t).trap)

/-- The hypotheses of Issuing. -/
def issuesOk (s : State) (i : Instr) : Bool :=
  decide (s.place = .crew 0) && decide (s.crews.get? 0 = some (cr s)) &&
  (match enc i with | some (k, e) => (rangeFault (cr s).allot k e).isNone | none => false)

theorem issuing_of {s : State} {i : Instr} (h : issuesOk s i = true) : Issuing s 0 (cr s) i := by
  simp only [issuesOk, Bool.and_eq_true, decide_eq_true_eq] at h
  refine ⟨h.1.1, h.1.2, fun k e he => ?_⟩
  have := h.2
  rw [he] at this
  exact Option.isNone_iff_eq_none.1 this

theorem bounding_of {s : State} {i : Instr} (h : issuesOk s i = true) (q : (cr s).strokes = []) : Bounding s 0 (cr s) i :=
  ⟨issuing_of h, q⟩

/-- A crew with no stroke whose next may begin takes any instruction. -/
theorem takes_of {s : State} (h : ((cr s).executing.isNone && (s.mayBegin 0 (cr s)).isNone && !(cr s).heldReady) = true) (bl wl sl : List Nat) :
    Takes s 0 (cr s) bl wl sl := by
  simp only [Bool.and_eq_true, Option.isNone_iff_eq_none, Bool.not_eq_true'] at h
  simp [Takes, h.1.1, h.1.2, h.2]

theorem world_takes (bl wl sl : List Nat) : Takes world 0 (cr world) bl wl sl := takes_of (by decide +kernel) bl wl sl

/-- Instructions of every family of arithmetic issue in the small machine: the hypotheses of Computes and CrossLane. -/
def arithmetic : List Instr :=
  [.iadd k64 .i32 false 4 5 (.reg 6), .isub k64 .n64 true 4 6 (.reg 8), .iaddx k96 .n32 false 4 5 6 7, .imul k64 .n32 4 5 (.reg 6),
   .imulh k128 .n32 2 1 (.imm 0x0005_5538), .imad k96 .i64 4 6 8 10, .iabs k64 .i32 true 4 5, .imin k64 .i32 4 5 (.reg 6),
   .imax k64 .n32 4 5 (.reg 6), .iclamp k96 .i32 4 5 6 7, .icmp k64 .i32 .gt 46 45 (.reg 60), .isel k96 .n32 4 5 6 7,
   .csub k64 .n32 4 4 (.reg 10), .lea k96 4 6 8 0x12, .mov k64 .n64 4 6, .movi k128 255 7, .shl k64 .n32 4 5 (.reg 6),
   .shr k64 .n32 4 5 (.reg 6), .sar k64 .i32 4 5 (.reg 6), .shf k96 .n32 4 5 6 7, .and k64 .n32 4 5 (.reg 6), .or k64 .n32 4 5 (.reg 6),
   .xor k64 .n32 4 5 (.reg 6), .andn k64 .n32 4 5 (.reg 6), .bfx k64 .i32 4 5 (.reg 6), .bfi k96 .n32 4 5 6 7, .popc k64 .n64 4 6,
   .clz k64 .n32 17 17, .brev k64 .n32 26 2, .prmt k96 4 5 6 7, .fadd k64 .f32 .rz 4 5 (.reg 6), .fsub k64 .f16x2 .rn 4 5 (.reg 6),
   .fmul k64 .bf16x2 .rn 4 5 (.reg 6), .fma k96 .f32 .rd 4 5 6 7, .fmin k64 .f32 4 5 (.reg 6), .fmax k64 .f32 4 5 (.reg 6),
   .fcmp k64 .f32 .uno 4 5 (.reg 6), .frnd k64 .f32 .ru 4 5, .fclass k64 .f32 4 5, .fscale k64 .f32 .rn 4 5 (.reg 6), .dadd k64 .rn 4 6 8,
   .dmul k64 .rz 4 6 8, .dfma k96 .rn 4 6 8 10, .dcmp k64 .lt 4 6 8, .dotf4 k96 .e2m1 0 4 5 6 7, .dotf6 k96 .e3m2 1 4 5 6 7,
   .dotf8 k96 .e4m3 2 12 13 14 15, .doth k96 .f16 4 5 6 7, .doti8 k96 .i8 4 5 6 7, .doti4 k96 .n4 4 5 6 7, .cvt k96 .i32 .f32 .rn true 4 5,
   .pack k96 .e4m3 .f32 .rs false 20 21 22 23, .unpack k96 .f32 .e4m3 .rn 4 5 6, .mxscale k96 .e4m3 4 5 6, .rand k64 4 8 12, .fsint k64 4 5,
   .fcost k64 4 5, .fexp2 k64 4 5, .flog2 k64 4 5, .frcp k64 4 5, .frsq k64 4 5, .fsqrt k64 4 5, .ftanh k64 4 5, .rmax k64 .f32 4 5,
   .rsum k64 .f32 .rn 4 5, .rstat k64 6 4, .smxup k64 8 5, .shfl k96 .xor .n32 8 9 10 11, .ballot k64 72 47 5, .vote k64 .uni 4 5 6,
   .lred k64 .add .n32 44 37 5, .lscan k64 .max .n32 4 5 6, .laneMatch k64 .any .n32 4 5 6, .bcast k96 .n32 4 5 6 7, .elect k64 4 5]

theorem witness_arithmetic_issues : ∀ i ∈ arithmetic, wfErr i = none ∧ Issuing world 0 (cr world) i ∧ Takes world 0 (cr world) (blocksOf i) [] [] := by
  have h : arithmetic.all (fun i => decide (wfErr i = none) && issuesOk world i) = true := by decide +kernel
  intro i hi
  have := List.all_eq_true.1 h i hi
  simp only [Bool.and_eq_true, decide_eq_true_eq] at this
  exact ⟨this.1, issuing_of this.2, world_takes _ _ _⟩

/-! ## Arithmetic on values that the spec works out -/

/-- R188: Barrett reduction modulo 12,289, lanes 0 and 1 of the table. -/
theorem test_imulh : result (.imulh k128 .n32 2 1 (.imm 0x0005_5538)) (withCrew world (uni 1 150994944)) 2 1 = some 12286#32 := by decide +kernel
theorem test_csub :
    result (.csub k128 .n32 4 4 (.imm 12289)) (withCrew world (uni 4 12290)) 4 0 = some 1#32 ∧
    result (.csub k128 .n32 4 4 (.imm 12289)) (withCrew world (uni 4 1688)) 4 0 = some 1688#32 := by decide +kernel
/-- R185: a sum that wraps, and one that is clamped. -/
theorem test_iadd :
    result (.iadd k64 .i32 false 4 5 (.reg 6)) (withCrew world (uni 5 0x7FFF_FFFF ∘ uni 6 1)) 4 31 = some 0x8000_0000#32 ∧
    result (.iadd k64 .i32 true 4 5 (.reg 6)) (withCrew world (uni 5 0x7FFF_FFFF ∘ uni 6 1)) 4 31 = some 0x7FFF_FFFF#32 := by decide +kernel
theorem test_isub : result (.isub k64 .n64 false 4 6 (.reg 8)) (withCrew world (uni2 6 0 ∘ uni2 8 1)) 5 0 = some 0xFFFF_FFFF#32 := by decide +kernel
/-- R185: a shift by the width or more shifts every bit out. -/
theorem test_shifts :
    result (.shl k64 .n32 4 5 (.reg 6)) (withCrew world (uni 5 1 ∘ uni 6 32)) 4 0 = some 0#32 ∧
    result (.sar k64 .i32 4 5 (.reg 6)) (withCrew world (uni 5 0x8000_0000 ∘ uni 6 40)) 4 0 = some 0xFFFF_FFFF#32 := by decide +kernel
theorem test_brev : result (.brev k64 .n32 26 2) (withCrew world (uni 2 1)) 26 7 = some 0x8000_0000#32 := by decide +kernel
theorem test_clz : result (.clz k64 .n32 17 17) (withCrew world (uni 17 0)) 17 0 = some 32#32 := by decide +kernel
/-- R31: subnormals are kept; 0x0000_0001 + 0x0000_0001 is 0x0000_0002. -/
theorem test_fadd_subnormal :
    result (.fadd k64 .f32 .rn 4 5 (.reg 6)) (withCrew world (uni 5 1 ∘ uni 6 1)) 4 0 = some 2#32 := by decide +kernel
/-- R32, R40: +∞ − ∞ is the canonical NaN, and an exact zero sum is −0 only under .rd (R39). -/
theorem test_fadd_special :
    result (.fadd k64 .f32 .rn 4 5 (.reg 6)) (withCrew world (uni 5 0x7F80_0000 ∘ uni 6 0xFF80_0000)) 4 0 = some 0x7FC0_0000#32 ∧
    result (.fadd k64 .f32 .rd 4 5 (.reg 6)) (withCrew world (uni 5 0x3F80_0000 ∘ uni 6 0xBF80_0000)) 4 0 = some 0x8000_0000#32 := by decide +kernel
/-- 08_arithmetic.md: 1.5·2, 2·0.25, −1·4 and 0.5·−1, scaled by 2 and added to 10. -/
theorem test_dotf8 :
    result (.dotf8 k96 .e4m3 2 12 13 14 15)
      (withCrew world (uni 12 0x4120_0000 ∘ uni 13 0x30B8_403C ∘ uni 14 0xB848_2840 ∘ uni 15 0x0080_0000)) 12 3 = some 0x4100_0000#32 := by
  decide +kernel
/-- 08_arithmetic.md: 0.3 and 500.0 rounded at random into E4M3. -/
theorem test_pack :
    result (.pack k96 .e4m3 .f32 .rs false 20 21 22 23)
      (withCrew world (uni 20 0x3C38 ∘ uni 21 0x3E99_999A ∘ uni 22 0x43FA_0000 ∘ uni 23 0x7000)) 20 0 = some 0x3C38_7E2A#32 := by decide +kernel
/-- R200: key 0, counter 0. -/
theorem test_rand :
    result (.rand k64 4 8 12) world 4 0 = some 0x6627_E8D5#32 ∧ result (.rand k64 4 8 12) world 7 0 = some 0x9B00_DBD8#32 := by decide +kernel
/-- R198: an element past the word is an operand fault of operand 2 in the lowest such lane. -/
theorem witness_unpack :
    let s := withCrew joined (one 6 3 4 ∘ one 6 9 7)
    let i : Instr := .unpack k96 .f32 .e4m3 .rn 4 5 6
    issuesOk s i = true ∧ 3 ∈ (cr s).acting k96.pred ∧ elems .e4m3 ≤ (cr s).v32 6 3 ∧ (∀ j ∈ (cr s).acting k96.pred, j < 3 → (cr s).v32 6 j < elems .e4m3) ∧
    trapOf i s = some ⟨0x018, 2, 0, 3, 0, (cr s).pc, (cr s).slot⟩ := by decide +kernel
/-- R206 to R209: the example's four lanes. -/
theorem test_smxup :
    let s := withCrew world (fun c => { uni 5 0x7F80_0000 c with em := 0xF#32 } |> one 5 0 0xFF80_0000 |> one 5 1 0xFF80_0000)
    result (.smxup k64 8 5) s 8 0 = some 0#32 ∧ result (.smxup k64 8 5) s 8 3 = some 0x3F00_0000#32 ∧
    result (.rstat k64 6 4) (withCrew world (fun c => { uni 4 0x4000_0000 c with em := 0xF#32 })) 6 2 = some 0x4000_0000#32 := by decide +kernel
/-- R180: v10 = 1, v11 = 0xFF: lanes 0 to 7 exchange in pairs; with a mask outside em, a membership fault. -/
theorem test_shfl :
    let s := withCrew world (uni 10 1 ∘ uni 11 0xFF ∘ one 9 1 77)
    result (.shfl k96 .xor .n32 8 9 10 11) s 8 0 = some 77#32 ∧ result (.shfl k96 .xor .n32 8 9 10 11) s 8 8 = none ∧
    trapOf (.shfl k96 .xor .n32 8 9 10 11) (withCrew joined (fun c => { uni 11 0x1FF c with em := 0xFF#32 })) =
      some ⟨0x015, 0x1FF, 0, 0, 0, (cr joined).pc, 0⟩ := by
  decide +kernel
/-- 07_crew.md: ballots of the countdown, with v8 = l mod 3. -/
theorem test_ballot :
    let s := withCrew world (fun c => (List.range 32).foldl (fun c l => one 8 l (l % 3) c) (uni 9 0xFFFF_FFFF c))
    result (.ballot k64 11 8 9) s 11 5 = some 0xB6DB_6DB6#32 := by decide +kernel

theorem witness_CrossLane_members :
    (cr world).em ≠ 0#32 ∧ Members (withCrew world (uni 5 0xFF) |> cr) 5 0xFF#32 ∧
    (∀ x, ¬Members (withCrew world (one 5 3 1) |> cr) 5 x) := by
  refine ⟨by decide +kernel, ⟨by decide +kernel, by decide +kernel⟩, fun x h => ?_⟩
  have h0 := h.1 0 (by decide +kernel)
  have h3 := h.1 3 (by decide +kernel)
  rw [← h0] at h3
  exact absurd h3 (by decide +kernel)

/-- BCAST: a source lane in the mask, an empty mask, and a source lane outside the mask (R180). -/
theorem witness_bcast :
    (2 ∈ lanesOf 0xFF#32 ∧ ∀ l ∈ lanesOf 0xFF#32, (cr (withCrew world (uni 6 2))).v32 6 l = 2) ∧
    Members (cr world) 7 0#32 ∧
    (∀ j, j ∈ lanesOf 0xFF#32 → ¬∀ l ∈ lanesOf 0xFF#32, (cr (withCrew world (uni 6 9))).v32 6 l = j) := by
  refine ⟨by decide +kernel, ⟨by decide +kernel, by decide +kernel⟩, fun j hj h => ?_⟩
  have h0 := h 0 (by decide +kernel)
  have e : (cr (withCrew world (uni 6 9))).v32 6 0 = 9 := by decide +kernel
  rw [e] at h0
  subst h0
  exact absurd hj (by decide +kernel)

/-- An instruction that joins a stroke in progress: the first branch of Takes. -/
theorem witness_joins :
    (match (cr joined).executing with
     | some st => decide (st.held = false) && decide ((addLines st.blocks [0, 1, 2]).length ≤ 8) && decide (st.wlines = [] ∧ st.sumLines = [])
     | none => false) = true ∧ issuesOk joined (.movi k128 255 7) = true := by decide +kernel

/-! ## The fetch and the step -/

/-- The small machine with its crew's issue as what comes next. -/
def fetching : State := State.reset.placeWord 0x0006_0504_0000_C880

theorem witness_StepRunsDecoded :
    fetching.agenda = [.issue 0] ∧ fetching.crews.get? 0 = some (cr fetching) ∧ (cr fetching).diverged = none ∧
    fetching.cmpHit (ridBay 0) (cr fetching) = none ∧ (cr fetching).em ≠ 0#32 ∧
    fetching.codeOf 0 (cr fetching) = some (probeLine 0x0006_0504_0000_C880, 1) ∧ (cr fetching).pc < 128 * 1 ∧ (cr fetching).pc % 4 = 0 ∧
    lineOk (probeLine 0x0006_0504_0000_C880) ((cr fetching).pc / 128) = true ∧
    startAt (probeLine 0x0006_0504_0000_C880) ((cr fetching).pc / 4) = true ∧
    decodeWords [segWord (probeLine 0x0006_0504_0000_C880) 2, segWord (probeLine 0x0006_0504_0000_C880) 3, 0, 0] =
      .ok (.iadd ⟨.l64, 2, some 3, 0, false, false, .always⟩ .i32 false 4 5 (.reg 6)) := by decide +kernel

theorem test_step_runs : (match step fetching with | .next t => (cr t).flags | _ => 0#12) = 8#12 := by decide +kernel

theorem test_step_event :
    ({ fetching with agenda := [.event .none .coxChoose] } : State).agenda = .event .none .coxChoose :: [] ∧
    ({ fetching with agenda := [.issue 7] } : State).crews.get? 7 = none := by decide +kernel

/-- A kind of trap that a step takes at the fetch, as what is left in the crew. -/
def fetchTrap (f : Crew → Crew) (g : State → State) : Option Nat :=
  let s := g (withCrew fetching f)
  match step s with
  | .next t => if (cr t).pc = (cr s).pc ∧ (cr t).life ≠ .active then some 1 else (cr t).trap.map (fun t => t.kind)
  | _ => none

/-- Each clause of FetchChecks has a crew that meets it. -/
theorem witness_FetchChecks :
    ((cr (withCrew fetching (fun c => { c with diverged := some 5 }))).diverged = some 5) ∧
    ((fetching.setRcd .comparator 0 (setAll [(Cmp.en, 1), (Cmp.anyq, 1), (Cmp.pc, 8)])).cmpHit 0 (cr fetching) = some 0 ∧ (cr fetching).skip = false) ∧
    (cr (withCrew fetching (fun c => { c with em := 0#32 }))).stack = [] ∧
    (fetching.codeOf 0 { cr fetching with slot := 5 } = none) ∧
    (128 * 1 ≤ ({ cr fetching with pc := 128 } : Crew).pc) ∧ (({ cr fetching with pc := 9 } : Crew).pc % 4 ≠ 0) ∧
    (startAt (probeLine 0x0006_0504_0000_C880) 3 = false) ∧ (lineOk [0#32] 0 = false) ∧
    (decodeWords [3, 0, 0, 0] = .error .length ∧ decodeWords [0x3FC, 0, 0, 0] = .error .opcode) := by decide +kernel

theorem witness_RegisterRange :
    let s := withCrew joined (fun c => { c with allot := 8 })
    let i : Instr := .iadd k64 .i32 false 4 5 (.reg 8)
    s.place = .crew 0 ∧ s.crews.get? 0 = some (cr s) ∧ (∃ p, enc i = some p ∧ (8, 1) ∈ operands p.2 ∧ (cr s).allot < 8 + 1) ∧
    trapOf i s = some ⟨0x012, 8, 0, 0, 0, (cr joined).pc, 0⟩ := by
  refine ⟨by decide +kernel, by decide +kernel, ⟨_, rfl, by decide +kernel, by decide +kernel⟩, by decide +kernel⟩

theorem witness_ChoosingChangesNothing : State.reset.agenda = [] ∧ State.reset.plan.agenda.length = 1 := by decide +kernel

theorem witness_StepKeepsMemory : world.Inv ∧ State.reset.Inv := by unfold State.Inv; decide +kernel

theorem witness_MemoryExtensional : Memory.wf tables = true ∧ Memory.byte tables 0x200_8001 = 0x00#8 ∧ Memory.byte tables 0x201_0000 = 0x0F#8 := by
  decide +kernel

/-- R13: floor(2/3 of the clock). -/
theorem test_time : ({ world with clock := 3 } : State).time = 2 ∧ ({ world with clock := 4 } : State).time = 2 := by decide +kernel

/-! ## Control, traps, special registers -/

/-- A segment of two lines, an instruction at granules 2 and 6 of line 0 and at granule 2 of line 1, each a target: a kernel with a handler. -/
def segment : List Word := [0x11#32, 0x4000_0011#32] ++ List.replicate 30 0#32 ++ [0x1#32, 0x4000_0001#32] ++ List.replicate 30 0#32

/-- The small machine with that segment in slot 0 and one line in slot 1 of three. -/
def coded : State :=
  (world.setKern 0 (fun k => { k with launch := Lch.slots.set k.launch 3 })).setBay 0 (fun b =>
    { b with kerns := b.kerns.modify 0 (fun x => { x with slots := [(0, .full 0 2 segment), (1, .full 0 1 (probeLine 0))] }) })

theorem coded_takes (bl wl sl : List Nat) : Takes coded 0 (cr coded) bl wl sl := takes_of (by decide +kernel) bl wl sl

/-- The hypotheses of HintsAndOtherLanes: a lane and a register in range, and each way out of it. -/
theorem witness_HintsAndOtherLanes :
    ([.nop k64, .pref k64 .keep 4 0, .cut k64, .yieldHint k64, .lget k64 4 5 6, .lset k64 4 5 6] : List Instr).all (issuesOk coded) = true ∧
    (let c := cr (withCrew coded (uni 5 31 ∘ uni 6 255)); ∀ l ∈ c.active, (c.reg 5 l).toNat < 32 ∧ (c.reg 6 l).toNat < 256 ∧ (c.reg 6 l).toNat < c.allot) ∧
    trapOf (.lget k64 4 5 6) (withCrew joined (one 5 2 32 ∘ one 5 7 99)) = some ⟨0x018, 1, 0, 2, 0, (cr joined).pc, 0⟩ ∧
    trapOf (.lset k64 4 5 6) (withCrew joined (one 6 9 256)) = some ⟨0x018, 2, 0, 9, 0, (cr joined).pc, 0⟩ ∧
    trapOf (.lget k64 4 5 6) (withCrew joined (fun c => { one 6 9 8 c with allot := 8 })) = some ⟨0x012, 8, 0, 9, 0, (cr joined).pc, 0⟩ := by
  decide +kernel

theorem test_lget : result (.lget k64 4 5 6) (withCrew world (one 8 3 77 ∘ uni 5 3 ∘ uni 6 8)) 4 30 = some 77#32 := by decide +kernel
/-- R169: of several lanes that name one register of one lane, the highest counts. -/
theorem test_lset :
    let s := withCrew world (one 4 0 10 ∘ one 4 31 11 ∘ uni 5 3 ∘ uni 6 8)
    result (.lset k64 4 5 6) s 8 3 = some 11#32 ∧ result (.lset k64 4 5 6) s 8 4 = none := by decide +kernel

/-- Marked and unmarked targets, taken and not taken, uniform and not (R54, R59). -/
theorem witness_Branches :
    issuesOk coded (.bra { k96 with pred := .nonzero 9 } 4) = true ∧ issuesOk coded (.call k96 7 4) = true ∧ issuesOk coded (.brx k64 5) = true ∧
    coded.marked 0 (cr coded) 0 (8 + 4 * (4 : BitVec 14).toInt) = true ∧ coded.marked 0 (cr coded) 0 (8 + 4 * (1 : BitVec 14).toInt) = false ∧
    coded.marked 0 (cr coded) 0 (8 + 4 * (-3 : BitVec 14).toInt) = false ∧ coded.marked 0 (cr coded) 0 136 = true := by decide +kernel

theorem witness_conditions :
    CondTrue (cr coded) .always ∧ CondTrue (cr coded) (.zero 9) ∧ CondFalse (cr coded) (.nonzero 9) ∧
    (¬CondTrue (cr (withCrew coded (one 9 3 1))) (.zero 9) ∧ ¬CondFalse (cr (withCrew coded (one 9 3 1))) (.zero 9)) ∧
    Uniform (cr (withCrew coded (uni 5 136))) 1 5 136 ∧ Uniform (cr (withCrew coded (uni 5 4095))) 1 5 4095 ∧
    Uniform (cr (withCrew coded (uni 5 4096))) 1 5 4096 := by
  unfold CondTrue CondFalse Uniform; decide +kernel

/-- A register that is not uniform. -/
theorem witness_not_uniform : (cr (withCrew coded (one 5 3 1))).em ≠ 0#32 ∧ ∀ v, ¬Uniform (cr (withCrew coded (one 5 3 1))) 1 5 v := by
  refine ⟨by decide +kernel, fun v h => ?_⟩
  have h0 := h.2 0 (by decide +kernel)
  have h3 := h.2 3 (by decide +kernel)
  rw [← h0] at h3
  exact absurd h3 (by decide +kernel)

/-- R151, R158: a taken branch goes to its target, one not taken goes on; a call leaves the offset of the instruction that follows. -/
theorem test_bra :
    crewAfter (.bra k96 32) coded Crew.pc = some 136 ∧ crewAfter (.bra { k96 with pred := .nonzero 9 } 32) coded Crew.pc = some 24 := by
  decide +kernel
theorem test_call : crewAfter (.call k96 7 4) coded Crew.pc = some 24 ∧ result (.call k96 7 4) coded 7 0 = some 24#32 := by decide +kernel

theorem witness_Returns :
    let s := withCrew coded (uni 5 (1 * 2 ^ 12 + 8))
    issuesOk s (.ret k64 5) = true ∧ s.slotOk (cr s) 1 true = true ∧ (cr s).strokes = [] ∧ s.marked 0 (cr s) 1 8 = true ∧
    s.marked 0 (cr s) 0 24 = true ∧ s.slotOk (cr s) 2 true = true ∧ (s.codeSlot 0 (cr s).kernel 2).code? = none ∧ (cr s).slot = 0 ∧
    crewAfter (.ret k64 5) s (fun c => (c.slot, c.pc)) = some (1, 8) := by decide +kernel

/-- R159: with v3 set in lanes 0 to 7, those lanes go on; with none, the crew goes to the reconvergence point; depth 96 overflows. -/
theorem witness_Diverge :
    let s := withCrew coded (fun c => (List.range 8).foldl (fun c l => one 3 l 1 c) c)
    issuesOk s (.bdiv k96 3 4) = true ∧ (∀ l < 32, (0xFF#32).getLsbD l = ((cr s).em.getLsbD l && decide ((cr s).reg 3 l ≠ 0#32))) ∧
    crewAfter (.bdiv k96 3 4) s (fun c => (c.em, c.pc, c.stack.map (fun e => (e.rpc, e.saved)))) = some (0xFF#32, 24, [(24, 0xFFFF_FFFF#32)]) ∧
    crewAfter (.bdiv k96 3 4) coded Crew.pc = some 24 ∧
    96 ≤ (cr (withCrew coded (fun c => { c with stack := List.replicate 96 ⟨0, 24, 1#32, 3#32⟩ }))).stack.length := by decide +kernel

theorem witness_Reconverge :
    let e : Entry := ⟨0, 8, 1#32, 3#32⟩
    issuesOk coded (.join k64) = true ∧ (cr coded).stack = [] ∧
    (let c := cr (withCrew coded (fun c => { c with em := 1#32, stack := [e] })); e.rpc = c.pc ∧ e.slot = c.slot ∧ e.saved &&& ~~~c.exited ≠ 0#32) ∧
    (let c := cr (withCrew coded (fun c => { c with em := 0#32, exited := 3#32, stack := [e, ⟨0, 24, 3#32, 7#32⟩] })); e.saved &&& ~~~c.exited = 0#32 ∧ e.rpc = c.pc) ∧
    (let c := cr (withCrew coded (fun c => { c with stack := [⟨0, 24, 1#32, 3#32⟩] })); (24 : Nat) ≠ c.pc) ∧
    crewAfter (.join k64) (withCrew coded (fun c => { c with em := 1#32, stack := [e] })) (fun c => (c.em, c.pc, c.stack)) = some (3#32, 24, []) := by
  decide +kernel

theorem witness_LanesExit :
    let s := withCrew coded (one 9 3 1)
    let i : Instr := .exit { k96 with pred := .nonzero 9 }
    issuesOk s i = true ∧ (∀ l < 32, (8#32).getLsbD l = ((cr s).em.getLsbD l && (cr s).passes (.nonzero 9) l)) ∧
    crewAfter i s (fun c => (c.em, c.exited, c.pc)) = some (0xFFFF_FFF7#32, 8#32, 24) ∧
    crewAfter (.exit k64) coded (fun c => (c.exited, c.strokes.all (fun st => st.closed.isSome))) = some (0xFFFF_FFFF#32, true) ∧
    crewAfter (.exit k64) (withCrew coded (fun c => { c with em := 1#32, stack := [⟨0, 24, 1#32, 3#32⟩] })) (fun c => (c.em, c.pc)) =
      some (0#32, 24) := by decide +kernel

/-- What the handler of the small machine finds: its entry, the frame's address in v0, the kind in v2 (R172 to R174). -/
theorem test_trap_enters_handler :
    crewAfter (.trap k96 7) coded (fun c => (c.handler, c.pc, c.em, c.reg 2 0, c.reg 0 0)) =
      some (true, 136, 1#32, 0x01B#32, 0x10_0000#32) := by decide +kernel

theorem witness_SoftwareTraps :
    issuesOk coded (.trap k96 7) = true ∧ (cr coded).strokes = [] ∧ issuesOk coded (.bkpt k96 7) = true := by decide +kernel

/-- The hypotheses of the entry to a handler. -/
theorem witness_TrapEntry :
    let c := cr coded
    let w := (coded.setCrew 0 (fun _ => c)).makeWritable (c.ctx coded) (coded.frameVa 0 c)
    coded.crews.get? 0 = some c ∧ c.strokes = [] ∧ c.handler = false ∧ c.debug = false ∧ w.crews.get? 0 = some c ∧
    w.ringSlot (c.ctx coded) (coded.frameVa 0 c) .write = .ok 0x410_0000 ∧ inSys 0x410_0000 = false ∧ inSys (0x410_0000 + 0xA00) = false ∧
    (w.writeFrame 0 c ⟨0x01B, 0, 0, 31, 7, 24, 0⟩ 0x410_0000).handlerOf 0 c.kernel = some 136 := by decide +kernel

/-- In a handler, and in a kernel of one line: no handler (R172, R173). -/
theorem witness_TrapWithoutHandler :
    (cr (withCrew coded (fun c => { c with handler := true }))).handler = true ∧
    (let w := (world.setCrew 0 (fun _ => cr world)).makeWritable ((cr world).ctx world) (world.frameVa 0 (cr world))
     w.ringSlot ((cr world).ctx world) (world.frameVa 0 (cr world)) .write = .ok 0x410_0000 ∧
     (w.writeFrame 0 (cr world) ⟨0x01B, 0, 0, 0, 7, 24, 0⟩ 0x410_0000).handlerOf 0 0 = none) ∧
    crewAfter (.trap k96 7) (withCrew coded (fun c => { c with handler := true })) Crew.life = some .trapped := by decide +kernel

/-- A crew in its handler, with a frame that goes on at 24 in every lane. -/
def handling : State :=
  let hd := setAll [(Frm.kind, 0x01B), (Frm.pc, 24), (Frm.em, 0xFFFF_FFFF), (Frm.resume, 1)]
  withCrew { coded with mem := Memory.writes tables 0x410_0000 (toBytes 64 hd) }
    (fun c => { uni 2 0x01B c with handler := true, elected := 0, em := 1#32, pc := 136 })

theorem witness_TrapReturn :
    let c := cr handling
    issuesOk handling (.rte k64) = true ∧ c.handler = true ∧ c.executing = none ∧ handling.mayBegin 0 c = none ∧ c.heldReady = false ∧
    c.elected < 32 ∧ handling.xlat 0 (c.ctx handling) (handling.frameVa 0 c) .read = .ok ⟨0x410_0000, 0x400_000F, false, false, true⟩ ∧
    crewAfter (.rte k64) handling (fun c => (c.handler, c.em, c.pc, c.reg 2 0)) = some (false, 0xFFFF_FFFF#32, 24, 0#32) := by decide +kernel

theorem witness_rte_outside : (cr world).handler = false ∧ issuesOk world (.rte k64) = true := by decide +kernel

theorem witness_MaskAndSpecial :
    ([.emrd k64 4, .sread k96 4 .clock, .emwr k64 5, .swrite k64 5] : List Instr).all (issuesOk coded) = true ∧
    (0xF#32 &&& (cr coded).path &&& ~~~(cr coded).exited ≠ 0#32) ∧ (0#32 &&& (cr coded).path = 0#32) ∧ coded.tagDoom ((cr coded).ctx coded) 0#32 = none ∧
    crewAfter (.emwr k64 5) (withCrew coded (uni 5 0xF)) Crew.em = some 0xF#32 ∧
    trapOf (.emwr k64 5) joined = some ⟨0x015, 0, 0, 0, 0, (cr joined).pc, 0⟩ ∧
    crewAfter (.emwr k64 5) (withCrew coded (fun c => { c with stack := [⟨0, 24, 3#32, 7#32⟩] })) (fun c => (c.em, c.pc)) = some (0#32, 24) ∧
    crewAfter (.swrite k64 5) (withCrew coded (uni 5 9)) Crew.tag = some 9#32 := by decide +kernel

/-- R65: the flags with the row-empty flag in bit 12, and the lane. -/
theorem test_sread :
    result (.sread k96 4 .flags) (withCrew world (fun c => { c with flags := 5#12, rowEmpty := true })) 4 0 = some 0x1005#32 ∧
    result (.sread k96 4 .lane) world 4 17 = some 17#32 := by decide +kernel

/-- ALLOT at its bounds: 8 and 256 are numbers of registers, 0, 264 and 12 are not, and n must lie above d (R163). -/
theorem witness_Allotment :
    issuesOk coded (.allot k64 4 5) = true ∧ (cr coded).strokes = [] ∧
    (let b := (begun coded 0 (cr coded)).dropLatch 0; b.growFirst 0 0 = none ∧ (256 - 256) / 8 ≤ b.blocksFree 0 0) ∧
    crewAfter (.allot k64 4 5) (withCrew coded (uni 5 8)) (fun c => (c.allot, c.reg 4 0)) = some (8, 8#32) ∧
    crewAfter (.allot k64 4 5) (withCrew coded (uni 5 256)) (fun c => (c.allot, c.reg 4 0)) = some (256, 256#32) ∧
    crewAfter (.allot k64 4 5) (withCrew coded (fun c => { uni 5 256 c with allot := 8 })) (fun c => (c.allot, c.reg 4 0)) = some (256, 256#32) ∧
    crewAfter (.allot k64 4 5) (withCrew coded (uni 5 264)) (fun c => (c.reg 2 0, c.reg 3 0)) = some (0x018#32, 1#32) ∧
    crewAfter (.allot k64 8 5) (withCrew coded (uni 5 8)) (fun c => (c.reg 2 0, c.reg 3 0)) = some (0x018#32, 0#32) := by decide +kernel

/-- Eight more crews of 256 registers on the side, and a crew of 8 that asks for 256. -/
def crowd : Tbl Crew :=
  let t := coded.crews.modify 0 (fun c => { uni 5 256 c with allot := 8 })
  (List.range 8).foldl (fun t j => t.set (j + 1) { Crew.start 0 (j + 1) 8 256 0 0#32 with life := .pending }) t
def crowded : State := { coded with crews := crowd }

/-- A grow that must wait: other crews of the side hold the blocks. -/
theorem witness_grow_waits :
    issuesOk crowded (.allot k64 4 5) = true ∧ ((begun crowded 0 (cr crowded)).dropLatch 0).blocksFree 0 0 < (256 - 8) / 8 ∧
    crewAfter (.allot k64 4 5) crowded (fun c => c.allot) = some 8 := by decide +kernel

theorem witness_CodeOverlay :
    let s := withCrew coded (uni 5 8)
    issuesOk s (.fjmp k96 5 1) = true ∧ s.slotOk (cr s) 1 true = true ∧ s.marked 0 (cr s) 1 8 = true ∧ s.marked 0 (cr s) 1 12 = false ∧
    (s.codeSlot 0 0 2).code? = none ∧ s.slotOk (cr s) 2 true = true ∧ issuesOk s (.cinv k96 1) = true ∧ s.slotOk (cr s) 1 false = true ∧
    ((s.bay 0).kerns.get? 0).isSome = true ∧ crewAfter (.fjmp k96 5 1) s (fun c => (c.slot, c.pc)) = some (1, 8) ∧
    (after (.cinv k96 1) s).map (fun t => t.codeSlot 0 0 1) = some .empty := by decide +kernel

/-- A phase barrier at VA 0x1000 and a segment at VA 0x2000. -/
def fetchable : State := withCrew { coded with mem := Memory.writes tables 0x400_1000 (toBytes 32 (Bar.mode.set 0 1)) } (uni2 10 0x2000 ∘ uni2 12 0x1000)

theorem witness_cfetch :
    let c := cr fetchable
    issuesOk fetchable (.cfetch k96 10 12 0x72) = true ∧ c.addrCheck' 0x2000 128 c.low = none ∧
    ((begun fetchable 0 c).fetchBar 0 c 0x1000).toOption = some 0x400_1000 ∧
    ((begun fetchable 0 c).crewRange 0 c 0x2000 (128 * 8) .fetch).toOption.isSome = true ∧
    (begun fetchable 0 c).regRefused ⟨0x400_1000, 0, 0x1000, 0, .cmd fetchable.serial⟩ = none ∧
    (after (.cfetch k96 10 12 0x72) fetchable).map (fun t => (t.codeSlot 0 0 2, t.cmds.length)) = some (.filling 0x2000 8 (some fetchable.serial), 1) := by
  decide +kernel

/-! ## Memory, sums, the matrix pipe, barriers, engines -/

/-- Stash pages of bay 0 from VA 0x2_0000 to 0x2_FFFF, pinned and mapped for kernel 0. -/
def stashPages : List Nat := (List.range 16).map (fun i => 0x2_0000 + 4096 * i)

/-- The small machine with a phase object at VA 0x1000, a timeline at 0x1020, a word at 0x2000, a region of scope 3 at VA 0x8000 to 0xFFFF and
one of scope 0 at VA 0x2_0000 to 0x2_7FFF. -/
def furnished : State :=
  let m := Memory.writes tables 0x400_1000 (toBytes 32 (setAll [(Bar.mode, 1), (Bar.exarr, 2), (Bar.phase, 7)]))
  let m := Memory.writes m 0x400_1020 (toBytes 32 (setAll [(Bar.mode, 2), (Bar.value, 5)]))
  let m := Memory.writes m 0x400_2000 (toBytes 4 0x8000_00F0)
  let s : State := { coded with
    mem := m, serial := 1,
    pins := stashPages.map (fun va => ⟨0, 0, va, 0x400_0000 + va, true⟩) }
  let s := s.setRegion 0 (setAll [(Reg.scope, 3), (Reg.base, 0x100), (Reg.nlines, 256), (Reg.place, 0), (Reg.valid, 1)])
  let s := s.setRegion 1 (setAll [(Reg.scope, 0), (Reg.base, 0x400), (Reg.nlines, 256), (Reg.place, 0), (Reg.valid, 1)])
  s.setBay 0 (fun b => { b with stash := stashPages.map (fun va => ⟨0, va, 0x400_0000 + va, true, some (0, 0)⟩) })

theorem furnished_takes (bl wl sl : List Nat) : Takes furnished 0 (cr furnished) bl wl sl := takes_of (by decide +kernel) bl wl sl

def hitAt (pa : Nat) : Hit := ⟨pa, 0x400_000F, false, false, true⟩

theorem witness_LoadsAndStores :
    let s := withCrew furnished (uni2 6 0x2000)
    let c := cr s
    ([.ld k64 .b16 true .none 4 6 0, .st k64 .b32 .none 6 5 0, .red k64 .add .n32 6 5 0] : List Instr).all (issuesOk s) = true ∧
    (∀ l ∈ c.acting .always, (s.checkAccess 0 c (c.addr 6 0 l) 2 .read l).toOption = some (hitAt 0x400_2000)) ∧
    (∀ l ∈ c.acting .always, (s.checkAccess 0 c (c.addr 6 0 l) 4 .write l).toOption = some (hitAt 0x400_2000)) ∧
    result (.ld k64 .b16 true .none 4 6 0) s 4 0 = some 0xF0#32 ∧ result (.ld k64 .b8 true .none 4 6 0) s 4 0 = some 0xFFFF_FFF0#32 := by
  decide +kernel

/-- Each check of an access has an address that fails it: the last canonical address and the first that is not, a peer address, an unaligned
one, an unmapped one, a poisoned line (R235). -/
theorem witness_AccessFaults :
    canonical (2 ^ 55 - 1) = true ∧ canonical (2 ^ 55) = false ∧ isPeer (2 ^ 64 - 2 ^ 55) = true ∧ isPeer 0x2000 = false ∧ 0x2001 % 4 ≠ 0 ∧
    furnished.xlat 0 0 0x20_0000 .write = .fault 0x030 0 ∧
    (furnished.xlat 0 0 0x2000 .read = .ok (hitAt 0x400_2000) ∧ lineOf 0x400_2000 ∈ ({ furnished with poisoned := [lineOf 0x400_2000] } : State).poisoned) ∧
    trapOf (.st k64 .b32 .none 6 5 0) (withCrew joined (uni2 6 0x2002)) = some ⟨0x020, 4, 0x2002, 0, 0, (cr joined).pc, 0⟩ ∧
    crewAfter (.ld k64 .b32 false .none 4 6 0) (withCrew furnished (uni2 6 0x20_0000)) (fun c => c.fault) =
      some (some ⟨0x030, 0x20_0000, false, 0, 0⟩) := by decide +kernel

theorem witness_Atomics :
    let s := withCrew furnished (uni2 6 0x2000)
    let c := cr s
    issuesOk s (.atom k96 .add .n32 4 6 8 9 0) = true ∧ c.strokes = [] ∧
    (∀ l ∈ c.acting .always, (s.checkAccess 0 c (c.addr 6 0 l) 4 .write l).toOption = some (hitAt 0x400_2000)) ∧ (hitAt 0x400_2000).memside = false := by
  decide +kernel

/-- R238: the lanes of an ATOM act one after another. -/
theorem test_atom :
    let s := withCrew furnished (fun c => { uni 8 1 (uni2 6 0x3000 c) with em := 0xF#32 })
    result (.atom k96 .add .n32 4 6 8 9 0) s 4 0 = some 0#32 ∧ result (.atom k96 .add .n32 4 6 8 9 0) s 4 3 = some 3#32 := by decide +kernel

/-- A memory-side leaf for VA 0x4000_0000, and the access of one lane there (R232). -/
def memside : State :=
  withCrew { furnished with mem := Memory.writes furnished.mem 0x201_1000 (toBytes 8 0x600_001F) } (fun c => { uni2 6 0x4000_0000 c with em := 1#32 })

theorem witness_atomics_memside :
    let c := cr memside
    issuesOk memside (.atom k96 .add .n32 4 6 8 9 0) = true ∧ c.acting .always ≠ [] ∧
    (match memside.checkAccess 0 c (c.addr 6 0 0) 4 .write 0 with | .ok h => h.memside && !inSys h.pa | .error _ => false) = true ∧
    (match (begun memside 0 c).checkAccess 0 c (c.addr 6 0 0) 4 .write 0 with | .ok h => h.memside | .error _ => false) = true := by decide +kernel

theorem test_rmw :
    Alu.rmw .min .i32 0xFFFF_FFFF 1 0 = 0xFFFF_FFFF ∧ Alu.rmw .min .n32 0xFFFF_FFFF 1 0 = 1 ∧ Alu.rmw .add .n32 0xFFFF_FFFF 1 0 = 0 ∧
    Alu.rmw .cas .n64 5 5 9 = 9 ∧ Alu.rmw .cas .n64 5 6 9 = 5 := by decide +kernel

theorem witness_WaitsAndFences :
    let s := withCrew furnished (uni2 6 0x2000 ∘ uni 9 0x8000_00F0)
    let c := cr s
    issuesOk s (.mwait k64 .eq .n32 6 9 0) = true ∧ c.strokes = [] ∧ issuesOk s (.mfence k64 true true) = true ∧ issuesOk s (.xfence k64) = true ∧
    ((begun s 0 c).checkAccess 0 c (c.addr 6 0 c.low) 4 .read c.low).toOption = some (hitAt 0x400_2000) ∧
    s.num 0x400_2000 4 = 0x8000_00F0 ∧ (holds .eq (number .n32 0x8000_00F0) (number .n32 0x8000_00F0) = true) ∧
    holds .gt (number .i32 0x8000_00F0) (number .i32 1) = false ∧ s.posted 0 0 = false ∧
    crewAfter (.mwait k64 .eq .n32 6 9 0) s (fun c => (c.wait, c.pc)) = some (.none, 24) ∧
    crewAfter (.mwait k64 .ne .n32 6 9 0) s (fun c => (c.wait, c.pc)) = some (.mwait 0x400_2000 .n32 .ne 0x8000_00F0 .monitor, 8) := by
  decide +kernel

theorem witness_SumReading :
    let s := withCrew furnished (uni2 6 0x8000)
    let c := cr s
    ([.sumrd k64 .f64 4 6 0, .sumred k64 .f32 6 5 0, .sumq k64 4 6] : List Instr).all (issuesOk s) = true ∧
    (∀ l ∈ c.acting .always, (s.sumrdLane 0 c (c.addr 6 0 l) 8 l).toOption = some (hitAt 0x400_8000)) ∧
    (∀ l ∈ c.acting .always, (s.sumLane 0 c (c.addr 6 0 l) 8 l).toOption = some 0x400_8000) ∧ canonical 0x8000 = true ∧ isPeer 0x8000 = false ∧
    (s.regionOf 0 0x8000 1).isSome = true ∧ result (.sumrd k64 .f64 4 6 0) s 5 31 = some 0#32 := by decide +kernel

/-- More than 8 lines in a SUMRED: lane l at line l of the region (R300). -/
theorem witness_sumred_lines :
    let s := withCrew joined (fun c => c)
    let t := withCrew { furnished with crews := s.crews } (fun c => (List.range 32).foldl (fun c l => one 6 l (0x8000 + 128 * l) c) c)
    (addLines [] ((List.range 32).map (fun l => lineOf (0x400_8000 + 128 * l)))).length = 32 ∧
    (trapOf (.sumred k64 .f64 6 8 0) t).map (fun t => (t.kind, t.aux)) = some (0x018, 1) := by decide +kernel

theorem witness_SumClearing :
    let s := withCrew furnished (uni2 6 0x8000 ∘ uni 8 256 ∘ uni2 10 0x2_0000)
    let c := cr s
    issuesOk s (.sumrdClr k64 .f64 4 6 0) = true ∧ issuesOk s (.sumz k64 6 8) = true ∧ issuesOk s (.sumdrain k64 true 10 6) = true ∧
    c.strokes = [] ∧ ((begun s 0 c).sumLane 0 c (c.addr 6 0 0) 8 0).toOption = some 0x400_8000 ∧ c.addrCheck' 0x8000 128 c.low = none ∧
    ((begun s 0 c).sumCheck 0 c 0x8000 (128 * 256) c.low).toOption.isSome = true ∧ s.ownReds c 0x8000 (128 * 256) = [] ∧
    ((begun s 0 c).drainSource 0 c true 0x2_0000).toOption.map List.length = some 256 ∧
    ((begun s 0 c).drainDest 0 c 0x8000).toOption.map List.length = some 256 := by decide +kernel

theorem witness_SumDeclarations :
    let s := withCrew furnished (uni2 6 0x1_0000 ∘ uni 8 (256 * 4 + 3) ∘ uni2 10 0x8000 ∘ uni2 12 0x1020)
    let c := cr s
    issuesOk s (.sumdeclDecl k64 6 8) = true ∧ issuesOk s (.sumdeclFree k64 10) = true ∧ issuesOk s (.sumdeclTl k64 12) = true ∧
    (∀ r ∈ s.regions 0, r.base + 128 * r.lines ≤ 0x1_0000 ∨ 0x1_0000 + 128 * 4 ≤ r.base) ∧ Reg.valid.get (s.regionRaw 2) = 0 ∧
    (∀ f, f < 2 → Reg.valid.get (s.regionRaw f) ≠ 0) ∧ (((s.regions 0).find? (fun r => decide (r.base = 0x8000))).map (fun r => r.lines) = some 256) ∧
    (begun s 0 c).freeDone 0 0x8000 256 = true ∧ (begun s 0 c).xlat 0 0 0x1020 .write = .ok (hitAt 0x400_1020) ∧
    Bar.mode.get (s.num 0x400_1020 32) = 2 ∧ s.regRefused ⟨0x400_1020, 0, 0x1020, 0, .bound 0 false⟩ = none ∧
    ((s.kern 0).keepOf 0).mbinds = [] ∧
    (after (.sumdeclDecl k64 6 8) s).map (fun t => (t.regions 0).length) = some 3 ∧
    (after (.sumdeclFree k64 10) s).map (fun t => (t.regions 0).length) = some 1 := by decide +kernel

/-- A region of scope 0 within the pinned pages, as SUMDECL.decl wants it (R281). -/
theorem witness_decl_stash :
    let s := furnished.setFld .region 1 Reg.valid 0
    (32 * 8) % 32 = 0 ∧ (∀ i, i < 8 → (s.pinOf 0 0 (0x2_0000 + 4096 * i)).isSome = true) ∧ 0x2_0000 % 4096 = 0 := by decide +kernel

theorem witness_MatrixInstructions :
    let s := withCrew furnished (uni2 2 0x8000 ∘ uni2 4 0x2_8000)
    let c := cr s
    let i : Instr := .mma k96 .bf16 false 0 2 64 4 8
    issuesOk s i = true ∧ issuesOk s (.mbatch k64 12) = true ∧ c.strokes = [] ∧ c.em = 0xFFFF_FFFF#32 ∧ c.addrCheck' 0x8000 128 c.low = none ∧
    ((begun s 0 c).sumCheck 0 c 0x8000 32768 c.low).toOption.isSome = true ∧ (begun s 0 c).bMapped 0 c 0x2_8000 (mmaShape .bf16).blen = true ∧
    (mmaShape .bf16).blen = 32768 ∧ 0x8000 + 128 * 256 ≤ 0x2_8000 ∧
    crewAfter i s (fun c => c.wait) = some .pipe ∧ (cr (withCrew s (fun c => { c with em := 1#32 }))).em ≠ 0xFFFF_FFFF#32 := by decide +kernel

theorem witness_BarrierOperations :
    let s := withCrew { furnished with kernels := (furnished.setKern 0 (fun k => { k with bents := [⟨5, [(0, 0)]⟩] })).kernels } (uni2 4 0x1000 ∘ uni 6 2)
    let c := cr s
    (s.objCheck 0 c 0x1000 .write).toOption = some (hitAt 0x400_1000) ∧
    ([.barinitPh k96 true 4 8 7, .barinitTl k96 4 6 7, .barinitEng k96 4 6 7, .arrive k64 true 4 6, .expect k64 4 6, .tladvMax k64 4 6,
      .tladvAdd k64 4 6] : List Instr).all (issuesOk s) = true ∧
    (0 : Nat) / 2 ^ 16 < (s.kern 0).bents.length ∧ s.member 0 0 0 = true ∧ s.regRefused ⟨0x400_1000, 0, 0x1000, 0, .bent 0⟩ = none ∧
    s.regRefused ⟨0x400_1000, 0, 0x1000, 0, .bound 0 true⟩ = none ∧ s.regRefused ⟨0x400_1000, 0, 0x1000, 0, .crew 0⟩ = none ∧
    (0 : Nat) < 2 ^ 16 ∧ (2 : Nat) % 2 ^ 16 ≠ 0 ∧ (cr (withCrew s (fun c => { c with em := 0#32 }))).em = 0#32 := by decide +kernel

/-- R308: the second of two arrivals turns the phase; a timeline takes the greater value; an operation of the other mode fails with 2. -/
theorem test_barrier_objects :
    let o := setAll [(Bar.mode, 1), (Bar.exarr, 2), (Bar.arrived, 1), (Bar.phase, 0xFFFF_FFFF)]
    let z := setAll [(Bar.mode, 2), (Bar.value, 5)]
    (BarOp.apply (.arrive 1) o).toOption.map (fun p => (Bar.phase.get p, Bar.arrived.get p)) = some (0, 0) ∧
    (BarOp.apply (.arrive 2) o).toOption.map Bar.overrun.get = some 1 ∧
    (BarOp.apply (.raise 4) z).toOption.map Bar.value.get = some 5 ∧ (BarOp.apply (.tladd (2 ^ 64 - 5)) z).toOption.map Bar.overrun.get = some 1 ∧
    (BarOp.apply (.raise 4) o).toOption = none ∧ Bar.mode.get 0 ≠ 1 ∧ Bar.mode.get 0 ≠ 2 := by decide +kernel

/-- The bounds of R309: a phase that has just passed, the present one, and one 2^31 back. -/
theorem witness_Met :
    let o := setAll [(Bar.mode, 1), (Bar.phase, 7)]
    Met o 6 ∧ ¬Met o 7 ∧ Met o (7 + 2 ^ 31) ∧ ¬Met o (6 + 2 ^ 31) ∧ Met (setAll [(Bar.mode, 2), (Bar.value, 5)]) 5 ∧
    ¬Met (setAll [(Bar.mode, 2), (Bar.value, 5)]) 6 := by unfold Met; decide +kernel

theorem witness_BarrierWaits :
    let s := withCrew furnished (uni2 4 0x1020 ∘ uni2 6 6)
    let c := cr s
    issuesOk s (.wait k64 4 6) = true ∧ issuesOk s (.barq k64 3 2 4) = true ∧ c.strokes = [] ∧
    ((begun s 0 c).objCheck 0 c 0x1020 .read).toOption = some (hitAt 0x400_1020) ∧ (s.objCheck 0 c 0x1020 .read).toOption = some (hitAt 0x400_1020) ∧
    Bar.orphan.get (s.num 0x400_1020 32) = 0 ∧ Bar.orphan.get (Bar.orphan.set (s.num 0x400_1020 32) 1) = 1 ∧
    crewAfter (.wait k64 4 6) s (fun c => (c.wait, c.pc)) = some (.barrier 0x400_1020 0x1020 6 2, 8) ∧
    crewAfter (.wait k64 4 6) (withCrew s (uni2 6 5)) (fun c => (c.wait, c.pc)) = some (.none, 24) ∧
    result (.barq k64 3 2 4) s 3 0 = some 0#32 := by decide +kernel

/-- The descriptor of a plain COPY of 4 KiB from VA 0x2000 to 0x3000, of a GATHER into the stash, and of an ENCODE. -/
def copyDesc : Nat := 0x2000 + 0x3000 * 2 ^ 64 + 256 * 2 ^ 128 + 0x80 * 2 ^ 197
def gatherDesc : Nat := 0x2000 + 0x2_8000 * 2 ^ 64 + 0x4000 * 2 ^ 128
def encodeDesc : Nat := 0x5000 + 0x80 * 2 ^ 197
/-- A group of eight registers in lane 0, the one active lane. -/
def wide (r v : Nat) (c : Crew) : Crew := (List.range 8).foldl (fun c i => one (r + i) 0 (v / 2 ^ (32 * i)) c) { c with em := 1#32 }

theorem witness_EngineCommands :
    let s := withCrew furnished (wide 16 copyDesc ∘ wide 24 gatherDesc ∘ wide 32 encodeDesc)
    let c := cr s
    let u := begun s 0 c
    ([.copy k64 16, .gather k64 24, .scatter k64 24, .encode k64 32, .batch k64 4] : List Instr).all (issuesOk s) = true ∧ c.strokes = [] ∧
    c.val 8 16 0 = copyDesc ∧ (u.barOf 0 c copyDesc).toOption = some (some (0x1000, 0x400_1000)) ∧ copyShape copyDesc = some (1, 4096) ∧
    slice 55 0 copyDesc % 16 = 0 ∧ (u.listCheck 0 c gatherDesc).toOption.isSome = true ∧ (u.barOf 0 c gatherDesc).toOption = some none ∧
    slice 247 197 encodeDesc ≠ 0 ∧ (u.readyOf 0 c encodeDesc).toOption = some none ∧ (u.barOf 0 c encodeDesc).toOption.isSome = true ∧
    (∀ m ∈ s.cmds, m.id < s.serial) ∧ s.regRefused ⟨0x400_1000, 0, 0x1000, 0, .cmd s.serial⟩ = none ∧
    (after (.copy k64 16) s).map (fun t => t.cmds.map (fun m => (m.kind, m.bar))) = some [(.copy, some 0x400_1000)] ∧
    crewAfter (.batch k64 4) s (fun c => c.reg 4 0) = some 1#32 := by decide +kernel

/-- A COPY whose multicast bent holds the crew (R325). -/
theorem witness_copy_multicast :
    slice 193 193 (copyDesc + 2 ^ 193) = 1 ∧ slice 255 248 (copyDesc + 2 ^ 193) = 0 ∧ isPeer (sext56 (slice 119 64 (copyDesc + 2 ^ 193))) = false := by
  decide +kernel

/-! ## Trees and pages -/

def putQ (m : Memory) (pa v : Nat) : Memory := Memory.writes m pa (toBytes 8 v)
def putNode (m : Memory) (n v : Nat) : Memory := Memory.writes m (nodeAt 0x500_0000 n) (toBytes 16 v)

/-- Tree 0 of context 0, generation 5, window 1, trunk of 3 tokens: node 0 drafted, node 1 accepted below it, node 2 rejected, node 3 pruned;
a shape of one template node as template 1; page tables for windows 1 and 2; crew operands: v4 its handle, v5 a node, v6:7 an address. -/
def planted : State :=
  let m := putQ (putQ (putQ (putQ furnished.mem 0x201_1FB8 0x202_0001) 0x202_00F8 0x500_0007) 0x201_1000 0x202_1001) 0x202_1000 0x510_0027
  let m := putQ (putQ (putQ m 0x201_1FC0 0x202_3001) 0x201_2FB8 0x202_2001) 0x202_20F8 0x508_0007
  let m := Memory.writes m 0x400_3000 [0xFF#8, 0x01#8]
  let m := putNode m 0 (setAll [(Nod.pos, 3), (Nod.root, 1), (Nod.depth, 1), (Nod.gen, 1), (Nod.state, 1)])
  let m := putNode m 1 (setAll [(Nod.pos, 4), (Nod.depth, 2), (Nod.gen, 2), (Nod.state, 3)])
  let m := putNode m 2 (setAll [(Nod.pos, 3), (Nod.root, 1), (Nod.depth, 1), (Nod.gen, 1), (Nod.state, 4)])
  let m := putNode m 3 (setAll [(Nod.pos, 3), (Nod.root, 1), (Nod.depth, 1), (Nod.gen, 1), (Nod.state, 6)])
  let s : State := { furnished with
    mem := m, ctxCfg := Tbl.set [] 0 (setAll [(Ctx.ptroot, 0x2000), (Ctx.trapva, 0x100), (Ctx.flogva, 0x180), (Ctx.treemax, 4), (Ctx.pinmax, 17)]) }
  let s := s.setRcd .tree 0 (setAll [(Tre.tlen, 3), (Tre.window, 1), (Tre.nlive, 4), (Tre.gen, 5), (Tre.cls, 2), (Tre.state, 1)])
  let s := (s.setRcd .shape 1 (setAll [(Shape.n, 1), (Shape.parent 0, 0xFF)])).setFld .context 0 Ctx.ntrees 1
  withCrew s (uni 4 0x5_0000 ∘ uni 5 0x100)

def treeBegun : State := begun planted 0 (cr planted)
def plantedNodes : List Nat :=
  [setAll [(Nod.pos, 3), (Nod.root, 1), (Nod.depth, 1), (Nod.gen, 1), (Nod.state, 1)], setAll [(Nod.pos, 4), (Nod.depth, 2), (Nod.gen, 2), (Nod.state, 3)],
   setAll [(Nod.pos, 3), (Nod.root, 1), (Nod.depth, 1), (Nod.gen, 1), (Nod.state, 4)],
   setAll [(Nod.pos, 3), (Nod.root, 1), (Nod.depth, 1), (Nod.gen, 1), (Nod.state, 6)]] ++ List.replicate 252 0

theorem get?_above {α : Type} : ∀ (t : Tbl α) (b k : Nat), t.all (fun p => decide (p.1 < b)) = true → b ≤ k → Tbl.get? t k = none
  | [], _, _, _, _ => rfl
  | (j, v) :: t, b, k, h, hk => by
    simp only [List.all_cons, Bool.and_eq_true, decide_eq_true_eq] at h
    rw [Tbl.get?, if_neg (by omega)]
    exact get?_above t b k h.2 hk

/-- Above the last cell of memory every number is 0. -/
theorem num_above (s : State) (b : Nat) (h : s.mem.all (fun p => decide (p.1 < b)) = true) (hb : 0x200_0000 ≤ b) :
    ∀ n pa, b ≤ pa → s.num pa n = 0 := by
  intro n
  induction n with
  | zero => intro pa _; rfl
  | succ n ih =>
    intro pa hp
    have hz : s.byte pa = 0#8 := by
      rw [State.byte, if_neg (by simp [inSys]; omega), Memory.byte, Tbl.getD, get?_above s.mem b pa h hp]; rfl
    have := ih (pa + 1) (by omega)
    simp only [State.num, State.bytes, ofBytes, hz] at this ⊢
    simp [this]

theorem planted_nodes : treeBegun.nodes 0x500_0000 = plantedNodes := by
  have h0 : ∀ n, 4 ≤ n → treeBegun.num (nodeAt 0x500_0000 n) 16 = 0 := fun n hn =>
    num_above treeBegun 0x500_1040 (by decide +kernel) (by decide) 16 _ (by simp only [nodeAt]; omega)
  have h1 : (List.range 4).map (fun n => treeBegun.num (nodeAt 0x500_0000 n) 16) = plantedNodes.take 4 := by decide +kernel
  have h2 : (List.range 252).map (fun n => treeBegun.num (nodeAt 0x500_0000 (4 + n)) 16) = List.replicate 252 0 := by
    rw [List.eq_replicate_iff]
    exact ⟨by simp, fun x hx => by obtain ⟨n, _, rfl⟩ := List.mem_map.1 hx; exact h0 _ (by omega)⟩
  rw [State.nodes, show (256 : Nat) = 4 + 252 from rfl, List.range_add, List.map_append, h1, List.map_map]
  exact congrArg (plantedNodes.take 4 ++ ·) h2
theorem planted_walk :
    treeBegun.xlatWalk 0 (treeBegun.treeVa 0) .write = .ok ⟨0x500_0000, 0x500_0007, false, false, false⟩ ∧
    treeBegun.xlatWalk 0 (treeBegun.treeVa 0) .read = .ok ⟨0x500_0000, 0x500_0007, false, false, false⟩ := by decide +kernel
theorem planted_page : treeBegun.treePage 0 0 0 .write = .ok 0x500_0000 := by simp only [State.treePage, planted_walk.1]
theorem planted_seen : treeBegun.treePage 0 0 0 .read = .ok 0x500_0000 := by simp only [State.treePage, planted_walk.2]

theorem witness_TreeOperations :
    let c := cr planted
    ([.tshape k64 8 6 9, .tfork k96 8 4 5 6, .tprune k64 8 4 5, .tcommit k64 8 4 5, .tappend k64 8 4 5, .tnew k64 8 4, .tfree k64 8 4] :
      List Instr).all (issuesOk planted) = true ∧ c.strokes = [] ∧ c.em ≠ 0#32 ∧
    planted.treeFor 0 0x5_0000 = .ok 0 ∧ planted.treeFor 0 0x4_0000 = .error 0x20 ∧ planted.treeFor 1 0x5_0000 = .error 0x28 ∧
    (treeBegun.treeNew 0 2 0).toOption.map Prod.snd = some 0x1_0001 ∧
    (0x101_0000 : Nat) < 2 ^ 29 ∧ 0x101_0000 / 2 ^ 17 % 2 ^ 7 = 0 ∧ (0x101_0000 : Nat).testBit 16 = true ∧ 0x101_0000 % 2 ^ 16 = 0 := by
  decide +kernel

/-- R358: the subtree of node 0 has node 1 in it. -/
theorem test_subtree : descOf plantedNodes 0 = [0, 1] := by decide +kernel
theorem test_tprune : (treeBegun.treePrune 0 0 0x201 0).toOption.map Prod.snd = some 0x100 := by
  simp only [State.treePrune, planted_page, planted_nodes]
  decide +kernel
/-- R359: the path of node 1, whose first node is not accepted. -/
theorem test_path : chainOf plantedNodes 256 1 = [1, 0] ∧ Nod.state.get (nodeOf plantedNodes 0) ≠ 3 := by decide +kernel
/-- R356: one node, at index 4, of generation 1. -/
theorem test_tfork : (treeBegun.treeFork 0 0 0x101_0000 0 0).toOption.map Prod.snd = some 0x101_0400 := by
  simp only [State.treeFork, planted_page, planted_nodes]
  decide +kernel

theorem witness_tappend :
    let s := treeBegun.setFld .tree 0 Tre.nlive 0
    (s.treeAppend 0 0 13 0).toOption.map (fun p => (p.1.fld .tree 0 Tre.tlen, p.2)) = some (16, 0) ∧
    (s.treeAppend 0 0 14 0).toOption = none ∧ (3 : Nat) + 13 ≤ s.spp 0 * s.trunkPages 0 := by decide +kernel

/-- The parent bytes 0xFF, 1: a shape of one node is well formed, of two not. -/
theorem witness_tshape :
    ((treeBegun.bytes64 0 (cr planted) 0x3000).toOption.map (fun pas => (pas.take 2).map (fun pa => (planted.byte pa).toNat))) =
      some [0xFF, 1] := by decide +kernel

/-- The bounds of the statuses: at the limit of trees, outside local space, past the last trunk page, and each state of a node. -/
theorem witness_TreeStatuses :
    planted.fld .context 0 Ctx.ntrees < planted.cfg 0 Ctx.treemax ∧ planted.freeTree = some 1 ∧ (2 ^ 25 % 2 ^ 26).testBit 25 = true ∧
    planted.cfg 0 Ctx.treemax ≤ (planted.setFld .context 0 Ctx.ntrees 4).fld .context 0 Ctx.ntrees ∧ planted.fld .tree 0 Tre.nlive ≠ 0 ∧
    (let t := (planted.setFld .tree 0 Tre.nlive 0).setFld .tree 0 Tre.tlen (16127 * 16)
     16126 < (t.fld .tree 0 Tre.tlen + 1 - 1) / t.spp 0 ∧ t.fld .tree 0 Tre.tlen + 1 > 16127 * t.spp 0) ∧
    (let r := nodeOf plantedNodes
     Nod.gen.get (r 0) = 1 ∧ Nod.state.get (r 4) = 0 ∧ nodeLive (r 3) = false ∧ Nod.state.get (r 3) = 6 ∧ Nod.state.get (r 2) = 4) ∧
    planted.fld .shape 0 Shape.n = 0 := by decide +kernel

theorem test_tree_statuses :
    (treeBegun.treePrune 0 0 0x103 0).toOption.map Prod.snd = some 0x22 ∧ (treeBegun.treeFork 0 0 0x102 0 0).toOption.map Prod.snd = some 0x22 ∧
    (treeBegun.treeFork 0 0 0x103 0 0).toOption.map Prod.snd = some 0x21 := by
  simp only [State.treePrune, State.treeFork, planted_page, planted_nodes]
  decide +kernel

theorem witness_TreeMasks :
    ([.tmask k64 8 4 5, .tmaskVfy k64 8 4 5, .tinfoLo k64 8 4 5, .tinfoHi k64 8 4 5, .tinfoTree k64 8 4 9, .tacc k96 8 4 5 9] : List Instr).all
      (issuesOk planted) = true ∧
    (∀ l ∈ (cr planted).active, ((cr planted).reg 5 l).toNat < 2 ^ 16 ∧ (cr planted).reg 9 l = 0#32) ∧
    planted.treeSeen 0 0x5_0000 = some 0 ∧ planted.treeSeen 0 0x4_0000 = none ∧
    maskWord plantedNodes 0x201 = 3 ∧ maskWord plantedNodes 0x1_0201 = 0 ∧ maskWord plantedNodes 0x301 = 0 ∧
    crewAfter (.tinfoTree k64 8 4 9) planted (fun c => (c.reg 8 7, c.reg 9 7)) = some (3#32, 0x2_0004#32) := by decide +kernel

/-- R347, R348, R362: p = 0.5 against q = 1 with u = 0x7FFF and u = 0x8000 of 65,536; a second verdict on a node is refused. -/
theorem witness_TreeVerdicts :
    verdict 0 0x7FFF 0x3F00_0000 = (true, false) ∧ verdict 0 0x8000 0x3F00_0000 = (false, false) ∧ verdict 0 0 0x8000_0000 = (false, false) ∧
    verdict 0 0 0x7FC0_0000 = (false, true) ∧ verdict (2 ^ 48) 0 0x3F00_0000 = (true, false) ∧
    verdict (2 ^ 48 + 0x7C00 * 2 ^ 32) 0 0x3F00_0000 = (false, false) ∧ counted (2 ^ 32 - 1) true = 2 ^ 32 - 1 ∧ counted 5 true = 2 ^ 32 + 6 ∧
    (let ns := plantedNodes
     findNode ns 0x100 = some 0 ∧ findNode ns 0x200 = none ∧ findNode ns 0x102 = some 2 ∧ Nod.state.get (nodeOf ns 2) = 4 ∧ 0 < ns.length ∧
     (treeBegun.judgeNode 0x500_0000 ns 0x102 0).2.2 = 0x22 ∧ (treeBegun.judgeNode 0x500_0000 ns 0x200 0).2.2 = 0x21 ∧
     (let r := treeBegun.judgeNode 0x500_0000 ns 0x100 0x3F00_0000
      r.2.2 = 1 ∧ (treeBegun.judgeNode 0x500_0000 r.2.1 0x100 0x3F00_0000).2.2 = 0x22)) := by decide +kernel

/-- The small machine with a limit of 17 pins and 16 counted, a seventeenth stash page mapped and not pinned, four stash pages of kernel 0, a pending
and a claimed fault-queue entry, and a checkpoint descriptor at VA 0x2040 whose range is the one page of VA 0x4000_0000. -/
def paged : State :=
  let m := Memory.writes planted.mem 0x400_2040 (toBytes 64 (setAll [(Ckp.nranges, 1), (Ckp.list, 0x2080)]))
  let m := putQ (putQ m 0x400_2080 0x4000_0000) 0x400_2088 0x1_0000
  let e (i va : Nat) (cl : Bool) : FqEntry := ⟨0, i, 0, va / 65536, cl, 0x030, va, 0, 0, 0, 8, [], [], 5⟩
  let s : State := { planted with mem := m, fq := [e 7 0x70_0000 false, e 8 0x80_0000 true] }
  let s := (s.setKern 0 (fun k => { k with launch := Lch.spages.set k.launch 4 })).setFld .context 0 Ctx.npinned 16
  withCrew (s.setStash 0 (fun l => l ++ [⟨0, 0x3_0000, 0x403_0000, true, some (0, 1)⟩, ⟨0, 0x4_0000, 0x404_0000, true, some (9, 1)⟩])) (uni2 6 0x2_F000 ∘ uni 9 1)

theorem witness_Pins :
    ([.pgpin k64 8 6 9, .pgunpin k64 8 6 9, .smap k64 8 6 9, .sflushWb k64 6 9, .sflushInv k64 6 9] : List Instr).all (issuesOk paged) = true ∧
    (cr paged).strokes = [] ∧ canonical 0x2_F000 = true ∧ isPeer 0x2_F000 = false ∧ (0x2_F000 : Nat) % 4096 = 0 ∧
    paged.cfg 0 Ctx.pinmax = 17 ∧ paged.fld .context 0 Ctx.npinned = 16 ∧ (paged.pinOf 0 0 0x2_F000).isSome = true ∧ paged.pinOf 0 0 0x3_0000 = none ∧
    (paged.bay 0).stash.all (fun m => !paged.frameBusy m.pa) = true ∧
    crewAfter (.pgpin k64 8 6 9) (withCrew paged (uni 9 2)) (fun c => c.reg 8 0) = some 0#32 ∧
    crewAfter (.pgpin k64 8 6 9) (withCrew (paged.setFld .context 0 Ctx.npinned 17) (uni 9 2)) (fun c => c.reg 8 0) = some 0x12#32 ∧
    crewAfter (.pgpin k64 8 6 9) (withCrew paged (uni 9 256)) (fun c => c.reg 8 0) = some 0x13#32 ∧
    (after (.pgunpin k64 8 6 9) paged).map (fun t => (t.pins.length, t.fld .context 0 Ctx.npinned)) = some (15, 15) := by decide +kernel

theorem witness_Mappings :
    1 < paged.lch 0 Lch.spages ∧ (paged.stashOf 0 0 0x4_0000).map (fun m => m.owner) = some (some (9, 1)) ∧ paged.pinOf 0 0 0x4_0000 = none ∧
    ((begun paged 0 (cr paged)).backing 0 (cr paged) 0x5_0000).toOption = some (0x405_0000, true, false) ∧ paged.stashOf 0 0 0x5_0000 = none ∧
    ((begun paged 0 (cr paged)).backing 0 (cr paged) 0x4000_0000).toOption = some (0x510_0000, true, true) ∧
    (after (.sflushInv k64 6 9) (withCrew paged (uni2 6 0x3_0000))).map (fun t => (t.bay 0).stash.length) = some 17 ∧
    (after (.sflushInv k64 6 9) paged).map (fun t => (t.bay 0).stash.length) = some 18 := by decide +kernel

theorem witness_FaultQueues :
    let s := withCrew paged (uni2 6 0x2000 ∘ uni2 10 8)
    let c := cr s
    ([.pgqNext k64 8 6, .pgqDone k64 8 10, .pgqFail k64 8 10, .pgqInval k64 8 6] : List Instr).all (issuesOk s) = true ∧
    ((begun s 0 c).checkAccess 0 c 0x2000 32 .write c.low).toOption = some (hitAt 0x400_2000) ∧ (s.fqOldest 0).map (fun e => e.idx) = some 7 ∧
    ({ s with fq := [] } : State).fqOldest 0 = none ∧ (s.claimedEntry 0 8).map (fun e => e.idx) = some 8 ∧ s.claimedEntry 0 7 = none ∧
    s.claimedEntry 0 8191 = none ∧ s.fqWait = [] ∧
    (after (.pgqNext k64 8 6) s).map (fun t => (t.num 0x400_2000 2, t.fq.map (fun e => e.claimed))) = some (0x030, [true, true]) ∧
    (after (.pgqDone k64 8 10) s).map (fun t => t.fq.length) = some 1 := by decide +kernel

def checkpointed : State := withCrew paged (uni2 6 0x2040 ∘ uni2 10 0x4000_0000 ∘ uni2 12 0x1_0000)
def cutLeaf : Leaf := ⟨0x4000_0000, 0x510_0027, 0x202_1000, false⟩

theorem witness_Marks :
    let s := checkpointed
    let u := begun s 0 (cr s)
    ([.pgcowMark k64 8 10 12, .pgcowClear k64 8 10 12] : List Instr).all (issuesOk s) = true ∧
    (u.cowRange (cr s) 0x4000_0000 0x1_0000).toOption = some [cutLeaf] ∧ (u.cowRange (cr s) 0x4000_0000 0).toOption = some [] ∧ u.reserved 0 = [] ∧
    cutLeaf.e < 2 ^ 64 ∧ s.num cutLeaf.ea 8 = cutLeaf.e := by decide +kernel

theorem witness_Checkpoints :
    let s := checkpointed
    let c := cr s
    let u := begun s 0 c
    ([.ckptCut k64 8 6, .ckptBack k64 8 6] : List Instr).all (issuesOk s) = true ∧
    ((u.ckptRead 0 c 0x2040 .write).toOption.bind (fun p => p.2.2)) = some [(0x4000_0000, 0x1_0000, [cutLeaf])] ∧
    (u.ckptRead 0 c 0x2000 .read).toOption.map (fun p => p.2.2.isNone) = some true ∧ s.othersRun c = false ∧
    ((u.cutLeaves 0 [cutLeaf]).makeWritable 0 0x2040).xlat 0 0 0x2040 .write = .ok (hitAt 0x400_2040) ∧ s.reds = [] ∧
    ringUsed (s.fld .pool 0 Pool.snpput) 0 = 0 ∧ (s.snpRing 0).cap = 4096 ∧ ringUsed 4097 0 = 4097 := by decide +kernel

theorem test_checkpoint :
    ({ checkpointed with kernels := checkpointed.kernels.set 1 { checkpointed.kern 0 with state := .running } } : State).othersRun (cr checkpointed) = true ∧
    (after (.ckptCut k64 8 6) checkpointed).map (fun t => t.num 0x202_1000 8) = some 0x510_0067 ∧
    crewAfter (.ckptBack k64 8 6) checkpointed (fun c => c.reg 8 0) = some 0#32 := by decide +kernel

/-! ## Peers, kernels, debug -/

/-- The peer address of offset 0x100 in the window of module 5, and the small machine as module 1 of epoch 3 with module 5 live. -/
def peerAt : Nat := 2 ^ 64 - 2 ^ 55 + 5 * 2 ^ 45 + 0x100
def linked : State :=
  withCrew ((furnished.setRcd .link 0 (setAll [(Lnk.self, 1), (Lnk.epoch, 3)])).setRcd .member 5 (setAll [(Mem.state, 1), (Mem.ports, 2)]))
    (uni2 6 peerAt ∘ uni 9 1 ∘ uni 10 0x3F80_0000)

theorem witness_PeerAccesses :
    let c := cr linked
    ([.xput k64 .b32 6 10, .xget k64 .b32 12 6, .xred k96 .add .n32 6 10 0, .xred k96 .add .f32 6 10 0, .xsigArr k64 6 9, .xsigMax k64 6 14] :
      List Instr).all (issuesOk linked) = true ∧ c.strokes = [] ∧ peerOf peerAt = 5 ∧ peerOff peerAt = 0x100 ∧ linked.memberLive 5 = true ∧
    (∀ l ∈ c.acting .always, (c.v64 6 l = peerAt ∧ (c.peerCheck peerAt 4 l).isNone ∧ (c.peerCheck peerAt 32 l).isNone) ∧ xredBad c .f32 10 l = false) ∧
    linked.burstWaits 0 c (4 * 32) = false ∧ xredBad (cr (withCrew linked (one 10 3 0x7F80_0000))) .f32 10 3 = true ∧ linked.memberLive 6 = false := by
  decide +kernel

/-- R374: 32 lanes into one block make one packet, and a block in another module a second. -/
theorem test_packets :
    (after (.xput k64 .b32 6 10) linked).map (fun t => t.peers.map (fun p => (p.pkt.dst, p.pkt.ops.length))) = some [(5, 32)] ∧
    (after (.xget k64 .b32 12 6) linked).map (fun t => t.peers.map (fun p => (p.pkt.dst, p.pkt.ops.length))) = some [(5, 32)] := by decide +kernel

theorem witness_PeerChecks :
    canonical (2 ^ 55) = false ∧ isPeer 0x2000 = false ∧ slice 54 45 (peerAt + 763 * 2 ^ 45) = 768 ∧ (peerAt + 2) % 4 ≠ 0 ∧
    trapOf (.xput k64 .b32 6 10) (withCrew { joined with crews := joined.crews } (uni2 6 (peerAt + 763 * 2 ^ 45))) = none := by decide +kernel

theorem witness_ProbeReadsMember :
    issuesOk linked (.xprobe k64 12 14) = true ∧ (cr linked).strokes = [] ∧
    crewAfter (.xprobe k64 12 14) (withCrew linked (uni 14 5)) (fun c => c.reg 12 0) = some 0x3_0201#32 ∧
    crewAfter (.xprobe k64 12 14) (withCrew linked (uni 14 767)) (fun c => c.reg 12 0) = some 0x3_0000#32 ∧
    crewAfter (.xprobe k64 12 14) (withCrew linked (uni 14 768)) (fun c => (c.reg 2 0, c.reg 3 0)) = some (0x060#32, 768#32) ∧
    crewAfter (.xprobe k64 12 14) (withCrew linked (uni 14 1024)) (fun c => (c.reg 2 0, c.reg 3 0)) = some (0x018#32, 1#32) := by decide +kernel

/-- A launch record with one code slot and a save area, in memory at VA 0x3000; queue 0 open, of context 0, for the device, of depth 1. -/
def launchRec : Nat := setAll [(Lch.slots, 1), (Lch.nsave, 4), (Lch.saveva, 0x100)]
def queued : State :=
  let s : State := { furnished with mem := Memory.writes furnished.mem 0x400_3000 (toBytes 256 launchRec) }
  withCrew ({ s with queueCfg := Tbl.set [] 0 (setAll [(Que.depth, 1), (Que.dev, 1), (Que.cls, 3)]) }.setFld .queue 0 Que.state 1) (uni2 6 0x3000)

theorem witness_Launches :
    let c := cr queued
    issuesOk queued (.launch k64 8 6) = true ∧ c.strokes = [] ∧ (c.addrCheck' 0x3000 64 c.low).isNone = true ∧
    ((begun queued 0 c).crewRange 0 c 0x3000 256 .read).toOption.map (fun l => ofBytes (queued.readPieces l)) = some launchRec ∧
    ((begun queued 0 c).crewRange 0 c 0x3004 4 .write).toOption.isSome = true ∧
    queued.launchTest 0 launchRec Que.dev true 0 = .post 1 [] ∧ queued.launchTest 0 0 Que.dev true 0 = .refused 9 := by decide +kernel

/-- R99: each test in its turn. -/
theorem witness_LaunchTests :
    queued.launchTest 0 launchRec Que.dev true 1 = .refused 2 ∧ queued.launchTest 7 launchRec Que.dev true 0 = .refused 7 ∧
    queued.launchTest 0 launchRec Que.host true 0 = .refused 8 ∧ queued.launchTest 0 launchRec Que.dev false 0 = .refused 9 ∧
    (queued.setFld .queue 0 Que.nposted 1).launchTest 0 launchRec Que.dev true 0 = .refused 6 := by decide +kernel

theorem witness_QueueControl :
    let c := cr (withCrew queued (uni 9 7))
    ([.qctlHold k64 8 14, .qctlRelease k64 8 14, .qctlFlush k64 8 14, .qctlClass k64 8 14 9, .qctlQuery k64 8 14] : List Instr).all
      (issuesOk queued) = true ∧ c.em ≠ 0#32 ∧
    crewAfter (.qctlQuery k64 8 14) queued (fun c => c.reg 8 0) = some 0x31#32 ∧
    (after (.qctlHold k64 8 14) queued).map (fun t => t.fld .queue 0 Que.state) = some 2 ∧
    (after (.qctlClass k64 8 14 9) (withCrew queued (uni 9 7))).map (fun t => t.qcfg 0 Que.cls) = some 7 ∧
    crewAfter (.qctlClass k64 8 14 9) (withCrew queued (uni 9 8)) (fun c => c.reg 8 0) = some 3#32 ∧
    crewAfter (.qctlQuery k64 8 14) (withCrew queued (uni 14 4096)) (fun c => c.reg 8 0) = some 4#32 ∧
    crewAfter (.qctlRelease k64 8 14) (withCrew queued (uni 14 4095)) (fun c => c.reg 8 0) = some 2#32 := by decide +kernel

/-- A second kernel of the context, in a state. -/
def withKernel (st : KState) (f : Kernel → Kernel) : State :=
  { queued with kernels := queued.kernels.set 1 (f { queued.kern 0 with state := st, ending := none, launch := launchRec, deps := [] }) }
def named (x : State) (h : Nat) : State := withCrew x (uni 14 h)
def h1 : Nat := (withKernel .ready id).handle 1

theorem witness_KernelControl :
    ([.kstopStop k64 8 14, .kstopKill k64 8 14, .kstopResume k64 8 14, .kq k64 8 14] : List Instr).all (issuesOk (withKernel .ready id)) = true ∧
    (after (.kstopStop k64 8 14) (named (withKernel .ready id) h1)).map (fun t => (t.kern 1).state) = some .stopped ∧
    (after (.kstopStop k64 8 14) (named (withKernel .running id) h1)).map (fun t => (t.kern 1).state) = some .stopping ∧
    crewAfter (.kstopStop k64 8 14) (named (withKernel .running (fun k => { k with launch := 0 })) h1) (fun c => c.reg 8 0) = some 0x0C#32 ∧
    crewAfter (.kstopStop k64 8 14) (named (withKernel .stopped id) h1) (fun c => c.reg 8 0) = some 0x0B#32 ∧
    (after (.kstopKill k64 8 14) (named (withKernel .ready id) h1)).map (fun t => (t.kern 1).ending) = some (some 2) ∧
    crewAfter (.kstopKill k64 8 14) (named (withKernel .retired id) h1) (fun c => c.reg 8 0) = some 0x0B#32 ∧
    (after (.kstopResume k64 8 14) (named (withKernel .stopped id) h1)).map (fun t => (t.kern 1).state) = some .ready ∧
    (after (.kstopResume k64 8 14) (named (withKernel .trapped id) h1)).map (fun t => (t.kern 1).state) = some .running ∧
    crewAfter (.kq k64 8 14) (named (withKernel .trapped (fun k => { k with exited := 3 })) h1) (fun c => (c.reg 8 0, c.reg 9 0)) = some (8#32, 3#32) ∧
    crewAfter (.kq k64 8 14) (named (withKernel .trapped id) (h1 + 2 ^ 14)) (fun c => c.reg 8 0) = some 0xA00#32 := by decide +kernel

/-- LEAVE at level 0: to 0, to 15, to 16. -/
theorem witness_Leave :
    issuesOk queued (.leave k64 8 14) = true ∧ queued.level 0 0 = 0 ∧
    crewAfter (.leave k64 8 14) queued (fun c => (c.reg 8 0, c.wait)) = some (0#32, .none) ∧
    crewAfter (.leave k64 8 14) (withCrew queued (uni 14 15)) (fun c => c.wait) = some (.leaveAsk queued.serial 8 (queued.clock + 100)) ∧
    crewAfter (.leave k64 8 14) (withCrew queued (uni 14 16)) (fun c => c.reg 8 0) = some 4#32 := by decide +kernel

theorem witness_Notify :
    let c := cr queued
    issuesOk queued (.notify k64 6 9) = true ∧ slice 15 11 0x2_0008 = 0 ∧ (0x2_0008 : Nat) % 2 ^ 11 = 8 ∧ (1025 : Nat) % 2 ^ 11 > 1024 ∧ slice 15 11 0x800 ≠ 0 ∧
    ((begun queued 0 c).payload 0 c 0x3000 8).toOption.map List.length = some 8 ∧ queued.windowFull = false ∧ queued.host.waiting = [] ∧
    (after (.notify k64 6 9) (withCrew queued (uni 9 0x2_0008))).map (fun t => t.host.sent.map (fun o => (o.typ, o.body.length))) = some [(0x85, 24)] := by
  decide +kernel

/-- Comparator 2 of bay 0 free, and held by context 3; a caller of context 1 that owns queue 4. -/
theorem witness_Comparators :
    let s := ((queued.setKern 0 (fun k => { k with ctx := 1 })).setFld .queue 4 Que.state 1)
    let s := withCrew { s with queueCfg := Tbl.set s.queueCfg 4 (Que.ctx.set 0 1) } (uni2 6 (0x4 * 2 ^ 32 + 0x1008) ∘ uni 9 255)
    let c := cr s
    let held := s.setRcd .comparator 2 (setAll [(Cmp.en, 1), (Cmp.ctx, 3)])
    issuesOk s (.bpset k96 6 9 2) = true ∧ issuesOk s (.bpclr k96 2) = true ∧ c.em ≠ 0#32 ∧ c.ctx s = 1 ∧ s.ownsQueue 1 4 = true ∧
    slice 43 32 (0x4 * 2 ^ 32 + 0x1008) = 4 ∧ (2 : BitVec 14).toNat.testBit 3 = false ∧
    Cmp.en.get (held.rcd .comparator 2) = 1 ∧ Cmp.ctx.get (held.rcd .comparator 2) ≠ c.ctx held ∧
    (after (.bpset k96 6 9 2) s).map (fun t => (t.fld .comparator 2 Cmp.en, t.fld .comparator 2 Cmp.pc, t.fld .comparator 2 Cmp.slot)) = some (1, 8, 1) := by
  decide +kernel

theorem witness_Stamp :
    issuesOk queued (.stamp k64 8 6) = true ∧ (cr (withCrew queued (fun c => { c with em := 0#32 }))).em = 0#32 ∧
    crewAfter (.stamp k64 8 6) queued (fun c => c.reg 8 5) = some 1#32 ∧
    (after (.stamp k64 8 6) queued).map (fun t => (((t.kern 0).keepOf (cr t).idx).windows.map (fun w => (w.label, w.seq)))) = some [(0x3000, 1)] := by
  decide +kernel

theorem witness_Trace : issuesOk queued (.trace k64 6 9) = true ∧ Takes queued 0 (cr queued) [] [] [] :=
  ⟨by decide +kernel, takes_of (by decide +kernel) [] [] []⟩

/-! ## Events -/

def at' (p : Place) (s : State) : State := { s with place := p }
/-- What an event leaves at its place. -/
def ran (p : Place) (i : Instr) (s : State) : Option State := after i (at' p s)

/-- The small machine with context 0 active. -/
def lively : State := furnished.setFld .context 0 Ctx.state 2

/-- At clk 300: crew 0 in a long stall since 5, crew 1 pending and ready since 10. -/
def paired : State :=
  let c : Crew := { Crew.start 0 1 8 8 0 0#32 with life := .pending, ready := some 10 }
  let s := withCrew world (fun c => { c with stalled := some 5 })
  State.setSide { s with clock := 300, crews := s.crews.set 1 c } 0 0 (fun x => { x with pending := [1] })
def swapOf (s : State) : State := s.setSide 0 0 (fun x => { x with swap := some ⟨some 0, 1, 0, 304⟩ })

theorem witness_PickAndSwaps :
    world.pick 0 0 = some (0, 0) ∧ (world.side 0 0).picked ≤ world.clock ∧ (paired.side 0 0).openPos = some 1 ∧
    (paired.readiest 0 0).map (fun p => (p.1, p.2.ready)) = some (1, some 10) ∧ paired.stalledLongest 0 0 = some (0, 0) ∧
    (paired.side 0 0).swap = none ∧ (10 : Nat) + 256 ≤ paired.clock ∧ ({ paired with clock := 265 } : State).clock < 10 + 256 ∧
    ((swapOf paired).side 0 0).active[0]? = some (some 0) ∧ 1 ∈ ((swapOf paired).side 0 0).pending ∧ paired.crews.get? 1 ≠ none ∧
    (swapOf paired).clock < 304 ∧ (ran (.side 0 0) .pendingToActive paired).map (fun t => (t.side 0 0).active[1]?) = some (some (some 1)) ∧
    (ran (.side 0 0) .swapComplete { swapOf paired with clock := 304 }).map (fun t => ((t.side 0 0).active[0]?, (t.side 0 0).pending)) =
      some (some (some 1), [0]) := by decide +kernel

def added : State := (after (.iadd k64 .i32 false 4 5 (.reg 6)) world).getD world
def loading : State := (after (.ld k64 .b32 false .none 4 6 0) (withCrew furnished (uni2 6 0x2000))).getD world
def fuBusy : State := (after (.fexp2 k64 4 5) world).getD world
/-- The outstanding results of crew 0, without races: due, groups still to be served. -/
structure Job where
  race : List Nat
  due : Option Nat
  groups : Option (List Nat)
  deriving DecidableEq
def outstanding (s : State) : List Job := (cr s).pends.map (fun p => ⟨p.race, p.due, p.fu.map Fu.groups⟩)

def withJob (s : State) (due : Option Nat) (l : List Nat) : State :=
  withCrew s (fun c => { c with pends := c.pends.map (fun p => { p with due := due, fu := p.fu.map (fun f => { f with groups := l }) }) })
def atClk (n : Nat) (s : State) : State := { s with clock := n }

theorem witness_Results :
    (cr added).life ≠ .exited ∧ outstanding added = [⟨[], some 4, none⟩] ∧ outstanding loading = [⟨[], none, none⟩] ∧ added.clock = 0 ∧
    outstanding fuBusy = [⟨[], none, some [0, 1, 2, 3]⟩] ∧ (atClk 1 fuBusy).fuPickSlot 0 0 = some 0 ∧
    (cr fuBusy).fuReady 1 = some 0 ∧ ((atClk 1 fuBusy).side 0 0).fuServed ≤ 1 ∧ outstanding (withJob fuBusy (some 9) []) = [⟨[], some 9, some []⟩] := by
  decide +kernel

theorem test_results :
    (ran (.result 0 0 0#32) .resultWriteback (atClk 4 added)).map outstanding = some [] ∧
    (ran (.result 0 0 0#32) .resultWriteback (atClk 3 added)).map outstanding = some (outstanding added) ∧
    (ran (.result 0 0 1#32) .resultWriteback loading).map (fun t => ((cr t).reg 4 0, (cr t).pends.length)) = some (0x8000_00F0#32, 1) ∧
    (ran (.side 0 0) .fuGroupServe (atClk 1 fuBusy)).map outstanding = some [⟨[], none, some [1, 2, 3]⟩] ∧
    (ran (.side 0 0) .fuGroupServe (atClk 9 (withJob fuBusy none [3]))).map outstanding = some [⟨[], some 15, some []⟩] ∧
    (ran (.result 0 0 0#32) .fuResultWrite (atClk 9 (withJob fuBusy (some 9) []))).map outstanding = some [] := by decide +kernel

/-- A configured context 3, in a state. -/
def ctx3 (st : Nat) (s : State) : State := s.setRcd .context 3 (setAll [(Ctx.trapva, 1), (Ctx.flogva, 1), (Ctx.state, st)])
/-- What a command of context 3 reports, and the context's state. -/
def reports (i : Instr) (s : State) : Option (Nat × Nat) := (ran (.ctx 3) i s).map (fun t => (t.fld .context 3 Ctx.cstat, t.fld .context 3 Ctx.state))

theorem witness_ContextCommands :
    (ctx3 0 lively).ctxValid 3 = true ∧ lively.ctxValid 3 = false ∧ (ctx3 3 lively).ctxValid 3 = true ∧
    (lively.setRcd .context 3 (setAll [(Ctx.state, 3)])).ctxValid 3 = false ∧
    ((ctx3 1 lively).setFld .context 3 Ctx.busy 1).fld .context 3 Ctx.busy = 1 ∧ (ctx3 1 lively).fld .context 3 Ctx.busy = 0 ∧
    reports .ctxCreate (ctx3 0 lively) = some (0, 1) ∧ reports .ctxCreate (ctx3 1 lively) = some (2, 1) ∧ reports .ctxCreate lively = some (3, 0) ∧
    reports .ctxActivate (ctx3 1 lively) = some (0, 2) ∧ reports .ctxActivate (ctx3 3 lively) = some (2, 3) ∧
    reports .ctxResume (ctx3 3 lively) = some (0, 2) ∧ reports .ctxClear (ctx3 4 lively) = some (0, 3) ∧
    reports .unknownCommand (ctx3 4 lively) = some (4, 4) := by decide +kernel

/-- Context 3 active, with a kernel that can be saved and one that cannot. -/
def busy3 : State :=
  let y : Kernel := { Kernel.init with state := .running, ctx := 3, nextCrew := 1 }
  let s := ctx3 2 lively
  { s with kernels := (s.kernels.set 4 { y with launch := Lch.nsave.set 0 4 }).set 5 y }

theorem witness_Suspensions :
    busy3.fld .context 3 Ctx.state = 2 ∧ busy3.suspending.get? 3 = none ∧ (busy3.kern 4).stoppable = true ∧ busy3.lch 4 Lch.nsave ≠ 0 ∧
    (busy3.kern 5).stoppable = true ∧ busy3.lch 5 Lch.nsave = 0 ∧ (1 ≤ busy3.fld .context 3 Ctx.state ∧ busy3.fld .context 3 Ctx.state ≤ 3) ∧
    (ctx3 4 lively).fld .context 3 Ctx.state = 4 ∧ ({ busy3 with suspending := [(3, .suspend)] } : State).suspending.get? 3 = some .suspend ∧
    (ran (.ctx 3) .ctxSuspend busy3).map (fun t => ((t.kern 4).state, (t.kern 5).ending)) = some (.stopping, some 2) ∧
    (ran (.ctxCause 3 4) .contextFault busy3).map (fun t => (t.fld .context 3 Ctx.state, t.host.sent.map (fun o => o.typ))) = some (4, [0x83]) ∧
    busy3.ctxQuiet 3 .suspend = false ∧ (ctx3 2 lively).ctxQuiet 3 .suspend = true ∧ (ctx3 2 lively).ctxQuiet 3 .fault = true ∧
    (ctx3 2 lively).ctxQuiet 3 .destroy = true := by decide +kernel

theorem witness_BootAndReset :
    (at' (.boot true) State.reset).place = .boot true ∧ State.reset.power = .reset ∧ world.power ≠ .reset ∧
    (ran (.boot true) .moduleBoot State.reset).map (fun t => (t.power, t.rcd .context 0)) = some (.up, 2) := by decide +kernel

/-- Queue 5 of context 0, whose quota is 4 queues, in a state. -/
def q5 (st : Nat) : State :=
  let s : State := { lively with ctxCfg := Tbl.set [] 0 (setAll [(Ctx.qmax, 4), (Ctx.flogva, 0x180)]) }
  s.setRcd .queue 5 (setAll [(Que.depth, 1), (Que.dev, 1), (Que.state, st)])
def queueReports (i : Instr) (s : State) : Option (Nat × Nat) := (ran (.queue 5) i s).map (fun t => (t.fld .queue 5 Que.cstat, t.fld .queue 5 Que.state))

theorem witness_QueueCommands :
    (q5 0).queueValid 5 = true ∧ (q5 0).fld .context 0 Ctx.nqueues < (q5 0).cfg 0 Ctx.qmax ∧
    (q5 0).cfg 0 Ctx.qmax ≤ ((q5 0).setFld .context 0 Ctx.nqueues 4).fld .context 0 Ctx.nqueues ∧
    ((q5 0).setFld .queue 5 Que.depth 16385).queueValid 5 = false ∧ ((q5 0).setFld .queue 5 Que.depth 16384).queueValid 5 = true ∧
    ((q5 1).setFld .queue 5 Que.nposted 1).fld .queue 5 Que.nposted ≠ 0 ∧ (q5 1).fld .queue 5 Que.nposted = 0 ∧
    (q5 1).fld .queue 5 Que.ctx = (q5 1).qcfg 5 Que.ctx ∧ ((q5 1).setFld .queue 5 Que.ctx 1).fld .queue 5 Que.ctx ≠ (q5 1).qcfg 5 Que.ctx ∧
    queueReports .queueOpen (q5 0) = some (0, 1) ∧ queueReports .queueHold (q5 1) = some (0, 2) ∧ queueReports .queueRelease (q5 2) = some (0, 1) ∧
    queueReports .queueClose (q5 1) = some (0, 0) ∧ queueReports .queueClose ((q5 1).setFld .queue 5 Que.nposted 1) = some (5, 1) ∧
    queueReports .queueFlush (q5 0) = some (2, 0) ∧ queueReports .queueReconf (q5 1) = some (0, 1) := by decide +kernel

theorem witness_RecordWrites :
    inSys 0x400_0000 = false ∧ sysAt (SysTab.addr .queue 5 + 56) = some (.queue, 5, 56) ∧ inSys (SysTab.addr .queue 5 + 56) = true ∧
    sysAt (SysTab.addr .power 0) = some (.power, 0, 0) ∧ sysAt (SysTab.addr .member 7) = some (.member, 7, 0) ∧
    (∀ p ∈ lively.kernels, ({ lively with place := .rsv 3 }.setFld .cox 0 Cox.rsv 3).persistFits p.1 = true) ∧
    (ran (.byteWrite (SysTab.addr .queue 5 + 56) 1#8) .systemRecordWrite (q5 0)).map (fun t => t.agenda) = some [.event (.queue 5) .queueOpen] ∧
    (ran (.rsv 3#64) .rsvWrite lively).map (fun t => t.rsv) = some 3 := by decide +kernel

/-- A host message with number 1 but for ACK and QUERY. -/
def msg (typ ctx ack : Nat) (body : List Byte) : HostMsg :=
  ⟨1, typ, body.length, if typ = 0 ∨ typ = 5 then 1 else 0, 0, if typ = 0 ∨ typ = 5 then 0 else 1, ack, ctx, body⟩
def writeMsg (ctx va : Nat) : HostMsg := msg 1 ctx 1 (toBytes 8 va ++ toBytes 4 0x1234)
def readMsg : HostMsg := msg 2 0 1 (toBytes 8 0x2000 ++ toBytes 4 4)
def launchMsg : HostMsg := msg 3 0 1 (toBytes 8 0 ++ toBytes 256 launchRec)
def signalMsg (va op v : Nat) : HostMsg := msg 4 0 1 (toBytes 8 va ++ toBytes 8 op ++ toBytes 8 v)
/-- The small machine with a queue for the host. -/
def hosted : State :=
  let s : State := { lively with queueCfg := Tbl.set [] 0 (setAll [(Que.depth, 1), (Que.host, 1)]) }
  s.setFld .queue 0 Que.state 1
def sentOf (p : Place) (i : Instr) (s : State) : Option (List (Nat × Nat)) := (ran p i s).map (fun t => t.host.sent.map (fun o => (o.typ, o.body.length)))

theorem witness_HostMessages :
    [writeMsg 0 0x2000, writeMsg 0xFFFF 0x400_2000, readMsg, launchMsg, signalMsg 0x1000 0 1, signalMsg 0x1020 1 9, msg 0 0 1 [], msg 5 0 1 []].all HostMsg.ok = true ∧
    hosted.power = .up ∧ hosted.host.nextIn = 1 ∧ (writeMsg 0 0x2000).seq = 1 ∧ hosted.ctxThere 0 = true ∧
    (match (taken hosted (writeMsg 0 0x2000)).hostReach 0 0x2000 4 .write with | .ok _ => true | _ => false) = true ∧
    (match (taken hosted readMsg).hostReach 0 0x2000 4 .read with | .ok _ => true | _ => false) = true ∧ hosted.linesHeld [lineOf 0x400_2000] = false ∧
    (withCrew hosted (fun c => { c with heldReady := true, heldSet := some [umpireOf (lineOf 0x400_2000)] })).linesHeld [lineOf 0x400_2000] = true ∧
    0x200_0000 ≤ 0x400_2000 ∧ (0x400_2000 : Nat) + 4 ≤ 2 ^ 39 ∧
    (ran (.host (writeMsg 0 0x2000)) .plofoWrite hosted).map (fun t => t.num 0x400_2000 4) = some 0x1234 ∧
    (ran (.host (writeMsg 0xFFFF 0x400_2000)) .plofoWrite hosted).map (fun t => t.num 0x400_2000 4) = some 0x1234 ∧
    (sentOf (.host readMsg) .plofoRead hosted).map (fun l => l.head?) = some (some (0x82, 12)) ∧
    (ran (.host launchMsg) .plofoLaunch hosted).map (fun t => (t.kern 1).state) = some .posted := by decide +kernel

theorem witness_HostSignals :
    Bar.mode.get (hosted.num 0x400_1000 32) = 1 ∧ Bar.mode.get (hosted.num 0x400_1020 32) = 2 ∧ (0x1000 : Nat) % 32 = 0 ∧
    Pte.m 0x400_000F = false ∧ Pte.kv 0x400_000F = false ∧ Pte.c 0x400_000F = false ∧
    (ran (.host (signalMsg 0x1000 0 1)) .plofoSignalArrive hosted).map (fun t => Bar.arrived.get (t.num 0x400_1000 32)) = some 1 ∧
    (ran (.host (signalMsg 0x1020 1 9)) .plofoSignalRaise hosted).map (fun t => Bar.value.get (t.num 0x400_1020 32)) = some 9 ∧
    (taken hosted launchMsg).launchTest 0 0 Que.host true 0 = .refused 9 ∧ (2 : Nat) ≠ hosted.host.nextIn := by decide +kernel

def told (n : Nat) : State := { hosted with clock := 150000, host := { hosted.host with nextOut := 3, acked := n, window := [⟨0x81, 0, 1, 0, 0, []⟩, ⟨0x81, 0, 2, 0, 0, []⟩] } }
theorem witness_HostLink :
    (told 1).host.acked < 2 ∧ 2 ≤ (told 1).host.nextOut ∧ (told 1).host.waiting = [] ∧ (told 1).host.queried = false ∧ (told 1).host.window ≠ [] ∧
    150000 ≤ (told 1).clock - (told 1).host.lastAdvance ∧ (told 1).fld .power 0 Pwr.tint ≠ 0 ∧
    ({ told 1 with clock := 15000000 } : State).host.lastTelem + (told 1).fld .power 0 Pwr.tint * 1500000 ≤ 15000000 ∧
    (ran (.host (msg 0 0 2 [])) .plofoAck (told 1)).map (fun t => (t.host.acked, t.host.window.map (fun o => o.seq))) = some (2, [2]) ∧
    (ran (.host (msg 0 0 1 [])) .plofoAck (told 1)).map (fun t => t.host.sent.map (fun o => o.seq)) = some [1, 2] ∧
    (ran .none .replayResendTimeout (told 1)).map (fun t => t.host.sent.length) = some 2 ∧
    (told 1).host.window.length < Config.replayWindow := by decide +kernel

/-- Kernel 1 of context 0 in a state, queue 0 open. -/
def kernelIn (st : KState) (f : Kernel → Kernel) : State :=
  { hosted with kernels := hosted.kernels.set 1 (f { Kernel.init with state := st, nextCrew := 1 }) }
def kstate (p : Place) (i : Instr) (s : State) : Option (KState × Option Nat) := (ran p i s).map (fun t => ((t.kern 1).state, (t.kern 1).ending))

theorem witness_Dependences :
    (kernelIn .posted (fun k => { k with deps := [.kernel 0] })).depHolds (.kernel 0) = none ∧
    (kernelIn .posted id).depHolds (.kernel (hosted.handle 2)) = some true ∧
    ({ kernelIn .posted id with kernels := (kernelIn .posted id).kernels.set 2 { Kernel.init with cause := 2 } } : State).depHolds (.kernel (hosted.handle 2)) = some false ∧
    kstate (.kernel 1) .kernelDependenceMet (kernelIn .posted id) = some (.ready, none) ∧
    kstate (.kernel 1) .kernelDependenceMet (kernelIn .posted (fun k => { k with deps := [.kernel 0] })) = some (.blocked, none) ∧
    kstate (.kernel 1) .kernelDependenceMet
      { kernelIn .blocked (fun k => { k with deps := [.kernel (hosted.handle 2)] }) with
        kernels := (kernelIn .blocked (fun k => { k with deps := [.kernel (hosted.handle 2)] })).kernels.set 2 { Kernel.init with cause := 2 } } =
      some (.blocked, some 1) ∧
    (let s := kernelIn .ready (fun k => { k with candidate := some 7 })
     (s.kern 1).candidate = some 7 ∧ (atClk 75010 s).time < 7 + 50000 ∧ 7 + 50000 ≤ (atClk 75011 s).time) ∧
    (ran (.kernel 1) .urgencyUpdate (kernelIn .ready (fun k => { k with launch := Lch.deadline.set 0 1000 }))).map (fun t => (t.kern 1).urg) = some 1 := by
  decide +kernel

/-- A module with no crew, its context 0 active, and one ready kernel that asks for so many units and slots on a bay. -/
def choosing (units slots : Nat) (aged : Bool) : State :=
  let y : Kernel := { Kernel.init with state := .ready, launch := setAll [(Lch.intensity, units), (Lch.slots, slots)], aged := aged }
  let s : State := { State.reset with power := .up, kernels := Tbl.set [] 1 y }
  (s.setFld .context 0 Ctx.state 2).setFld .queue 0 Que.state 1

/-- With nothing on any bay, a kernel that a bay can hold fits on every one, and one that asks for too many slots on none. -/
theorem bay_of_none {s : State} (h : s.bays = []) (b : Nat) : s.bay b = Bay.init := by simp [State.bay, h, Tbl.getD, Tbl.get?]

theorem bayCrews_of {s : State} {k : Nat} (hb : s.bays = []) (hc : s.crews = []) (hr : s.rsv = 0) (hp : s.lch k Lch.persistent = 0)
    (hk : ∀ p ∈ s.kernels, p.1 = k) (h : s.lch k Lch.spages = 0 ∧ s.firstBlocks k = 1) (b : Nat) :
    s.bayCrews b k = if s.lch k Lch.slots ≤ Config.codeSlots then 64 else 0 := by
  have ha : s.kernels.any (fun p => decide (p.1 ≠ k) && p.2.plan.contains b && s.awaits p.1 p.2) = false :=
    List.any_eq_false.2 (fun p hp => by simp [hk p hp])
  rw [State.bayCrews, ha]
  simp [State.bayTakes, State.rightTruss, State.reservedBay, State.bayRoom, State.isHere, State.pagesFor, State.slotsUsed, State.sideRoom,
    State.crewsAt, State.blocksFree, bay_of_none hb, hc, hr, hp, h.1, h.2, Bay.init, Tbl.get?, Config.sideCrews, Config.sideBlocks]

theorem planOf_of {s : State} {k : Nat} (hp : s.lch k Lch.persistent = 0) (h : ∀ b, 0 < s.bayCrews b k) :
    ∃ n, s.planOf k = some ((baysFrom (s.choice 0)).take (1 + n)) := by
  have hf : ∀ l : List Nat, l.filter (fun b => decide (0 < s.bayCrews b k)) = l := fun l => List.filter_eq_self.2 (fun b _ => by simpa using h b)
  simp only [State.planOf, hp, hf]
  cases hl : baysFrom (s.choice 0) with
  | nil => simp [baysFrom, Config.bays] at hl
  | cons x xs => exact ⟨_, rfl⟩

/-- A plan has a bay of some die in it. -/
theorem plan_has (c n : Nat) :
    (((baysFrom c).take (1 + n)).filter (fun b => decide (dieOf b = 0))).length ≠ 0 ∨ (((baysFrom c).take (1 + n)).filter (fun b => decide (dieOf b = 1))).length ≠ 0 := by
  obtain ⟨tl, hb⟩ : ∃ tl, baysFrom c = c % 448 :: tl := by
    rw [baysFrom, show Config.bays = Nat.succ 447 from rfl, List.range_succ_eq_map, List.map_cons]
    exact ⟨_, rfl⟩
  have hd : dieOf (c % 448) = 0 ∨ dieOf (c % 448) = 1 := by unfold dieOf; omega
  rw [hb, Nat.add_comm 1 n, List.take_succ_cons]
  rcases hd with h | h
  · exact Or.inl (by simp [h])
  · exact Or.inr (by simp [h])

theorem planOf_none {s : State} {k : Nat} (hp : s.lch k Lch.persistent = 0) (h : ∀ b, s.bayCrews b k = 0) : s.planOf k = none := by
  have hf : ∀ l : List Nat, l.filter (fun b => decide (0 < s.bayCrews b k)) = [] := fun l => List.filter_eq_nil_iff.2 (fun b _ => by simp [h b])
  simp only [State.planOf, hp, hf]
  rfl

theorem witness_Choice :
    (choosing 0 1 false).refreshCandidates.candidates = [1] ∧ State.reset.refreshCandidates.candidates = [] ∧
    ((choosing 0 1 false).refreshCandidates.kern 1).chosen = none ∧ ((choosing 3 1 true).refreshCandidates.kern 1).aged = true := by decide +kernel

/-- One that fits and needs no units, one that fits and does, and an aged one that fits nowhere. -/
theorem witness_Choice_plan :
    (∃ plan, (choosing 0 1 false).refreshCandidates.planOf 1 = some plan ∧ ∀ d, (choosing 0 1 false).refreshCandidates.unitsOf 1 plan d = 0) ∧
    (∃ plan, let u := (choosing 3 1 true).refreshCandidates
      u.planOf 1 = some plan ∧ (u.unitsOf 1 plan 0 ≠ 0 ∨ u.unitsOf 1 plan 1 ≠ 0)) ∧ (choosing 0 17 true).refreshCandidates.planOf 1 = none := by
  have fits : ∀ u b, u = 0 ∨ u = 3 → 0 < (choosing u 1 (decide (u = 3))).refreshCandidates.bayCrews b 1 := fun u b hu => by
    rcases hu with rfl | rfl <;>
    · rw [bayCrews_of (by decide +kernel) (by decide +kernel) (by decide +kernel) (by decide +kernel) (by decide +kernel) (by decide +kernel)]
      decide +kernel
  refine ⟨?_, ?_, planOf_none (by decide +kernel) (fun b => ?_)⟩
  · obtain ⟨n, h⟩ := planOf_of (by decide +kernel) (fun b => fits 0 b (Or.inl rfl))
    have i0 : (choosing 0 1 false).refreshCandidates.lch 1 Lch.intensity = 0 := by decide +kernel
    exact ⟨_, h, fun d => by simp [State.unitsOf, i0]⟩
  · obtain ⟨n, h⟩ := planOf_of (by decide +kernel) (fun b => fits 3 b (Or.inr rfl))
    have i3 : (choosing 3 1 true).refreshCandidates.lch 1 Lch.intensity = 3 := by decide +kernel
    exact ⟨_, h, (plan_has ((choosing 3 1 true).refreshCandidates.choice 0) n).imp (fun h => by simp only [State.unitsOf, i3]; exact Nat.mul_ne_zero (by decide) h)
      (fun h => by simp only [State.unitsOf, i3]; exact Nat.mul_ne_zero (by decide) h)⟩
  · rw [bayCrews_of (by decide +kernel) (by decide +kernel) (by decide +kernel) (by decide +kernel) (by decide +kernel) (by decide +kernel)]
    decide +kernel

/-- Answers and requests of a governor for kernel 1, whose choice number 1 awaits dies 0 and 1, or die 0 alone. -/
def asking (l : List Nat) (req : List GovReq) (ans : List (GovReq × Bool)) : State :=
  { kernelIn .ready (fun k => { k with attempt := 1, chosen := some l, plan := [0], launch := setAll [(Lch.intensity, 3), (Lch.slots, 1)] }) with
    gov := req, answers := ans, ctxCfg := Tbl.set [] 0 0 }
def ask (a n : Nat) : GovReq := ⟨0, .admission 1 a n⟩

theorem witness_Governors :
    (asking [0] [ask 1 3] []).gov.find? (fun r => decide (r.die = 0)) = some (ask 1 3) ∧ (ask 1 3).what.units = 3 ∧
    (asking [0] [] []).fld .power 0 (heldFld 0) + 3 ≤ (asking [0] [] []).fld .power 0 (budgetFld 0) ∧
    (asking [0] [] []).fld .power 0 (budgetFld 0) < (asking [0] [] []).fld .power 0 (heldFld 0) + 3713 ∧
    (ran (.die 0) .governorRequest (asking [0] [ask 1 3] [])).map (fun t => (t.answers, t.fld .power 0 Pwr.held0)) = some ([(ask 1 3, true)], 3) ∧
    (ran (.kernel 1) .admissionGrant (asking [0, 1] [] [(ask 1 3, true)])).map (fun t => ((t.kern 1).chosen, (t.kern 1).held0)) = some (some [1], 3) ∧
    (ran (.kernel 1) .admissionGrant (asking [0] [] [(ask 1 3, true)])).map (fun t => (t.kern 1).state) = some .admitted ∧
    (ran (.kernel 1) .admissionGrant (asking [0] [] [(ask 1 3, false)])).map (fun t => (t.kern 1).chosen) = some none ∧
    (ran (.kernel 1) .admissionGrant ((asking [0] [] [(ask 2 3, true)]).setFld .power 0 Pwr.held0 3)).map (fun t => t.fld .power 0 Pwr.held0) = some 0 := by
  decide +kernel

/-- A candidate of class 7, aged, that fits nowhere, beside a running kernel of class 0 with a save area. -/
theorem witness_Preemption :
    let s : State := { kernelIn .ready (fun k => { k with aged := true, queue := 0, launch := Lch.slots.set 0 17 }) with
      kernels := ((kernelIn .ready (fun k => { k with aged := true, launch := Lch.slots.set 0 17 })).kernels.set 2
        { Kernel.init with state := .running, queue := 1, launch := Lch.nsave.set 0 4 })
      queueCfg := Tbl.set [] 0 (setAll [(Que.depth, 1), (Que.cls, 7)]) }
    s.isCandidate 1 = true ∧ (s.kern 1).aged = true ∧ (∀ p ∈ s.kernels, p.2.stop ≠ some .cox) ∧ s.victim 1 = some 2 := by decide +kernel

theorem witness_KernelStates :
    (match (kernelIn .admitted id).bentTable 1 with | .ok (some l) => decide (l = []) | _ => false) = true ∧
    (match (kernelIn .admitted (fun k => { k with launch := setAll [(Lch.nbents, 1), (Lch.bentva, 0x300)] })).bentTable 1 with
     | .ok none => true | _ => false) = true ∧
    ((kernelIn .admitted id).kern 1).exited < (kernelIn .admitted id).ncrews 1 ∧
    (kernelIn .stopping (fun k => { k with messaged := true, stop := some .kstop })).cutDone 1 = true ∧ (kernelIn .running id).cutDone 1 = false ∧
    (kernelIn .running (fun k => { k with exited := 1 })).workDone 1 = true ∧ lively.workDone 0 = false ∧
    kstate (.kernel 1) .kernelPlacing (kernelIn .admitted id) = some (.placing, none) ∧
    kstate (.kernel 1) .stopCutComplete (kernelIn .stopping (fun k => { k with messaged := true, stop := some .kstop })) = some (.stopped, none) ∧
    (ran (.kernel 1) .kernelRetire (kernelIn .trapped (fun k => { k with exited := 1 }))).map (fun t => ((t.kern 1).state, (t.kern 1).cause)) =
      some (.retired, 3) ∧
    (ran (.kernel 1) .kernelRetire (kernelIn .ready (fun k => { k with ending := some 2 }))).map (fun t => (t.kern 1).cause) = some 2 := by decide +kernel

/-- Kernel 0 stopping, its message sent, its crew drained; its save area at VA 0x10_0000. -/
def saving : State :=
  withCrew (lively.setKern 0 (fun k => { k with state := .stopping, messaged := true, launch := setAll [(Lch.slots, 3), (Lch.nsave, 4), (Lch.saveva, 0x100)] }))
    (fun c => { c with stopping := true })

theorem witness_Saving :
    (saving.kern 0).state = .stopping ∧ (saving.kern 0).messaged = true ∧ (saving.kern 0).ending = none ∧ saving.drained (cr saving) = true ∧
    saving.saveFree 0 3 = true ∧ saving.saveFree 0 4 = false ∧
    (match saving.saveReach 0 3 .write with | .ok l => decide (l.length = 10) | _ => false) = true ∧ saving.liveBlocks 0 (cr saving) = .ok (2 ^ 32 - 1) := by
  decide +kernel

/-- Kernel 0 places its second crew, fresh, on bay 0. -/
def placing : State := lively.setKern 0 (fun k => { k with launch := setAll [(Lch.slots, 3), (Lch.ncrews, 1), (Lch.argva, 0x2000)] })
/-- A saved crew of kernel 0 with an empty frame. -/
def savedCrew : State :=
  (placing.setKern 0 (fun k => ({ k with launch := setAll [(Lch.slots, 3), (Lch.ncrews, 1), (Lch.nsave, 4), (Lch.saveva, 0x100)] } : Kernel).setKeep 1
    (fun e => { e with save := some 0, placed := true })))

theorem witness_Placement :
    placing.places 0 = true ∧ placing.lch 0 Lch.persistent = 0 ∧ placing.nextCrewOf 0 = some (1, none) ∧ placing.canHost 0 0 1 1 none = true ∧
    (placing.freeSlots 0 1).length = 32 ∧ savedCrew.nextCrewOf 0 = some (1, some 0) ∧
    (match savedCrew.saveReach 0 0 .read with
     | .ok l => decide (savedCrew.blocksOf 0 0 l = 1) && savedCrew.canHost 0 5 0 1 (some (savedCrew.savedMap 0 0 l)) | _ => false) = true := by decide +kernel

/-- Slot 2 of kernel 0 is to be filled from VA 0x3000, where a line of code lies, or from VA 0x4000, where none does. -/
def filling (va : Nat) : State :=
  let s : State := { lively with mem := Memory.writes lively.mem 0x400_3000 ((probeLine 0x0006_0504_0000_C880).flatMap (fun (w : Word) => toBytes 4 w.toNat)) }
  s.setBay 0 (fun b => { b with kerns := b.kerns.modify 0 (fun x => { x with slots := x.slots ++ [(2, .filling va 1 none)] }) })

theorem witness_Segments :
    (filling 0x3000).coxFills 0 0 = [(2, 0x3000, 1)] ∧
    (match (filling 0x3000).segment 0 0x3000 1 with | .ok ws => decide (ws = probeLine 0x0006_0504_0000_C880) | _ => false) = true ∧
    (match (filling 0x4000).segment 0 0x4000 1 with | .malformed a v => decide (a = 5 ∧ v = 0x4000) | _ => false) = true ∧
    (let s := withCrew lively (fun c => { c with life := .placed, fresh := true })
     (cr s).life = .placed ∧ (s.codeSlot 0 0 0).code?.isSome = true ∧ ((s.kern 0).keepOf 0).savedTrapped = false ∧
     (ran (.crew 0) .crewResident s).map (fun t => ((cr t).life, (cr t).pc)) = some (.pending, 8)) := by decide +kernel

theorem witness_CrewEnds :
    let gone := withCrew lively (fun c => { c with exited := 0xFFFF_FFFF#32 })
    let doomed := withCrew lively (fun c => { c with doomed := some 0 })
    (cr gone).life ≠ .exited ∧ (cr gone).strokes = [] ∧ (cr gone).trap = none ∧ lively.canExit (cr lively) = false ∧
    (cr (withCrew gone (fun c => { c with pends := [⟨1, [], [], none, none, none, none⟩] }))).pends ≠ [] ∧ (cr doomed).doomed ≠ none ∧
    (ran (.crew 0) .crewExit gone).map (fun t => (t.crews.get? 0, (t.kern 0).exited)) = some (none, 1) ∧
    (ran (.crew 0) .crewCancel doomed).map (fun t => (cr t).exited) = some 0xFFFF_FFFF#32 := by decide +kernel

theorem witness_TrapsInWaiting :
    let x : Trap := ⟨0x01B, 0, 0, 31, 7, 24, 0⟩
    let s := withCrew lively (fun c => { c with trap := some x, wait := .strokes })
    let f : Late := ⟨0, 0x043, 0, 0x8000#64, 24, 1#64, 0, 0, 0, false⟩
    (cr s).trap = some x ∧ (cr s).wait = .strokes ∧ (cr s).strokes = [] ∧ (cr joined).strokes ≠ [] ∧ (cr s).handler = false ∧ (cr s).debug = false ∧
    (ran (.crew 0) .preciseTrapEntry s).map (fun t => ((cr t).handler, (cr t).pc)) = some (true, 136) ∧
    ringUsed (s.fld .context 0 Ctx.fput) (s.fld .context 0 Ctx.fget) < 256 * 2 ^ s.cfg 0 Ctx.fsz ∧
    (s.makeWritable 0 0x18_0000).ringSlot 0 0x18_0000 .write = .ok 0x418_0000 ∧ inSys 0x418_0000 = false ∧
    (ran (.late f) .impreciseFault s).map (fun t => ((t.kern 0).state, t.fld .context 0 Ctx.fput)) = some (.trapped, 1) := by decide +kernel

/-- A stroke that stores, closed; one that only read the stash, closed; and a crew on bay 0 that has read what the first writes. -/
def stored : State :=
  let s := (after (.st k64 .b32 .none 6 5 0) (withCrew furnished (uni2 6 0x2000 ∘ uni 5 9))).getD world
  (after (.cut k64) s).getD world
def closedLocal : State := (after (.cut k64) joined).getD world
def strokeOf (s : State) : Stroke := (cr s).strokes.head?.getD ((cr s).newStroke 0)

theorem witness_Commits :
    (cr stored).closing = some (strokeOf stored) ∧ stored.logged 0 = false ∧ (∀ u ∈ (strokeOf stored).umpires, u ∉ stored.reserved 0) ∧
    stored.isLocal (cr stored) (strokeOf stored) = false ∧ (strokeOf stored).effs.length = 32 ∧ (strokeOf stored).binds = [] ∧ stored.poisoned = [] ∧
    stored.gated 0 = false ∧ (cr closedLocal).closing = some (strokeOf closedLocal) ∧ closedLocal.isLocal (cr closedLocal) (strokeOf closedLocal) = true ∧
    (∃ u ∈ (strokeOf stored).umpires, u ∈
      ({ stored with crews := stored.crews.set 1 { cr world with heldReady := true, heldSet := some [umpireOf (lineOf 0x400_2000)] } } : State).reserved 0) ∧
    (ran (.crew 0) .strokeCommit stored).map (fun t => (t.num 0x400_2000 4, t.order, (cr t).strokes.length)) = some (9, stored.order + 1, 0) ∧
    (ran (.crew 0) .localCommit closedLocal).map (fun t => (t.order, (cr t).strokes.length)) = some (closedLocal.order, 0) := by decide +kernel

theorem witness_Squash :
    let s := (after (.ld k64 .b32 false .none 4 6 0) (withCrew furnished (uni2 6 0x2000))).getD world
    let w := sigOf [lineOf 0x400_2000]
    (cr s).hitBy w = some 0 ∧ (cr world).hitBy w = none ∧ (cr s).strokes.length = 1 ∧ (s.crews.map Prod.fst) = [0] ∧
    (ran (.squash 0 w (some 7)) .signatureSquash s).map (fun t => ((cr t).strokes.length, (cr t).pc, (cr t).squashes)) = some (0, 8, 1) := by decide +kernel

theorem witness_HeldStrokes :
    let s := withCrew lively (fun c => { c with wait := .held, heldSet := some [3] })
    let other : State := { s with crews := s.crews.set 1 { cr s with wait := .none, heldReady := true } }
    let full : State := { s with crews := s.crews.set 2 { cr s with wait := .shadow 4 } }
    (cr s).strokes = [] ∧ (cr s).heldReady = false ∧ s.gated 0 = false ∧ s.shadowFree 0 ≠ 0 ∧ s.shadowQueue 0 = false ∧
    (∀ u ∈ [3], u ∉ s.reserved 0) ∧ (∃ u ∈ [3], u ∈ other.reserved 0) ∧ (cr full).granted = false ∧ full.shadowQueue 0 = true ∧
    full.shadowFirst 0 = some 2 ∧ full.shadowFree 0 ≠ 0 ∧
    (ran (.crew 0) .heldStrokeStart s).map (fun t => (cr t).heldReady) = some true ∧
    (ran (.bay 0) .shadowSpaceGrant full).map (fun t => (t.crews.get? 2).map (fun c => c.granted)) = some (some true) := by decide +kernel

/-- A context that replays from a log at VA 0x19_0000, with kernel 0 its one replay kernel, and the words of the log. -/
def replaying (l : List Nat) : State :=
  let s : State := { lively with
    mem := Memory.writes lively.mem 0x419_0000 (l.flatMap (toBytes 8))
    ctxCfg := Tbl.set [] 0 (setAll [(Ctx.ptroot, 0x2000), (Ctx.replay, 1), (Ctx.ologva, 0x190)])
    logs := Tbl.set [] 0 { CtxLog.init with knums := [0], rkernels := [0] } }
  (s.setKern 0 (fun k => ({ k with launch := setAll [(Lch.slots, 3), (Lch.replay, 1)] } : Kernel).setKeep 0 (fun e => { e with placed := true }))).setFld
    .context 0 Ctx.oput l.length

/-- Crew 0 waits for space that eight other crews hold at the gate, four closed strokes each. -/
def gateBlocked : State :=
  let s := replaying [1]
  let c := cr s
  let st (n : Nat) : Stroke := { c.newStroke n with closed := some 1 }
  let waits : Tbl Crew := s.crews.set 0 { c with wait := .shadow 3 }
  let full (j : Nat) : Crew := { c with idx := j, gateSince := some 5, strokes := (List.range 4).map (fun i => st (4 * j + i)) }
  { s with serial := 40, crews := (List.range 8).foldl (fun t j => t.set (j + 1) (full (j + 1))) waits }

theorem witness_ShadowDeadlock :
    gateBlocked.shadowDead 0 = some 0 ∧ gateBlocked.newestOther 0 0 = some (8, 3) ∧ (gateBlocked.crews.get? 8).isSome = true := by decide +kernel

theorem witness_Logs :
    let s := replaying [2 * 2 ^ 62 + 1, 3 * 2 ^ 62, 5]
    lively.logLeft 0 = 0 ∧ s.logLeft 0 = 3 ∧ (s.logEntry 0 0).toOption = some (2 ^ 63 + 1) ∧ slice 63 62 (2 ^ 63 + 1) = 2 ∧
    slice 63 62 1 ≠ 2 ∧ ((replaying [1]).logEntry 0 0).toOption = some 1 ∧ slice 15 0 (2 ^ 63 + 1) = 1 ∧ (s.logEntry 0 1).toOption = some (3 * 2 ^ 62) ∧
    (s.logEntry 0 2).toOption = some 5 ∧
    (((s.log 0).knums.zip (s.log 0).rkernels).reverse.find? (fun p => decide (p.1 = slice 61 50 (3 * 2 ^ 62)))) = some (0, 0) ∧
    s.handle 0 = 0 ∧ ((s.kern 0).keepOf 0).placed = true ∧ ((s.kern 0).keepOf 0).exited = false ∧
    ((s.log 0).digests.getD (digestKey 0 0) 0#64).toNat ≠ 5 ∧ s.ridOf 0 0 = some 0 ∧
    (State.checkDigests 0 1 1 s).toOption.isSome = true ∧
    (ran (.ctx 0) .replayDigestCheck s).map (fun t => (cr t).diverged) = some (some 1) ∧
    ((s.logReady 0 3 1).logWritable 0 3 1) = none ∧
    ({ s with ctxCfg := Tbl.set s.ctxCfg 0 (setAll [(Ctx.ptroot, 0x2000), (Ctx.ologva, 0x2000)]) } : State).logWritable 0 3 1 = some 5 ∧
    (ran (.ctx 0) .orderLogCheckpoint s).map (fun t => (t.num 0x419_0018 8, t.fld .context 0 Ctx.oput)) = some (2 ^ 63, 4) := by decide +kernel

/-- Crew 0 waits for 255 registers more, the others of its side gone; and with another crew that waits too. -/
def grows : State := (after (.allot k64 4 5) crowded).getD world
def growWait (s : State) : Option (Nat × Nat) := match (cr s).wait with | .allot n _ d => some (n, d) | _ => none

theorem witness_WakesAndGrants :
    let s := withCrew furnished (fun c => { c with wait := .mwait 0x400_2000 .n32 .eq 0x8000_00F0 .monitor })
    let u := withCrew { furnished with clock := 4096 } (fun c => { c with wait := .mwait 0x400_2000 .n32 .eq 0x8000_00F0 (.recheck 2048) })
    let alone : State := { grows with crews := grows.crews.filter (fun p => decide (p.1 = 0)) }
    let dead : State := { grows with crews := grows.crews.map (fun p => (p.1, { p.2 with wait := if p.1 = 0 then p.2.wait else .allot 256 0 7 })) }
    mwaitHolds .n32 .eq (s.num 0x400_2000 4) 0x8000_00F0 = true ∧ (u.clock - 2048) % 2048 = 0 ∧ (u.clock - 2047) % 2048 ≠ 0 ∧
    (ran (.crew 0) .mwaitWake s).map (fun t => ((cr t).wait, (cr t).pc)) = some (.none, 24) ∧
    (ran (.crew 0) .waitTableRecheck u).map (fun t => (cr t).wait) = some .none ∧ growWait grows = some (256, 4) ∧
    (alone.growFirst 0 0).map (fun x => x.2) = some (0, 256, 4) ∧ (256 - (cr alone).allot) / 8 ≤ alone.blocksFree 0 0 ∧
    grows.growFits 0 0 = false ∧ grows.growDead 0 0 = false ∧ dead.growDead 0 0 = true ∧ dead.growFits 0 0 = false ∧
    (dead.growLast 0 0).map (fun x => x.2) = some (0, 256, 4) ∧
    (ran (.side 0 0) .allotGrant alone).map (fun t => ((cr t).allot, (cr t).reg 4 7)) = some (256, 256#32) ∧
    (ran (.side 0 0) .allotDeadlockFail dead).map (fun t => ((cr t).allot, (cr t).reg 4 7)) = some (8, 0#32) := by decide +kernel

def faulting (va copy : Nat) : State := withCrew paged (fun c => { c with fault := some ⟨0x030, va, false, copy, 0⟩, wait := .strokes })

theorem witness_WalksAndFaults :
    (match world.walk 0 0x2000 with | .leaf e ea big => decide (e = 0x400_000F) && decide (ea = 0x201_0000) && big | _ => false) = true ∧
    (match world.walk 0 0x20_0000 with | .absent => true | _ => false) = true ∧
    (match ({ world with mem := putQ world.mem 0x201_0008 (2 ^ 62 + 0x400_000F) } : State).walk 0 0x20_0000 with | .bad _ => true | _ => false) = true ∧
    (world.bay 0).tlb.length ≤ Config.tlbEntries ∧ (cr (faulting 0x70_0000 0)).strokes = [] ∧ (cr (faulting 0x70_0000 0)).ctx paged = 0 ∧
    (paged.fq.map (fun e => (e.die, e.ctx, e.page, e.idx))) = [(0, 0, 0x70, 7), (0, 0, 0x80, 8)] ∧ pageKey 0x70_0000 = 0x70 ∧ dieOf (ridBay 0) = 0 ∧
    (ran (.crew 0) .faultQueueJoin (faulting 0x70_0000 0)).map (fun t => (cr t).wait) = some (.queue 0 7) ∧
    (ran (.crew 0) .faultQueueJoin (faulting 0x90_0000 0)).map (fun t => ((cr t).wait, t.fq.length)) = some (.queue 0 0, 3) ∧
    (ran (.crew 0) .faultQueueJoin (faulting 0x4000_0000 1)).map (fun t => (cr t).wait) = some .copy := by decide +kernel

/-- Every entry of die 0 taken, none of the page asked for. -/
def fullQueue : List FqEntry := (List.range Config.fqEntries).map (fun i => ⟨0, i, 0, 0x70, false, 0x030, 0x70_0000, 0, 0, 0, 8, [], [], 5⟩)
theorem witness_full_queue : (∀ e ∈ fullQueue, e.page ≠ pageKey 0x90_0000) ∧ ∀ i, i < Config.fqEntries → ∃ e ∈ fullQueue, e.die = 0 ∧ e.idx = i := by
  refine ⟨fun e he => ?_, fun i hi => ⟨_, List.mem_map.2 ⟨i, List.mem_range.2 hi, rfl⟩, rfl, rfl⟩⟩
  obtain ⟨i, _, rfl⟩ := List.mem_map.1 he
  show (0x70 : Nat) ≠ pageKey 0x90_0000
  decide

/-- A shared KV page at VA 0x4000_0000, a supply page at hand, and the same page marked for a checkpoint copy. -/
def copying (leaf : Nat) : State :=
  let s : State := { paged with mem := putQ (putQ paged.mem 0x41A_0000 0x520_0000) 0x202_1000 leaf }
  (s.setRcd .pool 0 (setAll [(Pool.supva, 0x1A0), (Pool.supput, 1), (Pool.snpva, 0x1B0)])).setRcd .count (0x510_0000 / 65536) 2

theorem witness_Copies :
    let s := copying 0x510_0027
    s.leafOf 0 0x4000_0000 = some (0x510_0027, 0x202_1000, false) ∧ Pte.kv 0x510_0027 = true ∧ slice 38 16 0x510_0027 * 2 ^ 16 = 0x510_0000 ∧
    s.count 0x510_0000 = 2 ∧ (s.takeSupply 0 1).1 = some [0x520_0000] ∧ inSys 0x510_0000 = false ∧ inSys 0x520_0000 = false ∧ inSys 0x202_1000 = false ∧
    (copying 0x510_0067).leafOf 0 0x4000_0000 = some (0x510_0067, 0x202_1000, false) ∧ Pte.c 0x510_0067 = true ∧
    ((copying 0x510_0067).ckptCopy 0 0x4000_0000).1 = true ∧ ({ s with kvFree := [(0, 0x530_0000)] } : State).pageQuiet 0x530_0000 = true ∧
    (ran (.entry 0) .kvCountFree { s with kvFree := [(0, 0x530_0000)] }).map (fun t => t.kvFree) = some [] := by decide +kernel
theorem witness_copy_apart : ∀ i, i < 65536 → ¬((0x202_1000 : Nat) ≤ 0x520_0000 + i ∧ 0x520_0000 + i < 0x202_1000 + 8) := by omega

/-- An MMA of crew 0 at the pipe, its kernel at a level on the bay. -/
def atThePipe (level : Nat) : State :=
  let s := (after (.mma k96 .bf16 false 0 2 64 4 8) (withCrew furnished (uni2 2 0x8000 ∘ uni2 4 0x2_8000))).getD world
  s.setBay 0 (fun b => { b with kerns := b.kerns.modify 0 (fun x => { x with level := level }) })

theorem witness_Pipe :
    (cr (atThePipe 1)).wait = .pipe ∧ (cr (atThePipe 1)).mma.isSome = true ∧ (atThePipe 1).mmaAllowed 0 0 = true ∧ (atThePipe 0).mmaAllowed 0 0 = false ∧
    (atThePipe 1).pipeTakes 0 0 = true ∧ ((atThePipe 1).setBay 0 (fun b => { b with pipeFree := 99 })).pipeTakes 0 0 = false ∧
    (cr (atThePipe 1)).progress = 0 ∧ (atThePipe 1).poisoned = [] ∧ (atThePipe 0).raising 0 0 .mma = false ∧
    (((atThePipe 0).bay 0).kerns.get? 0).map (fun x => x.refused) = some none ∧
    (ran (.crew 0) .mmaAccept (atThePipe 0)).map (fun t => t.gov) = some [⟨0, .raise 0 0 .mma⟩] ∧
    (ran (.bay 0) .mmaPipeFree { (atThePipe 1).setBay 0 (fun b => { b with pipeFree := 16 }) with clock := 16 }).map (fun t => (t.bay 0).pipeFree) =
      some 0 := by decide +kernel

/-- Two updates of one element by crew 0, and one of a poisoned line. -/
def reducing : State :=
  let r (va : Nat) : Red := ⟨va, 0x400_0000 + va, 0x3FF0_0000_0000_0000, 0, 0, 0, 1, none, 0, 0, 8, 0, 1, none⟩
  { furnished with reds := [r 0x8000, { r 0x8000 with stroke := 2 }, { r 0x8080 with stroke := 3 }], poisoned := [lineOf 0x400_8080] }

theorem witness_Reductions :
    reducing.mayApply 0 = true ∧ reducing.mayApply 1 = false ∧ reducing.mayApply 2 = true ∧ reducing.backingC 0 0x8000 = false ∧
    lineOf 0x400_8000 ∉ reducing.poisoned ∧ inSys 0x400_8000 = false ∧ (copying 0x510_0067).backingC 0 0x4000_0000 = true ∧
    (copying 0x510_0067).redsJoined 0 0x4000_0000 = false ∧
    (ran (.entry 0) .reductionApply reducing).map (fun t => (t.num 0x400_8000 8, t.reds.length)) = some (0x3FF0_0000_0000_0000, 2) ∧
    (ran (.entry 2) .reductionApply reducing).map (fun t => (t.num 0x400_8080 8, t.reds.length)) = some (0, 2) ∧
    (ran (.line (lineOf 0x400_8000)) .linePoisoned reducing).map (fun t => t.reds.length) = some 1 := by decide +kernel

/-- Crew 0 of kernel 0 with a batch closed and a timeline bound from it on. -/
def batched (eng : Bool) (n : Nat) : State :=
  furnished.setKern 0 (fun k => k.setKeep 0 (fun e => if eng then { e with ecount := n, ebinds := [(0x400_1020, 1)] } else { e with mcount := n, mbinds := [(0x400_1020, 1)] }))

theorem witness_Batches :
    ((batched true 9).kern 0 |>.keepOf 0 |>.ebinds) = [(0x400_1020, 1)] ∧ ((batched false 9).kern 0 |>.keepOf 0 |>.mbinds) = [(0x400_1020, 1)] ∧
    (batched true 9).reached true 0 0 = 9 ∧ (batched false 9).reached false 0 0 = 9 ∧ Bar.mode.get ((batched true 9).num 0x400_1020 32) = 2 ∧
    Bar.value.get ((batched true 9).num 0x400_1020 32) = 5 ∧ (batched true 5).reached true 0 0 = 5 ∧
    (ran (.kernelCrew 0 0) .engineBatchRaise (batched true 9)).map (fun t => Bar.value.get (t.num 0x400_1020 32)) = some 9 ∧
    (ran (.kernelCrew 0 0) .matrixBatchRaise (batched false 9)).map (fun t => Bar.value.get (t.num 0x400_1020 32)) = some 9 ∧
    (ran (.kernelCrew 0 0) .matrixBatchRaise (batched false 5)).map (fun t => Bar.value.get (t.num 0x400_1020 32)) = some 5 := by decide +kernel

/-- Kernel 0 on bay 0 at a level, with an answer for it. -/
def answered (level : Nat) (w : GovWhat) (ok : Bool) (c : Crew → Crew) : State :=
  withCrew ({ lively with answers := [(⟨0, w⟩, ok)] }.setBay 0 (fun b => { b with kerns := b.kerns.modify 0 (fun x => { x with level := level, openLeave := some 7 }) })) c
def levelOf (p : Place) (i : Instr) (s : State) : Option (Nat × Wait) := (ran p i s).map (fun t => (t.level 0 0, (cr t).wait))

theorem witness_Leaves :
    (((answered 3 (.raise 0 0 .mma) true id).bay 0).kerns.get? 0).map (fun x => x.level) = some 3 ∧
    levelOf (.kernelBay 0 0) .leaveRaiseAnswer (answered 3 (.raise 0 0 .mma) true id) = some (4, .none) ∧
    levelOf (.kernelBay 0 0) .leaveRaiseAnswer (answered 15 (.raise 0 0 .mma) true id) = some (15, .none) ∧
    levelOf (.kernelBay 0 0) .leaveRaiseAnswer (answered 3 (.raise 0 0 (.burst 0)) true (fun c => { c with wait := .leave })) = some (4, .none) ∧
    levelOf (.kernelBay 0 0) .leaveGrantArrive (answered 3 (.leave 0 0 7 9 6) true (fun c => { c with wait := .leaveAsk 7 8 100 })) = some (9, .none) ∧
    levelOf (.kernelBay 0 0) .leaveGrantArrive (answered 3 (.leave 0 0 6 9 6) false (fun c => { c with wait := .leaveAsk 7 8 100 })) =
      some (3, .leaveAsk 7 8 100) ∧
    (let s := withCrew { lively with clock := 101 } (fun c => { c with wait := .leaveAsk 7 8 100 })
     s.answers = [] ∧ s.crews.filter (fun p => decide (p.1 = 0)) = [(0, cr s)] ∧ levelOf (.kernelBay 0 0) .leaveGrantArrive s = some (0, .none)) ∧
    (ran (.bay 0) .leaveWindow { lively with clock := 3000 }).map (fun t => ((t.bay 0).kerns.get? 0).map (fun x => x.window)) = some (some 2) := by decide +kernel

theorem witness_Power :
    (ran (.plimit 8191#13) .plimitWrite lively).map (fun t => (t.fld .power 0 Pwr.plimit, t.fld .power 0 Pwr.budget1)) = some (4800, 3712) ∧
    (ran (.plimit 0#13) .plimitWrite lively).map (fun t => (t.fld .power 0 Pwr.plimit, t.fld .power 0 Pwr.budget0)) = some (2400, 530) ∧
    (ran (.thermal 1 1051) .thermalTripSet lively).map (fun t => t.fld .power 0 Pwr.trip1) = some 1 ∧
    (ran (.thermal 1 1050) .thermalTripSet lively).map (fun t => t.fld .power 0 Pwr.trip1) = some 0 ∧
    (ran (.thermal 1 999) .thermalTripClear (lively.setFld .power 0 Pwr.trip1 1)).map (fun t => t.fld .power 0 Pwr.trip1) = some 0 ∧
    (ran (.thermal 1 1000) .thermalTripClear (lively.setFld .power 0 Pwr.trip1 1)).map (fun t => t.fld .power 0 Pwr.trip1) = some 1 ∧
    (ran (.scrub 5 .uncorrectable) .sramScrub lively).map (fun t => t.poisoned) = some [5] ∧ 5 ∉ lively.poisoned := by decide +kernel

/-- A COPY of 4 KiB, a fetch into slot 2, an ENCODE of a picture of 64 by 64, and one of an all-zero block. -/
def copyCmd : Cmd :=
  { id := 1, kind := .copy, k := 0, crew := 0, ctx := 0, bay := 0, desc := copyDesc % 2 ^ 197, bar := none, barVa := 0, batch := 1, after := [],
    leave := false, engine := none, stage := .waiting, done := 0, list := none, aborted := false, late51 := false, pc := 8, latePc := 8, stroke := 0, window := none, ready := none,
    status := none, fault := none }
def fetchCmd : Cmd := { copyCmd with kind := .cfetch 2 8, desc := 0x2000 }
def encCmd (va : Nat) : Cmd := { copyCmd with kind := .encode, desc := va }
def block : Nat :=
  0x4_0000 * 2 ^ 64 + 0x8000 * 2 ^ 128 + 0xC000 * 2 ^ 192 + 256 * 2 ^ 256 + 256 * 2 ^ 272 + 63 * 2 ^ 288 + 63 * 2 ^ 304 + 0x1_0000 * 2 ^ 320 + 64 * 2 ^ 384
def working (m : Cmd) : State := { furnished with mem := Memory.writes furnished.mem 0x400_6000 (toBytes 256 block), cmds := [m] }

theorem witness_Units :
    let s := working copyCmd
    let v : State := { s with fresh := s.fresh + 1 }.mapCmd 1 (fun y => { y with stage := .running })
    let x : Cmd := { copyCmd with stage := .running }
    s.mayStart copyCmd = true ∧ copyCmd.units = 1 ∧ copyCmd.peerEnds = none ∧ ({ copyCmd with done := 1 } : Cmd).units ≤ 1 ∧
    (v.perform x (x.work 0)).toOption.isSome = true ∧ x.work 0 = .move (some 0x2000) 0x3000 4096 ∧
    (v.need x 0x2000 4096 .read).toOption.map (fun l => l.map (fun p => (p.1, p.2.1.pa, p.2.2))) = some [(0x2000, 0x400_2000, 4096)] ∧
    (v.need x 0x3000 4096 .write).toOption.map (fun l => l.map (fun p => (p.1, p.2.1.pa, p.2.2))) = some [(0x3000, 0x400_3000, 4096)] ∧ s.poisoned = [] := by
  decide +kernel

theorem witness_CommandEnds :
    CmdKind.copy.moves = true ∧ (ran (.entry 1) .engineCommandComplete (working { copyCmd with done := 1 })).map (fun t => t.cmds) = some [] ∧
    (ran (.entry 1) .engineCommandComplete (working { encCmd 0x6000 with aborted := true })).map (fun t => t.cmds) = some [] ∧
    (match reachOf (fun v => if outside v 1 then .fault 0x030 0 else (working fetchCmd).xlatWalk 0 v .fetch) (pieces 0x2000 1024) with
     | .ok l => decide ((working fetchCmd).poisonIn l = []) | _ => false) = true ∧
    (((working fetchCmd).bay 0).kerns.get? 0).isSome = true ∧ (∃ p ∈ (working fetchCmd).crews, ridBay p.1 = 0 ∧ p.2.kernel = 0) ∧
    (ran (.entry 1) .cfetchComplete (working fetchCmd)).map (fun t => t.cmds) = some [] := by decide +kernel

theorem witness_Encodes :
    let s := working (encCmd 0x6000)
    (s.need (encCmd 0x6000) 0x6000 256 .read).toOption.map (fun l => (s.readPieces l, s.poisonIn l)) = some (toBytes 256 block, []) ∧ blkValid (toBytes 256 block) = true ∧ blkValid (toBytes 256 0) = false ∧
    (s.readAll (encCmd 0x6000) (blkReads (toBytes 256 block))).toOption = some false ∧
    (s.need (encCmd 0x6000) 0x1_0000 64 .write).toOption.isSome = true ∧ blkNum (toBytes 256 block) 0x28 8 = 0x1_0000 ∧
    blkNum (toBytes 256 block) 0x30 4 = 64 ∧ (s.reachEng 0 0 0x6000 8 .write |> fun r => match r with | .ok _ => true | _ => false) = true := by
  decide +kernel


theorem test_encode_status :
    let m (va : Nat) : Cmd := { encCmd va with engine := some (0, 1) }
    (ran (.entry 1) .encodeStart (working (m 0x7000))).map (fun t => t.cmds.map (fun m => m.status)) = some [some 2] ∧
    (ran (.entry 1) .encodeDone (working { m 0x6000 with stage := .running, status := some 3 })).map (fun t => (t.num 0x400_6000 8, t.cmds)) =
      some (3, []) := by decide +kernel

theorem witness_TreeEnds :
    planted.fld .tree 0 Tre.state = 1 ∧ planted.dooms 0 = false ∧ (withCrew planted (fun c => { c with doomed := some 0 })).dooms 0 = true ∧
    (planted.treePage 0 0 0 .write).toOption = some 0x500_0000 ∧ inSys 0x500_0000 = false ∧ (planted.setFld .tree 0 Tre.state 2).fld .tree 0 Tre.state = 2 ∧
    (let s : State := { planted with ctxCfg := Tbl.set [] 0 (setAll [(Ctx.ptroot, 0x2000), (Ctx.tmplva, 0x1C0)]) }
     s.cfg 0 Ctx.tmplva ≠ 0 ∧ slice 31 8 0x1_0000_0005 = 0 ∧ (s.makeWritable 0 0x1C_0008).ringSlot 0 0x1C_0008 .write = .ok 0x41C_0008 ∧
     (ran (.template 0 1 0x1_0000_0005#64) .templatePublish s).map (fun t => t.num 0x41C_0008 8) = some 0x1_0000_0005) ∧
    planted.cfg 0 Ctx.tmplva = 0 := by decide +kernel

/-- The small machine as module 1 of epoch 3, context 0's window open for its first 2 MiB: a cell of type .f32 and anchor 0 at 0x5000. -/
def opened : State :=
  let m := Memory.writes furnished.mem 0x400_5000 (toBytes 32 (Cel.type.set 0 Ty.f32.code.toNat))
  let s : State := { linked with mem := m }
  (s.setFld .context 0 Ctx.state 2).setRcd .exports 0 (setAll [(Exp.en, 1), (Exp.len, 0x20)])
def pkt (ops : List PeerOp) : Pkt := ⟨9, 1, 3, 0, 4, 0, 77, ops⟩
/-- What an access leaves in memory, and how it is answered. -/
def performs (op : PeerOp) (a n x : Nat) (st : PeerStatus) : Bool :=
  match ran (.packet (pkt [op])) .peerAccessPerform opened with
  | some t => decide (t.num a n = x) && decide (t.replies = [(9, 77, st)])
  | none => false

theorem witness_Packets :
    (pkt []).dst = opened.selfId ∧ (pkt []).epoch = opened.epoch ∧ opened.peersIn = [] ∧ opened.windowShut 0 0x1F_FFFF = false ∧
    opened.windowShut 0 0x20_0000 = true ∧ opened.windowShut 1 0 = true ∧
    [PeerOp.put 0x2000 4 7, .get 0x2000 4, .red .add .n32 0x2000 1#64, .arrive 0x1000 1, .raise 0x1020 9, .cell .f32 0 0x5000 0x3F80_0000#64].all
      (fun op => (opened.peerStop 0 op).isNone && !inSys (opened.peerPa 0 op)) = true ∧
    performs (.put 0x2000 4 7) 0x400_2000 4 7 (.done []) = true ∧ performs (.get 0x2000 4) 0x400_2000 4 0x8000_00F0 (.done [0x8000_00F0]) = true ∧
    performs (.red .add .n32 0x2000 1#64) 0x400_2000 4 0x8000_00F1 (.done []) = true ∧ performs (.raise 0x1020 9) 0x400_2000 4 0x8000_00F0 (.done []) = true ∧
    performs (.get 0x20_0000 4) 0x400_2000 4 0x8000_00F0 (.refused 1) = true ∧
    (ran (.packet { pkt [] with epoch := 2 }) .peerAccessPerform opened).map (fun t => (t.replies, t.host.peerDropped)) = some ([(9, 77, .epoch)], 1) := by
  decide +kernel

/-- R47 to R49: 1.0 at anchor 0 is 2^79 units; a value of 2 or more saturates; another type or anchor is a mismatch; the bounds of the sum. -/
theorem test_cells :
    let c := Cel.type.set 0 Ty.f32.code.toNat
    let r := (onCell (.cell .f32 0 0 0x3F80_0000#64) c).1
    Cel.N.get r = 2 ^ 79 ∧ Cel.result.get r = 0x3F80_0000 ∧ Cel.count.get r = 1 ∧ Cel.sat.get r = 0 ∧
    Cel.sat.get (onCell (.cell .f32 0 0 0x4000_0000#64) c).1 = 1 ∧ (onCell (.cell .f32 1 0 0x3F80_0000#64) c).2 = true ∧
    (onCell (.cell .f64 0 0 0#64) c).2 = true ∧ Cel.halt.get (onCell (.marker 0) c).1 = 1 ∧ fmtOf .f32 = some f32 ∧
    (ran (.cell (pkt [.cell .f32 0 0x5000 0x3F80_0000#64]) false) .xredCellApply opened).map (fun t => t.replies) = some [(9, 77, .done [])] ∧
    (ran (.cell (pkt [.marker 0x5000, .cell .f32 0 0x5000 0#64]) false) .xredCellApply opened).map (fun t => t.agenda) =
      some [.event (.cell (pkt [.cell .f32 0 0x5000 0#64]) false) .xredCellApply] := by decide +kernel

/-- A posted write, an XGET of one lane, and a packet of a COPY with another one under way. -/
def sending (i : Instr) : State := { (after i (withCrew linked (fun c => { c with em := 1#32 }))).getD world with place := .none }
def firstPeer (s : State) : Option PeerOut := s.peers.head?

theorem witness_Acks :
    let a := sending (.xput k64 .b32 6 10)
    let g := sending (.xget k64 .b32 12 6)
    (firstPeer a).map (fun p => p.get.isNone && p.cmd.isNone && !p.told && p.answer.isNone) = some true ∧ a.peers.length = 1 ∧
    (firstPeer g).map (fun p => decide (p.get.map Prod.fst = some 0) && p.answer.isNone) = some true ∧ g.peers.length = 1 ∧
    (firstPeer g).map (fun p => decide ((cr g).wait = .peer p.instr)) = some true ∧
    (PeerStatus.refused 1).fault = some (0x064, 1) ∧
    (firstPeer g).map (fun p => (lowestFailing [{ p with answer := some (.refused 1) }])) = some (some (0, 0x064, 1, peerAt)) ∧
    (firstPeer a).bind (fun p => (ran (.ack p.id (.done [])) .peerAck a).map (fun t => t.peers.length)) = some 0 ∧
    (firstPeer g).bind (fun p => (ran (.ack p.id (.done [0x55])) .peerAck g).map (fun t => ((cr t).reg 12 0, (cr t).wait))) = some (0x55#32, .none) ∧
    (firstPeer a).map (fun p => let q : PeerOut := { p with cmd := some 4 }
      let s : State := { a with peers := [q, { q with id := p.id + 1 }] }
      decide (∃ x ∈ s.peers, x.instr = q.instr ∧ x.id ≠ q.id ∧ x.answer = none)) = some true := by decide +kernel

/-- Port 2 in a state, at a clk. -/
def portAt (st en clk : Nat) : State := { lively with clock := clk }.setRcd .port 2 (setAll [(Port.state, st), (Port.en, en)])
def portState (p : Place) (i : Instr) (s : State) : Option Nat := (ran p i s).map (fun t => t.fld .port 2 Port.state)

theorem witness_Ports :
    lively.fld .link 0 Lnk.evbar = 0 ∧ portState (.port 2) .portEnSet (portAt 0 1 0) = some 1 ∧ portState (.port 2) .portEnSet (portAt 0 0 0) = some 0 ∧
    portState (.port 2) .portEnClear (portAt 2 0 0) = some 0 ∧ portState (.port 2) .portSignalSeen (portAt 3 1 0) = some 1 ∧
    (portAt 1 1 15000000).portTime (trainKey 2) + 15000000 ≤ 15000000 ∧ 14999999 < (portAt 1 1 14999999).portTime (trainKey 2) + 15000000 ∧
    ((portAt 2 1 9).setPortTime (retryKey 2 0) 5).retriesOver 2 = true ∧ (portAt 2 1 9).retriesOver 2 = false ∧
    portState (.trained 2 7#10) .portTrained (portAt 1 1 0) = some 2 ∧
    (ran (.flit 2 false) .corruptedFlit (portAt 2 1 9)).map (fun t => (t.fld .port 2 Port.crcerr, t.fld .port 2 Port.retries)) = some (1, 0) ∧
    (ran (.flit 2 true) .corruptedFlit (portAt 2 1 9)).map (fun t => (t.fld .port 2 Port.crcerr, t.fld .port 2 Port.retries)) = some (0, 1) ∧
    (ran (.beat 2 768) .heartbeatArrive (portAt 2 1 9)).map (fun t => t.fld .port 2 Port.lastbeat) = some 6 ∧
    (ran (.beat 2 767) .heartbeatArrive (portAt 2 1 9)).map (fun t => t.fld .port 2 Port.lastbeat) = some 6 ∧
    (portAt 2 1 15000).portTime (sendKey 2) + 15000 ≤ 15000 ∧ (portAt 2 1 14999).clock < (portAt 2 1 14999).portTime (sendKey 2) + 15000 ∧
    (ran (.port 2) .heartbeatPeriodMissed ((portAt 2 1 15000).setFld .port 2 Port.missed 6)).map (fun t => (t.fld .port 2 Port.missed, t.fld .port 2 Port.state)) =
      some (7, 2) ∧
    (ran (.port 2) .heartbeatPeriodMissed ((portAt 2 1 15000).setFld .port 2 Port.missed 7)).map (fun t => (t.fld .port 2 Port.missed, t.fld .port 2 Port.state)) =
      some (8, 3) := by decide +kernel

/-- Member 5 of the small system, lost over every port but port 2, where it has missed n periods. -/
def losing (n : Nat) : State :=
  { linked with clock := 15000, reach := ((List.range 64).filter (fun p => decide (p ≠ 2))).foldl (fun t p => Tbl.set t (64 * 5 + p) 8) (Tbl.set [] (64 * 5 + 2) n) }
theorem witness_Members :
    (losing 7).memberMisses 5 2 = true ∧ (losing 8).memberMisses 5 2 = false ∧ (losing 7).memberLive 5 = true ∧ 5 ≠ (losing 7).selfId ∧
    ((losing 7).setReach 5 2 8).portsOf 5 = 0 ∧ ((losing 6).setReach 5 2 7).portsOf 5 = 1 ∧
    (ran (.beat 2 5) .heartbeatPeriodMissed (losing 7)).map (fun t => t.fld .member 5 Mem.state) = some 2 ∧
    (ran (.beat 2 5) .heartbeatPeriodMissed (losing 6)).map (fun t => (t.fld .member 5 Mem.state, t.reachCount 5 2)) = some (1, 7) := by decide +kernel

/-- A closed window of crew 0, with a shared buffer at VA 0x1D_0000, and samples each 512 clk. -/
def stamped : State :=
  let w : Window := ⟨0x3000, 1, 0, none, none, 0, none, none, none, none, false, 0, false, false, 0, true⟩
  let s : State := { lively with clock := 1024, ctxCfg := Tbl.set [] 0 (setAll [(Ctx.ptroot, 0x2000), (Ctx.stampva, 0x1D0)]) }
  (s.setKern 0 (fun k => k.setKeep 0 (fun e => { e with windows := [w] }))).setFld .debug 0 Dbg.speriod 1

theorem witness_Records :
    (((stamped.kern 0).keepOf 0).windows.filter (stamped.retired 0 0)).length = 1 ∧ stamped.cfg 0 Ctx.stampva ≠ 0 ∧
    ringUsed (stamped.fld .context 0 Ctx.sput) (stamped.fld .context 0 Ctx.sget) < 1024 * 2 ^ stamped.cfg 0 Ctx.ssz ∧ inSys 0x41D_0000 = false ∧
    (stamped.makeWritable 0 0x1D_0000).ringSlot 0 0x1D_0000 .write = .ok 0x41D_0000 ∧ lively.cfg 0 Ctx.stampva = 0 ∧
    (ran (.kernelCrew 0 0) .stampRecordWrite stamped).map (fun t => (((t.kern 0).keepOf 0).windows.length, t.fld .context 0 Ctx.sput)) = some (0, 1) ∧
    stamped.sampleDue 0 0 0 = true ∧ ({ stamped with clock := 1025 } : State).sampleDue 0 0 0 = false ∧
    (stamped.sampleSlot 0 0 0).map Prod.fst = some 0 ∧
    (ran (.sample 0 0 0) .pcSample stamped).map (fun t => t.fld .context 0 Ctx.sput) = some 1 := by decide +kernel

/-- The hypotheses of the encoding statements, for each length. -/
theorem witness_Encoding :
    wfErr (.exit k64) = none ∧ decodeWords [0x0003_C01C, 0, 0, 0] = .ok (.exit k64) ∧ decodeWords [0x0003_C01C, 0, 0xFFFF_FFFF] = .ok (.exit k64) ∧
    decodeWords [0x0003_C00D, 0x0000_0300, 0x0028_0000, 0] = .ok (.bdiv k96 3 10) ∧
    decodeWords [0x0003_C092, 0x0800_0102, 0, 0x0005_5538] = .ok (.imulh k128 .n32 2 1 (.imm 0x0005_5538)) ∧
    decodeWords [0x0003_C01F, 0, 0, 0] = .error .length := by decide +kernel

/-! ## Values of arithmetic, bounds and rows -/

/-- NaNs, infinities, zeros, 5/4, 3, -2, 9 and 512 as binary32 words. -/
theorem witness_words :
    (f32.val 0x7FC0_0000).isNan = true ∧ (f32.val 0x7F80_0000).isInf = true ∧ f32.val 0 = .fin false 0 1 (-149) ∧
    f32.val 0x3FA0_0000 = .fin false 10485760 1 (-23) ∧ f32.val 0x4040_0000 = .fin false 12582912 1 (-22) ∧
    f32.val 0xC000_0000 = .fin true 8388608 1 (-22) ∧ f32.val 0x4110_0000 = .fin false 9437184 1 (-20) ∧
    f32.val 0x4400_0000 = .fin false 8388608 1 (-14) ∧ f32.val 0xC400_0000 = .fin true 8388608 1 (-14) ∧
    f32.val 0x3E80_0000 = .fin false 8388608 1 (-25) := by decide +kernel

/-- What these words are as numbers: a quarter above an integer, an integer and power of two, beyond the range of FEXP2 on either side. -/
theorem witness_FunctionValues :
    rat (f32.val 0) = 0 ∧ rat (f32.val 0x3FA0_0000) = 1 + 1 / 4 ∧ rat (f32.val 0x4040_0000) = 3 ∧ rat (f32.val 0xC000_0000) = -2 ∧
    9 ≤ |rat (f32.val 0x4110_0000)| ∧ 128 ≤ rat (f32.val 0x4400_0000) ∧ rat (f32.val 0xC400_0000) < -149 ∧
    rat (f32.val 0x3E80_0000) = (4 : ℚ) ^ (-1 : Int) := by
  obtain ⟨-, -, h0, h1, h2, h3, h4, h5, h6, h7⟩ := witness_words
  rw [h0, h1, h2, h3, h4, h5, h6, h7]
  norm_num [rat]

theorem witness_FloatValues : ∀ f ∈ [f16, bf16, f32], (2 : Nat) ^ (f.width - 1) < 2 ^ f.width ∧ f.nan.isSome = true ∧ (f.val 1).isNan = false ∧
    (f.val ((2 ^ f.e - 1) * 2 ^ f.m + 1)).isNan = true ∧ (f.val ((2 ^ f.e - 1) * 2 ^ f.m)).isInf = true ∧
    (f.val 0).cmp (f.val (2 ^ (f.width - 1))) = some .eq ∧ (f.val 0).sign ≠ (f.val (2 ^ (f.width - 1))).sign := by decide +kernel

/-- Conversions between two floats, to an integer, between integers and to E8M0, of NaNs, infinities and finite values. -/
theorem witness_ConvertValues :
    fmtOf .f16 = some f16 ∧ fmtOf .e4m3 = some e4m3 ∧ fmtOf .i32 = none ∧ fmtOf .e8m0 = none ∧ (Ty.f16 : Ty) ≠ .f32 ∧
    tyVal .f32 0x3FA0_0000 = .fin false 10485760 1 (-23) ∧ f16.val 0x3D00 = .fin false 1280 1 (-10) ∧
    (tyVal .f32 0x7FC0_0000).isNan = true ∧ (tyVal .f32 0xFF80_0000).isInf = true ∧ (tyVal .f32 0xFF80_0000).sign = true ∧
    Alu.mxscale .e4m3 0 0 = 0x7F ∧ Alu.mxscale .e4m3 0x7F80_0000 0 = 0xFF := by decide +kernel

/-- Rows of two lanes: finite, with an infinity, with a NaN, all alike, all minus infinity. -/
theorem witness_RowValues :
    let row (a b : Nat) : List (Nat × Nat) := [(0, a), (3, b)]
    (∀ r ∈ [row 0x3FA0_0000 0x4040_0000, row 0x7F80_0000 0x4040_0000, row 0x7FC0_0000 0, row 0x4040_0000 0x4040_0000, row 0xFF80_0000 0xFF80_0000,
        row 0xFF80_0000 0x3FA0_0000],
      r ≠ [] ∧ (∀ p ∈ r, p.1 < 32 ∧ p.2 < 2 ^ 32) ∧ (r.map Prod.fst).Pairwise (· < ·)) ∧
    (∀ p ∈ row 0x3FA0_0000 0x4040_0000, (f32.val p.2).isNan = false ∧ (f32.val p.2).isInf = false) ∧
    (∃ p ∈ row 0x7F80_0000 0x4040_0000, (f32.val p.2).isInf = true) ∧ (∃ p ∈ row 0x7FC0_0000 0, (f32.val p.2).isNan = true) ∧
    (∀ p ∈ row 0xFF80_0000 0xFF80_0000, p.2 = 0xFF80_0000) ∧
    ((row 0xFF80_0000 0x3FA0_0000).filter (fun p => !(f32.val p.2).isInf)).length = 1 ∧
    (softmax 9#32 [(0, 0x3FA0_0000#32), (3, 0x4040_0000#32)]).1.map Prod.fst = [0, 3] := by decide +kernel

/-- 5/4 lies in the ranges of FEXP2, of FLOG2 near 1 and of the roots, and 3 in that of FLOG2 above 2; a row of 5/4 and minus infinity has shares. -/
theorem witness_FunctionBounds :
    let q := rat (f32.val 0x3FA0_0000)
    let r : List (Nat × Word) := [(0, 0x3FA0_0000#32), (3, 0xFF80_0000#32)]
    (-149 ≤ q ∧ q < 128 ∧ 1 / 2 ≤ q ∧ q ≤ 2 ∧ 0 < q) ∧ 2 < rat (f32.val 0x4040_0000) ∧ (r.map Prod.fst).Pairwise (· < ·) ∧
    (∀ p ∈ r, p.1 < 32) ∧ (∀ p ∈ r, (f32.val p.2.toNat).isNan = false ∧ p.2 ≠ 0x7F80_0000#32) ∧ (∃ p ∈ r, p.2 ≠ 0xFF80_0000#32) := by
  have h := witness_FunctionValues
  refine ⟨by rw [h.2.1]; norm_num, by rw [h.2.2.1]; norm_num, by decide +kernel, by decide +kernel, by decide +kernel, by decide +kernel⟩

/-! ## Rules over all instructions, spills, records -/

/-- An ordinary instruction that goes on, in a state whose kernels have contexts and queues of the module. -/
theorem witness_OrdinaryRules :
    let i : Instr := .iadd k64 .i32 false 4 5 (.reg 6)
    enc i ≠ none ∧ mayBound i = false ∧ world.place = .crew 0 ∧ (cr world).life = .active ∧ (cr world).stack.length < 32 ∧
    crewAfter i world (fun d => (d.life, decide (d.wait = .ctxFault), d.handler, d.kernel, d.idx)) = some (.active, false, false, 0, 0) ∧
    (world.kern 0).state ≠ .retired ∧ (∀ p ∈ world.kernels, p.2.ctx < 1024 ∧ p.2.queue < 4096) ∧ Kernel.init.ctx < 1024 ∧ Kernel.init.queue < 4096 := by
  decide +kernel

/-- A crew with 32 stack entries: the next BDIV writes the oldest into the trap area (R152, R80). -/
def deep : State := withCrew furnished (fun c => { c with stack := (List.range 32).map (fun i => ⟨0, 8, 1#32, BitVec.ofNat 32 i⟩) })
theorem witness_spill :
    issuesOk deep (.bdiv k96 5 0) = true ∧ deep.marked 0 (cr deep) 0 8 = true ∧ (cr deep).pc = 8 ∧ (cr deep).stack.length = 32 ∧
    deep.frameSlot 0 (((deep.frameVa 0 (cr deep)) + 0xA00) % 2 ^ 64) = .ok 0x410_0A00 ∧ inSys 0x410_0A00 = false ∧
    (after (.bdiv k96 5 0) deep).map (fun t => (t.num 0x410_0A00 4, (cr t).stack.length)) = some (31, 33) ∧
    (∀ l < 32, (0#32 : LaneMask).getLsbD l = ((cr deep).em.getLsbD l && decide ((cr deep).reg 5 l ≠ 0#32))) := by decide +kernel

/-- Writes to the link's, the power and a member's record: a change of the epoch ends the declarations (R368). -/
theorem witness_RecordKinds :
    let s : State := { lively with declared := [5], reach := [(64 * 5 + 2, 8), (64 * 6 + 2, 2)] }
    let at_ (tab : SysTab) (n k : Nat) (v : Byte) : Option State := ran (.byteWrite (SysTab.addr tab n + k) v) .systemRecordWrite s
    sysAt (SysTab.addr .link 0 + 44) = some (.link, 0, 44) ∧ sysAt (SysTab.addr .power 0) = some (.power, 0, 0) ∧
    sysAt (SysTab.addr .member 7) = some (.member, 7, 0) ∧ inSys (SysTab.addr .link 0) = true ∧
    (at_ .link 0 44 1#8).map (fun t => (t.fld .link 0 Lnk.epoch, t.declared, t.reach)) = some (1, [], [(64 * 6 + 2, 2)]) ∧
    (at_ .link 0 44 0#8).map (fun t => t.declared) = some [5] ∧
    (at_ .power 0 0 0#8).map (fun t => t.fld .power 0 Pwr.plimit) = some 4608 ∧
    (at_ .member 7 0 1#8).map (fun t => t.fld .member 7 Mem.state) = some 1 ∧
    (at_ .member 7 0 2#8).map (fun t => t.fld .member 7 Mem.state) = some 0 := by decide +kernel

/-! ## Placement, residence, stops and ends -/

/-- No member of kernel 0's bents is anywhere. -/
theorem placing_far : ∀ truss, ¬Near placing 0 1 truss := by
  have h : (placing.kern 0).bents = [] := by decide +kernel
  rintro truss ⟨p, _, _, _, n, _, x, hx, _⟩
  simp [h] at hx

theorem witness_Prefers : Prefers placing 0 1 0 1 none := Or.inr (Or.inl placing_far)

/-- Kernel 0 with a bent of affinity of which its crew on bay 0 is a member, and crew 1 too. -/
def bonded : State :=
  withCrew (placing.setKern 0 (fun k => { k with bents := [⟨true, [(0, 1)]⟩], plan := [0] })) (fun c => { c with bents := [0] })
theorem witness_Near : Near bonded 0 1 0 ∧ Prefers bonded 0 1 5 1 none := by
  have h : Near bonded 0 1 0 := ⟨(0, cr bonded), by decide +kernel, by decide +kernel, by decide +kernel, 0, by decide +kernel, ⟨true, [(0, 1)]⟩,
    by decide +kernel, rfl, by decide +kernel⟩
  exact ⟨h, Or.inl h⟩

/-- A persistent kernel with one crew to place on a reserved truss, and one whose bays have no room. -/
def persisting (slots : Nat) : State :=
  (placing.setKern 0 (fun k => { k with plan := [1], nextCrew := 1, launch := setAll [(Lch.slots, slots), (Lch.ncrews, 1), (Lch.persistent, 1)] })).setFld .cox 0
    Cox.rsv 1
theorem witness_persistent :
    (persisting 3).places 0 = true ∧ (persisting 3).lch 0 Lch.persistent = 1 ∧ (persisting 3).nextCrewOf 0 = some (1, none) ∧ (persisting 3).ncrews 0 = 2 ∧
    ((persisting 3).placeFirst 0 ((persisting 3).planSides 0)).map (fun t => t.nextCrewOf 0) = some none ∧
    (persisting 17).placeFirst 0 ((persisting 17).planSides 0) = none ∧ (persisting 17).nextCrewOf 0 ≠ none ∧
    (ran (.kernel 0) .crewPlace (persisting 3)).map (fun t => (t.kern 0).nextCrew) = some 2 ∧
    (1, 0) ∈ (persisting 3).planSides 0 ∧ (persisting 3).freeSlots 1 0 ≠ [] ∧ (persisting 3).canHost 0 1 0 1 none = true := by decide +kernel

/-- A placed crew with an armed debug handler, its slot 15 empty or full, and a side with n pending crews. -/
def arriving (full : Bool) (n : Nat) : State :=
  let s := withCrew lively (fun c => { c with life := .placed, debug := true })
  (s.setBay 0 (fun b => { b with kerns := b.kerns.modify 0 (fun x =>
    { x with slots := x.slots ++ [(15, if full then .full 0 1 (probeLine 0) else .empty)] }) })).setSide 0 0 (fun x =>
      { x with pending := (List.range n).map (fun i => i + 1) })
theorem witness_Residence :
    ((arriving false 0).codeSlot 0 0 15).code? = none ∧ ((arriving true 0).codeSlot 0 0 15).code?.isSome = true ∧
    ((arriving true 0).codeSlot 0 0 0).code?.isSome = true ∧ (((arriving true 0).kern 0).keepOf 0).savedTrapped = false ∧
    (ran (.crew 0) .crewResident (arriving false 0)).map (fun t => (cr t).life) = some .placed ∧
    (ran (.crew 0) .crewResident (arriving true 0)).map (fun t => (cr t).life) = some .pending ∧
    (ran (.crew 0) .crewResident (arriving true 24)).map (fun t => (cr t).life) = some .placed ∧
    ((arriving true 23).side 0 0).pending.length < 24 ∧ 24 ≤ ((arriving true 24).side 0 0).pending.length := by decide +kernel

/-- An MMA under way with flag 2, stopped three clk after its acceptance: four blocks are done, and its flag clears (R118). -/
def underWay : State :=
  let r (b : Nat) : Red := ⟨0x8000, 0x400_8000, 0, 0, 0, 0, 1, none, b, 0, 8, 0, 1, none⟩
  match (cr (atThePipe 1)).mma with
  | some j =>
    withCrew { furnished with clock := 3, reds := [{ r 3 with mma := some 7 }, { r 4 with mma := some 7 }] } (fun c =>
      { c with mmaRun := some ⟨7, 8, 0, 0, 0, false, { j with flag := some 2 }⟩, flags := 4#12 })
  | none => world
theorem witness_stopMma :
    (cr underWay).mmaRun.map (fun r => (r.first, r.start, r.job.flag)) = some (0, 0, some 2) ∧ (cr underWay).strokes = [] ∧
    max 0 (min 16 (underWay.clock + 1 - 0)) < 16 ∧ (cr (underWay.stopCrew 0)).progress = 4 ∧ (cr (underWay.stopCrew 0)).flags = 0#12 ∧
    (underWay.stopCrew 0).reds.length = 1 := by decide +kernel

/-- Crews that end: with a batch open, in a faulted kernel that stops, and cancelled with a posted write to a KV page. -/
theorem witness_CrewEndings :
    let open_ (s : State) : State := s.setKern 0 (fun k => k.setKeep 0 (fun e => { e with mopen := true, mcount := 3 }))
    let gone := open_ (withCrew lively (fun c => { c with exited := 0xFFFF_FFFF#32 }))
    let faulted := open_ ((withCrew lively (fun c => { c with stopping := true })).setKern 0 (fun k => { k with state := .faulted }))
    (ran (.crew 0) .crewExit gone).map (fun t => ((t.kern 0).keepOf 0).mcount) = some 4 ∧
    (ran (.crew 0) .crewExit faulted).map (fun t => (((t.kern 0).keepOf 0).mcount, (t.kern 0).exited)) = some (3, 1) ∧
    (cr faulted).strokes = [] ∧ (faulted.kern 0).ending = none := by decide +kernel

/-- A trap that waits, with the frame's page writable and a handler there; in a handler, a double trap. -/
theorem witness_TrapEntries :
    let x : Trap := ⟨0x01B, 0, 0, 31, 7, 24, 0⟩
    let s := withCrew lively (fun c => { c with trap := some x, wait := .strokes })
    let y := (cr s).settled s.fresh
    let w := (s.setCrew 0 (fun _ => y)).makeWritable 0 (s.frameVa 0 (cr s))
    w.frameSlot 0 (s.frameVa 0 (cr s)) = .ok 0x410_0000 ∧ (w.writeFrame 0 y x 0x410_0000).handlerOf 0 0 = some 136 ∧ x.lane < 32 ∧
    (ran (.crew 0) .preciseTrapEntry (withCrew s (fun c => { c with handler := true }))).map (fun t => (cr t).life) = some .trapped := by decide +kernel

/-- A kernel granted its units while an aged candidate is before it: it is not admitted (R94). -/
theorem witness_AgedMeanwhile :
    let s : State := { asking [0] [] [(ask 1 3, true)] with
      kernels := (asking [0] [] []).kernels.set 2 { Kernel.init with state := .ready, aged := true, candidate := some 0 } }
    s.isCandidate 2 = true ∧ s.isCandidate 1 = true ∧ lexLe (s.rank 2) (s.rank 1) = true ∧
    (ran (.kernel 1) .admissionGrant s).map (fun t => ((t.kern 1).state, (t.kern 1).chosen)) = some (.ready, none) := by decide +kernel

/-! ## Engines, peers, the host and the ports -/

/-- A COPY that has no engine finds one of its die; with all sixteen busy it goes to the other die; a multicast one waits for its turn. -/
theorem witness_Engines :
    let s := working copyCmd
    let full : State := { s with cmds := copyCmd :: (List.range 16).map (fun i => { copyCmd with id := i + 2, engine := some (0, i) }) }
    let all : State := { full with cmds := full.cmds ++ (List.range 16).map (fun i => { copyCmd with id := i + 18, engine := some (1, i) }) }
    let cast : Cmd := { copyCmd with desc := copyCmd.desc + 2 ^ 193 }
    s.engineFor copyCmd = some (0, 0) ∧ s.served copyCmd = true ∧ full.engineFor copyCmd = some (1, 0) ∧ all.engineFor copyCmd = none ∧
    all.served copyCmd = false ∧ s.served cast = true ∧ slice 193 193 cast.desc = 1 ∧
    ({ s with casts := Tbl.set [] 0 (0, 5) } : State).served cast = false ∧ ({ s with casts := Tbl.set [] 0 (0, 0) } : State).served cast = true ∧
    ({ s with casts := Tbl.set [] 0 (7, 5) } : State).served cast = true ∧ s.peersIn = [] ∧
    (ran (.entry 1) .engineUnitLand s).map (fun t => t.cmds.map (fun y => (y.done, y.engine))) = some [(1, some (0, 0))] := by decide +kernel

/-- Encodes: an orphaned ready object gives status 5, one that has not met its condition waits; a status that is written, one whose page is not
there, and one that was given up. -/
theorem witness_EncodeStates :
    let m (va : Nat) : Cmd := { encCmd va with engine := some (0, 1) }
    let r : Cmd := { m 0x6000 with ready := some 0x400_1000, desc := 0x6000 + 7 * 2 ^ 128 }
    let orphan : State := { working r with mem := Memory.writes (working r).mem 0x400_1000 (toBytes 32 (setAll [(Bar.mode, 1), (Bar.phase, 7), (Bar.orphan, 1)])) }
    let ending (va st : Nat) : Cmd := { m va with stage := .running, status := some st }
    Bar.holds (orphan.num 0x400_1000 32) 7 ≠ some true ∧ Bar.orphan.get (orphan.num 0x400_1000 32) = 1 ∧ (working r).mayStart r = true ∧
    (ran (.entry 1) .encodeStart orphan).map (fun t => t.cmds.map (fun y => y.status)) = some [some 5] ∧
    (ran (.entry 1) .encodeStart (working r)).map (fun t => t.cmds.map (fun y => y.stage)) = some [.waiting] ∧
    (match (working (ending 0x6000 3)).reachEng 0 0 0x6000 8 .write with | .ok _ => true | _ => false) = true ∧
    (match (working (ending 0x7000_0000 3)).reachEng 0 0 0x7000_0000 8 .write with | .fault k _ _ => decide (k = 0x030) | _ => false) = true ∧
    (ran (.entry 1) .encodeDone (working (ending 0x7000_0000 3))).map (fun t => t.cmds.map (fun y => (y.stage, y.status))) = some [(.faulted, some 3)] ∧
    (ran (.entry 1) .encodeDone (working (ending 0x6000 6))).map (fun t => t.cmds) = some [] := by decide +kernel

/-- A template write whose line a held stroke has reserved waits. -/
theorem witness_templates :
    let s : State := { planted with ctxCfg := Tbl.set [] 0 (setAll [(Ctx.ptroot, 0x2000), (Ctx.tmplva, 0x1C0)]) }
    let h := withCrew s (fun c => { c with heldReady := true, heldSet := some [umpireOf (lineOf 0x41C_0008)] })
    let w := h.makeWritable 0 0x1C_0008
    (∃ p ∈ w.crews, (p.2.heldReady = true ∨ ∃ st ∈ p.2.strokes, st.held = true) ∧ umpireOf (lineOf 0x41C_0008) ∈ p.2.heldSet.getD []) ∧
    w.ringSlot 0 0x1C_0008 .write = .ok 0x41C_0008 ∧ ¬(∃ p ∈ (s.makeWritable 0 0x1C_0008).crews, p.2.heldReady = true) ∧
    (ran (.template 0 1 0x1_0000_0005#64) .templatePublish h).map (fun t => t.num 0x41C_0008 8) = some 0 := by decide +kernel

/-- Barrier failures of a packet: a raise of a phase object and an arrival on a timeline, and an object on a memory-side page. -/
theorem witness_BarrierFailures :
    (match opened.barPerform 0x400_1000 (.raise 9) with | .error _ => true | .ok _ => false) = true ∧
    (match opened.barPerform 0x400_1020 (.arrive 1) with | .error _ => true | .ok _ => false) = true ∧
    opened.peerStop 0 (.raise 0x1000 9) = none ∧
    (ran (.packet (pkt [.raise 0x1000 9])) .peerAccessPerform opened).map (fun t => t.replies.map (fun r => (r.1, r.2.1))) = some [(9, 77)] ∧
    (let s : State := { opened with mem := Memory.writes opened.mem 0x201_0000 (toBytes 8 0x400_0017) }
     s.windowShut 0 0x1000 = false ∧ (match s.xlatWindow 0 (.arrive 0x1000 1) with | .ok h => Pte.m h.leaf || Pte.kv h.leaf | _ => false) = true ∧
     (ran (.packet (pkt [.arrive 0x1000 1])) .peerAccessPerform s).map (fun t => t.replies) = some [(9, 77, .barrierMode 3)]) := by decide +kernel

/-- A refused answer to a posted write whose failure has been told before writes no second record (R373). -/
theorem witness_told :
    let a := sending (.xput k64 .b32 6 10)
    let again : State := { a with peers := a.peers.map (fun p => { p with told := true }) }
    let lates (s : State) : Option Nat := (firstPeer s).bind (fun p => (ran (.ack p.id (.refused 1)) .peerAck s).map (fun t =>
      (t.agenda.filter (fun e => match e with | .event (.late _) .impreciseFault => true | _ => false)).length))
    (firstPeer again).map (fun p => p.told) = some true ∧ lates a = some 1 ∧ lates again = some 0 := by decide +kernel

/-- Malformed messages: an ACK and a WRITE with a bad version. -/
theorem witness_malformed :
    let bad (x : HostMsg) : HostMsg := { x with ver := 2 }
    (bad (msg 0 0 1 [])).ok = false ∧ (bad (msg 0 0 1 [])).typ = 0 ∧ (bad (writeMsg 0 0x2000)).ok = false ∧ (bad (writeMsg 0 0x2000)).unsequenced = false ∧
    (bad (writeMsg 0 0x2000)).seq = hosted.host.nextIn ∧
    (ran (.host (bad (writeMsg 0 0x2000))) .plofoWrite hosted).map (fun t => (t.host.nextIn, t.num 0x400_2000 4)) = some (2, 0x8000_00F0) := by decide +kernel

/-- Frames: accepted, tagged, and bad in each field; a tagged frame may be 4 bytes longer. -/
theorem witness_Frames :
    let s : State := { hosted with mac := 3, hostMac := 9 }
    let f (tag : Bool) (n : Nat) : EthFrame := ⟨3, 9, tag, 0x88B5, true, msg 2 0 1 (List.replicate n 0#8)⟩
    s.accepts (f false 12) = true ∧ s.accepts (f true 12) = true ∧ s.accepts (f false 1468) = true ∧ s.accepts (f false 1469) = false ∧
    s.accepts (f true 1468) = true ∧ s.accepts (f true 1469) = false ∧ s.accepts { f false 12 with fcsOk := false } = false ∧ s.accepts { f false 12 with dst := 4 } = false ∧
    s.accepts { f false 12 with etype := 0x800 } = false ∧ s.power = .up := by decide +kernel

/-- A link event with a phase object to arrive on, and one whose object is a timeline. -/
theorem witness_linkEvents :
    let s (va : Nat) : State := lively.setFld .link 0 Lnk.evbar (va / 32)
    (s 0x1000).fld .link 0 Lnk.evbar ≠ 0 ∧ isPeer (sext56 (0x80 * 32)) = false ∧
    (match ((s 0x1000).makeWritable 0 0x1000).xlatWalk 0 0x1000 .read with
     | .ok h => decide (h.pa = 0x400_1000) && !Pte.m h.leaf && !Pte.kv h.leaf | _ => false) = true ∧
    Bar.mode.get ((s 0x1000).num 0x400_1000 32) = 1 ∧ Bar.mode.get ((s 0x1020).num 0x400_1020 32) = 2 ∧
    Bar.arrived.get (((s 0x1000).linkEvent).num 0x400_1000 32) = 1 ∧ ((s 0x1020).linkEvent).num 0x400_1020 32 = (s 0x1020).num 0x400_1020 32 := by
  decide +kernel

/-- The room of a sample's record, and errors found in register files. -/
theorem witness_SampleRoom :
    let s := stamped.setSide 0 0 (fun x => { x with sampled := x.sampled.set 0 (0, stamped.clock) })
    s.cfg 0 Ctx.stampva ≠ 0 ∧ (s.makeWritable 0 0x1D_0000).ringSlot 0 0x1D_0000 .write = .ok 0x41D_0000 ∧
    (∃ p ∈ stamped.crewsAt 0 0, p.1 % 32 = 0 ∧ p.2.ctx stamped = 0 ∧ p.2.life ≠ .exited ∧ p.2.life ≠ .placed) ∧
    (ran (.sram .uncorrectable) .sramScrub lively).map (fun t => (t.host.uncorrectable, t.poisoned)) = some (1, []) := by decide +kernel

/-- A checkpoint's snapshot entry inside the restored range, whose page is mapped. -/
def restoring : State :=
  let s := checkpointed.setRcd .pool 0 (setAll [(Pool.snpva, 0x1E0), (Pool.snpput, 1)])
  { s with mem := Memory.writes (Memory.writes (putQ s.mem 0x202_1000 0x510_0007) 0x41E_0000 (toBytes 8 0x4000_0000)) 0x41E_0008 (toBytes 8 0x518_0000) }
theorem witness_restore :
    restoring.ringSlot 0 (sext56 (restoring.snpRing 0).va) .read = .ok 0x41E_0000 ∧ restoring.num 0x41E_0000 8 = 0x4000_0000 ∧
    (match restoring.xlatWalk 0 0x4000_0000 .write with | .ok h => decide (h.pa = 0x510_0000) | _ => false) = true ∧ restoring.num 0x41E_0008 8 = 0x518_0000 := by decide +kernel

/-! ## What the tree operations leave -/

/-- The nodes of a tree page whose last cell of memory lies in node k - 1's record or before. -/
theorem nodes_upto (s : State) (k : Nat) (l : List Nat) (hk : k ≤ 256)
    (h : s.mem.all (fun p => decide (p.1 < 0x500_1000 + 16 * k)) = true)
    (hl : (List.range k).map (fun n => s.num (nodeAt 0x500_0000 n) 16) = l) : s.nodes 0x500_0000 = l ++ List.replicate (256 - k) 0 := by
  have h2 : (List.range (256 - k)).map (fun n => s.num (nodeAt 0x500_0000 (k + n)) 16) = List.replicate (256 - k) 0 := by
    rw [List.eq_replicate_iff]
    exact ⟨by simp, fun x hx => by
      obtain ⟨n, _, rfl⟩ := List.mem_map.1 hx
      exact num_above s (0x500_1000 + 16 * k) h (by omega) 16 _ (by simp only [nodeAt]; omega)⟩
  have hr : List.range 256 = List.range k ++ (List.range (256 - k)).map (fun n => k + n) := by
    rw [← List.range_add, show k + (256 - k) = 256 by omega]
  rw [State.nodes, hr, List.map_append, hl, List.map_map]
  exact congrArg (l ++ ·) h2

/-- The planted tree with a trunk of one page and an accepted root node 4 behind it. -/
def accepting : State :=
  let r := setAll [(Nod.pos, 16), (Nod.root, 1), (Nod.depth, 1), (Nod.gen, 1), (Nod.state, 3)]
  { treeBegun with mem := putNode (putQ treeBegun.mem 0x202_3020 0x510_0027) 4 r }.setFld .tree 0 Tre.tlen 16
def acceptingNodes : List Nat :=
  plantedNodes.take 4 ++ [setAll [(Nod.pos, 16), (Nod.root, 1), (Nod.depth, 1), (Nod.gen, 1), (Nod.state, 3)]] ++ List.replicate 251 0
theorem accepting_nodes : accepting.nodes 0x500_0000 = acceptingNodes :=
  (nodes_upto accepting 5 _ (by decide) (by decide +kernel) rfl).trans (by
    rw [show (List.range 5).map (fun n => accepting.num (nodeAt 0x500_0000 n) 16) = acceptingNodes.take 5 by decide +kernel]; rfl)
theorem accepting_page : accepting.treePage 0 0 0 .write = .ok 0x500_0000 := by
  have h : accepting.xlatWalk 0 (accepting.treeVa 0) .write = .ok ⟨0x500_0000, 0x500_0007, false, false, false⟩ := by decide +kernel
  simp only [State.treePage, h]

/-- R359: the one accepted node goes into the trunk. -/
theorem test_tcommit : (accepting.treeCommit 0 0 0x104 0).toOption.map (fun p => (p.1.fld .tree 0 Tre.tlen, p.2)) = some (17, 0x100) := by
  simp only [State.treeCommit, accepting_page, accepting_nodes]
  decide +kernel
/-- The hypotheses of TreeEffects: a free tree slot, leaves and their slots, live nodes, a path of accepted nodes, a run of free indices, views that
share a page and views that begin one. -/
theorem witness_TreeEffects :
    treeBegun.fld .tree 1 Tre.state = 0 ∧ (∀ m, m < 1 → treeBegun.fld .tree m Tre.state ≠ 0) ∧
    treeBegun.fld .context 0 Ctx.ntrees < treeBegun.cfg 0 Ctx.treemax ∧ (treeBegun.windowBad 0 2).toOption = some false ∧
    (treeBegun.treeLeaf 0 0x4000_0000).toOption = some (some (0x510_0000, 0x202_1000)) ∧ (treeBegun.leafSlot 0 (treeBegun.viewVa 0 4) 0).toOption = some 0x202_3020 ∧
    inSys 0x500_FFFF = false ∧ inSys 0x500_0000 = false ∧ nodeLive (nodeOf plantedNodes 0) = true ∧ Nod.gen.get (nodeOf plantedNodes 0) < 2 ^ 8 ∧
    chainOf acceptingNodes 256 4 = [4] ∧ Nod.state.get (nodeOf acceptingNodes 4) = 3 ∧ freeRun plantedNodes 1 = some 4 ∧
    freeRun (List.replicate 256 1) 1 = none ∧ treeBegun.forkNodes 0 1 0 = [(0, 0xFF, 1)] ∧ treeBegun.forkNodes 0 1 1 = [] ∧
    (3 : Nat) % treeBegun.spp 0 ≠ 0 ∧ 16 % treeBegun.spp 0 = 0 ∧
    (treeBegun.mapShared 0 (treeBegun.viewVa 0 4) 0x510_0000 0).toOption.isSome = true ∧ (treeBegun.mapNew 0 (treeBegun.viewVa 0 4) 0x518_0000 0).toOption.isSome = true ∧
    (accepting.treeLeaf 0 (accepting.viewVa 0 4)).toOption = some (some (0x510_0000, 0x202_3020)) ∧
    ((accepting.trunkForWrite 0 0x4000_0000 0).toOption.map Prod.snd) = some 0x510_0000 := by decide +kernel

/-! ## Forms at the edges of the rules -/

/-- R151, R158: BRX with an empty em takes lane 0's value; RET that does not return, a condition that is neither, set bits above the slot, a slot past
the kernel's, one that is not full, an unmarked offset, within the slot and into another. -/
theorem witness_return_forms :
    let bare := withCrew coded (fun c => { one 5 0 136 c with em := 0#32, stack := [⟨0, 24, 3#32, 7#32⟩] })
    let atj (v : Nat) := withCrew joined (uni 5 v)
    let inn (v : Nat) := withCrew coded (uni 5 v)
    crewAfter (.brx k64 5) bare Crew.pc = some 136 ∧
    crewAfter (.ret { k64 with pred := .nonzero 9 } 5) (inn 136) Crew.pc = some 24 ∧
    trapOf (.ret { k64 with pred := .nonzero 9 } 5) (withCrew joined (one 9 3 1)) = some ⟨0x014, 0, 0, 0, 0, (cr joined).pc, 0⟩ ∧
    trapOf (.ret k64 5) (atj 1) = some ⟨0x013, 1, 0, 0, 0, (cr joined).pc, 0⟩ ∧
    crewAfter (.ret k64 5) (inn 136) Crew.pc = some 136 ∧
    crewAfter (.ret k64 5) (inn 0x1_0008) (fun c => (c.handler, c.reg 2 0, c.reg 3 0)) = some (true, 0x018#32, 1#32) ∧
    crewAfter (.ret k64 5) (inn 0x3008) (fun c => (c.handler, c.reg 2 0, c.reg 3 0)) = some (true, 0x018#32, 1#32) ∧
    crewAfter (.ret k64 5) (inn 0x2008) (fun c => (c.handler, c.reg 2 0, c.reg 3 0)) = some (true, 0x017#32, 2#32) ∧
    crewAfter (.ret k64 5) (inn 0x1001) (fun c => (c.handler, c.reg 2 0, c.reg 3 0)) = some (true, 0x013#32, 0x1001#32) := by decide +kernel
theorem witness_gives : Gives (cr (withCrew coded (fun c => { one 5 0 136 c with em := 0#32 }))) 1 5 136 :=
  Or.inr (by decide +kernel)

/-- A crew in its handler whose frame replays one FEXP2 under flag 0. -/
def replays : State :=
  let hd := setAll [(Frm.kind, 0x01B), (Frm.pc, 24), (Frm.em, 0xFFFF_FFFF), (Frm.resume, 1), (Frm.nrep, 1)]
  let e := toBytes 16 ((encodeBits (.fexp2 { k64 with set := some 0 } 4 5)).getD 0#128).toNat ++ toBytes 16 (24 + 1 * 2 ^ 32) ++ toBytes 128 0x3F80_0000
  { handling with mem := Memory.writes (Memory.writes handling.mem 0x410_0000 (toBytes 64 hd)) 0x410_0080 e }
/-- R177, R80: its entry is issued again; with its flag held RTE waits; with a storage error in the frame there is a context fault. -/
theorem witness_replays :
    issuesOk replays (.rte k64) = true ∧
    crewAfter (.rte k64) replays (fun c => (c.handler, c.pc, c.flags, c.pends.length)) = some (false, 24, 1#12, 1) ∧
    crewAfter (.rte k64) (withCrew replays (fun c => { c with flags := 1#12 })) (fun c => (c.handler, c.wait)) = some (true, .retry) ∧
    crewAfter (.rte k64) { replays with poisoned := [lineOf 0x410_0800] } (fun c => (c.handler, c.wait)) = some (true, .ctxFault) := by decide +kernel

/-- The host's first message waits in the inbox. -/
def later : State := { hosted with host := { hosted.host with nextIn := 2, inbox := [writeMsg 0 0x2000] } }
/-- R104, R105: a WRITE whose turn comes later, a READ that waits behind it, a WRITE that a held stroke keeps waiting, and a malformed message. -/
theorem witness_inbox :
    let second : HostMsg := { readMsg with seq := 2 }
    let garbled : HostMsg := { writeMsg 0 0x2000 with len := 3 }
    let held := withCrew hosted (fun c => { c with heldReady := true, heldSet := some [umpireOf (lineOf 0x400_2000)] })
    second.ok = true ∧ second.unsequenced = false ∧ garbled.ok = false ∧ garbled.unsequenced = false ∧ garbled.typ ≠ 0 ∧ hosted.host.inbox = [] ∧
    later.host.inbox.head? ≠ some second ∧ (msg 0 0 70000 []).typ = 0 ∧ ({ msg 0 0 1 [] with len := 3 } : HostMsg).ok = false ∧
    (ran (.host (writeMsg 0 0x2000)) .plofoWrite later).map (fun t => (t.num 0x400_2000 4, t.host.nextIn, t.host.inbox.length)) = some (0x1234, 2, 0) ∧
    (ran (.host second) second.event later).map (fun t => (t.host.nextIn, t.host.inbox.length)) = some (3, 2) ∧
    (ran (.host (writeMsg 0 0x2000)) .plofoWrite held).map (fun t => (t.num 0x400_2000 4, t.host.nextIn, t.host.inbox.length)) =
      some (0x8000_00F0, 2, 1) ∧
    (ran (.host garbled) .plofoWrite hosted).map (fun t => (t.host.nextIn, t.host.sent.map (fun o => (o.typ, o.body.length)))) = some (2, [(0x81, 32)]) := by
  decide +kernel

/-- A kernel asks for more slots than a bay has, while kernel 2, just admitted, is to have its first crew on bay 0. -/
def awaited : State :=
  let s := choosing 0 17 true
  { s with kernels := s.kernels.set 2 { Kernel.init with state := .placing, plan := [0], launch := Lch.slots.set 0 1 } }
theorem witness_awaited : awaited.refreshCandidates.candidates = [1] ∧ (awaited.refreshCandidates.kern 1).chosen = none ∧
    awaited.refreshCandidates.someAwaited = true ∧ awaited.refreshCandidates.planOf 1 = none := by
  refine ⟨by decide +kernel, by decide +kernel, by decide +kernel, planOf_none (by decide +kernel) (fun b => ?_)⟩
  have hb : awaited.refreshCandidates.bays = [] := by decide +kernel
  have hs : awaited.refreshCandidates.lch 1 Lch.slots = 17 := by decide +kernel
  simp [State.bayCrews, State.bayTakes, State.bayRoom, State.isHere, State.slotsUsed, bay_of_none hb, hs, Bay.init, Tbl.get?, Config.codeSlots]

/-- A saved crew of kernel 0, the entry that maps its save slot, and its frame's first 64 bytes. -/
def savedWith (leaf hd : Nat) : State :=
  { savedCrew with mem := Memory.writes (putQ savedCrew.mem 0x201_0000 leaf) 0x410_0000 (toBytes 64 hd) }
/-- Its frame has eight instructions to be replayed, and side 0 has nine outstanding. -/
def fuFull : State :=
  withCrew (savedWith 0x400_000F (setAll [(Frm.nrep, 8), (Frm.allot, 8)]))
    (fun c => { c with pends := List.replicate 9 ⟨0, [(0, 0#32)], [], none, none, none, some ⟨0#128, 0, 0, 1#32, [], [0], 0, false, 0⟩⟩ })
/-- R80, R122, R176: a save slot behind a malformed entry, and a side whose function unit has no room. -/
theorem witness_saved_slots :
    (match (savedWith (2 ^ 62 + 0x400_000F) 0).saveReach 0 0 .read with | .bad c => decide (c = 3) | _ => false) = true ∧
    (savedWith (2 ^ 62 + 0x400_000F) 0).saveBad 0 = some 3 ∧ fuFull.nextCrewOf 0 = some (1, some 0) ∧ savedCrew.saveBad 0 = none ∧
    (match fuFull.saveReach 0 0 .read with | .ok l => !fuFull.fuTakes 0 0 0 0 l && fuFull.fuTakes 0 1 0 0 l | _ => false) = true ∧
    (ran (.kernelSide 0 0 0) .crewPlace fuFull).map (fun t => t.crews.length) = some 1 := by decide +kernel

/-- Kernel 0 stopping, its crew placed but not resident: it was trapped when it was saved. -/
def stoppedPlaced : State :=
  (withCrew { saving with suspending := Tbl.set [] 0 .suspend } (fun c => { c with life := .placed })).setKern 0 (fun k => k.setKeep 0 (fun e => { e with savedTrapped := true }))
/-- A crew all of whose lanes have exited, of itself or cancelled, with a batch of each sort open. -/
def ended (x : Bool) : State :=
  (withCrew lively (fun c => { c with exited := 0xFFFF_FFFF#32, cancelled := x })).setKern 0 (fun k => k.setKeep 0 (fun e => { e with mopen := true, eopen := true }))
def batchesOf (x : Bool) : Option (Nat × Nat) := (ran (.crew 0) .crewExit (ended x)).map (fun t => (((t.kern 0).keepOf 0).mcount, ((t.kern 0).keepOf 0).ecount))
def savedMark (s : State) : Option (Bool × Option Nat) := (ran (.save 0 3) .crewSave s).map (fun t => (((t.kern 0).keepOf 0).savedTrapped, ((t.kern 0).keepOf 0).save))
/-- R118, R327, R344: a crew that a stop finds placed keeps the mark of its earlier save; one that was cancelled closes no further batch. -/
theorem witness_ends :
    stoppedPlaced.drained (cr stoppedPlaced) = true ∧ savedMark stoppedPlaced = some (true, some 3) ∧
    savedMark (withCrew saving (fun c => { c with life := .trapped })) = some (true, some 3) ∧ savedMark saving = some (false, some 3) ∧
    batchesOf true = some (0, 0) ∧ batchesOf false = some (1, 1) := by decide +kernel

/-- The small machine, with a trace buffer at VA 0x1D_0000, after one lane's instruction and a CUT: its stroke may commit. -/
def committing (i : Instr) (f : Crew → Crew) : State :=
  let s : State := { furnished with ctxCfg := Tbl.set [] 0 (setAll [(Ctx.ptroot, 0x2000), (Ctx.stampva, 0x1D0)]) }
  (after (.cut k64) ((after i (withCrew s (fun c => { f c with em := 1#32 }))).getD world)).getD world
def commits {α : Type} (i : Instr) (f : Crew → Crew) (g : State → α) : Option α := (ran (.crew 0) .strokeCommit (committing i f)).map g
/-- A stroke of the state may commit, and these are its effects. -/
def closesWith (s : State) (effs : List Eff) : Bool :=
  decide ((cr s).closing = some (strokeOf s)) && !s.isLocal (cr s) (strokeOf s) && decide ((strokeOf s).effs = effs) && decide ((strokeOf s).binds = []) &&
    (strokeOf s).umpires.all (fun u => !(s.reserved 0).contains u) && decide (s.poisoned = [])
/-- The hypotheses of CommitEffects, with what comes of an ARRIVE on a phase object, on a timeline, a BARINIT, a SUMRED, a TRACE and an MFENCE. -/
theorem witness_CommitEffects :
    let phase := uni2 4 0x1000 ∘ uni 6 1
    let line := uni2 4 0x1020 ∘ uni 6 1
    let init := uni2 4 0x1000 ∘ uni2 6 1 ∘ uni2 8 7
    closesWith (committing (.arrive k64 false 4 6) phase) [.bar 0x1000 0x400_1000 (.arrive 1) none] = true ∧
    commits (.arrive k64 false 4 6) phase (fun t => (Bar.arrived.get (t.num 0x400_1000 32), t.order, t.regns.length)) = some (1, 2, 1) ∧
    ((BarOp.arrive 1).apply ((committing (.arrive k64 false 4 6) line).num 0x400_1020 32) matches .error 2) = true ∧
    commits (.arrive k64 false 4 6) line (fun t => (Bar.value.get (t.num 0x400_1020 32), t.order)) = some (5, 2) ∧
    commits (.barinitTl k64 4 6 8) init (fun t => (Bar.mode.get (t.num 0x400_1000 32), t.regns.length)) = some (2, 0) ∧
    closesWith (committing (.sumred k64 .f64 2 4 0) (uni2 2 0x8000 ∘ uni2 4 0x3FF0_0000_0000_0000)) [.sumred 0x8000 0x400_8000 0x3FF0_0000_0000_0000] = true ∧
    commits (.sumred k64 .f64 2 4 0) (uni2 2 0x8000 ∘ uni2 4 0x3FF0_0000_0000_0000) (fun t => (t.reds.map (fun r => r.pa), ((t.kern 0).keepOf 0).mopen)) =
      some ([0x400_8000], true) ∧
    closesWith (committing (.trace k64 6 7) (uni 6 5 ∘ uni 7 6)) [.trace 5 6 8 1#32 0#32] = true ∧
    commits (.trace k64 6 7) (uni 6 5 ∘ uni 7 6) (fun t => (t.num 0x41D_0018 4, t.num 0x41D_001C 4, t.fld .context 0 Ctx.sput)) = some (5, 6, 1) ∧
    closesWith (committing (.mfence k64 true true) id) [.mfence true true] = true ∧ commits (.mfence k64 true true) id State.order = some 2 := by decide +kernel
theorem witness_trace_room :
    let s := committing (.trace k64 6 7) (uni 6 5 ∘ uni 7 6)
    s.cfg 0 Ctx.stampva ≠ 0 ∧ ringUsed (s.fld .context 0 Ctx.sput) (s.fld .context 0 Ctx.sget) < 1024 * 2 ^ s.cfg 0 Ctx.ssz ∧
    (s.makeWritable 0 0x1D_0000).ringSlot 0 0x1D_0000 .write = .ok 0x41D_0000 ∧ inSys 0x41D_0000 = false := by decide +kernel

/-- A state after one lane's store to VA 0x2000 and a CUT. -/
def storing (s : State) : State :=
  (after (.cut k64) ((after (.st k64 .b32 .none 6 5 0) (withCrew s (fun c => { uni2 6 0x2000 (uni 5 9 c) with em := 1#32 }))).getD world)).getD world
/-- Its kernel records into a log at a page, with a log number, an open run and a put index. -/
def recording (l : CtxLog → CtxLog) (knum : Option Nat) (put page : Nat) : State :=
  let s : State := { furnished with ctxCfg := Tbl.set [] 0 (setAll [(Ctx.ptroot, 0x2000), (Ctx.record, 1), (Ctx.ologva, page)]), logs := Tbl.set [] 0 (l CtxLog.init) }
  storing ((s.setKern 0 (fun k => { k with knum := knum, launch := setAll [(Lch.slots, 3), (Lch.record, 1)] })).setFld .context 0 Ctx.oput put)
/-- The first two entries of the log after the commit, the put index and the open run. -/
def recorded (s : State) : Option (List Nat) :=
  (ran (.crew 0) .strokeCommit s).map (fun t =>
    [t.num 0x419_0000 8, t.num 0x419_0008 8, t.fld .context 0 Ctx.oput] ++ (match (t.log 0).run with | some (a, b, n, i) => [a, b, n, i] | none => []))
def logs (s : State) : Bool :=
  closesWith s [.store 0x2000 0x400_2000 (toBytes 4 9) false] && s.logged 0 && !s.gated 0 && decide (s.logReady 0 (s.fld .context 0 Ctx.oput) (s.logNeeds 0 0 0) = s) &&
    !s.givesUp (cr s)
/-- The hypotheses of LoggedCommits: the first commit of its kernel, one that extends its crew's run, one that begins a run, one that is refused. -/
theorem witness_LoggedCommits :
    let first := recording id none 0 0x190
    let more := recording (fun l => { l with run := some (5, 0, 1, 0) }) (some 5) 1 0x190
    let next := recording (fun l => { l with run := some (5, 1, 1, 0) }) (some 5) 1 0x190
    let refused := recording id (some 5) 0 0x2000
    [first, more, next, refused].all logs = true ∧ first.logRefuses 0 0 0 = none ∧ refused.logRefuses 0 0 0 = some 5 ∧
    (first.logSlot 0 0 .write).toOption = some 0x419_0000 ∧ (first.logSlot 0 1 .write).toOption = some 0x419_0008 ∧ inSys 0x419_0000 = false ∧ inSys 0x419_0008 = false ∧
    more.logReady 0 0 1 = more ∧ (next.log 0).extends (some 5) 0 = false := by decide +kernel
/-- What each leaves. -/
theorem test_logged_commits :
    recorded (recording id none 0 0x190) = some [2 ^ 62, 1, 2, 0, 0, 1, 1] ∧
    recorded (recording (fun l => { l with run := some (5, 0, 1, 0) }) (some 5) 1 0x190) = some [5 * 2 ^ 50 + 2, 0, 1, 5, 0, 2, 0] ∧
    recorded (recording (fun l => { l with run := some (5, 1, 1, 0) }) (some 5) 1 0x190) = some [0, 5 * 2 ^ 50 + 1, 2, 5, 0, 1, 1] ∧ (ran (.crew 0) .strokeCommit (recording id (some 5) 0 0x2000)).map (fun t => (cr t).wait) = some .ctxFault := by
  decide +kernel

/-- The kernel replays from a log of these words. -/
def gated (l : List Nat) : State := storing { replaying l with mem := Memory.writes furnished.mem 0x419_0000 (l.flatMap (toBytes 8)), place := .crew 0 }
def gateIs (l : List Nat) (g : GateSays) : Bool := decide ((State.takeKnums 0 ((gated l).logLeft 0) (gated l)).gate 0 0 = g)
def passed (l : List Nat) : Option (List Nat) :=
  (ran (.crew 0) .strokeCommit (gated l)).map (fun t => [t.fld .context 0 Ctx.oget, t.num 0x400_2000 4] ++ (match (t.log 0).cur with | some (i, n) => [i, n] | none => []))
/-- The hypotheses of GatedCommits: a run of one commit, of two, the end of the log, a run of another crew and of a kernel that is not there, and a
checkpoint. -/
theorem witness_GatedCommits :
    [gated [1], gated [2], gated [], gated [2 ^ 26 + 1], gated [2 ^ 50 + 1], gated [2 ^ 63]].all (fun s =>
      closesWith s [.store 0x2000 0x400_2000 (toBytes 4 9) false] && !s.logged 0 && s.gated 0 && !s.givesUp (cr s)) = true ∧
    gateIs [1] .pass = true ∧ gateIs [2] .pass = true ∧ gateIs [] .opened = true ∧ gateIs [2 ^ 26 + 1] .hold = true ∧
    gateIs [2 ^ 50 + 1] (.diverge 0) = true ∧ gateIs [2 ^ 63] .check = true := by decide +kernel
theorem test_gated_commits :
    passed [1] = some [1, 9] ∧ passed [2] = some [0, 9, 0, 1] ∧ passed [] = some [0, 9] ∧
    passed [2 ^ 26 + 1] = some [0, 0x8000_00F0] := by decide +kernel

/-- Descriptors of a COPY whose source, or whose destination's last row, passes the end of the local space. -/
def pastEnd : Nat := (2 ^ 55 - 16) + 0x3000 * 2 ^ 64 + 2 * 2 ^ 128
def rowsPastEnd : Nat := 0x2000 + (2 ^ 55 - 64) * 2 ^ 64 + 1 * 2 ^ 128 + 15 * 2 ^ 144 + 16 * 2 ^ 160 + 16 * 2 ^ 176 + 2 ^ 192
/-- R249: such a COPY, and pages from the last one on, are a page fault at 2^55. -/
theorem witness_past_end :
    let pages := withCrew paged (uni2 6 (2 ^ 55 - 4096) ∘ uni 9 2)
    copyPast copyDesc = none ∧ copyPast (copyDesc + 2 ^ 192) = none ∧ copyPast pastEnd = some (2 ^ 55) ∧ copyPast rowsPastEnd = some (2 ^ 55) ∧
    crewAfter (.copy k64 16) (withCrew furnished (wide 16 pastEnd)) (fun c => (c.handler, c.reg 2 0)) = some (true, 0x032#32) ∧
    ([.pgpin k64 8 6 9, .pgunpin k64 8 6 9, .sflushWb k64 6 9, .sflushInv k64 6 9] : List Instr).all (fun i =>
      decide (crewAfter i pages (fun c => (c.handler, c.reg 2 0)) = some (true, 0x032#32))) = true := by decide +kernel

/-- A reduction of the crew is in flight to the region that its SUMDRAIN empties. -/
def draining : State :=
  withCrew { furnished with reds := [⟨0x2_0000, 0x402_0000, 0, 0, 0, 0, 1, none, 0, 0, 8, 0, 1, none⟩] } (uni2 6 0x8000 ∘ uni2 10 0x2_0000)
/-- R298, R302: it waits, and keeps the lines that it has checked. -/
theorem witness_drain_waits :
    draining.ownReds (cr draining) 0x2_0000 32768 ≠ [] ∧
    crewAfter (.sumdrain k64 true 10 6) draining (fun c => (c.wait, c.drain.map (fun j => (j.from_.length, j.to_.length)))) = some (.reds, some (256, 256)) := by
  decide +kernel

/-- A command at work is to land on an object in the page that is to be marked. -/
def toLand : State := { checkpointed with cmds := [{ copyCmd with stage := .running, bar := some 0x510_0100 }] }
/-- R269: the cut waits for it. R266, R431: a ring without an address, one whose slot does not translate, one that holds its entry. -/
theorem witness_cuts :
    let noRing (va : Nat) := checkpointed.setRcd .pool 0 (setAll [(Pool.snpva, va), (Pool.snpput, 1)])
    (begun toLand 0 (cr toLand)).landingIn 0 [cutLeaf] = true ∧ (begun checkpointed 0 (cr checkpointed)).landingIn 0 [cutLeaf] = false ∧
    crewAfter (.pgcowMark k64 8 10 12) toLand Crew.wait = some .retry ∧ crewAfter (.ckptCut k64 8 6) toLand Crew.wait = some .retry ∧
    (checkpointed.snapsThere 0 0 1).toOption = some false ∧ (restoring.snapsThere 0 0 1).toOption = some true ∧
    crewAfter (.ckptBack k64 8 6) (noRing 0) (fun c => c.reg 8 0) = some 0x32#32 ∧
    crewAfter (.ckptBack k64 8 6) (noRing 0x2000) (fun c => c.reg 8 0) = some 0x32#32 := by decide +kernel

/-- R92: a FLUSH of a queue with a ready kernel that keeps nothing. -/
theorem witness_flush :
    ((withKernel .ready id).kern 1).keep = [] ∧ (withKernel .ready id).regns = [] ∧ ((withKernel .ready id).kern 1).unadmitted = true ∧
    (after (.qctlFlush k64 8 14) (withKernel .ready id)).map (fun t => ((t.kern 1).state, (t.kern 1).cause)) = some (.retired, 1) := by decide +kernel

/-- VA 0 to 2 MiB marked for a checkpoint. -/
def marked (s : State) : State := { s with mem := putQ s.mem 0x201_0000 0x400_004F }
/-- A batch whose timeline lies there. -/
def markedBatch (eng : Bool) : State := { marked (batched eng 9) with regns := [⟨0x400_1020, 0, 0x1020, 0, .bound 0 eng⟩] }
/-- A COPY of 16 bytes. -/
def lineDesc : Nat := 0x2000 + 0x3000 * 2 ^ 64 + 2 ^ 128
/-- One whose barrier lies in a marked page that it does not write. -/
def landsMarked : State :=
  { checkpointed with
    mem := Memory.writes (putQ checkpointed.mem 0x202_1000 0x510_0047) 0x510_0000 (toBytes 32 (setAll [(Bar.mode, 1), (Bar.exarr, 2)]))
    cmds := [{ copyCmd with desc := lineDesc, bar := some 0x510_0000, barVa := 0x4000_0000 }] }
def heldOne (s : State) : State := { s with heldBars := [⟨0, 0x1000, 0x400_1000, some (.arrive 1)⟩] }
/-- The held operations after an event, and a field of an object. -/
def heldAfter (p : Place) (i : Instr) (s : State) (f : Fld) (pa : Nat) : Option (Nat × Nat) := (ran p i s).map (fun t => (t.heldBars.length, f.get (t.num pa 32)))
/-- R270: a raise, a landing and a link event on an object of a marked page are held, and come when it is marked no longer (log 92). -/
theorem witness_held_operations :
    let evented (s : State) := s.setFld .link 0 Lnk.evbar (0x1000 / 32)
    (markedBatch true).boundVa true 0 0 0x400_1020 = 0x1020 ∧ (markedBatch true).barMarked 0 0x1020 0x400_1020 = true ∧
    (batched true 9).barMarked 0 0x1020 0x400_1020 = false ∧ furnished.heldBars = [] ∧
    heldAfter (.kernelCrew 0 0) .engineBatchRaise (markedBatch true) Bar.value 0x400_1020 = some (1, 5) ∧
    heldAfter (.kernelCrew 0 0) .matrixBatchRaise (markedBatch false) Bar.value 0x400_1020 = some (1, 5) ∧
    landsMarked.barMarked 0 0x4000_0000 0x510_0000 = true ∧
    heldAfter (.entry 1) .engineUnitLand landsMarked Bar.landed 0x510_0000 = some (1, 0) ∧
    heldAfter (.entry 1) .engineUnitLand (working { copyCmd with desc := lineDesc, bar := some 0x400_1000, barVa := 0x1000 }) Bar.landed 0x400_1000 = some (0, 16) ∧
    (evented (marked furnished)).barMarked 0 0x1000 0x400_1000 = true ∧ (evented (marked furnished)).linkEvent.heldBars.length = 1 ∧
    Bar.arrived.get ((evented furnished).linkEvent.num 0x400_1000 32) = 1 ∧ ((heldOne (marked furnished)).serveBars 0).heldBars.length = 1 ∧
    Bar.arrived.get (((heldOne furnished).serveBars 0).num 0x400_1000 32) = 1 := by decide +kernel

/-- R372, R374: a packet of a crew that has been answered, one behind a held packet of its crew, one with the number of a held packet. -/
theorem witness_packet_order :
    let p := pkt [.put 0x2000 4 7]
    let seen : State := { opened with peersSeen := [⟨9, 3, 4, 0, 77⟩] }
    let behind : State := { opened with peersIn := [⟨0, { p with id := 76 }, none⟩] }
    let other : State := { opened with peersIn := [⟨0, { p with ops := [] }, none⟩] }
    let left (s : State) := (ran (.packet p) .peerAccessPerform s).map (fun t => (t.replies.length, t.peersIn.length, t.num 0x400_2000 4))
    seen.peerNext p = false ∧ opened.peerNext p = true ∧ seen.peerNext { p with id := 78 } = true ∧
    (∃ x ∈ behind.peersIn, x.pkt.sameCrew p = true ∧ x.pkt.id < p.id) ∧
    (∃ x ∈ other.peersIn, x.pkt.sameCrew p = true ∧ x.pkt.id = p.id ∧ ¬(x.pkt = p ∧ x.fault = none)) ∧
    left seen = some (0, 0, 0x8000_00F0) ∧ left behind = some (0, 2, 0x8000_00F0) ∧ left other = some (0, 1, 0x8000_00F0) ∧ left opened = some (1, 0, 7) := by
  decide +kernel

/-- R122, R294: the progress index counts for the MMA that a stop ended, and for no other. -/
theorem witness_rest_of_mma :
    let s := withCrew (atThePipe 1) (fun c => { c with restAt := some (0, 8), progress := 15 })
    (cr s).mma.map (fun j => (j.slot, j.pc)) = some (0, 8) ∧ s.mmaAllowed 0 0 = true ∧ s.pipeTakes 0 0 = true ∧
    (cr s).restAt = some (0, 8) ∧ (cr s).progress = 15 := by decide +kernel

/-- R113: with level 15 a burst that waits goes on, at 14 it does not; R344: a cancelled node counts in its own context. -/
theorem witness_levels_and_tags :
    levelOf (.kernelBay 0 0) .leaveRaiseAnswer (answered 14 (.raise 0 0 .mma) true (fun c => { c with wait := .leave })) = some (15, .none) ∧
    levelOf (.kernelBay 0 0) .leaveRaiseAnswer (answered 13 (.raise 0 0 .mma) true (fun c => { c with wait := .leave })) = some (14, .leave) ∧
    planted.tagDoom 0 0x103#32 = some 0 ∧ planted.tagDoom 1 0x103#32 = none ∧
    ((planted.doom 1 0 [0]).crews.get? 0).map (fun c => c.doomed) = some none ∧ ((planted.doom 0 0 [0]).crews.get? 0).map (fun c => c.doomed) = some (some 0) ∧
    (blkNum (toBytes 256 block) 0x34 4).testBit 0 = false := by decide +kernel

end Sys2Proof.Tests
end

section
namespace Sys2Proof.Machine

/-! ## What changes memory (R20)

Only `State.write` changes memory, and it keeps the canonical form (`State.write_wf`, `State.writeNum_wf`). A function of the
model that calls neither leaves memory (`State.f_mem`); any other keeps the form (`State.f_wf`). They stand in the order of
the model's files. A proof splits along the branches of its one function; at the end of each branch the lemmas of the functions
that it calls, cited or of the simp set, give the rest. -/

section
variable {α : Type}

/-- A fold of updates that leave memory leaves memory. -/
@[simp] theorem State.foldl_mem {f : State → α → State} (hf : ∀ s a, (f s a).mem = s.mem) (l : List α) (s : State) :
    (l.foldl f s).mem = s.mem := by
  induction l generalizing s with
  | nil => rfl
  | cons a l ih => exact (ih _).trans (hf s a)

/-- A fold of updates that keep the canonical form keeps it. -/
theorem State.foldl_wf {f : State → α → State} (hf : ∀ s a, Memory.wf s.mem = true → Memory.wf (f s a).mem = true)
    (l : List α) {s : State} (h : Memory.wf s.mem = true) : Memory.wf (l.foldl f s).mem = true := by
  induction l generalizing s with
  | nil => exact h
  | cons a l ih => exact ih (hf s a h)

/-- The state that an outcome leaves, where it leaves one, has the canonical form of memory. -/
def NextWf (o : Host.Outcome State Fault Refusal) : Prop := ∀ t, o = .next t → Memory.wf t.mem = true

@[simp] theorem nextWf_next (t : State) : NextWf (.next t) ↔ Memory.wf t.mem = true := by simp [NextWf]

@[simp] theorem nextWf_fault (x : Fault) : NextWf (.fault x) := by simp [NextWf]

/-- The state that a body leaves, where it leaves one, has the canonical form of memory. -/
def OkWf {ε : Type} (r : Except ε State) : Prop := ∀ t, r = .ok t → Memory.wf t.mem = true

@[simp] theorem okWf_ok {ε : Type} (t : State) : OkWf (.ok t : Except ε State) ↔ Memory.wf t.mem = true := by simp [OkWf]

@[simp] theorem okWf_error {ε : Type} (x : ε) : OkWf (.error x : Except ε State) := by simp [OkWf]

end

/-! ### Translation -/

@[simp] theorem State.tlbDrop_mem {s : State} (ctx va : ℕ) : (s.tlbDrop ctx va).mem = s.mem := by rfl

@[simp] theorem State.sweepStash_mem {s : State} : s.sweepStash.mem = s.mem := by rfl

/-! ### Ranges of bytes -/

@[simp] theorem State.writePieces_wf {s : State} (pieces : List (ℕ × Hit × ℕ)) (bs : List Byte) (h : Memory.wf s.mem = true) :
    Memory.wf (s.writePieces pieces bs).mem = true := by
  induction pieces generalizing s bs with
  | nil => exact h
  | cons p rest ih => exact ih _ (State.write_wf _ _ h)

/-! ### Pages: supply, counts and copies -/

@[simp] theorem State.ctxFault_mem {s : State} (ctx cause : ℕ) : (s.ctxFault ctx cause).mem = s.mem := by rfl

theorem State.supply_mem {s : State} (ctx k : ℕ) {r : List ℕ × State} (e : s.supply ctx k = .ok r) : r.2.mem = s.mem := by
  -- the search is a variable here, so that no check of the case split runs it
  obtain ⟨look, hl⟩ : ∃ look, look = State.supplyLook := ⟨_, rfl⟩
  rw [State.supply, ← hl] at e
  dsimp only at e
  (repeat' split at e) <;> cases e
  · rfl
  · exact (State.setFld_mem _ _ _ _ _).trans (State.setFld_mem _ _ _ _ _)

@[simp] theorem State.takeSupply_mem {s : State} (ctx k : ℕ) : (s.takeSupply ctx k).2.mem = s.mem := by
  unfold State.takeSupply
  split
  · next hs => exact State.supply_mem ctx k hs
  · simp
  · rfl

theorem State.mem_of_takeSupply {s t : State} {ctx k : ℕ} {q : Option (List ℕ)} (e : s.takeSupply ctx k = (q, t)) :
    t.mem = s.mem := by
  simpa [e] using State.takeSupply_mem (s := s) ctx k

@[simp] theorem State.countDec_mem {s : State} (ctx pa : ℕ) : (s.countDec ctx pa).mem = s.mem := by
  simp [State.countDec, apply_ite State.mem]

@[simp] theorem State.kvCopy_wf {s : State} (ctx va : ℕ) (h : Memory.wf s.mem = true) :
    Memory.wf (s.kvCopy ctx va).2.mem = true := by
  unfold State.kvCopy
  (repeat' split) <;> grind -ring [State.takeSupply_mem, State.setRcd_mem, State.write_wf, State.tlbDrop_mem,
    State.writeNum_wf, State.countDec_mem]

@[simp] theorem State.snapshotPut_wf {s : State} (va : ℕ) (l : List (ℕ × ℕ × ℕ)) (h : Memory.wf s.mem = true) :
    Memory.wf (s.snapshotPut va l).mem = true := by
  unfold State.snapshotPut
  simp +contextual [State.foldl_wf, State.writeNum_wf, h]

@[simp] theorem State.ckptCopy_wf {s : State} (ctx va : ℕ) (h : Memory.wf s.mem = true) :
    Memory.wf (s.ckptCopy ctx va).2.mem = true := by
  unfold State.ckptCopy
  dsimp only
  split
  · exact h
  · split
    · exact h
    · split
      · exact h
      · simpa using h
      · split
        · next hq =>
          rw [← State.mem_of_takeSupply hq] at h
          rw [State.tlbDrop_mem]
          refine State.writeNum_wf _ _ _ ?_
          rw [State.setFld_mem]
          exact State.snapshotPut_wf _ _ (State.foldl_wf (fun _ _ => State.write_wf _ _) _ h)
        · next hq => rwa [State.mem_of_takeSupply hq]

@[simp] theorem State.pageCopy_wf {s : State} (ctx va copy : ℕ) (h : Memory.wf s.mem = true) :
    Memory.wf (s.pageCopy ctx va copy).2.mem = true := by
  unfold State.pageCopy
  (repeat' split) <;> simp [h]

@[simp] theorem State.makeWritable_wf {s : State} (ctx va : ℕ) (h : Memory.wf s.mem = true) :
    Memory.wf (s.makeWritable ctx va).mem = true := by
  unfold State.makeWritable
  dsimp only
  (repeat' split) <;> simp [h]

/-! ### The fault and stamp logs -/

@[simp] theorem State.faultLost_mem {s : State} (ctx : ℕ) : (s.faultLost ctx).mem = s.mem := by
  simp -implicitDefEqProofs [State.faultLost]

@[simp] theorem State.faultLog_wf {s : State} (ctx : ℕ) (r : FaultRec) (h : Memory.wf s.mem = true) :
    Memory.wf (s.faultLog ctx r).mem = true := by
  unfold State.faultLog
  dsimp only
  (repeat' split) <;> simp -implicitDefEqProofs [State.writeNum_wf, h]

@[simp] theorem State.stampLog_wf {s : State} (ctx bits : ℕ) (h : Memory.wf s.mem = true) :
    Memory.wf (s.stampLog ctx bits).mem = true := by
  unfold State.stampLog
  dsimp only
  (repeat' split) <;> simp -implicitDefEqProofs [State.writeNum_wf, h]

@[simp] theorem State.late_mem {s : State} (f : Late) : (s.late f).mem = s.mem := by rfl

@[simp] theorem State.pushFree_wf {s : State} (ctx page : ℕ) (h : Memory.wf s.mem = true) :
    Memory.wf (s.pushFree ctx page).mem = true := by
  unfold State.pushFree
  dsimp only
  (repeat' split) <;> simp -implicitDefEqProofs [State.writeNum_wf, h]

/-! ### Strokes -/

@[simp] theorem State.squashFrom_mem {s : State} (rid i : ℕ) : (s.squashFrom rid i).mem = s.mem := by
  unfold State.squashFrom
  (repeat' split) <;> simp

@[simp] theorem State.squash_mem {s : State} (rid i : ℕ) : (s.squash rid i).mem = s.mem := by
  unfold State.squash
  split <;> simp

@[simp] theorem State.broadcast_mem {s : State} (ls : List ℕ) (committer : Option ℕ) :
    (s.broadcast ls committer).mem = s.mem := by
  simp [State.broadcast, apply_ite State.mem]

/-! ### The order log and its gate -/

@[simp] theorem State.logReady_wf {s : State} (ctx idx fuel : ℕ) (h : Memory.wf s.mem = true) :
    Memory.wf (s.logReady ctx idx fuel).mem = true := by
  induction fuel with
  | zero => exact h
  | succ n ih => exact State.makeWritable_wf _ _ ih

@[simp] theorem State.logPush_wf {s : State} (ctx entry : ℕ) (h : Memory.wf s.mem = true) :
    Memory.wf (s.logPush ctx entry).mem = true := by
  unfold State.logPush
  dsimp only
  (repeat' split) <;> simp -implicitDefEqProofs [State.writeNum_wf, h]

@[simp] theorem State.numberKernel_wf {s : State} (ctx k : ℕ) (h : Memory.wf s.mem = true) :
    Memory.wf (s.numberKernel ctx k).mem = true := by
  unfold State.numberKernel
  split <;> simp [h]

@[simp] theorem State.logCommit_wf {s : State} (ctx k crew : ℕ) (digest : DWord) (h : Memory.wf s.mem = true) :
    Memory.wf (s.logCommit ctx k crew digest).mem = true := by
  unfold State.logCommit
  dsimp only
  (repeat' split) <;> simp [State.writeNum_wf, h]

@[simp] theorem State.pushDigests_wf {s : State} (ctx : ℕ) (digests : List (ℕ × DWord)) (h : Memory.wf s.mem = true) :
    Memory.wf (s.pushDigests ctx digests).mem = true := by
  induction digests generalizing s with
  | nil => exact h
  | cons p rest ih => exact ih (State.logPush_wf _ _ (State.logPush_wf _ _ h))

@[simp] theorem State.bindKnum_mem {s : State} (ctx entry : ℕ) : (s.bindKnum ctx entry).mem = s.mem := by
  unfold State.bindKnum
  dsimp only
  (repeat' split) <;> simp -implicitDefEqProofs

@[simp] theorem State.takeKnums_mem {s : State} (ctx fuel : ℕ) : (State.takeKnums ctx fuel s).mem = s.mem := by
  induction fuel generalizing s with
  | zero => rfl
  | succ f ih =>
    have key (p : Prop) [Decidable p] (x : Except ℕ ℕ) (q : ℕ → Prop) [DecidablePred q] :
        (if p then s else
          match x with
          | .ok e => if q e then State.takeKnums ctx f (s.bindKnum ctx e) else s
          | .error c => s.ctxFault ctx c).mem = s.mem := by
      (repeat' split) <;> simp [ih]
    exact key _ _ _

@[simp] theorem State.admitReplay_mem {s : State} (k : ℕ) : (s.admitReplay k).mem = s.mem := by
  simp [State.admitReplay, apply_ite State.mem]

@[simp] theorem State.gateUsed_mem {s : State} (ctx : ℕ) : (s.gateUsed ctx).mem = s.mem := by
  unfold State.gateUsed
  dsimp only
  (repeat' split) <;> simp -implicitDefEqProofs

@[simp] theorem State.divergeOn_mem {s : State} (k idx log : ℕ) : (s.divergeOn k idx log).mem = s.mem := by
  unfold State.divergeOn
  dsimp only
  (repeat' split) <;> simp

@[simp] theorem State.gateFault_mem {s : State} (ctx log : ℕ) : (s.gateFault ctx log).mem = s.mem := by
  unfold State.gateFault
  split <;> simp

theorem State.checkDigest_mem {s t : State} (ctx idx : ℕ) (e : s.checkDigest ctx idx = .ok t) : t.mem = s.mem := by
  unfold State.checkDigest at e
  dsimp only at e
  (repeat' split at e) <;> cases e <;> simp_all [State.gateFault_mem, State.setKern_mem, State.divergeOn_mem, State.late_mem]

theorem State.checkDigests_mem {s t : State} (ctx idx fuel : ℕ) (e : State.checkDigests ctx idx fuel s = .ok t) :
    t.mem = s.mem := by
  induction fuel generalizing s idx with
  | zero => cases e; rfl
  | succ n ih =>
    unfold State.checkDigests at e
    split at e
    · cases e
    · next hd => exact (ih _ e).trans (State.checkDigest_mem _ _ hd)

/-! ### Issue and traps -/

@[simp] theorem State.writeFrame_wf {s : State} (rid : ℕ) (c : Crew) (t' : Trap) (pa : ℕ) (h : Memory.wf s.mem = true) :
    Memory.wf (s.writeFrame rid c t' pa).mem = true := by
  simp [State.writeFrame, State.write_wf, h]

@[simp] theorem State.leaveSets_mem {s : State} (rid : ℕ) : (s.leaveSets rid).mem = s.mem := by rfl

@[simp] theorem State.dropLatch_mem {s : State} (rid : ℕ) : (s.dropLatch rid).mem = s.mem := by rfl

@[simp] theorem State.dropMmaFlags_mem {s : State} (rid : ℕ) : (s.dropMmaFlags rid).mem = s.mem := by rfl

@[simp] theorem State.becomeTrapped_mem {s : State} (rid kind : ℕ) : (s.becomeTrapped rid kind).mem = s.mem := by rfl

@[simp] theorem State.enterTrap_wf {s : State} (rid : ℕ) (t' : Trap) (h : Memory.wf s.mem = true) :
    Memory.wf (s.enterTrap rid t').mem = true := by
  unfold State.enterTrap
  (repeat' split) <;> grind -ring [State.becomeTrapped_mem, State.faultLog_wf, State.makeWritable_wf, State.setCrew_mem,
    State.dropMmaFlags_mem, State.dropLatch_mem, State.writeFrame_wf, State.ctxFault_mem]

@[simp] theorem State.takeTrap_wf {s : State} (rid : ℕ) (t' : Trap) (h : Memory.wf s.mem = true) :
    Memory.wf (s.takeTrap rid t').mem = true := by
  unfold State.takeTrap
  dsimp only
  (repeat' split) <;> simp [h]

@[simp] theorem State.waitFor_mem {s : State} (rid : ℕ) (w : Wait) : (s.waitFor rid w).mem = s.mem := by rfl

@[simp] theorem State.stopAt_wf {s : State} (rid : ℕ) (x : Stop) (h : Memory.wf s.mem = true) :
    Memory.wf (s.stopAt rid x).mem = true := by
  unfold State.stopAt
  dsimp only
  (repeat' split) <;> simp [h]

@[simp] theorem State.fills_mem {s : State} (rid ctx : ℕ) (vas : List ℕ) : (s.fills rid ctx vas).mem = s.mem := by rfl

@[simp] theorem State.spillEntry_wf {s : State} (rid : ℕ) (c : Crew) (e' : Entry) (n : ℕ) (h : Memory.wf s.mem = true) :
    Memory.wf (s.spillEntry rid c e' n).mem = true := by
  unfold State.spillEntry
  dsimp only
  (repeat' split) <;> simp [State.write_wf, h]

@[simp] theorem State.record_wf {s : State} (rid : ℕ) (k : Ctl) (blocks : List ℕ) (st : Stroke) (o : Out)
    (h : Memory.wf s.mem = true) : Memory.wf (s.record rid k blocks st o).mem = true := by
  unfold State.record
  dsimp only
  (repeat' split) <;> simp [h]

@[simp] theorem State.issueOrdinary_wf {s : State} (rid : ℕ) (c : Crew) (k : Ctl) (e' : Enc) (body : Body)
    (h : Memory.wf s.mem = true) : Memory.wf (s.issueOrdinary rid c k e' body).mem = true := by
  unfold State.issueOrdinary
  dsimp only
  (repeat' split) <;> simp [h]

theorem State.issueBounding_wf {s : State} (rid : ℕ) (c : Crew) (k : Ctl) (e' : Enc) {body : BBody}
    (hb : ∀ s rid c, Memory.wf s.mem = true → OkWf (body s rid c)) (h : Memory.wf s.mem = true) :
    Memory.wf (s.issueBounding rid c k e' body).mem = true := by
  unfold State.issueBounding
  split
  · exact State.takeTrap_wf _ _ h
  · dsimp only
    split
    · split
      · simp [h]
      · next ht => exact hb _ _ _ (by simpa using h) _ ht
    · simp [h]

@[simp] theorem State.finish_mem {s : State} (rid : ℕ) (k : Ctl) (c : Crew) (cells : List (ℕ × Word)) :
    (s.finish rid k c cells).mem = s.mem := by rfl

@[simp] theorem State.sleep_mem {s : State} (rid : ℕ) (k : Ctl) (c : Crew) (w : Wait) :
    (s.sleep rid k c w).mem = s.mem := by rfl

@[simp] theorem State.resumeNext_mem {s : State} (rid : ℕ) : (s.resumeNext rid).mem = s.mem := by rfl

/-! ### Registrations and barrier operations -/

@[simp] theorem State.onWindow_mem {s : State} (k idx : ℕ) (f : Window → Window) : (s.onWindow k idx f).mem = s.mem := by
  unfold State.onWindow
  (repeat' split) <;> simp

@[simp] theorem State.waitBegins_mem {s : State} (k idx : ℕ) : (s.waitBegins k idx).mem = s.mem := by
  simp [State.waitBegins]

@[simp] theorem State.waitEnds_mem {s : State} (k idx : ℕ) : (s.waitEnds k idx).mem = s.mem := by
  simp [State.waitEnds]

@[simp] theorem State.retest_wf {s : State} (pa o rid : ℕ) (c : Crew) (h : Memory.wf s.mem = true) :
    Memory.wf (s.retest pa o rid c).mem = true := by
  unfold State.retest
  (repeat' split) <;> simp [h]

@[simp] theorem State.recount_mem {s : State} (q : ℕ) : (s.recount q).mem = s.mem := by
  simp -implicitDefEqProofs [State.recount]

@[simp] theorem State.judgeDeps_mem {s : State} (pa o k : ℕ) : (s.judgeDeps pa o k).mem = s.mem := by
  simp [State.judgeDeps, apply_ite State.mem]

@[simp] theorem State.touch_wf {s : State} (pa : ℕ) (h : Memory.wf s.mem = true) : Memory.wf (s.touch pa).mem = true := by
  unfold State.touch
  simp +contextual [State.foldl_wf, h]

theorem State.barPerform_wf {s t : State} (pa : ℕ) (op : BarOp) (h : Memory.wf s.mem = true) (e : s.barPerform pa op = .ok t) :
    Memory.wf t.mem = true := by
  unfold State.barPerform at e
  (repeat' split at e) <;> cases e <;> simp_all [State.touch_wf, State.writeNum_wf]

@[simp] theorem State.holdBar_mem {s : State} (h' : HeldBar) : (s.holdBar h').mem = s.mem := by rfl

theorem State.barWrite_wf {s t : State} (ctx va pa : ℕ) (op : BarOp) (h : Memory.wf s.mem = true)
    (e : s.barWrite ctx va pa op = .ok t) : Memory.wf t.mem = true := by
  unfold State.barWrite at e
  (repeat' split at e) <;> grind -ring [State.holdBar_mem, State.barPerform_wf]

@[simp] theorem State.orphanNow_wf {s : State} (pa : ℕ) (h : Memory.wf s.mem = true) :
    Memory.wf (s.orphanNow pa).mem = true := by
  unfold State.orphanNow
  dsimp only
  (repeat' split) <;> simp [State.writeNum_wf, h]

@[simp] theorem State.orphan_wf {s : State} (r : Regn) (h : Memory.wf s.mem = true) : Memory.wf (s.orphan r).mem = true := by
  unfold State.orphan
  split <;> simp [h]

@[simp] theorem State.performBars_wf {s : State} (free : HeldBar → Bool) (h : Memory.wf s.mem = true) :
    Memory.wf (s.performBars free).mem = true := by
  unfold State.performBars
  grind -ring [State.barPerform_wf, State.orphanNow_wf, State.foldl_mem, State.foldl_wf]

@[simp] theorem State.serveBars_wf {s : State} (ctx : ℕ) (h : Memory.wf s.mem = true) :
    Memory.wf (s.serveBars ctx).mem = true := by
  simp [State.serveBars, h]

@[simp] theorem State.regEnded_wf {s : State} (r : Regn) (h : Memory.wf s.mem = true) :
    Memory.wf (s.regEnded r).mem = true := by
  unfold State.regEnded
  dsimp only
  (repeat' split) <;> simp [h]

@[simp] theorem State.endRegn_wf {s : State} (r : Regn) (h : Memory.wf s.mem = true) : Memory.wf (s.endRegn r).mem = true := by
  unfold State.endRegn
  split <;> simp [h]

@[simp] theorem State.endRegns_wf {s : State} (rs : List Regn) (h : Memory.wf s.mem = true) :
    Memory.wf (s.endRegns rs).mem = true := by
  unfold State.endRegns
  simp +contextual [State.foldl_wf, h]

@[simp] theorem State.endCrewRegns_wf {s : State} (k idx : ℕ) (h : Memory.wf s.mem = true) :
    Memory.wf (s.endCrewRegns k idx).mem = true := by
  unfold State.endCrewRegns
  refine State.foldl_wf (fun t p ht => ?_) _ h
  (repeat' split) <;> simp [ht]

@[simp] theorem State.register_mem {s : State} (r : Regn) : (s.register r).mem = s.mem := by
  simp [State.register, apply_ite State.mem]

/-! ### The commit of a stroke -/

@[simp] theorem State.raiseBinds_wf {s : State} (eng : Bool) (k idx n : ℕ) (binds : List (ℕ × ℕ)) (h : Memory.wf s.mem = true) :
    Memory.wf (State.raiseBinds eng k idx n binds s).mem = true := by
  induction binds generalizing s with
  | nil => exact h
  | cons p rest ih =>
    unfold State.raiseBinds
    dsimp only
    refine ih ?_
    have hw : ∀ t : State, Memory.wf t.mem = true → ∀ l : List Regn, Memory.wf (l.foldl State.endRegn t).mem = true :=
      fun t ht l => State.foldl_wf (fun _ r hs => State.endRegn_wf r hs) l ht
    grind -ring [State.barWrite_wf]

@[simp] theorem State.advance_wf {s : State} (eng : Bool) (k idx : ℕ) (h : Memory.wf s.mem = true) :
    Memory.wf (s.advance eng k idx).mem = true := by
  simp [State.advance, h]

@[simp] theorem State.dropRed_mem {s : State} (r : Red) : (s.dropRed r).mem = s.mem := by
  simp [State.dropRed, apply_ite State.mem]

@[simp] theorem State.issueRed_mem {s : State} (r : Red) : (s.issueRed r).mem = s.mem := by
  simp [State.issueRed, apply_ite State.mem]

@[simp] theorem Committer.late_mem {s : State} (m : Committer) (kind aux addr : ℕ) :
    (Committer.late m s kind aux addr).mem = s.mem := by rfl

@[simp] theorem Committer.put_wf {s : State} (m : Committer) (g : DWord) (va pa : ℕ) (bs : List Byte) (memside : Bool)
    (h : Memory.wf s.mem = true) : Memory.wf (Committer.put m s g va pa bs memside).1.mem = true := by
  unfold Committer.put
  split <;> simp [State.write_wf, h]

@[simp] theorem Committer.mem_wf {s : State} (m : Committer) (g : DWord) (eff : Eff) (h : Memory.wf s.mem = true) :
    Memory.wf (Committer.mem m s g eff).1.mem = true := by
  unfold Committer.mem
  split <;> simp [h]

@[simp] theorem Committer.bar_wf {s : State} (m : Committer) (eff : Eff) (h : Memory.wf s.mem = true) :
    Memory.wf (Committer.bar m s eff).mem = true := by
  cases eff with
  | bar va pa op keep =>
    unfold Committer.bar
    grind -ring [Committer.late_mem, State.barPerform_wf, State.register_mem, State.foldl_mem]
  | store | red | sumred | trace | mfence => exact h

@[simp] theorem Committer.mark_wf {s : State} (m : Committer) (eff : Eff) (h : Memory.wf s.mem = true) :
    Memory.wf (Committer.mark m s eff).mem = true := by
  unfold Committer.mark
  split <;> simp [h]

@[simp] theorem Committer.apply_wf {s : State} (m : Committer) (g : DWord) (effs : List Eff) (h : Memory.wf s.mem = true) :
    Memory.wf (Committer.apply m s g effs).1.mem = true := by
  have hm : ∀ (l : List Eff) (r : State × DWord), Memory.wf r.1.mem = true →
      Memory.wf (l.foldl (fun r e => m.mem r.1 r.2 e) r).1.mem = true := by
    intro l
    induction l with
    | nil => exact fun _ hr => hr
    | cons x l ih => exact fun r hr => ih _ (Committer.mem_wf m r.2 x hr)
  exact State.foldl_wf (fun _ x hs => Committer.mark_wf m x hs) _
    (State.foldl_wf (fun _ x hs => Committer.bar_wf m x hs) _ (hm _ _ h))

@[simp] theorem State.committed_mem {s : State} (rid : ℕ) (st : Stroke) : (s.committed rid st).mem = s.mem := by
  unfold State.committed
  dsimp only
  (repeat' split) <;> simp

@[simp] theorem State.commitSeq_wf {s : State} (rid : ℕ) (c : Crew) (st : Stroke) (use : Bool) (h : Memory.wf s.mem = true) :
    Memory.wf (s.commitSeq rid c st use).mem = true := by
  unfold State.commitSeq
  (repeat' split) <;> grind -ring [Committer.apply_wf, State.setCrew_mem, State.setKern_mem, State.advance_wf,
    State.logCommit_wf, State.setLog_mem, State.gateUsed_mem, State.broadcast_mem, State.committed_mem]

/-! ### Strokes in their turn -/

@[simp] theorem State.arriveGate_mem {s : State} (rid : ℕ) : (s.arriveGate rid).mem = s.mem := by rfl

@[simp] theorem State.gateStops_mem {s : State} (rid ctx : ℕ) (g : GateSays) : (s.gateStops rid ctx g).mem = s.mem := by
  unfold State.gateStops
  split <;> simp

@[simp] theorem State.tryCommit_wf {s : State} (rid : ℕ) (c : Crew) (st : Stroke) (use : Bool) (h : Memory.wf s.mem = true) :
    Memory.wf (s.tryCommit rid c st use).mem = true := by
  -- the copies of the log's pages and the log's answer are variables here, so that no check of the case split runs them
  obtain ⟨ready, hr⟩ : ∃ ready, ready = State.logReady := ⟨_, rfl⟩
  obtain ⟨refuses, hf⟩ : ∃ refuses, refuses = State.logRefuses := ⟨_, rfl⟩
  have hw (t : State) (ctx i n : ℕ) (ht : Memory.wf t.mem = true) : Memory.wf (ready t ctx i n).mem = true := by
    rw [hr]
    exact State.logReady_wf _ _ _ ht
  rw [State.tryCommit, ← hr, ← hf]
  dsimp only
  split
  · exact h
  · split
    · split
      · rw [State.ctxFault_mem]
        (repeat' split) <;> simp [h, hw]
      · refine State.commitSeq_wf _ _ _ _ ?_
        split <;> simp [h, hw]
    · exact State.commitSeq_wf _ _ _ _ h

@[simp] theorem State.startHeld_mem {s : State} (rid : ℕ) (c : Crew) (set : List ℕ) : (s.startHeld rid c set).mem = s.mem := by
  simp [State.startHeld, apply_ite State.mem]

@[simp] theorem State.mwaitCheck_mem {s : State} (rid : ℕ) (c : Crew) : (s.mwaitCheck rid c).mem = s.mem := by
  unfold State.mwaitCheck
  (repeat' split) <;> simp

/-! ### Sum regions -/

@[simp] theorem State.setRegion_mem {s : State} (n v : ℕ) : (s.setRegion n v).mem = s.mem := by rfl

@[simp] theorem State.redsChanged_mem {s : State} : s.redsChanged.mem = s.mem := by
  unfold State.redsChanged
  refine State.foldl_mem (fun t p => ?_) _ _
  (repeat' split) <;> simp

@[simp] theorem State.mmaDone_mem {s : State} (id : ℕ) : (s.mmaDone id).mem = s.mem := by
  unfold State.mmaDone
  dsimp only
  (repeat' split) <;> simp

@[simp] theorem State.redsGone_mem {s : State} (gone : List Red) : (s.redsGone gone).mem = s.mem := by
  unfold State.redsGone
  grind -ring [State.mmaDone_mem, State.post_mem, State.redsChanged_mem, State.foldl_mem, State.foldl_wf]

@[simp] theorem State.poison_mem {s : State} (l : ℕ) : (s.poison l).mem = s.mem := by
  simp [State.poison, apply_ite State.mem]

@[simp] theorem State.squashSums_mem {s : State} (ctx base lines : ℕ) : (s.squashSums ctx base lines).mem = s.mem := by
  unfold State.squashSums
  refine State.foldl_mem (fun t p => ?_) _ _
  (repeat' split) <;> simp

@[simp] theorem clearLane_wf (op : SumRdOp) (d : Reg) (c : Crew) (r : State × List (ℕ × Word)) (p : ℕ × ℕ)
    (h : Memory.wf r.1.mem = true) : Memory.wf (clearLane op d c r p).1.mem = true :=
  State.writeNum_wf _ _ _ h

@[simp] theorem State.zeroLine_wf {s : State} (pa : ℕ) (h : Memory.wf s.mem = true) : Memory.wf (s.zeroLine pa).mem = true := by
  simp [State.zeroLine, State.writeNum_wf, h]

@[simp] theorem State.drainLine_wf {s : State} (rid : ℕ) (c : Crew) (clr : Bool) (src dst : ℕ × ℕ)
    (h : Memory.wf s.mem = true) : Memory.wf (s.drainLine rid c clr src dst).mem = true := by
  unfold State.drainLine
  (repeat' split) <;> simp +contextual [State.foldl_wf, State.writeNum_wf, h]

/-! ### Allowances -/

@[simp] theorem State.onBayKernel_mem {s : State} (b k : ℕ) (f : BayKernel → BayKernel) :
    (s.onBayKernel b k f).mem = s.mem := by rfl

@[simp] theorem State.askRaise_mem {s : State} (b k : ℕ) (who : RaiseFor) : (s.askRaise b k who).mem = s.mem := by
  simp [State.askRaise, apply_ite State.mem]

@[simp] theorem State.askForCmd_mem {s : State} (id : ℕ) : (s.askForCmd id).mem = s.mem := by
  unfold State.askForCmd
  (repeat' split) <;> simp

/-! ### Barriers and engine commands -/

@[simp] theorem State.windowCopy_mem {s : State} (c : Crew) : (s.windowCopy c).2.mem = s.mem := by
  unfold State.windowCopy
  (repeat' split) <;> simp

@[simp] theorem State.release_mem {s : State} (rid : ℕ) (c : Crew) (kind : CmdKind) (desc : ℕ) (bar : Option (ℕ × ℕ))
    (ready : Option ℕ) (big : Bool) (window : Option (ℕ × Bool)) :
    (s.release rid c kind desc bar ready big window).mem = s.mem := by
  unfold State.release
  split <;> simp

theorem State.issueCmd_mem {s t : State} (rid : ℕ) (k : Ctl) (c : Crew) (kind : CmdKind) (desc : ℕ) (bar : Option (ℕ × ℕ))
    (ready : Option ℕ) (bytes : ℕ) (e : s.issueCmd rid k c kind desc bar ready bytes = .ok t) : t.mem = s.mem := by
  unfold State.issueCmd at e
  dsimp only at e
  (repeat' split at e) <;> cases e <;> simp

@[simp] theorem State.closeWindow_mem {s : State} (k idx bay : ℕ) (early : Bool) :
    (s.closeWindow k idx bay early).mem = s.mem := by
  simp [State.closeWindow]

/-! ### Comparators -/

@[simp] theorem State.setCmp_mem {s : State} (n v : ℕ) : (s.setCmp n v).mem = s.mem := by rfl

/-! ### Stamps and comparators -/

@[simp] theorem State.mapWindow_mem {s : State} (k idx seq : ℕ) (f : Window → Window) :
    (s.mapWindow k idx seq f).mem = s.mem := by rfl

@[simp] theorem State.writeStamps_wf {s : State} (k idx : ℕ) (h : Memory.wf s.mem = true) :
    Memory.wf (s.writeStamps k idx).mem = true := by
  unfold State.writeStamps
  dsimp only
  (repeat' split) <;> simp +contextual [State.foldl_wf, h]

/-! ### The fault queue, stashes and leaves -/

@[simp] theorem State.reply_mem {s : State} (p : Pkt) (st : PeerStatus) : (s.reply p st).mem = s.mem := by rfl

@[simp] theorem State.peerDone_mem {s : State} (p : Pkt) (st : PeerStatus) : (s.peerDone p st).mem = s.mem := by rfl

@[simp] theorem State.deviceArrive_wf {s : State} (ctx f : ℕ) (h : Memory.wf s.mem = true) :
    Memory.wf (s.deviceArrive ctx f).mem = true := by
  unfold State.deviceArrive
  grind -ring [State.barWrite_wf, State.ctxFault_mem]

@[simp] theorem State.mapPeerIn_mem {s : State} (n : ℕ) (f : PeerIn → PeerIn) : (s.mapPeerIn n f).mem = s.mem := by rfl

@[simp] theorem State.waitIn_mem {s : State} (who : Waiter) (w : Wait) : (s.waitIn who w).mem = s.mem := by
  unfold State.waitIn
  split <;> simp

theorem State.fqPut_wf {s t : State} (w : FqWait) (h : Memory.wf s.mem = true) (e : s.fqPut w = .some t) :
    Memory.wf t.mem = true := by
  unfold State.fqPut at e
  dsimp only at e
  (repeat' split at e) <;> cases e <;> simp_all [State.waitIn_mem, State.faultLog_wf, State.deviceArrive_wf]

@[simp] theorem State.fqJoin_wf {s : State} (w : FqWait) (h : Memory.wf s.mem = true) : Memory.wf (s.fqJoin w).mem = true := by
  unfold State.fqJoin
  (repeat' split) <;> grind -ring [State.fqPut_wf, State.waitIn_mem]

@[simp] theorem State.fqServe_wf {s : State} (die fuel : ℕ) (h : Memory.wf s.mem = true) :
    Memory.wf (State.fqServe die fuel s).mem = true := by
  induction fuel generalizing s with
  | zero => exact h
  | succ f ih =>
    unfold State.fqServe
    split
    · exact h
    · split
      · next t hp =>
        have ht := State.fqPut_wf _ h hp
        exact ih (by simpa using ht)
      · exact h

@[simp] theorem State.reissue_mem {s : State} (who : Waiter) : (s.reissue who).mem = s.mem := by
  unfold State.reissue
  (repeat' split) <;> simp

@[simp] theorem State.fqAbandon_mem {s : State} (who : Waiter) : (s.fqAbandon who).mem = s.mem := by rfl

@[simp] theorem State.postCopy_mem {s : State} (ctx va copy : ℕ) : (s.postCopy ctx va copy).mem = s.mem := by rfl

@[simp] theorem State.meetFault_wf {s : State} (who : Waiter) (die ctx kernel crew bay pc : ℕ) (q : QFault)
    (h : Memory.wf s.mem = true) : Memory.wf (s.meetFault who die ctx kernel crew bay pc q).mem = true := by
  unfold State.meetFault
  split <;> simp [h]

@[simp] theorem State.joinExhausted_wf {s : State} (who : Waiter) (h : Memory.wf s.mem = true) :
    Memory.wf (s.joinExhausted who).mem = true := by
  unfold State.joinExhausted
  (repeat' split) <;> simp [h]

@[simp] theorem State.squashWriters_mem {s : State} (ctx : ℕ) (pages : ℕ → Bool) : (s.squashWriters ctx pages).mem = s.mem := by
  unfold State.squashWriters
  refine State.foldl_mem (fun t p => ?_) _ _
  (repeat' split) <;> simp

@[simp] theorem State.countInc_mem {s : State} (ctx pa : ℕ) : (s.countInc ctx pa).mem = s.mem := by
  simp [State.countInc]

@[simp] theorem State.setStash_mem {s : State} (b : ℕ) (f : List StashMap → List StashMap) :
    (s.setStash b f).mem = s.mem := by rfl

@[simp] theorem State.trimCast_mem {s : State} (b : ℕ) : (s.trimCast b).mem = s.mem := by rfl

@[simp] theorem State.unbind_mem {s : State} (b : ℕ) (sel : StashMap → Bool) : (s.unbind b sel).mem = s.mem := by rfl

@[simp] theorem State.markLeaves_wf {s : State} (ctx : ℕ) (l : List Leaf) (h : Memory.wf s.mem = true) :
    Memory.wf (s.markLeaves ctx l).mem = true := by
  unfold State.markLeaves
  simp +contextual [State.foldl_wf, State.writeNum_wf, h]

@[simp] theorem State.clearLeaves_wf {s : State} (ctx : ℕ) (l : List Leaf) (h : Memory.wf s.mem = true) :
    Memory.wf (s.clearLeaves ctx l).mem = true := by
  unfold State.clearLeaves
  refine State.foldl_wf (fun t p ht => ?_) _ h
  (repeat' split) <;> simp [ht, State.writeNum_wf]

@[simp] theorem State.cutLeaves_wf {s : State} (ctx : ℕ) (l : List Leaf) (h : Memory.wf s.mem = true) :
    Memory.wf (s.cutLeaves ctx l).mem = true := by
  simp [State.cutLeaves, h]

/-! ### Pages -/

@[simp] theorem State.answer_mem {s : State} (rid : ℕ) (k : Ctl) (c : Crew) (d : Reg) (st : ℕ) :
    (s.answer rid k c d st).mem = s.mem := by rfl

@[simp] theorem State.freeEntry_wf {s : State} (e' : FqEntry) (h : Memory.wf s.mem = true) :
    Memory.wf (s.freeEntry e').mem = true := by
  simp [State.freeEntry, h]

@[simp] theorem State.abortCmd_mem {s : State} (id kind aux addr : ℕ) : (s.abortCmd id kind aux addr).mem = s.mem := by
  unfold State.abortCmd
  (repeat' split) <;> simp

@[simp] theorem State.failWaiter_wf {s : State} (kind : ℕ) (who : Waiter) (h : Memory.wf s.mem = true) :
    Memory.wf (State.failWaiter kind s who).mem = true := by
  unfold State.failWaiter
  (repeat' split) <;> simp [h]

@[simp] theorem State.bindStash_mem {s : State} (b ctx k n va pa : ℕ) (w : Bool) :
    (s.bindStash b ctx k n va pa w).mem = s.mem := by
  simp [State.bindStash, apply_ite State.mem]

/-! ### Engine work -/

@[simp] theorem State.pauseAt_wf {s : State} (m : Cmd) (kind copy va : ℕ) (write : Bool) (h : Memory.wf s.mem = true) :
    Memory.wf (s.pauseAt m kind copy va write).mem = true := by
  simp [State.pauseAt, h]

theorem State.need_wf {s t : State} (m : Cmd) (va n : ℕ) (need : Need) (h : Memory.wf s.mem = true)
    (e : s.need m va n need = .error t) : Memory.wf t.mem = true := by
  unfold State.need at e
  (repeat' split at e) <;> cases e <;> simp_all [State.pauseAt_wf, State.ctxFault_mem]

@[simp] theorem State.moveBytes_wf {s : State} (from_ to_ : List (ℕ × Hit × ℕ)) (src dst n : ℕ) (h : Memory.wf s.mem = true) :
    Memory.wf (s.moveBytes from_ to_ src dst n).mem = true := by
  unfold State.moveBytes
  refine State.foldl_wf (fun t p ht => ?_) _ h
  dsimp only
  (repeat' split) <;> simp [ht, State.write_wf]

@[simp] theorem State.latePoison_mem {s : State} (m : Cmd) (vas : List ℕ) : (s.latePoison m vas).mem = s.mem := by
  simp [State.latePoison]

@[simp] theorem State.castLines_mem {s : State} (m : Cmd) (l : List (ℕ × Hit × ℕ)) : (s.castLines m l).mem = s.mem := by
  unfold State.castLines
  simp +contextual -implicitDefEqProofs

@[simp] theorem State.castServed_mem {s : State} (m : Cmd) : (s.castServed m).mem = s.mem := by rfl

theorem State.perform_wf {s t : State} (m : Cmd) (x0 : Work) (h : Memory.wf s.mem = true)
    (e : s.perform m x0 = .ok t ∨ s.perform m x0 = .error t) : Memory.wf t.mem = true := by
  cases x0 with
  | skip n => grind -ring [State.perform]
  | bad aux addr n => grind -ring [State.perform, State.late_mem]
  | move src dst n =>
    cases src <;> grind -ring [State.perform, State.need_wf, State.writePieces_wf, State.moveBytes_wf, State.castLines_mem,
      State.castServed_mem, State.latePoison_mem]

@[simp] theorem State.cmdOp_wf {s : State} (m : Cmd) (pa : ℕ) (op : BarOp) (h : Memory.wf s.mem = true) :
    Memory.wf (s.cmdOp m pa op).mem = true := by
  unfold State.cmdOp
  (repeat' split) <;> grind -ring [State.barWrite_wf, State.late_mem, State.mapCmd_mem]

@[simp] theorem State.windowLand_mem {s : State} (m : Cmd) : (s.windowLand m).mem = s.mem := by
  unfold State.windowLand
  split <;> simp

@[simp] theorem State.landCmd_wf {s : State} (m : Cmd) (n : ℕ) (h : Memory.wf s.mem = true) :
    Memory.wf (s.landCmd m n).mem = true := by
  unfold State.landCmd
  split <;> simp [h]

@[simp] theorem State.leaveBay_mem {s : State} (b k : ℕ) : (s.leaveBay b k).mem = s.mem := by rfl

@[simp] theorem State.tidy_mem {s : State} (k : ℕ) : (s.tidy k).mem = s.mem := by
  simp [State.tidy, apply_ite State.mem]

@[simp] theorem State.freeEngineWait_mem {s : State} (k idx : ℕ) : (s.freeEngineWait k idx).mem = s.mem := by rfl

@[simp] theorem State.endCmd_wf {s : State} (m : Cmd) (h : Memory.wf s.mem = true) : Memory.wf (s.endCmd m).mem = true := by
  unfold State.endCmd
  (repeat' split) <;> simp [h]

@[simp] theorem State.endFill_wf {s : State} (m : Cmd) (lines : ℕ) (h : Memory.wf s.mem = true) :
    Memory.wf (s.endFill m lines).mem = true := by
  simp [State.endFill, h]

@[simp] theorem State.setSlot_mem {s : State} (b k n : ℕ) (v : CodeSlot) : (s.setSlot b k n v).mem = s.mem := by rfl

@[simp] theorem State.abortFill_wf {s : State} (b k n : ℕ) (h : Memory.wf s.mem = true) :
    Memory.wf (s.abortFill b k n).mem = true := by
  unfold State.abortFill
  (repeat' split) <;> simp [h]

/-! ### Messages to the host -/

@[simp] theorem State.emit_mem {s : State} (m : OutMsg) : (s.emit m).mem = s.mem := by rfl

@[simp] theorem State.sendSeq_mem {s : State} (typ ctx : ℕ) (body : List Byte) : (s.sendSeq typ ctx body).mem = s.mem := by rfl

@[simp] theorem State.sendOrWait_mem {s : State} (typ ctx : ℕ) (body : List Byte) :
    (s.sendOrWait typ ctx body).mem = s.mem := by
  simp [State.sendOrWait, apply_ite State.mem]

@[simp] theorem State.sendPlain_mem {s : State} (typ ctx : ℕ) (body : List Byte) :
    (s.sendPlain typ ctx body).mem = s.mem := by rfl

@[simp] theorem State.complete_mem {s : State} (ctx echo kind status handle value value2 : ℕ) :
    (s.complete ctx echo kind status handle value value2).mem = s.mem := by
  simp [State.complete]

@[simp] theorem State.faultMessage_mem {s : State} (ctx cause : ℕ) : (s.faultMessage ctx cause).mem = s.mem := by
  simp [State.faultMessage]

/-! ### Kernels -/

@[simp] theorem State.setKState_mem {s : State} (k : ℕ) (x : KState) : (s.setKState k x).mem = s.mem := by
  simp -implicitDefEqProofs [State.setKState]

@[simp] theorem State.returnUnits_mem {s : State} (d n : ℕ) : (s.returnUnits d n).mem = s.mem := by rfl

@[simp] theorem State.releaseUnits_mem {s : State} (k : ℕ) : (s.releaseUnits k).mem = s.mem := by
  simp -implicitDefEqProofs [State.releaseUnits]

@[simp] theorem State.withdraw_mem {s : State} (k : ℕ) : (s.withdraw k).mem = s.mem := by
  simp -implicitDefEqProofs [State.withdraw, apply_ite State.mem]

@[simp] theorem State.judgeFit_wf {s : State} (k : ℕ) (h : Memory.wf s.mem = true) : Memory.wf (s.judgeFit k).mem = true := by
  unfold State.judgeFit
  dsimp only
  (repeat' split) <;> simp [h]

@[simp] theorem State.readyKernel_wf {s : State} (k : ℕ) (h : Memory.wf s.mem = true) :
    Memory.wf (s.readyKernel k).mem = true := by
  simp [State.readyKernel, h]

@[simp] theorem State.judgeKernel_wf {s : State} (k : ℕ) (h : Memory.wf s.mem = true) :
    Memory.wf (s.judgeKernel k).mem = true := by
  unfold State.judgeKernel
  dsimp only
  (repeat' split) <;> simp [h]

@[simp] theorem State.postKernel_mem {s : State} (k q launch : ℕ) (deps : List Dep) :
    (s.postKernel k q launch deps).mem = s.mem := by
  simp -implicitDefEqProofs [State.postKernel]

@[simp] theorem State.killCrew_mem {s : State} (rid : ℕ) : (s.killCrew rid).mem = s.mem := by
  unfold State.killCrew
  dsimp only
  (repeat' split) <;> simp

@[simp] theorem State.abortCmds_mem {s : State} (sel : Cmd → Bool) : (s.abortCmds sel).mem = s.mem := by
  unfold State.abortCmds
  simp +contextual -implicitDefEqProofs

@[simp] theorem State.killKernel_mem {s : State} (k cause : ℕ) : (s.killKernel k cause).mem = s.mem := by
  simp [State.killKernel]

@[simp] theorem State.sendStops_mem {s : State} : s.sendStops.mem = s.mem := by
  simp [State.sendStops, apply_ite State.mem]

@[simp] theorem State.stopKernels_mem {s : State} (l : List ℕ) (who : StopBy) : (s.stopKernels l who).mem = s.mem := by
  simp [State.stopKernels]

@[simp] theorem State.startStop_mem {s : State} (k : ℕ) (who : StopBy) : (s.startStop k who).mem = s.mem := by
  simp [State.startStop]

@[simp] theorem State.settleKeeps_wf {s : State} (k : ℕ) (h : Memory.wf s.mem = true) :
    Memory.wf (s.settleKeeps k).mem = true := by
  unfold State.settleKeeps
  grind -ring [State.writeStamps_wf, State.advance_wf, State.foldl_mem, State.foldl_wf]

@[simp] theorem State.dropRaises_mem {s : State} (k : ℕ) : (s.dropRaises k).mem = s.mem := by
  simp [State.dropRaises]

@[simp] theorem State.leaveBays_mem {s : State} (k : ℕ) : (s.leaveBays k).mem = s.mem := by
  simp [State.leaveBays]

@[simp] theorem State.retire_wf {s : State} (k cause : ℕ) (h : Memory.wf s.mem = true) :
    Memory.wf (s.retire k cause).mem = true := by
  unfold State.retire
  grind -ring [State.leaveBays_mem, State.releaseUnits_mem, State.withdraw_mem, State.settleKeeps_wf,
    State.endRegns_wf, State.setFld_mem, State.complete_mem, State.setKState_mem, State.setKern_mem, State.post_mem,
    State.kick_mem, State.sendStops_mem, State.foldl_mem, State.foldl_wf]

@[simp] theorem State.tryRetire_wf {s : State} (k : ℕ) (h : Memory.wf s.mem = true) : Memory.wf (s.tryRetire k).mem = true := by
  unfold State.tryRetire
  split <;> simp [h]

/-! ### The choice of a kernel -/

@[simp] theorem State.refreshCandidates_mem {s : State} : s.refreshCandidates.mem = s.mem := by rfl

@[simp] theorem State.admitKernel_mem {s : State} (k : ℕ) : (s.admitKernel k).mem = s.mem := by
  simp [State.admitKernel]

@[simp] theorem State.choose_mem {s : State} (k : ℕ) (plan : List ℕ) : (s.choose k plan).mem = s.mem := by
  simp [State.choose, apply_ite State.mem]

@[simp] theorem State.tryAll_mem {s : State} (ks : List ℕ) : (State.tryAll ks s).mem = s.mem := by
  induction ks generalizing s with
  | nil => rfl
  | cons k rest ih =>
    unfold State.tryAll
    dsimp only
    (repeat' split) <;> simp [ih]

/-! ### Placing crews -/

@[simp] theorem State.faultKernel_wf {s : State} (k kind bay addr aux : ℕ) (h : Memory.wf s.mem = true) :
    Memory.wf (s.faultKernel k kind bay addr aux).mem = true := by
  unfold State.faultKernel
  split <;> simp [h]

@[simp] theorem State.evict_mem {s : State} (b k : ℕ) : (s.evict b k).mem = s.mem := by rfl

@[simp] theorem State.enterBay_mem {s : State} (b k : ℕ) (map : Option (List ℕ)) : (s.enterBay b k map).mem = s.mem := by
  unfold State.enterBay
  dsimp only
  (repeat' split) <;> simp

@[simp] theorem State.unpause_mem {s : State} (k idx b : ℕ) : (s.unpause k idx b).mem = s.mem := by
  simp [State.unpause]

@[simp] theorem State.seat_mem {s : State} (k idx b d slot : ℕ) (c : Crew) : (s.seat k idx b d slot c).mem = s.mem := by
  simp [State.seat, apply_ite State.mem]

theorem State.placeOn_mem {s t : State} (k b d : ℕ) (e : s.placeOn k b d = .some t) : t.mem = s.mem := by
  unfold State.placeOn at e
  dsimp only at e
  (repeat' split at e) <;> cases e <;> simp_all [State.seat_mem, State.enterBay_mem, State.ctxFault_mem]

theorem State.placeFirst_mem {s t : State} (k : ℕ) (binds : List (ℕ × ℕ)) (e : s.placeFirst k binds = .some t) :
    t.mem = s.mem := by
  induction binds with
  | nil => cases e
  | cons p rest ih =>
    unfold State.placeFirst at e
    split at e
    · next hp => cases e; exact State.placeOn_mem _ _ _ hp
    · exact ih e

theorem State.placeAll_mem {s t : State} (k fuel : ℕ) (e : State.placeAll k fuel s = .some t) : t.mem = s.mem := by
  induction fuel generalizing s with
  | zero => grind -ring [State.placeAll]
  | succ f ih => grind -ring [State.placeAll, State.placeFirst_mem]

@[simp] theorem State.fillSlot_wf {s : State} (b k n va lines : ℕ) (h : Memory.wf s.mem = true) :
    Memory.wf (s.fillSlot b k n va lines).mem = true := by
  unfold State.fillSlot
  split <;> simp [h]

/-! ### Stopping and saving crews -/

@[simp] theorem State.stopMma_mem {s : State} (rid : ℕ) : (s.stopMma rid).mem = s.mem := by
  unfold State.stopMma
  dsimp only
  (repeat' split) <;> simp

@[simp] theorem State.stopCrew_mem {s : State} (rid : ℕ) : (s.stopCrew rid).mem = s.mem := by
  unfold State.stopCrew
  dsimp only
  (repeat' split) <;> simp

@[simp] theorem State.unseat_mem {s : State} (rid : ℕ) : (s.unseat rid).mem = s.mem := by rfl

@[simp] theorem State.saveCrew_wf {s : State} (rid slot : ℕ) (c : Crew) (h : Memory.wf s.mem = true) :
    Memory.wf (s.saveCrew rid slot c).mem = true := by
  unfold State.saveCrew
  grind -ring [State.makeWritable_wf, State.writePieces_wf, State.faultLog_wf, State.ctxFault_mem,
    State.unseat_mem, State.setKern_mem, State.post_mem, State.kick_mem, State.tidy_mem, State.foldl_mem, State.foldl_wf]

/-! ### Trees: nodes, leaves and trunks -/

@[simp] theorem State.putNodes_wf {s : State} (tp : ℕ) (old new : List ℕ) (h : Memory.wf s.mem = true) :
    Memory.wf (s.putNodes tp old new).mem = true := by
  unfold State.putNodes
  refine State.foldl_wf (fun t p ht => ?_) _ h
  (repeat' split) <;> simp [ht, State.writeNum_wf]

@[simp] theorem State.liveMore_mem {s : State} (slot n : ℕ) : (s.liveMore slot n).mem = s.mem := by
  simp -implicitDefEqProofs [State.liveMore]

@[simp] theorem State.liveLess_mem {s : State} (slot n : ℕ) : (s.liveLess slot n).mem = s.mem := by
  simp -implicitDefEqProofs [State.liveLess]

@[simp] theorem State.setLeaf_wf {s : State} (ctx va ea page : ℕ) (h : Memory.wf s.mem = true) :
    Memory.wf (s.setLeaf ctx va ea page).mem = true := by
  simp [State.setLeaf, State.writeNum_wf, h]

theorem State.mapNew_wf {s t : State} (ctx va page lane : ℕ) (h : Memory.wf s.mem = true)
    (e : s.mapNew ctx va page lane = .ok t) : Memory.wf t.mem = true := by
  unfold State.mapNew at e
  (repeat' split at e) <;> cases e <;> simp_all [State.setRcd_mem, State.setLeaf_wf]

theorem State.mapShared_wf {s t : State} (ctx va page lane : ℕ) (h : Memory.wf s.mem = true)
    (e : s.mapShared ctx va page lane = .ok t) : Memory.wf t.mem = true := by
  unfold State.mapShared at e
  (repeat' split at e) <;> cases e <;> simp_all [State.countInc_mem, State.setLeaf_wf]

theorem State.unmapLeaf_wf {s t : State} (ctx va : ℕ) (h : Memory.wf s.mem = true) (e : s.unmapLeaf ctx va = .ok t) :
    Memory.wf t.mem = true := by
  unfold State.unmapLeaf at e
  (repeat' split at e) <;> cases e <;> simp_all [State.countDec_mem, State.tlbDrop_mem, State.writeNum_wf]

theorem State.unmapAll_wf {s t : State} (ctx : ℕ) (vas : List ℕ) (h : Memory.wf s.mem = true) (e : s.unmapAll ctx vas = .ok t) :
    Memory.wf t.mem = true := by
  induction vas generalizing s with
  | nil => cases e; exact h
  | cons va vas ih =>
    simp only [State.unmapAll, List.foldlM_cons] at e ih
    cases hu : s.unmapLeaf ctx va with
    | error x => simp [hu, bind, Except.bind] at e
    | ok s' => exact ih (State.unmapLeaf_wf _ _ h hu) (by simpa [hu, bind, Except.bind] using e)

theorem State.treeSupply_mem {s : State} (ctx n va lane : ℕ) {r} (e : s.treeSupply ctx n va lane = .ok r) :
    r.2.mem = s.mem := by
  unfold State.treeSupply at e
  (repeat' split at e) <;> cases e <;> grind -ring [State.supply_mem]

@[simp] theorem State.doom_mem {s : State} (ctx slot : ℕ) (tags : List ℕ) : (s.doom ctx slot tags).mem = s.mem := by rfl

theorem State.cutNodes_wf {s : State} (ctx slot : ℕ) (ns l : List ℕ) {r} (h : Memory.wf s.mem = true)
    (e : s.cutNodes ctx slot ns l = .ok r) : Memory.wf r.1.mem = true := by
  unfold State.cutNodes at e
  (repeat' split at e) <;> cases e <;> grind -ring [State.unmapAll_wf, State.doom_mem]

theorem State.growTrunk_wf {s t : State} (ctx slot lane n : ℕ) (ks : List ℕ) (h : Memory.wf s.mem = true)
    (e : s.growTrunk ctx slot lane n ks = .ok t) : Memory.wf t.mem = true := by
  induction ks generalizing s n with
  | nil => cases e; exact h
  | cons q qs ih => grind -ring [State.growTrunk, State.mapNew_wf]

@[simp] theorem State.treeShape_mem {s : State} (ctx t' n : ℕ) (parents : List ℕ) :
    (s.treeShape ctx t' n parents).1.mem = s.mem := by
  unfold State.treeShape
  dsimp only
  split
  · exact State.setRcd_mem _ _ _ _
  · rfl

theorem State.mapView_wf {s : State} (ctx slot n pos : ℕ) (parent : Option ℕ) (qs : List ℕ) (lane : ℕ) {r}
    (h : Memory.wf s.mem = true) (e : s.mapView ctx slot n pos parent qs lane = .ok r) : Memory.wf r.1.mem = true := by
  unfold State.mapView at e
  dsimp only at e
  (repeat' split at e) <;> cases e <;> grind -ring [State.mapNew_wf, State.mapShared_wf]

theorem State.makeNodes_wf {s : State} (ctx slot tp gen t' first lane : ℕ) (at_ : ForkAt) (K : List (ℕ × ℕ × ℕ))
    (l : List (ℕ × ℕ × ℕ × ℕ)) (ns ks : List ℕ) {r} (h : Memory.wf s.mem = true)
    (e : s.makeNodes ctx slot tp gen t' first lane at_ K l ns ks = .ok r) : Memory.wf r.1.mem = true := by
  induction l generalizing s ns ks with
  | nil => cases e; exact h
  | cons p rest ih =>
    unfold State.makeNodes at e
    dsimp only at e
    split at e
    · cases e
    · next hv => exact ih _ _ (State.writeNum_wf _ _ _ (State.mapView_wf _ _ _ _ _ _ _ h hv)) e

theorem State.trunkForWrite_wf {s : State} (ctx va lane : ℕ) {r} (h : Memory.wf s.mem = true)
    (e : s.trunkForWrite ctx va lane = .ok r) : Memory.wf r.1.mem = true := by
  unfold State.trunkForWrite at e
  (repeat' split at e) <;> cases e <;> simp_all

theorem State.commitNode_wf {s t : State} (ctx slot lane n r : ℕ) (h : Memory.wf s.mem = true)
    (e : s.commitNode ctx slot lane n r = .ok t) : Memory.wf t.mem = true := by
  unfold State.commitNode at e
  dsimp only at e
  split at e
  · cases e
  · cases e
  · split at e
    · exact State.mapShared_wf _ _ _ _ h e
    · split at e
      · cases e
      · next ht => cases e; exact State.write_wf _ _ (State.trunkForWrite_wf _ _ _ h ht)

@[simp] theorem State.judgeNode_wf {s : State} (tp : ℕ) (ns : List ℕ) (b p : ℕ) (h : Memory.wf s.mem = true) :
    Memory.wf (s.judgeNode tp ns b p).1.mem = true := by
  unfold State.judgeNode
  dsimp only
  (repeat' split) <;> simp [State.writeNum_wf, h]

@[simp] theorem State.freeNodes_wf {s : State} (slot : ℕ) (h : Memory.wf s.mem = true) :
    Memory.wf (s.freeNodes slot).mem = true := by
  unfold State.freeNodes
  dsimp only
  (repeat' split) <;> simp -implicitDefEqProofs [h]

/-! ### Contexts -/

@[simp] theorem State.ctxDone_mem {s : State} (n st : ℕ) : (s.ctxDone n st).mem = s.mem := by
  simp -implicitDefEqProofs [State.ctxDone]

@[simp] theorem State.readCfg_mem {s : State} (n : ℕ) : (s.readCfg n).mem = s.mem := by rfl

@[simp] theorem State.ctxSet_mem {s : State} (n : ℕ) (l : List (Fld × ℕ)) : (s.ctxSet n l).mem = s.mem := by
  unfold State.ctxSet
  simp +contextual -implicitDefEqProofs

@[simp] theorem State.suspendKernels_mem {s : State} (n : ℕ) (how : Suspending) : (s.suspendKernels n how).mem = s.mem := by
  unfold State.suspendKernels
  simp -implicitDefEqProofs

@[simp] theorem State.dropStash_mem {s : State} (n : ℕ) : (s.dropStash n).mem = s.mem := by rfl

@[simp] theorem State.orphanAll_wf {s : State} (n : ℕ) (h : Memory.wf s.mem = true) : Memory.wf (s.orphanAll n).mem = true := by
  unfold State.orphanAll
  grind -ring [State.orphan_wf, State.endCmd_wf, State.foldl_mem, State.foldl_wf]

@[simp] theorem State.retireAll_wf {s : State} (n : ℕ) (h : Memory.wf s.mem = true) : Memory.wf (s.retireAll n).mem = true := by
  unfold State.retireAll
  simp +contextual [State.foldl_wf, h]

@[simp] theorem State.dropTrees_mem {s : State} (n : ℕ) : (s.dropTrees n).mem = s.mem := by
  simp -implicitDefEqProofs [State.dropTrees, apply_ite State.mem]

@[simp] theorem State.dropRecords_wf {s : State} (n : ℕ) (h : Memory.wf s.mem = true) :
    Memory.wf (s.dropRecords n).mem = true := by
  unfold State.dropRecords
  dsimp only
  refine State.foldl_wf (fun t die ht => State.fqServe_wf die _ ht) _ ?_
  simp -implicitDefEqProofs [h]

@[simp] theorem State.destroyCtx_wf {s : State} (n : ℕ) (h : Memory.wf s.mem = true) :
    Memory.wf (s.destroyCtx n).mem = true := by
  grind -ring [State.destroyCtx, State.setFld_mem, State.dropRecords_wf, State.dropTrees_mem, State.retireAll_wf,
    State.orphanAll_wf]

/-! ### Issue order and results -/

@[simp] theorem State.nowRunning_mem {s : State} (k : ℕ) : (s.nowRunning k).mem = s.mem := by
  simp [State.nowRunning, apply_ite State.mem]

@[simp] theorem State.activate_mem {s : State} (b d slot pos : ℕ) : (s.activate b d slot pos).mem = s.mem := by
  unfold State.activate
  dsimp only
  (repeat' split) <;> simp

@[simp] theorem State.beginSwap_mem {s : State} (b d out inn pos : ℕ) : (s.beginSwap b d out inn pos).mem = s.mem := by rfl

@[simp] theorem State.toPending_mem {s : State} (b d slot pos : ℕ) : (s.toPending b d slot pos).mem = s.mem := by
  simp [State.toPending, apply_ite State.mem]

@[simp] theorem State.settle_mem {s : State} (rid : ℕ) : (s.settle rid).mem = s.mem := by
  unfold State.settle
  (repeat' split) <;> simp

@[simp] theorem State.landResult_mem {s : State} (rid idx : ℕ) (lanes : LaneMask) :
    (s.landResult rid idx lanes).mem = s.mem := by
  simp [State.landResult]

/-! ### Packets to peers -/

@[simp] theorem State.linkEvent_wf {s : State} (h : Memory.wf s.mem = true) : Memory.wf s.linkEvent.mem = true := by
  simp [State.linkEvent, h]

@[simp] theorem State.peerLate_mem {s : State} (x : Sender) (kind aux addr : ℕ) :
    (s.peerLate x kind aux addr).mem = s.mem := by rfl

@[simp] theorem State.sendPacket_mem {s : State} (x : Sender) (instr addr : ℕ) (rid cmd : Option ℕ) (l : List PeerAcc) :
    (s.sendPacket x instr addr rid cmd l).mem = s.mem := by rfl

@[simp] theorem State.sendAll_mem {s : State} (x : Sender) (instr : ℕ) (rid cmd : Option ℕ) (l : List PeerAcc) :
    (s.sendAll x instr rid cmd l).mem = s.mem := by
  simp [State.sendAll]

@[simp] theorem State.sendPosted_mem {s : State} (x : Sender) (l : List PeerAcc) : (s.sendPosted x l).mem = s.mem := by
  simp [State.sendPosted]

/-! ### Crews that come and go -/

@[simp] theorem State.makeResident_mem {s : State} (rid : ℕ) (c : Crew) (pc : ℕ) : (s.makeResident rid c pc).mem = s.mem := by
  simp [State.makeResident, apply_ite State.mem]

@[simp] theorem State.exitCrew_wf {s : State} (rid : ℕ) (c : Crew) (h : Memory.wf s.mem = true) :
    Memory.wf (s.exitCrew rid c).mem = true := by
  simp [State.exitCrew, h]

@[simp] theorem State.dropKvWrites_mem {s : State} (k idx : ℕ) : (s.dropKvWrites k idx).mem = s.mem := by rfl

/-! ### Code, launches, queues and kernels -/

@[simp] theorem State.beginFetch_wf {s : State} (m : Cmd) (slot lines : ℕ) (h : Memory.wf s.mem = true) :
    Memory.wf (s.beginFetch m slot lines).mem = true := by
  unfold State.beginFetch
  split <;> simp [h]

@[simp] theorem State.result_mem {s : State} (rid : ℕ) (k : Ctl) (c : Crew) (d : Reg) (v : ℕ) :
    (s.result rid k c d v).mem = s.mem := by rfl

@[simp] theorem State.withdrawAll_mem {s : State} (q : ℕ) : (s.withdrawAll q).mem = s.mem := by
  simp [State.withdrawAll, apply_ite State.mem]

@[simp] theorem State.holdQueue_mem {s : State} (q : ℕ) : (s.holdQueue q).2.mem = s.mem := by
  unfold State.holdQueue
  split <;> simp

@[simp] theorem State.releaseQueue_mem {s : State} (q : ℕ) : (s.releaseQueue q).2.mem = s.mem := by
  unfold State.releaseQueue
  split <;> simp

@[simp] theorem State.flushQueue_wf {s : State} (q : ℕ) (h : Memory.wf s.mem = true) :
    Memory.wf (s.flushQueue q).2.mem = true := by
  unfold State.flushQueue
  (repeat' split) <;> grind -ring [State.tryRetire_wf, State.killKernel_mem, State.foldl_mem, State.foldl_wf]

@[simp] theorem State.setClass_mem {s : State} (q n : ℕ) : (s.setClass q n).2.mem = s.mem := by
  unfold State.setClass
  split <;> simp

@[simp] theorem State.stopNow_mem {s : State} (y : ℕ) : (s.stopNow y).mem = s.mem := by
  unfold State.stopNow
  split <;> simp

@[simp] theorem State.killNow_mem {s : State} (y : ℕ) : (s.killNow y).mem = s.mem := by
  simp [State.killNow, apply_ite State.mem]

@[simp] theorem State.resumeNow_wf {s : State} (y : ℕ) (h : Memory.wf s.mem = true) : Memory.wf (s.resumeNow y).mem = true := by
  unfold State.resumeNow
  (repeat' split) <;> simp [h]

@[simp] theorem State.lowerLevel_mem {s : State} (b k g : ℕ) : (s.lowerLevel b k g).mem = s.mem := by rfl

/-! ### Admission and placing -/

@[simp] theorem State.granted_mem {s : State} (k d n : ℕ) : (s.granted k d n).mem = s.mem := by
  simp [State.granted, apply_ite State.mem]

/-! ### Engine units and ENCODE -/

@[simp] theorem State.engage_mem {s : State} (m : Cmd) : (s.engage m).mem = s.mem := by
  simp [State.engage, apply_ite State.mem]

@[simp] theorem State.abortOne_mem {s : State} (m : Cmd) : (s.abortOne m).mem = s.mem := by rfl

theorem State.readList_wf {s t : State} (m : Cmd) (h : Memory.wf s.mem = true)
    (e : s.readList m = .ok t ∨ s.readList m = .error t) : Memory.wf t.mem = true := by
  unfold State.readList at e
  cases e <;> grind -ring [State.need_wf, State.latePoison_mem, State.mapCmd_mem]

@[simp] theorem State.unitDone_wf {s : State} (m : Cmd) (n : ℕ) (h : Memory.wf s.mem = true) :
    Memory.wf (s.unitDone m n).mem = true := by
  unfold State.unitDone
  split <;> simp [h]

@[simp] theorem State.sendUnit_wf {s : State} (m : Cmd) (toPeer : Bool) (h : Memory.wf s.mem = true) :
    Memory.wf (s.sendUnit m toPeer).mem = true := by
  unfold State.sendUnit
  (repeat' split) <;> grind -ring [State.abortOne_mem, State.peerLate_mem, State.unitDone_wf, State.sendAll_mem,
    State.need_wf, State.latePoison_mem]

@[simp] theorem State.nextUnit_wf {s : State} (m : Cmd) (h : Memory.wf s.mem = true) : Memory.wf (s.nextUnit m).mem = true := by
  unfold State.nextUnit
  (repeat' split) <;> grind -ring [State.post_mem, State.sendUnit_wf, State.perform_wf, State.unitDone_wf]

@[simp] theorem State.emptyFill_mem {s : State} (m : Cmd) (slot : ℕ) : (s.emptyFill m slot).mem = s.mem := by
  unfold State.emptyFill
  (repeat' split) <;> simp

theorem State.readAll_wf {s t : State} (m : Cmd) (binds : List (ℕ × ℕ)) (h : Memory.wf s.mem = true)
    (e : s.readAll m binds = .error t) : Memory.wf t.mem = true := by
  induction binds with
  | nil => cases e
  | cons p rest ih => grind -ring [State.readAll, State.need_wf]

@[simp] theorem State.encodeBegins_wf {s : State} (m : Cmd) (h : Memory.wf s.mem = true) :
    Memory.wf (s.encodeBegins m).mem = true := by
  unfold State.encodeBegins
  grind -ring [State.post_mem, State.mapCmd_mem, State.need_wf, State.readAll_wf]

theorem State.encodeWrites_wf {s t : State} (m : Cmd) (blk : List Byte) (n : ℕ) (h : Memory.wf s.mem = true)
    (e : s.encodeWrites m blk n = .ok t ∨ s.encodeWrites m blk n = .error t) : Memory.wf t.mem = true := by
  unfold State.encodeWrites at e
  (repeat' split at e) <;> cases e <;> grind -ring [State.need_wf, State.writePieces_wf]

@[simp] theorem State.encodeEnds.finish_wf {s : State} (m : Cmd) (n : ℕ) (h : Memory.wf s.mem = true) :
    Memory.wf (State.encodeEnds.finish m n s).mem = true := by
  unfold State.encodeEnds.finish
  (repeat' split) <;> grind -ring [State.landCmd_wf, State.endCmd_wf, State.cmdOp_wf]

@[simp] theorem State.encodeEnds_wf {s : State} (m : Cmd) (st n : ℕ) (h : Memory.wf s.mem = true) :
    Memory.wf (s.encodeEnds m st n).mem = true := by
  unfold State.encodeEnds
  (repeat' split) <;> grind -ring [State.encodeEnds.finish_wf, State.need_wf, State.writePieces_wf]

/-! ### Messages from the host -/

@[simp] theorem State.sendWaiting_mem {s : State} (fuel : ℕ) : (State.sendWaiting fuel s).mem = s.mem := by
  induction fuel generalizing s with
  | zero => rfl
  | succ f ih =>
    unfold State.sendWaiting
    (repeat' split) <;> simp [ih]

@[simp] theorem State.wakeNotify_mem {s : State} : s.wakeNotify.mem = s.mem := by rfl

@[simp] theorem State.acknowledge_mem {s : State} (ack : ℕ) : (s.acknowledge ack).mem = s.mem := by
  simp [State.acknowledge]

@[simp] theorem State.takeAck_mem {s : State} (ack : ℕ) : (s.takeAck ack).mem = s.mem := by
  simp [State.takeAck, apply_ite State.mem]

@[simp] theorem State.resend_mem {s : State} (lost : Bool) : (s.resend lost).mem = s.mem := by
  simp [State.resend]

@[simp] theorem State.hostAck_mem {s : State} (ack : ℕ) : (s.hostAck ack).mem = s.mem := by
  simp [State.hostAck, apply_ite State.mem]

@[simp] theorem State.dropIn_mem {s : State} (m : HostMsg) : (s.dropIn m).mem = s.mem := by rfl

@[simp] theorem State.keepIn_mem {s : State} (m : HostMsg) : (s.keepIn m).mem = s.mem := by rfl

@[simp] theorem State.hostFail_mem {s : State} (m : HostMsg) (st : ℕ) : (s.hostFail m st).mem = s.mem := by
  simp [State.hostFail]

@[simp] theorem State.consume_mem {s : State} : s.consume.mem = s.mem := by rfl

@[simp] theorem State.answerAck_mem {s : State} : s.answerAck.mem = s.mem := by
  simp [State.answerAck, apply_ite State.mem]

@[simp] theorem State.hostWritable_wf {s : State} (ctx va n : ℕ) (h : Memory.wf s.mem = true) :
    Memory.wf (s.hostWritable ctx va n).mem = true := by
  unfold State.hostWritable
  (repeat' split) <;> simp +contextual [State.foldl_wf, h]

@[simp] theorem State.drawOrder_mem {s : State} : s.drawOrder.mem = s.mem := by rfl

@[simp] theorem State.signal_wf {s : State} (m : HostMsg) (mode : ℕ) (op : BarOp) (h : Memory.wf s.mem = true) :
    Memory.wf (s.signal m mode op).mem = true := by
  unfold State.signal
  grind -ring [State.hostWritable_wf, State.hostFail_mem, State.ctxFault_mem, State.barPerform_wf]

/-! ### Peers and checkpoints -/

@[simp] theorem State.awaitBurst_mem {s : State} (rid : ℕ) (c : Crew) : (s.awaitBurst rid c).mem = s.mem := by
  simp [State.awaitBurst]

@[simp] theorem State.postPeer_mem {s : State} (rid : ℕ) (k : Ctl) (c : Crew) (l : List PeerAcc) :
    (s.postPeer rid k c l).mem = s.mem := by
  simp [State.postPeer]

theorem State.xsig_mem {s t : State} (rid : ℕ) (k : Ctl) (c : Crew) (va : ℕ) (op : ℕ → PeerOp)
    (e : s.xsig rid k c va op = .ok t) : t.mem = s.mem := by
  unfold State.xsig at e
  (repeat' split at e) <;> cases e <;> simp_all [State.postPeer_mem]

theorem State.restore_wf {s t : State} (ctx from_ lane : ℕ) (inside : ℕ → Bool) (fuel : ℕ) (h : Memory.wf s.mem = true)
    (e : State.restore ctx from_ lane inside fuel s = .ok t) : Memory.wf t.mem = true := by
  induction fuel generalizing s with
  | zero => cases e; exact h
  | succ n ih => grind -ring [State.restore, State.write_wf]

@[simp] theorem State.stashGone_mem {s : State} (ctx lo n : ℕ) : (s.stashGone ctx lo n).mem = s.mem := by rfl

/-! ### Packets from peers, ports and reach -/

@[simp] theorem State.peerOp_wf {s : State} (ctx : ℕ) (op : PeerOp) (h : Memory.wf s.mem = true) :
    Memory.wf (s.peerOp ctx op).1.mem = true := by
  cases op <;> grind -ring [State.peerOp, State.writeNum_wf, State.barPerform_wf]

@[simp] theorem State.peerOps_wf {s : State} (ctx : ℕ) (ops : List PeerOp) (h : Memory.wf s.mem = true) :
    Memory.wf (State.peerOps ctx ops s).1.mem = true := by
  induction ops generalizing s with
  | nil => exact h
  | cons op rest ih => exact ih (State.peerOp_wf _ _ h)

@[simp] theorem State.holdPacket_wf {s : State} (p : Pkt) (q : Option QFault) (h : Memory.wf s.mem = true) :
    Memory.wf (s.holdPacket p q).mem = true := by
  unfold State.holdPacket
  split <;> simp [h]

@[simp] theorem State.takePacket_wf {s : State} (p : Pkt) (h : Memory.wf s.mem = true) :
    Memory.wf (s.takePacket p).mem = true := by
  unfold State.takePacket
  (repeat' split) <;> simp [h]

@[simp] theorem State.fenceWakes_mem {s : State} (k idx : ℕ) : (s.fenceWakes k idx).mem = s.mem := by
  simp [State.fenceWakes, apply_ite State.mem]

@[simp] theorem State.postedDone_mem {s : State} (p : PeerOut) (st : PeerStatus) : (s.postedDone p st).mem = s.mem := by
  unfold State.postedDone
  (repeat' split) <;> simp

@[simp] theorem State.getDone_wf {s : State} (rid instr : ℕ) (l : List PeerOut) (h : Memory.wf s.mem = true) :
    Memory.wf (s.getDone rid instr l).mem = true := by
  unfold State.getDone
  dsimp only
  (repeat' split) <;> simp [h]

@[simp] theorem State.copyDone_wf {s : State} (id instr : ℕ) (l : List PeerOut) (h : Memory.wf s.mem = true) :
    Memory.wf (s.copyDone id instr l).mem = true := by
  unfold State.copyDone
  dsimp only
  split
  · simpa using h
  · split
    · exact h
    · split
      · simpa using h
      · split
        · split
          · exact h
          · split
            · next hn => exact State.need_wf _ _ _ _ (by exact h) hn
            · next to_ hn =>
              split <;> simp [State.writePieces_wf, h]
        · simp [h]

@[simp] theorem State.setPortTime_mem {s : State} (key t' : ℕ) : (s.setPortTime key t').mem = s.mem := by rfl

@[simp] theorem State.portTo_wf {s : State} (p st : ℕ) (h : Memory.wf s.mem = true) : Memory.wf (s.portTo p st).mem = true := by
  unfold State.portTo
  split <;> simp [h]

@[simp] theorem State.portTrains_wf {s : State} (p : ℕ) (h : Memory.wf s.mem = true) :
    Memory.wf (s.portTrains p).mem = true := by
  simp [State.portTrains, h]

@[simp] theorem State.clearRetries_mem {s : State} (p : ℕ) : (s.clearRetries p).mem = s.mem := by rfl

@[simp] theorem State.setReach_mem {s : State} (m p n : ℕ) : (s.setReach m p n).mem = s.mem := by rfl

@[simp] theorem State.judgeMember_wf {s : State} (m : ℕ) (h : Memory.wf s.mem = true) :
    Memory.wf (s.judgeMember m).mem = true := by
  unfold State.judgeMember
  (repeat' split) <;> simp +contextual [State.foldl_wf, h]

/-! ### Walks and copies -/

@[simp] theorem State.refillPin_mem {s : State} (b : ℕ) (p : Pin) : (s.refillPin b p).mem = s.mem := by
  simp [State.refillPin, apply_ite State.mem]

@[simp] theorem State.afterCopy_wf {s : State} (ctx lo n : ℕ) (made : Bool) (h : Memory.wf s.mem = true) :
    Memory.wf (s.afterCopy ctx lo n made).mem = true := by
  unfold State.afterCopy
  (repeat' split) <;> simp +contextual [State.foldl_wf, h]

@[simp] theorem State.redsExhausted_wf {s : State} (ctx va : ℕ) (h : Memory.wf s.mem = true) :
    Memory.wf (s.redsExhausted ctx va).mem = true := by
  unfold State.redsExhausted
  (repeat' split) <;> simp [h]

@[simp] theorem State.barsExhausted_wf {s : State} (ctx va : ℕ) (h : Memory.wf s.mem = true) :
    Memory.wf (s.barsExhausted ctx va).mem = true := by
  unfold State.barsExhausted
  dsimp only
  (repeat' split) <;> simp [h]

/-! ### The matrix pipe, reductions and leave -/

@[simp] theorem State.pipeTaken_mem {s : State} (rid k : ℕ) (latch : Option Latch) :
    (s.pipeTaken rid k latch).mem = s.mem := by rfl

@[simp] theorem State.acceptMma_mem {s : State} (rid : ℕ) (c : Crew) (j : MmaJob) : (s.acceptMma rid c j).mem = s.mem := by
  simp [State.acceptMma]

@[simp] theorem State.acceptRest_mem {s : State} (rid : ℕ) (c : Crew) (j : MmaJob) (lines : List ℕ) :
    (s.acceptRest rid c j lines).mem = s.mem := by
  simp [State.acceptRest]

@[simp] theorem State.resumeRest_wf {s : State} (rid : ℕ) (c : Crew) (j : MmaJob) (h : Memory.wf s.mem = true) :
    Memory.wf (s.resumeRest rid c j).mem = true := by
  unfold State.resumeRest
  dsimp only
  (repeat' split) <;> simp [h]

@[simp] theorem State.applyRed_wf {s : State} (i : ℕ) (r : Red) (h : Memory.wf s.mem = true) :
    Memory.wf (s.applyRed i r).mem = true := by
  unfold State.applyRed
  dsimp only
  (repeat' split) <;> simp [State.writeNum_wf, h]

@[simp] theorem State.poisonLine_mem {s : State} (l : ℕ) : (s.poisonLine l).mem = s.mem := by
  simp [State.poisonLine, apply_ite State.mem]

@[simp] theorem State.errorFound_mem {s : State} : s.errorFound.mem = s.mem := by rfl

@[simp] theorem State.leaveAgain_mem {s : State} (b : ℕ) (k : Option ℕ) : (s.leaveAgain b k).mem = s.mem := by rfl

@[simp] theorem State.askForBurst_mem {s : State} (rid : ℕ) (c : Crew) : (s.askForBurst rid c).mem = s.mem := by
  simp [State.askForBurst, apply_ite State.mem]

@[simp] theorem State.levelRisen_mem {s : State} (b k : ℕ) : (s.levelRisen b k).mem = s.mem := by
  simp [State.levelRisen, apply_ite State.mem]

@[simp] theorem State.raiseLevel_mem {s : State} (b k n : ℕ) : (s.raiseLevel b k n).mem = s.mem := by
  simp [State.raiseLevel]

@[simp] theorem State.raiseAnswered_mem {s : State} (b k : ℕ) (who : RaiseFor) (ok : Bool) :
    (s.raiseAnswered b k who ok).mem = s.mem := by
  unfold State.raiseAnswered
  (repeat' split) <;> simp

@[simp] theorem State.leaveResult_mem {s : State} (rid d v : ℕ) : (s.leaveResult rid d v).mem = s.mem := by rfl

@[simp] theorem State.leaveAnswered_mem {s : State} (b k n units : ℕ) (ok : Bool) :
    (s.leaveAnswered b k n units ok).mem = s.mem := by
  unfold State.leaveAnswered
  dsimp only
  (repeat' split) <;> simp

/-! ### Power, temperature and scrubs -/

@[simp] theorem State.setTemp_mem {s : State} (d t' : ℕ) : (s.setTemp d t').mem = s.mem := by
  simp [State.setTemp, apply_ite State.mem]

@[simp] theorem State.sense_mem {s : State} : s.sense.mem = s.mem := by rfl

@[simp] theorem State.counted_mem {s : State} (finding : ScrubFinding) : (s.counted finding).mem = s.mem := by
  unfold State.counted
  split <;> simp

@[simp] theorem State.scrubbed_mem {s : State} (l : ℕ) (f : ScrubFinding) : (s.scrubbed l f).mem = s.mem := by
  simp [State.scrubbed, apply_ite State.mem]

/-! ### Queue commands -/

@[simp] theorem State.queueDone_mem {s : State} (q st : ℕ) : (s.queueDone q st).mem = s.mem := by
  simp -implicitDefEqProofs [State.queueDone]

@[simp] theorem State.clearQueue_mem {s : State} (q : ℕ) : (s.clearQueue q).mem = s.mem := by
  simp -implicitDefEqProofs [State.clearQueue]

/-! ### Trees -/

@[simp] theorem State.treeDone_mem {s : State} (rid : ℕ) (k : Ctl) (c : Crew) (cells : List (ℕ × Word)) :
    (s.treeDone rid k c cells).mem = s.mem := by rfl

theorem State.onTree_wf {s : State} (rid : ℕ) (k : Ctl) (c : Crew) (d a : Reg) {op : ℕ → TreeOp}
    (ho : ∀ slot r, op slot = .ok r → Memory.wf r.1.mem = true) (h : Memory.wf s.mem = true) : OkWf (s.onTree rid k c d a op) := by
  unfold State.onTree
  split
  · simpa using h
  · split
    · simp
    · next hr => simpa using ho _ _ hr

theorem State.treeInfo_mem {s t : State} (rid : ℕ) (k : Ctl) (c : Crew) (d a b : Reg) (part : ℕ → ℕ)
    (e : s.treeInfo rid k c d a b part = .ok t) : t.mem = s.mem := by
  unfold State.treeInfo at e
  (repeat' split at e) <;> cases e <;> simp_all [State.treeDone_mem]

/-! ### What comes next -/

@[simp] theorem State.next_mem {s : State} (h' : Happening) : (s.next h').mem = s.mem := by rfl

/-! ## Where an instruction is executed -/

theorem nextWf_ite {p : Prop} [Decidable p] {a b : Host.Outcome State Fault Refusal} (ha : NextWf a) (hb : NextWf b) :
    NextWf (if p then a else b) := by
  split <;> assumption

/-- The state of an answer. -/
theorem fst_wf_of_ok {ε α : Type} {s : State} {v : α} {r : State × α} (e : (.ok (s, v) : Except ε (State × α)) = .ok r)
    (h : Memory.wf s.mem = true) : Memory.wf r.1.mem = true := by
  cases e
  exact h

theorem ordinary_wf (i : Instr) (body : Body) {s : State} (h : Memory.wf s.mem = true) : NextWf (ordinary i body s) := by
  unfold ordinary
  (repeat' split) <;> simp [h]

theorem bounding_wf (i : Instr) {body : BBody} (hb : ∀ s rid c, Memory.wf s.mem = true → OkWf (body s rid c)) {s : State}
    (h : Memory.wf s.mem = true) : NextWf (bounding i body s) := by
  have hs (rid c k e) : Memory.wf (s.issueBounding rid c k e body).mem = true := State.issueBounding_wf rid c k e hb h
  unfold bounding
  (repeat' split) <;> simp [hs]

theorem atCrew_wf {s : State} {f : ℕ → Crew → State} (h : Memory.wf s.mem = true)
    (hf : ∀ rid c, Memory.wf (f rid c).mem = true) : NextWf (atCrew s f) := by
  unfold atCrew
  (repeat' split) <;> simp [h, hf]

theorem atBay_wf {s : State} {f : ℕ → State} (h : Memory.wf s.mem = true) (hf : ∀ b, Memory.wf (f b).mem = true) :
    NextWf (atBay s f) := by
  unfold atBay
  split <;> simp [h, hf]

theorem atCtx_wf {s : State} {f : ℕ → State} (h : Memory.wf s.mem = true) (hf : ∀ n, Memory.wf (f n).mem = true) :
    NextWf (atCtx s f) := by
  unfold atCtx
  split <;> simp [h, hf]

theorem atQueue_wf {s : State} {f : ℕ → State} (h : Memory.wf s.mem = true) (hf : ∀ q, Memory.wf (f q).mem = true) :
    NextWf (atQueue s f) := by
  unfold atQueue
  split <;> simp [h, hf]

theorem atKernel_wf {s : State} {f : ℕ → State} (h : Memory.wf s.mem = true) (hf : ∀ k, Memory.wf (f k).mem = true) :
    NextWf (atKernel s f) := by
  unfold atKernel
  split <;> simp [h, hf]

theorem atDie_wf {s : State} {f : ℕ → State} (h : Memory.wf s.mem = true) (hf : ∀ d, Memory.wf (f d).mem = true) :
    NextWf (atDie s f) := by
  unfold atDie
  split <;> simp [h, hf]

theorem atPort_wf {s : State} {f : ℕ → State} (h : Memory.wf s.mem = true) (hf : ∀ p, Memory.wf (f p).mem = true) :
    NextWf (atPort s f) := by
  unfold atPort
  split <;> simp [h, hf]

theorem atEntry_wf {s : State} {f : ℕ → State} (h : Memory.wf s.mem = true) (hf : ∀ i, Memory.wf (f i).mem = true) :
    NextWf (atEntry s f) := by
  unfold atEntry
  split <;> simp [h, hf]

theorem atSide_wf {s : State} {f : ℕ → ℕ → State} (h : Memory.wf s.mem = true) (hf : ∀ b d, Memory.wf (f b d).mem = true) :
    NextWf (atSide s f) := by
  unfold atSide
  split <;> simp [h, hf]

theorem atCmd_wf {s : State} {f : Cmd → State} (h : Memory.wf s.mem = true) (hf : ∀ m, Memory.wf (f m).mem = true) :
    NextWf (atCmd s f) :=
  atEntry_wf h (fun _ => by split <;> simp [h, hf])

theorem ctxCommand_wf {s : State} {f : State → ℕ → Option ℕ × State} (h : Memory.wf s.mem = true)
    (hf : ∀ n, Memory.wf (f s n).2.mem = true) : NextWf (ctxCommand s f) := by
  refine atCtx_wf h (fun n => ?_)
  have hn := hf n
  split
  · simpa using h
  · split <;> simp_all

theorem queueCommand_wf {s : State} {f : State → ℕ → ℕ × State} (h : Memory.wf s.mem = true)
    (hf : ∀ q, Memory.wf (f s q).2.mem = true) : NextWf (queueCommand s f) :=
  atQueue_wf h (fun q => by simpa using hf q)

theorem hostMessage_wf {s : State} (sel : HostMsg → Bool) {f : State → HostMsg → Option State} (h : Memory.wf s.mem = true)
    (hf : ∀ s m t, Memory.wf s.mem = true → f s m = some t → Memory.wf t.mem = true) : NextWf (hostMessage s sel f) := by
  have hd (t u : State) (m : HostMsg) (ht : Memory.wf t.mem = true) (hu : Memory.wf u.mem = true) :
      Memory.wf ((f t m).getD u).mem = true := by
    cases hx : f t m with
    | none => exact hu
    | some v => exact hf _ _ _ ht hx
  unfold hostMessage
  dsimp only
  (repeat' split) <;> simp [h, hd]

theorem kstop_wf {s : State} (k : Ctl) (d a : Reg) (status : State → ℕ → ℕ) {effect : State → ℕ → State}
    (he : ∀ t y, Memory.wf t.mem = true → Memory.wf (effect t y).mem = true) (rid : ℕ) (c : Crew) (h : Memory.wf s.mem = true) :
    OkWf (kstop k d a status effect s rid c) := by
  unfold kstop
  dsimp only
  (repeat' split) <;> simp [he, h]

/-! ### Trees and engine commands -/

theorem State.issueCmd_wf {s : State} (rid : ℕ) (k : Ctl) (c : Crew) (kind : CmdKind) (desc : ℕ) (bar : Option (ℕ × ℕ))
    (ready : Option ℕ) (bytes : ℕ) (h : Memory.wf s.mem = true) : OkWf (s.issueCmd rid k c kind desc bar ready bytes) :=
  fun _ e => by rwa [State.issueCmd_mem _ _ _ _ _ _ _ _ e]

theorem qctl_wf {s : State} (k : Ctl) (d a : Reg) (free : ℕ) {op : State → Crew → ℕ → Except Stop (ℕ × State)}
    (ho : ∀ t c q r, Memory.wf t.mem = true → op t c q = .ok r → Memory.wf r.2.mem = true) (rid : ℕ) (c : Crew)
    (h : Memory.wf s.mem = true) : OkWf (qctl k d a free op s rid c) := by
  have hr (y) : Memory.wf (s.result rid k c d y).mem = true := by simpa using h
  unfold qctl
  dsimp only
  split
  · simpa using h
  · split
    · simp
    · split
      · simp [h]
      · split
        · simp [h]
        · split
          · simp [h]
          · split
            · simp
            · split
              · next e => simpa using ho _ _ _ _ (hr _) e
              · simp

theorem State.treeFork_wf {s : State} (ctx slot b sup lane : ℕ) {r : State × ℕ} (h : Memory.wf s.mem = true)
    (e : s.treeFork ctx slot b sup lane = .ok r) : Memory.wf r.1.mem = true := by
  -- the supply and the making of the nodes are variables here, so that no check of the case split runs them
  obtain ⟨supply, hs⟩ : ∃ supply, supply = State.treeSupply := ⟨_, rfl⟩
  obtain ⟨make, hm⟩ : ∃ make, make = State.makeNodes := ⟨_, rfl⟩
  rw [State.treeFork, ← hs, ← hm] at e
  split at e
  · cases e
  · dsimp only at e
    split at e
    · exact fst_wf_of_ok e h
    · split at e
      · exact fst_wf_of_ok e h
      · split at e
        · exact fst_wf_of_ok e h
        · split at e
          · exact fst_wf_of_ok e h
          · split at e
            · exact fst_wf_of_ok e h
            · split at e
              · cases e
              · next hq =>
                split at e
                · cases e
                · next hn =>
                  refine fst_wf_of_ok e ?_
                  rw [hs] at hq
                  rw [hm] at hn
                  rw [State.liveMore_mem, State.setFld_mem]
                  exact State.putNodes_wf _ _ _
                    (State.makeNodes_wf _ _ _ _ _ _ _ _ _ _ _ _ (by rwa [State.treeSupply_mem _ _ _ _ hq]) hn)

theorem State.treePrune_wf {s : State} (ctx slot ref lane : ℕ) {r : State × ℕ} (h : Memory.wf s.mem = true)
    (e : s.treePrune ctx slot ref lane = .ok r) : Memory.wf r.1.mem = true := by
  unfold State.treePrune at e
  split at e
  · cases e
  · dsimp only at e
    split at e
    · exact fst_wf_of_ok e h
    · split at e
      · exact fst_wf_of_ok e h
      · split at e
        · cases e
        · next hc =>
          refine fst_wf_of_ok e ?_
          exact State.putNodes_wf _ _ _ (State.cutNodes_wf _ _ _ _ h hc)

theorem State.treeCommit_wf {s : State} (ctx slot ref lane : ℕ) {r : State × ℕ} (h : Memory.wf s.mem = true)
    (e : s.treeCommit ctx slot ref lane = .ok r) : Memory.wf r.1.mem = true := by
  have hl (f : ℕ → ℕ) (l : List ℕ) (t u : State) (ht : Memory.wf t.mem = true)
      (e : l.foldlM (fun s n => s.commitNode ctx slot lane n (f n)) t = .ok u) : Memory.wf u.mem = true := by
    induction l generalizing t with
    | nil => cases e; exact ht
    | cons n l ih =>
      rw [List.foldlM_cons] at e
      cases hn : t.commitNode ctx slot lane n (f n) with
      | error x => simp [hn, bind, Except.bind] at e
      | ok v => exact ih v (State.commitNode_wf _ _ _ _ _ ht hn) (by simpa [hn, bind, Except.bind] using e)
  unfold State.treeCommit at e
  split at e
  · cases e
  · dsimp only at e
    split at e
    · exact fst_wf_of_ok e h
    · split at e
      · exact fst_wf_of_ok e h
      · split at e
        · cases e
        · next hf =>
          split at e
          · cases e
          · next hc =>
            split at e
            · cases e
            · next hu =>
              refine fst_wf_of_ok e ?_
              rw [State.liveLess_mem, State.setFld_mem]
              exact State.putNodes_wf _ _ _ (State.unmapAll_wf _ _ (State.cutNodes_wf _ _ _ _ (hl _ _ _ _ h hf) hc) hu)

theorem State.treeAppend_wf {s : State} (ctx slot n lane : ℕ) {r : State × ℕ} (h : Memory.wf s.mem = true)
    (e : s.treeAppend ctx slot n lane = .ok r) : Memory.wf r.1.mem = true := by
  -- the supply and the growth of the trunk are variables here, so that no check of the case split runs them
  obtain ⟨supply, hs⟩ : ∃ supply, supply = State.treeSupply := ⟨_, rfl⟩
  obtain ⟨grow, hg⟩ : ∃ grow, grow = State.growTrunk := ⟨_, rfl⟩
  rw [State.treeAppend, ← hs, ← hg] at e
  split at e
  · exact fst_wf_of_ok e h
  · split at e
    · exact fst_wf_of_ok e h
    · split at e
      · cases e
      · next hq =>
        split at e
        · cases e
        · next hgr =>
          refine fst_wf_of_ok e ?_
          rw [hs] at hq
          rw [hg] at hgr
          rw [State.setFld_mem]
          exact State.growTrunk_wf _ _ _ _ _ (by rwa [State.treeSupply_mem _ _ _ _ hq]) hgr

theorem State.write_setFld_wf (s : State) (a : ℕ) (bs : List Byte) (tab : SysTab) (n : ℕ) (f : Fld) (v : ℕ)
    (h : Memory.wf s.mem = true) : Memory.wf ((s.write a bs).setFld tab n f v).mem = true := by
  rw [State.setFld_mem]; exact State.write_wf _ _ h

theorem State.setRcd_wf (s : State)  (tab : SysTab) (n : ℕ) (v : _)
    (h : Memory.wf s.mem = true) : Memory.wf (s.setRcd tab n v).mem = true := by
  rw [State.setRcd_mem]; exact h

theorem State.treeNew_wf {s : State} (ctx x lane : ℕ) {r : State × ℕ} (h : Memory.wf s.mem = true)
    (e : s.treeNew ctx x lane = .ok r) : Memory.wf r.1.mem = true := by
  -- the tree page is a variable here, so that no check of the case split walks to it
  obtain ⟨page, hp⟩ : ∃ page, page = State.treePage := ⟨_, rfl⟩
  rw [State.treeNew, ← hp] at e
  dsimp only at e
  split at e
  · exact fst_wf_of_ok e h
  · split at e
    · exact fst_wf_of_ok e h
    · cases e
    · exact fst_wf_of_ok e h
    · split at e
      · cases e
      · exact fst_wf_of_ok e (State.write_setFld_wf _ _ _ _ _ _ _ (State.setRcd_wf _ _ _ _ h))

theorem State.treeFree_wf {s : State} (ctx slot lane : ℕ) {r : State × ℕ} (h : Memory.wf s.mem = true)
    (e : s.treeFree ctx slot lane = .ok r) : Memory.wf r.1.mem = true := by
  unfold State.treeFree at e
  split at e
  · cases e
  · dsimp only at e
    split at e
    · cases e
    · next hc =>
      split at e
      · cases e
      · next hu =>
        refine fst_wf_of_ok e ?_
        rw [State.setFld_mem]
        exact State.putNodes_wf _ _ _ (State.unmapAll_wf _ _ (State.cutNodes_wf _ _ _ _ h hc) hu)

theorem execModuleReset_wf (s : State) : NextWf (execModuleReset s) := by
  simp [execModuleReset, State.reset, Memory.wf, Tbl.canon, Tbl.risingFrom]

/-! ## Instructions and events

Those that are not `ordinary` instructions; of an `ordinary` one `ordinary_wf` is all. -/

section
variable {s : State} (h : Memory.wf s.mem = true)
include h

/-! ### Control flow -/

theorem execRet_wf (k : Ctl) (a : Reg) : NextWf (execRet k a s) := by
  refine nextWf_ite (bounding_wf _ (fun s rid c h => ?_) h) (ordinary_wf _ _ h)
  split <;> simp [h]

theorem execTrap_wf (k : Ctl) (n : BitVec 14) : NextWf (execTrap k n s) := by
  refine bounding_wf _ (fun s rid c h => ?_) h
  split <;> simp [h]

/-! ### Memory -/

theorem execAtom_wf (k : Ctl) (op : RmwOp) (ty : Ty) (d a b c : Reg) (off : Word) :
    NextWf (execAtom k op ty d a b c off s) := by
  refine nextWf_ite (bounding_wf _ (fun s rid c h => ?_) h) (ordinary_wf _ _ h)
  dsimp only
  split
  · simp
  · simp +contextual [State.foldl_wf, State.write_wf, h]

theorem execMwait_wf (k : Ctl) (cond : Cond) (ty : Ty) (a b : Reg) (off : Word) : NextWf (execMwait k cond ty a b off s) := by
  refine bounding_wf _ (fun s rid c h => ?_) h
  dsimp only
  (repeat' split) <;> simp [h]

/-! ### Strokes in their turn -/

theorem execStrokeCommit_wf : NextWf (execStrokeCommit s) := by
  refine atCrew_wf h (fun _ _ => ?_)
  dsimp only
  (repeat' split) <;> simp [h]

theorem execLocalCommit_wf : NextWf (execLocalCommit s) := by
  refine atCrew_wf h (fun _ _ => ?_)
  (repeat' split) <;> simp [h]

theorem execSignatureSquash_wf : NextWf (execSignatureSquash s) := by
  unfold execSignatureSquash
  (repeat' split) <;> grind -ring [State.squash_mem, OkWf, NextWf, State.foldl_mem, State.foldl_wf]

theorem execOrderLogCheckpoint_wf : NextWf (execOrderLogCheckpoint s) := by
  refine atCtx_wf h (fun _ => ?_)
  dsimp only
  (repeat' split) <;> grind -ring [State.logReady_wf, State.ctxFault_mem, State.logPush_wf, State.setLog_mem,
    State.pushDigests_wf, OkWf, NextWf]

theorem execReplayDigestCheck_wf : NextWf (execReplayDigestCheck s) := by
  -- the readings of the log and the check of its digests are variables here, so that no check of the case split runs them
  obtain ⟨check, hc⟩ : ∃ check, check = State.checkDigests := ⟨_, rfl⟩
  obtain ⟨entry, he⟩ : ∃ entry, entry = State.logEntry := ⟨_, rfl⟩
  obtain ⟨left, hl⟩ : ∃ left, left = State.logLeft := ⟨_, rfl⟩
  have hw (t : State) (ctx i n : ℕ) (e : check ctx i n s = .ok t) : Memory.wf t.mem = true := by
    rw [hc] at e
    rwa [State.checkDigests_mem _ _ _ e]
  rw [execReplayDigestCheck, ← hc, ← he, ← hl]
  refine atCtx_wf h (fun ctx => ?_)
  dsimp only
  split
  · exact h
  · split
    · rwa [State.ctxFault_mem]
    · split
      · exact h
      · split
        · exact h
        · split
          · rwa [State.ctxFault_mem]
          · next e =>
            rw [State.setFld_mem]
            exact hw _ _ _ _ e

theorem execHeldStrokeStart_wf : NextWf (execHeldStrokeStart s) := by
  refine atCrew_wf h (fun _ _ => ?_)
  dsimp only
  (repeat' split) <;> simp [h]

theorem execShadowSpaceGrant_wf : NextWf (execShadowSpaceGrant s) := by
  refine atBay_wf h (fun _ => ?_)
  (repeat' split) <;> simp [h]

theorem execShadowDeadlockSquash_wf : NextWf (execShadowDeadlockSquash s) := by
  refine atBay_wf h (fun _ => ?_)
  (repeat' split) <;> simp [h]

theorem execMwaitWake_wf : NextWf (execMwaitWake s) := by
  refine atCrew_wf h (fun _ _ => ?_)
  split <;> simp [h]

theorem execWaitTableRecheck_wf : NextWf (execWaitTableRecheck s) := by
  refine atCrew_wf h (fun _ _ => ?_)
  (repeat' split) <;> simp [h]

/-! ### Registers -/

theorem execAllot_wf (k : Ctl) (d a : Reg) : NextWf (execAllot k d a s) := by
  refine bounding_wf _ (fun s rid c h => ?_) h
  dsimp only
  (repeat' split) <;> simp [h]

/-! ### Register grants -/

theorem execAllotGrant_wf : NextWf (execAllotGrant s) := by
  refine atSide_wf h (fun _ _ => ?_)
  (repeat' split) <;> simp [h]

theorem execAllotDeadlockFail_wf : NextWf (execAllotDeadlockFail s) := by
  refine atSide_wf h (fun _ _ => ?_)
  (repeat' split) <;> simp [h]

/-! ### Sum regions -/

theorem execSumdeclDecl_wf (k : Ctl) (a b : Reg) : NextWf (execSumdeclDecl k a b s) := by
  refine bounding_wf _ (fun s rid c h => ?_) h
  dsimp only
  (repeat' split) <;> simp [h]

theorem execSumdeclFree_wf (k : Ctl) (a : Reg) : NextWf (execSumdeclFree k a s) := by
  refine bounding_wf _ (fun s rid c h => ?_) h
  dsimp only
  (repeat' split) <;> simp [h]

theorem execSumdeclTl_wf (k : Ctl) (a : Reg) : NextWf (execSumdeclTl k a s) := by
  refine bounding_wf _ (fun s rid c h => ?_) h
  dsimp only
  (repeat' split) <;> simp [h]

theorem execSumrdClr_wf (k : Ctl) (op : SumRdOp) (d a : Reg) (off : Word) : NextWf (execSumrdClr k op d a off s) := by
  have hl (c : Crew) (l : List (ℕ × ℕ)) (r : State × List (ℕ × Word)) (hr : Memory.wf r.1.mem = true) :
      Memory.wf (l.foldl (clearLane op d c) r).1.mem = true := by
    induction l generalizing r with
    | nil => exact hr
    | cons p l ih => exact ih _ (clearLane_wf _ _ _ _ _ hr)
  refine bounding_wf _ (fun s rid c h => ?_) h
  split
  · simp
  · simp [hl, h]

theorem execSumz_wf (k : Ctl) (a b : Reg) : NextWf (execSumz k a b s) := by
  refine bounding_wf _ (fun s rid c h => ?_) h
  dsimp only
  (repeat' split) <;> simp +contextual [State.foldl_wf, h]

theorem execSumdrain_wf (k : Ctl) (clr : Bool) (a b : Reg) : NextWf (execSumdrain k clr a b s) := by
  refine bounding_wf _ (fun s rid c h => ?_) h
  dsimp only
  (repeat' split) <;> simp +contextual [State.foldl_wf, h]

theorem execMbatch_wf (k : Ctl) (d : Reg) : NextWf (execMbatch k d s) := by
  refine bounding_wf _ (fun s rid c h => ?_) h
  simp [h]

theorem execMma_wf (k : Ctl) (fmt : Ty) (reuse : Bool) (sel : BitVec 2) (d a b c : Reg) :
    NextWf (execMma k fmt reuse sel d a b c s) := by
  refine bounding_wf _ (fun s rid c h => ?_) h
  dsimp only
  (repeat' split) <;> simp [h]

/-! ### Barriers and engine commands -/

theorem execWait_wf (k : Ctl) (a b : Reg) : NextWf (execWait k a b s) := by
  refine bounding_wf _ (fun s rid c h => ?_) h
  dsimp only
  (repeat' split) <;> simp [h]

theorem execCopy_wf (k : Ctl) (a : Reg) : NextWf (execCopy k a s) := by
  refine bounding_wf _ (fun s rid c h => ?_) h
  dsimp only
  (repeat' split) <;> simp [State.issueCmd_wf, h]

theorem execGather_wf (k : Ctl) (a : Reg) : NextWf (execGather k a s) := by
  refine bounding_wf _ (fun s rid c h => ?_) h
  dsimp only
  (repeat' split) <;> grind -ring [State.finish_mem, State.issueCmd_mem, OkWf, NextWf]

theorem execScatter_wf (k : Ctl) (a : Reg) : NextWf (execScatter k a s) := by
  refine bounding_wf _ (fun s rid c h => ?_) h
  dsimp only
  (repeat' split) <;> grind -ring [State.finish_mem, State.issueCmd_mem, OkWf, NextWf]

theorem execEncode_wf (k : Ctl) (a : Reg) : NextWf (execEncode k a s) := by
  refine bounding_wf _ (fun s rid c h => ?_) h
  dsimp only
  (repeat' split) <;> grind -ring [State.finish_mem, State.issueCmd_mem, OkWf, NextWf]

theorem execBatch_wf (k : Ctl) (d : Reg) : NextWf (execBatch k d s) := by
  refine bounding_wf _ (fun s rid c h => ?_) h
  simp [h]

/-! ### Stamps and comparators -/

theorem execBpset_wf (k : Ctl) (a b : Reg) (n : BitVec 14) : NextWf (execBpset k a b n s) := by
  refine bounding_wf _ (fun s rid c h => ?_) h
  dsimp only
  (repeat' split) <;> simp [h]

theorem execBpclr_wf (k : Ctl) (n : BitVec 14) : NextWf (execBpclr k n s) := by
  refine bounding_wf _ (fun s rid c h => ?_) h
  dsimp only
  (repeat' split) <;> simp [h]

theorem execStamp_wf (k : Ctl) (d a : Reg) : NextWf (execStamp k d a s) := by
  refine bounding_wf _ (fun s rid c h => ?_) h
  dsimp only
  split <;> simp [h]

theorem execStampRecordWrite_wf : NextWf (execStampRecordWrite s) := by
  unfold execStampRecordWrite
  split <;> simp [h]

/-! ### Pages -/

theorem execPgpin_wf (k : Ctl) (d a b : Reg) : NextWf (execPgpin k d a b s) := by
  refine bounding_wf _ (fun s rid c h => ?_) h
  dsimp only
  (repeat' split) <;> simp -implicitDefEqProofs [h]

theorem execPgunpin_wf (k : Ctl) (d a b : Reg) : NextWf (execPgunpin k d a b s) := by
  refine bounding_wf _ (fun s rid c h => ?_) h
  dsimp only
  (repeat' split) <;> simp -implicitDefEqProofs [h]

theorem execPgcowMark_wf (k : Ctl) (d a b : Reg) : NextWf (execPgcowMark k d a b s) := by
  refine bounding_wf _ (fun s rid c h => ?_) h
  (repeat' split) <;> simp [h]

theorem execPgcowClear_wf (k : Ctl) (d a b : Reg) : NextWf (execPgcowClear k d a b s) := by
  refine bounding_wf _ (fun s rid c h => ?_) h
  (repeat' split) <;> simp [h]

theorem execPgqNext_wf (k : Ctl) (d a : Reg) : NextWf (execPgqNext k d a s) := by
  refine bounding_wf _ (fun s rid c h => ?_) h
  dsimp only
  (repeat' split) <;> simp [h, State.writeNum_wf]

theorem execPgqDone_wf (k : Ctl) (d a : Reg) : NextWf (execPgqDone k d a s) := by
  refine bounding_wf _ (fun s rid c h => ?_) h
  dsimp only
  (repeat' split) <;> simp [h]

theorem execPgqFail_wf (k : Ctl) (d a : Reg) : NextWf (execPgqFail k d a s) := by
  refine bounding_wf _ (fun s rid c h => ?_) h
  (repeat' split) <;> grind -ring [State.finish_mem, State.answer_mem, State.freeEntry_wf, State.failWaiter_wf, OkWf, NextWf,
    State.foldl_mem, State.foldl_wf]

theorem execPgqInval_wf (k : Ctl) (d a : Reg) : NextWf (execPgqInval k d a s) := by
  refine bounding_wf _ (fun s rid c h => ?_) h
  dsimp only
  (repeat' split) <;> simp [h]

theorem execSmap_wf (k : Ctl) (d a b : Reg) : NextWf (execSmap k d a b s) := by
  refine bounding_wf _ (fun s rid c h => ?_) h
  dsimp only
  (repeat' split) <;> simp [h]

theorem execSflushWb_wf (k : Ctl) (a b : Reg) : NextWf (execSflushWb k a b s) := by
  refine bounding_wf _ (fun s rid c h => ?_) h
  (repeat' split) <;> simp [h]

theorem execSflushInv_wf (k : Ctl) (a b : Reg) : NextWf (execSflushInv k a b s) := by
  refine bounding_wf _ (fun s rid c h => ?_) h
  dsimp only
  (repeat' split) <;> simp [h]

/-! ### Contexts -/

theorem execModuleBoot_wf : NextWf (execModuleBoot s) := by
  unfold execModuleBoot
  (repeat' split) <;> simp [h]

theorem execCtxCreate_wf : NextWf (execCtxCreate s) := by
  refine ctxCommand_wf h (fun _ => ?_)
  (repeat' split) <;> simp -implicitDefEqProofs [h]

theorem execCtxActivate_wf : NextWf (execCtxActivate s) := by
  refine ctxCommand_wf h (fun _ => ?_)
  split <;> simp [h]

theorem execCtxSuspend_wf : NextWf (execCtxSuspend s) := by
  refine ctxCommand_wf h (fun _ => ?_)
  split <;> simp [h]

theorem execCtxResume_wf : NextWf (execCtxResume s) := by
  refine ctxCommand_wf h (fun _ => ?_)
  dsimp only
  (repeat' split) <;> simp [h]

theorem execCtxClear_wf : NextWf (execCtxClear s) := by
  refine ctxCommand_wf h (fun _ => ?_)
  split <;> simp [h]

theorem execCtxDestroy_wf : NextWf (execCtxDestroy s) := by
  refine atCtx_wf h (fun _ => ?_)
  dsimp only
  (repeat' split) <;> simp [h]

theorem execUnknownCommand_wf : NextWf (execUnknownCommand s) := by
  unfold execUnknownCommand
  split <;> simp -implicitDefEqProofs [h]

theorem execContextFault_wf : NextWf (execContextFault s) := by
  unfold execContextFault
  dsimp only
  (repeat' split) <;> simp [h]

theorem execSuspensionComplete_wf : NextWf (execSuspensionComplete s) := by
  refine atCtx_wf h (fun _ => ?_)
  dsimp only
  (repeat' split) <;> simp [h]

/-! ### Issue order and results -/

theorem execPendingToActive_wf : NextWf (execPendingToActive s) := by
  refine atSide_wf h (fun _ _ => ?_)
  split <;> simp [h]

theorem execLongStallSwap_wf : NextWf (execLongStallSwap s) := by
  refine atSide_wf h (fun _ _ => ?_)
  split <;> simp [h]

theorem execPendingAgeSwap_wf : NextWf (execPendingAgeSwap s) := by
  refine atSide_wf h (fun _ _ => ?_)
  (repeat' split) <;> simp [h]

theorem execSwapComplete_wf : NextWf (execSwapComplete s) := by
  refine atSide_wf h (fun _ _ => ?_)
  dsimp only
  (repeat' split) <;> simp [h]

theorem execIssuePick_wf : NextWf (execIssuePick s) := by
  refine atSide_wf h (fun _ _ => ?_)
  dsimp only
  (repeat' split) <;> simp [h]

theorem execResultWriteback_wf : NextWf (execResultWriteback s) := by
  unfold execResultWriteback
  (repeat' split) <;> simp [h]

theorem execFuGroupServe_wf : NextWf (execFuGroupServe s) := by
  refine atSide_wf h (fun _ _ => ?_)
  dsimp only
  (repeat' split) <;> simp [h]

theorem execFuResultWrite_wf : NextWf (execFuResultWrite s) := by
  unfold execFuResultWrite
  (repeat' split) <;> simp [h]

theorem execPcSample_wf : NextWf (execPcSample s) := by
  unfold execPcSample
  (repeat' split) <;> simp [h]

/-! ### Crews that come and go -/

theorem execCrewResident_wf : NextWf (execCrewResident s) := by
  refine atCrew_wf h (fun _ _ => ?_)
  (repeat' split) <;> simp [h]

theorem execPreciseTrapEntry_wf : NextWf (execPreciseTrapEntry s) := by
  refine atCrew_wf h (fun _ _ => ?_)
  (repeat' split) <;> simp [h]

theorem execImpreciseFault_wf : NextWf (execImpreciseFault s) := by
  unfold execImpreciseFault
  dsimp only
  (repeat' split) <;> simp [h]

theorem execCrewExit_wf : NextWf (execCrewExit s) := by
  refine atCrew_wf h (fun _ _ => ?_)
  split <;> simp [h]

theorem execCrewCancel_wf : NextWf (execCrewCancel s) := by
  refine atCrew_wf h (fun _ _ => ?_)
  dsimp only
  (repeat' split) <;> simp [h]

/-! ### Code, launches, queues and kernels -/

theorem execFjmp_wf (k : Ctl) (a : Reg) (n : BitVec 14) : NextWf (execFjmp k a n s) := by
  refine bounding_wf _ (fun s rid c h => ?_) h
  dsimp only
  (repeat' split) <;> simp [h]

theorem execCfetch_wf (k : Ctl) (a b : Reg) (n : BitVec 14) : NextWf (execCfetch k a b n s) := by
  refine bounding_wf _ (fun s rid c h => ?_) h
  dsimp only
  (repeat' split) <;> simp [h]

theorem execCinv_wf (k : Ctl) (n : BitVec 14) : NextWf (execCinv k n s) := by
  refine bounding_wf _ (fun s rid c h => ?_) h
  dsimp only
  (repeat' split) <;> simp [h]

theorem execLaunch_wf (k : Ctl) (d a : Reg) : NextWf (execLaunch k d a s) := by
  refine bounding_wf _ (fun s rid c h => ?_) h
  dsimp only
  (repeat' split) <;> simp [h]

theorem execQctlHold_wf (k : Ctl) (d a : Reg) : NextWf (execQctlHold k d a s) :=
  bounding_wf _ (fun _ => qctl_wf k d a 2 (fun t c q r ht e => by cases e; simpa using ht)) h

theorem execQctlRelease_wf (k : Ctl) (d a : Reg) : NextWf (execQctlRelease k d a s) :=
  bounding_wf _ (fun _ => qctl_wf k d a 2 (fun t c q r ht e => by cases e; simpa using ht)) h

theorem execQctlFlush_wf (k : Ctl) (d a : Reg) : NextWf (execQctlFlush k d a s) :=
  bounding_wf _ (fun _ => qctl_wf k d a 2 (fun t c q r ht e => by cases e; exact State.flushQueue_wf q ht)) h

theorem execQctlClass_wf (k : Ctl) (d a b : Reg) : NextWf (execQctlClass k d a b s) := by
  refine bounding_wf _ (fun s rid c h => ?_) h
  split
  · simp
  · exact qctl_wf k d a 2 (fun t c q r ht e => by cases e; simpa using ht) rid c h

theorem execQctlQuery_wf (k : Ctl) (d a : Reg) : NextWf (execQctlQuery k d a s) :=
  bounding_wf _ (fun _ => qctl_wf k d a 0 (fun t c q r ht e => by cases e; simpa using ht)) h

theorem execKstopStop_wf (k : Ctl) (d a : Reg) : NextWf (execKstopStop k d a s) :=
  bounding_wf _ (fun _ => kstop_wf k d a _ (fun t y ht => by simpa using ht)) h

theorem execKstopKill_wf (k : Ctl) (d a : Reg) : NextWf (execKstopKill k d a s) :=
  bounding_wf _ (fun _ => kstop_wf k d a _ (fun t y ht => by unfold State.killNow; split <;> simp [ht])) h

theorem execKstopResume_wf (k : Ctl) (d a : Reg) : NextWf (execKstopResume k d a s) :=
  bounding_wf _ (fun _ => kstop_wf k d a _ (fun _ y ht => State.resumeNow_wf y ht)) h

theorem execKq_wf (k : Ctl) (d a : Reg) : NextWf (execKq k d a s) := by
  refine bounding_wf _ (fun s rid c h => ?_) h
  dsimp only
  (repeat' split) <;> simp [h]

theorem execLeave_wf (k : Ctl) (d a : Reg) : NextWf (execLeave k d a s) := by
  refine bounding_wf _ (fun s rid c h => ?_) h
  dsimp only
  (repeat' split) <;> simp [h]

theorem execNotify_wf (k : Ctl) (a b : Reg) : NextWf (execNotify k a b s) := by
  refine bounding_wf _ (fun s rid c h => ?_) h
  dsimp only
  (repeat' split) <;> simp [h]

/-! ### Admission and placing -/

theorem execKernelDependenceMet_wf : NextWf (execKernelDependenceMet s) := by
  refine atKernel_wf h (fun _ => ?_)
  simp [h]

theorem execCandidateAged_wf : NextWf (execCandidateAged s) := by
  refine atKernel_wf h (fun _ => ?_)
  (repeat' split) <;> simp [h]

theorem execCoxChoose_wf : NextWf (execCoxChoose s) := by
  unfold execCoxChoose
  simp [h]

theorem execAdmissionGrant_wf : NextWf (execAdmissionGrant s) := by
  refine atKernel_wf h (fun _ => ?_)
  dsimp only
  (repeat' split) <;> simp [h]

theorem execGovernorRequest_wf : NextWf (execGovernorRequest s) := by
  refine atDie_wf h (fun _ => ?_)
  dsimp only
  (repeat' split) <;> simp [h]

theorem execCoxPreempt_wf : NextWf (execCoxPreempt s) := by
  refine atKernel_wf h (fun _ => ?_)
  (repeat' split) <;> simp [h]

theorem execKernelPlacing_wf : NextWf (execKernelPlacing s) := by
  refine atKernel_wf h (fun k => ?_)
  split
  · exact h
  · split
    · dsimp only
      split <;> simp -implicitDefEqProofs [h]
    · simp [h]
    · simp [h]
    · simp [h]

theorem execLaunchSegmentFetched_wf : NextWf (execLaunchSegmentFetched s) := by
  unfold execLaunchSegmentFetched
  (repeat' split) <;> simp +contextual [State.foldl_wf, h]

theorem execCrewPlace_wf : NextWf (execCrewPlace s) := by
  have hg {o : Option State} (ho : ∀ t, o = some t → t.mem = s.mem) : Memory.wf (o.getD s).mem = true := by
    cases o with
    | none => exact h
    | some t => simpa [ho t rfl] using h
  unfold execCrewPlace
  split
  · split
    · exact (nextWf_next _).2 (hg (fun t e => State.placeOn_mem _ _ _ e))
    · simpa using h
  · split
    · split
      · simpa using h
      · exact (nextWf_next _).2 (hg (fun t e => State.placeAll_mem _ _ e))
    · simpa using h
  · simpa using h

theorem execKernelStopMessage_wf : NextWf (execKernelStopMessage s) := by
  refine atKernel_wf h (fun _ => ?_)
  split <;> simp [h]

theorem execCrewSave_wf : NextWf (execCrewSave s) := by
  unfold execCrewSave
  (repeat' split) <;> simp [h]

theorem execStopCutComplete_wf : NextWf (execStopCutComplete s) := by
  refine atKernel_wf h (fun _ => ?_)
  dsimp only
  (repeat' split) <;> simp [h]

theorem execKernelRetire_wf : NextWf (execKernelRetire s) := by
  refine atKernel_wf h (fun _ => ?_)
  simp [h]

theorem execUrgencyUpdate_wf : NextWf (execUrgencyUpdate s) := by
  refine atKernel_wf h (fun _ => ?_)
  simp [h]

/-! ### Engine units and ENCODE -/

theorem execEngineUnitLand_wf : NextWf (execEngineUnitLand s) := by
  have hs (t : State) (m : Cmd) (ht : Memory.wf t.mem = true) : Memory.wf (match t.readList m with
      | .error u => u
      | .ok u => match u.cmds.find? (fun (x : Cmd) => decide (x.id = m.id)) with | some x => u.nextUnit x | none => u).mem = true := by
    split
    · next hr => exact State.readList_wf _ ht (.inr hr)
    · next hr =>
      have hu := State.readList_wf _ ht (.inl hr)
      split <;> simp [hu]
  refine atCmd_wf h (fun m => ?_)
  dsimp only
  split
  · exact h
  · split
    · exact h
    · split
      · exact State.nextUnit_wf _ (by split <;> simpa using h)
      · exact hs _ _ (by split <;> simpa using h)

theorem execEngineCommandComplete_wf : NextWf (execEngineCommandComplete s) := by
  refine atCmd_wf h (fun _ => ?_)
  dsimp only
  (repeat' split) <;> simp [h]

theorem execEngineBatchRaise_wf : NextWf (execEngineBatchRaise s) := by
  unfold execEngineBatchRaise
  split <;> simp [h]

theorem execCfetchComplete_wf : NextWf (execCfetchComplete s) := by
  refine atCmd_wf h (fun _ => ?_)
  (repeat' split) <;> simp [h]

theorem execEncodeStart_wf : NextWf (execEncodeStart s) := by
  refine atCmd_wf h (fun _ => ?_)
  dsimp only
  (repeat' split) <;> simp [h]

theorem execEncodeDone_wf : NextWf (execEncodeDone s) := by
  refine atCmd_wf h (fun m => ?_)
  split
  · exact h
  · dsimp only
    split
    · simpa using h
    · split
      · next hn => exact State.need_wf _ _ _ _ (by simpa using h) hn
      · split
        · next he => exact State.encodeWrites_wf _ _ _ (by simpa using h) (.inr he)
        · next he => exact State.encodeEnds_wf _ _ _ (State.encodeWrites_wf _ _ _ (by simpa using h) (.inl he))
    · exact State.encodeEnds_wf _ _ _ (by simpa using h)

/-! ### Messages from the host -/

theorem execPlofoAck_wf : NextWf (execPlofoAck s) := by
  refine hostMessage_wf _ h (fun s m t h e => ?_)
  cases e
  grind -ring [State.hostAck_mem, OkWf, NextWf]

theorem execPlofoQuery_wf : NextWf (execPlofoQuery s) := by
  refine hostMessage_wf _ h (fun s m t h e => ?_)
  cases e
  grind -ring [State.takeAck_mem, State.sendPlain_mem, OkWf, NextWf]

theorem execPlofoWrite_wf : NextWf (execPlofoWrite s) := by
  refine hostMessage_wf _ h (fun s m t h e => ?_)
  grind -ring [State.hostWritable_wf, State.hostFail_mem, State.ctxFault_mem, State.broadcast_mem,
    State.writePieces_wf, State.drawOrder_mem, OkWf, NextWf]

theorem execPlofoRead_wf : NextWf (execPlofoRead s) := by
  refine hostMessage_wf _ h (fun s m t h e => ?_)
  (repeat' split at e) <;> cases e <;> grind -ring [State.hostFail_mem, State.ctxFault_mem, State.sendOrWait_mem,
    State.drawOrder_mem, OkWf, NextWf]

theorem execPlofoLaunch_wf : NextWf (execPlofoLaunch s) := by
  refine hostMessage_wf _ h (fun s m t h e => ?_)
  (repeat' split at e) <;> grind -ring [State.hostFail_mem, State.complete_mem, State.ctxFault_mem, State.postKernel_mem,
    OkWf, NextWf]

theorem execPlofoSignalArrive_wf : NextWf (execPlofoSignalArrive s) := by
  refine hostMessage_wf _ h (fun s m t h e => ?_)
  grind -ring [State.hostFail_mem, State.signal_wf, OkWf, NextWf]

theorem execPlofoSignalRaise_wf : NextWf (execPlofoSignalRaise s) := by
  refine hostMessage_wf _ h (fun s m t h e => ?_)
  cases e
  grind -ring [State.signal_wf, OkWf, NextWf]

theorem execFrameDrop_wf : NextWf (execFrameDrop s) := by
  unfold execFrameDrop
  dsimp only
  (repeat' split) <;> simp [h]

theorem execReplayResendTimeout_wf : NextWf (execReplayResendTimeout s) := by
  unfold execReplayResendTimeout
  split <;> simp [h]

theorem execTelemetry_wf : NextWf (execTelemetry s) := by
  unfold execTelemetry
  dsimp only
  (repeat' split) <;> simp [h]

/-! ### Peers and checkpoints -/

theorem execXput_wf (k : Ctl) (w : Width) (a b : Reg) : NextWf (execXput k w a b s) := by
  refine bounding_wf _ (fun s rid c h => ?_) h
  dsimp only
  (repeat' split) <;> simp [h]

theorem execXget_wf (k : Ctl) (w : Width) (d a : Reg) : NextWf (execXget k w d a s) := by
  refine bounding_wf _ (fun s rid c h => ?_) h
  dsimp only
  (repeat' split) <;> simp [h]

theorem execXred_wf (k : Ctl) (op : RmwOp) (ty : Ty) (a b : Reg) (n : BitVec 14) : NextWf (execXred k op ty a b n s) := by
  refine bounding_wf _ (fun s rid c h => ?_) h
  dsimp only
  (repeat' split) <;> simp [h]

theorem execXsigArr_wf (k : Ctl) (a b : Reg) : NextWf (execXsigArr k a b s) := by
  refine bounding_wf _ (fun s rid c h => ?_) h
  dsimp only
  (repeat' split) <;> grind -ring [State.finish_mem, State.xsig_mem, OkWf, NextWf]

theorem execXsigMax_wf (k : Ctl) (a b : Reg) : NextWf (execXsigMax k a b s) := by
  refine bounding_wf _ (fun s rid c h => ?_) h
  (repeat' split) <;> grind -ring [State.finish_mem, State.xsig_mem, OkWf, NextWf]

theorem execXfence_wf (k : Ctl) : NextWf (execXfence k s) := by
  refine bounding_wf _ (fun s rid c h => ?_) h
  split <;> simp [h]

theorem execXprobe_wf (k : Ctl) (d a : Reg) : NextWf (execXprobe k d a s) := by
  refine bounding_wf _ (fun s rid c h => ?_) h
  dsimp only
  (repeat' split) <;> simp [h]

theorem execCkptCut_wf (k : Ctl) (d a : Reg) : NextWf (execCkptCut k d a s) := by
  refine bounding_wf _ (fun s rid c h => ?_) h
  dsimp only
  (repeat' split) <;> grind -ring [State.finish_mem, State.result_mem, State.makeWritable_wf, State.cutLeaves_wf,
    State.writeNum_wf, OkWf, NextWf]

theorem execCkptBack_wf (k : Ctl) (d a : Reg) : NextWf (execCkptBack k d a s) := by
  -- the walks over the snapshot slots are variables here, so that no check of the case split runs them
  obtain ⟨restore, hr⟩ : ∃ restore, restore = State.restore := ⟨_, rfl⟩
  obtain ⟨there, ht⟩ : ∃ there, there = State.snapsThere := ⟨_, rfl⟩
  have hw (s t : State) (ctx n lane k inside) (h : Memory.wf s.mem = true) (e : restore ctx n lane inside k s = .ok t) :
      Memory.wf t.mem = true := by
    rw [hr] at e
    exact State.restore_wf _ _ _ _ _ h e
  rw [execCkptBack, ← hr, ← ht]
  refine bounding_wf _ (fun s rid c h => ?_) h
  dsimp only
  split
  · simpa using h
  · split
    · simp
    · split
      · simp
      · simpa using h
      · split
        · simpa using h
        · split
          · simpa using h
          · split
            · simp
            · simpa using h
            · split
              · simp
              · split
                · simp
                · next e =>
                  have ht := hw _ _ _ _ _ _ _ (State.foldl_wf (fun t r ht => State.clearLeaves_wf _ _ (by simpa using ht)) _ h) e
                  simpa using ht

/-! ### Packets from peers, ports and reach -/

theorem execPeerAccessPerform_wf : NextWf (execPeerAccessPerform s) := by
  unfold execPeerAccessPerform
  dsimp only
  (repeat' split) <;> simp [h]

theorem execXredCellApply_wf : NextWf (execXredCellApply s) := by
  unfold execXredCellApply
  dsimp only
  (repeat' split) <;> simp [h, State.writeNum_wf]

theorem execPeerAck_wf : NextWf (execPeerAck s) := by
  unfold execPeerAck
  dsimp only
  (repeat' split) <;> simp [h]

theorem execPortEnSet_wf : NextWf (execPortEnSet s) := by
  refine atPort_wf h (fun _ => ?_)
  split <;> simp [h]

theorem execPortEnClear_wf : NextWf (execPortEnClear s) := by
  refine atPort_wf h (fun _ => ?_)
  split <;> simp [h]

theorem execPortTrained_wf : NextWf (execPortTrained s) := by
  unfold execPortTrained
  (repeat' split) <;> simp -implicitDefEqProofs [h]

theorem execPortTrainingTimeout_wf : NextWf (execPortTrainingTimeout s) := by
  refine atPort_wf h (fun _ => ?_)
  split <;> simp [h]

theorem execPortRetryLimit_wf : NextWf (execPortRetryLimit s) := by
  refine atPort_wf h (fun _ => ?_)
  split <;> simp [h]

theorem execPortSignalSeen_wf : NextWf (execPortSignalSeen s) := by
  refine atPort_wf h (fun _ => ?_)
  split <;> simp [h]

theorem execCorruptedFlit_wf : NextWf (execCorruptedFlit s) := by
  unfold execCorruptedFlit
  (repeat' split) <;> simp -implicitDefEqProofs [h, apply_ite State.mem]

theorem execHeartbeatArrive_wf : NextWf (execHeartbeatArrive s) := by
  unfold execHeartbeatArrive
  (repeat' split) <;> simp -implicitDefEqProofs [h]

theorem execHeartbeatSend_wf : NextWf (execHeartbeatSend s) := by
  refine atPort_wf h (fun _ => ?_)
  split <;> simp [h]

theorem execHeartbeatPeriodMissed_wf : NextWf (execHeartbeatPeriodMissed s) := by
  unfold execHeartbeatPeriodMissed
  dsimp only
  (repeat' split) <;> simp [h]

/-! ### Walks and copies -/

theorem execTlbWalk_wf : NextWf (execTlbWalk s) := by
  unfold execTlbWalk
  dsimp only
  (repeat' split) <;> simp [h]

theorem execFaultQueueJoin_wf : NextWf (execFaultQueueJoin s) := by
  refine atCrew_wf h (fun _ _ => ?_)
  (repeat' split) <;> simp [h]

theorem execKvCopyOnWrite_wf : NextWf (execKvCopyOnWrite s) := by
  unfold execKvCopyOnWrite
  dsimp only
  split <;> simp [h]

theorem execCheckpointCowCopy_wf : NextWf (execCheckpointCowCopy s) := by
  unfold execCheckpointCowCopy
  dsimp only
  (repeat' split) <;> grind -ring [State.ckptCopy_wf, State.afterCopy_wf, State.serveBars_wf, State.barsExhausted_wf,
    State.redsExhausted_wf, OkWf, NextWf]

theorem execKvCountFree_wf : NextWf (execKvCountFree s) := by
  refine atEntry_wf h (fun _ => ?_)
  (repeat' split) <;> simp [h]

/-! ### The matrix pipe, reductions and leave -/

theorem execMmaAccept_wf : NextWf (execMmaAccept s) := by
  refine atCrew_wf h (fun _ _ => ?_)
  dsimp only
  (repeat' split) <;> simp [h]

theorem execMmaPipeFree_wf : NextWf (execMmaPipeFree s) := by
  refine atBay_wf h (fun _ => ?_)
  dsimp only
  split <;> simp [h]

theorem execReductionApply_wf : NextWf (execReductionApply s) := by
  refine atEntry_wf h (fun _ => ?_)
  (repeat' split) <;> simp [h]

theorem execMatrixBatchRaise_wf : NextWf (execMatrixBatchRaise s) := by
  unfold execMatrixBatchRaise
  split <;> simp [h]

theorem execLinePoisoned_wf : NextWf (execLinePoisoned s) := by
  unfold execLinePoisoned
  (repeat' split) <;> simp [h]

theorem execLeaveWindow_wf : NextWf (execLeaveWindow s) := by
  refine atBay_wf h (fun _ => ?_)
  simp [h]

theorem execLeaveRaiseAnswer_wf : NextWf (execLeaveRaiseAnswer s) := by
  unfold execLeaveRaiseAnswer
  dsimp only
  (repeat' split) <;> simp [h]

theorem execLeaveGrantArrive_wf : NextWf (execLeaveGrantArrive s) := by
  unfold execLeaveGrantArrive
  (repeat' split) <;> grind -ring [State.leaveAnswered_mem, State.leaveResult_mem, OkWf, NextWf, State.foldl_mem, State.foldl_wf]

/-! ### Power, temperature and scrubs -/

theorem execPlimitWrite_wf : NextWf (execPlimitWrite s) := by
  unfold execPlimitWrite
  split <;> simp -implicitDefEqProofs [h]

theorem execThermalTripSet_wf : NextWf (execThermalTripSet s) := by
  unfold execThermalTripSet
  (repeat' split) <;> simp [h]

theorem execThermalTripClear_wf : NextWf (execThermalTripClear s) := by
  unfold execThermalTripClear
  (repeat' split) <;> simp [h]

theorem execHbmPatrolScrub_wf : NextWf (execHbmPatrolScrub s) := by
  unfold execHbmPatrolScrub
  split <;> simp [h]

theorem execSramScrub_wf : NextWf (execSramScrub s) := by
  unfold execSramScrub
  split <;> simp [h]

/-! ### Queue commands -/

theorem execQueueOpen_wf : NextWf (execQueueOpen s) := by
  refine queueCommand_wf h (fun q => ?_)
  dsimp only
  (repeat' split) <;> simp -implicitDefEqProofs [h]

theorem execQueueHold_wf : NextWf (execQueueHold s) := by
  refine queueCommand_wf h (fun _ => ?_)
  simp [h]

theorem execQueueRelease_wf : NextWf (execQueueRelease s) := by
  refine queueCommand_wf h (fun _ => ?_)
  simp [h]

theorem execQueueFlush_wf : NextWf (execQueueFlush s) := by
  refine queueCommand_wf h (fun _ => ?_)
  simp [h]

theorem execQueueClose_wf : NextWf (execQueueClose s) := by
  refine queueCommand_wf h (fun q => ?_)
  (repeat' split) <;> simp -implicitDefEqProofs [h]

theorem execQueueReconf_wf : NextWf (execQueueReconf s) := by
  refine queueCommand_wf h (fun _ => ?_)
  (repeat' split) <;> simp [h]

theorem execRsvWrite_wf : NextWf (execRsvWrite s) := by
  unfold execRsvWrite
  (repeat' split) <;> grind -ring [State.setFld_mem, State.kick_mem, State.judgeFit_wf, OkWf, NextWf, State.foldl_mem,
    State.foldl_wf]

theorem execSystemRecordWrite_wf : NextWf (execSystemRecordWrite s) := by
  unfold execSystemRecordWrite
  (repeat' split) <;> simp [h, State.write_wf]

/-! ### Tree pages and templates -/

theorem execTreeNodesFree_wf : NextWf (execTreeNodesFree s) := by
  refine atEntry_wf h (fun _ => ?_)
  split <;> simp [h]

theorem execTemplatePublish_wf : NextWf (execTemplatePublish s) := by
  unfold execTemplatePublish
  dsimp only
  (repeat' split) <;> simp [h, State.writeNum_wf]

/-! ### Trees -/

theorem execTshape_wf (k : Ctl) (d a b : Reg) : NextWf (execTshape k d a b s) := by
  refine bounding_wf _ (fun s rid c h => ?_) h
  dsimp only
  (repeat' split) <;> simp [h]

theorem execTfork_wf (k : Ctl) (d a b c' : Reg) : NextWf (execTfork k d a b c' s) := by
  refine bounding_wf _ (fun s rid c h => ?_) h
  dsimp only
  split
  · simpa using h
  · split
    · simp
    · split
      · simp
      · exact State.onTree_wf _ _ _ _ _ (fun _ _ => State.treeFork_wf _ _ _ _ _ h) h

theorem execTprune_wf (k : Ctl) (d a b : Reg) : NextWf (execTprune k d a b s) := by
  refine bounding_wf _ (fun s rid c h => ?_) h
  split
  · simpa using h
  · split
    · simp
    · split
      · simp
      · exact State.onTree_wf _ _ _ _ _ (fun _ _ => State.treePrune_wf _ _ _ _ h) h

theorem execTcommit_wf (k : Ctl) (d a b : Reg) : NextWf (execTcommit k d a b s) := by
  refine bounding_wf _ (fun s rid c h => ?_) h
  split
  · simpa using h
  · split
    · simp
    · split
      · simp
      · exact State.onTree_wf _ _ _ _ _ (fun _ _ => State.treeCommit_wf _ _ _ _ h) h

theorem execTmask_wf (k : Ctl) (d a b : Reg) : NextWf (execTmask k d a b s) := by
  refine bounding_wf _ (fun s rid c h => ?_) h
  (repeat' split) <;> simp [h]

theorem execTmaskVfy_wf (k : Ctl) (d a b : Reg) : NextWf (execTmaskVfy k d a b s) := by
  refine bounding_wf _ (fun s rid c h => ?_) h
  dsimp only
  (repeat' split) <;> simp [h]

theorem execTinfoLo_wf (k : Ctl) (d a b : Reg) : NextWf (execTinfoLo k d a b s) := by
  refine bounding_wf _ (fun s rid c h => ?_) h
  (repeat' split) <;> grind -ring [State.treeDone_mem, State.treeInfo_mem, OkWf, NextWf]

theorem execTinfoHi_wf (k : Ctl) (d a b : Reg) : NextWf (execTinfoHi k d a b s) := by
  refine bounding_wf _ (fun s rid c h => ?_) h
  (repeat' split) <;> grind -ring [State.treeDone_mem, State.treeInfo_mem, OkWf, NextWf]

theorem execTinfoTree_wf (k : Ctl) (d a b : Reg) : NextWf (execTinfoTree k d a b s) := by
  refine bounding_wf _ (fun s rid c h => ?_) h
  dsimp only
  (repeat' split) <;> simp [h]

theorem execTacc_wf (k : Ctl) (d a b c' : Reg) : NextWf (execTacc k d a b c' s) := by
  have hl (tp : ℕ) (c : Crew) (l : List ℕ) (r : State × List ℕ × List (ℕ × Word)) (hr : Memory.wf r.1.mem = true) :
      Memory.wf (l.foldl (fun (r : State × List ℕ × List (ℕ × Word)) l =>
        let (t, ns, v) := r.1.judgeNode tp r.2.1 (c.v32 b l) (c.v32 c' l)
        (t, ns, r.2.2 ++ cellsAt 1 d.toNat l v)) r).1.mem = true := by
    induction l generalizing r with
    | nil => exact hr
    | cons p l ih => exact ih _ (State.judgeNode_wf _ _ _ _ hr)
  refine bounding_wf _ (fun s rid c h => ?_) h
  dsimp only
  (repeat' split) <;> simp [h, hl]

theorem execTappend_wf (k : Ctl) (d a b : Reg) : NextWf (execTappend k d a b s) := by
  refine bounding_wf _ (fun s rid c h => ?_) h
  split
  · simpa using h
  · split
    · simp
    · split
      · simp
      · exact State.onTree_wf _ _ _ _ _ (fun _ _ => State.treeAppend_wf _ _ _ _ h) h

theorem execTnew_wf (k : Ctl) (d a : Reg) : NextWf (execTnew k d a s) := by
  refine bounding_wf _ (fun s rid c h => ?_) h
  split
  · simpa using h
  · split
    · simp
    · split
      · simp
      · next e => simpa using State.treeNew_wf _ _ _ h e

theorem execTfree_wf (k : Ctl) (d a : Reg) : NextWf (execTfree k d a s) := by
  refine bounding_wf _ (fun s rid c h => ?_) h
  split
  · simpa using h
  · split
    · simp
    · exact State.onTree_wf _ _ _ _ _ (fun _ _ => State.treeFree_wf _ _ _ h) h

end

/-- Every instruction and every event keeps the canonical form of memory. -/
theorem exec_wf (i : Instr) {s : State} (h : Memory.wf s.mem = true) : NextWf (exec i s) := by
  cases i with
  | nop | bra | brx | bdiv | join | call | exit | rte | bkpt | yieldHint | cut | emrd | emwr | sread | swrite | lget | lset | iadd
  | isub | iaddx | imul | imulh | imad | iabs | imin | imax | iclamp | icmp | isel | csub | lea | mov | movi | shl | shr | sar
  | shf | and | or | xor | andn | bfx | bfi | popc | clz | brev | prmt | fadd | fsub | fmul | fma | fmin | fmax | fcmp | frnd
  | fclass | fscale | dadd | dmul | dfma | dcmp | dotf4 | dotf6 | dotf8 | doth | doti8 | doti4 | cvt | pack | unpack | mxscale
  | rand | fsint | fcost | fexp2 | flog2 | frcp | frsq | fsqrt | ftanh | rmax | rsum | rstat | smxup | shfl | ballot | vote | lred
  | lscan | laneMatch | bcast | elect | ld | st | red | pref | mfence | sumrd | sumred | sumq | barinitPh | barinitTl | barinitEng
  | arrive | expect | tladvMax | tladvAdd | barq | trace => exact ordinary_wf _ _ h
  | ret => exact execRet_wf h _ _
  | fjmp => exact execFjmp_wf h _ _ _
  | cfetch => exact execCfetch_wf h _ _ _ _
  | cinv => exact execCinv_wf h _ _
  | trap => exact execTrap_wf h _ _
  | allot => exact execAllot_wf h _ _ _
  | atom => exact execAtom_wf h _ _ _ _ _ _ _ _
  | mwait => exact execMwait_wf h _ _ _ _ _ _
  | mma => exact execMma_wf h _ _ _ _ _ _ _ _
  | mbatch => exact execMbatch_wf h _ _
  | sumdeclDecl => exact execSumdeclDecl_wf h _ _ _
  | sumdeclFree => exact execSumdeclFree_wf h _ _
  | sumdeclTl => exact execSumdeclTl_wf h _ _
  | sumrdClr => exact execSumrdClr_wf h _ _ _ _ _
  | sumz => exact execSumz_wf h _ _ _
  | sumdrain => exact execSumdrain_wf h _ _ _ _
  | wait => exact execWait_wf h _ _ _
  | copy => exact execCopy_wf h _ _
  | gather => exact execGather_wf h _ _
  | scatter => exact execScatter_wf h _ _
  | encode => exact execEncode_wf h _ _
  | batch => exact execBatch_wf h _ _
  | tshape => exact execTshape_wf h _ _ _ _
  | tfork => exact execTfork_wf h _ _ _ _ _
  | tprune => exact execTprune_wf h _ _ _ _
  | tcommit => exact execTcommit_wf h _ _ _ _
  | tmask => exact execTmask_wf h _ _ _ _
  | tmaskVfy => exact execTmaskVfy_wf h _ _ _ _
  | tinfoLo => exact execTinfoLo_wf h _ _ _ _
  | tinfoHi => exact execTinfoHi_wf h _ _ _ _
  | tinfoTree => exact execTinfoTree_wf h _ _ _ _
  | tacc => exact execTacc_wf h _ _ _ _ _
  | tappend => exact execTappend_wf h _ _ _ _
  | tnew => exact execTnew_wf h _ _ _
  | tfree => exact execTfree_wf h _ _ _
  | pgpin => exact execPgpin_wf h _ _ _ _
  | pgunpin => exact execPgunpin_wf h _ _ _ _
  | pgcowMark => exact execPgcowMark_wf h _ _ _ _
  | pgcowClear => exact execPgcowClear_wf h _ _ _ _
  | pgqNext => exact execPgqNext_wf h _ _ _
  | pgqDone => exact execPgqDone_wf h _ _ _
  | pgqFail => exact execPgqFail_wf h _ _ _
  | pgqInval => exact execPgqInval_wf h _ _ _
  | smap => exact execSmap_wf h _ _ _ _
  | sflushWb => exact execSflushWb_wf h _ _ _
  | sflushInv => exact execSflushInv_wf h _ _ _
  | xput => exact execXput_wf h _ _ _ _
  | xget => exact execXget_wf h _ _ _ _
  | xred => exact execXred_wf h _ _ _ _ _ _
  | xsigArr => exact execXsigArr_wf h _ _ _
  | xsigMax => exact execXsigMax_wf h _ _ _
  | xfence => exact execXfence_wf h _
  | xprobe => exact execXprobe_wf h _ _ _
  | launch => exact execLaunch_wf h _ _ _
  | qctlHold => exact execQctlHold_wf h _ _ _
  | qctlRelease => exact execQctlRelease_wf h _ _ _
  | qctlFlush => exact execQctlFlush_wf h _ _ _
  | qctlClass => exact execQctlClass_wf h _ _ _ _
  | qctlQuery => exact execQctlQuery_wf h _ _ _
  | kstopStop => exact execKstopStop_wf h _ _ _
  | kstopKill => exact execKstopKill_wf h _ _ _
  | kstopResume => exact execKstopResume_wf h _ _ _
  | kq => exact execKq_wf h _ _ _
  | leave => exact execLeave_wf h _ _ _
  | notify => exact execNotify_wf h _ _ _
  | ckptCut => exact execCkptCut_wf h _ _ _
  | ckptBack => exact execCkptBack_wf h _ _ _
  | bpset => exact execBpset_wf h _ _ _ _
  | bpclr => exact execBpclr_wf h _ _
  | stamp => exact execStamp_wf h _ _ _
  | moduleBoot => exact execModuleBoot_wf h
  | systemRecordWrite => exact execSystemRecordWrite_wf h
  | ctxCreate => exact execCtxCreate_wf h
  | ctxActivate => exact execCtxActivate_wf h
  | ctxSuspend => exact execCtxSuspend_wf h
  | suspensionComplete => exact execSuspensionComplete_wf h
  | ctxResume => exact execCtxResume_wf h
  | ctxDestroy => exact execCtxDestroy_wf h
  | ctxClear => exact execCtxClear_wf h
  | unknownCommand => exact execUnknownCommand_wf h
  | contextFault => exact execContextFault_wf h
  | queueOpen => exact execQueueOpen_wf h
  | queueHold => exact execQueueHold_wf h
  | queueRelease => exact execQueueRelease_wf h
  | queueFlush => exact execQueueFlush_wf h
  | queueClose => exact execQueueClose_wf h
  | queueReconf => exact execQueueReconf_wf h
  | rsvWrite => exact execRsvWrite_wf h
  | plofoAck => exact execPlofoAck_wf h
  | plofoWrite => exact execPlofoWrite_wf h
  | plofoRead => exact execPlofoRead_wf h
  | plofoLaunch => exact execPlofoLaunch_wf h
  | plofoSignalArrive => exact execPlofoSignalArrive_wf h
  | plofoSignalRaise => exact execPlofoSignalRaise_wf h
  | plofoQuery => exact execPlofoQuery_wf h
  | frameDrop => exact execFrameDrop_wf h
  | replayResendTimeout => exact execReplayResendTimeout_wf h
  | telemetry => exact execTelemetry_wf h
  | kernelDependenceMet => exact execKernelDependenceMet_wf h
  | candidateAged => exact execCandidateAged_wf h
  | coxChoose => exact execCoxChoose_wf h
  | admissionGrant => exact execAdmissionGrant_wf h
  | governorRequest => exact execGovernorRequest_wf h
  | coxPreempt => exact execCoxPreempt_wf h
  | kernelPlacing => exact execKernelPlacing_wf h
  | launchSegmentFetched => exact execLaunchSegmentFetched_wf h
  | crewPlace => exact execCrewPlace_wf h
  | crewResident => exact execCrewResident_wf h
  | pendingToActive => exact execPendingToActive_wf h
  | longStallSwap => exact execLongStallSwap_wf h
  | pendingAgeSwap => exact execPendingAgeSwap_wf h
  | swapComplete => exact execSwapComplete_wf h
  | issuePick => exact execIssuePick_wf h
  | urgencyUpdate => exact execUrgencyUpdate_wf h
  | resultWriteback => exact execResultWriteback_wf h
  | fuGroupServe => exact execFuGroupServe_wf h
  | fuResultWrite => exact execFuResultWrite_wf h
  | preciseTrapEntry => exact execPreciseTrapEntry_wf h
  | impreciseFault => exact execImpreciseFault_wf h
  | kernelStopMessage => exact execKernelStopMessage_wf h
  | crewSave => exact execCrewSave_wf h
  | stopCutComplete => exact execStopCutComplete_wf h
  | kernelRetire => exact execKernelRetire_wf h
  | crewExit => exact execCrewExit_wf h
  | strokeCommit => exact execStrokeCommit_wf h
  | localCommit => exact execLocalCommit_wf h
  | signatureSquash => exact execSignatureSquash_wf h
  | orderLogCheckpoint => exact execOrderLogCheckpoint_wf h
  | replayDigestCheck => exact execReplayDigestCheck_wf h
  | heldStrokeStart => exact execHeldStrokeStart_wf h
  | shadowSpaceGrant => exact execShadowSpaceGrant_wf h
  | shadowDeadlockSquash => exact execShadowDeadlockSquash_wf h
  | mwaitWake => exact execMwaitWake_wf h
  | waitTableRecheck => exact execWaitTableRecheck_wf h
  | tlbWalk => exact execTlbWalk_wf h
  | faultQueueJoin => exact execFaultQueueJoin_wf h
  | kvCopyOnWrite => exact execKvCopyOnWrite_wf h
  | checkpointCowCopy => exact execCheckpointCowCopy_wf h
  | kvCountFree => exact execKvCountFree_wf h
  | mmaAccept => exact execMmaAccept_wf h
  | mmaPipeFree => exact execMmaPipeFree_wf h
  | reductionApply => exact execReductionApply_wf h
  | matrixBatchRaise => exact execMatrixBatchRaise_wf h
  | linePoisoned => exact execLinePoisoned_wf h
  | leaveWindow => exact execLeaveWindow_wf h
  | leaveRaiseAnswer => exact execLeaveRaiseAnswer_wf h
  | leaveGrantArrive => exact execLeaveGrantArrive_wf h
  | allotGrant => exact execAllotGrant_wf h
  | allotDeadlockFail => exact execAllotDeadlockFail_wf h
  | engineUnitLand => exact execEngineUnitLand_wf h
  | engineCommandComplete => exact execEngineCommandComplete_wf h
  | engineBatchRaise => exact execEngineBatchRaise_wf h
  | cfetchComplete => exact execCfetchComplete_wf h
  | encodeStart => exact execEncodeStart_wf h
  | encodeDone => exact execEncodeDone_wf h
  | crewCancel => exact execCrewCancel_wf h
  | treeNodesFree => exact execTreeNodesFree_wf h
  | templatePublish => exact execTemplatePublish_wf h
  | peerAccessPerform => exact execPeerAccessPerform_wf h
  | xredCellApply => exact execXredCellApply_wf h
  | peerAck => exact execPeerAck_wf h
  | portEnSet => exact execPortEnSet_wf h
  | portEnClear => exact execPortEnClear_wf h
  | portTrained => exact execPortTrained_wf h
  | portTrainingTimeout => exact execPortTrainingTimeout_wf h
  | heartbeatArrive => exact execHeartbeatArrive_wf h
  | heartbeatSend => exact execHeartbeatSend_wf h
  | heartbeatPeriodMissed => exact execHeartbeatPeriodMissed_wf h
  | portRetryLimit => exact execPortRetryLimit_wf h
  | portSignalSeen => exact execPortSignalSeen_wf h
  | plimitWrite => exact execPlimitWrite_wf h
  | thermalTripSet => exact execThermalTripSet_wf h
  | thermalTripClear => exact execThermalTripClear_wf h
  | hbmPatrolScrub => exact execHbmPatrolScrub_wf h
  | sramScrub => exact execSramScrub_wf h
  | stampRecordWrite => exact execStampRecordWrite_wf h
  | pcSample => exact execPcSample_wf h
  | moduleReset => exact execModuleReset_wf s
  | corruptedFlit => exact execCorruptedFlit_wf h

/-! ### Steps -/

@[simp] theorem State.tick_mem (s : State) : s.tick.mem = s.mem := by
  unfold State.tick
  dsimp only
  split <;> simp

/-- The choice of what comes next leaves memory. -/
@[simp] theorem State.plan_mem (s : State) : s.plan.mem = s.mem := by
  unfold State.plan
  cases s.power with
  | reset => simp
  | failed => dsimp only; split <;> simp
  | up =>
    dsimp only
    cases s.due with
    | some h => simp
    | none => dsimp only; split <;> simp

/-- A step keeps the canonical form of memory: the choice and the issue write nothing, and `exec` keeps it. -/
theorem step_wf {s : State} (h : Memory.wf s.mem = true) : NextWf (step s) := by
  unfold step
  split
  · simpa using h
  · exact exec_wf _ h
  · dsimp only
    split
    · simpa using h
    · split
      · rw [nextWf_next]
        exact State.takeTrap_wf _ _ h
      · exact exec_wf _ h

/-! ### Memories in canonical form are given by what they read -/

section
variable {α : Type}

@[simp] theorem Tbl.getD_cons_self (j : ℕ) (v d : α) (t : Tbl α) : Tbl.getD ((j, v) :: t) j d = v := by
  simp [Tbl.getD]

theorem Tbl.getD_cons_ne {j k : ℕ} (v d : α) (t : Tbl α) (h : j ≠ k) : Tbl.getD ((j, v) :: t) k d = Tbl.getD t k d := by
  simp [Tbl.getD, h]

/-- A key below the bound of a rising table reads as the default. -/
theorem Tbl.getD_of_lt {b k : ℕ} {t : Tbl α} (d : α) (h : Tbl.risingFrom b t = true) (hk : k < b) : Tbl.getD t k d = d := by
  simp [Tbl.getD, Tbl.get?_of_lt h hk]

@[simp] theorem Tbl.risingFrom_cons (b j : ℕ) (v : α) (t : Tbl α) :
    Tbl.risingFrom b ((j, v) :: t) = true ↔ b ≤ j ∧ Tbl.risingFrom (j + 1) t = true := by
  simp [Tbl.risingFrom]

/-- Rising tables without default entries that read alike at every key are equal: of two different first keys the smaller
would read as its entry in one table and as the default in the other. -/
theorem Tbl.ext_of_risingFrom (d : α) {m n : Tbl α} {b : ℕ} (hm : Tbl.risingFrom b m = true) (hn : Tbl.risingFrom b n = true)
    (dm : ∀ p ∈ m, p.2 ≠ d) (dn : ∀ p ∈ n, p.2 ≠ d) (hg : ∀ k, Tbl.getD m k d = Tbl.getD n k d) : m = n := by
  induction m generalizing n b with
  | nil =>
    cases n with
    | nil => rfl
    | cons q n => exact absurd ((Tbl.getD_cons_self q.1 q.2 d n).symm.trans (hg q.1).symm) (dn q (by simp))
  | cons p m ih =>
    obtain ⟨i, v⟩ := p
    have hv : v ≠ d := dm (i, v) (by simp)
    cases n with
    | nil => exact absurd ((Tbl.getD_cons_self i v d m).symm.trans (hg i)) hv
    | cons q n =>
      obtain ⟨j, w⟩ := q
      have hw : w ≠ d := dn (j, w) (by simp)
      obtain ⟨-, rm⟩ := (Tbl.risingFrom_cons b i v m).mp hm
      obtain ⟨-, rn⟩ := (Tbl.risingFrom_cons b j w n).mp hn
      obtain hij | rfl | hij := Nat.lt_trichotomy i j
      · have hi := hg i
        rw [Tbl.getD_cons_self, Tbl.getD_of_lt d ((Tbl.risingFrom_cons j j w n).mpr ⟨le_rfl, rn⟩) hij] at hi
        exact absurd hi hv
      · have hvw := hg i
        rw [Tbl.getD_cons_self, Tbl.getD_cons_self] at hvw
        have htail (k : ℕ) : Tbl.getD m k d = Tbl.getD n k d := by
          by_cases hk : k = i
          · rw [hk, Tbl.getD_of_lt d rm (by omega), Tbl.getD_of_lt d rn (by omega)]
          · simpa [Tbl.getD_cons_ne _ _ _ (Ne.symm hk)] using hg k
        rw [hvw, ih rm rn (fun p hp => dm p (by simp [hp])) (fun p hp => dn p (by simp [hp])) htail]
      · have hj := hg j
        rw [Tbl.getD_cons_self, Tbl.getD_of_lt d ((Tbl.risingFrom_cons i i v m).mpr ⟨le_rfl, rm⟩) hij] at hj
        exact absurd hj.symm hw

end

/-- Memories in canonical form that read alike at every address are equal. -/
theorem Memory.ext_of_wf {m n : Memory} (hm : Memory.wf m = true) (hn : Memory.wf n = true)
    (h : ∀ a, Memory.byte m a = Memory.byte n a) : m = n := by
  simp only [Memory.wf, Tbl.canon, Bool.and_eq_true, List.all_eq_true, decide_eq_true_eq] at hm hn
  exact Tbl.ext_of_risingFrom 0#8 hm.1 hn.1 hm.2 hn.2 h

/-- Settles O8: only `State.write` changes memory, and it keeps the canonical form; so do every helper, every arm of `exec`
and every step. A canonical table is given by what it reads. -/
theorem stepKeepsMemory : Obligations.StepKeepsMemory :=
  ⟨fun _ t h e => step_wf h t e, fun _ _ => Memory.ext_of_wf⟩

end Sys2Proof.Machine
end

section
namespace Sys2Proof.Machine

/-! ## The choice of what comes next, and the clk that passes -/

/-- Reading a table all of whose entries an update maps, in their places. -/
theorem Tbl.get?_map {α β : Type} (f : ℕ → α → β) (t : Tbl α) (k : ℕ) :
    Tbl.get? (t.map fun p => (p.1, f p.1 p.2)) k = (Tbl.get? t k).map (f k) := by
  induction t with
  | nil => rfl
  | cons p t ih =>
    obtain ⟨j, v⟩ := p
    by_cases h : j = k
    · simp [h]
    · simp [h, ih]

/-- The choice puts one event on the agenda, or one clk passes. -/
theorem State.plan_eq_next_or_tick (s : State) : (∃ h, s.plan = s.next h) ∨ s.plan = s.tick := by
  unfold State.plan
  cases s.power with
  | reset => exact .inl ⟨_, rfl⟩
  | failed =>
    dsimp only
    split
    · exact .inl ⟨_, rfl⟩
    · exact .inr rfl
  | up =>
    dsimp only
    cases s.due with
    | some h => exact .inl ⟨h, rfl⟩
    | none =>
      dsimp only
      split
      · exact .inl ⟨_, rfl⟩
      · exact .inr rfl

/-- What a clk makes of a wait: nothing, or the end of a retry, or that of a SUMDECL.free that waits for nothing (R298). -/
theorem State.waitOver_eq (s : State) (rid : ℕ) (c : Crew) :
    let d := s.waitOver rid c
    d = { c with ready := d.ready, wait := d.wait, pc := d.pc } ∧
      (d.wait = c.wait ∧ d.pc = c.pc ∨ c.wait = .retry ∧ d.wait = .none ∧ d.pc = c.pc ∨
        ∃ base lines, c.wait = .freeing base lines ∧ s.freeDone (c.ctx s) base lines = true ∧ d.wait = .none ∧ d.pc = s.nextPc rid c) := by
  unfold State.waitOver
  split
  · next h => exact ⟨rfl, .inr (.inl ⟨h, rfl, rfl⟩)⟩
  · next base lines h =>
    split
    · next hd => exact ⟨rfl, .inr (.inr ⟨base, lines, h, hd, rfl, rfl⟩)⟩
    · exact ⟨rfl, .inl ⟨rfl, rfl⟩⟩
  · exact ⟨rfl, .inl ⟨rfl, rfl⟩⟩

/-- Beyond the end of a wait a clk sets only a crew's marks for the issue. -/
theorem State.crewTick_eq (s : State) (rid : ℕ) (c : Crew) :
    let d := s.crewTick rid c
    d = { s.waitOver rid c with ready := d.ready, stalled := d.stalled, flagWait := d.flagWait } := by
  unfold State.crewTick
  dsimp only
  split <;> rfl

/-- The state in which a clk looks at the crews: the clock and the sensors have gone on (R13, R429). -/
def State.clocked (s : State) : State :=
  let t := { s with clock := s.clock + 1, fresh := s.fresh + 1 }
  if t.clock % msClk = 0 then t.sense else t

theorem State.tick_eq (s : State) :
    s.tick = { s.clocked with crews := s.clocked.crews.map fun p => (p.1, s.clocked.crewTick p.1 p.2) } := rfl

theorem State.clocked_eq (s : State) :
    let t := s.clocked
    t = { s with clock := s.clock + 1, fresh := s.fresh + 1, watts := t.watts, temp0 := t.temp0, temp1 := t.temp1, coolant := t.coolant } := by
  unfold State.clocked
  dsimp only
  split <;> rfl

theorem State.clocked_sensors {s : State} (h : (s.clock + 1) % msClk ≠ 0) :
    s.clocked.watts = s.watts ∧ s.clocked.temp0 = s.temp0 ∧ s.clocked.temp1 = s.temp1 ∧ s.clocked.coolant = s.coolant := by
  simp [State.clocked, h]

@[simp] theorem State.clocked_clock (s : State) : s.clocked.clock = s.clock + 1 := by
  rw [State.clocked_eq]

@[simp] theorem State.clocked_crews (s : State) : s.clocked.crews = s.crews := by
  rw [State.clocked_eq]

@[simp] theorem State.clocked_nextPc (s : State) (rid : ℕ) (c : Crew) : s.clocked.nextPc rid c = s.nextPc rid c := by
  rw [State.clocked_eq]; rfl

@[simp] theorem State.clocked_freeDone (s : State) (ctx base lines : ℕ) : s.clocked.freeDone ctx base lines = s.freeDone ctx base lines := by
  rw [State.clocked_eq]; rfl

@[simp] theorem State.clocked_ctx (s : State) (c : Crew) : c.ctx s.clocked = c.ctx s := by
  rw [State.clocked_eq]; rfl

/-- What a clk makes of a crew: its marks for the issue, and the end of a wait. -/
theorem State.crewTick_clocked (s : State) (rid : ℕ) (c : Crew) :
    let d := s.clocked.crewTick rid c
    d = { c with ready := d.ready, stalled := d.stalled, flagWait := d.flagWait, wait := d.wait, pc := d.pc } ∧
      (d.wait = c.wait ∧ d.pc = c.pc ∨ c.wait = .retry ∧ d.wait = .none ∧ d.pc = c.pc ∨
        ∃ base lines, c.wait = .freeing base lines ∧ s.freeDone (c.ctx s) base lines = true ∧ d.wait = .none ∧ d.pc = s.nextPc rid c) := by
  obtain ⟨hw, hends⟩ := s.clocked.waitOver_eq rid c
  have ht := s.clocked.crewTick_eq rid c
  dsimp only at hw hends ht ⊢
  generalize s.clocked.crewTick rid c = d at ht ⊢
  generalize s.clocked.waitOver rid c = w at ht hw hends
  have hwait : d.wait = w.wait := by rw [ht]
  have hpc : d.pc = w.pc := by rw [ht]
  rw [hwait, hpc]
  refine ⟨?_, by simpa using hends⟩
  rw [ht, hw]

/-- Settles O7: a choice is `State.next`, which sets the agenda, or `State.tick`, which passes the clk to the sensors and to
every crew. -/
theorem choosingChangesNothing : Obligations.ChoosingChangesNothing := by
  refine ⟨fun s ha => ⟨s.plan, by rw [step, ha], ?_⟩, fun s t ht => ⟨rfl, ?_⟩⟩
  · obtain ⟨⟨p, i⟩, hp⟩ | hp := s.plan_eq_next_or_tick
    · rw [hp]
      exact ⟨rfl, fun _ => ⟨rfl, rfl, rfl, rfl⟩, .inl ⟨rfl, rfl, p, i, rfl⟩⟩
    · rw [hp, State.tick_eq]
      refine ⟨?_, fun h => ?_, .inr ⟨?_, ?_, fun rid => ?_⟩⟩
      · rw [State.clocked_eq]
      · obtain h | h := h
        · exact State.clocked_sensors h
        · exact absurd (s.clocked_clock.symm.trans h) (Nat.succ_ne_self _)
      · exact s.clocked_clock
      · rw [State.clocked_eq]
        exact ha
      · rw [State.clocked_crews, Tbl.get?_map]
        cases s.crews.get? rid with
        | none => trivial
        | some c => exact s.crewTick_clocked rid c
  · unfold State.time
    omega

/-! ## The state after reset (R428) -/

/-- After reset every record reads its table's reset value. -/
@[simp] theorem State.rcd_reset (tab : SysTab) (n : ℕ) : State.reset.rcd tab n = tab.reset := rfl

@[simp] theorem State.fld_reset (tab : SysTab) (n : ℕ) (f : Fld) : State.reset.fld tab n f = f.get tab.reset := rfl

/-- Only the port records, the link header and the power record have a reset value other than zero. -/
theorem SysTab.reset_eq_zero {tab : SysTab} (hp : tab ≠ .port) (hl : tab ≠ .link) (hw : tab ≠ .power) : tab.reset = 0 := by
  cases tab with
  | port | link | power => contradiction
  | context | queue | cox | pool | shape | member | exports | comparator | debug | region | tree | count => rfl

/-- Settles O11: of each table the reset value is evaluated. -/
theorem resetState : Obligations.ResetState := by
  have port : ∀ f ∈ [Port.state, Port.en, Port.missed, Port.lastbeat, Port.crcerr, Port.retries], f.get SysTab.port.reset = 0 := by
    decide
  have link : ∀ f ∈ [Lnk.epoch, Lnk.evbar], f.get SysTab.link.reset = 0 := by decide +kernel
  have power : ∀ f ∈ [Pwr.held0, Pwr.held1, Pwr.trip0, Pwr.trip1], f.get SysTab.power.reset = 0 := by decide
  exact ⟨rfl, rfl, rfl, rfl, fun _ => rfl, rfl, rfl, rfl, rfl, rfl, rfl, by decide +kernel, fun p _ => State.rcd_reset .port p, by decide,
    fun _ _ => port, link, power, fun _ _ => SysTab.reset_eq_zero⟩

end Sys2Proof.Machine
end

section
namespace Sys2Proof.Laws

open Machine Claims

/-! ## A bounding instruction whose crew has no stroke left -/

section
variable {i : Instr} {k : Ctl} {e : Enc} {body : BBody} {s : State} {rid : ℕ} {c : Crew}

theorem close_of_quiet (h : c.strokes = []) (clk : ℕ) : c.close clk = c := by
  rw [Crew.close, h, List.map_nil, ← h]

theorem bounding_of_ok (he : enc i = some (k, e)) (h : Bounding s rid c i) {t : State}
    (hb : body (begun s rid c) rid c = .ok t) : bounding i body s = .next t := by
  have hi : s.issueBounding rid c k e body = t := by
    rw [State.issueBounding, h.range k e he]
    dsimp only
    rw [close_of_quiet h.quiet, h.quiet, if_pos List.isEmpty_nil]
    split
    · next hx => cases hx.symm.trans hb
    · next ht => exact Except.ok.inj (ht.symm.trans hb)
  rw [bounding, h.place]
  dsimp only
  rw [h.crew, he]
  dsimp only
  rw [hi]

theorem bounding_of_error (he : enc i = some (k, e)) (h : Bounding s rid c i) {x : Stop}
    (hb : body (begun s rid c) rid c = .error x) : bounding i body s = .next ((begun s rid c).stopAt rid x) := by
  have hi : s.issueBounding rid c k e body = (begun s rid c).stopAt rid x := by
    rw [State.issueBounding, h.range k e he]
    dsimp only
    rw [close_of_quiet h.quiet, h.quiet, if_pos List.isEmpty_nil]
    split
    · next hx =>
      cases hx.symm.trans hb
      rfl
    · next ht => cases ht.symm.trans hb
  rw [bounding, h.place]
  dsimp only
  rw [h.crew, he]
  dsimp only
  rw [hi]

/-- A trap that a body finds is taken at once. -/
theorem trapsNow_of_error (he : enc i = some (k, e)) (h : Bounding s rid c i) (hx : exec i s = bounding i body s)
    {kind aux addr lane : ℕ} (hb : body (begun s rid c) rid c = .error (c.trapAt kind aux addr lane)) :
    TrapsNow i s rid c kind aux addr lane := by
  rw [TrapsNow, hx, bounding_of_error he h hb]
  rfl

end

section
variable {s : State} {rid : ℕ} {c : Crew}

theorem begun_crew (h : s.crews.get? rid = some c) : (begun s rid c).crews.get? rid = some c := by
  rw [begun, State.setCrew_crew_self, h]
  rfl

theorem begun_crew_ne (c : Crew) {r : ℕ} (h : r ≠ rid) : (begun s rid c).crews.get? r = s.crews.get? r :=
  State.setCrew_crew_ne _ _ h.symm

/-- Cells written by a crew without strokes: its registers and the races of its outstanding results. -/
theorem writeNow_of_quiet (h : c.strokes = []) (n : ℕ) (cells : List (ℕ × Word)) :
    c.writeNow n cells none = { c with regs := writeCells c.regs cells, pends := c.pends.map (Pend.raced (cells.map Prod.fst)) } := by
  rw [Crew.writeNow, h, List.map_nil, ← h]
  rfl

/-- A body that ends with `finish`, whatever it posts, finishes its instruction. -/
theorem finishes_of_finish {i : Instr} {k j : Ctl} {e : Enc} {body : BBody} {s' t u : State} {x : Crew} {cells : List (ℕ × Word)}
    (he : enc i = some (k, e)) (h : Bounding s rid c i) (hx : exec i s = bounding i body s) (hb : body (begun s rid c) rid c = .ok t)
    (hq : x.strokes = []) (ht : t.crews = (u.finish rid j x cells).crews) (hu : u.crews = (begun s rid c).crews)
    (hs : t = { s' with crews := t.crews, fresh := t.fresh, serial := t.serial }) (hs' : s'.crews = s.crews) :
    Finishes i s s' rid x cells := by
  have hd : t.crews.get? rid = some { ((x.writeNow u.serial cells none).issued j u.clock) with
      skip := false, wait := .none, mmaRun := x.mmaRun.map MmaRun.passed } := by
    rw [ht, State.finish, State.setCrew_crew_self, hu, begun_crew h.crew]
    rfl
  refine ⟨t, _, hx.trans (bounding_of_ok he h hb), hd, ⟨hs, fun r hr => ?_⟩, ?_⟩
  · rw [ht, State.finish, State.setCrew_crew_ne _ _ hr.symm, hu, begun_crew_ne c hr, hs']
  · rw [writeNow_of_quiet hq]
    rfl

/-! ### Operands that every active lane holds -/

theorem lanesOf_ne_nil {m : LaneMask} (h : m ≠ 0#32) : lanesOf m ≠ [] := by
  intro hm
  refine h (BitVec.eq_of_getLsbD_eq fun l hl => ?_)
  simpa using List.filter_eq_nil_iff.mp hm l (List.mem_range.mpr hl)

/-- The lowest active lane is active, where any lane is. -/
theorem low_mem_active (h : c.em ≠ 0#32) : c.low ∈ c.active := by
  unfold Crew.low Crew.active
  cases hl : lanesOf c.em with
  | nil => exact absurd hl (lanesOf_ne_nil h)
  | cons l ls => simp

theorem uniform_of_forall {v : ℕ} {l : List ℕ} (h : ∀ x ∈ l, x = v) : uniform l = true := by
  cases l with
  | nil => rfl
  | cons x xs =>
    simp only [uniform, List.all_eq_true, decide_eq_true_eq]
    intro y hy
    rw [h y (by simp [hy]), h x (by simp)]

theorem uni_of_uniform {n v : ℕ} {r : Reg} (h : Uniform c n r v) : c.uni n r = true :=
  uniform_of_forall (v := v) (by simpa using h.2)

theorem uval_of_uniform {n v : ℕ} {r : Reg} (h : Uniform c n r v) : c.uval n r = v :=
  h.2 _ (low_mem_active h.1)

/-! ## MBATCH and MMA -/

theorem mbatch_finishes {k : Ctl} {d : Reg} (h : Bounding s rid c (.mbatch k d)) :
    let n := ((s.kern c.kernel).keepOf c.idx).mcount + 1
    Finishes (.mbatch k d) s ((s.setKern c.kernel (fun y => y.setKeep c.idx (fun e => { e with mcount := n, mopen := false }))).post
      (.kernelCrew c.kernel c.idx) .matrixBatchRaise) rid (goOn s rid c) (inActive c d n) :=
  finishes_of_finish (u := (begun s rid c).setKern c.kernel _) rfl h rfl rfl h.quiet rfl rfl rfl rfl

/-- The state in which a crew waits for the matrix pipe with its MMA. -/
def asksPipe (s : State) (rid : ℕ) (c : Crew) (job : MmaJob) : State :=
  (((begun s rid c).setCrew rid (fun _ => { c with mma := some job })).waitFor rid .pipe).postFirst (.crew rid) .mmaAccept

/-- A bounding instruction whose body asks for the pipe sleeps, its crew with the job. -/
theorem sleeps_of_asksPipe {i : Instr} {k : Ctl} {e : Enc} {body : BBody} {job : MmaJob} (he : enc i = some (k, e)) (h : Bounding s rid c i)
    (hx : exec i s = bounding i body s) (hb : body (begun s rid c) rid c = .ok (asksPipe s rid c job)) :
    Sleeps i s (s.postFirst (.crew rid) .mmaAccept) rid c .pipe ∧ Runs i s (fun t => ∃ y, t.crews.get? rid = some y ∧ y.mma = some job) := by
  have hr := hx.trans (bounding_of_ok he h hb)
  have hd : (asksPipe s rid c job).crews.get? rid = some { c with mma := some job, wait := .pipe, ready := none } := by
    refine (State.setCrew_crew_self _ _ _).trans ?_
    rw [State.setCrew_crew_self, begun_crew h.crew]
    rfl
  have ho : OnlyCrew (s.postFirst (.crew rid) .mmaAccept) (asksPipe s rid c job) rid := by
    refine ⟨by rw [asksPipe, begun]; rfl, fun r hne => ?_⟩
    refine (State.setCrew_crew_ne _ _ hne.symm).trans ?_
    rw [State.setCrew_crew_ne _ _ hne.symm, begun_crew_ne c hne]
    rfl
  exact ⟨⟨_, _, hr, hd, ho, rfl, rfl, rfl, rfl, rfl⟩, _, hr, _, hd, rfl⟩

section
variable {k : Ctl} {fmt : Ty} {reuse : Bool} {sel : BitVec 2} {d a b x : Reg}

/-- An MMA that has passed its checks waits for the pipe again. -/
theorem mma_again {j : MmaJob} (h : Bounding s rid c (.mma k fmt reuse sel d a b x)) (hm : c.mma = some j) :
    Sleeps (.mma k fmt reuse sel d a b x) s (s.postFirst (.crew rid) .mmaAccept) rid c .pipe ∧
      Runs (.mma k fmt reuse sel d a b x) s (fun t => ∃ y, t.crews.get? rid = some y ∧ y.mma = some j) := by
  refine sleeps_of_asksPipe rfl h rfl ?_
  dsimp only
  rw [hm]
  rfl

theorem mma_needs_all_lanes (h : Bounding s rid c (.mma k fmt reuse sel d a b x)) (hm : c.mma = none) (hem : c.em ≠ 0xFFFF_FFFF#32) :
    TrapsNow (.mma k fmt reuse sel d a b x) s rid c 0x016 c.em.toNat 0 c.low := by
  refine trapsNow_of_error rfl h rfl ?_
  dsimp only
  rw [hm]
  dsimp only
  rw [if_pos hem]
  rfl

theorem mma_checked {dst bsrc : ℕ} {r : Region} {l : List (ℕ × ℕ × ℕ)} (h : Bounding s rid c (.mma k fmt reuse sel d a b x))
    (hm : c.mma = none) (hem : c.em = 0xFFFF_FFFF#32) (hd : Uniform c 2 d dst) (hb : Uniform c 2 b bsrc)
    (ha : c.addrCheck' dst 128 c.low = none) (hs : (begun s rid c).sumCheck rid c dst 32768 c.low = .ok (r, l))
    (hB : (begun s rid c).bMapped rid c bsrc (mmaShape fmt).blen = true)
    (hout : bsrc + (mmaShape fmt).blen ≤ r.base ∨ r.base + 128 * r.lines ≤ bsrc) :
    Sleeps (.mma k fmt reuse sel d a b x) s (s.postFirst (.crew rid) .mmaAccept) rid c .pipe ∧
      Runs (.mma k fmt reuse sel d a b x) s (fun t => ∃ y, t.crews.get? rid = some y ∧ y.mma =
        some ⟨fmt, reuse, sel.toNat, a.toNat, x.toNat, dst, bsrc, k.set, (pieceLines l).map Prod.snd, c.pc, c.slot, [], k.yield, none⟩) := by
  refine sleeps_of_asksPipe rfl h rfl ?_
  have hover : ¬(bsrc < r.base + 128 * r.lines ∧ r.base < bsrc + (mmaShape fmt).blen) := by omega
  dsimp only
  rw [hm]
  dsimp only
  rw [if_neg (not_not.mpr hem), uni_of_uniform hd, uni_of_uniform hb, if_neg (by decide), uval_of_uniform hd, uval_of_uniform hb, ha]
  dsimp only
  rw [hs]
  dsimp only
  rw [hB, if_neg (by decide), if_neg hover]
  rfl

end

end

/-- Settles O30: MBATCH ends with `finish`; MMA asks for the pipe, with the job that it had or the one it has checked. -/
theorem matrixInstructions : Obligations.MatrixInstructions :=
  fun _ _ _ _ _ _ _ _ _ _ _ => ⟨mbatch_finishes, fun _ => mma_again, mma_needs_all_lanes, fun _ _ _ _ => mma_checked⟩

end Sys2Proof.Laws
end

section
namespace Sys2Proof.Machine

open Claims

/-! ## The matrix pipe (R16, R45, R294) -/

/-- A bay whose pipe takes an MMA of kernel k from a side, which leaves a latch. -/
def Bay.taken (y : Bay) (clk side k : ℕ) (latch : Option Latch) : Bay :=
  ({ y with pipeFree := clk + 16, pipeSide := some side, pipeLast := clk + 1,
            kerns := y.kerns.modify k (fun x => { x with window := windowOf clk, accepted := x.used clk + 1 }) }).setSide side
    (fun d => { d with latch := latch })

@[simp] theorem Bay.setSide_side_self (y : Bay) (n : ℕ) (f : Side → Side) : (y.setSide n f).side n = f (y.side n) := by
  unfold Bay.setSide Bay.side
  split <;> rfl

section
variable (y : Bay) (clk side k : ℕ) (latch : Option Latch)

@[simp] theorem Bay.taken_pipeFree : (y.taken clk side k latch).pipeFree = clk + 16 := by
  unfold Bay.taken Bay.setSide
  split <;> rfl

@[simp] theorem Bay.taken_pipeSide : (y.taken clk side k latch).pipeSide = some side := by
  unfold Bay.taken Bay.setSide
  split <;> rfl

@[simp] theorem Bay.taken_kerns : (y.taken clk side k latch).kerns =
    y.kerns.modify k (fun x => { x with window := windowOf clk, accepted := x.used clk + 1 }) := by
  unfold Bay.taken Bay.setSide
  split <;> rfl

@[simp] theorem Bay.taken_latch : ((y.taken clk side k latch).side side).latch = latch := by
  rw [Bay.taken, Bay.setSide_side_self]

end

theorem State.pipeTaken_bay (s : State) (rid k : ℕ) (latch : Option Latch) :
    (s.pipeTaken rid k latch).bay (ridBay rid) = (s.bay (ridBay rid)).taken s.clock (ridSide rid) k latch := by
  unfold State.pipeTaken State.onBayKernel State.setSide Bay.taken
  dsimp only
  rw [State.setBay_bay_self, State.setBay_bay_self, State.setBay_bay_self, State.setBay_clock]

/-- An MMA taken leaves the code of its crew where it was. -/
theorem State.nextPc_of_taken {s t : State} {rid clk side k : ℕ} {latch : Option Latch} (c : Crew)
    (h : t.bay (ridBay rid) = (s.bay (ridBay rid)).taken clk side k latch) : t.nextPc rid c = s.nextPc rid c := by
  have hc : t.codeOf rid c = s.codeOf rid c := by
    unfold State.codeOf State.codeSlot
    rw [h, Bay.taken_kerns]
    by_cases hk : k = c.kernel
    · rw [hk, Tbl.get?_modify_self]
      cases (s.bay (ridBay rid)).kerns.get? c.kernel <;> rfl
    · rw [Tbl.get?_modify_ne _ _ hk]
  rw [State.nextPc, State.nextPc, hc]

/-! ### Reductions issued -/

/-- A reduction to a line that is not poisoned comes last of those in flight. -/
theorem State.issueRed_eq {s : State} {r : Red} (h : lineOf r.pa ∉ s.poisoned) :
    s.issueRed r = { s with reds := s.reds ++ [r], kernels := (s.issueRed r).kernels } := by
  have hp : s.poisoned.contains (lineOf r.pa) = false := by simpa using h
  unfold State.issueRed
  dsimp only
  split
  · simp only [hp, Bool.false_eq_true, if_false]
  · simp only [State.setKern_poisoned, hp, Bool.false_eq_true, if_false]
    rfl

theorem State.foldl_issueRed_eq {reds : List Red} : ∀ {s : State}, (∀ r ∈ reds, lineOf r.pa ∉ s.poisoned) →
    reds.foldl State.issueRed s = { s with reds := s.reds ++ reds, kernels := (reds.foldl State.issueRed s).kernels } := by
  induction reds with
  | nil => intro s _; simp
  | cons r rs ih =>
    intro s h
    have hr := State.issueRed_eq (h r (by simp))
    rw [List.foldl_cons, ih (by rw [hr]; exact fun x hx => h x (by simp [hx])), hr]
    simp

theorem State.onWindow_eq (s : State) (k idx : ℕ) (f : Window → Window) :
    s.onWindow k idx f = { s with kernels := (s.onWindow k idx f).kernels } := by
  unfold State.onWindow
  (repeat' split) <;> rfl

theorem State.onWindow_reds (s : State) (k idx : ℕ) (f : Window → Window) : (s.onWindow k idx f).reds = s.reds := by
  rw [State.onWindow_eq]

theorem State.onWindow_crews (s : State) (k idx : ℕ) (f : Window → Window) : (s.onWindow k idx f).crews = s.crews := by
  rw [State.onWindow_eq]

theorem State.onWindow_bay (s : State) (k idx : ℕ) (f : Window → Window) (b : ℕ) : (s.onWindow k idx f).bay b = s.bay b := by
  rw [State.onWindow_eq]
  rfl

/-- An MMA that has a reduction in flight is not done. -/
theorem State.mmaDone_of_mem {s : State} {id : ℕ} {r : Red} (hr : r ∈ s.reds) (h : r.mma = some id) : s.mmaDone id = s := by
  rw [State.mmaDone, if_pos (List.any_eq_true.mpr ⟨r, hr, by simpa using h⟩)]

/-! ### Acceptance -/

/-- The pipe taken by an MMA of kernel k whose reductions are issued. -/
def State.issuing (s : State) (rid k : ℕ) (latch : Option Latch) (reds : List Red) (flag : MmaFlag) : State :=
  reds.foldl State.issueRed
    (State.pipeTaken { s with serial := s.serial + 1, fresh := s.fresh + 1, mmaFlags := s.mmaFlags ++ [flag] } rid k latch)

section
variable {s : State} {rid : ℕ} {k : ℕ} {latch : Option Latch} {reds : List Red} {flag : MmaFlag}

theorem State.issuing_eq (h : ∀ r ∈ reds, lineOf r.pa ∉ s.poisoned) :
    s.issuing rid k latch reds flag = { s with
      serial := s.serial + 1, fresh := s.fresh + 1, mmaFlags := s.mmaFlags ++ [flag], bays := (s.pipeTaken rid k latch).bays,
      reds := s.reds ++ reds, kernels := (s.issuing rid k latch reds flag).kernels } := by
  rw [State.issuing, State.foldl_issueRed_eq (by exact h)]
  rfl

theorem State.issuing_reds (h : ∀ r ∈ reds, lineOf r.pa ∉ s.poisoned) : (s.issuing rid k latch reds flag).reds = s.reds ++ reds := by
  rw [State.issuing_eq h]

theorem State.issuing_crews (h : ∀ r ∈ reds, lineOf r.pa ∉ s.poisoned) : (s.issuing rid k latch reds flag).crews = s.crews := by
  rw [State.issuing_eq h]

theorem State.issuing_bay (h : ∀ r ∈ reds, lineOf r.pa ∉ s.poisoned) :
    (s.issuing rid k latch reds flag).bay (ridBay rid) = (s.bay (ridBay rid)).taken s.clock (ridSide rid) k latch := by
  rw [State.issuing_eq h]
  exact State.pipeTaken_bay s rid k latch

end

section
variable {s : State} {rid : ℕ} {c : Crew} {j : MmaJob}

theorem mmaElems_ne_nil {p : ℕ} (h : p < 16) : mmaElems p ≠ [] := by
  have hm : (0, 8 * p) ∈ mmaElems p := by
    simp only [mmaElems, List.mem_flatMap, List.mem_map, List.mem_range]
    exact ⟨0, by omega, 0, by omega, 0, by omega, by simp⟩
  exact List.ne_nil_of_mem hm

/-- The reductions of an MMA that the pipe accepts. -/
def State.mmaReds (s : State) (rid : ℕ) (c : Crew) (j : MmaJob) : List Red :=
  (mmaElems (c.firstBlock j)).map (fun e => s.mmaRed rid c j (s.takeA rid c j) e.1 e.2)

/-- A crew past its MMA, which the pipe has under a number. -/
def Crew.pastMma (c : Crew) (j : MmaJob) (id p clk : ℕ) (latch : Option Latch) : Crew :=
  { (c.setFlag j.flag).mmaIssued j clk with
    resumed := if p = 0 then c.resumed else some id
    mmaRun := some ⟨id, j.pc, j.slot, p, clk, false, { j with used := latch }⟩ }

/-- The crew whose MMA the pipe accepts. -/
def State.mmaCrew (s : State) (rid : ℕ) (c : Crew) (j : MmaJob) : Crew :=
  ({ c with pc := s.nextPc rid c, wait := .none, ready := none } : Crew).pastMma j s.serial (c.firstBlock j) s.clock
    (if j.reuse then some (s.takeA rid c j) else none)

/-- A window in which an MMA that begins at block p starts. -/
def Window.mmaStarts (clk p : ℕ) (w : Window) : Window :=
  { w with mstart := some (w.mstart.getD clk), nmma := w.nmma + (if p = 0 then 1 else 0) }

/-- What the acceptance of an MMA comes to: its reductions in flight, its bay's pipe taken, its crew past it. -/
theorem State.acceptMma_spec (hc : s.crews.get? rid = some c) (hp : c.firstBlock j < 16)
    (h : ∀ r ∈ s.mmaReds rid c j, lineOf r.pa ∉ s.poisoned) :
    let t := s.acceptMma rid c j
    t.reds = s.reds ++ s.mmaReds rid c j ∧
      t.bay (ridBay rid) = (s.bay (ridBay rid)).taken s.clock (ridSide rid) c.kernel (if j.reuse then some (s.takeA rid c j) else none) ∧
      (∀ r, r ≠ rid → t.crews.get? r = s.crews.get? r) ∧ t.crews.get? rid = some (s.mmaCrew rid c j) := by
  intro t
  obtain ⟨l, hl⟩ : ∃ l, l = if j.reuse then some (s.takeA rid c j) else none := ⟨_, rfl⟩
  obtain ⟨u, hu⟩ : ∃ u, u = s.issuing rid c.kernel l (s.mmaReds rid c j) ⟨s.serial, rid, j.flag⟩ := ⟨_, rfl⟩
  obtain ⟨w, hw⟩ : ∃ w, w = u.onWindow c.kernel c.idx (Window.mmaStarts s.clock (c.firstBlock j)) := ⟨_, rfl⟩
  have hreds : w.reds = s.reds ++ s.mmaReds rid c j := by rw [hw, State.onWindow_reds, hu, State.issuing_reds h]
  have hcrews : w.crews = s.crews := by rw [hw, State.onWindow_crews, hu, State.issuing_crews h]
  have hbay : w.bay (ridBay rid) = (s.bay (ridBay rid)).taken s.clock (ridSide rid) c.kernel l := by
    rw [hw, State.onWindow_bay, hu, State.issuing_bay h]
  -- the MMA is not done, for it has a reduction in flight
  have ht : t = (w.resumeNext rid).setCrew rid (fun d => d.pastMma j s.serial (c.firstBlock j) s.clock l) := by
    have hd : t = ((w.resumeNext rid).setCrew rid (fun d => d.pastMma j s.serial (c.firstBlock j) s.clock l)).mmaDone s.serial := by
      rw [hw, hu, hl]
      rfl
    obtain ⟨e, he⟩ := List.exists_mem_of_ne_nil _ (mmaElems_ne_nil hp)
    rw [hd]
    exact State.mmaDone_of_mem (hreds ▸ List.mem_append_right _ (List.mem_map.mpr ⟨e, he, rfl⟩)) rfl
  rw [ht, ← hl]
  refine ⟨hreds, hbay, fun r hne => ?_, ?_⟩
  · rw [State.setCrew_crew_ne _ _ hne.symm, State.resumeNext, State.setCrew_crew_ne _ _ hne.symm, hcrews]
  · rw [State.setCrew_crew_self, State.resumeNext, State.setCrew_crew_self, hcrews, hc, Option.map_some, Option.map_some,
      State.nextPc_of_taken c hbay, State.mmaCrew, hl]

end

section
variable {s : State} {rid : ℕ} {c : Crew} {j : MmaJob}

/-- A crew whose MMA's blocks, left behind by a stop, the pipe has under a number. -/
def Crew.pastRest (c : Crew) (j : MmaJob) (id clk : ℕ) : Crew :=
  { c with mma := none, wait := .retry, resumed := some id, mmaRun := some ⟨id, j.pc, j.slot, c.progress, clk, true, j⟩ }

/-- What the acceptance of the blocks that a stop left behind comes to. -/
theorem State.acceptRest_spec (hc : s.crews.get? rid = some c) (hj : j.rest ≠ []) {lines : List ℕ}
    (h : ∀ r ∈ s.restReds rid j lines, lineOf r.pa ∉ s.poisoned) :
    let t := s.acceptRest rid c j lines
    t.reds = s.reds ++ s.restReds rid j lines ∧
      t.bay (ridBay rid) = (s.bay (ridBay rid)).taken s.clock (ridSide rid) c.kernel
        (if j.reuse then j.used.map (fun l => { l with owner := rid }) else none) ∧
      (∀ r, r ≠ rid → t.crews.get? r = s.crews.get? r) ∧ t.crews.get? rid = some (c.pastRest j s.serial s.clock) := by
  intro t
  obtain ⟨l, hl⟩ : ∃ l, l = if j.reuse then j.used.map (fun l => { l with owner := rid }) else none := ⟨_, rfl⟩
  obtain ⟨u, hu⟩ : ∃ u, u = s.issuing rid c.kernel l (s.restReds rid j lines) ⟨s.serial, rid, none⟩ := ⟨_, rfl⟩
  have hreds : u.reds = s.reds ++ s.restReds rid j lines := by rw [hu, State.issuing_reds h]
  have hcrews : u.crews = s.crews := by rw [hu, State.issuing_crews h]
  have hbay : u.bay (ridBay rid) = (s.bay (ridBay rid)).taken s.clock (ridSide rid) c.kernel l := by rw [hu, State.issuing_bay h]
  have ht : t = u.setCrew rid (fun d => d.pastRest j s.serial s.clock) := by
    have hd : t = (u.setCrew rid (fun d => d.pastRest j s.serial s.clock)).mmaDone s.serial := by
      rw [hu, hl]
      rfl
    obtain ⟨e, he⟩ := List.exists_mem_of_ne_nil _ hj
    rw [hd]
    exact State.mmaDone_of_mem (hreds ▸ List.mem_append_right _ (List.mem_map.mpr ⟨e, he, rfl⟩)) rfl
  rw [ht, ← hl]
  refine ⟨hreds, hbay, fun r hne => ?_, ?_⟩
  · rw [State.setCrew_crew_ne _ _ hne.symm, hcrews]
  · rw [State.setCrew_crew_self, hcrews, hc]
    rfl

/-! ### MmaAccept -/

/-- MmaAccept at the place of a crew that is there. -/
theorem exec_mmaAccept (hp : s.place = .crew rid) (hc : s.crews.get? rid = some c) {f : ℕ → Crew → State}
    (hf : execMmaAccept s = atCrew s f) : exec .mmaAccept s = .next (f rid c) := by
  show execMmaAccept s = _
  rw [hf, atCrew, hp]
  dsimp only
  rw [hc]

theorem mmaAccept_takes (hp : s.place = .crew rid) (hc : s.crews.get? rid = some c) (hw : c.wait = .pipe) (hj : c.mma = some j)
    (hr : j.rest = []) (ha : s.mmaAllowed (ridBay rid) c.kernel = true) (ht : s.pipeTakes (ridBay rid) (ridSide rid) = true) :
    exec .mmaAccept s = .next (s.acceptMma rid c j) := by
  refine (exec_mmaAccept hp hc rfl).trans ?_
  simp [hw, hj, hr, ha, ht]

theorem mmaAccept_pipe_taken (hp : s.place = .crew rid) (hc : s.crews.get? rid = some c) (hw : c.wait = .pipe) (hj : c.mma = some j)
    (ha : s.mmaAllowed (ridBay rid) c.kernel = true) (ht : s.pipeTakes (ridBay rid) (ridSide rid) = false) :
    exec .mmaAccept s = .next (s.setCrew rid (fun c => { c with wait := .none })) := by
  refine (exec_mmaAccept hp hc rfl).trans ?_
  simp [hw, hj, ha, ht]

section
variable (hp : s.place = .crew rid) (hc : s.crews.get? rid = some c) (hw : c.wait = .pipe) (hj : c.mma = some j)
  (ha : s.mmaAllowed (ridBay rid) c.kernel = false) {x : BayKernel} (hx : (s.bay (ridBay rid)).kerns.get? c.kernel = some x)
include hp hc hw hj ha hx

theorem mmaAccept_refused (hr : x.refused = some (s.clock / 1500)) : exec .mmaAccept s = .next s := by
  refine (exec_mmaAccept hp hc rfl).trans ?_
  simp [hw, hj, ha, hx, hr, windowOf]

theorem mmaAccept_asks (hr : x.refused ≠ some (s.clock / 1500)) (hn : s.raising (ridBay rid) c.kernel .mma = false) :
    exec .mmaAccept s = .next { s with gov := s.gov ++ [⟨dieOf (ridBay rid), .raise (ridBay rid) c.kernel .mma⟩] } := by
  refine (exec_mmaAccept hp hc rfl).trans ?_
  simp [hw, hj, ha, hx, hr, hn, windowOf, State.askRaise]

end

theorem mmaAccept_rest (hp : s.place = .crew rid) (hc : s.crews.get? rid = some c) (hw : c.wait = .none) (hj : c.mma = some j)
    (hr : j.rest ≠ []) (ha : s.mmaAllowed (ridBay rid) c.kernel = true) (ht : s.pipeTakes (ridBay rid) (ridSide rid) = true) :
    exec .mmaAccept s = .next (s.resumeRest rid c j) := by
  refine (exec_mmaAccept hp hc rfl).trans ?_
  simp [hw, hj, hr, ha, ht]

theorem State.resumeRest_of_trap {t : Trap} (h : s.sumCheck rid { c with pc := j.pc, slot := j.slot } j.dst 32768 c.low = .error (.trap t)) :
    s.resumeRest rid c j =
      { s.setCrew rid (fun c => { c with mma := none, restAt := some (j.slot, j.pc) }) with fresh := s.fresh + 1 }.takeTrap rid t := by
  rw [State.resumeRest]
  dsimp only
  rw [h]
  rfl

theorem State.resumeRest_of_ok {g : Region} {l : List (ℕ × ℕ × ℕ)}
    (h : s.sumCheck rid { c with pc := j.pc, slot := j.slot } j.dst 32768 c.low = .ok (g, l)) :
    s.resumeRest rid c j = s.acceptRest rid c j ((pieceLines l).map Prod.snd) := by
  rw [State.resumeRest]
  rw [h]

end

/-! ### MmaPipeFree -/

/-- The crew of a bay whose pipe comes free: an MMA of 16 clk ago has run. -/
def Crew.pipeFreed (b clk rid : ℕ) (c : Crew) : Crew :=
  if ridBay rid = b then { c with mmaRun := c.mmaRun.filter (fun m => decide (clk < m.start + 16)) } else c

theorem exec_mmaPipeFree {s : State} {b : ℕ} (hp : s.place = .bay b) :
    exec .mmaPipeFree s = .next (if (s.bay b).pipeFree = 0 ∨ s.clock < (s.bay b).pipeFree then s
      else { s.setBay b (fun y => { y with pipeFree := 0 }) with crews := s.crews.map fun p => (p.1, p.2.pipeFreed b s.clock p.1) }) := by
  have hmap (p : ℕ × Crew) : (if ridBay p.1 = b then
        (p.1, { p.2 with mmaRun := match p.2.mmaRun with | some r => if r.start + 16 ≤ s.clock then none else some r | none => none })
      else p) = (p.1, p.2.pipeFreed b s.clock p.1) := by
    unfold Crew.pipeFreed
    split
    · cases p.2.mmaRun with
      | none => rfl
      | some m =>
        by_cases hm : m.start + 16 ≤ s.clock
        · simp [hm, Option.filter, Nat.not_lt.mpr hm]
        · simp [hm, Option.filter, Nat.not_le.mp hm]
    · rfl
  show execMmaPipeFree s = _
  rw [execMmaPipeFree, atBay, hp]
  dsimp only
  congr 1
  split
  · rfl
  · congr 1
    exact List.map_congr_left fun p _ => hmap p

theorem mmaPipeFree_frees {s : State} {b : ℕ} (hp : s.place = .bay b) (h0 : (s.bay b).pipeFree ≠ 0) (hc : (s.bay b).pipeFree ≤ s.clock) :
    Runs .mmaPipeFree s (fun t => t = { s with bays := t.bays, crews := t.crews } ∧ (t.bay b).pipeFree = 0 ∧ (t.bay b).tlb = (s.bay b).tlb ∧
      ∀ rid c, s.crews.get? rid = some c → t.crews.get? rid = some (if ridBay rid = b then
        { c with mmaRun := c.mmaRun.filter (fun m => decide (s.clock < m.start + 16)) } else c)) := by
  refine ⟨_, (exec_mmaPipeFree hp).trans (by rw [if_neg (by omega)]), rfl, ?_, ?_, fun rid c hr => ?_⟩
  · exact congrArg Bay.pipeFree (State.setBay_bay_self s b (fun y => { y with pipeFree := 0 }))
  · exact (congrArg Bay.tlb (State.setBay_bay_self s b (fun y => { y with pipeFree := 0 }))).trans rfl
  · refine (Tbl.get?_map (fun r d => d.pipeFreed b s.clock r) s.crews rid).trans ?_
    rw [hr]
    rfl

/-! ## Reductions in flight (R284, R287) -/

/-- What the end of reductions leaves: the reductions in flight, the poisoned lines and the host link. -/
def SameReds (s t : State) : Prop := t.reds = s.reds ∧ t.poisoned = s.poisoned ∧ t.host = s.host

theorem SameReds.refl (s : State) : SameReds s s := ⟨rfl, rfl, rfl⟩

theorem SameReds.trans {s t u : State} (h : SameReds s t) (g : SameReds t u) : SameReds s u :=
  ⟨g.1.trans h.1, g.2.1.trans h.2.1, g.2.2.trans h.2.2⟩

theorem SameReds.foldl {α : Type} {f : State → α → State} (hf : ∀ s a, SameReds s (f s a)) (l : List α) (s : State) :
    SameReds s (l.foldl f s) := by
  induction l generalizing s with
  | nil => exact .refl s
  | cons a l ih => exact (hf s a).trans (ih _)

theorem State.dropRed_sameReds (s : State) (r : Red) : SameReds s (s.dropRed r) := by
  unfold State.dropRed
  split <;> exact ⟨rfl, rfl, rfl⟩

theorem State.mmaDone_sameReds (s : State) (id : ℕ) : SameReds s (s.mmaDone id) := by
  unfold State.mmaDone
  dsimp only
  (repeat' split) <;> exact ⟨rfl, rfl, rfl⟩

theorem State.redsChanged_sameReds (s : State) : SameReds s s.redsChanged := by
  refine SameReds.trans (t := s.sweepStash) ⟨rfl, rfl, rfl⟩ (SameReds.foldl (fun t p => ?_) _ _)
  (repeat' split) <;> exact ⟨rfl, rfl, rfl⟩

theorem State.redsGone_sameReds (s : State) (gone : List Red) : SameReds s (s.redsGone gone) := by
  refine (SameReds.foldl State.mmaDone_sameReds _ _).trans ((SameReds.foldl (fun t q => ?_) _ _).trans
    ((SameReds.foldl (fun t k => ?_) _ _).trans (State.redsChanged_sameReds _)))
  · exact ⟨rfl, rfl, rfl⟩
  · split <;> exact ⟨rfl, rfl, rfl⟩

theorem State.tidy_sameReds (s : State) (k : ℕ) : SameReds s (s.tidy k) := by
  unfold State.tidy
  dsimp only
  split
  · exact .refl s
  · exact (SameReds.foldl (f := fun t (p : ℕ × Bay) => t.leaveBay p.1 k) (fun _ _ => ⟨rfl, rfl, rfl⟩) _ s).trans ⟨rfl, rfl, rfl⟩

theorem dropAt_eq_eraseIdx {α : Type} (i : ℕ) (l : List α) : dropAt i l = l.eraseIdx i := by
  induction l generalizing i with
  | nil => cases i <;> rfl
  | cons x l ih =>
    cases i with
    | zero => rfl
    | succ i => exact congrArg (x :: ·) (ih i)

section
variable {s : State} {i : ℕ} {r : Red}

/-- What a reduction does when its turn has come, before those that wait for it are told. -/
def State.redDone (s : State) (i : ℕ) (r : Red) : State :=
  let t := { s with reds := s.reds.eraseIdx i }
  if s.poisoned.contains (lineOf r.pa) then t.dropRed r else t.writeNum r.pa 8 (addF64 (s.num r.pa 8) r.v)

theorem State.applyRed_after (s : State) (i : ℕ) (r : Red) :
    (s.applyRed i r).mem = (s.redDone i r).mem ∧ (s.applyRed i r).reds = (s.redDone i r).reds := by
  have he : ∃ t : State, t.mem = (s.redDone i r).mem ∧ t.reds = (s.redDone i r).reds ∧ s.applyRed i r = (t.redsGone [r]).tidy r.k := by
    rw [State.applyRed, dropAt_eq_eraseIdx]
    dsimp only
    cases r.window with
    | none => exact ⟨_, rfl, rfl, rfl⟩
    | some q => exact ⟨_, State.mapWindow_mem _ _ _ _, rfl, rfl⟩
  obtain ⟨t, hm, hr, he⟩ := he
  obtain ⟨hreds, -⟩ := (t.redsGone_sameReds [r]).trans (State.tidy_sameReds _ r.k)
  rw [he, hreds, State.tidy_mem, State.redsGone_mem]
  exact ⟨hm, hr⟩

theorem State.redDone_of_clean (h : lineOf r.pa ∉ s.poisoned) (hi : inSys r.pa = false) :
    (s.redDone i r).mem = Memory.writes s.mem r.pa (toBytes 8 (addF64 (s.num r.pa 8) r.v)) ∧ (s.redDone i r).reds = s.reds.eraseIdx i := by
  have hp : s.poisoned.contains (lineOf r.pa) = false := by simpa using h
  rw [State.redDone, hp, if_neg Bool.false_ne_true, State.writeNum, State.write_eq _ _ _ hi]
  exact ⟨rfl, rfl⟩

theorem State.redDone_of_poisoned (h : lineOf r.pa ∈ s.poisoned) :
    (s.redDone i r).mem = s.mem ∧ (s.redDone i r).reds = s.reds.eraseIdx i := by
  have hp : s.poisoned.contains (lineOf r.pa) = true := by simpa using h
  rw [State.redDone, hp, if_pos rfl]
  exact ⟨State.dropRed_mem _, (State.dropRed_sameReds _ r).1⟩

/-! ### ReductionApply -/

/-- A reduction that may be applied is ready, and none of its crew to its element stands before it (R230). -/
theorem State.first_of_mayApply (hr : s.reds[i]? = some r) (hm : s.mayApply i = true) :
    r.ready ≤ s.clock ∧ ∀ j e, j < i → s.reds[j]? = some e → e.k = r.k → e.crew = r.crew → e.pa ≠ r.pa := by
  rw [State.mayApply, hr] at hm
  simp only [Bool.and_eq_true, decide_eq_true_eq, Bool.not_eq_true', List.any_eq_false] at hm
  obtain ⟨⟨hready, hbefore⟩, -⟩ := hm
  refine ⟨hready, fun j e hj he hk hc hpa => hbefore e ?_ ?_⟩
  · exact List.mem_of_getElem? (by rw [List.getElem?_take_of_lt hj, he])
  · simp [Red.before, hk, hc, hpa]

theorem exec_reductionApply (hp : s.place = .entry i) (hr : s.reds[i]? = some r) :
    exec .reductionApply s = .next (if !s.mayApply i then s
      else if s.backingC r.ctx r.va then
        if s.redsJoined r.ctx r.va then s else s.post (.page r.ctx (BitVec.ofNat 64 r.va)) .checkpointCowCopy
      else s.applyRed i r) := by
  show execReductionApply s = _
  rw [execReductionApply, atEntry, hp]
  dsimp only
  rw [hr]

end

/-! ### LinePoisoned -/

section
variable {s : State} {l : ℕ}

theorem mem_addLines_self (ls : List ℕ) : l ∈ addLines ls [l] := by
  unfold addLines
  rw [List.foldl_cons, List.foldl_nil]
  split
  · next h => simpa using h
  · simp

/-- A line that is poisoned: it is among the poisoned, and no reduction to it is in flight. -/
theorem State.poisonLine_spec (h : l ∉ s.poisoned) :
    SameReds { s with poisoned := addLines s.poisoned [l], reds := s.reds.filter (fun r => decide (lineOf r.pa ≠ l)) } (s.poisonLine l) := by
  have hp : s.poisoned.contains l = false := by simpa using h
  rw [State.poisonLine, hp, if_neg Bool.false_ne_true]
  refine SameReds.trans ?_ (SameReds.foldl State.tidy_sameReds _ _)
  rw [State.poison]
  refine SameReds.trans ?_ (State.redsGone_sameReds _ _)
  refine SameReds.trans ?_ (SameReds.foldl State.dropRed_sameReds _ _)
  split <;> exact ⟨rfl, rfl, rfl⟩

theorem exec_linePoisoned (hp : s.place = .line l) :
    exec .linePoisoned s = .next (if s.poisoned.contains l then s else s.errorFound.poisonLine l) := by
  show execLinePoisoned s = _
  rw [execLinePoisoned, hp]

theorem linePoisoned_poisons (hp : s.place = .line l) (h : l ∉ s.poisoned) :
    Runs .linePoisoned s (fun t => l ∈ t.poisoned ∧ (∀ r ∈ t.reds, lineOf r.pa ≠ l) ∧ t.mem = s.mem ∧
      t.host.uncorrectable = s.host.uncorrectable + 1 ∧ ∀ r ∈ s.reds, lineOf r.pa ≠ l → r ∈ t.reds) := by
  have hc : s.poisoned.contains l = false := by simpa using h
  obtain ⟨hreds, hpois, hhost⟩ := State.poisonLine_spec (s := s.errorFound) h
  refine ⟨_, (exec_linePoisoned hp).trans (by rw [hc, if_neg Bool.false_ne_true]), ?_, fun r hr => ?_, ?_, ?_, fun r hr hl => ?_⟩
  · rw [hpois]
    exact mem_addLines_self _
  · rw [hreds] at hr
    simpa using (List.mem_filter.mp hr).2
  · rw [State.poisonLine_mem, State.errorFound_mem]
  · rw [hhost]
    rfl
  · rw [hreds]
    exact List.mem_filter.mpr ⟨hr, by simpa using hl⟩

end

/-! ## Batches that raise their timeline (R295, R296, R327) -/

section
variable {s : State} {k c pa first : ℕ} {eng : Bool}

theorem exec_batchRaise (hp : s.place = .kernelCrew k c) :
    exec (if eng then .engineBatchRaise else .matrixBatchRaise) s = .next (s.advance eng k c) := by
  cases eng with
  | false =>
    show execMatrixBatchRaise s = _
    rw [execMatrixBatchRaise, hp]
  | true =>
    show execEngineBatchRaise s = _
    rw [execEngineBatchRaise, hp]

theorem barSoon_of_none_held (h : ∀ x ∈ s.heldBars, x.pa ≠ pa) : s.barSoon pa = s.num pa 32 := by
  have hn : s.heldBars.filter (fun x => decide (x.pa = pa)) = [] := by
    rw [List.filter_eq_nil_iff]
    simpa using h
  rw [State.barSoon, hn, List.foldl_nil]

/-- The write of a raise, where the one timeline of a crew is to be raised; the state as it is where it is refused. -/
def State.raised (s : State) (eng : Bool) (k c pa n : ℕ) : State :=
  match s.barWrite (s.kern k).ctx (s.boundVa eng k c pa) pa (.raise n) with
  | .ok t => t
  | .error _ => s

/-- A crew with one bound timeline raises it, where it is due, and keeps the binding. -/
theorem State.advance_of_one_bind (hb : (if eng then ((s.kern k).keepOf c).ebinds else ((s.kern k).keepOf c).mbinds) = [(pa, first)])
    (hh : ∀ x ∈ s.heldBars, x.pa ≠ pa) : ∃ f, s.advance eng k c =
      (if first ≤ s.reached eng k c ∧ Bar.mode.get (s.num pa 32) = 2 ∧ Bar.value.get (s.num pa 32) < s.reached eng k c then
        s.raised eng k c pa (s.reached eng k c) else s).setKern k f := by
  rw [State.advance, hb, State.raiseBinds, barSoon_of_none_held hh]
  rw [Option.getD_none, min_self]
  exact ⟨_, rfl⟩

theorem State.raised_of_unmarked {u : State} (hm : s.barMarked (s.kern k).ctx (s.boundVa eng k c pa) pa = false) {n : ℕ}
    (hu : s.barPerform pa (.raise n) = .ok u) : s.raised eng k c pa n = u := by
  rw [State.raised, State.barWrite, hm, if_neg Bool.false_ne_true, hu]

theorem State.raised_of_marked (hm : s.barMarked (s.kern k).ctx (s.boundVa eng k c pa) pa = true) {n : ℕ}
    (ht : Bar.mode.get (s.num pa 32) = 2) :
    s.raised eng k c pa n = s.holdBar ⟨(s.kern k).ctx, s.boundVa eng k c pa, pa, some (.raise n)⟩ := by
  have ha : (BarOp.raise n).apply (s.num pa 32) = .ok (Bar.raise (s.num pa 32) n) := by
    rw [BarOp.apply]
    dsimp only
    rw [if_pos ht]
  rw [State.raised, State.barWrite, hm, if_pos rfl, ha]

end

/-- Settles O56: the pipe by `acceptMma_spec` and `acceptRest_spec`, the reductions by `applyRed_after` and `poisonLine_spec`,
the batches by `advance_of_one_bind`. -/
theorem pipeAndReductions : Obligations.PipeAndReductions := by
  refine ⟨fun s => ⟨fun rid c j hp hc hw hj hr => ?_, fun rid c j hp hc hw hj hr ha ht => ?_, fun b hp => ?_⟩,
    fun s => ⟨fun i r hp hr => ?_, fun l hp => ?_⟩, fun s k c pa first eng hp hb hh => ?_⟩
  · -- an MMA that waits for the pipe
    refine ⟨fun ha ht hf hclean => ?_, mmaAccept_pipe_taken hp hc hw hj,
      fun x hx ha => ⟨mmaAccept_refused hp hc hw hj ha hx, mmaAccept_asks hp hc hw hj ha hx⟩⟩
    obtain ⟨hreds, hbay, hother, hcrew⟩ := State.acceptMma_spec hc hf hclean
    have hlatch : ((s.acceptMma rid c j).side (ridBay rid) (ridSide rid)).latch = if j.reuse then some (s.takeA rid c j) else none := by
      rw [State.side, hbay, Bay.taken_latch]
    refine ⟨_, mmaAccept_takes hp hc hw hj hr ha ht, hreds, State.acceptMma_mem _ _ _, ?_, ?_, hother, ⟨_, hcrew, ?_⟩,
      fun h => ?_, fun h => ?_, fun x hx => ?_⟩
    · rw [hbay, Bay.taken_pipeFree]
    · rw [hbay, Bay.taken_pipeSide]
    · unfold State.mmaCrew Crew.pastMma Crew.setFlag
      cases j.flag <;> exact ⟨rfl, rfl, rfl, rfl, rfl, rfl, rfl, rfl, rfl, rfl, rfl⟩
    · rw [hlatch, h, if_neg Bool.false_ne_true]
    · rw [hlatch, h, if_pos rfl]
    · have hk : ((s.acceptMma rid c j).bay (ridBay rid)).kerns.get? c.kernel =
          some { x with window := windowOf s.clock, accepted := x.used s.clock + 1 } := by
        rw [hbay, Bay.taken_kerns, Tbl.get?_modify_self, hx, Option.map_some]
      exact ⟨_, hk, rfl, rfl, rfl⟩
  · -- the blocks that a stop left behind
    refine ⟨fun t he => ?_, fun g l he hclean => ?_⟩
    · rw [mmaAccept_rest hp hc hw hj hr ha ht, State.resumeRest_of_trap he]
    · obtain ⟨hreds, hbay, hother, hcrew⟩ := State.acceptRest_spec hc hr hclean
      refine ⟨_, (mmaAccept_rest hp hc hw hj hr ha ht).trans (by rw [State.resumeRest_of_ok he]), hreds, State.acceptRest_mem _ _ _ _, ?_, hother,
        ?_, _, hcrew, rfl, rfl, rfl, rfl, rfl, rfl, rfl, rfl⟩
      · rw [hbay, Bay.taken_pipeFree]
      · rw [State.side, hbay, Bay.taken_latch]
  · -- the pipe comes free
    exact ⟨fun h => by rw [exec_mmaPipeFree hp, if_pos h], mmaPipeFree_frees hp⟩
  · -- a reduction
    refine ⟨fun hm => by rw [exec_reductionApply hp hr, hm]; rfl, fun hm => ⟨State.first_of_mayApply hr hm, fun hc hl hi => ?_, fun hc hl => ?_,
      fun hc hj => by rw [exec_reductionApply hp hr, hm, hc, hj]; rfl⟩⟩
    all_goals
      have he : exec .reductionApply s = .next (s.applyRed i r) := by rw [exec_reductionApply hp hr, hm, hc]; rfl
      obtain ⟨hmem, hreds⟩ := s.applyRed_after i r
    · obtain ⟨hm', hr'⟩ := State.redDone_of_clean (i := i) hl hi
      exact ⟨_, he, hmem.trans hm', hreds.trans hr'⟩
    · obtain ⟨hm', hr'⟩ := State.redDone_of_poisoned (i := i) hl
      exact ⟨_, he, hmem.trans hm', hreds.trans hr'⟩
  · -- an uncorrectable error
    exact ⟨fun h => by rw [exec_linePoisoned hp, if_pos (by simpa using h)], linePoisoned_poisons hp⟩
  · -- a batch
    obtain ⟨f, hf⟩ := State.advance_of_one_bind hb hh
    have he := exec_batchRaise (eng := eng) hp
    refine ⟨fun h1 h2 h3 hm u hu => ?_, fun h1 h2 h3 hm => ?_, fun h => ?_⟩
    · rw [if_pos ⟨h1, h2, h3⟩, State.raised_of_unmarked hm hu] at hf
      exact ⟨_, he.trans (congrArg _ hf), rfl, rfl, rfl⟩
    · rw [if_pos ⟨h1, h2, h3⟩, State.raised_of_marked hm h2] at hf
      exact ⟨_, he.trans (congrArg _ hf), rfl, rfl, rfl, rfl⟩
    · rw [if_neg (by omega)] at hf
      exact ⟨_, he.trans (congrArg _ hf), rfl, rfl, rfl⟩

end Sys2Proof.Machine
end

section
namespace Sys2Proof

/-! ## The length of an instruction (R50) -/

theorem Len.code_of_ofCode? {b : BitVec 2} {l : Len} (h : Len.ofCode? b = some l) : b = l.code := by
  unfold Len.ofCode? at h
  split at h <;> cases h
  all_goals exact BitVec.eq_of_toNat_eq ‹_›

theorem Len.ofCode?_of_three {b : BitVec 2} (h : b.toNat = 3) : Len.ofCode? b = none := by
  simp [Len.ofCode?, h]

theorem Len.granules_le (l : Len) : l.granules ≤ 4 := by cases l <;> decide

theorem Len.granules_eq (l : Len) : l.granules = 2 + l.code.toNat := by cases l <;> rfl

theorem Len.code_injective {l m : Len} (h : l.code = m.code) : l = m :=
  Option.some.inj (by rw [← Len.ofCode?_code l, h, Len.ofCode?_code])

/-! ## The granules of an instruction (R50, R56) -/

theorem getLsbD_bitsOf {i : ℕ} (gs : List Word) (h : i < 128) :
    (bitsOf gs).getLsbD i = (gs.getD (i / 32) 0#32).getLsbD (i % 32) := by
  induction gs generalizing i with
  | nil => simp [bitsOf]
  | cons g gs ih =>
    have hc : bitsOf (g :: gs) = bitsOf gs <<< 32 ||| g.zeroExtend 128 := rfl
    rw [hc, BitVec.getLsbD_or, BitVec.getLsbD_shiftLeft, BitVec.getLsbD_setWidth]
    by_cases hi : i < 32
    · simp [hi, h, Nat.div_eq_of_lt hi, Nat.mod_eq_of_lt hi]
    · have hd : i / 32 = (i - 32) / 32 + 1 := by omega
      have hm : i % 32 = (i - 32) % 32 := by omega
      rw [ih (by omega), BitVec.getLsbD_of_ge g i (by omega), hd, hm]
      simp [hi, h]

/-- The first granules of an instruction are its bits below its length. -/
theorem bitsOf_mask_congr {gs hs : List Word} {l : Len} (h : gs.take l.granules = hs.take l.granules) :
    bitsOf gs &&& l.mask = bitsOf hs &&& l.mask := by
  apply BitVec.eq_of_getLsbD_eq
  intro i hi
  rw [BitVec.getLsbD_and, BitVec.getLsbD_and, l.mask_getLsbD i hi, getLsbD_bitsOf gs hi, getLsbD_bitsOf hs hi]
  by_cases hl : i < 32 * l.granules
  · have hget (xs : List Word) : xs.getD (i / 32) 0#32 = (xs.take l.granules).getD (i / 32) 0#32 := by
      rw [List.getD_eq_getElem?_getD, List.getD_eq_getElem?_getD, List.getElem?_take_of_lt (by omega)]
    rw [hget gs, hget hs, h]
  · simp [hl]

/-- Granules are read back from the bits they give. -/
theorem granulesOf_bitsOf_mask (l : Len) {gs : List Word} (h : l.granules ≤ gs.length) :
    granulesOf l.granules (bitsOf gs &&& l.mask) = gs.take l.granules := by
  have h4 := l.granules_le
  refine List.ext_getElem (by simp [granulesOf, h]) fun j hj _ => ?_
  replace hj : j < l.granules := by simpa [granulesOf] using hj
  simp only [granulesOf, List.getElem_map, List.getElem_range, List.getElem_take]
  apply BitVec.eq_of_getLsbD_eq
  intro i hi
  rw [BitVec.getLsbD_extractLsb', BitVec.getLsbD_and, l.mask_getLsbD _ (by omega), getLsbD_bitsOf gs (by omega),
    show (32 * j + i) / 32 = j by omega, show (32 * j + i) % 32 = i by omega]
  simp [hi, show 32 * j + i < 32 * l.granules by omega, List.getElem?_eq_getElem (show j < gs.length by omega)]

theorem lengthBits_bitsOf (w : Word) (gs : List Word) : (bitsOf (w :: gs)).extractLsb' 0 2 = w.extractLsb' 0 2 := by
  apply BitVec.eq_of_getLsbD_eq
  intro i hi
  rw [BitVec.getLsbD_extractLsb', BitVec.getLsbD_extractLsb', getLsbD_bitsOf _ (by omega), show (0 + i) / 32 = 0 by omega,
    show (0 + i) % 32 = 0 + i by omega]
  rfl

/-- A field below an instruction's length is that of the bits at the fetch. -/
theorem Len.field_below {l : Len} (w : BitVec 128) {start n : ℕ} (h : start + n ≤ 32 * l.granules) :
    (w &&& l.mask).extractLsb' start n = w.extractLsb' start n := by
  have := l.granules_le
  apply BitVec.eq_of_getLsbD_eq
  intro i hi
  rw [BitVec.getLsbD_extractLsb', BitVec.getLsbD_extractLsb', BitVec.getLsbD_and, l.mask_getLsbD _ (by omega)]
  simp [show start + i < 32 * l.granules by omega]

/-- A field above an instruction's length is zero. -/
theorem Len.field_above {l : Len} (w : BitVec 128) {start n : ℕ} (h : 32 * l.granules ≤ start) (h' : start + n ≤ 128) :
    (w &&& l.mask).extractLsb' start n = 0#n := by
  apply BitVec.eq_of_getLsbD_eq
  intro i hi
  rw [BitVec.getLsbD_extractLsb', BitVec.getLsbD_and, l.mask_getLsbD _ (by omega)]
  simp [show ¬start + i < 32 * l.granules by omega]

theorem Raw.bits_ofBits (w : BitVec 128) : (Raw.ofBits w).bits = w := by
  simp (disch := omega) only [Raw.ofBits, Raw.bits, BitVec.extractLsb'_append_extractLsb'_eq_extractLsb', BitVec.extractLsb'_eq_self]

/-! ## What decoding establishes (R66, steps 2 to 8) -/

/-- The checks that bits have passed which decode to instruction i, of control fields k and encoding e. -/
structure Decoded (w : BitVec 128) (i : Instr) (k : Ctl) (e : Enc) : Prop where
  len : w.extractLsb' 0 2 = k.len.code
  enc : enc i = some (k, e)
  raw : rawOf k e = Raw.ofBits (w &&& k.len.mask)
  cand : cand k.len (rawOf k e) k = some i
  row : ∃ m p, opRow e.op = some (m, p) ∧ (p = .none → k.pred = .always)
  long : minLen i e ≤ k.len.granules
  acc : accepts i = true
  groups : (groupOk e.d && groupOk e.a && groupOk e.b && groupOk e.c) = true

theorem decoded_of_ok {w : BitVec 128} {i : Instr} (h : decode w = .ok i) : ∃ k e, Decoded w i k e := by
  unfold decode at h
  split at h
  · cases h
  next l hl =>
  dsimp only at h
  split at h
  · cases h
  next m p hrow =>
  split at h
  · cases h
  split at h
  · cases h
  next k hk =>
  split at h
  · cases h
  next hp =>
  split at h
  · cases h
  next j hj =>
  split at h
  · cases h
  next k' e he =>
  split at h
  · cases h
  next hmin =>
  split at h
  · cases h
  next hacc =>
  split at h
  · cases h
  next hraw =>
  split at h
  · cases h
  next hgrp =>
  cases h
  have hlen : w.extractLsb' 0 2 = l.code := Len.code_of_ofCode? hl
  rw [not_not] at hraw
  have hkl : k'.len = l := Len.code_injective <|
    (congrArg Raw.len hraw).trans ((Len.field_below w (by cases l <;> decide)).trans hlen)
  subst hkl
  have hkk : k' = k := Option.some.inj <| (ctlOf?_rawOf k' e).symm.trans (by rw [hraw, hk])
  subst hkk
  rw [← hraw] at hrow hj
  exact ⟨k', e, hlen, he, hraw, hj, ⟨m, p, hrow, fun h => by_contra fun h' => hp ⟨h, h'⟩⟩, by omega,
    by simpa using hacc, by simpa using hgrp⟩

/-! ## What an encoding needs of its length (R59, R60, R64) -/

/-- The granules that an immediate needs whatever its value (R60). -/
def ImmF.granules : ImmF → ℕ
  | .t _ | .s _ | .x _ => 3
  | .k _ => 4
  | _ => 2

/-- The granules that an encoding needs for its immediate and its third operand (R56, R60). -/
def Enc.granules (e : Enc) : ℕ := max e.imm.granules (if e.c.isSome then 3 else 2)

/-- R64 gives every instruction the room for its immediate and its third operand. -/
theorem granules_le_minLen (i : Instr) : (enc i).all (fun p => decide (p.2.granules ≤ minLen i p.2)) = true := by
  cases i with
  | atom k op ty d a b c off => cases op <;> rfl
  | mma k f reuse s d a b c => cases f <;> rfl
  | _ => rfl

/-! ## Immediates that the decoder reads (R60) -/

/-- The immediate that raw fields give, of the same code. -/
def ImmF.reread (l : Len) (r : Raw) : ImmF → ImmF
  | .b _ => .b (srcOf l r)
  | .o _ => .o (offOf l r)
  | imm => imm

/-- An instruction's operand b and offset are those that the raw fields give. -/
def ReadFrom (l : Len) (r : Raw) (i : Instr) : Prop :=
  (enc i).map (fun p => p.2.imm.reread l r) = (enc i).map (fun p => p.2.imm)

/-- The instruction that a part of the decoder answers, if any, has its operand b and offset from the raw fields. -/
def Reads (l : Len) (r : Raw) (o : Option Instr) : Prop := ∀ i ∈ o, ReadFrom l r i

section
variable {l : Len} {r : Raw} {k : Ctl}

@[simp] theorem reads_none : Reads l r none := fun _ h => nomatch h

@[simp] theorem reads_some {i : Instr} : Reads l r (some i) ↔ ReadFrom l r i := by simp [Reads]

@[simp] theorem reads_map {α : Type} {o : Option α} {f : α → Instr} : Reads l r (o.map f) ↔ ∀ x ∈ o, ReadFrom l r (f x) := by
  simp [Reads]

@[simp] theorem reads_bind {α : Type} {o : Option α} {f : α → Option Instr} : Reads l r (o.bind f) ↔ ∀ x ∈ o, Reads l r (f x) := by
  cases o <;> simp [Reads]

@[simp] theorem reads_ite {p : Prop} [Decidable p] {x y : Option Instr} :
    Reads l r (if p then x else y) ↔ (p → Reads l r x) ∧ (¬p → Reads l r y) := by
  split <;> simp_all

@[simp] theorem reads_f0 {m : BitVec 8} {i : Instr} : Reads l r (f0 m i) ↔ (f? m = some 0 → ReadFrom l r i) := by
  simp [f0]

/-! Each opcode's instruction is built with `srcOf` and `offOf` where it has an operand b or an offset, so rereading changes nothing. -/

theorem candCtl_reads : Reads l r (candCtl r k) := by
  unfold candCtl
  split <;> simp [-Bool.forall_bool] <;> intros <;> exact rfl

theorem candInt_reads : Reads l r (candInt l r k) := by
  unfold candInt
  split <;> simp [-Bool.forall_bool] <;> intros <;> exact rfl

theorem candFloat_reads : Reads l r (candFloat l r k) := by
  unfold candFloat
  split <;> simp [-Bool.forall_bool] <;> intros <;> exact rfl

theorem candMem_reads : Reads l r (candMem l r k) := by
  unfold candMem
  repeat' split
  all_goals simp [-Bool.forall_bool] <;> intros
  any_goals exact rfl
  -- SUMRD, with .clr and without
  split <;> exact rfl

theorem candObj_reads : Reads l r (candObj r k) := by
  unfold candObj
  repeat' split
  all_goals simp [-Bool.forall_bool] <;> intros <;> exact rfl

theorem candSys_reads : Reads l r (candSys r k) := by
  unfold candSys
  repeat' split
  all_goals simp [-Bool.forall_bool] <;> intros <;> exact rfl

theorem cand_reads : Reads l r (cand l r k) := by
  unfold cand
  simp [candCtl_reads, candInt_reads, candFloat_reads, candMem_reads, candObj_reads, candSys_reads]

end

/-! ## What decodes is well formed, and is its encoding (R55 to R66) -/

section
variable {w : BitVec 128} {i : Instr} {k : Ctl} {e : Enc}

theorem Decoded.granules_le (h : Decoded w i k e) : e.granules ≤ k.len.granules := by
  have hm := granules_le_minLen i
  simp only [h.enc, Option.all_some, decide_eq_true_eq] at hm
  exact hm.trans h.long

theorem Decoded.reread (h : Decoded w i k e) : e.imm.reread k.len (rawOf k e) = e.imm := by
  simpa [ReadFrom, h.enc] using cand_reads i h.cand

/-- Of a 64-bit instruction the fields in bits 95:64 are zero. -/
theorem Decoded.short_fields (h : Decoded w i k e) (hl : k.len = .l64) : k.pred.mode = 0#2 ∧ e.imm.imm14 .l64 = 0#14 := by
  have hr := h.raw
  rw [hl] at hr
  exact ⟨(congrArg Raw.pmode hr).trans (Len.field_above w (by decide) (by decide)),
    hl ▸ (congrArg Raw.imm14 hr).trans (Len.field_above w (by decide) (by decide))⟩

theorem Decoded.pred_fits (h : Decoded w i k e) {m : Len} {p : PCol} (hrow : opRow e.op = some (m, p)) :
    predFits k.len p k.pred = true := by
  obtain ⟨m', p', hr, hp⟩ := h.row
  cases hrow.symm.trans hr
  cases hk : k.pred with
  | always => rfl
  | nonzero r | zero r =>
    have hl : k.len ≠ .l64 := fun hl => by simpa [hk, Pred.mode] using (h.short_fields hl).1
    have hn : p ≠ .none := fun hn => by simpa [hk] using hp hn
    simp [predFits, hl, hn]

theorem setWidth_signExtend_offset (v : BitVec 14) : (v.signExtend 32).setWidth 14 = v := by
  ext j
  grind

theorem Decoded.imm_fits (h : Decoded w i k e) : immFits k.len e.imm = true := by
  have hg : e.imm.granules ≤ k.len.granules := le_trans (le_max_left _ _) h.granules_le
  have hr := h.reread
  have hs := fun hl => (h.short_fields hl).2
  cases hi : e.imm <;> rw [hi] at hg hr hs
  case none => rfl
  case b src =>
    obtain rfl := ImmF.b.inj hr
    cases hl : k.len <;> rfl
  case o off =>
    obtain rfl := ImmF.o.inj hr
    cases hl : k.len with
    | l64 | l128 => rfl
    | l96 => simp [immFits, offOf, setWidth_signExtend_offset]
  case n v =>
    cases hl : k.len with
    | l64 => simpa [immFits, ImmF.imm14] using hs hl
    | l96 | l128 => rfl
  -- these need the granules that the least length has
  case t | s | x | k => cases hl : k.len <;> simp_all [immFits, ImmF.granules, Len.granules]

theorem Decoded.wf (h : Decoded w i k e) : i.WF := by
  obtain ⟨m, p, hrow, -⟩ := h.row
  have hc : (e.c.isSome && k.len == .l64) = false := by
    by_contra hc
    simp only [Bool.not_eq_false, Bool.and_eq_true, beq_iff_eq] at hc
    have hg := h.granules_le
    simp [Enc.granules, hc.1, hc.2, Len.granules] at hg
  simp [Instr.WF, wfErr, h.enc, hrow, h.long, h.pred_fits hrow, h.acc, h.imm_fits, hc, h.groups]

theorem Decoded.encode_eq (h : Decoded w i k e) : encode i = granulesOf k.len.granules (w &&& k.len.mask) := by
  simp [encode, h.enc, h.raw, Raw.bits_ofBits]

theorem Decoded.encode_length (h : Decoded w i k e) : (encode i).length = k.len.granules := by
  simp [h.encode_eq, granulesOf]

end

/-! ## The first granule gives the length (R50) -/

theorem toNat_lengthBits (w : Word) : (w.extractLsb' 0 2).toNat = w.toNat % 4 := by simp

theorem exists_len_of_word {w : Word} (h : w.toNat % 4 ≠ 3) : ∃ l : Len, w.extractLsb' 0 2 = l.code := by
  have hw := toNat_lengthBits w
  have hcases : w.toNat % 4 = 0 ∨ w.toNat % 4 = 1 ∨ w.toNat % 4 = 2 := by omega
  rcases hcases with h | h | h
  · exact ⟨.l64, BitVec.eq_of_toNat_eq (hw.trans h)⟩
  · exact ⟨.l96, BitVec.eq_of_toNat_eq (hw.trans h)⟩
  · exact ⟨.l128, BitVec.eq_of_toNat_eq (hw.trans h)⟩

theorem granules_of_word {w : Word} {l : Len} (h : w.extractLsb' 0 2 = l.code) : l.granules = 2 + w.toNat % 4 := by
  rw [l.granules_eq, ← h, toNat_lengthBits]

/-- Bits above the length that bits 1:0 give are not looked at. -/
theorem decode_congr {v w : BitVec 128} {l : Len} (hv : v.extractLsb' 0 2 = l.code) (h : v &&& l.mask = w &&& l.mask) :
    decode v = decode w := by
  have hw : w.extractLsb' 0 2 = l.code := by
    rw [← hv, ← Len.field_below (l := l) w (by cases l <;> decide), ← h, Len.field_below (l := l) v (by cases l <;> decide)]
  simp only [decode, hv, hw, Len.ofCode?_code, h]

theorem decodeWords_of_three {w : Word} (gs : List Word) (h : w.toNat % 4 = 3) : decodeWords (w :: gs) = .error .length := by
  have hl : Len.ofCode? (w.extractLsb' 0 2) = none := Len.ofCode?_of_three ((toNat_lengthBits w).trans h)
  rw [decodeWords, List.take_succ_cons, decode, lengthBits_bitsOf, hl]

theorem decodeWords_congr {w : Word} {gs hs : List Word} {l : Len} (hl : w.extractLsb' 0 2 = l.code)
    (h : (w :: gs).take l.granules = (w :: hs).take l.granules) : decodeWords (w :: gs) = decodeWords (w :: hs) := by
  have hm : min l.granules 4 = l.granules := min_eq_left l.granules_le
  refine decode_congr (l := l) (by rw [List.take_succ_cons, lengthBits_bitsOf, hl]) (bitsOf_mask_congr ?_)
  rw [List.take_take, List.take_take, hm, h]

theorem length_of_decodeWords {w : Word} {gs : List Word} {i : Instr} (h : decodeWords (w :: gs) = .ok i) :
    w.toNat % 4 ≠ 3 ∧ (encode i).length = 2 + w.toNat % 4 := by
  have h3 : w.toNat % 4 ≠ 3 := fun h3 => by cases (decodeWords_of_three gs h3).symm.trans h
  obtain ⟨k, e, hd⟩ := decoded_of_ok h
  have hl := hd.len
  rw [List.take_succ_cons, lengthBits_bitsOf] at hl
  exact ⟨h3, hd.encode_length.trans (granules_of_word hl)⟩

end Sys2Proof
end

section
namespace Sys2Proof.Laws.RoundTrip

/-- Every crew instruction has the round trip of its constructor, and an event has no encoding. -/
theorem decodes_back (i : Instr) : Statement i := by
  cases i with
  | nop => apply nop | bra => apply bra | brx => apply brx | bdiv => apply bdiv | join => apply join | call => apply call | ret => apply ret
  | exit => apply exit | fjmp => apply fjmp | cfetch => apply cfetch | cinv => apply cinv | trap => apply trap | rte => apply rte
  | bkpt => apply bkpt | yieldHint => apply yieldHint | cut => apply cut | emrd => apply emrd | emwr => apply emwr | allot => apply allot
  | sread => apply sread | swrite => apply swrite | lget => apply lget | lset => apply lset
  | iadd => apply iadd | isub => apply isub | iaddx => apply iaddx | imul => apply imul | imulh => apply imulh | imad => apply imad
  | iabs => apply iabs | imin => apply imin | imax => apply imax | iclamp => apply iclamp | icmp => apply icmp | isel => apply isel
  | csub => apply csub | lea => apply lea | mov => apply mov | movi => apply movi | shl => apply shl | shr => apply shr | sar => apply sar
  | shf => apply shf | and => apply and | or => apply or | xor => apply xor | andn => apply andn | bfx => apply bfx | bfi => apply bfi
  | popc => apply popc | clz => apply clz | brev => apply brev | prmt => apply prmt
  | fadd => apply fadd | fsub => apply fsub | fmul => apply fmul | fma => apply fma | fmin => apply fmin | fmax => apply fmax
  | fcmp => apply fcmp | frnd => apply frnd | fclass => apply fclass | fscale => apply fscale | dadd => apply dadd | dmul => apply dmul
  | dfma => apply dfma | dcmp => apply dcmp
  | dotf4 => apply dotf4 | dotf6 => apply dotf6 | dotf8 => apply dotf8 | doth => apply doth | doti8 => apply doti8 | doti4 => apply doti4
  | cvt => apply cvt | pack => apply pack | unpack => apply unpack | mxscale => apply mxscale | rand => apply rand
  | fsint => apply fsint | fcost => apply fcost | fexp2 => apply fexp2 | flog2 => apply flog2 | frcp => apply frcp | frsq => apply frsq
  | fsqrt => apply fsqrt | ftanh => apply ftanh | rmax => apply rmax | rsum => apply rsum | rstat => apply rstat | smxup => apply smxup
  | shfl => apply shfl | ballot => apply ballot | vote => apply vote | lred => apply lred | lscan => apply lscan
  | laneMatch => apply laneMatch | bcast => apply bcast | elect => apply elect
  | ld => apply ld | st => apply st | atom => apply atom | red => apply red | mwait => apply mwait | pref => apply pref
  | mfence => apply mfence
  | mma => apply mma | mbatch => apply mbatch | sumdeclDecl => apply sumdeclDecl | sumdeclFree => apply sumdeclFree
  | sumdeclTl => apply sumdeclTl | sumrd => apply sumrd | sumrdClr => apply sumrdClr | sumred => apply sumred | sumz => apply sumz
  | sumdrain => apply sumdrain | sumq => apply sumq
  | barinitPh => apply barinitPh | barinitTl => apply barinitTl | barinitEng => apply barinitEng | arrive => apply arrive
  | expect => apply expect | wait => apply wait | tladvMax => apply tladvMax | tladvAdd => apply tladvAdd | copy => apply copy
  | gather => apply gather | scatter => apply scatter | encode => apply encode | batch => apply batch | barq => apply barq
  | tshape => apply tshape | tfork => apply tfork | tprune => apply tprune | tcommit => apply tcommit | tmask => apply tmask
  | tmaskVfy => apply tmaskVfy | tinfoLo => apply tinfoLo | tinfoHi => apply tinfoHi | tinfoTree => apply tinfoTree | tacc => apply tacc
  | tappend => apply tappend | tnew => apply tnew | tfree => apply tfree
  | pgpin => apply pgpin | pgunpin => apply pgunpin | pgcowMark => apply pgcowMark | pgcowClear => apply pgcowClear
  | pgqNext => apply pgqNext | pgqDone => apply pgqDone | pgqFail => apply pgqFail | pgqInval => apply pgqInval | smap => apply smap
  | sflushWb => apply sflushWb | sflushInv => apply sflushInv
  | xput => apply xput | xget => apply xget | xred => apply xred | xsigArr => apply xsigArr | xsigMax => apply xsigMax
  | xfence => apply xfence | xprobe => apply xprobe
  | launch => apply launch | qctlHold => apply qctlHold | qctlRelease => apply qctlRelease | qctlFlush => apply qctlFlush
  | qctlClass => apply qctlClass | qctlQuery => apply qctlQuery | kstopStop => apply kstopStop | kstopKill => apply kstopKill
  | kstopResume => apply kstopResume | kq => apply kq | leave => apply leave | notify => apply notify | ckptCut => apply ckptCut
  | ckptBack => apply ckptBack
  | bpset => apply bpset | bpclr => apply bpclr | stamp => apply stamp | trace => apply trace
  | _ => exact event rfl

/-- Words that encode a well-formed instruction decode to it. -/
theorem decodeWords_of_encode {ws : List Word} {i : Instr} (hwf : i.WF) (henc : Sys2Proof.encode i = ws) : decodeWords ws = .ok i :=
  henc ▸ decodes_back i hwf

end Sys2Proof.Laws.RoundTrip
end

section
namespace Sys2Proof.Laws.Encoding

open RoundTrip

/-- Settles O2, by the round trip of each constructor. -/
theorem decodeEncode : Obligations.DecodeEncode := decodes_back

/-- Settles O3: the bits of an instruction that decodes are those of its encoding, cut at its length. -/
theorem encodeDecode : Obligations.EncodeDecode := by
  intro gs i hlen hd
  obtain ⟨k, e, h⟩ := decoded_of_ok hd
  have hg : k.len.granules ≤ gs.length := hlen ▸ k.len.granules_le
  refine ⟨h.wf, ?_⟩
  rw [h.encode_length, h.encode_eq, List.take_of_length_le hlen.le, granulesOf_bitsOf_mask k.len hg]

/-- Settles O4: decoding looks at bits 1:0 for the length, and at nothing past it. -/
theorem instructionLength : Obligations.InstructionLength := by
  refine fun w rest more hrest => ⟨decodeWords_of_three rest, fun h => ?_, fun _ => length_of_decodeWords⟩
  obtain ⟨l, hl⟩ := exists_len_of_word h
  rw [← granules_of_word hl]
  have hlen : l.granules ≤ (w :: rest).length := by simp [hrest, l.granules_le]
  have hcons : (w :: rest).take l.granules = w :: rest.take (l.granules - 1) := by cases l <;> rfl
  rw [hcons, List.cons_append]
  refine decodeWords_congr hl ?_
  rw [← List.cons_append, ← hcons, List.take_append_of_le_length (le_of_eq (List.length_take_of_le hlen).symm), List.take_take, min_self]

/-- Settles O1: the words are the encodings of the instructions, which are well formed. -/
theorem decodeWords : Obligations.DecodeWords := by
  refine ⟨?_, ?_, ?_, ?_, ?_, ?_, ?_, ?_, ?_, ?_, ?_, ?_, ?_, ?_⟩
  all_goals exact decodeWords_of_encode (by decide) (by decide)

end Sys2Proof.Laws.Encoding
end

section
namespace Sys2Proof.Machine

/-! ## A step (R53, R56, R66) -/

section
variable {s : State} {rid : ℕ} {c : Crew} {rest : List Task}

theorem fetchBits_eq_bitsOf (ws : List Word) (g : ℕ) :
    fetchBits ws g = bitsOf [segWord ws g, segWord ws (g + 1), segWord ws (g + 2), segWord ws (g + 3)] := by
  apply BitVec.eq_of_getLsbD_eq
  intro i hi
  rw [getLsbD_bitsOf _ hi]
  simp only [fetchBits, BitVec.getLsbD_append]
  have hq : i / 32 = 0 ∨ i / 32 = 1 ∨ i / 32 = 2 ∨ i / 32 = 3 := by omega
  rcases hq with hq | hq | hq | hq <;> rw [hq] <;> grind

/-- A crew that passes every check of the fetch runs the instruction that the granules at its PC decode to. -/
theorem State.fetch_eq_run {ws : List Word} {lines : ℕ} {i : Instr} (hdiv : c.diverged = none)
    (hcmp : c.skip = true ∨ s.cmpHit (ridBay rid) c = none) (hem : c.em ≠ 0#32 ∨ c.stack ≠ [] ∨ c.exited = 0xFFFF_FFFF#32)
    (hcode : s.codeOf rid c = some (ws, lines)) (hpc : c.pc < 128 * lines) (h4 : c.pc % 4 = 0) (hline : lineOk ws (c.pc / 128) = true)
    (hstart : startAt ws (c.pc / 4) = true)
    (hdec : decodeWords [segWord ws (c.pc / 4), segWord ws (c.pc / 4 + 1), segWord ws (c.pc / 4 + 2), segWord ws (c.pc / 4 + 3)] = .ok i) :
    s.fetch rid c = .run i := by
  have hbreak : (if c.skip then none else s.cmpHit (ridBay rid) c) = none := by
    rcases hcmp with h | h <;> simp [h]
  have hconv : ¬(c.em = 0#32 ∧ c.stack = [] ∧ c.exited ≠ 0xFFFF_FFFF#32) := by tauto
  have hin : c.fetchIn ws lines = .run i := by
    have hpos : ¬(128 * lines ≤ c.pc ∨ c.pc % 4 ≠ 0) := by omega
    have hdec' : decode (fetchBits ws (c.pc / 4)) = .ok i := by
      rw [fetchBits_eq_bitsOf]
      exact hdec
    rw [Crew.fetchIn, if_neg hpos, if_neg (by simp [hline, hstart]), hdec']
  rw [State.fetch, hdiv]
  dsimp only
  rw [hbreak]
  dsimp only
  rw [if_neg hconv, hcode]
  exact hin

theorem step_issue (ha : s.agenda = .issue rid :: rest) (hc : s.crews.get? rid = some c) {i : Instr}
    (hf : ({ s with agenda := rest, place := .crew rid } : State).fetch rid c = .run i) :
    step s = exec i { s with agenda := rest, place := .crew rid } := by
  simp only [step, ha, hc, hf]

theorem step_event {p : Place} {i : Instr} (ha : s.agenda = .event p i :: rest) :
    step s = exec i { s with agenda := rest, place := p } := by
  simp only [step, ha]

theorem step_issue_none (ha : s.agenda = .issue rid :: rest) (hc : s.crews.get? rid = none) :
    step s = .next { s with agenda := rest, place := .crew rid } := by
  simp only [step, ha, hc]

end

/-- Settles O5: the agenda's head decides the step, and the fetch's checks the instruction. -/
theorem stepRunsDecoded : Obligations.StepRunsDecoded :=
  fun _ _ => ⟨fun _ _ _ _ _ ha hc hdiv hcmp hem hcode hpc h4 hline hstart hdec =>
      step_issue ha hc (State.fetch_eq_run hdiv hcmp hem hcode hpc h4 hline hstart hdec),
    fun _ _ => step_event, fun _ => step_issue_none⟩

end Sys2Proof.Machine
end

section
namespace Sys2Proof.Laws

open Machine Claims

/-! ## Ordinary instructions whose body traps, and those that only go elsewhere -/

section
variable {i : Instr} {k : Ctl} {e : Enc} {body : Body} {s : State} {rid : ℕ} {c : Crew}

theorem ordinary_of_error (he : enc i = some (k, e)) (hi : Issuing s rid c i) {x : Stop} (hb : body s rid c = .error x) :
    ordinary i body s = .next (s.stopAt rid x) := by
  have h : s.issueOrdinary rid c k e body = s.stopAt rid x := by
    rw [State.issueOrdinary, hi.range k e he, hb]
  simp only [ordinary, hi.place, hi.crew, he, h]

/-- A trap that the body of an ordinary instruction finds is taken at once. -/
theorem traps_of_error (he : enc i = some (k, e)) (hi : Issuing s rid c i) (hx : exec i s = ordinary i body s)
    {kind aux addr lane : ℕ} (hb : body s rid c = .error (c.trapAt kind aux addr lane)) : Traps i s rid c kind aux addr lane :=
  hx.trans (ordinary_of_error he hi hb)

/-- An ordinary instruction that changes its crew to x and writes some cells. -/
theorem issues_of_ok (he : enc i = some (k, e)) (hi : Issuing s rid c i) (ht : Takes s rid c (blocksOf i) [] [])
    (hx : exec i s = ordinary i body s) {x : Crew} {cells : List (ℕ × Word)} {lat : Option ℕ}
    (hb : body s rid c = .ok { crew := x, cells := cells, lat := lat }) (hp : x.pends = c.pends) (hf : x.flags = c.flags) :
    Issues i s s rid c x { cells := cells, due := lat.map (s.clock + ·) } [] := by
  have hbl : blocksOf i = encBlocks e := by simp [blocksOf, he]
  rw [hbl] at ht
  rw [Issues, hx]
  exact ordinary_issues (o := { crew := x, cells := cells, lat := lat }) he hi ht hb hp hf rfl rfl (around_plain rfl rfl rfl)

end

/-! ## Conditions (R59, R151) -/

section
variable {c : Crew} {p : Pred}

theorem active_eq_nil : c.active = [] ↔ c.em = 0#32 := by
  refine ⟨fun h => by_contra fun hne => lanesOf_ne_nil hne h, fun h => ?_⟩
  rw [Crew.active, h]
  rfl

/-- A condition under pmode 01 or 10. -/
theorem cond_of_ne_always (h : p ≠ .always) : c.cond p =
    if ∀ l ∈ c.active, c.passes p l = true then some (decide (c.em ≠ 0#32))
    else if ∃ l ∈ c.active, c.passes p l = true then none else some false := by
  have hem : (!(c.active.map (c.passes p)).isEmpty) = decide (c.em ≠ 0#32) := by
    rw [Bool.eq_iff_iff]
    simp [active_eq_nil]
  cases p with
  | always => exact absurd rfl h
  | nonzero r | zero r => simp only [Crew.cond, hem, List.all_map, List.any_map, List.all_eq_true, List.any_eq_true]; rfl

theorem cond_of_true (h : CondTrue c p) : c.cond p = some true := by
  rcases h with rfl | ⟨hem, hall⟩
  · rfl
  · by_cases hp : p = .always
    · rw [hp]; rfl
    · rw [cond_of_ne_always hp, if_pos hall, decide_eq_true hem]

theorem cond_of_false (h : CondFalse c p) : c.cond p = some false := by
  obtain ⟨hp, hall⟩ := h
  rw [cond_of_ne_always hp]
  split
  · next hpass =>
    have hem : c.em = 0#32 := by_contra fun hne => by
      simpa [hall _ (low_mem_active hne)] using hpass _ (low_mem_active hne)
    simp [hem]
  · rw [if_neg]
    rintro ⟨l, hl, h⟩
    simp [hall l hl] at h

theorem cond_of_neither (ht : ¬CondTrue c p) (hf : ¬CondFalse c p) : c.cond p = none := by
  have hp : p ≠ .always := fun hp => ht (.inl hp)
  have hsome : ∃ l ∈ c.active, c.passes p l = true := by
    by_contra hno
    push Not at hno
    exact hf ⟨hp, fun l hl => by simpa using hno l hl⟩
  obtain ⟨l, hl, hpass⟩ := hsome
  have hem : c.em ≠ 0#32 := fun hem => by simp [active_eq_nil.mpr hem] at hl
  rw [cond_of_ne_always hp, if_neg fun hall => ht (.inr ⟨hem, hall⟩), if_pos ⟨l, hl, hpass⟩]

end

/-! ## Uniform operands (R68, R151) -/

section
variable {c : Crew} {n v : ℕ} {a : Reg}

theorem forall_of_uniform {l : List ℕ} (h : uniform l = true) : ∀ x ∈ l, x = l.headD 0 := by
  cases l with
  | nil => simp
  | cons y ys => simpa [uniform] using h

theorem not_uni_of_not_uniform (hem : c.em ≠ 0#32) (h : ∀ v, ¬Uniform c n a v) : c.uni n a = false := by
  by_contra hu
  rw [Bool.not_eq_false] at hu
  exact h _ ⟨hem, fun l hl => forall_of_uniform hu _ (List.mem_map_of_mem hl)⟩

theorem uni_of_gives (h : Gives c n a v) : c.uni n a = true := by
  rcases h with h | ⟨hem, -⟩
  · exact uni_of_uniform h
  · rw [Crew.uni, active_eq_nil.mpr hem]
    rfl

theorem uval_of_gives (h : Gives c n a v) : c.uval n a = v := by
  rcases h with h | ⟨hem, h⟩
  · exact uval_of_uniform h
  · rw [Crew.uval, Crew.low, active_eq_nil.mpr hem]
    exact h

end

/-! ## Conditional control (R59, R151) -/

section
variable {i : Instr} {k : Ctl} {e : Enc} {body : Body} {s : State} {rid : ℕ} {c : Crew}

/-- What an ordinary instruction does whose condition does not pass, or is neither true nor false. -/
theorem not_taken (he : enc i = some (k, e)) (hi : Issuing s rid c i) (ht : Takes s rid c (blocksOf i) [] [])
    (hx : c.cond k.pred ≠ some true → exec i s = ordinary i body s) (hnone : c.cond k.pred = none → body s rid c = .error c.diverges)
    (hfalse : c.cond k.pred = some false → body s rid c = .ok { crew := goOn s rid c }) :
    (CondFalse c k.pred → Issues i s s rid c (goOn s rid c) {} []) ∧
      (¬CondTrue c k.pred → ¬CondFalse c k.pred → Traps i s rid c 0x014 0 0 c.low) :=
  ⟨fun h => issues_of_ok he hi ht (hx (by simp [cond_of_false h])) (hfalse (cond_of_false h)) rfl rfl,
    fun h h' => traps_of_error he hi (hx (by simp [cond_of_neither h h'])) (hnone (cond_of_neither h h'))⟩

end

/-! ## BRA and CALL (R54, R158) -/

section
variable {i : Instr} {k : Ctl} {e : Enc} {off : BitVec 14} {taken : State → ℕ → Crew → ℕ → Out} {s : State} {rid : ℕ} {c : Crew}

theorem branchOp_true (hm : s.marked rid c c.slot (c.target off) = true) (h : CondTrue c k.pred) :
    branchOp k off taken s rid c = .ok (taken s rid c (c.target off).toNat) := by
  simp [branchOp, hm, cond_of_true h]

theorem branch_unmarked (he : enc i = some (k, e)) (hi : Issuing s rid c i) (hx : exec i s = ordinary i (branchOp k off taken) s)
    (hm : s.marked rid c c.slot (c.target off) = false) :
    Traps i s rid c 0x013 (c.slot * 2 ^ 12 + (c.target off % 4096).toNat) 0 c.low :=
  traps_of_error he hi hx (by simp [branchOp, hm, Crew.badTarget, Crew.crewTrap])

theorem branch_not_taken (he : enc i = some (k, e)) (hi : Issuing s rid c i) (ht : Takes s rid c (blocksOf i) [] [])
    (hx : exec i s = ordinary i (branchOp k off taken) s) (hm : s.marked rid c c.slot (c.target off) = true) :
    (CondFalse c k.pred → Issues i s s rid c (goOn s rid c) {} []) ∧
      (¬CondTrue c k.pred → ¬CondFalse c k.pred → Traps i s rid c 0x014 0 0 c.low) :=
  not_taken he hi ht (fun _ => hx) (fun h => by simp [branchOp, hm, h]) (fun h => by simp [branchOp, hm, h, goOn])

theorem bra_issues (hi : Issuing s rid c (.bra k off)) (ht : Takes s rid c (blocksOf (.bra k off)) [] [])
    (hm : s.marked rid c c.slot (c.target off) = true) (h : CondTrue c k.pred) :
    Issues (.bra k off) s s rid c { c with pc := (c.target off).toNat } {} [] :=
  issues_of_ok rfl hi ht rfl (branchOp_true hm h) rfl rfl

theorem call_issues {d : Reg} (hi : Issuing s rid c (.call k d off)) (ht : Takes s rid c (blocksOf (.call k d off)) [] [])
    (hm : s.marked rid c c.slot (c.target off) = true) (h : CondTrue c k.pred) :
    Issues (.call k d off) s s rid c { c with pc := (c.target off).toNat }
      { cells := inActive c d (c.slot * 2 ^ 12 + s.nextPc rid c % 2 ^ 12), due := some (s.clock + 2) } [] :=
  issues_of_ok (lat := some 2) rfl hi ht rfl (branchOp_true hm h) rfl rfl

end

/-! ## BRX (R54, R157) -/

section
variable {k : Ctl} {a : Reg} {s : State} {rid : ℕ} {c : Crew} {v : ℕ}

theorem badTarget_of_lt (slot : ℕ) (h : v < 4096) : c.badTarget slot v = c.trapAt 0x013 (slot * 2 ^ 12 + v) 0 c.low := by
  have hv : ((v : ℤ) % 4096).toNat = v := by omega
  rw [Crew.badTarget, Crew.crewTrap, hv]

theorem brx_not_taken (hi : Issuing s rid c (.brx k a)) (ht : Takes s rid c [] [] []) :
    (CondFalse c k.pred → Issues (.brx k a) s s rid c (goOn s rid c) {} []) ∧
      (¬CondTrue c k.pred → ¬CondFalse c k.pred → Traps (.brx k a) s rid c 0x014 0 0 c.low) :=
  not_taken rfl hi ht (fun _ => rfl) (fun h => by simp [h]) (fun h => by simp [h, goOn])

theorem brx_diverges (hi : Issuing s rid c (.brx k a)) (h : CondTrue c k.pred) (hem : c.em ≠ 0#32) (hu : ∀ v, ¬Uniform c 1 a v) :
    Traps (.brx k a) s rid c 0x014 0 0 c.low :=
  traps_of_error rfl hi rfl (by simp [cond_of_true h, not_uni_of_not_uniform hem hu, Crew.diverges, Crew.crewTrap])

theorem brx_past (hi : Issuing s rid c (.brx k a)) (h : CondTrue c k.pred) (hv : Gives c 1 a v) (hb : 4096 ≤ v) :
    Traps (.brx k a) s rid c 0x018 1 0 c.low :=
  traps_of_error rfl hi rfl (by
    simp [cond_of_true h, uni_of_gives hv, uval_of_gives hv, hb, Crew.operandFault, Crew.crewTrap])

theorem brx_unmarked (hi : Issuing s rid c (.brx k a)) (h : CondTrue c k.pred) (hv : Gives c 1 a v) (hb : v < 4096)
    (hm : s.marked rid c c.slot v = false) : Traps (.brx k a) s rid c 0x013 (c.slot * 2 ^ 12 + v) 0 c.low :=
  traps_of_error rfl hi rfl (by
    simp [cond_of_true h, uni_of_gives hv, uval_of_gives hv, hb.not_ge, hm, badTarget_of_lt c.slot hb])

theorem brx_issues (hi : Issuing s rid c (.brx k a)) (ht : Takes s rid c [] [] []) (h : CondTrue c k.pred) (hv : Gives c 1 a v)
    (hb : v < 4096) (hm : s.marked rid c c.slot v = true) : Issues (.brx k a) s s rid c { c with pc := v } {} [] :=
  issues_of_ok (cells := []) (lat := none) rfl hi ht rfl (by simp [cond_of_true h, uni_of_gives hv, uval_of_gives hv, hb.not_ge, hm]) rfl rfl

end

/-! ## RET (R151, R158, R214, R395) -/

section
variable {k : Ctl} {a : Reg} {s : State} {rid : ℕ} {c : Crew} {v : ℕ}

/-- A return word names no bit above its slot, and a slot that the crew may enter (R158, R395). -/
def ReturnWord (s : State) (c : Crew) (v : ℕ) : Prop :=
  v < 2 ^ 16 ∧ (v / 2 ^ 12 % 16 < Lch.slots.get (s.kern c.kernel).launch ∨ v / 2 ^ 12 % 16 = 15 ∧ c.slot = 15)

theorem not_returnWord : ¬ReturnWord s c v ↔ 2 ^ 16 ≤ v ∨ s.slotOk c (v / 2 ^ 12 % 16) true = false := by
  have hslot : s.slotOk c (v / 2 ^ 12 % 16) true = true ↔
      v / 2 ^ 12 % 16 < s.slotsOf c.kernel ∨ v / 2 ^ 12 % 16 = 15 ∧ c.slot = 15 := by
    simp [State.slotOk]
  rw [State.slotsOf] at hslot
  rw [ReturnWord, ← hslot, not_and_or, not_lt, Bool.not_eq_true]

theorem retTarget_not_uniform (hem : c.em ≠ 0#32) (hu : ∀ v, ¬Uniform c 1 a v) : s.retTarget rid c a = .error c.diverges := by
  simp [State.retTarget, not_uni_of_not_uniform hem hu]

theorem retTarget_not_word (hv : Gives c 1 a v) (hw : ¬ReturnWord s c v) :
    s.retTarget rid c a = .error (c.trapAt 0x018 1 0 c.low) := by
  rw [State.retTarget, uni_of_gives hv, uval_of_gives hv]
  exact if_pos (not_returnWord.mp hw)

theorem retTarget_absent (hv : Gives c 1 a v) (hw : ReturnWord s c v)
    (hc : (s.codeSlot (ridBay rid) c.kernel (v / 2 ^ 12 % 16)).code? = none) :
    s.retTarget rid c a = .error (c.trapAt 0x017 (v / 2 ^ 12 % 16) 0 c.low) := by
  rw [State.retTarget, uni_of_gives hv, uval_of_gives hv]
  refine (if_neg (not_returnWord.not_right.mp hw)).trans ?_
  rw [hc]
  rfl

theorem retTarget_full (hv : Gives c 1 a v) (hw : ReturnWord s c v)
    (hc : (s.codeSlot (ridBay rid) c.kernel (v / 2 ^ 12 % 16)).code? ≠ none) : s.retTarget rid c a =
      if s.marked rid c (v / 2 ^ 12 % 16) (v % 2 ^ 12 : ℕ) then .ok (v / 2 ^ 12 % 16, v % 2 ^ 12)
      else .error (c.trapAt 0x013 (v / 2 ^ 12 % 16 * 2 ^ 12 + v % 2 ^ 12) 0 c.low) := by
  obtain ⟨code, hcode⟩ := Option.ne_none_iff_exists'.mp hc
  have hbad := badTarget_of_lt (c := c) (v / 2 ^ 12 % 16) (Nat.mod_lt v (show 4096 > 0 by decide))
  rw [State.retTarget, uni_of_gives hv, uval_of_gives hv]
  refine (if_neg (not_returnWord.not_right.mp hw)).trans ?_
  rw [hcode, hbad]
  rfl

theorem full_of_marked {slot : ℕ} {t : ℤ} (h : s.marked rid c slot t = true) :
    (s.codeSlot (ridBay rid) c.kernel slot).code? ≠ none := by
  intro hc
  simp [State.marked, hc] at h

/-- The ordinary issue of RET. -/
def retHere (k : Ctl) (a : Reg) : Body := fun s rid c =>
  match c.cond k.pred with
  | none => .error c.diverges
  | some false => .ok { crew := { c with pc := s.nextPc rid c } }
  | some true =>
    match s.retTarget rid c a with
    | .error x => .error x
    | .ok (slot, pc) => .ok { crew := { c with slot := slot, pc := pc } }

/-- The bounding issue of RET. -/
def retInto (k : Ctl) (a : Reg) : BBody := fun s rid c =>
  match s.retTarget rid c a with
  | .error x => .error x
  | .ok (slot, pc) => .ok (s.finish rid k { c with slot := slot, pc := pc } [])

/-- RET is bounding where its condition passes and its word names another slot (R214). -/
theorem exec_ret (hi : Issuing s rid c (.ret k a)) : exec (.ret k a) s =
    if c.cond k.pred = some true ∧ c.uni 1 a = true ∧ c.uval 1 a / 2 ^ 12 ≠ c.slot then bounding (.ret k a) (retInto k a) s
    else ordinary (.ret k a) (retHere k a) s := by
  have h : exec (.ret k a) s = if ((c.cond k.pred == some true) && c.uni 1 a && decide (c.uval 1 a / 2 ^ 12 ≠ c.slot)) = true
      then bounding (.ret k a) (retInto k a) s else ordinary (.ret k a) (retHere k a) s := by
    change execRet k a s = _
    simp only [execRet, hi.place, hi.crew]
    rfl
  rw [h]
  simp [and_assoc]

theorem exec_ret_here (hi : Issuing s rid c (.ret k a))
    (h : c.cond k.pred = some true → c.uni 1 a = true → c.uval 1 a / 2 ^ 12 = c.slot) :
    exec (.ret k a) s = ordinary (.ret k a) (retHere k a) s := by
  rw [exec_ret hi, if_neg]
  exact fun ⟨hc, hu, hne⟩ => hne (h hc hu)

theorem exec_ret_into (hi : Issuing s rid c (.ret k a)) (h : CondTrue c k.pred) (hv : Gives c 1 a v) (hs : v / 2 ^ 12 ≠ c.slot) :
    exec (.ret k a) s = bounding (.ret k a) (retInto k a) s := by
  rw [exec_ret hi, if_pos ⟨cond_of_true h, uni_of_gives hv, by rwa [uval_of_gives hv]⟩]

theorem ret_not_taken (hi : Issuing s rid c (.ret k a)) (ht : Takes s rid c [] [] []) :
    (CondFalse c k.pred → Issues (.ret k a) s s rid c (goOn s rid c) {} []) ∧
      (¬CondTrue c k.pred → ¬CondFalse c k.pred → Traps (.ret k a) s rid c 0x014 0 0 c.low) :=
  not_taken rfl hi ht (fun h => exec_ret_here hi fun h' => absurd h' h) (fun h => by simp only [retHere, h])
    (fun h => by simp only [retHere, h, goOn])

theorem ret_trapsNow (h : Bounding s rid c (.ret k a)) (hc : CondTrue c k.pred) (hv : Gives c 1 a v) (hs : v / 2 ^ 12 ≠ c.slot)
    {kind aux : ℕ} (hr : s.retTarget rid c a = .error (c.trapAt kind aux 0 c.low)) : TrapsNow (.ret k a) s rid c kind aux 0 c.low := by
  refine trapsNow_of_error rfl h (exec_ret_into h.toIssuing hc hv hs) ?_
  have hb : (begun s rid c).retTarget rid c a = s.retTarget rid c a := rfl
  rw [retInto, hb, hr]

theorem ret_finishes (h : Bounding s rid c (.ret k a)) (hc : CondTrue c k.pred) (hv : Gives c 1 a v) (hs : v / 2 ^ 12 ≠ c.slot)
    {slot pc : ℕ} (hr : s.retTarget rid c a = .ok (slot, pc)) :
    Finishes (.ret k a) s s rid { c with slot := slot, pc := pc } [] := by
  refine finishes_of_finish (u := begun s rid c) (j := k) rfl h (exec_ret_into h.toIssuing hc hv hs) ?_ h.quiet rfl rfl rfl rfl
  have hb : (begun s rid c).retTarget rid c a = s.retTarget rid c a := rfl
  rw [retInto, hb, hr]

theorem ret_traps (hi : Issuing s rid c (.ret k a)) (hc : CondTrue c k.pred) (hs : c.uni 1 a = true → c.uval 1 a / 2 ^ 12 = c.slot)
    {kind aux : ℕ} (hr : s.retTarget rid c a = .error (c.trapAt kind aux 0 c.low)) : Traps (.ret k a) s rid c kind aux 0 c.low :=
  traps_of_error rfl hi (exec_ret_here hi fun _ => hs) (by simp only [retHere, cond_of_true hc, hr])

theorem ret_issues (hi : Issuing s rid c (.ret k a)) (ht : Takes s rid c [] [] []) (hc : CondTrue c k.pred)
    (hs : c.uni 1 a = true → c.uval 1 a / 2 ^ 12 = c.slot) {slot pc : ℕ} (hr : s.retTarget rid c a = .ok (slot, pc)) :
    Issues (.ret k a) s s rid c { c with slot := slot, pc := pc } {} [] :=
  issues_of_ok (cells := []) (lat := none) rfl hi ht (exec_ret_here hi fun _ => hs) (by simp only [retHere, cond_of_true hc, hr]) rfl rfl

end

/-- Settles O21: the checks of BRA and CALL, of BRX and of RET in their order, then where they go. -/
theorem branchesAndReturns : Obligations.BranchesAndReturns := by
  refine ⟨?_, ?_, ?_⟩
  · rintro s rid c k d off i (rfl | rfl) hi ht
    · refine ⟨branch_unmarked rfl hi rfl, fun hm => ?_⟩
      obtain ⟨hfalse, hneither⟩ := branch_not_taken rfl hi ht rfl hm
      exact ⟨hneither, hfalse, fun h _ => bra_issues hi ht hm h, fun _ => nofun⟩
    · refine ⟨branch_unmarked rfl hi rfl, fun hm => ?_⟩
      obtain ⟨hfalse, hneither⟩ := branch_not_taken rfl hi ht rfl hm
      exact ⟨hneither, hfalse, fun _ => nofun, fun h _ => call_issues hi ht hm h⟩
  · intro s rid c k a hi ht
    obtain ⟨hfalse, hneither⟩ := brx_not_taken hi ht
    exact ⟨hfalse, hneither, brx_diverges hi,
      fun v h hv => ⟨brx_past hi h hv, brx_unmarked hi h hv, brx_issues hi ht h hv⟩⟩
  · intro s rid c k a hi
    refine ⟨fun ht => ?_, fun v h hv => ⟨fun hs ht => ?_, fun hs hq => ?_⟩⟩
    · obtain ⟨hfalse, hneither⟩ := ret_not_taken hi ht
      refine ⟨hfalse, hneither, fun h hem hu => ?_⟩
      exact ret_traps hi h (fun hu' => by simp [not_uni_of_not_uniform hem hu] at hu') (retTarget_not_uniform hem hu)
    · have hs' : c.uni 1 a = true → c.uval 1 a / 2 ^ 12 = c.slot := fun _ => uval_of_gives hv ▸ hs
      refine ⟨fun hw => ret_traps hi h hs' (retTarget_not_word hv hw), fun hw hf => ?_, fun hw hf hm => ?_, fun hw hm => ?_⟩
      · exact ret_traps hi h hs' (retTarget_absent hv hw (not_not.mp hf))
      · exact ret_traps hi h hs' (by rw [retTarget_full hv hw hf, hm]; rfl)
      · exact ret_issues hi ht h hs' (by rw [retTarget_full hv hw (full_of_marked hm), hm]; rfl)
    · have hb : Bounding s rid c (.ret k a) := ⟨hi, hq⟩
      refine ⟨fun hw => ret_trapsNow hb h hv hs (retTarget_not_word hv hw), fun hw hf => ?_, fun hw hf hm => ?_, fun hw hm => ?_⟩
      · exact ret_trapsNow hb h hv hs (retTarget_absent hv hw (not_not.mp hf))
      · exact ret_trapsNow hb h hv hs (by rw [retTarget_full hv hw hf, hm]; rfl)
      · exact ret_finishes hb h hv hs (by rw [retTarget_full hv hw (full_of_marked hm), hm]; rfl)

end Sys2Proof.Laws
end

section
namespace Sys2Proof.Laws

open Machine

/-! ## A waiting fault of no context (R258, R391) -/

/-- A fault that waits for an entry of die 0, of a context whose number is no context's: its record would lie where
comparator 0 does (`SysTab.addr .context 0xC000 = SysTab.addr .comparator 0`). -/
def strayWait : FqWait := ⟨0, 0xC000, 0x030, 0, 0, 0, 0, 0, false, .reds⟩

/-- After reset, with a crew of kernel 0, whose context, 0, has claimed entry 0 of die 0, and with that fault waiting. -/
def strayState : State :=
  { State.reset with
    place := .crew 0
    crews := [(0, Crew.start 0 0 0 8 0 0#32)]
    fq := [⟨0, 0, 0, 0, true, 0x030, 0, 0, 0, 0, 0, [], [], 0⟩]
    fqWait := [strayWait] }

/-- PGQ.done of the entry that v0:1 names. -/
def doneEntry : Instr := .pgqDone ⟨.l64, 0, none, 0, false, false, .always⟩ 4 0

/-- Every kernel slot is unused, so that no kernel names a context or a queue out of range. -/
theorem strayState_kern (k : ℕ) : strayState.kern k = Kernel.init := rfl

/-- The entry that becomes free goes to the waiting fault, whose record the fault log loses: the count of losses is written in the
record of its context, which is comparator 0. -/
theorem doneEntry_writes_comparator : ∃ t, exec doneEntry strayState = .next t ∧ t.rcd .comparator 0 = Ctx.flost.set 0 1 := by
  refine ⟨_, rfl, ?_⟩
  decide +kernel

/-- Refutes O10: the context of a fault that waits for an entry is not bounded by the hypothesis on the kernels' contexts, and PGQ.done
logs that fault. -/
theorem not_contextsAndComparators : ¬ Obligations.ContextsAndComparators := by
  intro h
  obtain ⟨t, ht, hc⟩ := doneEntry_writes_comparator
  obtain ⟨-, -, hcmp⟩ := h doneEntry strayState t 0 (by decide) rfl ht
  have hs : t.rcd .comparator 0 = strayState.rcd .comparator 0 :=
    hcmp (fun k => by rw [strayState_kern]; decide) (fun _ _ _ _ => by simp [doneEntry]) (fun _ _ => by simp [doneEntry]) 0 (by decide)
  rw [hc] at hs
  exact absurd hs (by decide)

end Sys2Proof.Laws
end

section
namespace Sys2Proof.Machine

open Claims

/-! ## Fields and records (R7, R250) -/

/-- No bit is in both fields. -/
def Fld.apart (f g : Fld) : Bool := decide (f.lo + f.w ≤ g.lo) || decide (g.lo + g.w ≤ f.lo)

theorem Fld.testBit_get (f : Fld) (r i : ℕ) : (f.get r).testBit i = (decide (i < f.w) && r.testBit (i + f.lo)) := by
  rw [Fld.get, Nat.testBit_mod_two_pow, Nat.testBit_div_two_pow]

theorem Fld.testBit_set (f : Fld) (r v i : ℕ) :
    (f.set r v).testBit i = if f.lo ≤ i ∧ i < f.lo + f.w then v.testBit (i - f.lo) else r.testBit i := by
  have hset : f.set r v = 2 ^ f.lo * (2 ^ f.w * (r / 2 ^ (f.lo + f.w)) + v % 2 ^ f.w) + r % 2 ^ f.lo := by
    rw [Fld.set, pow_add]
    ring
  rw [hset, Nat.testBit_two_pow_mul_add _ (Nat.mod_lt _ (by positivity)), Nat.testBit_two_pow_mul_add _ (Nat.mod_lt _ (by positivity)),
    Nat.testBit_mod_two_pow, Nat.testBit_mod_two_pow, Nat.testBit_div_two_pow]
  rcases lt_or_ge i f.lo with hlo | hlo
  · simp [hlo, show ¬f.lo ≤ i by omega]
  · rcases lt_or_ge i (f.lo + f.w) with hw | hw
    · simp [hlo, hw, show ¬i < f.lo by omega, show i - f.lo < f.w by omega]
    · simp [show ¬i < f.lo by omega, show ¬i - f.lo < f.w by omega, show ¬i < f.lo + f.w by omega,
        show i - f.lo - f.w + (f.lo + f.w) = i by omega]

/-- A field that has been set reads as the value, modulo its width. -/
@[simp] theorem Fld.get_set_self (f : Fld) (r v : ℕ) : f.get (f.set r v) = v % 2 ^ f.w := by
  apply Nat.eq_of_testBit_eq
  intro i
  rw [Fld.testBit_get, Fld.testBit_set, Nat.testBit_mod_two_pow]
  by_cases hi : i < f.w <;> simp [hi, show i + f.lo < f.lo + f.w ↔ i < f.w by omega]

/-- A field apart from one that has been set reads as before. -/
theorem Fld.get_set_of_apart {f g : Fld} (h : f.apart g = true) (r v : ℕ) : g.get (f.set r v) = g.get r := by
  simp only [Fld.apart, Bool.or_eq_true, decide_eq_true_eq] at h
  apply Nat.eq_of_testBit_eq
  intro i
  rw [Fld.testBit_get, Fld.testBit_get, Fld.testBit_set]
  by_cases hi : i < g.w
  · rw [if_neg (by omega)]
  · simp [hi]

@[simp] theorem State.setLog_log_self (s : State) (n : ℕ) (f : CtxLog → CtxLog) : (s.setLog n f).log n = f (s.log n) := by
  simp [State.log, State.setLog, Tbl.getD]

/-- Writing a record leaves every record at another address. -/
theorem State.rcd_setRcd_of_addr_ne (s : State) {tab tab' : SysTab} {n m : ℕ} (v : ℕ) (h : tab'.addr m ≠ tab.addr n) :
    (s.setRcd tab n v).rcd tab' m = s.rcd tab' m :=
  Tbl.getD_write_ne _ _ _ _ h.symm

@[simp] theorem State.setFld_rcd_self (s : State) (tab : SysTab) (n : ℕ) (f : Fld) (v : ℕ) :
    (s.setFld tab n f v).rcd tab n = f.set (s.rcd tab n) v :=
  State.setRcd_rcd_self s tab n _

/-- Only the context records lie below the address of queue record 0. -/
theorem SysTab.le_addr {tab : SysTab} (h : tab ≠ .context) (m : ℕ) : SysTab.addr .queue 0 ≤ tab.addr m := by
  have hb : SysTab.addr .queue 0 ≤ tab.base := by
    cases tab with
    | context => contradiction
    | queue | cox | pool | shape | link | port | member | exports | comparator | debug | power | region | tree | count => decide
  exact Nat.le_add_right_of_le hb

theorem SysTab.context_addr_lt {n : ℕ} (h : n < 1024) : SysTab.addr .context n < SysTab.addr .queue 0 := by
  simp only [SysTab.addr, SysTab.base, SysTab.bytes, SysTab.place]
  omega

/-- The record of a context lies apart from every record of another table. -/
theorem SysTab.context_addr_ne {n : ℕ} (hn : n < 1024) {tab : SysTab} (h : tab ≠ .context) (m : ℕ) :
    SysTab.addr .context n ≠ tab.addr m :=
  ((SysTab.context_addr_lt hn).trans_le (SysTab.le_addr h m)).ne

theorem SysTab.context_addr_inj {n m : ℕ} : SysTab.addr .context n = SysTab.addr .context m ↔ n = m := by
  simp only [SysTab.addr, SysTab.base, SysTab.bytes, SysTab.place]
  omega


/-! ## What a context command sets and reports (R76) -/

section
variable {s t u : State} {n : ℕ}

theorem Sets.append {tab : SysTab} {l l' : List (Fld × ℕ)} (h : Sets s t tab n l) (h' : Sets t u tab n l') : Sets s u tab n (l ++ l') := by
  obtain ⟨h1, h2⟩ := h
  obtain ⟨h3, h4⟩ := h'
  exact ⟨by rw [h3, h1, List.foldl_append], fun tab' m hm => (h4 tab' m hm).trans (h2 tab' m hm)⟩

/-- Setting fields changes the records only. -/
theorem State.ctxSet_eq (s : State) (n : ℕ) (l : List (Fld × ℕ)) : s.ctxSet n l = { s with sys := (s.ctxSet n l).sys } := by
  induction l generalizing s with
  | nil => rfl
  | cons p l ih => exact ih (s.setFld .context n p.1 p.2)

theorem State.sets_ctxSet (s : State) (n : ℕ) (l : List (Fld × ℕ)) : Sets s (s.ctxSet n l) .context n l := by
  induction l generalizing s with
  | nil => exact ⟨rfl, fun _ _ _ => rfl⟩
  | cons p l ih =>
    exact Sets.append (l := [p]) ⟨State.setFld_rcd_self s _ _ _ _, fun _ _ => State.rcd_setRcd_of_addr_ne s _⟩
      (ih (s.setFld .context n p.1 p.2))

/-- A field apart from those set reads as before. -/
theorem State.fld_ctxSet_of_apart (s : State) (n : ℕ) {l : List (Fld × ℕ)} {f : Fld} (h : ∀ p ∈ l, p.1.apart f = true) :
    (s.ctxSet n l).fld .context n f = s.fld .context n f := by
  induction l generalizing s with
  | nil => rfl
  | cons p l ih =>
    refine (ih (s.setFld .context n p.1 p.2) (fun q hq => h q (by simp [hq]))).trans ?_
    rw [State.fld, State.setFld_rcd_self, Fld.get_set_of_apart (h p (by simp)), State.fld]

theorem State.ctxDone_eq_ctxSet (s : State) (n st : ℕ) :
    s.ctxDone n st = s.ctxSet n [(Ctx.cseq, s.fld .context n Ctx.cseq + 1), (Ctx.cstat, st)] := rfl

theorem State.ctxDone_eq (s : State) (n st : ℕ) : s.ctxDone n st = { s with sys := (s.ctxDone n st).sys } := by
  rw [State.ctxDone_eq_ctxSet]
  exact s.ctxSet_eq n _

theorem State.ctxSet_sys_congr (h : s.sys = t.sys) (n : ℕ) (l : List (Fld × ℕ)) : (s.ctxSet n l).sys = (t.ctxSet n l).sys := by
  induction l generalizing s t with
  | nil => exact h
  | cons p l ih => exact ih (by simp [State.setFld, State.setRcd, State.rcd, h])

theorem State.ctxDone_sys_congr (h : s.sys = t.sys) (n st : ℕ) : (s.ctxDone n st).sys = (t.ctxDone n st).sys := by
  rw [State.ctxDone_eq_ctxSet, State.ctxDone_eq_ctxSet, State.fld, State.fld, State.rcd, State.rcd, h]
  exact State.ctxSet_sys_congr h n _

/-- What is set is a matter of the records. -/
theorem Sets.of_sys {tab : SysTab} {l : List (Fld × ℕ)} (h : Sets s t tab n l) (hu : u.sys = t.sys) : Sets s u tab n l := by
  have hr (tab' : SysTab) (m : ℕ) : u.rcd tab' m = t.rcd tab' m := by rw [State.rcd, State.rcd, hu]
  exact ⟨(hr _ _).trans h.1, fun tab' m hm => (hr _ _).trans (h.2 tab' m hm)⟩

/-- A command that sets fields apart from its sequence number, and reports. -/
theorem State.sets_ctxSet_ctxDone (s : State) (n st : ℕ) {l : List (Fld × ℕ)} (h : ∀ p ∈ l, p.1.apart Ctx.cseq = true) :
    Sets s ((s.ctxSet n l).ctxDone n st) .context n (l ++ [(Ctx.cseq, s.fld .context n Ctx.cseq + 1), (Ctx.cstat, st)]) := by
  refine Sets.append (s.sets_ctxSet n l) ?_
  rw [State.ctxDone_eq_ctxSet, State.fld_ctxSet_of_apart s n h]
  exact State.sets_ctxSet _ n _

theorem atCtx_of_place {f : ℕ → State} (h : s.place = .ctx n) : atCtx s f = .next (f n) := by
  rw [atCtx, h]

theorem ctxCommand_of_busy {f : State → ℕ → Option ℕ × State} (h : s.place = .ctx n) (hb : s.fld .context n Ctx.busy = 1) :
    ctxCommand s f = .next (s.ctxDone n 1) := by
  rw [ctxCommand, atCtx_of_place h, if_pos hb]

theorem ctxCommand_of_done {f : State → ℕ → Option ℕ × State} {st : ℕ} (h : s.place = .ctx n) (hb : s.fld .context n Ctx.busy = 0)
    (hf : f s n = (some st, t)) : ctxCommand s f = .next (t.ctxDone n st) := by
  rw [ctxCommand, atCtx_of_place h, if_neg (by omega), hf]

theorem ctxCommand_of_begun {f : State → ℕ → Option ℕ × State} (h : s.place = .ctx n) (hb : s.fld .context n Ctx.busy = 0)
    (hf : f s n = (none, t)) : ctxCommand s f = .next t := by
  rw [ctxCommand, atCtx_of_place h, if_neg (by omega), hf]

theorem ctxReports_of_exec {i : Instr} {st : ℕ} (h : exec i s = .next (s.ctxDone n st)) : CtxReports i s n st :=
  ⟨_, h, s.ctxSet_eq n [(Ctx.cseq, s.fld .context n Ctx.cseq + 1), (Ctx.cstat, st)],
    s.sets_ctxSet n [(Ctx.cseq, s.fld .context n Ctx.cseq + 1), (Ctx.cstat, st)]⟩

theorem exec_unknownCommand (h : s.place = .ctx n) :
    exec .unknownCommand s = .next (s.ctxDone n (if s.fld .context n Ctx.busy = 1 then 1 else 4)) := by
  change execUnknownCommand s = _
  rw [execUnknownCommand, h]

theorem reports_of_busy (h : s.place = .ctx n) (hb : s.fld .context n Ctx.busy = 1) :
    CtxReports .ctxCreate s n 1 ∧ CtxReports .ctxActivate s n 1 ∧ CtxReports .ctxSuspend s n 1 ∧ CtxReports .ctxResume s n 1 ∧
      CtxReports .ctxClear s n 1 ∧ CtxReports .unknownCommand s n 1 := by
  refine ⟨ctxReports_of_exec ?_, ctxReports_of_exec ?_, ctxReports_of_exec ?_, ctxReports_of_exec ?_, ctxReports_of_exec ?_,
    ctxReports_of_exec ?_⟩
  · exact (ctxCommand_of_busy h hb : execCtxCreate s = _)
  · exact (ctxCommand_of_busy h hb : execCtxActivate s = _)
  · exact (ctxCommand_of_busy h hb : execCtxSuspend s = _)
  · exact (ctxCommand_of_busy h hb : execCtxResume s = _)
  · exact (ctxCommand_of_busy h hb : execCtxClear s = _)
  · rw [exec_unknownCommand h, if_pos hb]

end

/-! ## CREATE, ACTIVATE, RESUME and CLEAR (R77, R79) -/

section
variable {s : State} {n : ℕ} (h : s.place = .ctx n) (hb : s.fld .context n Ctx.busy = 0)
include h hb

theorem unknownCommand_reports : CtxReports .unknownCommand s n 4 :=
  ctxReports_of_exec (by rw [exec_unknownCommand h, if_neg (by omega)])

/-- What CREATE sets in the record before it reports. -/
def createSets : List (Fld × ℕ) :=
  [(Ctx.ntrees, 0), (Ctx.nqueues, 0), (Ctx.npinned, 0), (Ctx.fput, 0), (Ctx.oput, 0), (Ctx.sput, 0), (Ctx.flost, 0), (Ctx.cause, 0),
    (Ctx.state, 1)]

theorem execCtxCreate_eq : execCtxCreate s = .next (
    if s.fld .context n Ctx.state ≠ 0 then s.ctxDone n 2
    else if s.ctxValid n = false then s.ctxDone n 3
    else (((s.ctxSet n createSets).readCfg n).setLog n (fun _ => CtxLog.init)).ctxDone n 0) := by
  unfold execCtxCreate
  split
  · next hs => exact ctxCommand_of_done h hb (if_pos hs)
  · next hs =>
    split
    · next hv => exact ctxCommand_of_done h hb ((if_neg hs).trans (if_pos (by simp [hv])))
    · next hv => exact ctxCommand_of_done h hb ((if_neg hs).trans (if_neg (by simpa using hv)))

theorem execCtxActivate_eq : execCtxActivate s = .next (
    if s.fld .context n Ctx.state ≠ 1 then s.ctxDone n 2 else (s.ctxSet n [(Ctx.state, 2)]).kick.ctxDone n 0) := by
  unfold execCtxActivate
  split
  · next hs => exact ctxCommand_of_done h hb (if_pos hs)
  · next hs => exact ctxCommand_of_done h hb (if_neg hs)

/-- What RESUME reads before it sets the state: the configuration, and what the order log keeps of it. -/
def State.reread (s : State) (n : ℕ) : State :=
  (s.readCfg n).setLog n (fun l => l.resumed
    (decide (s.cfg n Ctx.record = s.fld .context n Ctx.record) && decide (s.cfg n Ctx.replay = s.fld .context n Ctx.replay))
    (s.fld .context n Ctx.oget))

theorem execCtxResume_eq : execCtxResume s = .next (
    if s.fld .context n Ctx.state ≠ 3 then s.ctxDone n 2
    else if s.ctxValid n = false then s.ctxDone n 3
    else ((s.reread n).ctxSet n [(Ctx.state, 2)]).kick.ctxDone n 0) := by
  unfold execCtxResume
  split
  · next hs => exact ctxCommand_of_done h hb (if_pos hs)
  · next hs =>
    split
    · next hv => exact ctxCommand_of_done h hb ((if_neg hs).trans (if_pos (by simp [hv])))
    · next hv => exact ctxCommand_of_done h hb ((if_neg hs).trans (if_neg (by simpa using hv)))

theorem execCtxClear_eq : execCtxClear s = .next (
    if s.fld .context n Ctx.state ≠ 4 then s.ctxDone n 2 else (s.ctxSet n [(Ctx.state, 3)]).ctxDone n 0) := by
  unfold execCtxClear
  split
  · next hs => exact ctxCommand_of_done h hb (if_pos hs)
  · next hs => exact ctxCommand_of_done h hb (if_neg hs)

end

section
variable {s : State} {n : ℕ}

/-- The configuration read is that of the record, whose fields the command leaves. -/
theorem State.cfg_readCfg (s : State) (n : ℕ) (f : Fld) : (s.readCfg n).cfg n f = s.fld .context n f := by
  rw [State.cfg, State.readCfg, Tbl.getD, Tbl.get?_set_self, Option.getD_some, State.fld]

theorem ctxCreate_runs (h : s.place = .ctx n) (hb : s.fld .context n Ctx.busy = 0) (hs : s.fld .context n Ctx.state = 0)
    (hv : s.ctxValid n = true) : Runs .ctxCreate s (fun t =>
      t = { s with sys := t.sys, ctxCfg := t.ctxCfg, logs := t.logs } ∧ t.log n = CtxLog.init ∧
      Sets s t .context n (createSets ++ [(Ctx.cseq, s.fld .context n Ctx.cseq + 1), (Ctx.cstat, 0)]) ∧
      ∀ f ∈ configFields, t.cfg n f = s.fld .context n f) := by
  obtain ⟨u, hu⟩ : ∃ u, u = ((s.ctxSet n createSets).readCfg n).setLog n (fun _ => CtxLog.init) := ⟨_, rfl⟩
  obtain ⟨x, hx⟩ : ∃ x, u.ctxDone n 0 = { u with sys := x } := ⟨_, u.ctxDone_eq n 0⟩
  obtain ⟨y, hy⟩ : ∃ y, s.ctxSet n createSets = { s with sys := y } := ⟨_, s.ctxSet_eq n createSets⟩
  have hsys : u.sys = (s.ctxSet n createSets).sys := by
    rw [hu, hy]
    rfl
  refine ⟨u.ctxDone n 0, ?_, ?_, ?_, ?_, fun f hf => ?_⟩
  · rw [hu]
    exact (execCtxCreate_eq h hb).trans (by rw [if_neg (by simp [hs]), if_neg (by simp [hv])])
  · rw [hx, hu, hy]
    rfl
  · have hl : (u.ctxDone n 0).log n = u.log n := by
      rw [hx]
      rfl
    rw [hl, hu, State.setLog_log_self]
  · exact Sets.of_sys (s.sets_ctxSet_ctxDone n 0 (l := createSets) (by decide)) (State.ctxDone_sys_congr hsys n 0)
  · have hc : (u.ctxDone n 0).cfg n f = ((s.ctxSet n createSets).readCfg n).cfg n f := by
      rw [hx, hu, hy]
      rfl
    rw [hc, State.cfg_readCfg]
    exact s.fld_ctxSet_of_apart n ((by decide : ∀ f ∈ configFields, ∀ p ∈ createSets, p.1.apart f = true) f hf)

theorem ctxActivate_runs (h : s.place = .ctx n) (hb : s.fld .context n Ctx.busy = 0) (hs : s.fld .context n Ctx.state = 1) :
    Runs .ctxActivate s (fun t => t = { s with sys := t.sys, agenda := s.agenda ++ [.event .none .coxChoose] } ∧
      Sets s t .context n [(Ctx.state, 2), (Ctx.cseq, s.fld .context n Ctx.cseq + 1), (Ctx.cstat, 0)]) := by
  refine ⟨(s.ctxSet n [(Ctx.state, 2)]).kick.ctxDone n 0, (execCtxActivate_eq h hb).trans (by rw [if_neg (by simp [hs])]), ?_, ?_⟩
  · rw [State.ctxDone_eq, State.ctxSet_eq]
    rfl
  · exact Sets.of_sys (s.sets_ctxSet_ctxDone n 0 (l := [(Ctx.state, 2)]) (by decide)) (State.ctxDone_sys_congr rfl n 0)

theorem ctxResume_runs (h : s.place = .ctx n) (hb : s.fld .context n Ctx.busy = 0) (hs : s.fld .context n Ctx.state = 3)
    (hv : s.ctxValid n = true) : Runs .ctxResume s (fun t =>
      t = { s with sys := t.sys, ctxCfg := t.ctxCfg, logs := t.logs, agenda := s.agenda ++ [.event .none .coxChoose] } ∧
      Sets s t .context n [(Ctx.state, 2), (Ctx.cseq, s.fld .context n Ctx.cseq + 1), (Ctx.cstat, 0)] ∧
      ∀ f ∈ configFields, t.cfg n f = s.fld .context n f) := by
  obtain ⟨u, hu⟩ : ∃ u, u = ((s.reread n).ctxSet n [(Ctx.state, 2)]).kick := ⟨_, rfl⟩
  obtain ⟨x, hx⟩ : ∃ x, u.ctxDone n 0 = { u with sys := x } := ⟨_, u.ctxDone_eq n 0⟩
  obtain ⟨y, hy⟩ : ∃ y, (s.reread n).ctxSet n [(Ctx.state, 2)] = { s.reread n with sys := y } := ⟨_, State.ctxSet_eq _ n _⟩
  have hsys : u.sys = (s.ctxSet n [(Ctx.state, 2)]).sys := by
    rw [hu]
    exact State.ctxSet_sys_congr rfl n _
  refine ⟨u.ctxDone n 0, ?_, ?_, ?_, fun f _ => ?_⟩
  · rw [hu]
    exact (execCtxResume_eq h hb).trans (by rw [if_neg (by simp [hs]), if_neg (by simp [hv])])
  · rw [hx, hu, hy]
    rfl
  · exact Sets.of_sys (s.sets_ctxSet_ctxDone n 0 (l := [(Ctx.state, 2)]) (by decide)) (State.ctxDone_sys_congr hsys n 0)
  · rw [hx, hu, hy]
    exact s.cfg_readCfg n f

theorem ctxClear_runs (h : s.place = .ctx n) (hb : s.fld .context n Ctx.busy = 0) (hs : s.fld .context n Ctx.state = 4) :
    Runs .ctxClear s (fun t => t = { s with sys := t.sys } ∧
      Sets s t .context n [(Ctx.state, 3), (Ctx.cseq, s.fld .context n Ctx.cseq + 1), (Ctx.cstat, 0)]) := by
  refine ⟨(s.ctxSet n [(Ctx.state, 3)]).ctxDone n 0, (execCtxClear_eq h hb).trans (by rw [if_neg (by simp [hs])]), ?_, ?_⟩
  · rw [State.ctxDone_eq, State.ctxSet_eq]
  · exact s.sets_ctxSet_ctxDone n 0 (l := [(Ctx.state, 3)]) (by decide)

/-! ### Refusals -/

theorem ctxCreate_refused (h : s.place = .ctx n) (hb : s.fld .context n Ctx.busy = 0) (hs : s.fld .context n Ctx.state ≠ 0) :
    CtxReports .ctxCreate s n 2 :=
  ctxReports_of_exec ((execCtxCreate_eq h hb).trans (by rw [if_pos hs]))

theorem ctxCreate_invalid (h : s.place = .ctx n) (hb : s.fld .context n Ctx.busy = 0) (hs : s.fld .context n Ctx.state = 0)
    (hv : s.ctxValid n = false) : CtxReports .ctxCreate s n 3 :=
  ctxReports_of_exec ((execCtxCreate_eq h hb).trans (by rw [if_neg (by simpa using hs), if_pos hv]))

theorem ctxActivate_refused (h : s.place = .ctx n) (hb : s.fld .context n Ctx.busy = 0) (hs : s.fld .context n Ctx.state ≠ 1) :
    CtxReports .ctxActivate s n 2 :=
  ctxReports_of_exec ((execCtxActivate_eq h hb).trans (by rw [if_pos hs]))

theorem ctxResume_refused (h : s.place = .ctx n) (hb : s.fld .context n Ctx.busy = 0) (hs : s.fld .context n Ctx.state ≠ 3) :
    CtxReports .ctxResume s n 2 :=
  ctxReports_of_exec ((execCtxResume_eq h hb).trans (by rw [if_pos hs]))

theorem ctxResume_invalid (h : s.place = .ctx n) (hb : s.fld .context n Ctx.busy = 0) (hs : s.fld .context n Ctx.state = 3)
    (hv : s.ctxValid n = false) : CtxReports .ctxResume s n 3 :=
  ctxReports_of_exec ((execCtxResume_eq h hb).trans (by rw [if_neg (by simpa using hs), if_pos hv]))

theorem ctxClear_refused (h : s.place = .ctx n) (hb : s.fld .context n Ctx.busy = 0) (hs : s.fld .context n Ctx.state ≠ 4) :
    CtxReports .ctxClear s n 2 :=
  ctxReports_of_exec ((execCtxClear_eq h hb).trans (by rw [if_pos hs]))

end

/-! ## The suspension sequence (R81) -/

/-- The record of context n, the suspensions and the launch records are as before. -/
structure Keeps (n : ℕ) (s t : State) : Prop where
  rcd : t.rcd .context n = s.rcd .context n
  suspending : t.suspending = s.suspending
  launch : ∀ k, (t.kern k).launch = (s.kern k).launch

/-- So is everything of the kernels that a suspension goes by. -/
structure KeepsKernels (n : ℕ) (s t : State) : Prop extends Keeps n s t where
  listed : ∀ k, (s.kernels.get? k).isSome → (t.kernels.get? k).isSome
  ctx : ∀ k, (t.kern k).ctx = (s.kern k).ctx
  state : ∀ k, (t.kern k).state = (s.kern k).state
  ending : ∀ k, (t.kern k).ending = (s.kern k).ending
  stop : ∀ k, (t.kern k).stop = (s.kern k).stop

section
variable {n : ℕ} {s t u : State}

theorem Keeps.refl (n : ℕ) (s : State) : Keeps n s s := ⟨rfl, rfl, fun _ => rfl⟩

theorem Keeps.trans (h : Keeps n s t) (h' : Keeps n t u) : Keeps n s u :=
  ⟨h'.rcd.trans h.rcd, h'.suspending.trans h.suspending, fun k => (h'.launch k).trans (h.launch k)⟩

theorem Keeps.fld (h : Keeps n s t) (f : Fld) : t.fld .context n f = s.fld .context n f := by
  rw [State.fld, h.rcd, State.fld]

theorem Keeps.lch (h : Keeps n s t) (k : ℕ) (f : Fld) : t.lch k f = s.lch k f := by
  rw [State.lch, h.launch, State.lch]

theorem Keeps.foldl {α : Type} {f : State → α → State} (hf : ∀ t a, Keeps n t (f t a)) (l : List α) (s : State) :
    Keeps n s (l.foldl f s) := by
  induction l generalizing s with
  | nil => exact .refl n s
  | cons a l ih => exact (hf s a).trans (ih _)

theorem KeepsKernels.refl (n : ℕ) (s : State) : KeepsKernels n s s :=
  ⟨.refl n s, fun _ h => h, fun _ => rfl, fun _ => rfl, fun _ => rfl, fun _ => rfl⟩

theorem KeepsKernels.trans (h : KeepsKernels n s t) (h' : KeepsKernels n t u) : KeepsKernels n s u where
  toKeeps := h.toKeeps.trans h'.toKeeps
  listed k hk := h'.listed k (h.listed k hk)
  ctx k := (h'.ctx k).trans (h.ctx k)
  state k := (h'.state k).trans (h.state k)
  ending k := (h'.ending k).trans (h.ending k)
  stop k := (h'.stop k).trans (h.stop k)

theorem KeepsKernels.foldl {α : Type} {f : State → α → State} (hf : ∀ t a, KeepsKernels n t (f t a)) (l : List α) (s : State) :
    KeepsKernels n s (l.foldl f s) := by
  induction l generalizing s with
  | nil => exact .refl n s
  | cons a l ih => exact (hf s a).trans (ih _)

theorem KeepsKernels.ite {p : Prop} [Decidable p] (ht : KeepsKernels n s t) (hu : KeepsKernels n s u) :
    KeepsKernels n s (if p then t else u) := by
  split <;> assumption

/-- An update of neither records nor kernels nor suspensions. -/
theorem KeepsKernels.of_eq (hk : t.kernels = s.kernels) (hs : t.sys = s.sys) (hq : t.suspending = s.suspending) :
    KeepsKernels n s t := by
  have hkern (k : ℕ) : t.kern k = s.kern k := by rw [State.kern, hk, State.kern]
  exact ⟨⟨by rw [State.rcd, hs, State.rcd], hq, fun k => by rw [hkern]⟩, fun k h => by rwa [hk], fun k => by rw [hkern],
    fun k => by rw [hkern], fun k => by rw [hkern], fun k => by rw [hkern]⟩

theorem State.kern_setKern (s : State) (k j : ℕ) (f : Kernel → Kernel) :
    (s.setKern k f).kern j = if j = k then f (s.kern k) else s.kern j := by
  split
  · next h => rw [h, State.setKern_kern_self]
  · next h => exact State.setKern_kern_ne s f (Ne.symm h)

/-- A change of a kernel's other fields. -/
theorem State.setKern_keeps (n : ℕ) (s : State) {k : ℕ} {f : Kernel → Kernel} (hf : (f (s.kern k)).launch = (s.kern k).launch) :
    Keeps n s (s.setKern k f) := by
  refine ⟨rfl, rfl, fun j => ?_⟩
  rw [State.kern_setKern]
  split
  · next h => rw [h, hf]
  · rfl

theorem State.setKern_keepsKernels (n : ℕ) (s : State) {k : ℕ} {f : Kernel → Kernel}
    (hf : ∀ y, (f y).launch = y.launch ∧ (f y).ctx = y.ctx ∧ (f y).state = y.state ∧ (f y).ending = y.ending ∧ (f y).stop = y.stop) :
    KeepsKernels n s (s.setKern k f) := by
  obtain ⟨h1, h2, h3, h4, h5⟩ := hf (s.kern k)
  refine ⟨s.setKern_keeps n h1, fun j hj => ?_, fun j => ?_, fun j => ?_, fun j => ?_, fun j => ?_⟩
  · rcases eq_or_ne k j with rfl | hne
    · simp [State.setKern]
    · rwa [State.setKern, Tbl.get?_set_ne _ _ hne]
  all_goals
    rw [State.kern_setKern]
    split
    · next h => rw [h]; assumption
    · rfl

/-- A record of another table lies apart from the context's. -/
theorem State.setFld_keepsKernels (hn : n < 1024) (s : State) {tab : SysTab} (ht : tab ≠ .context) (m : ℕ) (f : Fld) (v : ℕ) :
    KeepsKernels n s (s.setFld tab m f v) :=
  ⟨⟨State.rcd_setRcd_of_addr_ne s _ (SysTab.context_addr_ne hn ht m), rfl, fun _ => rfl⟩, fun _ h => h, fun _ => rfl, fun _ => rfl,
    fun _ => rfl, fun _ => rfl⟩

end

/-! ### Crews that stop -/

section
variable (n : ℕ) (s : State)

theorem State.setCrew_keepsKernels (rid : ℕ) (f : Crew → Crew) : KeepsKernels n s (s.setCrew rid f) := .of_eq rfl rfl rfl

theorem State.post_keepsKernels (p : Place) (i : Instr) : KeepsKernels n s (s.post p i) := .of_eq rfl rfl rfl

theorem State.squashFrom_keepsKernels (rid i : ℕ) : KeepsKernels n s (s.squashFrom rid i) := by
  unfold State.squashFrom
  (repeat' split) <;> exact .of_eq rfl rfl rfl

theorem State.onWindow_keepsKernels (k idx : ℕ) (f : Window → Window) : KeepsKernels n s (s.onWindow k idx f) := by
  unfold State.onWindow
  split
  · split
    · exact .refl n s
    · exact s.setKern_keepsKernels n (fun _ => ⟨rfl, rfl, rfl, rfl, rfl⟩)
  · exact .refl n s

theorem State.redsChanged_keepsKernels : KeepsKernels n s s.redsChanged := by
  refine KeepsKernels.trans (t := s.sweepStash) (.of_eq rfl rfl rfl) (.foldl (fun t p => ?_) _ _)
  split
  · exact t.setCrew_keepsKernels n _ _
  · exact .ite (t.setCrew_keepsKernels n _ _) (.refl n t)
  · exact .refl n t

theorem State.killCrew_keepsKernels (rid : ℕ) : KeepsKernels n s (s.killCrew rid) := by
  unfold State.killCrew
  split
  · exact .refl n s
  · next c _ =>
    extract_lets whole s1 s2 s3 s4 s5
    have h1 : KeepsKernels n s s1 := by
      unfold s1
      split
      · exact s.squashFrom_keepsKernels n _ _
      · exact .refl n s
    have h2 : KeepsKernels n s1 s2 := by
      unfold s2
      split
      · exact s1.onWindow_keepsKernels n _ _ _
      · exact .refl n s1
    have h3 : KeepsKernels n s2 s3 := by
      unfold s3
      split
      · exact .ite (.refl n s2) (s2.setKern_keepsKernels n (fun _ => ⟨rfl, rfl, rfl, rfl, rfl⟩))
      · exact .refl n s2
    have h4 : KeepsKernels n s3 s4 :=
      KeepsKernels.trans (t := (s3.fqAbandon (.crew rid)).setCrew rid _) (.of_eq rfl rfl rfl) (State.redsChanged_keepsKernels n _)
    have h5 : KeepsKernels n s s5 := ((h1.trans h2).trans h3).trans (h4.trans (.of_eq rfl rfl rfl))
    split
    · exact h5.trans (.ite (s5.post_keepsKernels n _ _) (.refl n s5))
    · exact h5

end

/-! ### Kernels that are killed or stopped -/

section
variable {n : ℕ} (hn : n < 1024) (s : State)
include hn

theorem State.recount_keepsKernels (q : ℕ) : KeepsKernels n s (s.recount q) := s.setFld_keepsKernels hn (by decide) _ _ _

theorem State.returnUnits_keepsKernels (d m : ℕ) : KeepsKernels n s (s.returnUnits d m) := s.setFld_keepsKernels hn (by decide) _ _ _

theorem State.releaseUnits_keepsKernels (k : ℕ) : KeepsKernels n s (s.releaseUnits k) := by
  unfold State.releaseUnits
  exact ((s.returnUnits_keepsKernels hn _ _).trans (State.returnUnits_keepsKernels hn _ _ _)).trans
    (State.setKern_keepsKernels n _ (fun _ => ⟨rfl, rfl, rfl, rfl, rfl⟩))

theorem State.withdraw_keepsKernels (k : ℕ) : KeepsKernels n s (s.withdraw k) := by
  unfold State.withdraw
  exact .ite ((s.releaseUnits_keepsKernels hn k).trans (State.setKern_keepsKernels n _ (fun _ => ⟨rfl, rfl, rfl, rfl, rfl⟩))) (.refl n s)

end

section
variable (n : ℕ) (s : State)

/-- A kernel as a candidate, or none. -/
def State.asCandidate (s : State) (k : ℕ) (y : Kernel) : Kernel :=
  if s.isCandidate k then { y with candidate := some (y.candidate.getD s.time) } else { y with candidate := none, aged := false }

theorem State.refreshCandidates_get? (k : ℕ) : s.refreshCandidates.kernels.get? k = (s.kernels.get? k).map (s.asCandidate k) :=
  Tbl.get?_map s.asCandidate s.kernels k

theorem State.asCandidate_fields (k : ℕ) (y : Kernel) : (s.asCandidate k y).launch = y.launch ∧ (s.asCandidate k y).ctx = y.ctx ∧
    (s.asCandidate k y).state = y.state ∧ (s.asCandidate k y).ending = y.ending ∧ (s.asCandidate k y).stop = y.stop := by
  unfold State.asCandidate
  split <;> exact ⟨rfl, rfl, rfl, rfl, rfl⟩

theorem State.refreshCandidates_kern (k : ℕ) :
    s.refreshCandidates.kern k = s.asCandidate k (s.kern k) ∨ s.refreshCandidates.kern k = s.kern k := by
  rw [State.kern, State.kern, Tbl.getD, Tbl.getD, State.refreshCandidates_get?]
  cases s.kernels.get? k with
  | none => exact .inr rfl
  | some y => exact .inl rfl

theorem State.refreshCandidates_keepsKernels : KeepsKernels n s s.refreshCandidates := by
  have hf (k : ℕ) : (s.refreshCandidates.kern k).launch = (s.kern k).launch ∧ (s.refreshCandidates.kern k).ctx = (s.kern k).ctx ∧
      (s.refreshCandidates.kern k).state = (s.kern k).state ∧ (s.refreshCandidates.kern k).ending = (s.kern k).ending ∧
      (s.refreshCandidates.kern k).stop = (s.kern k).stop := by
    rcases s.refreshCandidates_kern k with h | h
    · rw [h]
      exact s.asCandidate_fields k _
    · rw [h]
      exact ⟨rfl, rfl, rfl, rfl, rfl⟩
  have hlisted (k : ℕ) (hk : (s.kernels.get? k).isSome) : (s.refreshCandidates.kernels.get? k).isSome := by
    rwa [State.refreshCandidates_get?, Option.isSome_map]
  refine ⟨⟨rfl, rfl, fun k => ?_⟩, hlisted, fun k => ?_, fun k => ?_, fun k => ?_, fun k => ?_⟩
  all_goals
    obtain ⟨hlaunch, hctx, hstate, hending, hstop⟩ := hf k
    assumption

theorem State.abortCmds_keepsKernels (sel : Cmd → Bool) : KeepsKernels n s (s.abortCmds sel) := by
  unfold State.abortCmds
  refine .foldl (fun t m => ?_) _ s
  exact .of_eq rfl rfl rfl

theorem State.sendStops_keepsKernels : KeepsKernels n s s.sendStops := by
  unfold State.sendStops
  refine .foldl (fun t k => ?_) _ s
  refine .ite (.refl n t) (.trans ?_ (State.post_keepsKernels n _ _ _))
  exact t.setKern_keepsKernels n (fun _ => ⟨rfl, rfl, rfl, rfl, rfl⟩)

end

/-- A kernel that is to retire with a cause. -/
def Kernel.killed (cause : ℕ) (y : Kernel) : Kernel :=
  { y with ending := some cause, stop := none, messaged := false, keep := y.keep.map (fun p => (p.1, { p.2 with save := none })) }

/-- But for what the killed kernel itself becomes, killing it keeps the kernels. -/
theorem State.killKernel_keepsKernels (n : ℕ) (s : State) (k cause : ℕ) :
    KeepsKernels n ((s.withdraw k).setKern k (Kernel.killed cause)) (s.killKernel k cause) := by
  unfold State.killKernel
  exact ((KeepsKernels.foldl (State.killCrew_keepsKernels n) _ _).trans (State.abortCmds_keepsKernels n _ _)).trans
    (State.post_keepsKernels n _ _ _)

/-- A kernel of a suspended context that cannot be saved is killed (R81). -/
def State.killUnsaved (s : State) (k : ℕ) : State := (s.setKern k (fun y => { y with killLater := true })).killKernel k 2

/-- A kernel whose stop begins (R117). -/
def Kernel.stopBegun (who : StopBy) (y : Kernel) : Kernel := { y with stop := some who, messaged := false, state := .stopping }

/-- The stop of a kernel begins. -/
def State.beginStop (who : StopBy) (s : State) (k : ℕ) : State :=
  (s.setKern k (fun y => { y with stop := some who, messaged := false })).setKState k .stopping

theorem State.setKState_kern (s : State) (k : ℕ) (x : KState) (j : ℕ) :
    (s.setKState k x).kern j = (s.setKern k (fun y => { y with state := x })).kern j := by
  rw [State.setKState, State.recount, State.kern, State.setFld_kernels, State.kern]

theorem State.beginStop_kern (who : StopBy) (s : State) (k j : ℕ) :
    (s.beginStop who k).kern j = if j = k then (s.kern k).stopBegun who else s.kern j := by
  rw [State.beginStop, State.setKState_kern]
  rcases eq_or_ne j k with rfl | hne
  · rw [State.setKern_kern_self, State.setKern_kern_self, if_pos rfl]
    rfl
  · rw [State.setKern_kern_ne _ _ hne.symm, State.setKern_kern_ne _ _ hne.symm, if_neg hne]

theorem State.foldl_beginStop_stop (who : StopBy) (l : List ℕ) (s : State) {k : ℕ}
    (h : k ∈ l ∨ (s.kern k).state = .stopping ∧ (s.kern k).stop = some who) :
    ((l.foldl (State.beginStop who) s).kern k).state = .stopping ∧ ((l.foldl (State.beginStop who) s).kern k).stop = some who := by
  induction l generalizing s with
  | nil => simpa using h
  | cons j l ih =>
    refine ih (s.beginStop who j) ?_
    rw [State.beginStop_kern]
    rcases h with h | h
    · rcases List.mem_cons.mp h with rfl | h
      · exact .inr (by rw [if_pos rfl]; exact ⟨rfl, rfl⟩)
      · exact .inl h
    · right
      split
      · exact ⟨rfl, rfl⟩
      · exact h

theorem State.foldl_beginStop_ending (who : StopBy) (l : List ℕ) (s : State) (k : ℕ) :
    ((l.foldl (State.beginStop who) s).kern k).ending = (s.kern k).ending := by
  induction l generalizing s with
  | nil => rfl
  | cons j l ih =>
    rw [List.foldl_cons, ih, State.beginStop_kern]
    split
    · next h => rw [h]; rfl
    · rfl

theorem State.mem_stopSet (s : State) (fuel : ℕ) {l : List ℕ} {k : ℕ} (h : k ∈ l) : k ∈ s.stopSet fuel l := by
  induction fuel generalizing l with
  | zero => exact h
  | succ f ih =>
    unfold State.stopSet
    dsimp only
    split
    · exact h
    · exact ih (List.mem_append_left _ h)

section
variable (n : ℕ) (s : State) (l : List ℕ) (who : StopBy)

theorem State.stopKernels_keepsKernels : KeepsKernels n (l.foldl (State.beginStop who) s) (s.stopKernels l who) :=
  State.sendStops_keepsKernels n _

theorem State.stopKernels_ending (k : ℕ) : ((s.stopKernels l who).kern k).ending = (s.kern k).ending := by
  rw [(s.stopKernels_keepsKernels 0 l who).ending, State.foldl_beginStop_ending]

theorem State.stopKernels_stop {k : ℕ} (h : k ∈ l) :
    ((s.stopKernels l who).kern k).state = .stopping ∧ ((s.stopKernels l who).kern k).stop = some who := by
  rw [(s.stopKernels_keepsKernels 0 l who).state, (s.stopKernels_keepsKernels 0 l who).stop]
  exact State.foldl_beginStop_stop who l s (.inl h)

end

section
variable {n : ℕ} (hn : n < 1024) (s : State)
include hn

theorem State.stopKernels_keeps (l : List ℕ) (who : StopBy) : Keeps n s (s.stopKernels l who) :=
  (Keeps.foldl (fun t _ => (t.setKern_keeps n rfl).trans
    ((State.setKern_keeps n _ rfl).trans (State.recount_keepsKernels hn _ _).toKeeps)) l s).trans
    (s.stopKernels_keepsKernels n l who).toKeeps

theorem State.killUnsaved_keeps (k : ℕ) : Keeps n s (s.killUnsaved k) :=
  (((s.setKern_keeps n rfl).trans (State.withdraw_keepsKernels hn _ k).toKeeps).trans (State.setKern_keeps n _ rfl)).trans
    (State.killKernel_keepsKernels n _ k 2).toKeeps

theorem State.killUnsaved_ending (k j : ℕ) : ((s.killUnsaved k).kern j).ending = if j = k then some 2 else (s.kern j).ending := by
  rw [State.killUnsaved, (State.killKernel_keepsKernels n _ k 2).ending, State.kern_setKern]
  split
  · rfl
  · next h => rw [(State.withdraw_keepsKernels hn _ k).ending, State.kern_setKern, if_neg h]

theorem State.foldl_killUnsaved_ending (l : List ℕ) {k : ℕ} (h : k ∈ l ∨ (s.kern k).ending = some 2) :
    ((l.foldl State.killUnsaved s).kern k).ending = some 2 := by
  induction l generalizing s with
  | nil => simpa using h
  | cons j l ih =>
    refine ih (s.killUnsaved j) ?_
    rw [State.killUnsaved_ending hn]
    rcases h with h | h
    · rcases List.mem_cons.mp h with rfl | h
      · exact .inr (if_pos rfl)
      · exact .inl h
    · right
      split
      · rfl
      · exact h

end

/-! ### The steps of a suspension -/

/-- The suspension of a context is marked, its choices withdrawn. -/
def State.suspendBegun (s : State) (n : ℕ) (how : Suspending) : State :=
  let s := ({ s with suspending := s.suspending.set n how }).setFld .context n Ctx.busy 1
  ((s.kernelsOf n).foldl (fun s p => s.withdraw p.1) s).refreshCandidates

/-- The kernels of a context that are to be stopped. -/
def State.toStop (s : State) (n : ℕ) : List ℕ := ((s.kernelsOf n).filter (fun p => p.2.stoppable)).map Prod.fst

/-- Those of them that can be saved, or cannot. -/
def State.unsavable (s : State) (l : List ℕ) : List ℕ := l.filter (fun k => decide (s.lch k Lch.nsave = 0))
def State.savable (s : State) (l : List ℕ) : List ℕ := l.filter (fun k => decide (s.lch k Lch.nsave ≠ 0))

/-- Kernels are killed that cannot be saved, and the others stopped. -/
def State.suspendStops (s : State) (l : List ℕ) : State :=
  let s := (s.unsavable l).foldl State.killUnsaved s
  s.stopKernels (s.stopSet s.kernels.length (s.savable l)) .suspend

/-- Crews of faulted kernels stop too. -/
def State.suspendFaulted (s : State) (n : ℕ) : State :=
  ((s.kernelsOf n).filter (fun p => decide (p.2.state = .faulted))).foldl (fun s p => (s.ridsOf p.1).foldl State.killCrew s) s

theorem State.suspendKernels_eq (s : State) (n : ℕ) (how : Suspending) : s.suspendKernels n how =
    (((s.suspendBegun n how).suspendStops ((s.suspendBegun n how).toStop n)).suspendFaulted n).post (.ctx n) .suspensionComplete := rfl

theorem State.suspendFaulted_keepsKernels (n m : ℕ) (s : State) : KeepsKernels m s (s.suspendFaulted n) :=
  .foldl (fun t _ => .foldl (State.killCrew_keepsKernels m) _ t) _ s

section
variable {n : ℕ} (hn : n < 1024) (s : State)
include hn

/-- The suspension marked, the rest of the beginning keeps the kernels. -/
theorem State.suspendBegun_keepsKernels (how : Suspending) :
    KeepsKernels n (({ s with suspending := s.suspending.set n how }).setFld .context n Ctx.busy 1) (s.suspendBegun n how) := by
  unfold State.suspendBegun
  refine .trans (.foldl (fun t p => ?_) _ _) (State.refreshCandidates_keepsKernels n _)
  exact t.withdraw_keepsKernels hn p.1

theorem State.suspendStops_keeps (l : List ℕ) : Keeps n s (s.suspendStops l) :=
  (Keeps.foldl (fun t k => t.killUnsaved_keeps hn k) _ s).trans (State.stopKernels_keeps hn _ _ _)

theorem State.suspendStops_unsaved {l : List ℕ} {k : ℕ} (hk : k ∈ l) (h : s.lch k Lch.nsave = 0) :
    ((s.suspendStops l).kern k).ending = some 2 := by
  rw [State.suspendStops, State.stopKernels_ending]
  exact State.foldl_killUnsaved_ending hn s _ (.inl (List.mem_filter.mpr ⟨hk, by simpa using h⟩))

theorem State.suspendStops_saved {l : List ℕ} {k : ℕ} (hk : k ∈ l) (h : s.lch k Lch.nsave ≠ 0) :
    ((s.suspendStops l).kern k).state = .stopping ∧ ((s.suspendStops l).kern k).stop = some .suspend := by
  refine State.stopKernels_stop _ _ _ (State.mem_stopSet _ _ (List.mem_filter.mpr ⟨hk, ?_⟩))
  have hl := (Keeps.foldl (fun t k => t.killUnsaved_keeps hn k) (s.unsavable l) s).lch k Lch.nsave
  simpa [hl] using h

/-- What a suspension leaves of the context's record and of the suspensions. -/
theorem State.suspendKernels_keeps (how : Suspending) :
    Keeps n (({ s with suspending := s.suspending.set n how }).setFld .context n Ctx.busy 1) (s.suspendKernels n how) := by
  rw [State.suspendKernels_eq]
  exact (((s.suspendBegun_keepsKernels hn how).toKeeps.trans (State.suspendStops_keeps hn _ _)).trans
    (State.suspendFaulted_keepsKernels n n _).toKeeps).trans (State.post_keepsKernels n _ _ _).toKeeps

end

theorem Tbl.mem_of_get? {α : Type} {t : Tbl α} {k : ℕ} {v : α} (h : t.get? k = some v) : (k, v) ∈ t := by
  induction t with
  | nil => cases h
  | cons p t ih =>
    obtain ⟨j, w⟩ := p
    rw [Tbl.get?_cons] at h
    split at h
    · next hj =>
      cases h
      simp [hj]
    · exact List.mem_cons_of_mem _ (ih h)

theorem State.get?_kern {s : State} {k : ℕ} (h : (s.kernels.get? k).isSome) : s.kernels.get? k = some (s.kern k) := by
  obtain ⟨y, hy⟩ := Option.isSome_iff_exists.mp h
  rw [State.kern, Tbl.getD, hy, Option.getD_some]

theorem State.kern_of_get? {s : State} {k : ℕ} {y : Kernel} (h : s.kernels.get? k = some y) : s.kern k = y := by
  rw [State.kern, Tbl.getD, h, Option.getD_some]

/-- A kernel that runs stops, and one that cannot be saved is to end as killed (R81). -/
def StopsKernel (s t : State) (n k : ℕ) (y : Kernel) : Prop :=
  s.kernels.get? k = some y → y.ctx = n → y.stoppable = true →
    (s.lch k Lch.nsave ≠ 0 → (t.kern k).state = .stopping ∧ (t.kern k).stop = some .suspend) ∧
    (s.lch k Lch.nsave = 0 → (t.kern k).ending = some 2)

theorem State.suspendKernels_stops {n : ℕ} (hn : n < 1024) (s : State) (how : Suspending) (k : ℕ) (y : Kernel) :
    StopsKernel s (s.suspendKernels n how) n k y := by
  intro hk hctx hrun
  obtain ⟨u, hu⟩ : ∃ u, u = s.suspendBegun n how := ⟨_, rfl⟩
  have hb : KeepsKernels n (({ s with suspending := s.suspending.set n how }).setFld .context n Ctx.busy 1) u := by
    rw [hu]
    exact s.suspendBegun_keepsKernels hn how
  have hy : s.kern k = y := State.kern_of_get? hk
  -- the kernel is still listed, of the context and running once the suspension has begun
  have hmem : (k, u.kern k) ∈ u.kernels := Tbl.mem_of_get? (State.get?_kern (hb.listed k (by
    rw [State.setFld_kernels]
    simp [hk])))
  have hc : (u.kern k).ctx = n := by rw [hb.ctx k, ← hctx, ← hy]; rfl
  have hs : (u.kern k).stoppable = true := by
    rw [← hrun, ← hy, Kernel.stoppable, Kernel.stoppable, hb.ending k, hb.state k]
    rfl
  have hstop : k ∈ u.toStop n :=
    List.mem_map.mpr ⟨(k, u.kern k), List.mem_filter.mpr ⟨List.mem_filter.mpr ⟨hmem, by simpa using hc⟩, hs⟩, rfl⟩
  have hl : u.lch k Lch.nsave = s.lch k Lch.nsave := hb.lch k _
  have hf : KeepsKernels n (u.suspendStops (u.toStop n)) (s.suspendKernels n how) := by
    rw [State.suspendKernels_eq, ← hu]
    exact (State.suspendFaulted_keepsKernels n n _).trans (State.post_keepsKernels n _ _ _)
  rw [hf.state, hf.stop, hf.ending, ← hl]
  exact ⟨u.suspendStops_saved hn hstop, u.suspendStops_unsaved hn hstop⟩

/-! ### SUSPEND, DESTROY and CONTEXT_FAULT (R77, R78, R80 to R82) -/

section
variable {n : ℕ} (hn : n < 1024) (s : State)
include hn

@[simp] theorem State.suspendKernels_busy (how : Suspending) : (s.suspendKernels n how).fld .context n Ctx.busy = 1 := by
  rw [(s.suspendKernels_keeps hn how).fld, State.fld, State.setFld_rcd_self, Fld.get_set_self]
  rfl

/-- A field apart from busy is as before. -/
theorem State.suspendKernels_fld (how : Suspending) {f : Fld} (hf : Ctx.busy.apart f = true) :
    (s.suspendKernels n how).fld .context n f = s.fld .context n f := by
  rw [(s.suspendKernels_keeps hn how).fld, State.fld, State.setFld_rcd_self, Fld.get_set_of_apart hf]
  rfl

@[simp] theorem State.suspendKernels_suspending (how : Suspending) : (s.suspendKernels n how).suspending.get? n = some how := by
  rw [(s.suspendKernels_keeps hn how).suspending, State.setFld_suspending]
  exact Tbl.get?_set_self _ _ _

end

section
variable {s : State} {n : ℕ}

theorem execCtxSuspend_eq (h : s.place = .ctx n) (hb : s.fld .context n Ctx.busy = 0) : execCtxSuspend s = .next (
    if n = 0 ∨ s.fld .context n Ctx.state ≠ 2 then s.ctxDone n 2 else s.suspendKernels n .suspend) := by
  unfold execCtxSuspend
  split
  · next hs => exact ctxCommand_of_done h hb (if_pos hs)
  · next hs => exact ctxCommand_of_begun h hb (if_neg hs)

theorem ctxSuspend_runs (hn : n < 1024) (h : s.place = .ctx n) (hb : s.fld .context n Ctx.busy = 0) (h0 : n ≠ 0)
    (hs : s.fld .context n Ctx.state = 2) : Runs .ctxSuspend s (fun t =>
      t.fld .context n Ctx.busy = 1 ∧ t.suspending.get? n = some .suspend ∧ t.fld .context n Ctx.state = 2 ∧
      t.fld .context n Ctx.cseq = s.fld .context n Ctx.cseq ∧ ∀ k y, StopsKernel s t n k y) := by
  refine ⟨s.suspendKernels n .suspend, (execCtxSuspend_eq h hb).trans (by rw [if_neg (by simp [h0, hs])]), ?_, ?_, ?_, ?_, ?_⟩
  · exact s.suspendKernels_busy hn _
  · exact s.suspendKernels_suspending hn _
  · exact (s.suspendKernels_fld hn _ (by decide)).trans hs
  · exact s.suspendKernels_fld hn _ (by decide)
  · exact s.suspendKernels_stops hn _

/-- What DESTROY makes of a command in progress: it reports that it was abandoned. -/
def State.abandon (s : State) (n : ℕ) : State :=
  match s.suspending.get? n with
  | some .suspend => s.ctxDone n 2
  | some .destroy => s.ctxDone n 2
  | some .fault => s
  | none => s

theorem execCtxDestroy_eq (h : s.place = .ctx n) : execCtxDestroy s = .next (
    if n = 0 ∨ s.fld .context n Ctx.state = 0 then s.ctxDone n 2 else (s.abandon n).suspendKernels n .destroy) :=
  atCtx_of_place h

theorem State.abandon_eq (s : State) (n : ℕ) : s.abandon n = { s with sys := (s.abandon n).sys } := by
  unfold State.abandon
  split
  · exact s.ctxDone_eq n 2
  · exact s.ctxDone_eq n 2
  · rfl
  · rfl

theorem stopsKernel_of_sys {u : State} {x : Tbl ℕ} (hu : u = { s with sys := x }) (h : ∀ k y, StopsKernel u t n k y)
    (k : ℕ) (y : Kernel) : StopsKernel s t n k y := by
  subst hu
  exact h k y

theorem State.ctxDone_fld (s : State) (n st : ℕ) {f : Fld} (hq : Ctx.cseq.apart f = true) (hc : Ctx.cstat.apart f = true) :
    (s.ctxDone n st).fld .context n f = s.fld .context n f := by
  rw [State.ctxDone_eq_ctxSet]
  exact s.fld_ctxSet_of_apart n (by simp [hq, hc])

@[simp] theorem State.ctxDone_cstat (s : State) (n st : ℕ) : (s.ctxDone n st).fld .context n Ctx.cstat = st % 2 ^ 8 := by
  rw [State.ctxDone, State.fld, State.setFld_rcd_self, Fld.get_set_self]
  rfl

@[simp] theorem State.ctxDone_cseq (s : State) (n st : ℕ) :
    (s.ctxDone n st).fld .context n Ctx.cseq = (s.fld .context n Ctx.cseq + 1) % 2 ^ 16 := by
  rw [State.ctxDone, State.fld, State.setFld_rcd_self, Fld.get_set_of_apart (by decide), State.setFld_rcd_self, Fld.get_set_self]
  rfl

theorem State.abandon_fld (s : State) (n : ℕ) {f : Fld} (hq : Ctx.cseq.apart f = true) (hc : Ctx.cstat.apart f = true) :
    (s.abandon n).fld .context n f = s.fld .context n f := by
  unfold State.abandon
  split
  · exact s.ctxDone_fld n 2 hq hc
  · exact s.ctxDone_fld n 2 hq hc
  · rfl
  · rfl

theorem ctxDestroy_runs (hn : n < 1024) (h : s.place = .ctx n) (h0 : n ≠ 0) (hs : s.fld .context n Ctx.state ≠ 0) :
    Runs .ctxDestroy s (fun t =>
      t.fld .context n Ctx.busy = 1 ∧ t.suspending.get? n = some .destroy ∧ t.fld .context n Ctx.state = s.fld .context n Ctx.state ∧
      (s.suspending.get? n = some .suspend ∨ s.suspending.get? n = some .destroy →
        t.fld .context n Ctx.cseq = (s.fld .context n Ctx.cseq + 1) % 2 ^ 16 ∧ t.fld .context n Ctx.cstat = 2) ∧
      (s.suspending.get? n = none → t.fld .context n Ctx.cseq = s.fld .context n Ctx.cseq) ∧ ∀ k y, StopsKernel s t n k y) := by
  refine ⟨(s.abandon n).suspendKernels n .destroy, (execCtxDestroy_eq h).trans (by rw [if_neg (by simp [h0, hs])]), ?_, ?_, ?_, ?_, ?_, ?_⟩
  · exact State.suspendKernels_busy hn _ _
  · exact State.suspendKernels_suspending hn _ _
  · exact (State.suspendKernels_fld hn _ _ (by decide)).trans (s.abandon_fld n (by decide) (by decide))
  · intro hp
    have ha : s.abandon n = s.ctxDone n 2 := by rcases hp with hp | hp <;> rw [State.abandon, hp]
    rw [State.suspendKernels_fld hn _ _ (by decide), State.suspendKernels_fld hn _ _ (by decide), ha]
    exact ⟨s.ctxDone_cseq n 2, s.ctxDone_cstat n 2⟩
  · intro hp
    rw [State.suspendKernels_fld hn _ _ (by decide), State.abandon, hp]
  · exact stopsKernel_of_sys (s.abandon_eq n) ((s.abandon n).suspendKernels_stops hn .destroy)

/-- The next state of a message that is sent or waits differs in the link, where the message comes last. -/
theorem State.faultMessage_eq (s : State) (n cause : ℕ) : s.faultMessage n cause = { s with host := (s.faultMessage n cause).host } := by
  unfold State.faultMessage State.sendOrWait
  split <;> rfl

theorem State.faultMessage_last (s : State) (n cause : ℕ) : ∃ m : OutMsg, m.typ = 0x83 ∧ m.ctx = n ∧
    ((s.faultMessage n cause).host.sent.getLast? = some m ∨ (s.faultMessage n cause).host.waiting.getLast? = some m) := by
  unfold State.faultMessage State.sendOrWait
  split
  · exact ⟨_, rfl, rfl, .inr List.getLast?_concat⟩
  · exact ⟨_, rfl, rfl, .inl List.getLast?_concat⟩

/-- A context that has faulted, and what comes of a command in progress, or of its kernels. -/
def State.faulted (s : State) (n cause : ℕ) : State := s.ctxSet n [(Ctx.cause, cause), (Ctx.state, 4)]

def State.stopFaulted (s : State) (n st : ℕ) : State :=
  match s.suspending.get? n with
  | some .suspend => { s.ctxDone n 2 with suspending := s.suspending.set n .fault }
  | some .destroy => s
  | some .fault => s
  | none => if st = 2 then s.suspendKernels n .fault else s

theorem execContextFault_eq {cause : ℕ} (h : s.place = .ctxCause n cause) : execContextFault s = .next (
    if s.fld .context n Ctx.state = 0 ∨ 3 < s.fld .context n Ctx.state then s
    else ((s.faulted n cause).stopFaulted n (s.fld .context n Ctx.state)).faultMessage n cause) := by
  unfold execContextFault
  rw [h, State.faulted]
  dsimp only
  generalize s.ctxSet n [(Ctx.cause, cause), (Ctx.state, 4)] = u
  rcases em (s.fld .context n Ctx.state = 0 ∨ 3 < s.fld .context n Ctx.state) with hs | hs
  · rw [if_pos hs, if_pos hs]
  · rw [if_neg hs, if_neg hs]
    rfl

theorem State.fld_congr {s t : State} (h : s.sys = t.sys) (tab : SysTab) (m : ℕ) (f : Fld) : s.fld tab m f = t.fld tab m f := by
  rw [State.fld, State.rcd, h]
  rfl

theorem State.stopFaulted_fld (hn : n < 1024) (s : State) (st : ℕ) {f : Fld} (hb : Ctx.busy.apart f = true) (hq : Ctx.cseq.apart f = true)
    (hc : Ctx.cstat.apart f = true) : (s.stopFaulted n st).fld .context n f = s.fld .context n f := by
  unfold State.stopFaulted
  split
  · obtain ⟨u, hu⟩ : ∃ u, s.ctxDone n 2 = u := ⟨_, rfl⟩
    have hd := s.ctxDone_fld n 2 hq hc
    rw [hu] at hd ⊢
    exact hd
  · rfl
  · rfl
  · split
    · exact s.suspendKernels_fld hn _ hb
    · rfl

theorem State.faulted_eq (s : State) (n cause : ℕ) : s.faulted n cause = { s with sys := (s.faulted n cause).sys } := s.ctxSet_eq n _

@[simp] theorem State.faulted_state (s : State) (n cause : ℕ) : (s.faulted n cause).fld .context n Ctx.state = 4 := by
  rw [State.faulted, State.ctxSet, List.foldl_cons, List.foldl_cons, List.foldl_nil, State.fld, State.setFld_rcd_self, Fld.get_set_self]
  rfl

@[simp] theorem State.faulted_cause (s : State) (n cause : ℕ) : (s.faulted n cause).fld .context n Ctx.cause = cause % 2 ^ 16 := by
  rw [State.faulted, State.ctxSet, List.foldl_cons, List.foldl_cons, List.foldl_nil, State.fld, State.setFld_rcd_self,
    Fld.get_set_of_apart (by decide), State.setFld_rcd_self, Fld.get_set_self]
  rfl

/-- A FAULT message is no matter of the records, the kernels or the commands in progress. -/
theorem State.faultMessage_fld (s : State) (n cause m : ℕ) (tab : SysTab) (f : Fld) :
    (s.faultMessage n cause).fld tab m f = s.fld tab m f := by
  rw [s.faultMessage_eq n cause]
  exact State.fld_congr rfl _ _ _

theorem contextFault_ignored {cause : ℕ} (h : s.place = .ctxCause n cause)
    (hs : s.fld .context n Ctx.state = 0 ∨ 3 < s.fld .context n Ctx.state) : exec .contextFault s = .next s :=
  (execContextFault_eq h).trans (by rw [if_pos hs])

theorem contextFault_runs (hn : n < 1024) {cause : ℕ} (h : s.place = .ctxCause n cause) (h1 : 1 ≤ s.fld .context n Ctx.state)
    (h3 : s.fld .context n Ctx.state ≤ 3) : Runs .contextFault s (fun t =>
      t.fld .context n Ctx.state = 4 ∧ t.fld .context n Ctx.cause = cause % 2 ^ 16 ∧
      (∃ m, m.typ = 0x83 ∧ m.ctx = n ∧ (t.host.sent.getLast? = some m ∨ t.host.waiting.getLast? = some m)) ∧
      (s.suspending.get? n = none → s.fld .context n Ctx.state = 2 →
        t.fld .context n Ctx.busy = 1 ∧ t.suspending.get? n = some .fault ∧ ∀ k y, StopsKernel s t n k y)) := by
  refine ⟨((s.faulted n cause).stopFaulted n (s.fld .context n Ctx.state)).faultMessage n cause,
    (execContextFault_eq h).trans (by rw [if_neg (by omega)]), ?_, ?_, State.faultMessage_last _ n cause, ?_⟩
  · rw [State.faultMessage_fld, State.stopFaulted_fld hn _ _ (by decide) (by decide) (by decide), State.faulted_state]
  · rw [State.faultMessage_fld, State.stopFaulted_fld hn _ _ (by decide) (by decide) (by decide), State.faulted_cause]
  · intro hp h2
    have hf : (s.faulted n cause).stopFaulted n (s.fld .context n Ctx.state) = (s.faulted n cause).suspendKernels n .fault := by
      rw [State.stopFaulted, s.faulted_eq n cause]
      dsimp only
      rw [hp]
      exact if_pos h2
    rw [hf]
    have hstops := stopsKernel_of_sys (s.faulted_eq n cause) ((s.faulted n cause).suspendKernels_stops hn .fault)
    have hbusy := (s.faulted n cause).suspendKernels_busy hn .fault
    have hsusp := (s.faulted n cause).suspendKernels_suspending hn .fault
    generalize (s.faulted n cause).suspendKernels n .fault = u at hstops hbusy hsusp ⊢
    refine ⟨(u.faultMessage_fld n cause n _ _).trans hbusy, ?_, fun k y => ?_⟩
    · rw [State.faultMessage_eq]
      exact hsusp
    · rw [State.faultMessage_eq]
      exact hstops k y

theorem ctxSuspend_refused (h : s.place = .ctx n) (hb : s.fld .context n Ctx.busy = 0) (hs : n = 0 ∨ s.fld .context n Ctx.state ≠ 2) :
    CtxReports .ctxSuspend s n 2 :=
  ctxReports_of_exec ((execCtxSuspend_eq h hb).trans (by rw [if_pos hs]))

theorem ctxDestroy_refused (h : s.place = .ctx n) (hs : n = 0 ∨ s.fld .context n Ctx.state = 0) : CtxReports .ctxDestroy s n 2 :=
  ctxReports_of_exec ((execCtxDestroy_eq h).trans (by rw [if_pos hs]))

end

end Sys2Proof.Machine
end

section
namespace Sys2Proof.Machine

/-! ## What leaves the busy bit of a context and the pins (R81, R82)

A destruction ends operations of many kinds before it reports. None of them changes whether a context is busy: a software write
changes the bits that software may write, and the busy bit is none of these (`State.write_busyPins`); every other write of a
context record is of another field. None changes the pins. One lemma for each function that a destruction calls says so, in the
order of the model's files. -/

/-- Whether context i is busy, and the pins. -/
def State.busyPins (s : State) (i : Fin 1024) : Bool × List Pin := ((s.rcd .context i).testBit Ctx.busy.lo, s.pins)

section
variable {α : Type} {s : State} {i : Fin 1024}

/-- A busy field is one bit. -/
theorem busy_eq_zero_iff (r : ℕ) : Ctx.busy.get r = 0 ↔ r.testBit Ctx.busy.lo = false := by
  rw [Nat.testBit_eq_decide_div_mod_eq, decide_eq_false_iff_not]
  change r / 2 ^ Ctx.busy.lo % 2 = 0 ↔ ¬r / 2 ^ Ctx.busy.lo % 2 = 1
  omega

theorem State.pins_of_busyPins {t : State} (h : t.busyPins i = s.busyPins i) : t.pins = s.pins := congrArg Prod.snd h

/-- A fold of updates that leave them. -/
theorem State.foldl_busyPins {f : State → α → State} (hf : ∀ s a, (f s a).busyPins i = s.busyPins i) (as : List α) :
    (as.foldl f s).busyPins i = s.busyPins i := by
  induction as generalizing s with
  | nil => rfl
  | cons a as ih => exact ih.trans (hf s a)

theorem State.ite_busyPins {p : Prop} [Decidable p] {t : State} (h : t.busyPins i = s.busyPins i) :
    (if p then t else s).busyPins i = s.busyPins i := by
  split
  · exact h
  · rfl

/-! ### Records -/

/-- A write of another record. -/
theorem State.setRcd_busyPins_of_addr_ne {tab : SysTab} {m : ℕ} (v : ℕ) (hm : SysTab.addr .context i ≠ tab.addr m) :
    (s.setRcd tab m v).busyPins i = s.busyPins i := by
  rw [State.busyPins, State.rcd_setRcd_of_addr_ne s v hm]
  rfl

@[simp] theorem State.setRcd_busyPins {tab : SysTab} (m v : ℕ) (ht : tab ≠ .context) : (s.setRcd tab m v).busyPins i = s.busyPins i :=
  State.setRcd_busyPins_of_addr_ne v (SysTab.context_addr_ne i.isLt ht m)

@[simp] theorem State.setFld_busyPins {tab : SysTab} (m : ℕ) (f : Fld) (v : ℕ) (ht : tab ≠ .context) :
    (s.setFld tab m f v).busyPins i = s.busyPins i :=
  State.setRcd_busyPins m _ ht

/-- A write of a context record that keeps its busy bit. -/
theorem State.setRcd_context_busyPins {m v : ℕ} (hv : v.testBit Ctx.busy.lo = (s.rcd .context m).testBit Ctx.busy.lo) :
    (s.setRcd .context m v).busyPins i = s.busyPins i := by
  rcases eq_or_ne m i with rfl | hm
  · rw [State.busyPins, State.setRcd_rcd_self, hv]
    rfl
  · exact State.setRcd_busyPins_of_addr_ne v (fun ha => hm (SysTab.context_addr_inj.1 ha).symm)

/-- A field apart from busy. -/
@[simp] theorem State.setFld_context_busyPins (m : ℕ) {f : Fld} (v : ℕ) (hf : f.apart Ctx.busy = true) :
    (s.setFld .context m f v).busyPins i = s.busyPins i := by
  refine State.setRcd_context_busyPins ?_
  rw [Fld.testBit_set, if_neg]
  simp only [Fld.apart, Bool.or_eq_true, decide_eq_true_eq] at hf
  change f.lo + f.w ≤ Ctx.busy.lo ∨ Ctx.busy.lo + 1 ≤ f.lo at hf
  omega

theorem State.ctxSet_busyPins (m : ℕ) {as : List (Fld × ℕ)} (hf : ∀ p ∈ as, p.1.apart Ctx.busy = true) :
    (s.ctxSet m as).busyPins i = s.busyPins i := by
  induction as generalizing s with
  | nil => rfl
  | cons p as ih => exact (ih (fun q hq => hf q (by simp [hq]))).trans (State.setFld_context_busyPins m p.2 (hf p (by simp)))

@[simp] theorem State.setCrew_busyPins (rid : ℕ) (f : Crew → Crew) : (s.setCrew rid f).busyPins i = s.busyPins i := by rfl

@[simp] theorem State.setKern_busyPins (k : ℕ) (f : Kernel → Kernel) : (s.setKern k f).busyPins i = s.busyPins i := by rfl

@[simp] theorem State.post_busyPins (p : Place) (x : Instr) : (s.post p x).busyPins i = s.busyPins i := by rfl

@[simp] theorem State.kick_busyPins : s.kick.busyPins i = s.busyPins i := by rfl

/-! ### Software writes -/

@[simp] theorem State.sysEffect_busyPins (tab : SysTab) (m old new cmd : ℕ) : (s.sysEffect tab m old new cmd).busyPins i = s.busyPins i := by
  cases tab with
  | context | queue | cox | port | link =>
    unfold State.sysEffect
    dsimp only
    (repeat' split) <;> rfl
  | power =>
    unfold State.sysEffect
    dsimp only
    split <;> simp
  | member =>
    unfold State.sysEffect
    dsimp only
    (repeat' split) <;> simp
  | pool | shape | exports | comparator | debug | region | tree | count => rfl

@[simp] theorem State.sysWriteRec_busyPins (tab : SysTab) (m k : ℕ) (bs : List Byte) :
    (s.sysWriteRec tab m k bs).busyPins i = s.busyPins i := by
  unfold State.sysWriteRec
  refine (State.sysEffect_busyPins _ _ _ _ _).trans ?_
  rcases eq_or_ne tab .context with rfl | ht
  · refine State.setRcd_context_busyPins ?_
    have hm : SysTab.context.rwMask.testBit Ctx.busy.lo = false := by decide +kernel
    generalize SysTab.context.rwMask = mask at hm ⊢
    simp [hm]
  · exact State.setRcd_busyPins m _ ht

@[simp] theorem State.sysWrite_busyPins (fuel pa : ℕ) (bs : List Byte) : (s.sysWrite fuel pa bs).busyPins i = s.busyPins i := by
  induction fuel generalizing s pa bs with
  | zero => rfl
  | succ f ih =>
    cases bs with
    | nil => rfl
    | cons b bs =>
      unfold State.sysWrite
      split
      · exact (ih _ _).trans (State.sysWriteRec_busyPins _ _ _ _)
      · exact ih _ _

@[simp] theorem State.write_busyPins (pa : ℕ) (bs : List Byte) : (s.write pa bs).busyPins i = s.busyPins i := by
  unfold State.write
  split
  · exact State.sysWrite_busyPins _ _ _
  · rfl

@[simp] theorem State.writeNum_busyPins (pa m v : ℕ) : (s.writeNum pa m v).busyPins i = s.busyPins i := State.write_busyPins _ _

/-! ### Pages, logs and traps -/

@[simp] theorem State.tlbDrop_busyPins (ctx va : ℕ) : (s.tlbDrop ctx va).busyPins i = s.busyPins i := by rfl

@[simp] theorem State.ctxFault_busyPins (ctx cause : ℕ) : (s.ctxFault ctx cause).busyPins i = s.busyPins i := by rfl

theorem State.supply_busyPins (ctx k : ℕ) {r : List ℕ × State} (e : s.supply ctx k = .ok r) : r.2.busyPins i = s.busyPins i := by
  -- the search is a variable here, so that no check of the case split runs it
  obtain ⟨look, hl⟩ : ∃ look, look = State.supplyLook := ⟨_, rfl⟩
  rw [State.supply, ← hl] at e
  dsimp only at e
  (repeat' split at e) <;> cases e
  · rfl
  · exact (State.setFld_busyPins _ _ _ (by decide)).trans (State.setFld_busyPins _ _ _ (by decide))

theorem State.takeSupply_busyPins {t : State} (ctx k : ℕ) {q : Option (List ℕ)} (e : s.takeSupply ctx k = (q, t)) :
    t.busyPins i = s.busyPins i := by
  unfold State.takeSupply at e
  split at e
  · next hs => cases e; exact State.supply_busyPins ctx k hs
  · cases e; rfl
  · cases e; rfl

@[simp] theorem State.countDec_busyPins (ctx pa : ℕ) : (s.countDec ctx pa).busyPins i = s.busyPins i := by
  unfold State.countDec
  dsimp only
  (repeat' split)
  · rfl
  · exact State.setRcd_busyPins _ _ (by decide)
  · exact State.setRcd_busyPins _ _ (by decide)

@[simp] theorem State.kvCopy_busyPins (ctx va : ℕ) : (s.kvCopy ctx va).2.busyPins i = s.busyPins i := by
  unfold State.kvCopy
  split
  · rfl
  · dsimp only
    split
    · rfl
    · split
      · next hq => simp [State.takeSupply_busyPins _ _ hq]
      · next hq => exact State.takeSupply_busyPins _ _ hq

@[simp] theorem State.snapshotPut_busyPins (va : ℕ) (as : List (ℕ × ℕ × ℕ)) : (s.snapshotPut va as).busyPins i = s.busyPins i :=
  State.foldl_busyPins (fun _ _ => State.writeNum_busyPins _ _ _) as

@[simp] theorem State.ckptCopy_busyPins (ctx va : ℕ) : (s.ckptCopy ctx va).2.busyPins i = s.busyPins i := by
  unfold State.ckptCopy
  dsimp only
  split
  · rfl
  · split
    · rfl
    · split
      · rfl
      · rfl
      · split
        · next hq => simp [State.foldl_busyPins, State.takeSupply_busyPins _ _ hq]
        · next hq => exact State.takeSupply_busyPins _ _ hq

@[simp] theorem State.pageCopy_busyPins (ctx va copy : ℕ) : (s.pageCopy ctx va copy).2.busyPins i = s.busyPins i := by
  unfold State.pageCopy
  (repeat' split) <;> simp

@[simp] theorem State.makeWritable_busyPins (ctx va : ℕ) : (s.makeWritable ctx va).busyPins i = s.busyPins i := by
  unfold State.makeWritable
  dsimp only
  (repeat' split) <;> simp

@[simp] theorem State.faultLost_busyPins (ctx : ℕ) : (s.faultLost ctx).busyPins i = s.busyPins i :=
  State.setFld_context_busyPins _ _ (by decide)

@[simp] theorem State.faultLog_busyPins (ctx : ℕ) (r : FaultRec) : (s.faultLog ctx r).busyPins i = s.busyPins i := by
  unfold State.faultLog
  dsimp only
  (repeat' split)
  · exact State.faultLost_busyPins _
  · exact (State.setFld_context_busyPins _ _ (by decide)).trans
      ((State.writeNum_busyPins _ _ _).trans (State.makeWritable_busyPins _ _))
  · exact (State.faultLost_busyPins _).trans (State.makeWritable_busyPins _ _)
  · exact (State.ctxFault_busyPins _ _).trans ((State.faultLost_busyPins _).trans (State.makeWritable_busyPins _ _))

@[simp] theorem State.stampLog_busyPins (ctx bits : ℕ) : (s.stampLog ctx bits).busyPins i = s.busyPins i := by
  unfold State.stampLog
  dsimp only
  (repeat' split)
  · rfl
  · exact (State.setFld_context_busyPins _ _ (by decide)).trans
      ((State.writeNum_busyPins _ _ _).trans (State.makeWritable_busyPins _ _))
  · exact State.makeWritable_busyPins _ _
  · exact (State.ctxFault_busyPins _ _).trans (State.makeWritable_busyPins _ _)

@[simp] theorem State.writeFrame_busyPins (rid : ℕ) (c : Crew) (t' : Trap) (pa : ℕ) :
    (s.writeFrame rid c t' pa).busyPins i = s.busyPins i := by
  simp [State.writeFrame]

@[simp] theorem State.dropLatch_busyPins (rid : ℕ) : (s.dropLatch rid).busyPins i = s.busyPins i := by rfl

@[simp] theorem State.dropMmaFlags_busyPins (rid : ℕ) : (s.dropMmaFlags rid).busyPins i = s.busyPins i := by rfl

@[simp] theorem State.becomeTrapped_busyPins (rid kind : ℕ) : (s.becomeTrapped rid kind).busyPins i = s.busyPins i := by rfl

@[simp] theorem State.enterTrap_busyPins (rid : ℕ) (t' : Trap) : (s.enterTrap rid t').busyPins i = s.busyPins i := by
  unfold State.enterTrap
  split
  · rfl
  · split
    · simp
    · dsimp only
      (repeat' split) <;> simp

@[simp] theorem State.takeTrap_busyPins (rid : ℕ) (t' : Trap) : (s.takeTrap rid t').busyPins i = s.busyPins i := by
  unfold State.takeTrap
  dsimp only
  (repeat' split) <;> simp

/-! ### Barriers, registrations and stamps -/

@[simp] theorem State.resumeNext_busyPins (rid : ℕ) : (s.resumeNext rid).busyPins i = s.busyPins i := by rfl

@[simp] theorem State.onWindow_busyPins (k idx : ℕ) (f : Window → Window) : (s.onWindow k idx f).busyPins i = s.busyPins i := by
  unfold State.onWindow
  (repeat' split) <;> simp

@[simp] theorem State.waitEnds_busyPins (k idx : ℕ) : (s.waitEnds k idx).busyPins i = s.busyPins i := by
  simp [State.waitEnds]

@[simp] theorem State.retest_busyPins (pa o rid : ℕ) (c : Crew) : (s.retest pa o rid c).busyPins i = s.busyPins i := by
  unfold State.retest
  (repeat' split) <;> simp

@[simp] theorem State.recount_busyPins (q : ℕ) : (s.recount q).busyPins i = s.busyPins i :=
  State.setFld_busyPins _ _ _ (by decide)

@[simp] theorem State.judgeDeps_busyPins (pa o k : ℕ) : (s.judgeDeps pa o k).busyPins i = s.busyPins i := by
  simp [State.judgeDeps, apply_ite (State.busyPins · i)]

@[simp] theorem State.touch_busyPins (pa : ℕ) : (s.touch pa).busyPins i = s.busyPins i := by
  unfold State.touch
  simp +contextual [State.foldl_busyPins]

theorem State.barPerform_busyPins {t : State} (pa : ℕ) (op : BarOp) (e : s.barPerform pa op = .ok t) : t.busyPins i = s.busyPins i := by
  unfold State.barPerform at e
  split at e
  · cases e; simp
  · cases e

@[simp] theorem State.holdBar_busyPins (h' : HeldBar) : (s.holdBar h').busyPins i = s.busyPins i := by rfl

theorem State.barWrite_busyPins {t : State} (ctx va pa : ℕ) (op : BarOp)
    (e : s.barWrite ctx va pa op = .ok t) : t.busyPins i = s.busyPins i := by
  unfold State.barWrite at e
  (repeat' split at e) <;> grind -ring [State.holdBar_busyPins, State.barPerform_busyPins]

@[simp] theorem State.orphanNow_busyPins (pa : ℕ) : (s.orphanNow pa).busyPins i = s.busyPins i := by
  unfold State.orphanNow
  dsimp only
  (repeat' split) <;> simp

@[simp] theorem State.orphan_busyPins (r : Regn) : (s.orphan r).busyPins i = s.busyPins i := by
  unfold State.orphan
  split <;> simp

@[simp] theorem State.performBars_busyPins (free : HeldBar → Bool) : (s.performBars free).busyPins i = s.busyPins i := by
  unfold State.performBars
  refine (State.foldl_busyPins (fun t h => ?_) _).trans rfl
  (repeat' split)
  · next hp => exact State.barPerform_busyPins _ _ hp
  · rfl
  · exact State.orphanNow_busyPins _

@[simp] theorem State.regEnded_busyPins (r : Regn) : (s.regEnded r).busyPins i = s.busyPins i := by
  unfold State.regEnded
  dsimp only
  (repeat' split) <;> simp

@[simp] theorem State.endRegn_busyPins (r : Regn) : (s.endRegn r).busyPins i = s.busyPins i := by
  unfold State.endRegn
  split
  · exact (State.regEnded_busyPins r).trans rfl
  · rfl

@[simp] theorem State.endRegns_busyPins (rs : List Regn) : (s.endRegns rs).busyPins i = s.busyPins i :=
  State.foldl_busyPins (fun _ => State.endRegn_busyPins) rs

@[simp] theorem State.raiseBinds_busyPins (eng : Bool) (k idx m : ℕ) (binds : List (ℕ × ℕ)) :
    (State.raiseBinds eng k idx m binds s).busyPins i = s.busyPins i := by
  induction binds generalizing s with
  | nil => rfl
  | cons p rest ih =>
    have hends (t : State) (l : List Regn) : (l.foldl State.endRegn t).busyPins i = t.busyPins i :=
      State.foldl_busyPins (fun _ => State.endRegn_busyPins) l
    unfold State.raiseBinds
    rw [ih]
    grind -ring [State.barWrite_busyPins]

@[simp] theorem State.advance_busyPins (eng : Bool) (k idx : ℕ) : (s.advance eng k idx).busyPins i = s.busyPins i := by
  simp [State.advance]

@[simp] theorem State.setRegion_busyPins (m v : ℕ) : (s.setRegion m v).busyPins i = s.busyPins i :=
  (State.setRcd_busyPins m v (by decide) : (s.setRcd .region m v).busyPins i = s.busyPins i)

@[simp] theorem State.writeStamps_busyPins (k idx : ℕ) : (s.writeStamps k idx).busyPins i = s.busyPins i := by
  unfold State.writeStamps
  dsimp only
  (repeat' split) <;> simp [State.foldl_busyPins]

/-! ### The fault queue -/

@[simp] theorem State.peerDone_busyPins (p : Pkt) (st : PeerStatus) : (s.peerDone p st).busyPins i = s.busyPins i := by rfl

@[simp] theorem State.deviceArrive_busyPins (ctx f : ℕ) : (s.deviceArrive ctx f).busyPins i = s.busyPins i := by
  unfold State.deviceArrive
  grind -ring [State.barWrite_busyPins, State.ctxFault_busyPins]

@[simp] theorem State.waitIn_busyPins (who : Waiter) (w : Wait) : (s.waitIn who w).busyPins i = s.busyPins i := by
  unfold State.waitIn
  split <;> rfl

theorem State.fqPut_busyPins {t : State} (w : FqWait) (e : s.fqPut w = .some t) : t.busyPins i = s.busyPins i := by
  unfold State.fqPut at e
  dsimp only at e
  split at e
  · cases e
    exact (State.waitIn_busyPins _ _).trans rfl
  · split at e
    · cases e
    · cases e
      exact (State.deviceArrive_busyPins _ _).trans ((State.faultLog_busyPins _ _).trans ((State.waitIn_busyPins _ _).trans rfl))

@[simp] theorem State.fqServe_busyPins (die fuel : ℕ) : (State.fqServe die fuel s).busyPins i = s.busyPins i := by
  induction fuel generalizing s with
  | zero => rfl
  | succ f ih =>
    unfold State.fqServe
    split
    · rfl
    · split
      · next hp => exact ih.trans ((State.fqPut_busyPins _ hp : _ = s.busyPins i))
      · rfl

/-! ### The ends of engine commands -/

@[simp] theorem State.leaveBay_busyPins (b k : ℕ) : (s.leaveBay b k).busyPins i = s.busyPins i := by rfl

@[simp] theorem State.tidy_busyPins (k : ℕ) : (s.tidy k).busyPins i = s.busyPins i := by
  unfold State.tidy
  dsimp only
  split
  · rfl
  · exact (State.kick_busyPins).trans (State.foldl_busyPins (fun _ _ => State.leaveBay_busyPins _ _) _)

@[simp] theorem State.fqAbandon_busyPins (who : Waiter) : (s.fqAbandon who).busyPins i = s.busyPins i := by rfl

@[simp] theorem State.freeEngineWait_busyPins (k idx : ℕ) : (s.freeEngineWait k idx).busyPins i = s.busyPins i := by rfl

@[simp] theorem State.endCmd_busyPins (m : Cmd) : (s.endCmd m).busyPins i = s.busyPins i := by
  have hgone : ({ s with cmds := s.cmds.filter (fun x => decide (x.id ≠ m.id)) } : State).busyPins i = s.busyPins i := rfl
  unfold State.endCmd
  dsimp only
  (repeat' split) <;> simp only [State.post_busyPins, State.tidy_busyPins, State.freeEngineWait_busyPins, State.endRegn_busyPins,
    State.setKern_busyPins, State.fqAbandon_busyPins, hgone]

/-! ### Messages -/

@[simp] theorem State.sendOrWait_busyPins (typ ctx : ℕ) (body : List Byte) : (s.sendOrWait typ ctx body).busyPins i = s.busyPins i := by
  unfold State.sendOrWait
  split <;> rfl

@[simp] theorem State.complete_busyPins (ctx echo kind status handle value value2 : ℕ) :
    (s.complete ctx echo kind status handle value value2).busyPins i = s.busyPins i := by
  simp [State.complete]

/-! ### Kernels -/

@[simp] theorem State.setKState_busyPins (k : ℕ) (x : KState) : (s.setKState k x).busyPins i = s.busyPins i :=
  (State.recount_busyPins _).trans (State.setKern_busyPins _ _)

@[simp] theorem State.returnUnits_busyPins (d m : ℕ) : (s.returnUnits d m).busyPins i = s.busyPins i :=
  State.setFld_busyPins _ _ _ (by decide)

@[simp] theorem State.releaseUnits_busyPins (k : ℕ) : (s.releaseUnits k).busyPins i = s.busyPins i := by
  unfold State.releaseUnits
  exact (State.setKern_busyPins _ _).trans ((State.returnUnits_busyPins _ _).trans (State.returnUnits_busyPins _ _))

@[simp] theorem State.withdraw_busyPins (k : ℕ) : (s.withdraw k).busyPins i = s.busyPins i := by
  unfold State.withdraw
  exact State.ite_busyPins ((State.setKern_busyPins _ _).trans (State.releaseUnits_busyPins k))

@[simp] theorem State.sendStops_busyPins : s.sendStops.busyPins i = s.busyPins i := by
  unfold State.sendStops
  refine State.foldl_busyPins (fun t k => ?_) _
  split <;> rfl

@[simp] theorem State.settleKeeps_busyPins (k : ℕ) : (s.settleKeeps k).busyPins i = s.busyPins i := by
  unfold State.settleKeeps
  exact State.foldl_busyPins (fun t p => by simp) _

@[simp] theorem State.dropRaises_busyPins (k : ℕ) : (s.dropRaises k).busyPins i = s.busyPins i := by
  unfold State.dropRaises
  refine (State.foldl_busyPins (fun t a => ?_) _).trans rfl
  split
  · exact State.returnUnits_busyPins _ _
  · rfl

@[simp] theorem State.leaveBays_busyPins (k : ℕ) : (s.leaveBays k).busyPins i = s.busyPins i :=
  calc (s.leaveBays k).busyPins i
    _ = (((s.dropRaises k).bays.filter (fun p => (p.2.kerns.get? k).isSome)).foldl (fun s p => s.leaveBay p.1 k)
          (s.dropRaises k)).busyPins i := rfl
    _ = (s.dropRaises k).busyPins i := State.foldl_busyPins (fun _ _ => State.leaveBay_busyPins _ _) _
    _ = s.busyPins i := State.dropRaises_busyPins k

@[simp] theorem State.retire_busyPins (k cause : ℕ) : (s.retire k cause).busyPins i = s.busyPins i := by
  unfold State.retire
  -- the states on the way, each from the one before
  extract_lets y q left told regns posted done dl late sent retired h woken
  have hleft : left.busyPins i = s.busyPins i := (State.leaveBays_busyPins _).trans ((State.releaseUnits_busyPins _).trans
    ((State.withdraw_busyPins _).trans (State.settleKeeps_busyPins _)))
  have htold : told.busyPins i = left.busyPins i := rfl
  have hregns : regns.busyPins i = told.busyPins i := State.endRegns_busyPins _
  have hdone : done.busyPins i = regns.busyPins i :=
    (State.setFld_busyPins _ _ _ (by decide)).trans (State.setFld_busyPins _ _ _ (by decide))
  have hlate : late.busyPins i = done.busyPins i := State.ite_busyPins (State.setFld_busyPins _ _ _ (by decide))
  have hsent : sent.busyPins i = late.busyPins i := State.ite_busyPins (State.complete_busyPins ..)
  have hretired : retired.busyPins i = sent.busyPins i := (State.setKState_busyPins _ _).trans (State.setKern_busyPins _ _)
  have hwoken : woken.busyPins i = retired.busyPins i := by
    refine State.foldl_busyPins (fun t p => ?_) _
    split <;> rfl
  rw [State.kick_busyPins, State.sendStops_busyPins, hwoken, hretired, hsent, hlate, hdone, hregns, htold, hleft]

/-! ### The parts of a destruction -/

@[simp] theorem State.orphanAll_busyPins (m : ℕ) : (s.orphanAll m).busyPins i = s.busyPins i := by
  unfold State.orphanAll
  exact (State.foldl_busyPins (fun _ _ => State.endCmd_busyPins _) _).trans (State.foldl_busyPins (fun _ => State.orphan_busyPins) _)

@[simp] theorem State.retireAll_busyPins (m : ℕ) : (s.retireAll m).busyPins i = s.busyPins i :=
  State.foldl_busyPins (fun _ _ => State.retire_busyPins _ _) _

@[simp] theorem State.dropTrees_busyPins (m : ℕ) : (s.dropTrees m).busyPins i = s.busyPins i := by
  refine State.foldl_busyPins (fun t slot => ?_) _
  dsimp only
  split <;> simp [State.foldl_busyPins]

/-- What a destruction removes of the pins, the TLBs, the peers' requests and the fault queue. -/
def State.dropEntries (s : State) (m : ℕ) : State :=
  { s with
    pins := s.pins.filter (fun p => decide (p.ctx ≠ m))
    bays := s.bays.map (fun (p : ℕ × Bay) => (p.1, { p.2 with tlb := p.2.tlb.filter (fun t => decide (t.ctx ≠ m)) }))
    peersIn := s.peersIn.filter (fun p => decide (p.pkt.ctx ≠ m))
    fq := s.fq.filter (fun e => decide (e.ctx ≠ m))
    fqWait := s.fqWait.filter (fun w => decide (w.ctx ≠ m)) }

theorem State.dropEntries_busyPins (m : ℕ) :
    (s.dropEntries m).busyPins i = ((s.busyPins i).1, s.pins.filter (fun p => decide (p.ctx ≠ m))) := rfl

/-- The records of context m go, and its pins. -/
theorem State.dropRecords_busyPins (m : ℕ) :
    (s.dropRecords m).busyPins i = ((s.busyPins i).1, s.pins.filter (fun p => decide (p.ctx ≠ m))) := by
  unfold State.dropRecords
  extract_lets queues regions shapes comparators counts bars peers dropped
  have hqueues : queues.busyPins i = s.busyPins i :=
    State.foldl_busyPins (fun _ _ => (State.setFld_busyPins _ _ _ (by decide)).trans (State.setFld_busyPins _ _ _ (by decide))) _
  have hregions : regions.busyPins i = queues.busyPins i := State.foldl_busyPins (fun _ _ => State.setRegion_busyPins _ _) _
  have hshapes : shapes.busyPins i = regions.busyPins i := State.foldl_busyPins (fun _ _ => State.setRcd_busyPins _ _ (by decide)) _
  have hcomparators : comparators.busyPins i = shapes.busyPins i :=
    State.foldl_busyPins (fun _ _ => State.setFld_busyPins _ _ _ (by decide)) _
  have hcounts : counts.busyPins i = comparators.busyPins i := State.ctxSet_busyPins _ (by decide)
  have hbars : bars.busyPins i = counts.busyPins i := State.performBars_busyPins _
  have hpeers : peers.busyPins i = bars.busyPins i := State.foldl_busyPins (fun _ _ => State.peerDone_busyPins _ _) _
  have hall : peers.busyPins i = s.busyPins i := by rw [hpeers, hbars, hcounts, hcomparators, hshapes, hregions, hqueues]
  have hdropped : dropped = peers.dropEntries m := rfl
  have hpins : peers.pins = s.pins := State.pins_of_busyPins hall
  rw [State.foldl_busyPins (fun _ _ => State.fqServe_busyPins _ _), hdropped, State.dropEntries_busyPins, hall, hpins]

theorem State.destroyCtx_busyPins (m : ℕ) :
    (s.destroyCtx m).busyPins i = ((s.busyPins i).1, s.pins.filter (fun p => decide (p.ctx ≠ m))) := by
  have hkept : (((s.orphanAll m).retireAll m).dropTrees m).busyPins i = s.busyPins i := by simp
  have hpins : (((s.orphanAll m).retireAll m).dropTrees m).pins = s.pins := State.pins_of_busyPins hkept
  rw [State.destroyCtx, State.setFld_context_busyPins _ _ (by decide), State.dropRecords_busyPins, hkept, hpins]

end

end Sys2Proof.Machine
end

section
namespace Sys2Proof.Machine

open Claims

/-! ## The end of a suspension (R81, R82) -/

section
variable {s t u : State} {n : ℕ}

/-- A suspension that is over holds no stash pages and is no longer in progress. -/
def State.calm (s : State) (n : ℕ) : State := { s.dropStash n with suspending := s.suspending.erase n }

@[simp] theorem State.calm_suspending (s : State) (n : ℕ) : (s.calm n).suspending.get? n = none := Tbl.get?_erase_self _ _

/-- A bay keeps the stash pages of the other contexts. -/
def Bay.dropStash (n : ℕ) (y : Bay) : Bay := { y with stash := y.stash.filter (fun m => decide (m.ctx ≠ n)) }

theorem State.calm_stash (s : State) (n b : ℕ) : ((s.calm n).bay b).stash = (s.bay b).stash.filter (fun m => decide (m.ctx ≠ n)) := by
  have hb : Tbl.get? (s.calm n).bays b = (Tbl.get? s.bays b).map (Bay.dropStash n) :=
    Tbl.get?_map (fun _ => Bay.dropStash n) s.bays b
  rw [State.bay, State.bay, Tbl.getD, Tbl.getD, hb]
  cases Tbl.get? s.bays b <;> rfl

/-- What is set is a matter of the records, before and after. -/
theorem Sets.of_sys_left {tab : SysTab} {l : List (Fld × ℕ)} (h : Sets s t tab n l) (hu : u.sys = s.sys) : Sets u t tab n l := by
  have hr (tab' : SysTab) (m : ℕ) : u.rcd tab' m = s.rcd tab' m := by rw [State.rcd, State.rcd, hu]
  obtain ⟨hrec, hrest⟩ := h
  exact ⟨by rw [hrec, hr], fun tab' m hm => (hrest tab' m hm).trans (hr tab' m).symm⟩

theorem suspensionComplete_of_busy {how : Suspending} (h : s.place = .ctx n) (hs : s.suspending.get? n = some how)
    (hq : s.ctxQuiet n how = false) : exec .suspensionComplete s = .next s := by
  refine (atCtx_of_place h : execSuspensionComplete s = _).trans ?_
  simp only [hs, hq]
  rfl

theorem execSuspensionComplete_eq {how : Suspending} (h : s.place = .ctx n) (hs : s.suspending.get? n = some how)
    (hq : s.ctxQuiet n how = true) : execSuspensionComplete s = .next (match how with
      | .suspend => ((s.calm n).ctxSet n [(Ctx.busy, 0), (Ctx.state, 3)]).ctxDone n 0
      | .fault => (s.calm n).ctxSet n [(Ctx.busy, 0)]
      | .destroy => (((s.calm n).setFld .context n Ctx.busy 0).destroyCtx n).ctxDone n 0) := by
  refine (atCtx_of_place h : execSuspensionComplete s = _).trans ?_
  simp only [hs, hq, Bool.not_true, Bool.false_eq_true, if_false]
  cases how <;> rfl

theorem suspensionComplete_suspend (h : s.place = .ctx n) (hs : s.suspending.get? n = some .suspend)
    (hq : s.ctxQuiet n .suspend = true) : Runs .suspensionComplete s (fun t =>
      t = { s with sys := t.sys, bays := t.bays, suspending := t.suspending } ∧ t.suspending.get? n = none ∧
      (∀ b, (t.bay b).stash = (s.bay b).stash.filter (fun m => decide (m.ctx ≠ n))) ∧
      Sets s t .context n ([(Ctx.busy, 0), (Ctx.state, 3)] ++ [(Ctx.cseq, s.fld .context n Ctx.cseq + 1), (Ctx.cstat, 0)])) := by
  obtain ⟨u, hu⟩ : ∃ u, u = s.calm n := ⟨_, rfl⟩
  obtain ⟨x, hx⟩ : ∃ x, (u.ctxSet n [(Ctx.busy, 0), (Ctx.state, 3)]).ctxDone n 0 = { u with sys := x } :=
    ⟨_, by rw [State.ctxDone_eq, State.ctxSet_eq]⟩
  have hsets := u.sets_ctxSet_ctxDone n 0 (l := [(Ctx.busy, 0), (Ctx.state, 3)]) (by decide)
  rw [hx, State.fld_congr (t := s) (by rw [hu]; rfl)] at hsets
  refine ⟨{ u with sys := x }, ?_, ?_, ?_, ?_, Sets.of_sys_left hsets (by rw [hu]; rfl)⟩
  · rw [← hx, hu]
    exact execSuspensionComplete_eq h hs hq
  · rw [hu]
    rfl
  · rw [hu]
    exact s.calm_suspending n
  · rw [hu]
    exact s.calm_stash n

theorem suspensionComplete_fault (h : s.place = .ctx n) (hs : s.suspending.get? n = some .fault)
    (hq : s.ctxQuiet n .fault = true) : Runs .suspensionComplete s (fun t =>
      t = { s with sys := t.sys, bays := t.bays, suspending := t.suspending } ∧ t.suspending.get? n = none ∧
      (∀ b, (t.bay b).stash = (s.bay b).stash.filter (fun m => decide (m.ctx ≠ n))) ∧ Sets s t .context n [(Ctx.busy, 0)]) := by
  obtain ⟨u, hu⟩ : ∃ u, u = s.calm n := ⟨_, rfl⟩
  obtain ⟨x, hx⟩ : ∃ x, u.ctxSet n [(Ctx.busy, 0)] = { u with sys := x } := ⟨_, u.ctxSet_eq n _⟩
  have hsets := u.sets_ctxSet n [(Ctx.busy, 0)]
  rw [hx] at hsets
  refine ⟨{ u with sys := x }, ?_, ?_, ?_, ?_, Sets.of_sys_left hsets (by rw [hu]; rfl)⟩
  · rw [← hx, hu]
    exact execSuspensionComplete_eq h hs hq
  · rw [hu]
    rfl
  · rw [hu]
    exact s.calm_suspending n
  · rw [hu]
    exact s.calm_stash n

theorem State.busyPins_snd {i : Fin 1024} : (s.busyPins i).2 = s.pins := rfl

theorem State.destroyCtx_state (s : State) (n : ℕ) : (s.destroyCtx n).fld .context n Ctx.state = 0 := by
  rw [State.destroyCtx, State.fld, State.setFld_rcd_self, Fld.get_set_self]
  rfl

/-- A context that is not busy is not busy once it has been destroyed. -/
theorem State.destroyCtx_busy (hn : n < 1024) (h : s.fld .context n Ctx.busy = 0) : (s.destroyCtx n).fld .context n Ctx.busy = 0 := by
  have hkept := congrArg Prod.fst (State.destroyCtx_busyPins (s := s) (i := ⟨n, hn⟩) n)
  rw [State.fld, busy_eq_zero_iff] at h ⊢
  exact hkept.trans h

theorem State.destroyCtx_pins (hn : n < 1024) : (s.destroyCtx n).pins = s.pins.filter (fun p => decide (p.ctx ≠ n)) := by
  rw [← State.busyPins_snd (i := ⟨n, hn⟩), State.destroyCtx_busyPins]

theorem suspensionComplete_destroy (hn : n < 1024) (h : s.place = .ctx n) (hs : s.suspending.get? n = some .destroy)
    (hq : s.ctxQuiet n .destroy = true) : Runs .suspensionComplete s (fun t => t.fld .context n Ctx.state = 0 ∧
      t.fld .context n Ctx.busy = 0 ∧ t.fld .context n Ctx.cstat = 0 ∧ ∀ p ∈ t.pins, p.ctx ≠ n) := by
  obtain ⟨u, hu⟩ : ∃ u, u = (s.calm n).setFld .context n Ctx.busy 0 := ⟨_, rfl⟩
  have hidle : u.fld .context n Ctx.busy = 0 := by
    rw [hu, State.fld, State.setFld_rcd_self, Fld.get_set_self]
    rfl
  have hstate := u.destroyCtx_state n
  have hbusy := State.destroyCtx_busy hn hidle
  have hpins := State.destroyCtx_pins (s := u) hn
  refine ⟨(u.destroyCtx n).ctxDone n 0, ?_, ?_⟩
  · rw [hu]
    exact execSuspensionComplete_eq h hs hq
  · generalize u.destroyCtx n = v at hstate hbusy hpins ⊢
    refine ⟨?_, ?_, v.ctxDone_cstat n 0, ?_⟩
    · rw [v.ctxDone_fld n 0 (by decide) (by decide), hstate]
    · rw [v.ctxDone_fld n 0 (by decide) (by decide), hbusy]
    · rw [v.ctxDone_eq, hpins]
      intro p hp
      simpa using (List.mem_filter.1 hp).2

end

end Sys2Proof.Machine
end

section
namespace Sys2Proof.Laws

open Machine

/-! ## The commands of contexts (R74 to R82) -/

/-- Settles O44, a lemma for each outcome of each command. -/
theorem contextCommands : Obligations.ContextCommands := by
  unfold Obligations.ContextCommands
  refine ⟨fun s n h => ⟨reports_of_busy h, fun hb => ?_⟩, fun s n hn => ?_, fun s n how h hn hs => ?_⟩
  · exact ⟨unknownCommand_reports h hb, ctxCreate_refused h hb, ctxCreate_invalid h hb, ctxCreate_runs h hb,
      ctxActivate_refused h hb, ctxActivate_runs h hb, ctxResume_refused h hb, ctxResume_invalid h hb, ctxResume_runs h hb,
      ctxClear_refused h hb, ctxClear_runs h hb⟩
  · exact ⟨ctxSuspend_refused, ctxSuspend_runs hn, ctxDestroy_refused, ctxDestroy_runs hn, fun _ => contextFault_ignored,
      fun _ => contextFault_runs hn⟩
  · refine ⟨suspensionComplete_of_busy h hs, fun hq => ⟨?_, ?_, ?_⟩⟩
    · rintro rfl
      exact suspensionComplete_suspend h hs hq
    · rintro rfl
      exact suspensionComplete_fault h hs hq
    · rintro rfl
      exact suspensionComplete_destroy hn h hs hq

end Sys2Proof.Laws
end

section
namespace Sys2Proof.Machine

/-! ## What does not look at the resident crews -/

section
variable (s : State) (cs : Tbl Crew) (n : ℕ)

/-- The module with other resident crews, and another counter of the free values. -/
def State.withCrews (s : State) (cs : Tbl Crew) (n : ℕ) : State := { s with crews := cs, fresh := n }

theorem State.bytes_withCrews (m pa : ℕ) : (s.withCrews cs n).bytes m pa = s.bytes m pa := by
  induction m generalizing pa with
  | zero => rfl
  | succ m ih => exact congrArg (s.byte pa :: ·) (ih (pa + 1))

theorem State.num_withCrews (pa m : ℕ) : (s.withCrews cs n).num pa m = s.num pa m :=
  congrArg ofBytes (s.bytes_withCrews cs n m pa)

theorem State.readPieces_withCrews (l : List (ℕ × Hit × ℕ)) : (s.withCrews cs n).readPieces l = s.readPieces l := by
  unfold State.readPieces
  simp only [State.bytes_withCrews]

theorem State.walkFrom_withCrews (ctx va : ℕ) (levels : List ℕ) (t : ℕ) :
    (s.withCrews cs n).walkFrom ctx va levels t = s.walkFrom ctx va levels t := by
  induction levels generalizing t with
  | nil => rfl
  | cons level rest ih =>
    unfold State.walkFrom
    simp only [State.num_withCrews, ih]
    rfl

theorem State.xlatWalk_withCrews (ctx va : ℕ) (need : Need) : (s.withCrews cs n).xlatWalk ctx va need = s.xlatWalk ctx va need := by
  unfold State.xlatWalk State.walk
  rw [State.walkFrom_withCrews]
  rfl

theorem State.depBar_withCrews (ctx va : ℕ) : (s.withCrews cs n).depBar ctx va = s.depBar ctx va := by
  unfold State.depBar
  rw [State.xlatWalk_withCrews]

theorem State.depsOf_withCrews (ctx launch : ℕ) (l : List ℕ) : (s.withCrews cs n).depsOf ctx launch l = s.depsOf ctx launch l := by
  induction l with
  | nil => rfl
  | cons i rest ih =>
    unfold State.depsOf
    rw [ih]
    simp only [State.depBar_withCrews]

theorem State.launchTest_withCrews (ctx launch : ℕ) (path : Fld) (same : Bool) (q : ℕ) :
    (s.withCrews cs n).launchTest ctx launch path same q = s.launchTest ctx launch path same q := by
  have hfld (f : Fld) : (s.withCrews cs n).fld .queue q f = s.fld .queue q f := rfl
  have hcfg (f : Fld) : (s.withCrews cs n).qcfg q f = s.qcfg q f := rfl
  have hok (owner : ℕ) : (s.withCrews cs n).launchOk launch owner = s.launchOk launch owner := rfl
  have hforeign : (s.withCrews cs n).foreignDep = s.foreignDep := rfl
  have hflight : (s.withCrews cs n).inFlight = s.inFlight := rfl
  have hfree : (s.withCrews cs n).freeSlot = s.freeSlot := rfl
  simp only [State.launchTest, State.depsOf_withCrews, hfld, hcfg, hok, hforeign, hflight, hfree]

theorem State.sysEffect_withCrews (t : SysTab) (m old new cmd : ℕ) :
    (s.withCrews cs n).sysEffect t m old new cmd = (s.sysEffect t m old new cmd).withCrews cs n := by
  cases t <;> simp only [State.sysEffect] <;> (repeat' split) <;> rfl

theorem State.sysWrite_withCrews (fuel pa : ℕ) (bs : List Byte) :
    (s.withCrews cs n).sysWrite fuel pa bs = (s.sysWrite fuel pa bs).withCrews cs n := by
  induction fuel generalizing s pa bs with
  | zero => rfl
  | succ f ih =>
    cases bs with
    | nil => rfl
    | cons b bs =>
      unfold State.sysWrite
      split
      · dsimp only
        have hrec (t : SysTab) (m k : ℕ) (bs : List Byte) :
            (s.withCrews cs n).sysWriteRec t m k bs = (s.sysWriteRec t m k bs).withCrews cs n :=
          State.sysEffect_withCrews (s.setRcd t m _) cs n t m _ _ _
        rw [hrec, ih]
      · exact ih _ _ _

theorem State.write_withCrews (pa : ℕ) (bs : List Byte) : (s.withCrews cs n).write pa bs = (s.write pa bs).withCrews cs n := by
  unfold State.write
  split
  · exact State.sysWrite_withCrews s cs n _ pa bs
  · rfl

theorem State.writePieces_withCrews (l : List (ℕ × Hit × ℕ)) (bs : List Byte) :
    (s.withCrews cs n).writePieces l bs = (s.writePieces l bs).withCrews cs n := by
  induction l generalizing s bs with
  | nil => rfl
  | cons p rest ih =>
    unfold State.writePieces
    rw [State.write_withCrews, ih]

end

/-- An operation neither looks at the resident crews nor changes them. -/
def Uncrewed (f : State → State) : Prop := ∀ s cs n, f (s.withCrews cs n) = (f s).withCrews cs n

theorem Uncrewed.crews {f : State → State} (hf : Uncrewed f) (s : State) : (f s).crews = s.crews := by
  have h := congrArg State.crews (hf s s.crews s.fresh)
  exact h

theorem State.postKernel_writePieces_uncrewed (y q launch : ℕ) (deps : List Dep) (h : List (ℕ × Hit × ℕ)) :
    Uncrewed (fun s => (s.postKernel y q launch deps).writePieces h (toBytes 4 ((s.postKernel y q launch deps).handle y))) :=
  fun s cs n => State.writePieces_withCrews (s.postKernel y q launch deps) cs n h _

/-! ## Posting a kernel (R23, R99) -/

section
variable (s : State) (y q launch : ℕ) (deps : List Dep)

theorem State.postKernel_kern_self : (s.postKernel y q launch deps).kern y =
    { Kernel.init with
      gen := ((s.kern y).gen + 1) % 2 ^ 18, state := .posted, launch := launch, queue := q, ctx := s.qcfg q Que.ctx,
      posted := s.serial, deps := deps, urg := Lch.urgency.get launch,
      bars := deps.filterMap (fun d => match d with | .kernel _ => none | .phase pa _ => some pa | .value pa _ => some pa) } := by
  change Tbl.getD (Tbl.set s.kernels y _) y Kernel.init = _
  rw [Tbl.getD, Tbl.get?_set_self]
  rfl

theorem State.postKernel_kern_ne {z : ℕ} (h : z ≠ y) : (s.postKernel y q launch deps).kern z = s.kern z := by
  change Tbl.getD (Tbl.set s.kernels y _) z Kernel.init = _
  rw [Tbl.getD, Tbl.get?_set_ne _ _ h.symm]
  rfl

end

/-! ## The tests of R99 in their order -/

section
variable {s : State} {ctx launch q : ℕ} {path : Fld} {same : Bool} {deps : List Dep}

theorem State.launchTest_free (h : s.fld .queue q Que.state = 0) : s.launchTest ctx launch path same q = .refused 2 := if_pos h

theorem State.launchTest_not_owner (h : s.fld .queue q Que.state ≠ 0) (ho : s.qcfg q Que.ctx ≠ ctx ∧ ctx ≠ 0) :
    s.launchTest ctx launch path same q = .refused 7 := by
  rw [State.launchTest, if_neg h, if_pos ho]

theorem State.launchTest_path (h : s.fld .queue q Que.state ≠ 0) (ho : s.qcfg q Que.ctx = ctx ∨ ctx = 0) (hp : s.qcfg q path = 0) :
    s.launchTest ctx launch path same q = .refused 8 := by
  rw [State.launchTest, if_neg h, if_neg (by tauto), if_pos hp]

theorem State.launchTest_malformed (h : s.fld .queue q Que.state ≠ 0) (ho : s.qcfg q Que.ctx = ctx ∨ ctx = 0) (hp : s.qcfg q path ≠ 0)
    (hl : same = false ∨ s.launchOk launch (s.qcfg q Que.ctx) = false) : s.launchTest ctx launch path same q = .refused 9 := by
  rw [State.launchTest, if_neg h, if_neg (by tauto), if_neg hp, if_pos (by simpa using hl)]

/-- What is left to test of a record that is well formed and whose dependences are found. -/
theorem State.launchTest_found (h : s.fld .queue q Que.state ≠ 0) (ho : s.qcfg q Que.ctx = ctx ∨ ctx = 0) (hp : s.qcfg q path ≠ 0)
    (hs : same = true) (hl : s.launchOk launch (s.qcfg q Que.ctx) = true) (hd : s.depsOf ctx launch [0, 1, 2, 3] = .ok (some deps)) :
    s.launchTest ctx launch path same q =
      if deps.any (s.foreignDep (s.qcfg q Que.ctx)) then .refused 9
      else if s.qcfg q Que.depth ≤ s.fld .queue q Que.nposted ∨ Config.kernelSlots ≤ s.inFlight then .refused 6
      else s.freeSlot.elim (.refused 6) (.post · deps) := by
  rw [State.launchTest, if_neg h, if_neg (by tauto), if_neg hp, if_neg (by simp [hs, hl]), hd]
  cases s.freeSlot <;> rfl

theorem State.any_foreignDep_iff {owner : ℕ} : deps.any (s.foreignDep owner) = true ↔
    ∃ h, .kernel h ∈ deps ∧ s.handle (h % 2 ^ 14) = h ∧ (s.kern (h % 2 ^ 14)).ctx ≠ owner := by
  rw [List.any_eq_true]
  constructor
  · rintro ⟨d, hd, hf⟩
    cases d with
    | kernel h => exact ⟨h, hd, by simpa [State.foreignDep] using hf⟩
    | phase pa p => cases hf
    | value pa v => cases hf
  · rintro ⟨h, hd, hf⟩
    exact ⟨.kernel h, hd, by simpa [State.foreignDep] using hf⟩

end

end Sys2Proof.Machine
end

section
namespace Sys2Proof.Laws

open Machine Claims

/-! ## Instructions that give their crew a result -/

section
variable {s : State} {rid : ℕ} {c : Crew} {k : Ctl} {d a : Reg}

/-- A bounding instruction that gives its crew a result and then does what has nothing to do with the crews. -/
theorem finishes_of_uncrewed {i : Instr} {e : Enc} {body : BBody} {f : State → State} {v : ℕ} (hf : Uncrewed f) (he : enc i = some (k, e))
    (h : Bounding s rid c i) (hx : exec i s = bounding i body s)
    (hb : body (begun s rid c) rid c = .ok (f ((begun s rid c).result rid k c d v))) :
    Finishes i s (f s) rid (goOn s rid c) (inActive c d v) := by
  have hr : f ((begun s rid c).result rid k c d v) = (f s).withCrews ((begun s rid c).result rid k c d v).crews (s.fresh + 1) :=
    hf s ((begun s rid c).result rid k c d v).crews (s.fresh + 1)
  exact finishes_of_finish (u := begun s rid c) (j := k) he h hx (hb.trans (congrArg Except.ok hr)) h.quiet rfl rfl rfl (hf.crews s)

theorem finishes_of_result {i : Instr} {e : Enc} {body : BBody} {v : ℕ} (he : enc i = some (k, e)) (h : Bounding s rid c i)
    (hx : exec i s = bounding i body s) (hb : body (begun s rid c) rid c = .ok ((begun s rid c).result rid k c d v)) :
    Finishes i s s rid (goOn s rid c) (inActive c d v) :=
  finishes_of_uncrewed (f := id) (fun _ _ _ => rfl) he h hx hb

/-! ## LAUNCH (R99) -/

section
variable {va : ℕ} {l : List (ℕ × Hit × ℕ)}

theorem launch_refused {st : ℕ} (h : Bounding s rid c (.launch k d a)) (hu : Uniform c 2 a va) (ha : c.addrCheck' va 64 c.low = none)
    (hl : (begun s rid c).crewRange rid c va 256 .read = .ok l)
    (ht : s.launchTest (c.ctx s) (ofBytes (s.readPieces l)) Que.dev true (Lch.queue.get (ofBytes (s.readPieces l))) = .refused st) :
    Finishes (.launch k d a) s s rid (goOn s rid c) (inActive c d st) := by
  rw [← State.launchTest_withCrews s (begun s rid c).crews (begun s rid c).fresh,
    ← State.readPieces_withCrews s (begun s rid c).crews (begun s rid c).fresh] at ht
  refine finishes_of_result rfl h rfl ?_
  dsimp only
  rw [if_neg hu.1, uni_of_uniform hu, if_neg (by decide), uval_of_uniform hu, ha]
  dsimp only
  rw [hl]
  dsimp only
  split
  · next hr => cases hr.symm.trans ht; rfl
  · next hr => cases hr.symm.trans ht
  · next hr => cases hr.symm.trans ht

theorem launch_posts {y : ℕ} {deps : List Dep} {w : List (ℕ × Hit × ℕ)} (h : Bounding s rid c (.launch k d a)) (hu : Uniform c 2 a va)
    (ha : c.addrCheck' va 64 c.low = none) (hl : (begun s rid c).crewRange rid c va 256 .read = .ok l)
    (ht : s.launchTest (c.ctx s) (ofBytes (s.readPieces l)) Que.dev true (Lch.queue.get (ofBytes (s.readPieces l))) = .post y deps)
    (hw : (begun s rid c).crewRange rid c (va + 4) 4 .write = .ok w) :
    let p := s.postKernel y (Lch.queue.get (ofBytes (s.readPieces l))) (ofBytes (s.readPieces l)) deps
    Finishes (.launch k d a) s (p.writePieces w (toBytes 4 (p.handle y))) rid (goOn s rid c) (inActive c d 0) := by
  have hread := State.readPieces_withCrews s (begun s rid c).crews (begun s rid c).fresh l
  rw [← State.launchTest_withCrews s (begun s rid c).crews (begun s rid c).fresh, ← hread] at ht
  refine finishes_of_uncrewed (State.postKernel_writePieces_uncrewed y _ _ deps w) rfl h rfl ?_
  rw [← hread]
  dsimp only
  rw [if_neg hu.1, uni_of_uniform hu, if_neg (by decide), uval_of_uniform hu, ha]
  dsimp only
  rw [hl]
  dsimp only
  split
  · next hr => cases hr.symm.trans ht
  · next hr => cases hr.symm.trans ht
  · next hr =>
    cases hr.symm.trans ht
    rw [hw]
    rfl

end

end

/-- Settles O39: the tests of R99 one after another, and what LAUNCH does with what they come to. -/
theorem launches : Obligations.Launches := by
  unfold Obligations.Launches
  refine ⟨fun s rid c k d a va l h hu ha hl => ⟨fun st => launch_refused h hu ha hl, fun y deps w ht hw => ?_⟩,
    fun s ctx rec_ q path same => ?_⟩
  · have hy := s.postKernel_kern_self y (Lch.queue.get (ofBytes (s.readPieces l))) (ofBytes (s.readPieces l)) deps
    refine ⟨?_, ?_, ?_, ?_, ?_, fun z => s.postKernel_kern_ne _ _ _ _, launch_posts h hu ha hl ht hw⟩ <;> rw [hy]
  · refine ⟨State.launchTest_free, State.launchTest_not_owner, State.launchTest_path, State.launchTest_malformed,
      fun h ho hp hs hl deps hd => ?_⟩
    intro foreign
    rw [State.launchTest_found h ho hp hs hl hd]
    refine ⟨fun hf => if_pos (State.any_foreignDep_iff.mpr hf), fun hf => ?_⟩
    rw [if_neg (fun hb => hf (State.any_foreignDep_iff.mp hb))]
    refine ⟨fun hn => if_pos (.inl hn), fun y hn hi hy => ?_⟩
    rw [if_neg (by omega), hy]
    rfl

end Sys2Proof.Laws
end

section
namespace Sys2Proof.Machine

/-! ## Where a byte of the system range lies (R73, R250) -/

theorem SysTab.bytes_pos (tab : SysTab) : 0 < tab.bytes := by cases tab <;> decide

/-- The record and the byte that an address names. -/
theorem sysAt_eq_some {pa n k : ℕ} {tab : SysTab} (h : sysAt pa = some (tab, n, k)) : n < tab.num ∧ k < tab.bytes := by
  unfold sysAt at h
  obtain ⟨t, hf, he⟩ := Option.map_eq_some_iff.mp h
  have hin := List.find?_some hf
  simp only [Bool.and_eq_true, decide_eq_true_eq] at hin
  cases he
  exact ⟨Nat.div_lt_of_lt_mul (by omega), Nat.mod_lt _ (SysTab.bytes_pos _)⟩

/-- The record of a queue lies apart from every record of a table but those of contexts and queues. -/
theorem SysTab.queue_addr_ne {q : ℕ} (hq : q < 4096) {tab : SysTab} (hc : tab ≠ .context) (hn : tab ≠ .queue) (m : ℕ) :
    SysTab.addr .queue q ≠ tab.addr m := by
  have hb : SysTab.addr .cox 0 ≤ tab.base := by
    cases tab with
    | context | queue => contradiction
    | cox | pool | shape | link | port | member | exports | comparator | debug | power | region | tree | count => decide
  have hl : SysTab.addr .queue q < SysTab.addr .cox 0 := by
    simp only [SysTab.addr, SysTab.base, SysTab.bytes, SysTab.place]
    omega
  exact (hl.trans_le (Nat.le_add_right_of_le hb)).ne

theorem SysTab.queue_addr_inj {p q : ℕ} : SysTab.addr .queue p = SysTab.addr .queue q ↔ p = q := by
  simp only [SysTab.addr, SysTab.base, SysTab.bytes, SysTab.place]
  omega

/-! ## What the device's writes to memory leave (R7, R73)

A write of the device to a ring, a frame or an object, with the copies of pages before it, changes memory, the records of the system
range, the TLBs and the agenda. Everything else stays, and so do the state and the command count of every queue: no write of software
reaches them, and the device's own writes are of other fields. -/

/-- What such a write leaves: everything but the parts named, and each queue's state and command count. -/
def State.aside (s : State) : State × (Fin 4096 → ℕ × ℕ) :=
  ({ s with mem := [], sys := [], bays := [], kvFree := [], agenda := [], declared := [], reach := [] },
    fun q => (s.fld .queue q Que.state, s.fld .queue q Que.cseq))

section
variable {α : Type} {s : State}

theorem State.foldl_aside {f : State → α → State} (hf : ∀ s a, (f s a).aside = s.aside) (as : List α) :
    (as.foldl f s).aside = s.aside := by
  induction as generalizing s with
  | nil => rfl
  | cons a as ih => exact ih.trans (hf s a)

/-! ### Records -/

/-- A write of a record that keeps the state and the command count of each queue. -/
theorem State.setRcd_aside_of {tab : SysTab} {m v : ℕ} (h : ∀ q : Fin 4096,
    Que.state.get ((s.setRcd tab m v).rcd .queue q) = Que.state.get (s.rcd .queue q) ∧
      Que.cseq.get ((s.setRcd tab m v).rcd .queue q) = Que.cseq.get (s.rcd .queue q)) : (s.setRcd tab m v).aside = s.aside :=
  Prod.ext rfl (funext fun q => Prod.ext (h q).1 (h q).2)

@[simp] theorem State.setRcd_aside {tab : SysTab} (m v : ℕ) (hc : tab ≠ .context) (hq : tab ≠ .queue) :
    (s.setRcd tab m v).aside = s.aside := by
  refine State.setRcd_aside_of fun q => ?_
  rw [State.rcd_setRcd_of_addr_ne s v (SysTab.queue_addr_ne q.isLt hc hq m)]
  exact ⟨rfl, rfl⟩

@[simp] theorem State.setFld_aside {tab : SysTab} (m : ℕ) (f : Fld) (v : ℕ) (hc : tab ≠ .context) (hq : tab ≠ .queue) :
    (s.setFld tab m f v).aside = s.aside :=
  State.setRcd_aside m _ hc hq

/-- A field apart from a queue's state and command count, in a record that reads 0 unwritten. -/
theorem State.setFld_aside_of_apart {tab : SysTab} (m : ℕ) {f : Fld} (v : ℕ) (hr : tab.reset = SysTab.reset .queue)
    (hs : f.apart Que.state = true) (hc : f.apart Que.cseq = true) : (s.setFld tab m f v).aside = s.aside := by
  refine State.setRcd_aside_of fun q => ?_
  by_cases ha : SysTab.addr .queue q = tab.addr m
  · have hrcd (t : State) : t.rcd .queue q = t.rcd tab m := by rw [State.rcd, State.rcd, ha, hr]
    rw [hrcd, hrcd, State.setRcd_rcd_self]
    exact ⟨Fld.get_set_of_apart hs _ _, Fld.get_set_of_apart hc _ _⟩
  · rw [State.rcd_setRcd_of_addr_ne s _ ha]
    exact ⟨rfl, rfl⟩

/-- A field of a context's record that is apart from them. -/
theorem State.setFld_context_aside (m : ℕ) {f : Fld} (v : ℕ) (hs : f.apart Que.state = true) (hc : f.apart Que.cseq = true) :
    (s.setFld .context m f v).aside = s.aside :=
  State.setFld_aside_of_apart m v rfl hs hc

theorem Ctx.fput_apart : Ctx.fput.apart Que.state = true ∧ Ctx.fput.apart Que.cseq = true := by decide

theorem Ctx.flost_apart : Ctx.flost.apart Que.state = true ∧ Ctx.flost.apart Que.cseq = true := by decide

theorem Ctx.sput_apart : Ctx.sput.apart Que.state = true ∧ Ctx.sput.apart Que.cseq = true := by decide

@[simp] theorem State.post_aside (p : Place) (x : Instr) : (s.post p x).aside = s.aside := rfl

/-! ### Software writes -/

@[simp] theorem State.sysEffect_aside (tab : SysTab) (m old new cmd : ℕ) : (s.sysEffect tab m old new cmd).aside = s.aside := by
  cases tab with
  | context | queue | cox | port | link =>
    unfold State.sysEffect
    dsimp only
    (repeat' split) <;> rfl
  | power =>
    unfold State.sysEffect
    dsimp only
    split <;> simp
  | member =>
    unfold State.sysEffect
    dsimp only
    (repeat' split) <;> simp
  | pool | shape | exports | comparator | debug | region | tree | count => rfl

/-- A field none of whose bits are in a mask keeps its value. -/
theorem Fld.get_masked {f : Fld} {mask : ℕ} (h : f.get mask = 0) (old given m : ℕ) :
    f.get ((old ^^^ (old &&& (mask &&& m))) ||| (given &&& (mask &&& m))) = f.get old := by
  apply Nat.eq_of_testBit_eq
  intro i
  have hi : (decide (i < f.w) && mask.testBit (i + f.lo)) = false := by rw [← Fld.testBit_get, h, Nat.zero_testBit]
  rw [Fld.testBit_get, Fld.testBit_get]
  by_cases hw : i < f.w
  · have hm : mask.testBit (i + f.lo) = false := by simpa [hw] using hi
    simp [hm]
  · simp [hw]

theorem SysTab.rwMask_queue : Que.state.get (SysTab.rwMask .queue) = 0 ∧ Que.cseq.get (SysTab.rwMask .queue) = 0 := by decide +kernel

@[simp] theorem State.sysWriteRec_aside {tab : SysTab} {m : ℕ} (hm : m < tab.num) (k : ℕ) (bs : List Byte) :
    (s.sysWriteRec tab m k bs).aside = s.aside := by
  unfold State.sysWriteRec
  refine (State.sysEffect_aside _ _ _ _ _).trans ?_
  by_cases hc : tab = .context
  · subst hc
    refine State.setRcd_aside_of fun q => ?_
    rw [State.rcd_setRcd_of_addr_ne s _ (SysTab.context_addr_ne hm (by decide) q).symm]
    exact ⟨rfl, rfl⟩
  · by_cases hq : tab = .queue
    · subst hq
      refine State.setRcd_aside_of fun q => ?_
      obtain ⟨hstate, hcseq⟩ := SysTab.rwMask_queue
      generalize SysTab.queue.rwMask = mask at hstate hcseq ⊢
      rcases eq_or_ne m q with rfl | hne
      · rw [State.setRcd_rcd_self]
        exact ⟨Fld.get_masked hstate _ _ _, Fld.get_masked hcseq _ _ _⟩
      · rw [State.rcd_setRcd_of_addr_ne s _ (fun ha => hne (SysTab.queue_addr_inj.mp ha).symm)]
        exact ⟨rfl, rfl⟩
    · exact State.setRcd_aside m _ hc hq

@[simp] theorem State.sysWrite_aside (fuel pa : ℕ) (bs : List Byte) : (s.sysWrite fuel pa bs).aside = s.aside := by
  induction fuel generalizing s pa bs with
  | zero => rfl
  | succ f ih =>
    cases bs with
    | nil => rfl
    | cons b bs =>
      unfold State.sysWrite
      split
      · next h => exact (ih _ _).trans (State.sysWriteRec_aside (sysAt_eq_some h).1 _ _)
      · exact ih _ _

@[simp] theorem State.write_aside (pa : ℕ) (bs : List Byte) : (s.write pa bs).aside = s.aside := by
  unfold State.write
  split
  · exact State.sysWrite_aside _ _ _
  · rfl

@[simp] theorem State.writeNum_aside (pa m v : ℕ) : (s.writeNum pa m v).aside = s.aside := State.write_aside _ _

@[simp] theorem State.writePieces_aside (l : List (ℕ × Hit × ℕ)) (bs : List Byte) : (s.writePieces l bs).aside = s.aside := by
  induction l generalizing s bs with
  | nil => rfl
  | cons p rest ih => exact (ih _).trans (State.write_aside _ _)

/-! ### Copies of pages -/

@[simp] theorem State.tlbDrop_aside (ctx va : ℕ) : (s.tlbDrop ctx va).aside = s.aside := rfl

@[simp] theorem State.ctxFault_aside (ctx cause : ℕ) : (s.ctxFault ctx cause).aside = s.aside := rfl

theorem State.supply_aside (ctx k : ℕ) {r : List ℕ × State} (e : s.supply ctx k = .ok r) : r.2.aside = s.aside := by
  -- the search is a variable here, so that no check of the case split runs it
  obtain ⟨look, hl⟩ : ∃ look, look = State.supplyLook := ⟨_, rfl⟩
  rw [State.supply, ← hl] at e
  dsimp only at e
  (repeat' split at e) <;> cases e
  · rfl
  · simp

theorem State.takeSupply_aside {t : State} (ctx k : ℕ) {q : Option (List ℕ)} (e : s.takeSupply ctx k = (q, t)) : t.aside = s.aside := by
  unfold State.takeSupply at e
  split at e
  · next hs => cases e; exact State.supply_aside ctx k hs
  · cases e; rfl
  · cases e; rfl

@[simp] theorem State.countDec_aside (ctx pa : ℕ) : (s.countDec ctx pa).aside = s.aside := by
  unfold State.countDec
  dsimp only
  (repeat' split)
  · rfl
  · exact (State.setRcd_aside (s := s) (tab := .count) (pa / 2 ^ 16) (s.count pa - 1) (by decide) (by decide) :)
  · exact State.setRcd_aside (tab := .count) _ _ (by decide) (by decide)

@[simp] theorem State.kvCopy_aside (ctx va : ℕ) : (s.kvCopy ctx va).2.aside = s.aside := by
  unfold State.kvCopy
  split
  · rfl
  · dsimp only
    split
    · rfl
    · split
      · next hq => simp [State.takeSupply_aside _ _ hq]
      · next hq => exact State.takeSupply_aside _ _ hq

@[simp] theorem State.snapshotPut_aside (va : ℕ) (as : List (ℕ × ℕ × ℕ)) : (s.snapshotPut va as).aside = s.aside :=
  State.foldl_aside (fun _ _ => State.writeNum_aside _ _ _) as

@[simp] theorem State.ckptCopy_aside (ctx va : ℕ) : (s.ckptCopy ctx va).2.aside = s.aside := by
  unfold State.ckptCopy
  dsimp only
  split
  · rfl
  · split
    · rfl
    · split
      · rfl
      · rfl
      · split
        · next hq => simp [State.foldl_aside, State.takeSupply_aside _ _ hq]
        · next hq => exact State.takeSupply_aside _ _ hq

@[simp] theorem State.pageCopy_aside (ctx va copy : ℕ) : (s.pageCopy ctx va copy).2.aside = s.aside := by
  unfold State.pageCopy
  (repeat' split) <;> simp

@[simp] theorem State.makeWritable_aside (ctx va : ℕ) : (s.makeWritable ctx va).aside = s.aside := by
  unfold State.makeWritable
  dsimp only
  (repeat' split) <;> simp

/-! ### Logs and frames -/

@[simp] theorem State.faultLost_aside (ctx : ℕ) : (s.faultLost ctx).aside = s.aside :=
  State.setFld_context_aside _ _ Ctx.flost_apart.1 Ctx.flost_apart.2

@[simp] theorem State.faultLog_aside (ctx : ℕ) (r : FaultRec) : (s.faultLog ctx r).aside = s.aside := by
  unfold State.faultLog
  dsimp only
  split
  · exact State.faultLost_aside _
  · split
    · exact (State.setFld_context_aside _ _ Ctx.fput_apart.1 Ctx.fput_apart.2).trans
        ((State.writeNum_aside _ _ _).trans (State.makeWritable_aside _ _))
    · exact (State.faultLost_aside _).trans (State.makeWritable_aside _ _)
    · exact (State.ctxFault_aside _ _).trans ((State.faultLost_aside _).trans (State.makeWritable_aside _ _))

@[simp] theorem State.stampLog_aside (ctx bits : ℕ) : (s.stampLog ctx bits).aside = s.aside := by
  unfold State.stampLog
  dsimp only
  split
  · rfl
  · split
    · exact (State.setFld_context_aside _ _ Ctx.sput_apart.1 Ctx.sput_apart.2).trans
        ((State.writeNum_aside _ _ _).trans (State.makeWritable_aside _ _))
    · exact State.makeWritable_aside _ _
    · exact (State.ctxFault_aside _ _).trans (State.makeWritable_aside _ _)

@[simp] theorem State.writeFrame_aside (rid : ℕ) (c : Crew) (t' : Trap) (pa : ℕ) : (s.writeFrame rid c t' pa).aside = s.aside := by
  simp [State.writeFrame]

end

end Sys2Proof.Machine
end

section
namespace Sys2Proof.Machine

/-! ## What the kills and the retirements of kernels leave (R90, R111, R131)

The end of a kernel reaches far: its crews are squashed, its registrations end, and each end may orphan an object and wake what waits on
it. Through all this a queue keeps its state and its command count, and a kernel its state and its cause; a kernel that is to end
with a cause ends with that cause. -/

/-- What the device does on its own to queues and kernels is not in these: each queue's state and command count, and each kernel's state,
cause, and the cause it is to end with. -/
def State.outline (s : State) : (Fin 4096 → ℕ × ℕ) × (ℕ → KState × ℕ × Option ℕ) :=
  (fun q => (s.fld .queue q Que.state, s.fld .queue q Que.cseq), fun k => ((s.kern k).state, (s.kern k).cause, (s.kern k).ending))

section
variable {α : Type} {s t : State}

theorem State.outline_of_aside (h : t.aside = s.aside) : t.outline = s.outline := by
  have hrest := congrArg Prod.fst h
  have hk : t.kernels = s.kernels := by
    have := congrArg State.kernels hrest
    exact this
  exact Prod.ext (congrArg Prod.snd h) (funext fun k => by simp only [State.outline, State.kern, hk])

theorem State.foldl_outline {f : State → α → State} (hf : ∀ s a, (f s a).outline = s.outline) (as : List α) :
    (as.foldl f s).outline = s.outline := by
  induction as generalizing s with
  | nil => rfl
  | cons a as ih => exact ih.trans (hf s a)

theorem State.ite_outline {p : Prop} [Decidable p] (h : t.outline = s.outline) : (if p then t else s).outline = s.outline := by
  split
  · exact h
  · rfl

/-! ### Records, kernels and the agenda -/

@[simp] theorem State.setFld_outline {tab : SysTab} (m : ℕ) (f : Fld) (v : ℕ) (hc : tab ≠ .context) (hq : tab ≠ .queue) :
    (s.setFld tab m f v).outline = s.outline :=
  State.outline_of_aside (State.setFld_aside m f v hc hq)

/-- A field of a queue's record apart from these. -/
theorem State.setFld_queue_outline (m : ℕ) {f : Fld} (v : ℕ) (hs : f.apart Que.state = true) (hc : f.apart Que.cseq = true) :
    (s.setFld .queue m f v).outline = s.outline :=
  State.outline_of_aside (State.setFld_aside_of_apart m v rfl hs hc)

/-- A change of a kernel's other fields. -/
theorem State.setKern_outline (k : ℕ) {f : Kernel → Kernel}
    (hf : ∀ y, (f y).state = y.state ∧ (f y).cause = y.cause ∧ (f y).ending = y.ending := by exact fun _ => ⟨rfl, rfl, rfl⟩) :
    (s.setKern k f).outline = s.outline := by
  refine Prod.ext rfl (funext fun j => ?_)
  obtain ⟨hstate, hcause, hending⟩ := hf (s.kern k)
  simp only [State.outline]
  rcases eq_or_ne k j with rfl | hne
  · rw [State.setKern_kern_self, hstate, hcause, hending]
  · rw [State.setKern_kern_ne s f hne]

@[simp] theorem State.setKeep_outline (k idx : ℕ) (f : Keep → Keep) : (s.setKern k (fun y => y.setKeep idx f)).outline = s.outline :=
  State.setKern_outline k

@[simp] theorem State.setCrew_outline (rid : ℕ) (f : Crew → Crew) : (s.setCrew rid f).outline = s.outline := rfl

@[simp] theorem State.post_outline (p : Place) (x : Instr) : (s.post p x).outline = s.outline := rfl

@[simp] theorem State.kick_outline : s.kick.outline = s.outline := rfl

@[simp] theorem State.recount_outline (q : ℕ) : (s.recount q).outline = s.outline :=
  State.setFld_queue_outline _ _ (by decide) (by decide)

/-! ### Pages, logs and traps -/

@[simp] theorem State.writeNum_outline (pa m v : ℕ) : (s.writeNum pa m v).outline = s.outline :=
  State.outline_of_aside (State.writeNum_aside _ _ _)

@[simp] theorem State.ctxFault_outline (ctx cause : ℕ) : (s.ctxFault ctx cause).outline = s.outline := rfl

@[simp] theorem State.makeWritable_outline (ctx va : ℕ) : (s.makeWritable ctx va).outline = s.outline :=
  State.outline_of_aside (State.makeWritable_aside _ _)

@[simp] theorem State.faultLog_outline (ctx : ℕ) (r : FaultRec) : (s.faultLog ctx r).outline = s.outline :=
  State.outline_of_aside (State.faultLog_aside _ _)

@[simp] theorem State.stampLog_outline (ctx bits : ℕ) : (s.stampLog ctx bits).outline = s.outline :=
  State.outline_of_aside (State.stampLog_aside _ _)

@[simp] theorem State.writeFrame_outline (rid : ℕ) (c : Crew) (x : Trap) (pa : ℕ) : (s.writeFrame rid c x pa).outline = s.outline :=
  State.outline_of_aside (State.writeFrame_aside _ _ _ _)

@[simp] theorem State.dropLatch_outline (rid : ℕ) : (s.dropLatch rid).outline = s.outline := rfl

@[simp] theorem State.dropMmaFlags_outline (rid : ℕ) : (s.dropMmaFlags rid).outline = s.outline := rfl

@[simp] theorem State.becomeTrapped_outline (rid kind : ℕ) : (s.becomeTrapped rid kind).outline = s.outline := rfl

@[simp] theorem State.enterTrap_outline (rid : ℕ) (x : Trap) : (s.enterTrap rid x).outline = s.outline := by
  unfold State.enterTrap
  split
  · rfl
  · split
    · simp
    · dsimp only
      (repeat' split) <;> simp

@[simp] theorem State.takeTrap_outline (rid : ℕ) (x : Trap) : (s.takeTrap rid x).outline = s.outline := by
  unfold State.takeTrap
  dsimp only
  (repeat' split) <;> simp

/-! ### Waiters of an object -/

@[simp] theorem State.resumeNext_outline (rid : ℕ) : (s.resumeNext rid).outline = s.outline := rfl

@[simp] theorem State.onWindow_outline (k idx : ℕ) (f : Window → Window) : (s.onWindow k idx f).outline = s.outline := by
  unfold State.onWindow
  (repeat' split) <;> simp

@[simp] theorem State.waitEnds_outline (k idx : ℕ) : (s.waitEnds k idx).outline = s.outline := by
  simp [State.waitEnds]

@[simp] theorem State.retest_outline (pa o rid : ℕ) (c : Crew) : (s.retest pa o rid c).outline = s.outline := by
  unfold State.retest
  (repeat' split) <;> simp

@[simp] theorem State.writeStamps_outline (k idx : ℕ) : (s.writeStamps k idx).outline = s.outline := by
  unfold State.writeStamps
  dsimp only
  split
  · rfl
  · simp [State.foldl_outline]

/-! ### Crews that stop -/

@[simp] theorem State.squashFrom_outline (rid i : ℕ) : (s.squashFrom rid i).outline = s.outline := by
  unfold State.squashFrom
  (repeat' split) <;> rfl

@[simp] theorem State.fqAbandon_outline (who : Waiter) : (s.fqAbandon who).outline = s.outline := rfl

@[simp] theorem State.redsChanged_outline : s.redsChanged.outline = s.outline := by
  unfold State.redsChanged
  refine (State.foldl_outline (fun t p => ?_) _).trans rfl
  (repeat' split) <;> rfl

@[simp] theorem State.killCrew_outline (rid : ℕ) : (s.killCrew rid).outline = s.outline := by
  unfold State.killCrew
  split
  · rfl
  · extract_lets whole squashed waited kept quiet dropped
    have hsquashed : squashed.outline = s.outline := by
      unfold squashed
      split <;> simp
    have hwaited : waited.outline = squashed.outline := by
      unfold waited
      split <;> simp
    have hkept : kept.outline = waited.outline := by
      unfold kept
      (repeat' split) <;> simp
    have hquiet : quiet.outline = kept.outline := State.redsChanged_outline.trans rfl
    have hdropped : dropped.outline = s.outline := by
      rw [show dropped.outline = quiet.outline from rfl, hquiet, hkept, hwaited, hsquashed]
    split
    · exact (State.ite_outline (State.post_outline _ _)).trans hdropped
    · exact hdropped

@[simp] theorem State.abortCmds_outline (sel : Cmd → Bool) : (s.abortCmds sel).outline = s.outline := by
  unfold State.abortCmds
  refine State.foldl_outline (fun _ _ => ?_) _
  rfl

/-! ### Units, bays and messages -/

@[simp] theorem State.returnUnits_outline (d m : ℕ) : (s.returnUnits d m).outline = s.outline :=
  State.setFld_outline _ _ _ (by decide) (by decide)

@[simp] theorem State.releaseUnits_outline (k : ℕ) : (s.releaseUnits k).outline = s.outline := by
  unfold State.releaseUnits
  exact (State.setKern_outline k).trans ((State.returnUnits_outline _ _).trans (State.returnUnits_outline _ _))

@[simp] theorem State.withdraw_outline (k : ℕ) : (s.withdraw k).outline = s.outline := by
  unfold State.withdraw
  exact State.ite_outline ((State.setKern_outline k).trans (State.releaseUnits_outline k))

@[simp] theorem State.sendStops_outline : s.sendStops.outline = s.outline := by
  unfold State.sendStops
  refine State.foldl_outline (fun t k => ?_) _
  split
  · rfl
  · exact (State.post_outline _ _).trans (State.setKern_outline k)

@[simp] theorem State.dropRaises_outline (k : ℕ) : (s.dropRaises k).outline = s.outline := by
  unfold State.dropRaises
  refine (State.foldl_outline (fun t a => ?_) _).trans rfl
  split
  · exact State.returnUnits_outline _ _
  · rfl

@[simp] theorem State.leaveBay_outline (b k : ℕ) : (s.leaveBay b k).outline = s.outline := by rfl

@[simp] theorem State.leaveBays_outline (k : ℕ) : (s.leaveBays k).outline = s.outline :=
  calc (s.leaveBays k).outline
    _ = (((s.dropRaises k).bays.filter (fun p => (p.2.kerns.get? k).isSome)).foldl (fun s p => s.leaveBay p.1 k)
          (s.dropRaises k)).outline := rfl
    _ = (s.dropRaises k).outline := State.foldl_outline (fun _ _ => State.leaveBay_outline _ _) _
    _ = s.outline := State.dropRaises_outline k

@[simp] theorem State.sendOrWait_outline (typ ctx : ℕ) (body : List Byte) : (s.sendOrWait typ ctx body).outline = s.outline := by
  unfold State.sendOrWait
  split <;> rfl

@[simp] theorem State.complete_outline (ctx echo kind status handle value value2 : ℕ) :
    (s.complete ctx echo kind status handle value value2).outline = s.outline := by
  simp [State.complete]

end

/-! ### Operations on objects -/

/-- Queues and kernels go on as they were, but a kernel may have come to end with a cause. -/
structure Works (s t : State) : Prop where
  queues : t.outline.1 = s.outline.1
  state : ∀ k, (t.kern k).state = (s.kern k).state
  cause : ∀ k, (t.kern k).cause = (s.kern k).cause
  ending : ∀ k, (s.kern k).ending.isSome → (t.kern k).ending = (s.kern k).ending

section
variable {α : Type} {s t u : State}

theorem Works.of_outline (h : t.outline = s.outline) : Works s t := by
  have hk (k : ℕ) := congrFun (congrArg Prod.snd h) k
  exact ⟨congrArg Prod.fst h, fun k => congrArg Prod.fst (hk k), fun k => congrArg (fun p => p.2.1) (hk k),
    fun k _ => congrArg (fun p => p.2.2) (hk k)⟩

theorem Works.of_eq (hk : t.kernels = s.kernels) (hs : t.sys = s.sys) : Works s t := by
  refine .of_outline (Prod.ext (funext fun q => ?_) (funext fun k => ?_))
  · simp only [State.outline, State.fld, State.rcd, hs]
  · simp only [State.outline, State.kern, hk]

theorem Works.refl (s : State) : Works s s := .of_outline rfl

theorem Works.trans (h : Works s t) (h' : Works t u) : Works s u where
  queues := h'.queues.trans h.queues
  state k := (h'.state k).trans (h.state k)
  cause k := (h'.cause k).trans (h.cause k)
  ending k hk := by
    have ht := h.ending k hk
    exact (h'.ending k (by rwa [ht])).trans ht

theorem Works.foldl {f : State → α → State} (hf : ∀ s a, Works s (f s a)) (as : List α) : Works s (as.foldl f s) := by
  induction as generalizing s with
  | nil => exact .refl s
  | cons a as ih => exact (hf s a).trans ih

theorem Works.ite {p : Prop} [Decidable p] (ht : Works s t) (hu : Works s u) : Works s (if p then t else u) := by
  split <;> assumption

/-- A kernel that was to end with no cause comes to end with one. -/
theorem State.setKern_works (s : State) (k : ℕ) {f : Kernel → Kernel} (hs : (f (s.kern k)).state = (s.kern k).state)
    (hc : (f (s.kern k)).cause = (s.kern k).cause) (he : (s.kern k).ending = none) : Works s (s.setKern k f) := by
  refine ⟨rfl, fun j => ?_, fun j => ?_, fun j hj => ?_⟩ <;> rw [State.kern_setKern] <;> split
  · next h => rw [h, hs]
  · rfl
  · next h => rw [h, hc]
  · rfl
  · next h =>
    rw [h, he] at hj
    cases hj
  · rfl

theorem State.judgeDeps_works (s : State) (pa o k : ℕ) : Works s (s.judgeDeps pa o k) := by
  unfold State.judgeDeps
  extract_lets y left judged
  have hjudged : judged.outline = s.outline := (State.recount_outline _).trans (State.setKern_outline k)
  split
  · exact .refl s
  · next hy =>
    have hnone : (s.kern k).ending = none := by
      simp only [Bool.or_eq_true, not_or, Bool.not_eq_true, Option.isSome_eq_false_iff, Option.isNone_iff_eq_none] at hy
      exact hy.1.2
    split
    · exact (s.setKern_works k rfl rfl hnone).trans (.of_outline (State.post_outline _ _))
    · exact .of_outline ((State.ite_outline (State.post_outline _ _)).trans hjudged)

theorem State.touch_works (s : State) (pa : ℕ) : Works s (s.touch pa) := by
  unfold State.touch
  exact (Works.of_outline (State.foldl_outline (fun _ _ => State.retest_outline _ _ _ _) _)).trans
    (.foldl (fun t _ => t.judgeDeps_works _ _ _) _)

theorem State.barPerform_works (pa : ℕ) (op : BarOp) (e : s.barPerform pa op = .ok t) : Works s t := by
  unfold State.barPerform at e
  split at e
  · cases e
    exact (Works.of_outline (State.writeNum_outline _ _ _)).trans (State.touch_works _ _)
  · cases e

theorem State.holdBar_works (s : State) (h : HeldBar) : Works s (s.holdBar h) := .of_outline rfl

theorem State.barWrite_works (ctx va pa : ℕ) (op : BarOp) (e : s.barWrite ctx va pa op = .ok t) : Works s t := by
  unfold State.barWrite at e
  split at e
  · split at e
    · cases e
      exact s.holdBar_works _
    · cases e
  · exact State.barPerform_works pa op e

theorem State.orphanNow_works (s : State) (pa : ℕ) : Works s (s.orphanNow pa) := by
  unfold State.orphanNow
  extract_lets o
  exact .ite (.ite (.refl s) ((Works.of_outline (State.writeNum_outline _ _ _)).trans (State.touch_works _ _))) (.refl s)

theorem State.orphan_works (s : State) (r : Regn) : Works s (s.orphan r) := .ite (s.holdBar_works _) (s.orphanNow_works _)

theorem State.regEnded_works (s : State) (r : Regn) : Works s (s.regEnded r) := by
  unfold State.regEnded
  extract_lets o
  split
  · exact s.orphan_works r
  · split
    · exact .ite (s.orphan_works r) (.refl s)
    · exact .ite (s.orphan_works r) (.refl s)
    · exact .refl s

theorem State.endRegn_works (s : State) (r : Regn) : Works s (s.endRegn r) := by
  unfold State.endRegn
  refine .ite (.trans ?_ (State.regEnded_works _ r)) (.refl s)
  exact .of_eq rfl rfl

theorem State.endRegns_works (s : State) (rs : List Regn) : Works s (s.endRegns rs) := .foldl State.endRegn_works rs

theorem State.raiseBinds_works (s : State) (eng : Bool) (k idx m : ℕ) (binds : List (ℕ × ℕ)) :
    Works s (State.raiseBinds eng k idx m binds s) := by
  induction binds generalizing s with
  | nil => exact .refl s
  | cons p rest ih =>
    unfold State.raiseBinds
    extract_lets last v raised ended
    clear_value last v
    have hraised : Works s raised := by
      unfold raised
      split
      · split
        · next e => exact State.barWrite_works _ _ _ _ e
        · exact .refl s
      · exact .refl s
    have hended : Works raised ended := by
      unfold ended
      split
      · exact .ite (.foldl State.endRegn_works _) (.refl raised)
      · exact .refl raised
    exact (hraised.trans hended).trans (ih ended)

theorem State.advance_works (s : State) (eng : Bool) (k idx : ℕ) : Works s (s.advance eng k idx) := by
  unfold State.advance
  exact (s.raiseBinds_works _ _ _ _ _).trans (.of_outline (State.setKeep_outline _ _ _))

theorem State.settleKeeps_works (s : State) (k : ℕ) : Works s (s.settleKeeps k) := by
  unfold State.settleKeeps
  refine .foldl (fun t p => ?_) _
  have hboth := (t.advance_works true k p.1).trans (State.advance_works _ false k p.1)
  exact hboth.trans (.of_outline (State.writeStamps_outline k p.1))

/-! ### Kernels that end -/

theorem State.killKernel_outline (s : State) (k cause : ℕ) :
    (s.killKernel k cause).outline = ((s.withdraw k).setKern k (Kernel.killed cause)).outline := by
  unfold State.killKernel
  exact (State.post_outline _ _).trans ((State.abortCmds_outline _).trans (State.foldl_outline (fun _ _ => State.killCrew_outline _) _))

/-- A kernel that has retired with a cause. -/
def Kernel.over (cause : ℕ) (y : Kernel) : Kernel := { y with cause := cause, ending := none, stop := none, deps := [], bars := [] }

/-- A retirement marks the kernel after everything else that it does has been done. -/
theorem State.retire_works (s : State) (k cause : ℕ) :
    ∃ u, Works s u ∧ (s.retire k cause).outline = ((u.setKern k (Kernel.over cause)).setKState k .retired).outline := by
  unfold State.retire
  extract_lets y q left told regns posted done dl late sent retired h woken
  have hleft : Works s left := (s.settleKeeps_works k).trans (.of_outline
    ((State.leaveBays_outline _).trans ((State.releaseUnits_outline _).trans (State.withdraw_outline _))))
  have htold : Works left told := .of_eq rfl rfl
  have hregns : Works told regns := told.endRegns_works _
  have hdone : done.outline = regns.outline :=
    (State.setFld_queue_outline _ _ (by decide) (by decide)).trans (State.setFld_queue_outline _ _ (by decide) (by decide))
  have hlate : late.outline = done.outline := State.ite_outline (State.setFld_queue_outline _ _ (by decide) (by decide))
  have hsent : sent.outline = late.outline := State.ite_outline (State.complete_outline ..)
  have hwoken : woken.outline = retired.outline := by
    refine State.foldl_outline (fun t p => ?_) _
    split <;> rfl
  refine ⟨sent, ((hleft.trans htold).trans hregns).trans (.of_outline (by rw [hsent, hlate, hdone])), ?_⟩
  rw [State.kick_outline, State.sendStops_outline, hwoken]
  rfl

end

end Sys2Proof.Machine
end

section
namespace Sys2Proof.Machine

/-! ## FLUSH (R90): what it kills ends as cancelled -/

/-- A kernel has retired as cancelled, or is to. -/
def Kernel.Cancelled (y : Kernel) : Prop := y.ending = some 1 ∨ y.state = .retired ∧ y.cause = 1

/-- A kernel is killed as cancelled, and retires at once where nothing of it is left. -/
def State.flushKernel (s : State) (k : ℕ) : State := (s.killKernel k 1).tryRetire k

section
variable {s t : State} {j k : ℕ}

theorem Works.cancelled (h : Works s t) (hk : (s.kern k).Cancelled) : (t.kern k).Cancelled := by
  rcases hk with he | ⟨hs, hc⟩
  · exact .inl ((h.ending k (by rw [he]; rfl)).trans he)
  · exact .inr ⟨(h.state k).trans hs, (h.cause k).trans hc⟩

theorem State.kern_ending_of_outline (h : t.outline = s.outline) (k : ℕ) : (t.kern k).ending = (s.kern k).ending :=
  congrArg (fun p => p.2.2) (congrFun (congrArg Prod.snd h) k)

theorem State.killKernel_ending (s : State) (k cause : ℕ) : ((s.killKernel k cause).kern k).ending = some cause := by
  rw [State.kern_ending_of_outline (s.killKernel_outline k cause), State.setKern_kern_self]
  rfl

theorem State.killKernel_cancelled (h : j = k ∨ (s.kern j).Cancelled) : ((s.killKernel k 1).kern j).Cancelled := by
  rcases eq_or_ne j k with rfl | hne
  · exact .inl (s.killKernel_ending j 1)
  · refine (Works.of_outline (s.killKernel_outline k 1)).cancelled ?_
    rw [State.setKern_kern_ne _ _ hne.symm]
    exact (Works.of_outline (State.withdraw_outline k)).cancelled (h.resolve_left hne)

/-- What a kernel that is to end with a cause retires with. -/
theorem State.retireCause_of_ending {cause x : ℕ} (he : (s.kern k).ending = some cause) (h : s.retireCause k = some x) : x = cause := by
  unfold State.retireCause at h
  simp only [he] at h
  (repeat' split at h) <;> simp_all

theorem State.retire_cancelled (h : j = k ∨ (s.kern j).Cancelled) : ((s.retire k 1).kern j).Cancelled := by
  obtain ⟨u, hu, he⟩ := s.retire_works k 1
  refine (Works.of_outline he).cancelled ?_
  rw [State.setKState_kern]
  rcases eq_or_ne j k with rfl | hne
  · rw [State.setKern_kern_self, State.setKern_kern_self]
    exact .inr ⟨rfl, rfl⟩
  · rw [State.setKern_kern_ne _ _ hne.symm, State.setKern_kern_ne _ _ hne.symm]
    exact hu.cancelled (h.resolve_left hne)

theorem State.flushKernel_cancelled (h : j = k ∨ (s.kern j).Cancelled) : ((s.flushKernel k).kern j).Cancelled := by
  have hkilled := State.killKernel_cancelled h
  unfold State.flushKernel State.tryRetire
  split
  · next x hx =>
    rw [State.retireCause_of_ending (s.killKernel_ending k 1) hx]
    exact State.retire_cancelled (.inr hkilled)
  · exact hkilled

theorem State.killKernel_queues (s : State) (k cause : ℕ) : (s.killKernel k cause).outline.1 = s.outline.1 := by
  rw [State.killKernel_outline]
  change (s.withdraw k).outline.1 = s.outline.1
  rw [State.withdraw_outline]

theorem State.retire_queues (s : State) (k cause : ℕ) : (s.retire k cause).outline.1 = s.outline.1 := by
  obtain ⟨u, hu, he⟩ := s.retire_works k cause
  rw [he, ← hu.queues, State.setKState, State.recount_outline]
  rfl

theorem State.flushKernel_queues (s : State) (k : ℕ) : (s.flushKernel k).outline.1 = s.outline.1 := by
  unfold State.flushKernel State.tryRetire
  split
  · exact (State.retire_queues _ _ _).trans (s.killKernel_queues k 1)
  · exact s.killKernel_queues k 1

/-! ### A flush of several kernels -/

theorem State.foldl_flushKernel_cancelled (l : List ℕ) (s : State) (h : j ∈ l ∨ (s.kern j).Cancelled) :
    ((l.foldl State.flushKernel s).kern j).Cancelled := by
  induction l generalizing s with
  | nil => simpa using h
  | cons k l ih =>
    refine ih _ ?_
    rw [List.mem_cons, or_assoc] at h
    rcases h with h | h | h
    · exact .inr (State.flushKernel_cancelled (.inl h))
    · exact .inl h
    · exact .inr (State.flushKernel_cancelled (.inr h))

theorem State.foldl_flushKernel_queues (l : List ℕ) (s : State) : (l.foldl State.flushKernel s).outline.1 = s.outline.1 := by
  induction l generalizing s with
  | nil => rfl
  | cons k l ih => exact (ih _).trans (s.flushKernel_queues k)

/-- The kernels of a queue that a flush ends. -/
def State.flushed (s : State) (q : ℕ) : List ℕ := (s.kernels.filter (fun p => p.2.queue = q ∧ p.2.unadmitted = true)).map Prod.fst

theorem State.mem_flushed {q : ℕ} : k ∈ s.flushed q ↔ ∃ y, (k, y) ∈ s.kernels ∧ y.queue = q ∧ y.unadmitted = true := by
  simp [State.flushed]

theorem State.flushQueue_eq {q : ℕ} (h : s.fld .queue q Que.state ≠ 0) : s.flushQueue q = (0, (s.flushed q).foldl State.flushKernel s) := by
  rw [State.flushQueue, if_neg h, State.flushed, List.foldl_map, List.foldl_filter]
  simp only [decide_eq_true_eq]
  rfl

end

/-! ## FLUSH of kernels that have nothing left (R90, R111)

A retirement writes memory for the timelines and the stamps that the kernel's crews still owe, and for the objects that the end of its
registrations orphans. A kernel no crew of which has been placed owes nothing and has registered nothing. -/

/-- A crew of a kernel is on a bay. -/
def State.Crewed (s : State) (k : ℕ) : Prop := ∃ p ∈ s.crews, p.2.kernel = k

/-- A kernel owes nothing for crews that are not on a bay, and has nothing registered. -/
def State.Debtless (s : State) (k : ℕ) : Prop := ((s.kern k).keep ≠ [] → s.Crewed k) ∧ ∀ r ∈ s.regns, r.k ≠ k

/-- Memory is kept, and no kernel comes to owe anything but for its crews on bays, which stay there. -/
structure Settles (s t : State) : Prop where
  mem : t.mem = s.mem
  crewed : ∀ k, t.Crewed k ↔ s.Crewed k
  keep : ∀ k, (t.kern k).keep ≠ [] → (s.kern k).keep ≠ [] ∨ s.Crewed k
  regns : ∀ r ∈ t.regns, r ∈ s.regns

section
variable {α : Type} {s t u : State} {j k : ℕ}

theorem Settles.of_eq (hm : t.mem = s.mem) (hc : t.crews = s.crews) (hr : t.regns = s.regns)
    (hk : ∀ k, (t.kern k).keep ≠ [] → (s.kern k).keep ≠ []) : Settles s t :=
  ⟨hm, fun k => by rw [State.Crewed, hc, State.Crewed], fun k h => .inl (hk k h), fun r h => by rwa [hr] at h⟩

theorem Settles.refl (s : State) : Settles s s := .of_eq rfl rfl rfl (fun _ h => h)

theorem Settles.trans (h : Settles s t) (h' : Settles t u) : Settles s u where
  mem := h'.mem.trans h.mem
  crewed k := (h'.crewed k).trans (h.crewed k)
  keep k hk := (h'.keep k hk).elim (h.keep k) (fun hc => .inr ((h.crewed k).mp hc))
  regns r hr := h.regns r (h'.regns r hr)

theorem Settles.foldl {f : State → α → State} (hf : ∀ s a, Settles s (f s a)) (as : List α) : Settles s (as.foldl f s) := by
  induction as generalizing s with
  | nil => exact .refl s
  | cons a as ih => exact (hf s a).trans ih

theorem Settles.ite {p : Prop} [Decidable p] (ht : Settles s t) (hu : Settles s u) : Settles s (if p then t else u) := by
  split <;> assumption

theorem Settles.debtless (h : Settles s t) (hk : s.Debtless k) : t.Debtless k := by
  obtain ⟨hkeep, hregns⟩ := hk
  refine ⟨fun ht => (h.crewed k).mpr ?_, fun r hr => hregns r (h.regns r hr)⟩
  exact (h.keep k ht).elim hkeep id

/-! ### Crews and kernels -/

/-- A set entry stands in the table for the one that it replaces. -/
theorem Tbl.mem_set {t : Tbl α} {k : ℕ} {v : α} {p : ℕ × α} :
    (p ∈ Tbl.set t k v → p = (k, v) ∨ p ∈ t) ∧ (p ∈ t → p ∈ Tbl.set t k v ∨ p.1 = k ∧ Tbl.get? t k = some p.2) := by
  induction t with
  | nil => simp [Tbl.set]
  | cons e t ih =>
    obtain ⟨i, w⟩ := e
    obtain ⟨hset, hmem⟩ := ih
    unfold Tbl.set
    split
    · simp only [List.mem_cons]
      tauto
    · split
      · next h =>
        subst h
        simp only [List.mem_cons, Tbl.get?_cons, if_true]
        refine ⟨by tauto, ?_⟩
        rintro (rfl | h)
        · exact .inr ⟨rfl, rfl⟩
        · exact .inl (.inr h)
      · next h =>
        simp only [List.mem_cons, Tbl.get?_cons, if_neg h]
        tauto

/-- A change of a crew that stays its kernel's. -/
theorem State.setCrew_settles (s : State) (rid : ℕ) {f : Crew → Crew} (hf : ∀ c, s.crews.get? rid = some c → (f c).kernel = c.kernel) :
    Settles s (s.setCrew rid f) := by
  refine ⟨rfl, fun k => ?_, fun k h => .inl h, fun r h => h⟩
  change (∃ p ∈ Tbl.modify s.crews rid f, p.2.kernel = k) ↔ ∃ p ∈ s.crews, p.2.kernel = k
  unfold Tbl.modify
  split
  · next c hc =>
    constructor
    · rintro ⟨p, hp, rfl⟩
      rcases Tbl.mem_set.1 hp with rfl | hp
      · exact ⟨(rid, c), Tbl.mem_of_get? hc, (hf c hc).symm⟩
      · exact ⟨p, hp, rfl⟩
    · rintro ⟨p, hp, rfl⟩
      rcases Tbl.mem_set (k := rid) (v := f c) |>.2 hp with hp | ⟨_, hp⟩
      · exact ⟨p, hp, rfl⟩
      · cases hc.symm.trans hp
        exact ⟨(rid, _), Tbl.mem_of_get? (Tbl.get?_set_self _ _ _), hf _ hc⟩
  · exact Iff.rfl

/-- A change of a kernel that comes to owe nothing, or has a crew on a bay. -/
theorem State.setKern_settles (s : State) (k : ℕ) {f : Kernel → Kernel}
    (hf : (f (s.kern k)).keep ≠ [] → (s.kern k).keep ≠ [] ∨ s.Crewed k) : Settles s (s.setKern k f) := by
  refine ⟨rfl, fun _ => Iff.rfl, fun j hj => ?_, fun _ h => h⟩
  rw [State.kern_setKern] at hj
  split at hj
  · next h => exact h ▸ hf hj
  · exact .inl hj

/-- A change of a kernel's other fields. -/
theorem State.setKern_settles_of_keep (s : State) (k : ℕ) {f : Kernel → Kernel}
    (hf : ∀ y, (f y).keep = y.keep := by exact fun _ => rfl) : Settles s (s.setKern k f) :=
  s.setKern_settles k (fun h => .inl (by rwa [hf] at h))

theorem State.post_settles (s : State) (p : Place) (i : Instr) : Settles s (s.post p i) := .of_eq rfl rfl rfl (fun _ h => h)

theorem State.setFld_settles (s : State) (tab : SysTab) (m : ℕ) (f : Fld) (v : ℕ) : Settles s (s.setFld tab m f v) :=
  .of_eq rfl rfl rfl (fun _ h => h)

/-! ### Kills -/

theorem Crew.foldl_clearFlag_kernel (l : List Pend) (c : Crew) : (l.foldl (fun c q => c.clearFlag q.flag) c).kernel = c.kernel := by
  induction l generalizing c with
  | nil => rfl
  | cons p l ih =>
    have hp : (c.clearFlag p.flag).kernel = c.kernel := by
      unfold Crew.clearFlag
      split <;> rfl
    exact (ih _).trans hp

theorem State.squashFrom_settles (s : State) (rid i : ℕ) : Settles s (s.squashFrom rid i) := by
  unfold State.squashFrom
  split
  · exact .refl s
  · next c hc =>
    split
    · exact .refl s
    · extract_lets gone lost p squashed cleared
      refine (s.setCrew_settles rid (f := fun _ => cleared) ?_).trans
        ⟨rfl, fun _ => Iff.rfl, fun _ h => .inl h, fun r h => List.mem_of_mem_filter h⟩
      intro c' hc'
      cases hc.symm.trans hc'
      exact Crew.foldl_clearFlag_kernel gone squashed

theorem State.onWindow_settles (s : State) {k : ℕ} (idx : ℕ) (f : Window → Window) (h : s.Crewed k) : Settles s (s.onWindow k idx f) := by
  unfold State.onWindow
  split
  · exact .ite (.refl s) (s.setKern_settles k (fun _ => .inr h))
  · exact .refl s

theorem State.redsChanged_settles (s : State) : Settles s s.redsChanged := by
  refine Settles.trans (t := s.sweepStash) (.of_eq rfl rfl rfl (fun _ h => h)) (.foldl (fun t p => ?_) _)
  split
  · exact t.setCrew_settles _ (fun _ _ => rfl)
  · exact .ite (t.setCrew_settles _ (fun _ _ => rfl)) (.refl t)
  · exact .refl t

theorem State.killCrew_settles (s : State) (rid : ℕ) : Settles s (s.killCrew rid) := by
  unfold State.killCrew
  split
  · exact .refl s
  · next c hc =>
    have hcrew : s.Crewed c.kernel := ⟨(rid, c), Tbl.mem_of_get? hc, rfl⟩
    extract_lets whole squashed waited kept quiet dropped
    have hsquashed : Settles s squashed := by
      unfold squashed
      split
      · exact s.squashFrom_settles _ _
      · exact .refl s
    have hwaited : Settles squashed waited := by
      unfold waited
      split
      · exact squashed.onWindow_settles _ _ ((hsquashed.crewed _).mpr hcrew)
      · exact .refl _
    have hkept : Settles waited kept := by
      unfold kept
      split
      · exact .ite (.refl _) (waited.setKern_settles _ (fun _ => .inr (((hsquashed.trans hwaited).crewed _).mpr hcrew)))
      · exact .refl _
    have habandon : Settles kept (kept.fqAbandon (.crew rid)) := .of_eq rfl rfl rfl (fun _ h => h)
    have hquiet : Settles kept quiet := by
      refine habandon.trans (.trans ?_ (State.redsChanged_settles _))
      exact State.setCrew_settles _ rid (fun _ _ => rfl)
    have hdropped : Settles s dropped := ((hsquashed.trans hwaited).trans hkept).trans (hquiet.trans (.of_eq rfl rfl rfl (fun _ h => h)))
    split
    · exact hdropped.trans (.ite (dropped.post_settles _ _) (.refl dropped))
    · exact hdropped

theorem State.abortCmds_settles (s : State) (sel : Cmd → Bool) : Settles s (s.abortCmds sel) := by
  unfold State.abortCmds
  refine .foldl (fun t m => ?_) _
  exact .of_eq rfl rfl rfl (fun _ h => h)

theorem State.releaseUnits_settles (s : State) (k : ℕ) : Settles s (s.releaseUnits k) := by
  unfold State.releaseUnits
  exact ((s.setFld_settles _ _ _ _).trans (State.setFld_settles _ _ _ _ _)).trans (State.setKern_settles_of_keep _ k)

theorem State.withdraw_settles (s : State) (k : ℕ) : Settles s (s.withdraw k) := by
  unfold State.withdraw
  exact .ite ((s.releaseUnits_settles k).trans (State.setKern_settles_of_keep _ k)) (.refl s)

theorem State.killKernel_settles (s : State) (k cause : ℕ) : Settles s (s.killKernel k cause) := by
  have hkilled : Settles (s.withdraw k) ((s.withdraw k).setKern k (Kernel.killed cause)) :=
    State.setKern_settles _ k (fun h => .inl (fun he => h (by rw [Kernel.killed, he]; rfl)))
  unfold State.killKernel
  exact ((s.withdraw_settles k).trans hkilled).trans
    ((Settles.foldl State.killCrew_settles _).trans ((State.abortCmds_settles _ _).trans (State.post_settles _ _ _)))

/-! ### Retirements -/

theorem State.leaveBay_settles (s : State) (b k : ℕ) : Settles s (s.leaveBay b k) := .of_eq rfl rfl rfl (fun _ h => h)

theorem State.dropRaises_settles (s : State) (k : ℕ) : Settles s (s.dropRaises k) := by
  unfold State.dropRaises
  refine Settles.trans ?_ (.foldl (fun t a => ?_) _)
  · exact .of_eq rfl rfl rfl (fun _ h => h)
  · exact .ite (t.setFld_settles _ _ _ _) (.refl t)

theorem State.leaveBays_settles (s : State) (k : ℕ) : Settles s (s.leaveBays k) := by
  unfold State.leaveBays
  extract_lets dropped left
  have hleft : Settles dropped left := .foldl (fun t (p : ℕ × Bay) => t.leaveBay_settles p.1 k) _
  have hlast : Settles left { left with bays := left.bays.map (fun p => (p.1, { p.2 with kerns := p.2.kerns.erase k })) } :=
    .of_eq rfl rfl rfl (fun _ h => h)
  exact ((s.dropRaises_settles k).trans hleft).trans hlast

theorem State.complete_settles (s : State) (ctx echo kind status handle value value2 : ℕ) :
    Settles s (s.complete ctx echo kind status handle value value2) := by
  unfold State.complete State.sendOrWait
  split <;> exact .of_eq rfl rfl rfl (fun _ h => h)

theorem State.setKState_settles (s : State) (k : ℕ) (x : KState) : Settles s (s.setKState k x) := by
  unfold State.setKState
  exact (s.setKern_settles_of_keep k).trans (State.setFld_settles _ _ _ _ _)

theorem State.sendStops_settles (s : State) : Settles s s.sendStops := by
  unfold State.sendStops
  exact .foldl (fun t k => .ite (.refl t) ((t.setKern_settles_of_keep k).trans (State.post_settles _ _ _))) _

theorem State.workDone_not_crewed (h : s.workDone k = true) : ¬s.Crewed k := by
  rintro ⟨p, hp, hk⟩
  simp only [State.workDone, Bool.and_eq_true, List.isEmpty_iff] at h
  have hrids : s.ridsOf k = [] := h.1.1.1
  simp only [State.ridsOf, List.map_eq_nil_iff, List.filter_eq_nil_iff, decide_eq_true_eq] at hrids
  exact hrids p hp hk

/-- A kernel that owes nothing retires without a write to memory. -/
theorem State.retire_settles (hd : s.Debtless k) (hw : s.workDone k = true) (cause : ℕ) : Settles s (s.retire k cause) := by
  obtain ⟨hkeep, hregns⟩ := hd
  have hnil : (s.kern k).keep = [] := by
    by_contra hne
    exact State.workDone_not_crewed hw (hkeep hne)
  have hsettled : s.settleKeeps k = s := by rw [State.settleKeeps, hnil]; rfl
  unfold State.retire
  extract_lets y q left told regns posted done dl late sent retired h woken
  have hleft : Settles s left := by
    unfold left
    rw [hsettled]
    exact (s.withdraw_settles k).trans ((State.releaseUnits_settles _ k).trans (State.leaveBays_settles _ k))
  have htold : Settles left told := .of_eq rfl rfl rfl (fun _ h => h)
  have hended : regns = told := by
    have hnone : told.regns.filter (fun r => decide (r.k = k)) = [] := by
      rw [List.filter_eq_nil_iff]
      intro r hr
      simpa using hregns r ((hleft.trans htold).regns r hr)
    unfold regns
    rw [hnone]
    rfl
  have hdone : Settles regns done := (State.setFld_settles _ _ _ _ _).trans (State.setFld_settles _ _ _ _ _)
  have hlate : Settles done late := .ite (State.setFld_settles _ _ _ _ _) (.refl _)
  have hsent : Settles late sent := .ite (State.complete_settles ..) (.refl _)
  have hretired : Settles sent retired := (State.setKern_settles_of_keep _ k).trans (State.setKState_settles _ _ _)
  have hwoken : Settles retired woken := .foldl (fun t p => .ite (t.post_settles _ _) (.refl t)) _
  rw [hended] at hdone
  exact (((((hleft.trans htold).trans hdone).trans hlate).trans hsent).trans hretired).trans
    (hwoken.trans ((State.sendStops_settles _).trans (State.post_settles _ _ _)))

theorem State.flushKernel_settles (hd : s.Debtless k) : Settles s (s.flushKernel k) := by
  have hkilled := s.killKernel_settles k 1
  unfold State.flushKernel State.tryRetire
  split
  · next x hx =>
    refine hkilled.trans (State.retire_settles (hkilled.debtless hd) ?_ x)
    unfold State.retireCause at hx
    by_contra hw
    simp [hw] at hx
  · exact hkilled

theorem State.foldl_flushKernel_settles (l : List ℕ) (s : State) (h : ∀ k ∈ l, s.Debtless k) : Settles s (l.foldl State.flushKernel s) := by
  induction l generalizing s with
  | nil => exact .refl s
  | cons k l ih =>
    have hk := State.flushKernel_settles (h k (List.mem_cons_self ..))
    exact hk.trans (ih _ (fun j hj => hk.debtless (h j (List.mem_cons_of_mem _ hj))))

end

end Sys2Proof.Machine
end

section
namespace Sys2Proof.Machine

/-! ## Operations on queues and kernels that no crew has part in (R90) -/

section
variable {α : Type}

theorem Uncrewed.foldl {f : State → α → State} (hf : ∀ a, Uncrewed (f · a)) (as : List α) : Uncrewed (as.foldl f ·) := by
  intro s cs n
  induction as generalizing s with
  | nil => rfl
  | cons a as ih =>
    have ha : f (s.withCrews cs n) a = (f s a).withCrews cs n := hf a s cs n
    exact (congrArg (as.foldl f) ha).trans (ih _)

theorem State.returnUnits_withCrews (s : State) (cs : Tbl Crew) (n d m : ℕ) :
    (s.withCrews cs n).returnUnits d m = (s.returnUnits d m).withCrews cs n := rfl

theorem State.setKern_withCrews (s : State) (cs : Tbl Crew) (n k : ℕ) (f : Kernel → Kernel) :
    (s.withCrews cs n).setKern k f = (s.setKern k f).withCrews cs n := rfl

theorem State.kern_withCrews (s : State) (cs : Tbl Crew) (n k : ℕ) : (s.withCrews cs n).kern k = s.kern k := rfl

theorem State.withdraw_uncrewed (k : ℕ) : Uncrewed (State.withdraw · k) := by
  intro s cs n
  change (s.withCrews cs n).withdraw k = (s.withdraw k).withCrews cs n
  unfold State.withdraw State.releaseUnits
  simp -implicitDefEqProofs only [State.kern_withCrews, State.returnUnits_withCrews, State.setKern_withCrews]
  exact (apply_ite (State.withCrews · cs n) _ _ _).symm

theorem State.withdrawAll_uncrewed (q : ℕ) : Uncrewed (State.withdrawAll · q) := by
  intro s cs n
  refine Uncrewed.foldl (fun (p : ℕ × Kernel) t cs n => ?_) s.kernels s cs n
  dsimp only
  split
  · exact State.withdraw_uncrewed p.1 t cs n
  · rfl

theorem State.hold_uncrewed (q : ℕ) :
    Uncrewed (fun s => ((s.withdrawAll q).setFld .queue q Que.state 2).refreshCandidates) := by
  intro s cs n
  have h := State.withdrawAll_uncrewed q s cs n
  dsimp only at h ⊢
  rw [h]
  rfl

end

/-! ## A kernel that becomes ready -/

theorem State.judgeFit_outline (s : State) (k : ℕ) : (s.judgeFit k).outline = s.outline := by
  unfold State.judgeFit
  extract_lets y unfit
  have hunfit : unfit.outline = s.outline := State.setKern_outline k
  split
  · rfl
  · split
    · exact State.setKern_outline k
    · split
      · exact hunfit
      · exact (State.setKern_outline k).trans ((State.faultLog_outline _ _).trans hunfit)

theorem State.kern_state_of_outline {s t : State} (h : t.outline = s.outline) (k : ℕ) : (t.kern k).state = (s.kern k).state :=
  congrArg Prod.fst (congrFun (congrArg Prod.snd h) k)

theorem State.setKState_state (s : State) (k : ℕ) (x : KState) : ((s.setKState k x).kern k).state = x := by
  rw [State.setKState_kern, State.setKern_kern_self]

theorem State.readyKernel_state (s : State) (k : ℕ) : ((s.readyKernel k).kern k).state = .ready := by
  unfold State.readyKernel
  rw [State.kern_state_of_outline (State.kick_outline.trans (State.judgeFit_outline _ k)), State.setKState_state]

/-! ## The stop of a kernel (R131) -/

section
variable {s : State} {y : ℕ}

theorem State.stopStatus_early (he : (s.kern y).ending = none)
    (h : (s.kern y).state = .posted ∨ (s.kern y).state = .blocked ∨ (s.kern y).state = .ready) : s.stopStatus y = 0 := by
  unfold State.stopStatus
  dsimp only
  rw [he]
  rcases h with h | h | h <;> rw [h] <;> rfl

theorem State.stopStatus_late (he : (s.kern y).ending = none) (h : (s.kern y).state = .admitted ∨ (s.kern y).state = .placing ∨
    (s.kern y).state = .running ∨ (s.kern y).state = .trapped) :
    s.stopStatus y = if s.lch y Lch.nsave = 0 then 0x0C else 0 := by
  unfold State.stopStatus
  dsimp only
  rw [he]
  rcases h with h | h | h | h <;> rw [h] <;> rfl

theorem State.stopStatus_refused (h : (s.kern y).ending ≠ none ∨
    ¬((s.kern y).state = .posted ∨ (s.kern y).state = .blocked ∨ (s.kern y).state = .ready) ∧
    ¬((s.kern y).state = .admitted ∨ (s.kern y).state = .placing ∨ (s.kern y).state = .running ∨ (s.kern y).state = .trapped)) :
    s.stopStatus y = 0x0B := by
  unfold State.stopStatus
  dsimp only
  split
  · rfl
  · next he =>
    obtain ⟨hearly, hlate⟩ := h.resolve_left (by simpa using he)
    split <;> simp_all

theorem State.killNow_ending (he : (s.kern y).ending = none) : ((s.killNow y).kern y).ending = some 2 := by
  rw [State.killNow, he, if_neg (by decide)]
  exact s.killKernel_ending y 2

theorem State.killNow_of_ending (he : (s.kern y).ending ≠ none) : s.killNow y = s :=
  if_pos (Option.isSome_iff_ne_none.mpr he)

theorem State.resumeStatus_of_stopped (he : (s.kern y).ending = none) (h : (s.kern y).state = .stopped ∨ (s.kern y).state = .trapped) :
    s.resumeStatus y = 0 := by
  unfold State.resumeStatus
  dsimp only
  rw [he]
  rcases h with h | h <;> rw [h] <;> rfl

theorem State.resumeStatus_refused (h : (s.kern y).ending ≠ none ∨ (s.kern y).state ≠ .stopped ∧ (s.kern y).state ≠ .trapped) :
    s.resumeStatus y = 0x0B := by
  unfold State.resumeStatus
  dsimp only
  split
  · rfl
  · next he =>
    obtain ⟨hstopped, htrapped⟩ := h.resolve_left (by simpa using he)
    split
    · next hc => exact absurd hc hstopped
    · next hc => exact absurd hc htrapped
    · rfl

theorem State.resumeNow_stopped (h : (s.kern y).state = .stopped) :
    ((s.resumeNow y).kern y).state = if (s.kern y).deps = [] then .ready else .blocked := by
  unfold State.resumeNow
  rw [h]
  dsimp only
  rw [apply_ite (fun t : State => (t.kern y).state), s.readyKernel_state y]
  simp only [List.isEmpty_iff]
  exact if_congr Iff.rfl rfl ((State.kern_state_of_outline (State.post_outline _ _) y).trans (s.setKState_state y .blocked))

theorem State.resumeNow_trapped (h : (s.kern y).state = .trapped) : ((s.resumeNow y).kern y).state = .running := by
  unfold State.resumeNow
  rw [h]
  exact s.setKState_state y .running

end

/-- A kernel in a state before its admission is stopped at once. -/
theorem State.stopNow_early (s : State) (y : ℕ)
    (h : (s.kern y).state = .posted ∨ (s.kern y).state = .blocked ∨ (s.kern y).state = .ready) :
    ((s.stopNow y).kern y).state = .stopped ∧ (s.stopNow y).mem = s.mem := by
  have hnow : s.stopNow y = (((s.withdraw y).setKern y (fun z => { z with candidate := none, aged := false })).setKState y .stopped).kick := by
    unfold State.stopNow
    rcases h with h | h | h <;> rw [h]
  rw [hnow]
  refine ⟨(State.kern_state_of_outline State.kick_outline y).trans (State.setKState_state _ y .stopped), ?_⟩
  exact (((s.withdraw_settles y).trans (State.setKern_settles_of_keep _ y)).trans
    ((State.setKState_settles _ _ _).trans (State.post_settles _ _ _))).mem

/-- The stop of an admitted one begins. -/
theorem State.stopNow_late (s : State) (y : ℕ) (h : (s.kern y).state = .admitted ∨ (s.kern y).state = .placing ∨
    (s.kern y).state = .running ∨ (s.kern y).state = .trapped) :
    ((s.stopNow y).kern y).state = .stopping ∧ (s.stopNow y).mem = s.mem := by
  have hnow : s.stopNow y = s.startStop y .kstop := by
    unfold State.stopNow
    rcases h with h | h | h | h <;> rw [h]
  rw [hnow]
  exact ⟨(s.stopKernels_stop _ .kstop (s.mem_stopSet _ (List.mem_singleton.mpr rfl))).1, State.startStop_mem y .kstop⟩

end Sys2Proof.Machine
end

section
namespace Sys2Proof.Laws

open Machine Claims

section
variable {s : State} {rid : ℕ} {c : Crew} {k : Ctl} {d a : Reg} {i : Instr} {e : Enc} {body : BBody}

theorem runs_of_ok {t : State} {P : State → Prop} (he : enc i = some (k, e)) (h : Bounding s rid c i) (hx : exec i s = bounding i body s)
    (hb : body (begun s rid c) rid c = .ok t) (hP : P t) : Runs i s P :=
  ⟨t, hx.trans (bounding_of_ok he h hb), hP⟩

/-! ## QCTL (R100) -/

section
variable {q free : ℕ} {op : State → Crew → ℕ → Except Stop (ℕ × State)}

/-- The checks of R100 that refuse a QCTL. -/
theorem qctl_refused (he : enc i = some (k, e)) (h : Bounding s rid c i) (hx : exec i s = bounding i body s)
    (hb : body (begun s rid c) rid c = qctl k d a free op (begun s rid c) rid c) (hu : Uniform c 1 a q) :
    (2 ^ 12 ≤ q → Finishes i s s rid (goOn s rid c) (inActive c d 4)) ∧
    (q < 2 ^ 12 → s.fld .queue q Que.state = 0 → Finishes i s s rid (goOn s rid c) (inActive c d free)) ∧
    (q < 2 ^ 12 → s.fld .queue q Que.state ≠ 0 → ¬(s.qcfg q Que.ctx = c.ctx s ∨ c.ctx s = 0) →
      Finishes i s s rid (goOn s rid c) (inActive c d 7)) := by
  unfold qctl at hb
  dsimp only at hb
  rw [if_neg hu.1, uni_of_uniform hu, if_neg (by decide), uval_of_uniform hu] at hb
  have hstate : (begun s rid c).fld .queue q Que.state = s.fld .queue q Que.state := rfl
  rw [hstate] at hb
  refine ⟨fun hn => ?_, fun hn hs => ?_, fun hn hs ho => ?_⟩ <;> refine finishes_of_result he h hx (hb.trans ?_)
  · rw [if_pos hn]
  · rw [if_neg (by omega), if_pos hs]
  · rw [if_neg (by omega), if_neg hs]
    exact if_pos (not_or.mp ho)

/-- A QCTL that passes them does its operation once its crew has the result. -/
theorem qctl_own {st y : ℕ} {x t : State} (hu : Uniform c 1 a q) (hq : q < 2 ^ 12) (hs : s.fld .queue q Que.state ≠ 0)
    (ho : s.qcfg q Que.ctx = c.ctx s ∨ c.ctx s = 0) (h1 : op (begun s rid c) c q = .ok (st, x))
    (h2 : op ((begun s rid c).result rid k c d st) c q = .ok (y, t)) : qctl k d a free op (begun s rid c) rid c = .ok t := by
  have hstate : (begun s rid c).fld .queue q Que.state = s.fld .queue q Que.state := rfl
  unfold qctl
  dsimp only
  rw [if_neg hu.1, uni_of_uniform hu, if_neg (by decide), uval_of_uniform hu, if_neg (by omega), hstate, if_neg hs,
    if_neg (fun hn => ho.elim hn.1 hn.2), h1]
  dsimp only
  rw [h2]

end

/-- The class that every active lane gives. -/
theorem qctlClass_body {b : Reg} {v : ℕ} (hv : Uniform c 1 b v) :
    (if c.em ≠ 0#32 && !c.uni 1 b then Except.error c.diverges
      else qctl k d a 2 (fun s _ q => .ok (s.setClass q (c.uval 1 b))) (begun s rid c) rid c) =
    qctl k d a 2 (fun s _ q => .ok (s.setClass q v)) (begun s rid c) rid c := by
  rw [uni_of_uniform hv, uval_of_uniform hv, Bool.not_true, Bool.and_false, if_neg (by decide)]

section
variable {q : ℕ} (hu : Uniform c 1 a q) (hq : q < 2 ^ 12) (hs : s.fld .queue q Que.state ≠ 0)
  (ho : s.qcfg q Que.ctx = c.ctx s ∨ c.ctx s = 0)
include hu hq hs ho

theorem qctlHold_own (h : Bounding s rid c (.qctlHold k d a)) :
    (s.fld .queue q Que.state = 1 → Finishes (.qctlHold k d a) s ((s.withdrawAll q).setFld .queue q Que.state 2).refreshCandidates rid
      (goOn s rid c) (inActive c d 0)) ∧
    (s.fld .queue q Que.state ≠ 1 → Finishes (.qctlHold k d a) s s rid (goOn s rid c) (inActive c d 2)) :=
  ⟨fun h1 => finishes_of_uncrewed (State.hold_uncrewed q) rfl h rfl
      (qctl_own hu hq hs ho (congrArg Except.ok (if_pos h1)) (congrArg Except.ok (if_pos h1))),
    fun h1 => finishes_of_result rfl h rfl (qctl_own hu hq hs ho (congrArg Except.ok (if_neg h1)) (congrArg Except.ok (if_neg h1)))⟩

theorem qctlRelease_own (h : Bounding s rid c (.qctlRelease k d a)) :
    (s.fld .queue q Que.state = 2 → Finishes (.qctlRelease k d a) s (s.setFld .queue q Que.state 1).kick rid (goOn s rid c) (inActive c d 0)) ∧
    (s.fld .queue q Que.state ≠ 2 → Finishes (.qctlRelease k d a) s s rid (goOn s rid c) (inActive c d 2)) :=
  ⟨fun h2 => finishes_of_uncrewed (f := fun s => (s.setFld .queue q Que.state 1).kick) (fun _ _ _ => rfl) rfl h rfl
      (qctl_own hu hq hs ho (congrArg Except.ok (if_pos h2)) (congrArg Except.ok (if_pos h2))),
    fun h2 => finishes_of_result rfl h rfl (qctl_own hu hq hs ho (congrArg Except.ok (if_neg h2)) (congrArg Except.ok (if_neg h2)))⟩

theorem qctlFlush_own (h : Bounding s rid c (.qctlFlush k d a)) : Runs (.qctlFlush k d a) s (fun t =>
    (∀ y z, s.kernels.get? y = some z → z.queue = q → z.unadmitted = true → (t.kern y).Cancelled) ∧
    ((∀ p ∈ s.kernels, p.2.queue = q → p.2.unadmitted = true → (s.kern p.1).keep = [] ∧ ∀ r ∈ s.regns, r.k ≠ p.1) → t.mem = s.mem)) := by
  obtain ⟨w, hw⟩ : ∃ w, w = (begun s rid c).result rid k c d 0 := ⟨_, rfl⟩
  have hflush : ((begun s rid c).result rid k c d 0).flushQueue q = (0, (s.flushed q).foldl State.flushKernel w) := by
    rw [hw]
    exact State.flushQueue_eq hs
  refine runs_of_ok rfl h rfl (qctl_own hu hq hs ho (congrArg Except.ok (State.flushQueue_eq hs)) (congrArg Except.ok hflush))
    ⟨fun y z hz hzq hzu => ?_, fun hidle => ?_⟩
  · exact State.foldl_flushKernel_cancelled _ w (.inl (State.mem_flushed.mpr ⟨z, Tbl.mem_of_get? hz, hzq, hzu⟩))
  · have hdebtless (y : ℕ) (hy : y ∈ s.flushed q) : w.Debtless y := by
      obtain ⟨z, hz, hzq, hzu⟩ := State.mem_flushed.mp hy
      obtain ⟨hkeep, hregns⟩ := hidle (y, z) hz hzq hzu
      rw [hw]
      exact ⟨fun hne => absurd hkeep hne, hregns⟩
    rw [(State.foldl_flushKernel_settles _ w hdebtless).mem, hw]
    rfl

theorem qctlClass_own {b : Reg} {v : ℕ} (hv : Uniform c 1 b v) (h : Bounding s rid c (.qctlClass k d a b)) :
    (8 ≤ v → Finishes (.qctlClass k d a b) s s rid (goOn s rid c) (inActive c d 3)) ∧
    (v < 8 → ∃ cfg, Que.cls.get cfg = v ∧ Finishes (.qctlClass k d a b) s
      { s.setFld .queue q Que.cls v with queueCfg := s.queueCfg.set q cfg } rid (goOn s rid c) (inActive c d 0)) := by
  refine ⟨fun h8 => ?_, fun h8 => ⟨Que.cls.set (s.queueCfg.getD q 0) v, ?_, ?_⟩⟩
  · exact finishes_of_result rfl h rfl
      ((qctlClass_body hv).trans (qctl_own hu hq hs ho (congrArg Except.ok (if_pos h8)) (congrArg Except.ok (if_pos h8))))
  · rw [Fld.get_set_self]
    exact Nat.mod_eq_of_lt h8
  · have h8' : ¬8 ≤ v := by omega
    exact finishes_of_uncrewed
      (f := fun s => { s.setFld .queue q Que.cls v with queueCfg := s.queueCfg.set q (Que.cls.set (s.queueCfg.getD q 0) v) })
      (fun _ _ _ => rfl) rfl h rfl
      ((qctlClass_body hv).trans (qctl_own hu hq hs ho (congrArg Except.ok (if_neg h8')) (congrArg Except.ok (if_neg h8'))))

theorem qctlQuery_own (h : Bounding s rid c (.qctlQuery k d a)) : Finishes (.qctlQuery k d a) s s rid (goOn s rid c)
    (inActive c d (s.fld .queue q Que.state + 2 ^ 4 * s.qcfg q Que.cls + 2 ^ 8 * s.qcfg q Que.policy +
      2 ^ 16 * s.fld .queue q Que.nposted)) :=
  finishes_of_result rfl h rfl (qctl_own hu hq hs ho rfl rfl)

end

/-! ## KSTOP and KQ (R131, R132) -/

section
variable {x : ℕ} {status : State → ℕ → ℕ} {effect : State → ℕ → State}

theorem named_stale (h : s.handle (x % 2 ^ 14) ≠ x) : s.named c x = .error 0x0A := if_pos h

theorem named_foreign (h : s.handle (x % 2 ^ 14) = x) (ho : ¬((s.kern (x % 2 ^ 14)).ctx = c.ctx s ∨ c.ctx s = 0)) :
    s.named c x = .error 7 := by
  rw [State.named, if_neg (not_not.mpr h), if_pos (not_or.mp ho)]

theorem named_own (h : s.handle (x % 2 ^ 14) = x) (ho : (s.kern (x % 2 ^ 14)).ctx = c.ctx s ∨ c.ctx s = 0) :
    s.named c x = .ok (x % 2 ^ 14) := by
  rw [State.named, if_neg (not_not.mpr h), if_neg (fun hn => ho.elim hn.1 hn.2)]

theorem kstop_of_error {st : ℕ} (hu : Uniform c 1 a x) (hn : s.named c x = .error st) :
    kstop k d a status effect (begun s rid c) rid c = .ok ((begun s rid c).result rid k c d st) := by
  have hn' : (begun s rid c).named c x = .error st := hn
  unfold kstop
  dsimp only
  rw [if_neg hu.1, uni_of_uniform hu, if_neg (by decide), uval_of_uniform hu, hn']

theorem kstop_of_ok {y : ℕ} (hu : Uniform c 1 a x) (hn : s.named c x = .ok y) :
    kstop k d a status effect (begun s rid c) rid c = .ok (if status (begun s rid c) y = 0
      then effect ((begun s rid c).result rid k c d (status (begun s rid c) y)) y
      else (begun s rid c).result rid k c d (status (begun s rid c) y)) := by
  have hn' : (begun s rid c).named c x = .ok y := hn
  unfold kstop
  dsimp only
  rw [if_neg hu.1, uni_of_uniform hu, if_neg (by decide), uval_of_uniform hu, hn']

theorem kstop_refused (he : enc i = some (k, e)) (h : Bounding s rid c i) (hx : exec i s = bounding i (kstop k d a status effect) s)
    (hu : Uniform c 1 a x) : (s.handle (x % 2 ^ 14) ≠ x → Finishes i s s rid (goOn s rid c) (inActive c d 0x0A)) ∧
    (s.handle (x % 2 ^ 14) = x → ¬((s.kern (x % 2 ^ 14)).ctx = c.ctx s ∨ c.ctx s = 0) →
      Finishes i s s rid (goOn s rid c) (inActive c d 7)) :=
  ⟨fun hs => finishes_of_result he h hx (kstop_of_error hu (named_stale hs)),
    fun hs ho => finishes_of_result he h hx (kstop_of_error hu (named_foreign hs ho))⟩

section
variable (he : enc i = some (k, e)) (h : Bounding s rid c i) (hx : exec i s = bounding i (kstop k d a status effect) s)
  (hu : Uniform c 1 a x) (hs : s.handle (x % 2 ^ 14) = x) (ho : (s.kern (x % 2 ^ 14)).ctx = c.ctx s ∨ c.ctx s = 0)
include he h hx hu hs ho

/-- A KSTOP that the kernel's state refuses. -/
theorem kstop_finishes {st : ℕ} (hst : status (begun s rid c) (x % 2 ^ 14) = st) (h0 : st ≠ 0) :
    Finishes i s s rid (goOn s rid c) (inActive c d st) := by
  refine finishes_of_result he h hx ((kstop_of_ok hu (named_own hs ho)).trans ?_)
  rw [hst, if_neg h0]

/-- A KSTOP that takes effect, once its crew has the result. -/
theorem kstop_runs {P : State → Prop} (hst : status (begun s rid c) (x % 2 ^ 14) = 0)
    (hP : P (effect ((begun s rid c).result rid k c d 0) (x % 2 ^ 14))) : Runs i s P := by
  refine runs_of_ok he h hx ((kstop_of_ok hu (named_own hs ho)).trans ?_) hP
  rw [hst, if_pos rfl]

/-- One that leaves everything as it is. -/
theorem kstop_finishes_of_idle (hst : status (begun s rid c) (x % 2 ^ 14) = 0)
    (hid : effect ((begun s rid c).result rid k c d 0) (x % 2 ^ 14) = (begun s rid c).result rid k c d 0) :
    Finishes i s s rid (goOn s rid c) (inActive c d 0) := by
  refine finishes_of_result he h hx ((kstop_of_ok hu (named_own hs ho)).trans ?_)
  rw [hst, if_pos rfl, hid]

end

section
variable (hu : Uniform c 1 a x) (hs : s.handle (x % 2 ^ 14) = x) (ho : (s.kern (x % 2 ^ 14)).ctx = c.ctx s ∨ c.ctx s = 0)
include hu hs ho

theorem kstopStop_own (h : Bounding s rid c (.kstopStop k d a)) :
    let y := x % 2 ^ 14
    let z := s.kern y
    let early := z.state = .posted ∨ z.state = .blocked ∨ z.state = .ready
    let late := z.state = .admitted ∨ z.state = .placing ∨ z.state = .running ∨ z.state = .trapped
    (z.ending = none → early → Runs (.kstopStop k d a) s (fun t => (t.kern y).state = .stopped ∧ t.mem = s.mem)) ∧
    (z.ending = none → late → s.lch y Lch.nsave = 0 → Finishes (.kstopStop k d a) s s rid (goOn s rid c) (inActive c d 0x0C)) ∧
    (z.ending = none → late → s.lch y Lch.nsave ≠ 0 →
      Runs (.kstopStop k d a) s (fun t => (t.kern y).state = .stopping ∧ t.mem = s.mem)) ∧
    (z.ending ≠ none ∨ (¬early ∧ ¬late) → Finishes (.kstopStop k d a) s s rid (goOn s rid c) (inActive c d 0x0B)) := by
  intro y z early late
  refine ⟨fun he hz => ?_, fun he hz hn => ?_, fun he hz hn => ?_, fun hz => ?_⟩
  · exact kstop_runs rfl h rfl hu hs ho (State.stopStatus_early he hz) (State.stopNow_early ((begun s rid c).result rid k c d 0) y hz)
  · exact kstop_finishes rfl h rfl hu hs ho ((State.stopStatus_late he hz).trans (if_pos hn)) (by decide)
  · exact kstop_runs rfl h rfl hu hs ho ((State.stopStatus_late he hz).trans (if_neg hn))
      (State.stopNow_late ((begun s rid c).result rid k c d 0) y hz)
  · exact kstop_finishes rfl h rfl hu hs ho (State.stopStatus_refused hz) (by decide)

theorem kstopKill_own (h : Bounding s rid c (.kstopKill k d a)) :
    let y := x % 2 ^ 14
    let z := s.kern y
    (z.state = .retired → Finishes (.kstopKill k d a) s s rid (goOn s rid c) (inActive c d 0x0B)) ∧
    (z.state ≠ .retired → z.ending = none → Runs (.kstopKill k d a) s (fun t => (t.kern y).ending = some 2)) ∧
    (z.state ≠ .retired → z.ending ≠ none → Finishes (.kstopKill k d a) s s rid (goOn s rid c) (inActive c d 0)) := by
  intro y z
  refine ⟨fun hr => ?_, fun hr he => ?_, fun hr he => ?_⟩
  · exact kstop_finishes rfl h rfl hu hs ho (if_pos hr) (by decide)
  · exact kstop_runs rfl h rfl hu hs ho (if_neg hr) (State.killNow_ending (s := (begun s rid c).result rid k c d 0) he)
  · exact kstop_finishes_of_idle rfl h rfl hu hs ho (if_neg hr) (State.killNow_of_ending (s := (begun s rid c).result rid k c d 0) he)

theorem kstopResume_own (h : Bounding s rid c (.kstopResume k d a)) :
    let y := x % 2 ^ 14
    let z := s.kern y
    (z.ending = none → z.state = .stopped → Runs (.kstopResume k d a) s (fun t => (t.kern y).state = if z.deps = [] then .ready else .blocked)) ∧
    (z.ending = none → z.state = .trapped → Runs (.kstopResume k d a) s (fun t => (t.kern y).state = .running)) ∧
    (z.ending ≠ none ∨ (z.state ≠ .stopped ∧ z.state ≠ .trapped) →
      Finishes (.kstopResume k d a) s s rid (goOn s rid c) (inActive c d 0x0B)) := by
  intro y z
  refine ⟨fun he hst => ?_, fun he hst => ?_, fun hst => ?_⟩
  · exact kstop_runs rfl h rfl hu hs ho (State.resumeStatus_of_stopped he (.inl hst))
      (State.resumeNow_stopped (s := (begun s rid c).result rid k c d 0) hst)
  · exact kstop_runs rfl h rfl hu hs ho (State.resumeStatus_of_stopped he (.inr hst))
      (State.resumeNow_trapped (s := (begun s rid c).result rid k c d 0) hst)
  · exact kstop_finishes rfl h rfl hu hs ho (State.resumeStatus_refused hst) (by decide)

end

/-- The words of KQ. -/
theorem kqWords_eq : s.kqWords c x =
    if s.handle (x % 2 ^ 14) ≠ x then 0x0A * 2 ^ 8
    else if ¬((s.kern (x % 2 ^ 14)).ctx = c.ctx s) ∧ c.ctx s ≠ 0 then 7 * 2 ^ 8
    else (s.kern (x % 2 ^ 14)).state.code + (s.kern (x % 2 ^ 14)).cause * 2 ^ 4 + (s.kern (x % 2 ^ 14)).exited * 2 ^ 32 := by
  unfold State.kqWords State.named
  dsimp only
  split_ifs <;> rfl

theorem kq_finishes (hu : Uniform c 1 a x) (h : Bounding s rid c (.kq k d a)) :
    Finishes (.kq k d a) s s rid (goOn s rid c) (cellsIn c.active 2 d (fun _ => s.kqWords c x)) := by
  refine finishes_of_finish (u := begun s rid c) (j := k) rfl h rfl ?_ h.quiet rfl rfl rfl rfl
  dsimp only
  rw [if_neg hu.1, uni_of_uniform hu, if_neg (by decide), uval_of_uniform hu]
  rfl

end

end

/-- Settles O40, a lemma for each operation. -/
theorem queueAndKernelControl : Obligations.QueueAndKernelControl := by
  unfold Obligations.QueueAndKernelControl
  refine ⟨fun s rid c k d a b q v hu hv => ?_, fun s rid c k d a x hu => ?_⟩
  · refine ⟨?_, fun hq hs ho => ⟨qctlHold_own hu hq hs ho, qctlRelease_own hu hq hs ho, qctlFlush_own hu hq hs ho,
      qctlClass_own hu hq hs ho hv, qctlQuery_own hu hq hs ho⟩⟩
    rintro i (rfl | rfl | rfl | rfl | rfl) h
    · rw [if_neg Instr.noConfusion]
      exact qctl_refused rfl h rfl rfl hu
    · rw [if_neg Instr.noConfusion]
      exact qctl_refused rfl h rfl rfl hu
    · rw [if_neg Instr.noConfusion]
      exact qctl_refused rfl h rfl rfl hu
    · rw [if_neg Instr.noConfusion]
      exact qctl_refused rfl h rfl (qctlClass_body hv) hu
    · rw [if_pos rfl]
      exact qctl_refused rfl h rfl rfl hu
  · refine ⟨?_, fun hs ho => ⟨kstopStop_own hu hs ho, kstopKill_own hu hs ho, kstopResume_own hu hs ho⟩, fun h => ?_⟩
    · rintro i (rfl | rfl | rfl) h
      · exact kstop_refused rfl h rfl hu
      · exact kstop_refused rfl h rfl hu
      · exact kstop_refused rfl h rfl hu
    · have hq := kq_finishes hu h
      simp only [kqWords_eq] at hq
      exact hq

end Sys2Proof.Laws
end

section
namespace Sys2Proof.Machine

open Claims

/-! ## What a queue command sets and reports (R89) -/

/-- A field apart from those set reads as before. -/
theorem Fld.get_foldl_set_of_apart {f : Fld} (l : List (Fld × ℕ)) (h : ∀ p ∈ l, p.1.apart f = true) (r : ℕ) :
    f.get (l.foldl (fun r p => p.1.set r p.2) r) = f.get r := by
  induction l generalizing r with
  | nil => rfl
  | cons p l ih => exact (ih (fun q hq => h q (List.mem_cons_of_mem _ hq)) _).trans (Fld.get_set_of_apart (h p (List.mem_cons_self ..)) _ _)

/-- Set fields of a queue's record. -/
def State.queSet (s : State) (q : ℕ) (l : List (Fld × ℕ)) : State := l.foldl (fun s p => s.setFld .queue q p.1 p.2) s

section
variable {s t u : State} {q : ℕ} {l : List (Fld × ℕ)}

theorem State.queSet_eq (s : State) (q : ℕ) (l : List (Fld × ℕ)) : s.queSet q l = { s with sys := (s.queSet q l).sys } := by
  induction l generalizing s with
  | nil => rfl
  | cons p l ih => exact ih (s.setFld .queue q p.1 p.2)

theorem State.setFld_sys_congr (h : s.sys = t.sys) (tab : SysTab) (n : ℕ) (f : Fld) (v : ℕ) :
    (s.setFld tab n f v).sys = (t.setFld tab n f v).sys := by
  simp [State.setFld, State.setRcd, State.rcd, h]

theorem State.setFld_eq (s : State) (tab : SysTab) (n : ℕ) (f : Fld) (v : ℕ) :
    s.setFld tab n f v = { s with sys := (s.setFld tab n f v).sys } := rfl

theorem State.queSet_sys_congr (h : s.sys = t.sys) (q : ℕ) (l : List (Fld × ℕ)) : (s.queSet q l).sys = (t.queSet q l).sys := by
  induction l generalizing s t with
  | nil => exact h
  | cons p l ih => exact ih (State.setFld_sys_congr h _ _ _ _)

theorem State.sets_queSet (s : State) (q : ℕ) (l : List (Fld × ℕ)) : Sets s (s.queSet q l) .queue q l := by
  induction l generalizing s with
  | nil => exact ⟨rfl, fun _ _ _ => rfl⟩
  | cons p l ih =>
    exact Sets.append (l := [p]) ⟨State.setFld_rcd_self s _ _ _ _, fun _ _ => State.rcd_setRcd_of_addr_ne s _⟩
      (ih (s.setFld .queue q p.1 p.2))

theorem Sets.fld_of_apart {tab : SysTab} {n : ℕ} {f : Fld} (h : Sets s t tab n l) (hl : ∀ p ∈ l, p.1.apart f = true) :
    t.fld tab n f = s.fld tab n f := by
  rw [State.fld, h.1, Fld.get_foldl_set_of_apart l hl, State.fld]

theorem State.queueDone_eq_queSet (s : State) (q st : ℕ) :
    s.queueDone q st = s.queSet q [(Que.cseq, s.fld .queue q Que.cseq + 1), (Que.cstat, st)] := rfl

theorem State.queueDone_eq (s : State) (q st : ℕ) : s.queueDone q st = { s with sys := (s.queueDone q st).sys } := by
  rw [State.queueDone_eq_queSet]
  exact s.queSet_eq q _

/-- The count and the status behind what the command has set. -/
theorem Sets.queueDone (h : Sets s t .queue q l) (hl : ∀ p ∈ l, p.1.apart Que.cseq = true) (st : ℕ) :
    Sets s (t.queueDone q st) .queue q (l ++ [(Que.cseq, s.fld .queue q Que.cseq + 1), (Que.cstat, st)]) := by
  refine Sets.append h ?_
  rw [State.queueDone_eq_queSet, Sets.fld_of_apart h hl]
  exact t.sets_queSet q _

theorem Sets.refl (s : State) (tab : SysTab) (n : ℕ) : Sets s s tab n [] := ⟨rfl, fun _ _ _ => rfl⟩

theorem State.queueDone_kern (s : State) (q st k : ℕ) : (s.queueDone q st).kern k = s.kern k := by
  rw [State.kern, State.queueDone, State.setFld_kernels, State.setFld_kernels, State.kern]

/-- Changes of the records one after another. -/
theorem eq_of_sys_trans (h : t = { s with sys := t.sys }) (h' : u = { t with sys := u.sys }) : u = { s with sys := u.sys } :=
  h'.trans (congrArg (fun x : State => { x with sys := u.sys }) h)

/-- Behind them the cox looks again, and the command reports. -/
theorem State.kick_queueDone_eq (h : t = { s with sys := t.sys }) (q st : ℕ) :
    t.kick.queueDone q st = { s with sys := (t.kick.queueDone q st).sys, agenda := s.agenda ++ [Task.event .none .coxChoose] } := by
  have hkick : t.kick = { s with sys := t.sys, agenda := s.agenda ++ [Task.event .none .coxChoose] } :=
    congrArg (fun x : State => { x with agenda := x.agenda ++ [Task.event .none .coxChoose] }) h
  exact (t.kick.queueDone_eq q st).trans (congrArg (fun x : State => { x with sys := (t.kick.queueDone q st).sys }) hkick)

theorem State.queueDone_fld_of_apart (s : State) (q st : ℕ) {f : Fld} (h : Que.cseq.apart f = true) (h' : Que.cstat.apart f = true) :
    (s.queueDone q st).fld .queue q f = s.fld .queue q f := by
  rw [State.queueDone_eq_queSet, Sets.fld_of_apart (s.sets_queSet q _)]
  simp [h, h']

theorem State.queueDone_cseq (s : State) (q st : ℕ) :
    (s.queueDone q st).fld .queue q Que.cseq = (s.fld .queue q Que.cseq + 1) % 2 ^ 16 := by
  rw [State.queueDone, State.fld, State.setFld_rcd_self, Fld.get_set_of_apart (by decide), State.setFld_rcd_self, Fld.get_set_self]
  rfl

theorem State.queueDone_cstat (s : State) (q st : ℕ) : (s.queueDone q st).fld .queue q Que.cstat = st % 2 ^ 8 := by
  rw [State.queueDone, State.fld, State.setFld_rcd_self, Fld.get_set_self]
  rfl

theorem queueCommand_of_place {f : State → ℕ → ℕ × State} {st : ℕ} (h : s.place = .queue q) (hf : f s q = (st, t)) :
    queueCommand s f = .next (t.queueDone q st) := by
  rw [queueCommand, atQueue, h]
  dsimp only
  rw [hf]

theorem queReports_of_exec {i : Instr} {st : ℕ} (h : exec i s = .next (s.queueDone q st)) : QueReports i s q st :=
  ⟨_, h, s.queueDone_eq q st, Sets.queueDone (Sets.refl s .queue q) (by simp) st⟩

/-! ### A command that changes the queue's record and its context's -/

/-- What such a command leaves and sets. -/
theorem State.queSet_ctx_queueDone {c : ℕ} (hc : c < 1024) (hl : ∀ p ∈ l, p.1.apart Que.cseq = true) (f : Fld) (v st : ℕ)
    (hu : u.sys = ((s.queSet q l).setFld .context c f v).sys) :
    (∀ tab m, tab.addr m ≠ SysTab.queue.addr q → tab.addr m ≠ SysTab.context.addr c → (u.queueDone q st).rcd tab m = s.rcd tab m) ∧
    (u.queueDone q st).rcd .context c = f.set (s.rcd .context c) v ∧
    (u.queueDone q st).rcd .queue q = (l ++ [(Que.cseq, s.fld .queue q Que.cseq + 1), (Que.cstat, st)]).foldl
      (fun r p => p.1.set r p.2) (s.rcd .queue q) := by
  have hne : SysTab.context.addr c ≠ SysTab.queue.addr q := SysTab.context_addr_ne hc (by decide) q
  have hset := s.sets_queSet q l
  have hrcd (tab : SysTab) (m : ℕ) : u.rcd tab m = ((s.queSet q l).setFld .context c f v).rcd tab m := by rw [State.rcd, hu, State.rcd]
  have hq : u.rcd .queue q = (s.queSet q l).rcd .queue q := (hrcd _ _).trans (State.rcd_setRcd_of_addr_ne _ _ hne.symm)
  have hdone := u.sets_queSet q [(Que.cseq, u.fld .queue q Que.cseq + 1), (Que.cstat, st)]
  refine ⟨fun tab m h1 h2 => ?_, ?_, ?_⟩
  · rw [State.queueDone_eq_queSet, hdone.2 tab m h1, hrcd, State.setFld, State.rcd_setRcd_of_addr_ne _ _ h2, hset.2 tab m h1]
  · rw [State.queueDone_eq_queSet, hdone.2 _ _ hne, hrcd, State.setFld_rcd_self, hset.2 _ _ hne]
  · rw [State.queueDone_eq_queSet, hdone.1, hq, hset.1, List.foldl_append, State.fld, hq, hset.1, Fld.get_foldl_set_of_apart l hl, State.fld]

/-- What OPEN sets in the record before it reports. -/
def openSets : List (Fld × ℕ) := [(Que.nposted, 0), (Que.nready, 0), (Que.done, 0), (Que.late, 0), (Que.state, 1)]

theorem State.clearQueue_setFld (s : State) (q : ℕ) : (s.clearQueue q).setFld .queue q Que.state 1 = s.queSet q openSets := by
  simp only [State.clearQueue, State.queSet, openSets, List.foldl_cons, List.foldl_nil]

theorem Que.ctx_get_lt (r : ℕ) : Que.ctx.get r < 1024 := Nat.mod_lt _ (by decide)

theorem State.queueValid_iff (s : State) (q : ℕ) : s.queueValid q = true ↔ 1 ≤ s.fld .queue q Que.depth ∧
    s.fld .queue q Que.depth ≤ 16384 ∧ s.fld .context (s.fld .queue q Que.ctx) Ctx.state ≠ 0 ∧
    ∀ f ∈ Que.reserved, s.fld .queue q f = 0 := by
  simp only [State.queueValid, Bool.and_eq_true, decide_eq_true_eq, List.all_eq_true, and_assoc]

end

/-! ### HOLD (R90): choices are withdrawn, and the kernels of the queue are no candidates -/

section
variable {s : State} {q : ℕ}

theorem State.setFld_kern (s : State) (tab : SysTab) (m : ℕ) (f : Fld) (v k : ℕ) : (s.setFld tab m f v).kern k = s.kern k := rfl

theorem State.releaseUnits_kern (s : State) (k j : ℕ) :
    (s.releaseUnits k).kern j = if j = k then { s.kern k with held0 := 0, held1 := 0 } else s.kern j := by
  rw [State.releaseUnits, State.kern_setKern, State.returnUnits, State.setFld_kern, State.returnUnits, State.setFld_kern, State.setFld_kern,
    State.setFld_kern]

/-- A kernel whose choice has been withdrawn. -/
def Kernel.unchosen (y : Kernel) : Kernel := if y.chosen.isSome then { y with held0 := 0, held1 := 0, chosen := none } else y

theorem State.withdraw_kern (s : State) (k j : ℕ) : (s.withdraw k).kern j = if j = k then (s.kern k).unchosen else s.kern j := by
  unfold State.withdraw Kernel.unchosen
  split
  · rw [State.kern_setKern, State.releaseUnits_kern, State.releaseUnits_kern, if_pos rfl]
    split <;> rfl
  · split
    · next h => rw [h]
    · rfl

theorem Kernel.unchosen_chosen (y : Kernel) : y.unchosen.chosen = none := by
  unfold Kernel.unchosen
  split
  · rfl
  · next h => simpa using h

theorem Kernel.unchosen_queue (y : Kernel) : y.unchosen.queue = y.queue := by
  unfold Kernel.unchosen
  split <;> rfl

theorem State.withdraw_chosen (s : State) (k j : ℕ) :
    ((s.withdraw k).kern j).chosen = if j = k then none else (s.kern j).chosen := by
  rw [State.withdraw_kern]
  split
  · exact Kernel.unchosen_chosen _
  · rfl

theorem State.withdraw_queue (s : State) (k j : ℕ) : ((s.withdraw k).kern j).queue = (s.kern j).queue := by
  rw [State.withdraw_kern]
  split
  · next h => rw [h, Kernel.unchosen_queue]
  · rfl

/-- The kernels of a queue. -/
def State.kernelsIn (s : State) (q : ℕ) : List ℕ := (s.kernels.filter (fun p => p.2.queue = q)).map Prod.fst

theorem State.withdrawAll_eq (s : State) (q : ℕ) : s.withdrawAll q = (s.kernelsIn q).foldl State.withdraw s := by
  rw [State.withdrawAll, State.kernelsIn, List.foldl_map, List.foldl_filter]
  simp only [decide_eq_true_eq]

theorem State.foldl_withdraw_queue (l : List ℕ) (s : State) (j : ℕ) : ((l.foldl State.withdraw s).kern j).queue = (s.kern j).queue := by
  induction l generalizing s with
  | nil => rfl
  | cons k l ih => exact (ih _).trans (s.withdraw_queue k j)

theorem State.foldl_withdraw_chosen (l : List ℕ) (s : State) {j : ℕ} (h : j ∈ l ∨ (s.kern j).chosen = none) :
    ((l.foldl State.withdraw s).kern j).chosen = none := by
  induction l generalizing s with
  | nil => simpa using h
  | cons k l ih =>
    refine ih _ ?_
    rw [State.withdraw_chosen]
    by_cases hk : j = k
    · exact .inr (if_pos hk)
    · rw [if_neg hk]
      exact h.imp_left (fun hm => (List.mem_cons.mp hm).resolve_left hk)

/-- A kernel that is not listed is none that was ever posted. -/
theorem State.kern_cases (s : State) (k : ℕ) : (k, s.kern k) ∈ s.kernels ∨ s.kern k = Kernel.init := by
  unfold State.kern Tbl.getD
  cases hk : Tbl.get? s.kernels k with
  | none => exact .inr rfl
  | some y => exact .inl (Tbl.mem_of_get? hk)

theorem State.withdrawAll_chosen {k : ℕ} (h : (s.kern k).queue = q) : ((s.withdrawAll q).kern k).chosen = none := by
  rw [State.withdrawAll_eq]
  refine State.foldl_withdraw_chosen _ s ?_
  rcases s.kern_cases k with hk | hk
  · exact .inl (List.mem_map.mpr ⟨_, List.mem_filter.mpr ⟨hk, by simpa using h⟩, rfl⟩)
  · exact .inr (by rw [hk]; rfl)

theorem State.withdrawAll_queue (s : State) (q k : ℕ) : ((s.withdrawAll q).kern k).queue = (s.kern k).queue := by
  rw [State.withdrawAll_eq]
  exact State.foldl_withdraw_queue _ s k

theorem State.withdrawAll_outline (s : State) (q : ℕ) : (s.withdrawAll q).outline = s.outline := by
  rw [State.withdrawAll_eq]
  exact State.foldl_outline (fun _ _ => State.withdraw_outline _) _

theorem State.withdrawAll_settles (s : State) (q : ℕ) : Settles s (s.withdrawAll q) := by
  rw [State.withdrawAll_eq]
  exact .foldl State.withdraw_settles _

/-- A kernel of a queue that is not open is no candidate (R93). -/
theorem State.refreshCandidates_of_not_open {k : ℕ} (h : s.fld .queue (s.kern k).queue Que.state ≠ 1) :
    (s.refreshCandidates.kern k).chosen = (s.kern k).chosen ∧ (s.refreshCandidates.kern k).candidate = none ∧
      (s.refreshCandidates.kern k).aged = false := by
  have hno : s.isCandidate k = false := by
    unfold State.isCandidate
    simp [h]
  rw [State.kern, State.kern, Tbl.getD, Tbl.getD, State.refreshCandidates_get?]
  cases Tbl.get? s.kernels k with
  | none => exact ⟨rfl, rfl, rfl⟩
  | some y =>
    simp only [Option.map_some, Option.getD_some, State.asCandidate, hno]
    exact ⟨rfl, rfl, rfl⟩

end

end Sys2Proof.Machine
end

section
namespace Sys2Proof.Laws

open Machine Claims

/-! ## The queue commands (R89, R90) -/

section
variable {s : State} {q : ℕ} (h : s.place = .queue q)
include h

theorem queueOpen_refused (hs : s.fld .queue q Que.state ≠ 0) : QueReports .queueOpen s q 2 :=
  queReports_of_exec (queueCommand_of_place h (if_pos hs) : execQueueOpen s = _)

theorem queueOpen_invalid (hs : s.fld .queue q Que.state = 0) (hv : s.queueValid q = false ∨
    s.cfg (s.fld .queue q Que.ctx) Ctx.qmax ≤ s.fld .context (s.fld .queue q Que.ctx) Ctx.nqueues) : QueReports .queueOpen s q 3 :=
  queReports_of_exec (queueCommand_of_place h ((if_neg (not_not.mpr hs)).trans (if_pos (by simpa using hv))) : execQueueOpen s = _)

theorem queueOpen_runs (hs : s.fld .queue q Que.state = 0) (hv : s.queueValid q = true)
    (hn : s.fld .context (s.fld .queue q Que.ctx) Ctx.nqueues < s.cfg (s.fld .queue q Que.ctx) Ctx.qmax) :
    let own := s.fld .queue q Que.ctx
    let ok := [(Que.cseq, s.fld .queue q Que.cseq + 1), (Que.cstat, 0)]
    Runs .queueOpen s (fun t =>
      t = { s with sys := t.sys, queueCfg := s.queueCfg.set q (s.rcd .queue q), agenda := s.agenda ++ [Task.event .none .coxChoose] } ∧
      (∀ tab m, tab.addr m ≠ SysTab.queue.addr q → tab.addr m ≠ SysTab.context.addr own → t.rcd tab m = s.rcd tab m) ∧
      t.rcd .context own = Ctx.nqueues.set (s.rcd .context own) (s.fld .context own Ctx.nqueues + 1) ∧
      t.rcd .queue q = ([(Que.nposted, 0), (Que.nready, 0), (Que.done, 0), (Que.late, 0), (Que.state, 1)] ++ ok).foldl
        (fun (r : ℕ) (p : Fld × ℕ) => p.1.set r p.2) (s.rcd .queue q)) := by
  intro own ok
  obtain ⟨w, hw⟩ : ∃ w, w = ({ s with queueCfg := s.queueCfg.set q (s.rcd .queue q) } : State).queSet q openSets := ⟨_, rfl⟩
  obtain ⟨u, hu⟩ : ∃ u, u = w.setFld .context own Ctx.nqueues (s.fld .context own Ctx.nqueues + 1) := ⟨_, rfl⟩
  have hsys : u.kick.sys = ((s.queSet q openSets).setFld .context own Ctx.nqueues (s.fld .context own Ctx.nqueues + 1)).sys := by
    rw [show u.kick.sys = u.sys from rfl, hu, hw]
    exact State.setFld_sys_congr (State.queSet_sys_congr rfl q openSets) _ _ _ _
  refine ⟨u.kick.queueDone q 0, (queueCommand_of_place h ?_ : execQueueOpen s = _), ?_,
    State.queSet_ctx_queueDone (Que.ctx_get_lt _) (by decide) Ctx.nqueues _ 0 hsys⟩
  · rw [hu, hw, ← State.clearQueue_setFld]
    exact (if_neg (not_not.mpr hs)).trans (if_neg (by simp [hv, hn]))
  · exact State.kick_queueDone_eq (eq_of_sys_trans (hw ▸ State.queSet_eq _ q openSets) (hu ▸ State.setFld_eq _ _ _ _ _)) q 0

theorem queueHold_refused (hs : s.fld .queue q Que.state ≠ 1) : QueReports .queueHold s q 2 :=
  queReports_of_exec (queueCommand_of_place h (if_neg hs) : execQueueHold s = _)

theorem queueHold_runs (hq : q < 4096) (hs : s.fld .queue q Que.state = 1) :
    Runs .queueHold s (fun t => t.fld .queue q Que.state = 2 ∧ t.fld .queue q Que.cstat = 0 ∧ t.mem = s.mem ∧
      t.fld .queue q Que.cseq = (s.fld .queue q Que.cseq + 1) % 2 ^ 16 ∧
      ∀ k, (s.kern k).queue = q → (t.kern k).chosen = none ∧ (t.kern k).candidate = none ∧ (t.kern k).aged = false) := by
  obtain ⟨w, hw⟩ : ∃ w, w = s.withdrawAll q := ⟨_, rfl⟩
  obtain ⟨u, hu⟩ : ∃ u, u = w.setFld .queue q Que.state 2 := ⟨_, rfl⟩
  have hcseq : w.fld .queue q Que.cseq = s.fld .queue q Que.cseq := by
    rw [hw]
    exact congrArg Prod.snd (congrFun (congrArg Prod.fst (s.withdrawAll_outline q)) ⟨q, hq⟩)
  have hstate : u.fld .queue q Que.state = 2 := by
    rw [hu, State.fld, State.setFld_rcd_self, Fld.get_set_self]
    rfl
  have hopen (f : Fld) : u.refreshCandidates.fld .queue q f = u.fld .queue q f := State.fld_congr rfl ..
  refine ⟨u.refreshCandidates.queueDone q 0, (queueCommand_of_place h ?_ : execQueueHold s = _), ?_, ?_, ?_, ?_, fun k hk => ?_⟩
  · rw [hu, hw]
    exact if_pos hs
  · rw [State.queueDone_fld_of_apart _ _ _ (by decide) (by decide), hopen, hstate]
  · exact State.queueDone_cstat _ q 0
  · rw [State.queueDone_mem, ← (s.withdrawAll_settles q).mem, ← hw, hu]
    rfl
  · rw [State.queueDone_cseq, ← hcseq, hopen, hu, State.fld,
      State.setFld_rcd_self, Fld.get_set_of_apart (by decide), State.fld]
  · have hkern : u.kern k = w.kern k := by rw [hu]; rfl
    have hqueue : (u.kern k).queue = q := by rw [hkern, hw, State.withdrawAll_queue, hk]
    have hchosen : (u.kern k).chosen = none := by
      rw [hkern, hw]
      exact State.withdrawAll_chosen hk
    rw [← hchosen, State.queueDone_kern]
    exact State.refreshCandidates_of_not_open (by rw [hqueue, hstate]; decide)

theorem queueRelease_refused (hs : s.fld .queue q Que.state ≠ 2) : QueReports .queueRelease s q 2 :=
  queReports_of_exec (queueCommand_of_place h (if_neg hs) : execQueueRelease s = _)

theorem queueRelease_runs (hs : s.fld .queue q Que.state = 2) : Runs .queueRelease s (fun t =>
    t = { s with sys := t.sys, agenda := s.agenda ++ [Task.event .none .coxChoose] } ∧
    Sets s t .queue q ([(Que.state, 1)] ++ [(Que.cseq, s.fld .queue q Que.cseq + 1), (Que.cstat, 0)])) := by
  refine ⟨_, (queueCommand_of_place h (if_pos hs) : execQueueRelease s = _), ?_, ?_⟩
  · exact State.kick_queueDone_eq (s.setFld_eq .queue q Que.state 1) q 0
  · exact Sets.queueDone (Sets.of_sys (s.sets_queSet q [(Que.state, 1)]) rfl) (by decide) 0

theorem queueFlush_refused (hs : s.fld .queue q Que.state = 0) : QueReports .queueFlush s q 2 :=
  queReports_of_exec (queueCommand_of_place h (if_pos hs) : execQueueFlush s = _)

theorem queueFlush_runs (hq : q < 4096) (hs : s.fld .queue q Que.state ≠ 0) : Runs .queueFlush s (fun t =>
    t.fld .queue q Que.state = s.fld .queue q Que.state ∧ t.fld .queue q Que.cstat = 0 ∧
    t.fld .queue q Que.cseq = (s.fld .queue q Que.cseq + 1) % 2 ^ 16 ∧
    ∀ k y, s.kernels.get? k = some y → y.queue = q → y.unadmitted = true → (t.kern k).Cancelled) := by
  obtain ⟨u, hu⟩ : ∃ u, u = (s.flushed q).foldl State.flushKernel s := ⟨_, rfl⟩
  have hkept := congrFun (State.foldl_flushKernel_queues (s.flushed q) s) ⟨q, hq⟩
  rw [← hu] at hkept
  have hstate : u.fld .queue q Que.state = s.fld .queue q Que.state := congrArg Prod.fst hkept
  have hcseq : u.fld .queue q Que.cseq = s.fld .queue q Que.cseq := congrArg Prod.snd hkept
  refine ⟨u.queueDone q 0, (queueCommand_of_place h ?_ : execQueueFlush s = _), ?_, State.queueDone_cstat u q 0, ?_, fun k y hk hkq hku => ?_⟩
  · rw [hu]
    exact State.flushQueue_eq hs
  · rw [State.queueDone_fld_of_apart _ _ _ (by decide) (by decide), hstate]
  · rw [State.queueDone_cseq, hcseq]
  · rw [State.queueDone_kern, hu]
    exact State.foldl_flushKernel_cancelled _ s (.inl (State.mem_flushed.mpr ⟨y, Tbl.mem_of_get? hk, hkq, hku⟩))

theorem queueClose_refused (hs : s.fld .queue q Que.state = 0) : QueReports .queueClose s q 2 :=
  queReports_of_exec (queueCommand_of_place h (if_pos hs) : execQueueClose s = _)

theorem queueClose_busy (hs : s.fld .queue q Que.state ≠ 0) (hn : s.fld .queue q Que.nposted ≠ 0) : QueReports .queueClose s q 5 :=
  queReports_of_exec (queueCommand_of_place h ((if_neg hs).trans (if_pos hn)) : execQueueClose s = _)

theorem queueClose_runs (hs : s.fld .queue q Que.state ≠ 0) (hn : s.fld .queue q Que.nposted = 0) :
    let ctx := s.qcfg q Que.ctx
    let ok := [(Que.cseq, s.fld .queue q Que.cseq + 1), (Que.cstat, 0)]
    Runs .queueClose s (fun t => t = { s with sys := t.sys } ∧
      (∀ tab m, tab.addr m ≠ SysTab.queue.addr q → tab.addr m ≠ SysTab.context.addr ctx → t.rcd tab m = s.rcd tab m) ∧
      t.rcd .context ctx = Ctx.nqueues.set (s.rcd .context ctx) (s.fld .context ctx Ctx.nqueues - 1) ∧
      t.rcd .queue q = ([(Que.state, 0)] ++ ok).foldl (fun (r : ℕ) (p : Fld × ℕ) => p.1.set r p.2) (s.rcd .queue q)) := by
  intro ctx ok
  obtain ⟨u, hu⟩ : ∃ u, u = (s.setFld .queue q Que.state 0).setFld .context ctx Ctx.nqueues (s.fld .context ctx Ctx.nqueues - 1) := ⟨_, rfl⟩
  refine ⟨u.queueDone q 0, (queueCommand_of_place h ?_ : execQueueClose s = _), ?_,
    State.queSet_ctx_queueDone (l := [(Que.state, 0)]) (Que.ctx_get_lt _) (by decide) Ctx.nqueues _ 0 (congrArg State.sys hu)⟩
  · rw [hu]
    exact (if_neg hs).trans (if_neg (not_not.mpr hn))
  · have hclosed : u = { s with sys := u.sys } := by
      rw [hu]
      exact eq_of_sys_trans (s.setFld_eq .queue q Que.state 0) (State.setFld_eq _ _ _ _ _)
    exact eq_of_sys_trans hclosed (u.queueDone_eq q 0)

theorem queueReconf_refused (hs : s.fld .queue q Que.state = 0) : QueReports .queueReconf s q 2 :=
  queReports_of_exec (queueCommand_of_place h (if_pos hs) : execQueueReconf s = _)

theorem queueReconf_invalid (hs : s.fld .queue q Que.state ≠ 0)
    (hv : s.queueValid q = false ∨ s.fld .queue q Que.ctx ≠ s.qcfg q Que.ctx) : QueReports .queueReconf s q 3 :=
  queReports_of_exec (queueCommand_of_place h ((if_neg hs).trans (if_pos (by simpa using hv))) : execQueueReconf s = _)

theorem queueReconf_runs (hs : s.fld .queue q Que.state ≠ 0) (hv : s.queueValid q = true) (hc : s.fld .queue q Que.ctx = s.qcfg q Que.ctx) :
    Runs .queueReconf s (fun t =>
      t = { s with sys := t.sys, queueCfg := s.queueCfg.set q (s.rcd .queue q), agenda := s.agenda ++ [Task.event .none .coxChoose] } ∧
      Sets s t .queue q [(Que.cseq, s.fld .queue q Que.cseq + 1), (Que.cstat, 0)]) := by
  refine ⟨_, (queueCommand_of_place h ((if_neg hs).trans (if_neg (by simp [hv, hc]))) : execQueueReconf s = _), ?_, ?_⟩
  · exact State.kick_queueDone_eq (s := { s with queueCfg := s.queueCfg.set q (s.rcd .queue q) }) rfl q 0
  · exact Sets.queueDone (l := []) (Sets.of_sys (Sets.refl s .queue q) rfl) (by simp) 0

end

end Sys2Proof.Laws
end

section
namespace Sys2Proof.Machine

open Claims

/-! ## A byte written to a record (R8, R73) -/

/-- A record with the bits of byte k that software may write taken from v. -/
def SysTab.merge (tab : SysTab) (old k : ℕ) (v : Byte) : ℕ :=
  let m := tab.rwMask &&& ((2 ^ 8 - 1) * 256 ^ k)
  (old ^^^ (old &&& m)) ||| (v.toNat * 256 ^ k &&& m)

/-- The command that byte k of a record gives. -/
def SysTab.command (tab : SysTab) (k : ℕ) (v : Byte) : ℕ :=
  if tab = .context ∧ k = 120 ∨ tab = .queue ∧ k = 56 then v.toNat else 0

section
variable {s t : State} {tab : SysTab} {n k old : ℕ} {v : Byte}

theorem SysTab.testBit_merge (tab : SysTab) (old k : ℕ) (v : Byte) (i : ℕ) : (tab.merge old k v).testBit i =
    if 8 * k ≤ i ∧ i < 8 * k + 8 ∧ tab.rwMask.testBit i = true then v.getLsbD (i - 8 * k) else old.testBit i := by
  unfold SysTab.merge
  generalize tab.rwMask = mask
  have hpow : 256 ^ k = 2 ^ (8 * k) := by rw [pow_mul]; rfl
  simp only [hpow, Nat.testBit_or, Nat.testBit_xor, Nat.testBit_and, Nat.testBit_mul_two_pow, Nat.testBit_two_pow_sub_one]
  rw [BitVec.getLsbD]
  by_cases h1 : 8 * k ≤ i
  · by_cases h2 : i < 8 * k + 8
    · have h3 : i - 8 * k < 8 := by omega
      cases hm : mask.testBit i <;> simp [h1, h2, h3]
    · have h3 : ¬i - 8 * k < 8 := by omega
      simp [h2, h3]
  · simp [h1]

/-- A byte of the command field, wherever it stands. -/
theorem command_byte (v : Byte) (j : ℕ) : v.toNat * 256 ^ j / 2 ^ (8 * j) % 256 = v.toNat := by
  rw [pow_mul, show (2 : ℕ) ^ 8 = 256 from rfl, Nat.mul_div_cancel _ (by positivity)]
  exact Nat.mod_eq_of_lt v.isLt

theorem State.sysWriteRec_byte (s : State) (tab : SysTab) (n k : ℕ) (v : Byte) : s.sysWriteRec tab n k [v] =
    (s.setRcd tab n (tab.merge (s.rcd tab n) k v)).sysEffect tab n (s.rcd tab n) (tab.merge (s.rcd tab n) k v) (tab.command k v) := by
  have hv : ofBytes [v] = v.toNat := by simp [ofBytes]
  simp only [State.sysWriteRec, hv, List.length_singleton]
  refine congrArg (State.sysEffect _ tab n _ _) ?_
  cases tab with
  | context =>
    by_cases hk : k = 120
    · subst hk
      exact (if_pos (by decide)).trans ((command_byte v 120).trans (if_pos (by decide)).symm)
    · exact (if_neg (by omega)).trans (if_neg (by simp [hk])).symm
  | queue =>
    by_cases hk : k = 56
    · subst hk
      exact (if_pos (by decide)).trans ((command_byte v 56).trans (if_pos (by decide)).symm)
    · exact (if_neg (by omega)).trans (if_neg (by simp [hk])).symm
  | cox | pool | shape | link | port | member | exports | comparator | debug | power | region | tree | count =>
    exact (if_neg (by simp)).symm

/-- What a byte written where a record lies does. -/
theorem State.write_byte {pa : ℕ} (hin : inSys pa = true) (ha : sysAt pa = some (tab, n, k)) :
    s.write pa [v] = (s.setRcd tab n (tab.merge (s.rcd tab n) k v)).sysEffect tab n (s.rcd tab n) (tab.merge (s.rcd tab n) k v)
      (tab.command k v) := by
  obtain ⟨j, hj⟩ : ∃ j, tab.bytes - k = j + 1 := ⟨tab.bytes - k - 1, by have := (sysAt_eq_some ha).2; omega⟩
  rw [State.write, if_pos hin, ← State.sysWriteRec_byte, List.length_singleton]
  simp only [State.sysWrite, ha, hj, List.take_succ_cons, List.take_nil]

theorem State.write_byte_none {pa : ℕ} (hin : inSys pa = true) (ha : sysAt pa = none) : s.write pa [v] = s := by
  rw [State.write, if_pos hin, List.length_singleton]
  simp only [State.sysWrite, ha]

theorem exec_recordWrite {pa : ℕ} (h : s.place = .byteWrite pa v) :
    exec .systemRecordWrite s = .next (if inSys pa then s.write pa [v] else s) := by
  refine (show execSystemRecordWrite s = _ from ?_)
  unfold execSystemRecordWrite
  rw [h]
  exact (apply_ite Host.Outcome.next _ _ _).symm

/-- The record that has been written, and the others. -/
theorem State.setRcd_rcd_all (s : State) (tab : SysTab) (n x : ℕ) : (s.setRcd tab n x).rcd tab n = x ∧
    ∀ tab' m, tab'.addr m ≠ tab.addr n → (s.setRcd tab n x).rcd tab' m = s.rcd tab' m :=
  ⟨State.setRcd_rcd_self s tab n x, fun _ _ h => State.rcd_setRcd_of_addr_ne s x h⟩

theorem byte_eq_zero_iff (v : Byte) : v.toNat = 0 ↔ v = 0#8 := BitVec.toNat_inj (y := 0#8)

/-- In a table of which nothing but a step follows, that step is posted. -/
theorem State.sysEffect_posts (u : State) (h1 : tab ≠ .power) (h2 : tab ≠ .member) (h3 : tab ≠ .link) (n k : ℕ) (v : Byte) (old new : ℕ) :
    u.sysEffect tab n old new (tab.command k v) = { u with agenda := u.agenda ++ Claims.follows tab n k v old new } := by
  unfold State.sysEffect Claims.follows SysTab.command
  cases tab with
  | context =>
    by_cases hk : k = 120
    · by_cases hv : v = 0#8 <;> simp [hk, hv, byte_eq_zero_iff, State.post]
    · simp [hk]
  | queue =>
    by_cases hk : k = 56
    · by_cases hv : v = 0#8 <;> simp [hk, hv, byte_eq_zero_iff, State.post]
    · simp [hk]
  | cox =>
    by_cases h : Cox.rsv.get old = Cox.rsv.get new <;> simp [h, State.post]
  | port =>
    by_cases h : Port.en.get old = Port.en.get new
    · simp [h]
    · by_cases hen : Port.en.get new = 1
      · rw [hen] at h
        simp [h, hen, State.post]
      · simp [h, hen, State.post]
  | power | member | link => contradiction
  | pool | shape | exports | comparator | debug | region | tree | count => simp

/-! ### Records of which more than a step follows -/

/-- Some steps are to come. -/
def State.tasked (s : State) (l : List Task) : State := { s with agenda := s.agenda ++ l }

theorem State.tasked_eq (h : t = { s with sys := t.sys }) (l : List Task) :
    t.tasked l = { s with sys := (t.tasked l).sys, agenda := s.agenda ++ l } :=
  congrArg (State.tasked · l) h

theorem State.tasked_rcd (s : State) (l : List Task) (tab : SysTab) (m : ℕ) : (s.tasked l).rcd tab m = s.rcd tab m := rfl

theorem State.tasked_ite (s : State) (p : Prop) [Decidable p] (pl : Place) (x : Instr) :
    (if p then s else s.post pl x) = s.tasked (if p then [] else [.event pl x]) := by
  split
  · rw [State.tasked, List.append_nil]
  · rfl

theorem State.sysEffect_power (u : State) (m old new cmd : ℕ) : u.sysEffect .power m old new cmd =
    (u.setFld .power 0 Pwr.plimit (max 2400 (min 4800 (Pwr.plimit.get new)))).tasked
      (if Pwr.plimit.get old = max 2400 (min 4800 (Pwr.plimit.get new)) then []
        else [.event (.plimit (BitVec.ofNat 13 (max 2400 (min 4800 (Pwr.plimit.get new))))) .plimitWrite]) :=
  State.tasked_ite _ _ _ _

theorem State.sysEffect_member (u : State) (m old new cmd : ℕ) : u.sysEffect .member m old new cmd =
    (if 2 ≤ Mem.state.get new then u.setFld .member m Mem.state (Mem.state.get old) else u).tasked
      (if Mem.state.get old = Mem.state.get new then [] else [.event (.beat 0 m) .heartbeatPeriodMissed]) :=
  State.tasked_ite _ _ _ _

theorem sysAt_single {pa : ℕ} (ha : sysAt pa = some (tab, n, k)) (h1 : tab.num = 1) : n = 0 := by
  have hn := (sysAt_eq_some ha).1
  omega

/-! ### The fit test of ready persistent kernels (R96) -/

/-- A persistent kernel that fits, or not. -/
def Kernel.judged (fits : Bool) (y : Kernel) : Kernel :=
  if fits then { y with unfit := false } else { y with unfit := true, aged := false, candidate := none }

theorem Kernel.judged_fields (fits : Bool) (y : Kernel) : (y.judged fits).launch = y.launch ∧
    (y.judged fits).unfitLogged = y.unfitLogged ∧ (y.judged fits).unfit = !fits := by
  cases fits <;> exact ⟨rfl, rfl, rfl⟩

/-- A kernel that fits, or whose record stands in the fault log, is tested without a new record. -/
theorem State.judgeFit_eq (h : s.persistFits n = true ∨ (s.kern n).unfitLogged = true) :
    s.judgeFit n = if s.lch n Lch.persistent = 0 then s else s.setKern n (Kernel.judged (s.persistFits n)) := by
  unfold State.judgeFit
  dsimp only
  split
  · rfl
  · cases hf : s.persistFits n with
    | true => rfl
    | false =>
      rw [hf] at h
      rw [if_pos (h.resolve_left (by decide))]
      rfl

/-- The fit tests of some kernels change the kernels alone, and of these only what the tests find. -/
structure Judges (s t : State) : Prop where
  eq : t = { s with kernels := t.kernels }
  launch : ∀ k, (t.kern k).launch = (s.kern k).launch
  logged : ∀ k, (t.kern k).unfitLogged = (s.kern k).unfitLogged

theorem Judges.refl (s : State) : Judges s s := ⟨rfl, fun _ => rfl, fun _ => rfl⟩

theorem Judges.trans {u : State} (h : Judges s t) (h' : Judges t u) : Judges s u where
  eq := h'.eq.trans (congrArg (fun x : State => { x with kernels := u.kernels }) h.eq)
  launch k := (h'.launch k).trans (h.launch k)
  logged k := (h'.logged k).trans (h.logged k)

theorem Judges.lch (h : Judges s t) (k : ℕ) (f : Fld) : t.lch k f = s.lch k f := by
  rw [State.lch, h.launch, State.lch]

theorem Judges.rsv (h : Judges s t) : t.rsv = s.rsv := State.fld_congr (by rw [h.eq]) ..

theorem Judges.persistFits (h : Judges s t) (k : ℕ) : t.persistFits k = s.persistFits k := by
  rw [State.persistFits, State.persistFits, State.ncrews, State.ncrews, State.rsvCount, State.rsvCount, h.lch, h.lch, h.lch, h.lch, h.rsv]

theorem State.judgeFit_judges (h : s.persistFits n = true ∨ (s.kern n).unfitLogged = true) : Judges s (s.judgeFit n) := by
  rw [State.judgeFit_eq h]
  split
  · exact .refl s
  · refine ⟨rfl, fun j => ?_, fun j => ?_⟩ <;> rw [State.kern_setKern] <;> split
    · next hj => rw [hj, (Kernel.judged_fields _ _).1]
    · rfl
    · next hj => rw [hj, (Kernel.judged_fields _ _).2.1]
    · rfl

/-- What the test finds of a persistent kernel. -/
theorem State.judgeFit_unfit (h : s.persistFits n = true ∨ (s.kern n).unfitLogged = true) {j : ℕ} (hp : s.lch j Lch.persistent = 1)
    (hj : j = n ∨ (s.kern j).unfit = !s.persistFits j) : ((s.judgeFit n).kern j).unfit = !s.persistFits j := by
  rw [State.judgeFit_eq h]
  split
  · next h0 =>
    refine hj.resolve_left ?_
    rintro rfl
    omega
  · rw [State.kern_setKern]
    split
    · next hjn => rw [hjn, (Kernel.judged_fields _ _).2.2]
    · next hjn => exact hj.resolve_left hjn

theorem State.foldl_judgeFit (l : List ℕ) (s : State) (h : ∀ k ∈ l, s.persistFits k = true ∨ (s.kern k).unfitLogged = true) :
    Judges s (l.foldl State.judgeFit s) ∧ ∀ j, s.lch j Lch.persistent = 1 → j ∈ l ∨ (s.kern j).unfit = (!s.persistFits j) →
      ((l.foldl State.judgeFit s).kern j).unfit = !s.persistFits j := by
  induction l generalizing s with
  | nil => exact ⟨.refl s, fun j _ hj => by simpa using hj⟩
  | cons k l ih =>
    have hk := h k (List.mem_cons_self ..)
    have hstep := State.judgeFit_judges hk
    obtain ⟨hrest, hunfit⟩ := ih (s.judgeFit k) (fun i hi => by
      rw [hstep.persistFits, hstep.logged]
      exact h i (List.mem_cons_of_mem _ hi))
    refine ⟨hstep.trans hrest, fun j hp hj => ?_⟩
    rw [← hstep.persistFits]
    refine hunfit j (by rw [hstep.lch, hp]) ?_
    rw [List.mem_cons, or_assoc] at hj
    rw [hstep.persistFits]
    rcases hj with hj | hj | hj
    · exact .inr (State.judgeFit_unfit hk hp (.inl hj))
    · exact .inl hj
    · exact .inr (State.judgeFit_unfit hk hp (.inr hj))

/-- The ready kernels. -/
def State.ready (s : State) : List ℕ := (s.kernels.filter (fun p => p.2.state = .ready)).map Prod.fst

theorem State.foldl_ready (s : State) :
    s.kernels.foldl (fun s p => if p.2.state = .ready then s.judgeFit p.1 else s) s = s.ready.foldl State.judgeFit s := by
  rw [State.ready, List.foldl_map, List.foldl_filter]
  simp only [decide_eq_true_eq]

theorem exec_rsvWrite {x : DWord} (h : s.place = .rsv x) : exec .rsvWrite s =
    .next ((s.setFld .cox 0 Cox.rsv x.toNat).ready.foldl State.judgeFit (s.setFld .cox 0 Cox.rsv x.toNat)).kick := by
  refine (show execRsvWrite s = _ from ?_)
  unfold execRsvWrite
  rw [h, ← State.foldl_ready]

end

end Sys2Proof.Machine
end

section
namespace Sys2Proof.Laws

open Machine Claims

/-! ## Writes to records (R8, R9, R73) -/

section
variable {s : State} {pa n k : ℕ} {v : Byte} {tab : SysTab}

theorem recordWrite_ignored (h : s.place = .byteWrite pa v) (hn : inSys pa = false ∨ sysAt pa = none) :
    exec .systemRecordWrite s = .next s := by
  rw [exec_recordWrite h]
  cases hin : inSys pa with
  | false => rfl
  | true => rw [if_pos rfl, State.write_byte_none hin (hn.resolve_left (by simp [hin]))]

section
variable (h : s.place = .byteWrite pa v) (hin : inSys pa = true) (ha : sysAt pa = some (tab, n, k))
include h hin ha

theorem recordWrite_next : exec .systemRecordWrite s = .next
    ((s.setRcd tab n (tab.merge (s.rcd tab n) k v)).sysEffect tab n (s.rcd tab n) (tab.merge (s.rcd tab n) k v) (tab.command k v)) := by
  rw [exec_recordWrite h, if_pos hin, State.write_byte hin ha]

theorem recordWrite_plain (h1 : tab ≠ .power) (h2 : tab ≠ .member) (h3 : tab ≠ .link) : Runs .systemRecordWrite s (fun t =>
    t = { s with sys := t.sys, agenda := s.agenda ++ follows tab n k v (s.rcd tab n) (t.rcd tab n) } ∧
    (∀ i, (t.rcd tab n).testBit i =
      if 8 * k ≤ i ∧ i < 8 * k + 8 ∧ tab.rwMask.testBit i = true then v.getLsbD (i - 8 * k) else (s.rcd tab n).testBit i) ∧
    ∀ tab' m, tab'.addr m ≠ tab.addr n → t.rcd tab' m = s.rcd tab' m) := by
  obtain ⟨x, hx⟩ : ∃ x, x = tab.merge (s.rcd tab n) k v := ⟨_, rfl⟩
  obtain ⟨hself, hrest⟩ := s.setRcd_rcd_all tab n x
  refine ⟨{ s.setRcd tab n x with agenda := s.agenda ++ follows tab n k v (s.rcd tab n) x }, ?_, ?_, fun i => ?_, fun tab' m hm => ?_⟩
  · rw [recordWrite_next h hin ha, ← hx, State.sysEffect_posts _ h1 h2 h3]
    rfl
  · rw [show State.rcd { s.setRcd tab n x with agenda := s.agenda ++ follows tab n k v (s.rcd tab n) x } tab n = x from hself]
    rfl
  · rw [← SysTab.testBit_merge, ← hx]
    exact congrArg (Nat.testBit · i) hself
  · exact hrest tab' m hm

end

theorem recordWrite_link (h : s.place = .byteWrite pa v) (hin : inSys pa = true) (ha : sysAt pa = some (.link, n, k)) :
    Runs .systemRecordWrite s (fun t =>
      t = { s with sys := t.sys, declared := t.declared, reach := t.reach } ∧
      (∀ i, (t.rcd .link 0).testBit i =
        if 8 * k ≤ i ∧ i < 8 * k + 8 ∧ SysTab.link.rwMask.testBit i = true then v.getLsbD (i - 8 * k) else (s.rcd .link n).testBit i) ∧
      (∀ tab' m, tab'.addr m ≠ SysTab.link.addr n → t.rcd tab' m = s.rcd tab' m) ∧
      (t.fld .link 0 Lnk.epoch = s.fld .link 0 Lnk.epoch → t.declared = s.declared ∧ t.reach = s.reach) ∧
      (t.fld .link 0 Lnk.epoch ≠ s.fld .link 0 Lnk.epoch → t.declared = [] ∧ ∀ p, p ∈ t.reach ↔ p ∈ s.reach ∧ p.1 / 64 ∉ s.declared)) := by
  obtain rfl := sysAt_single ha rfl
  have hnext := recordWrite_next h hin ha
  obtain ⟨x, hx⟩ : ∃ x, x = SysTab.link.merge (s.rcd .link 0) k v := ⟨_, rfl⟩
  obtain ⟨hself, hrest⟩ := s.setRcd_rcd_all .link 0 x
  have hbits (i : ℕ) := SysTab.testBit_merge .link (s.rcd .link 0) k v i
  rw [← hx] at hnext hbits
  by_cases he : Lnk.epoch.get (s.rcd .link 0) = Lnk.epoch.get x
  · refine ⟨s.setRcd .link 0 x, hnext.trans (congrArg _ (if_pos he)), rfl, fun i => ?_, hrest, fun _ => ⟨rfl, rfl⟩, fun hne => ?_⟩
    · rw [hself, hbits]
    · rw [State.fld, hself, State.fld] at hne
      exact absurd he.symm hne
  · refine ⟨{ s.setRcd .link 0 x with declared := [], reach := s.reach.filter (fun p => !s.declared.contains (p.1 / 64)) },
      hnext.trans (congrArg _ (if_neg he)), rfl, fun i => ?_, hrest, fun heq => ?_, fun _ => ⟨rfl, fun p => ?_⟩⟩
    · exact (congrArg (Nat.testBit · i) hself).trans (hbits i)
    · rw [State.fld, State.fld] at heq
      exact absurd (heq.symm.trans (congrArg Lnk.epoch.get hself)) he
    · simp

theorem recordWrite_power (h : s.place = .byteWrite pa v) (hin : inSys pa = true) (ha : sysAt pa = some (.power, n, k)) :
    let bit (i : ℕ) : Bool :=
      if 8 * k ≤ i ∧ i < 8 * k + 8 ∧ SysTab.power.rwMask.testBit i = true then v.getLsbD (i - 8 * k) else (s.rcd .power n).testBit i
    ∃ p, p < 2 ^ 13 ∧ (∀ i, i < 13 → p.testBit i = bit i) ∧
      let limit := max 2400 (min 4800 p)
      Runs .systemRecordWrite s (fun t => t.fld .power 0 Pwr.plimit = limit ∧ (∀ i, 13 ≤ i → (t.rcd .power 0).testBit i = bit i) ∧
        t = { s with sys := t.sys, agenda := s.agenda ++
          (if s.fld .power 0 Pwr.plimit = limit then [] else [.event (.plimit (BitVec.ofNat 13 limit)) .plimitWrite]) }) := by
  obtain rfl := sysAt_single ha rfl
  have hnext := recordWrite_next h hin ha
  obtain ⟨x, hx⟩ : ∃ x, x = SysTab.power.merge (s.rcd .power 0) k v := ⟨_, rfl⟩
  have hself := State.setRcd_rcd_self s .power 0 x
  have hbits (i : ℕ) := SysTab.testBit_merge .power (s.rcd .power 0) k v i
  rw [← hx] at hnext hbits
  refine ⟨Pwr.plimit.get x, Nat.mod_lt _ (by decide), fun i hi => ?_, ?_⟩
  · rw [Fld.testBit_get, hbits]
    simp [hi, Pwr.plimit]
  · intro limit
    have hlimit : limit < 2 ^ 13 := by omega
    obtain ⟨u, hu⟩ : ∃ u, u = (s.setRcd .power 0 x).setFld .power 0 Pwr.plimit limit := ⟨_, rfl⟩
    have hrcd : u.rcd .power 0 = Pwr.plimit.set x limit := by rw [hu, State.setFld_rcd_self, hself]
    have heq : u = { s with sys := u.sys } := by
      rw [hu]
      exact eq_of_sys_trans (s := s) (t := s.setRcd .power 0 x) rfl (State.setFld_eq _ _ _ _ _)
    rw [State.sysEffect_power] at hnext
    refine ⟨u.tasked _, hnext.trans (by rw [hu]; rfl), ?_, fun i hi => ?_, State.tasked_eq heq _⟩
    · rw [State.fld, State.tasked_rcd, hrcd, Fld.get_set_self]
      exact Nat.mod_eq_of_lt hlimit
    · rw [State.tasked_rcd, hrcd, Fld.testBit_set, if_neg (fun hb => absurd hb.2 (not_lt.mpr hi)), hbits]

theorem Mem.testBit_rwMask (i : ℕ) : SysTab.member.rwMask.testBit i = decide (i < 2) := by
  have hmask : SysTab.member.rwMask = 2 ^ 2 - 1 := by decide +kernel
  rw [hmask, Nat.testBit_two_pow_sub_one]

/-- Only byte 0 holds bits of a member's state. -/
theorem SysTab.member_merge (old k : ℕ) (v : Byte) :
    Mem.state.get (SysTab.member.merge old k v) = (if k = 0 then v.toNat % 4 else Mem.state.get old) ∧
    ∀ i, 2 ≤ i → (SysTab.member.merge old k v).testBit i = old.testBit i := by
  constructor
  · apply Nat.eq_of_testBit_eq
    intro i
    rw [Fld.testBit_get, SysTab.testBit_merge, Mem.testBit_rwMask]
    by_cases hk : k = 0
    · subst hk
      rw [if_pos rfl, show (4 : ℕ) = 2 ^ 2 from rfl, Nat.testBit_mod_two_pow]
      by_cases hi : i < 2
      · simp [Mem.state, hi, BitVec.getLsbD, show i < 8 by omega]
      · simp [Mem.state, hi]
    · rw [if_neg hk, Fld.testBit_get]
      by_cases hi : i < 2
      · rw [if_neg (by simp [Mem.state]; omega)]
      · simp [Mem.state, hi]
  · intro i hi
    rw [SysTab.testBit_merge, Mem.testBit_rwMask, if_neg (by simp; omega)]

theorem recordWrite_member (h : s.place = .byteWrite pa v) (hin : inSys pa = true) (ha : sysAt pa = some (.member, n, k)) :
    let was := s.fld .member n Mem.state
    let given := if k = 0 then v.toNat % 4 else was
    let is := if 2 ≤ given then was else given
    Runs .systemRecordWrite s (fun t => t.fld .member n Mem.state = is ∧
      (∀ i, 2 ≤ i → (t.rcd .member n).testBit i = (s.rcd .member n).testBit i) ∧
      t = { s with sys := t.sys, agenda := s.agenda ++ (if was = given then [] else [.event (.beat 0 n) .heartbeatPeriodMissed]) }) := by
  intro was given is
  have hwrite := recordWrite_next h hin ha
  obtain ⟨x, hx⟩ : ∃ x, x = SysTab.member.merge (s.rcd .member n) k v := ⟨_, rfl⟩
  obtain ⟨hmerge, hrest⟩ := SysTab.member_merge (s.rcd .member n) k v
  have hself := State.setRcd_rcd_self s .member n x
  rw [← hx] at hwrite hmerge hrest
  have hgiven : Mem.state.get x = given := hmerge
  rw [State.sysEffect_member, hgiven] at hwrite
  have hnext : exec .systemRecordWrite s = .next ((if 2 ≤ given then (s.setRcd .member n x).setFld .member n Mem.state was
      else s.setRcd .member n x).tasked (if was = given then [] else [.event (.beat 0 n) .heartbeatPeriodMissed])) := hwrite
  by_cases hg : 2 ≤ given
  · obtain ⟨u, hu⟩ : ∃ u, u = (s.setRcd .member n x).setFld .member n Mem.state was := ⟨_, rfl⟩
    have hrcd : u.rcd .member n = Mem.state.set x was := by rw [hu, State.setFld_rcd_self, hself]
    have heq : u = { s with sys := u.sys } := by
      rw [hu]
      exact eq_of_sys_trans (s := s) (t := s.setRcd .member n x) rfl (State.setFld_eq _ _ _ _ _)
    refine ⟨u.tasked _, hnext.trans (by rw [if_pos hg, hu]), ?_, fun i hi => ?_, State.tasked_eq heq _⟩
    · rw [State.fld, State.tasked_rcd, hrcd, Fld.get_set_self, show is = was from if_pos hg]
      exact Nat.mod_eq_of_lt (Nat.mod_lt _ (by decide))
    · rw [State.tasked_rcd, hrcd, Fld.testBit_set, if_neg (fun hb => absurd hb.2 (not_lt.mpr hi)), hrest i hi]
  · refine ⟨(s.setRcd .member n x).tasked _, hnext.trans (by rw [if_neg hg]), ?_, fun i hi => ?_, State.tasked_eq rfl _⟩
    · rw [State.fld, State.tasked_rcd, hself, hgiven, show is = given from if_neg hg]
    · rw [State.tasked_rcd, hself, hrest i hi]

/-! ## A change of the reserved trusses (R95, R96) -/

theorem rsvWrite_runs {x : DWord} (h : s.place = .rsv x) :
    let u := s.setFld .cox 0 Cox.rsv x.toNat
    Runs .rsvWrite s (fun t => t.agenda.getLast? = some (.event .none .coxChoose) ∧
      ((∀ p ∈ s.kernels, u.persistFits p.1 = true ∨ (s.kern p.1).unfitLogged = true) →
        t = { s with sys := t.sys, kernels := t.kernels, agenda := t.agenda } ∧ t.rsv = x.toNat % 2 ^ 28 ∧
        ∀ k y, s.kernels.get? k = some y → y.state = .ready → s.lch k Lch.persistent = 1 → (t.kern k).unfit = !u.persistFits k)) := by
  dsimp only
  have hexec := exec_rsvWrite h
  obtain ⟨u, hu⟩ : ∃ u, u = s.setFld .cox 0 Cox.rsv x.toNat := ⟨_, rfl⟩
  rw [← hu] at hexec ⊢
  have heq : u = { s with sys := u.sys } := by
    rw [hu]
    exact State.setFld_eq _ _ _ _ _
  have hkern (k : ℕ) : u.kern k = s.kern k := by rw [hu, State.setFld_kern]
  have hready (k : ℕ) : k ∈ u.ready ↔ ∃ y, (k, y) ∈ s.kernels ∧ y.state = .ready := by
    rw [hu]
    simp -implicitDefEqProofs [State.ready]
  have hrsv : u.rsv = x.toNat % 2 ^ 28 := by
    rw [hu, State.rsv, State.fld, State.setFld_rcd_self, Fld.get_set_self]
    rfl
  obtain ⟨w, hw⟩ : ∃ w, w = u.ready.foldl State.judgeFit u := ⟨_, rfl⟩
  rw [← hw] at hexec
  refine ⟨w.kick, hexec, List.getLast?_concat, fun hfit => ?_⟩
  obtain ⟨hjudges, hunfit⟩ := State.foldl_judgeFit u.ready u (fun k hk => by
    obtain ⟨y, hy, -⟩ := (hready k).mp hk
    rw [hkern]
    exact hfit (k, y) hy)
  rw [← hw] at hjudges hunfit
  refine ⟨?_, ?_, fun k y hk hy hp => ?_⟩
  · exact congrArg (fun t : State => { t with sys := w.sys, agenda := w.kick.agenda })
      (hjudges.eq.trans (congrArg (fun t : State => { t with kernels := w.kernels }) heq))
  · exact (State.fld_congr rfl .. : w.kick.rsv = w.rsv).trans (hjudges.rsv.trans hrsv)
  · exact hunfit k (by rw [State.lch, hkern, ← State.lch, hp]) (.inl ((hready k).mpr ⟨y, Tbl.mem_of_get? hk, hy⟩))

end

/-- Settles O46: the queue commands, each written byte by the table its record is in, and the reserved trusses. -/
theorem queuesAndRecords : Obligations.QueuesAndRecords := by
  unfold Obligations.QueuesAndRecords
  refine ⟨fun s q h hq => ?_, fun s => ⟨fun pa v h hn => recordWrite_ignored h hn, fun pa v tab n k h hin ha => ⟨?_, ?_, ?_, ?_⟩,
    fun v h => rsvWrite_runs h⟩⟩
  · exact ⟨s.queueValid_iff q, queueOpen_refused h, queueOpen_invalid h, queueOpen_runs h, queueHold_refused h, queueHold_runs h hq,
      queueRelease_refused h, queueRelease_runs h, fun hs => ⟨queueFlush_refused h hs, queueClose_refused h hs, queueReconf_refused h hs⟩,
      queueFlush_runs h hq, queueClose_busy h, queueClose_runs h, queueReconf_invalid h, queueReconf_runs h⟩
  · exact recordWrite_plain h hin ha
  · rintro rfl
    exact recordWrite_link h hin ha
  · rintro rfl
    exact recordWrite_power h hin ha
  · rintro rfl
    exact recordWrite_member h hin ha

end Sys2Proof.Laws
end

section
namespace Sys2Proof.Machine

open Claims

/-! ## What the host link changes (R102 to R106)

A message that goes out, an ack that comes in: these change the state of the link alone, and the waits of crews that wait for room in the
replay window. -/

/-- The link and the waits of crews change, and no held stroke. -/
structure Talks (s t : State) : Prop where
  eq : t = { s with host := t.host, crews := t.crews }
  held : ∀ ls, t.linesHeld ls = s.linesHeld ls

/-- No message of the host has been taken in or has left the inbox. -/
structure Relays (s t : State) : Prop extends Talks s t where
  nextIn : t.host.nextIn = s.host.nextIn
  inbox : t.host.inbox = s.host.inbox

section
variable {α : Type} {s t u : State}

theorem Talks.trans (h : Talks s t) (h' : Talks t u) : Talks s u :=
  ⟨h'.eq.trans (congrArg (fun x : State => { x with host := u.host, crews := u.crews }) h.eq), fun ls => (h'.held ls).trans (h.held ls)⟩

theorem Talks.mem (h : Talks s t) : t.mem = s.mem := by rw [h.eq]

theorem Talks.order (h : Talks s t) : t.order = s.order := by rw [h.eq]

theorem Talks.kernels (h : Talks s t) : t.kernels = s.kernels := by rw [h.eq]

theorem Talks.kern (h : Talks s t) (k : ℕ) : t.kern k = s.kern k := by rw [State.kern, h.kernels, State.kern]

theorem Talks.handle (h : Talks s t) (k : ℕ) : t.handle k = s.handle k := by rw [State.handle, h.kern, State.handle]

theorem Talks.fld (h : Talks s t) (tab : SysTab) (m : ℕ) (f : Fld) : t.fld tab m f = s.fld tab m f :=
  State.fld_congr (by rw [h.eq]) ..

/-- A change of the link alone. -/
theorem Talks.of_host (h : t = { s with host := t.host }) : Talks s t := by
  have hcrews : t.crews = s.crews := by rw [h]
  exact ⟨by rw [hcrews]; exact h, fun ls => by rw [State.linesHeld, hcrews, State.linesHeld]⟩

theorem Relays.refl (s : State) : Relays s s := ⟨.of_host rfl, rfl, rfl⟩

theorem Relays.trans (h : Relays s t) (h' : Relays t u) : Relays s u :=
  ⟨h.toTalks.trans h'.toTalks, h'.nextIn.trans h.nextIn, h'.inbox.trans h.inbox⟩

theorem Relays.ite {p : Prop} [Decidable p] (ht : Relays s t) (hu : Relays s u) : Relays s (if p then t else u) := by
  split <;> assumption

theorem Relays.foldl {f : State → α → State} (hf : ∀ s a, Relays s (f s a)) (as : List α) : Relays s (as.foldl f s) := by
  induction as generalizing s with
  | nil => exact .refl s
  | cons a as ih => exact (hf s a).trans ih

/-! ### Messages of the module -/

theorem State.emit_relays (s : State) (m : OutMsg) : Relays s (s.emit m) := ⟨.of_host rfl, rfl, rfl⟩

theorem State.sendSeq_relays (s : State) (typ ctx : ℕ) (body : List Byte) : Relays s (s.sendSeq typ ctx body) := ⟨.of_host rfl, rfl, rfl⟩

theorem State.sendPlain_relays (s : State) (typ ctx : ℕ) (body : List Byte) : Relays s (s.sendPlain typ ctx body) := s.emit_relays _

theorem State.sendOrWait_relays (s : State) (typ ctx : ℕ) (body : List Byte) : Relays s (s.sendOrWait typ ctx body) :=
  .ite ⟨.of_host rfl, rfl, rfl⟩ (s.sendSeq_relays typ ctx body)

theorem State.answerAck_relays (s : State) : Relays s s.answerAck := .ite (s.sendPlain_relays _ _ _) (.refl s)

theorem State.resend_relays (s : State) (lost : Bool) : Relays s (s.resend lost) :=
  Relays.trans (t := { s with host := { s.host with lastAdvance := s.clock } }) ⟨.of_host rfl, rfl, rfl⟩
    (.foldl (fun t _ => t.emit_relays _) _)

/-- What goes to the host last stands last among what has been sent, or among what waits. -/
theorem tells_sendOrWait (s : State) (typ ctx : ℕ) (body : List Byte) : Tells (s.sendOrWait typ ctx body) typ ctx body := by
  unfold State.sendOrWait
  split
  · exact ⟨⟨typ, 0, 0, 0, ctx, body⟩, rfl, rfl, rfl, .inr List.getLast?_concat⟩
  · exact ⟨⟨typ, 0, s.host.nextOut, s.host.nextIn, ctx, body⟩, rfl, rfl, rfl, .inl List.getLast?_concat⟩

theorem tells_sendPlain (s : State) (typ ctx : ℕ) (body : List Byte) : Tells (s.sendPlain typ ctx body) typ ctx body :=
  ⟨⟨typ, 1, 0, s.host.nextIn, ctx, body⟩, rfl, rfl, rfl, .inl List.getLast?_concat⟩

/-- No ACK goes out behind a message that has carried the ack. -/
theorem tells_answerAck (s : State) (typ ctx : ℕ) (body : List Byte) : Tells (s.sendOrWait typ ctx body).answerAck typ ctx body := by
  by_cases hw : (s.windowFull || !s.host.waiting.isEmpty) = true
  · have hlast : (s.sendOrWait typ ctx body).answerAck.host.waiting.getLast? = some ⟨typ, 0, 0, 0, ctx, body⟩ := by
      rw [State.sendOrWait, if_pos hw, State.answerAck]
      split <;> exact List.getLast?_concat
    exact ⟨_, rfl, rfl, rfl, .inr hlast⟩
  · have hsent : (s.sendOrWait typ ctx body).answerAck = s.sendSeq typ ctx body := by
      rw [State.sendOrWait, if_neg hw]
      exact if_neg (by simp [State.sendSeq, State.emit])
    rw [hsent]
    exact ⟨⟨typ, 0, s.host.nextOut, s.host.nextIn, ctx, body⟩, rfl, rfl, rfl, .inl List.getLast?_concat⟩

/-! ### Acks of the host -/

theorem State.sendWaiting_relays (fuel : ℕ) (s : State) : Relays s (State.sendWaiting fuel s) := by
  induction fuel generalizing s with
  | zero => exact .refl s
  | succ f ih =>
    unfold State.sendWaiting
    split
    · exact .refl s
    · next m rest _ =>
      refine .ite (.refl s) (.trans ?_ (ih _))
      exact Relays.trans (t := { s with host := { s.host with waiting := rest } }) ⟨.of_host rfl, rfl, rfl⟩ (State.sendSeq_relays _ _ _ _)

theorem State.wakeNotify_relays (s : State) : Relays s s.wakeNotify := by
  refine ⟨⟨rfl, fun ls => ?_⟩, rfl, rfl⟩
  unfold State.linesHeld State.wakeNotify
  rw [List.any_map]
  refine congrArg (List.any s.crews) (funext fun p => ?_)
  simp only [Function.comp]
  split <;> rfl

theorem State.acknowledge_relays (s : State) (ack : ℕ) : Relays s (s.acknowledge ack) := by
  unfold State.acknowledge
  refine .trans (.trans ?_ (State.sendWaiting_relays _ _)) (State.wakeNotify_relays _)
  exact ⟨.of_host rfl, rfl, rfl⟩

theorem State.takeAck_relays (s : State) (ack : ℕ) : Relays s (s.takeAck ack) := .ite (s.acknowledge_relays ack) (.refl s)

/-- The message's ack and number have been taken. -/
theorem taken_talks (s : State) (m : HostMsg) : Talks s (taken s m) := by
  unfold taken
  split
  · exact .of_host rfl
  · exact (s.takeAck_relays m.ack).toTalks.trans (.of_host rfl)

/-! ### Well-formed messages -/

theorem HostMsg.unsequenced_of_ok {m : HostMsg} (h : m.ok = true) : m.unsequenced = (decide (m.typ = 0) || decide (m.typ = 5)) := by
  simp only [HostMsg.ok, Bool.and_eq_true, beq_iff_eq] at h
  obtain ⟨⟨⟨-, hu⟩, -⟩, -⟩ := h.1
  exact hu

end

end Sys2Proof.Machine
end

section
namespace Sys2Proof.Machine

open Claims

/-! ## A message of the host in its turn (R104, R105) -/

section
variable {s t : State} {m : HostMsg} {typ : ℕ} {sel : HostMsg → Bool} {f : State → HostMsg → Option State} {P : State → Prop} {i : Instr}

/-- What performs a message in its turn: as the first of those that wait, or as it arrives. -/
theorem hostMessage_turn (h : Arrives s m typ) (hsel : sel m = true) (hu : m.unsequenced = false) : hostMessage s sel f =
    .next (if s.host.inbox.head? = some m then (f (taken s m) m).getD s
      else ((f (taken s m) m).getD ((taken s m).keepIn m)).answerAck) := by
  unfold hostMessage taken
  rw [h.place]
  dsimp only
  rw [if_neg (not_not.mpr h.up)]
  by_cases hh : s.host.inbox.head? = some m
  · simp only [if_pos hh, h.ok, hsel]
    rfl
  · obtain ⟨hinbox, hseq⟩ := h.turn.resolve_right hh
    have hnone : (s.takeAck m.ack).consume.host.inbox = [] := ((s.takeAck_relays m.ack).inbox).trans hinbox
    simp only [if_neg hh, h.ok, hsel, hu, if_neg (not_not.mpr hseq), hnone]
    rfl

/-- A message that is performed, with the ACK that is owed for it. -/
theorem runs_of_performed (h : Arrives s m typ) (hx : exec i s = hostMessage s sel f) (hsel : sel m = true) (hu : m.unsequenced = false)
    (hf : f (taken s m) m = some t) (hP : P t) (hP' : P t.answerAck) : Runs i s P := by
  rw [Runs, hx, hostMessage_turn h hsel hu, hf]
  split
  · exact ⟨t, rfl, hP⟩
  · exact ⟨t.answerAck, rfl, hP'⟩

/-- A message that must wait stands in the inbox. -/
theorem runs_of_waits (h : Arrives s m typ) (hx : exec i s = hostMessage s sel f) (hsel : sel m = true) (hu : m.unsequenced = false)
    (hf : f (taken s m) m = none) :
    Runs i s (fun t => t.mem = s.mem ∧ m ∈ t.host.inbox ∧ t.host.nextIn = (taken s m).host.nextIn) := by
  rw [Runs, hx, hostMessage_turn h hsel hu, hf]
  split
  · next hh =>
    refine ⟨s, rfl, rfl, List.mem_of_mem_head? hh, ?_⟩
    rw [taken, if_pos hh]
    rfl
  · have hkept := ((taken s m).keepIn m).answerAck_relays
    refine ⟨_, rfl, hkept.mem.trans (taken_talks s m).mem, ?_, hkept.nextIn⟩
    rw [Option.getD_none, hkept.inbox]
    exact List.mem_append_right _ (List.mem_singleton.mpr rfl)

theorem arrives_unsequenced (h : Arrives s m typ) (h0 : typ ≠ 0) (h5 : typ ≠ 5) : m.unsequenced = false := by
  rw [HostMsg.unsequenced_of_ok h.ok, h.typ]
  simp [h0, h5]

/-! ### What a write leaves of the link -/

theorem State.crews_of_aside (h : t.aside = s.aside) : t.crews = s.crews :=
  (congrArg (fun p => p.1.crews) h : _)

theorem State.order_of_aside (h : t.aside = s.aside) : t.order = s.order :=
  (congrArg (fun p => p.1.order) h : _)

theorem State.host_of_aside (h : t.aside = s.aside) : t.host = s.host :=
  (congrArg (fun p => p.1.host) h : _)

theorem State.linesHeld_of_aside (h : t.aside = s.aside) (ls : List ℕ) : t.linesHeld ls = s.linesHeld ls := by
  rw [State.linesHeld, State.crews_of_aside h, State.linesHeld]

theorem State.hostWritable_aside (s : State) (ctx va n : ℕ) : (s.hostWritable ctx va n).aside = s.aside := by
  unfold State.hostWritable
  split
  · rfl
  · exact State.foldl_aside (fun _ _ => State.makeWritable_aside _ _) _

theorem State.broadcast_fields (s : State) (ls : List ℕ) (x : Option ℕ) :
    (s.broadcast ls x).mem = s.mem ∧ (s.broadcast ls x).order = s.order ∧ (s.broadcast ls x).host = s.host := by
  unfold State.broadcast
  split <;> exact ⟨rfl, rfl, rfl⟩

/-- Memory, the order of the strokes and the messages taken in are as the write has left them. -/
def State.Wrote (w t : State) (l : List (ℕ × Hit × ℕ)) (bs : List Byte) : Prop :=
  t.mem = (w.drawOrder.writePieces l bs).mem ∧ t.order = w.order + 1 ∧ t.host.nextIn = w.host.nextIn

theorem State.wrote_broadcast (w : State) (l : List (ℕ × Hit × ℕ)) (bs : List Byte) (ls : List ℕ) (x : Option ℕ) :
    w.Wrote ((w.drawOrder.writePieces l bs).broadcast ls x) l bs := by
  obtain ⟨hmem, horder, hhost⟩ := (w.drawOrder.writePieces l bs).broadcast_fields ls x
  have haside : (w.drawOrder.writePieces l bs).aside = w.drawOrder.aside := State.writePieces_aside l bs
  have hlink : (w.drawOrder.writePieces l bs).host = w.host := (State.host_of_aside haside).trans rfl
  exact ⟨hmem, horder.trans (State.order_of_aside haside), by rw [hhost, hlink]⟩

theorem State.Wrote.relays {w u : State} {l : List (ℕ × Hit × ℕ)} {bs : List Byte} (h : w.Wrote t l bs) (hr : Relays t u) : w.Wrote u l bs := by
  obtain ⟨hmem, horder, hnext⟩ := h
  exact ⟨hr.mem.trans hmem, hr.order.trans horder, hr.nextIn.trans hnext⟩

end

end Sys2Proof.Machine
end

section
namespace Sys2Proof.Laws

open Machine Claims

section
variable {s : State} {m : HostMsg}

/-! ## WRITE (R104) -/

section
variable {l : List (ℕ × Hit × ℕ)} (h : Arrives s m 1)
  (hl : ((taken s m).hostWritable m.ctx (m.at_ 0 8) (m.body.drop 8).length).hostReach m.ctx (m.at_ 0 8) (m.body.drop 8).length .write = .ok l)
include h hl

theorem plofoWrite_writes
    (hheld : ((taken s m).hostWritable m.ctx (m.at_ 0 8) (m.body.drop 8).length).linesHeld (linesOfPieces l) = false) :
    Runs .plofoWrite s (fun t => ((taken s m).hostWritable m.ctx (m.at_ 0 8) (m.body.drop 8).length).Wrote t l (m.body.drop 8)) := by
  rw [State.linesHeld_of_aside (State.hostWritable_aside _ _ _ _)] at hheld
  have hwrote := State.wrote_broadcast ((taken s m).hostWritable m.ctx (m.at_ 0 8) (m.body.drop 8).length) l (m.body.drop 8) (linesOfPieces l) none
  refine runs_of_performed h (by unfold exec execPlofoWrite; rfl) (by simp [h.typ])
    (arrives_unsequenced h (by decide) (by decide)) ?_ hwrote (hwrote.relays (State.answerAck_relays _))
  simp only [hl, hheld]
  rfl

theorem plofoWrite_waits
    (hheld : ((taken s m).hostWritable m.ctx (m.at_ 0 8) (m.body.drop 8).length).linesHeld (linesOfPieces l) = true) :
    Runs .plofoWrite s (fun t => t.mem = s.mem ∧ m ∈ t.host.inbox ∧ t.host.nextIn = (taken s m).host.nextIn) := by
  rw [State.linesHeld_of_aside (State.hostWritable_aside _ _ _ _)] at hheld
  refine runs_of_waits h (by unfold exec execPlofoWrite; rfl) (by simp [h.typ]) (arrives_unsequenced h (by decide) (by decide)) ?_
  simp only [hl, hheld, if_true]

end

/-! ## READ (R104) -/

theorem plofoRead_answers {l : List (ℕ × Hit × ℕ)} (h : Arrives s m 2)
    (hl : (taken s m).hostReach m.ctx (m.at_ 0 8) (m.at_ 8 4) .read = .ok l) (hheld : (taken s m).linesHeld (linesOfPieces l) = false) :
    Runs .plofoRead s (fun t => Tells t 0x82 m.ctx (toBytes 8 m.seq ++ (taken s m).readPieces l) ∧ t.mem = s.mem ∧ t.order = s.order + 1 ∧
      t.host.nextIn = (taken s m).host.nextIn) := by
  obtain ⟨u, hu⟩ : ∃ u, u = taken s m := ⟨_, rfl⟩
  have htaken : Talks s u := hu ▸ taken_talks s m
  rw [← hu] at hl hheld ⊢
  obtain ⟨body, hbody⟩ : ∃ body, body = toBytes 8 m.seq ++ u.readPieces l := ⟨_, rfl⟩
  have hsent := u.drawOrder.sendOrWait_relays 0x82 m.ctx body
  have hacked := hsent.trans (State.answerAck_relays _)
  refine runs_of_performed (t := u.drawOrder.sendOrWait 0x82 m.ctx body) h (by unfold exec execPlofoRead; rfl) (by simp [h.typ])
    (arrives_unsequenced h (by decide) (by decide)) ?_
    ⟨?_, ?_, ?_, ?_⟩ ⟨?_, ?_, ?_, ?_⟩
  · rw [← hu]
    simp only [hl, hheld, hbody]
    rfl
  · exact hbody ▸ tells_sendOrWait _ _ _ _
  · exact hsent.mem.trans htaken.mem
  · rw [hsent.order, ← htaken.order]
    rfl
  · exact hsent.nextIn
  · exact hbody ▸ tells_answerAck _ _ _ _
  · exact hacked.mem.trans htaken.mem
  · rw [hacked.order, ← htaken.order]
    rfl
  · exact hacked.nextIn

/-! ## LAUNCH (R99, R104) -/

theorem State.postKernel_host (u : State) (k q launch : ℕ) (deps : List Dep) : (u.postKernel k q launch deps).host = u.host := by
  simp -implicitDefEqProofs [State.postKernel]

theorem taken_ctxThere (hc : m.ctx = 0xFFFF ∨ s.ctxThere m.ctx = true) : ¬(m.ctx ≠ 0xFFFF ∧ (taken s m).ctxThere m.ctx = false) := by
  have hthere : (taken s m).ctxThere m.ctx = s.ctxThere m.ctx := by
    simp only [State.ctxThere, (taken_talks s m).fld]
  rw [hthere]
  rintro ⟨hne, hno⟩
  rw [hno] at hc
  exact hc.elim hne Bool.false_ne_true

section
variable (h : Arrives s m 3) (hc : m.ctx = 0xFFFF ∨ s.ctxThere m.ctx = true)
include h hc

theorem plofoLaunch_posts {k : ℕ} {deps : List Dep}
    (ht : (taken s m).launchTest m.ctx (m.at_ 8 256) Que.host (decide (m.at_ 0 2 = Lch.queue.get (m.at_ 8 256))) (Lch.queue.get (m.at_ 8 256)) =
      .post k deps) :
    Runs .plofoLaunch s (fun t => (t.kern k).state = .posted ∧ (t.kern k).launch = m.at_ 8 256 ∧
      (t.kern k).queue = Lch.queue.get (m.at_ 8 256) ∧ (t.kern k).deps = deps ∧ t.host.nextIn = (taken s m).host.nextIn ∧
      Tells t 0x81 m.ctx (completionBody m.seq 0 0 (t.handle k) 0 0)) := by
  obtain ⟨p, hp⟩ : ∃ p, p = (taken s m).postKernel k (Lch.queue.get (m.at_ 8 256)) (m.at_ 8 256) deps := ⟨_, rfl⟩
  have hkern := State.postKernel_kern_self (taken s m) k (Lch.queue.get (m.at_ 8 256)) (m.at_ 8 256) deps
  rw [← hp] at hkern
  have hnext : p.host.nextIn = (taken s m).host.nextIn := by rw [hp, State.postKernel_host]
  have hsent := p.sendOrWait_relays 0x81 m.ctx (completionBody m.seq 0 0 (p.handle k) 0 0)
  have hacked := hsent.trans (State.answerAck_relays _)
  have hposted {t : State} (hr : Relays p t) : (t.kern k).state = .posted ∧ (t.kern k).launch = m.at_ 8 256 ∧
      (t.kern k).queue = Lch.queue.get (m.at_ 8 256) ∧ (t.kern k).deps = deps ∧ t.host.nextIn = (taken s m).host.nextIn := by
    rw [hr.kern, hkern, hr.nextIn, hnext]
    exact ⟨rfl, rfl, rfl, rfl, rfl⟩
  have hall {t : State} (hr : Relays p t) (htells : Tells t 0x81 m.ctx (completionBody m.seq 0 0 (p.handle k) 0 0)) :
      (t.kern k).state = .posted ∧ (t.kern k).launch = m.at_ 8 256 ∧ (t.kern k).queue = Lch.queue.get (m.at_ 8 256) ∧
      (t.kern k).deps = deps ∧ t.host.nextIn = (taken s m).host.nextIn ∧ Tells t 0x81 m.ctx (completionBody m.seq 0 0 (t.handle k) 0 0) := by
    obtain ⟨h1, h2, h3, h4, h5⟩ := hposted hr
    exact ⟨h1, h2, h3, h4, h5, by rwa [hr.handle]⟩
  refine runs_of_performed h (by unfold exec execPlofoLaunch; rfl) (by simp [h.typ]) (arrives_unsequenced h (by decide) (by decide)) ?_
    (hall hsent (tells_sendOrWait _ _ _ _)) (hall hacked (tells_answerAck _ _ _ _))
  simp only [if_neg (taken_ctxThere hc), ht, ← hp]
  rfl

theorem plofoLaunch_refused {st : ℕ}
    (ht : (taken s m).launchTest m.ctx (m.at_ 8 256) Que.host (decide (m.at_ 0 2 = Lch.queue.get (m.at_ 8 256))) (Lch.queue.get (m.at_ 8 256)) =
      .refused st) :
    Runs .plofoLaunch s (fun t => t.kernels = s.kernels ∧ Tells t 0x81 m.ctx (completionBody m.seq 0 st 0 0 0)) := by
  have hsent := (taken s m).sendOrWait_relays 0x81 m.ctx (completionBody m.seq 0 st 0 0 0)
  have hacked := hsent.trans (State.answerAck_relays _)
  have hkernels := (taken_talks s m).kernels
  refine runs_of_performed h (by unfold exec execPlofoLaunch; rfl) (by simp [h.typ]) (arrives_unsequenced h (by decide) (by decide)) ?_
    ⟨hsent.kernels.trans hkernels, tells_sendOrWait _ _ _ _⟩ ⟨hacked.kernels.trans hkernels, tells_answerAck _ _ _ _⟩
  simp only [if_neg (taken_ctxThere hc), ht]
  rfl

end

end

end Sys2Proof.Laws
end

section
namespace Sys2Proof.Machine

open Claims

/-! ## A range of physical memory (R102) -/

section
variable {s : State}

theorem Memory.writes_append (m : Memory) (pa : ℕ) (xs ys : List Byte) :
    Memory.writes m pa (xs ++ ys) = Memory.writes (Memory.writes m pa xs) (pa + xs.length) ys := by
  induction xs generalizing m pa with
  | nil => rfl
  | cons x xs ih =>
    rw [List.cons_append, Memory.writes, ih, Memory.writes, List.length_cons, Nat.add_assoc, Nat.add_comm 1]

/-- The pieces of a range lie in it. -/
theorem mem_piecesOf {fuel va n : ℕ} {p : ℕ × ℕ} (h : p ∈ piecesOf fuel va n) : va ≤ p.1 ∧ p.1 + p.2 ≤ va + n := by
  induction fuel generalizing va n with
  | zero => cases h
  | succ f ih =>
    unfold piecesOf at h
    split at h
    · cases h
    · rcases List.mem_cons.mp h with rfl | h
      · dsimp only
        omega
      · have := ih h
        omega

/-- A piece of physical memory as a translated one. -/
def physical (p : ℕ × ℕ) : ℕ × Hit × ℕ := (p.1, ⟨p.1, 0, false, false, false⟩, p.2)

/-- The pieces of a range of physical memory, written one after another, hold its bytes. -/
theorem State.writePieces_physical (fuel : ℕ) {va : ℕ} (bs : List Byte) (hva : 0x200_0000 ≤ va)
    (hfuel : bs.length = 0 ∨ bs.length + va % 4096 ≤ 4096 * fuel) :
    (s.writePieces ((piecesOf fuel va bs.length).map physical) bs).mem = Memory.writes s.mem va bs := by
  induction fuel generalizing s va bs with
  | zero =>
    have hnil : bs = [] := List.length_eq_zero_iff.mp (by omega)
    rw [hnil]
    rfl
  | succ f ih =>
    unfold piecesOf
    split
    · next h0 =>
      rw [List.length_eq_zero_iff.mp h0]
      rfl
    · next h0 =>
      obtain ⟨k, hk⟩ : ∃ k, k = min bs.length (4096 - va % 4096) := ⟨_, rfl⟩
      have hsys : inSys va = false := decide_eq_false (by omega)
      have hlen : bs.length - k = (bs.drop k).length := (List.length_drop ..).symm
      have htake : (bs.take k).length = k := List.length_take_of_le (by omega)
      dsimp only
      rw [← hk, hlen, List.map_cons, State.writePieces]
      change (State.writePieces (s.write va (bs.take k)) _ (bs.drop k)).mem = _
      rw [ih (bs.drop k) (by omega) (by rw [← hlen]; omega), State.write, hsys, if_neg (by decide)]
      conv_rhs => rw [← List.take_append_drop k bs, Memory.writes_append, htake]

theorem mem_addLines {ls new : List ℕ} {l : ℕ} : l ∈ addLines ls new ↔ l ∈ ls ∨ l ∈ new := by
  induction new generalizing ls with
  | nil => simp [addLines]
  | cons x new ih =>
    have hstep : addLines ls (x :: new) = addLines (if ls.contains x then ls else ls ++ [x]) new := rfl
    rw [hstep, ih, List.mem_cons]
    split
    · next hx =>
      have hmem : x ∈ ls := by simpa using hx
      constructor
      · tauto
      · rintro (h | rfl | h)
        · exact .inl h
        · exact .inl hmem
        · exact .inr h
    · rw [List.mem_append, List.mem_singleton, or_assoc]

/-- The lines of the pieces of a range of physical memory are lines of the range. -/
theorem mem_lines_of_physical {fuel va n l : ℕ} (h : l ∈ linesOfPieces ((piecesOf fuel va n).map physical)) :
    l ∈ (List.range ((va + n - 1) / 128 + 1 - va / 128)).map (fun i => va / 128 + i) := by
  simp only [linesOfPieces, mem_addLines, List.mem_flatMap, List.mem_map, List.mem_range, List.not_mem_nil, false_or, physical] at h ⊢
  obtain ⟨_, ⟨p, hp, rfl⟩, i, hi, rfl⟩ := h
  obtain ⟨hlo, hhi⟩ := mem_piecesOf hp
  dsimp only at hi ⊢
  exact ⟨p.1 / 128 + i - va / 128, by omega, by omega⟩

/-- Fewer lines are held by no more strokes. -/
theorem State.linesHeld_mono {ls ls' : List ℕ} (h : ∀ l ∈ ls', l ∈ ls) (hf : s.linesHeld ls = false) : s.linesHeld ls' = false := by
  rw [State.linesHeld, List.any_eq_false] at hf ⊢
  intro p hp hheld
  refine hf p hp ?_
  simp only [Bool.and_eq_true, List.any_eq_true] at hheld ⊢
  obtain ⟨hready, l, hl, hset⟩ := hheld
  exact ⟨hready, l, h l hl, hset⟩

end

/-! ## Messages out of turn, and those without a number -/

section
variable {s t : State} {m : HostMsg} {sel : HostMsg → Bool} {f : State → HostMsg → Option State}

/-- The module that judges a message: one that has waited leaves the inbox. -/
theorem judged_eq (s : State) (m : HostMsg) : ∃ l, (if s.host.inbox.head? = some m then s.dropIn m else s) =
    { s with host := { s.host with inbox := l } } := by
  split
  · exact ⟨_, rfl⟩
  · exact ⟨_, rfl⟩

/-- A message with U set is performed on arrival. -/
theorem hostMessage_unsequenced (h : s.place = .host m) (hup : s.power = .up) (hok : m.ok = true) (hsel : sel m = true)
    (hu : m.unsequenced = true) :
    ∃ l, hostMessage s sel f = .next ((f { s with host := { s.host with inbox := l } } m).getD s) := by
  obtain ⟨l, hl⟩ := judged_eq s m
  refine ⟨l, ?_⟩
  rw [← hl, hostMessage, h]
  dsimp only
  rw [if_neg (not_not.mpr hup)]
  by_cases hh : s.host.inbox.head? = some m
  · simp only [if_pos hh, hok, hsel]
    rfl
  · simp only [if_neg hh, hok, hsel, hu]
    rfl

/-- A message with another number than the next is not performed. -/
theorem hostMessage_other (h : s.place = .host m) (hup : s.power = .up) (hok : m.ok = true) (hu : m.unsequenced = false)
    (hseq : m.seq ≠ s.host.nextIn) (hh : s.host.inbox.head? ≠ some m) :
    hostMessage s sel f = .next s ∨ hostMessage s sel f = .next (s.takeAck m.ack) := by
  unfold hostMessage
  rw [h]
  dsimp only
  rw [if_neg (not_not.mpr hup), if_neg hh, if_neg (by simp [hok])]
  cases hsel : sel m with
  | false => exact .inl rfl
  | true =>
    right
    rw [hu, if_pos hseq]
    rfl

/-- A message with the next number, behind others that wait. -/
theorem hostMessage_behind (h : s.place = .host m) (hup : s.power = .up) (hok : m.ok = true) (hu : m.unsequenced = false)
    (hseq : m.seq = s.host.nextIn) (hne : s.host.inbox ≠ []) (hh : s.host.inbox.head? ≠ some m) (hsel : sel m = true) :
    hostMessage s sel f = .next (((s.takeAck m.ack).consume.keepIn m).answerAck) := by
  have hinbox : (s.takeAck m.ack).consume.host.inbox.isEmpty = false := by
    rw [show (s.takeAck m.ack).consume.host.inbox = s.host.inbox from (s.takeAck_relays m.ack).inbox]
    simpa using hne
  unfold hostMessage
  rw [h]
  dsimp only
  rw [if_neg (not_not.mpr hup), if_neg hh, if_neg (by simp [hok]), if_neg (by simp [hsel]), hu, if_neg (by decide),
    if_neg (not_not.mpr hseq), hinbox, Bool.not_false, if_pos rfl]

/-- A malformed message in its turn. -/
theorem hostMessage_malformed (h : s.place = .host m) (hup : s.power = .up) (hok : m.ok = false) (hinbox : s.host.inbox = []) :
    (m.typ = 0 → hostMessage s sel f = .next s) ∧
    (m.typ ≠ 0 → m.unsequenced = false → m.seq = s.host.nextIn → hostMessage s sel f = .next ((s.consume.hostFail m 3).answerAck)) := by
  unfold hostMessage
  rw [h]
  dsimp only
  rw [if_neg (not_not.mpr hup), hinbox, if_neg (by simp), hok, Bool.not_false, if_pos rfl]
  refine ⟨fun h0 => if_pos h0, fun h0 hu hseq => ?_⟩
  rw [if_neg h0, hu, if_neg (by decide), if_neg (not_not.mpr hseq), List.isEmpty_nil, if_pos rfl]

/-- A well-formed message has one of the types. -/
theorem HostMsg.typ_of_ok (h : m.ok = true) : m.typ ≤ 5 ∧ (m.typ = 4 → m.at_ 8 1 ≤ 1) := by
  simp only [HostMsg.ok, Bool.and_eq_true] at h
  obtain ⟨-, hbody⟩ := h
  split at hbody <;> simp_all

/-- Every well-formed sequenced message is of the type that its step performs. -/
theorem exec_event (s : State) (hok : m.ok = true) (hu : m.unsequenced = false) :
    ∃ sel f, exec m.event s = hostMessage s sel f ∧ sel m = true := by
  obtain ⟨h5, hsignal⟩ := HostMsg.typ_of_ok hok
  rw [HostMsg.unsequenced_of_ok hok, Bool.or_eq_false_iff, decide_eq_false_iff_not, decide_eq_false_iff_not] at hu
  obtain h1 | h2 | h3 | h4 : m.typ = 1 ∨ m.typ = 2 ∨ m.typ = 3 ∨ m.typ = 4 := by omega
  · rw [show m.event = .plofoWrite by rw [HostMsg.event, h1]; rfl]
    exact ⟨_, _, by unfold exec execPlofoWrite; rfl, decide_eq_true h1⟩
  · rw [show m.event = .plofoRead by rw [HostMsg.event, h2]; rfl]
    exact ⟨_, _, by unfold exec execPlofoRead; rfl, decide_eq_true h2⟩
  · rw [show m.event = .plofoLaunch by rw [HostMsg.event, h3]; rfl]
    exact ⟨_, _, by unfold exec execPlofoLaunch; rfl, decide_eq_true h3⟩
  · rcases Nat.le_one_iff_eq_zero_or_eq_one.mp (hsignal h4) with h0 | h1
    · rw [show m.event = .plofoSignalArrive by rw [HostMsg.event, h4]; exact if_neg (by omega)]
      exact ⟨_, _, by unfold exec execPlofoSignalArrive; rfl, by simp [h4, h0]⟩
    · rw [show m.event = .plofoSignalRaise by rw [HostMsg.event, h4]; exact if_pos h1]
      exact ⟨_, _, by unfold exec execPlofoSignalRaise; rfl, by simp [h4, h1]⟩

/-! ### Messages sent again (R105) -/

theorem State.foldl_emit {α : Type} (g : α → OutMsg) (l : List α) (s : State) : ∃ owes, l.foldl (fun s a => s.emit (g a)) s =
    { s with host := { s.host with sent := s.host.sent ++ l.map (fun a => { g a with ack := s.host.nextIn }), owesAck := owes } } := by
  induction l generalizing s with
  | nil => exact ⟨s.host.owesAck, by simp⟩
  | cons a l ih =>
    obtain ⟨owes, h⟩ := ih (s.emit (g a))
    refine ⟨owes, h.trans ?_⟩
    simp [State.emit]

/-- The window goes out again in order, with the present ack. -/
theorem State.resend_eq (s : State) (lost : Bool) : ∃ sent owes, s.resend lost =
      { s with host := { s.host with lastAdvance := s.clock, sent := s.host.sent ++ sent, owesAck := owes } } ∧
    sent.map (fun o => (o.seq, o.body, o.ack)) = s.host.window.map (fun o => (o.seq, o.body, s.host.nextIn)) := by
  obtain ⟨owes, h⟩ := State.foldl_emit (fun p : OutMsg × ℕ => { p.1 with flags := if lost ∧ p.2 = 0 then 2 else 0 })
    (s.host.window.zip (List.range s.host.window.length)) { s with host := { s.host with lastAdvance := s.clock } }
  refine ⟨_, owes, h, ?_⟩
  rw [List.map_map]
  conv_rhs => rw [← List.map_fst_zip (l₁ := s.host.window) (l₂ := List.range s.host.window.length) (by simp), List.map_map]
  rfl

/-- What the host sees of the messages sent again. -/
theorem State.resend_sent (s : State) (lost : Bool) : (s.resend lost).host.sent.take s.host.sent.length = s.host.sent ∧
    ((s.resend lost).host.sent.drop s.host.sent.length).map (fun o => (o.seq, o.body, o.ack)) =
      s.host.window.map (fun o => (o.seq, o.body, s.host.nextIn)) := by
  obtain ⟨sent, owes, h, hsent⟩ := s.resend_eq lost
  rw [h]
  refine ⟨List.take_left' rfl, ?_⟩
  rw [List.drop_left' rfl, hsent]

/-! ### Frames (R102) -/

theorem State.accepts_eq_false_iff (s : State) (x : EthFrame) : s.accepts x = false ↔
    x.dst ≠ s.mac ∨ x.src ≠ s.hostMac ∨ x.etype ≠ 0x88B5 ∨ x.fcsOk = false ∨
      (if x.tagged then 1522 else 1518) < 18 + (if x.tagged then 4 else 0) + max 46 (32 + x.msg.body.length) := by
  simp only [State.accepts, Bool.and_eq_false_iff, decide_eq_false_iff_not, or_assoc, not_le, ne_eq]
  rfl

end

end Sys2Proof.Machine
end

section
namespace Sys2Proof.Laws

open Machine Claims

section
variable {s : State} {m : HostMsg}

theorem Runs.mono {i : Instr} {P Q : State → Prop} (h : Runs i s P) (hPQ : ∀ t, P t → Q t) : Runs i s Q := by
  obtain ⟨t, ht, hP⟩ := h
  exact ⟨t, ht, hPQ t hP⟩

/-- A WRITE to physical memory writes its bytes. -/
theorem plofoWrite_physical (h : Arrives s m 1) (hc : m.ctx = 0xFFFF) (hlo : 0x200_0000 ≤ m.at_ 0 8)
    (hhi : m.at_ 0 8 + (m.body.drop 8).length ≤ 2 ^ 39)
    (hheld : s.linesHeld ((List.range ((m.at_ 0 8 + (m.body.drop 8).length - 1) / 128 + 1 - m.at_ 0 8 / 128)).map
      (fun i => m.at_ 0 8 / 128 + i)) = false) :
    Runs .plofoWrite s (fun t => t.mem = Memory.writes s.mem (m.at_ 0 8) (m.body.drop 8) ∧ t.order = s.order + 1) := by
  have htaken := taken_talks s m
  have hsame : (taken s m).hostWritable m.ctx (m.at_ 0 8) (m.body.drop 8).length = taken s m := if_pos (by simp [hc])
  have hreach (u : State) : u.hostReach m.ctx (m.at_ 0 8) (m.body.drop 8).length .write =
      .ok ((pieces (m.at_ 0 8) (m.body.drop 8).length).map physical) := (if_pos hc).trans (if_pos hhi)
  refine Runs.mono (plofoWrite_writes h (hreach _) ?_) (fun t ⟨hmem, horder, _⟩ => ⟨?_, ?_⟩)
  · rw [hsame, htaken.held]
    exact State.linesHeld_mono (fun l hl => mem_lines_of_physical hl) hheld
  · rw [hmem, hsame, pieces, State.writePieces_physical _ _ hlo (.inr (by omega))]
    exact congrArg (Memory.writes · _ _) htaken.mem
  · rw [horder, hsame, htaken.order]

/-! ## SIGNAL (R104) -/

section
variable {l : List (ℕ × Hit × ℕ)} {pa : ℕ} {t' : State}

/-- A SIGNAL on an object of the mode that it needs performs its operation there. -/
theorem State.signal_performs {u : State} {mode : ℕ} {op : BarOp} (hva : m.at_ 0 8 % 32 = 0)
    (hl : (u.hostWritable m.ctx (m.at_ 0 8) 32).hostReach m.ctx (m.at_ 0 8) 32 .read = .ok l)
    (hpa : l.head?.map (fun p => p.2.1.pa) = some pa)
    (hfit : ∀ p : ℕ × Hit × ℕ, p ∈ l → Pte.m p.2.1.leaf = false ∧ Pte.kv p.2.1.leaf = false)
    (hmark : m.ctx = 0xFFFF ∨ ∀ e ea big, (u.hostWritable m.ctx (m.at_ 0 8) 32).leafOf m.ctx (m.at_ 0 8) = some (e, ea, big) → Pte.c e = false)
    (hmode : Bar.mode.get ((u.hostWritable m.ctx (m.at_ 0 8) 32).num pa 32) = mode)
    (hop : (u.hostWritable m.ctx (m.at_ 0 8) 32).barPerform pa op = .ok t') : u.signal m mode op = t' := by
  obtain ⟨w, hw⟩ : ∃ w, w = u.hostWritable m.ctx (m.at_ 0 8) 32 := ⟨_, rfl⟩
  rw [← hw] at hl hmark hmode hop
  have hunfit : l.any (fun p => Pte.m p.2.1.leaf || Pte.kv p.2.1.leaf) = false := by
    rw [List.any_eq_false]
    intro p hp
    obtain ⟨hm, hkv⟩ := hfit p hp
    simp [hm, hkv]
  have hunmarked : (match w.leafOf m.ctx (m.at_ 0 8) with | some (e, _, _) => Pte.c e && decide (m.ctx ≠ 0xFFFF) | none => false) = false := by
    split
    · next e ea big hleaf =>
      rcases hmark with hc | hc
      · simp [hc]
      · simp [hc e ea big hleaf]
    · rfl
  unfold State.signal
  dsimp only
  rw [← hw, hl]
  dsimp only
  rw [hpa, Option.getD_some, hunfit, hmode, hop]
  exact (if_neg (not_or.mpr ⟨not_not.mpr hva, ne_true_of_eq_false hunmarked⟩)).trans (if_neg (by simp))

end

end

end Sys2Proof.Laws
end

section
namespace Sys2Proof.Machine

open Claims

/-- An ACK or a QUERY is performed as it arrives. -/
theorem runs_of_unsequenced {s : State} {m : HostMsg} {i : Instr} {sel : HostMsg → Bool} {f : State → HostMsg → Option State}
    {P : State → Prop} (h : s.place = .host m) (hup : s.power = .up) (hok : m.ok = true) (hx : exec i s = hostMessage s sel f)
    (hsel : sel m = true) (htyp : m.typ = 0 ∨ m.typ = 5)
    (hf : ∀ l, ∃ t, f { s with host := { s.host with inbox := l } } m = some t ∧ P t) : Runs i s P := by
  obtain ⟨l, hl⟩ := hostMessage_unsequenced (f := f) h hup hok hsel (by simpa [HostMsg.unsequenced_of_ok hok] using htyp)
  obtain ⟨t, ht, hP⟩ := hf l
  exact ⟨t, by rw [hx, hl, ht, Option.getD_some], hP⟩

/-! ## The window of replays (R105, R106) -/

section
variable {s : State} {ack : ℕ}

theorem State.takeAck_of_le (h : ack ≤ s.host.acked) : s.takeAck ack = s := if_neg (fun hadv => absurd h (Nat.not_le.mpr hadv.1))

/-- An ACK that advances, where nothing waits to go out, and no QUERY has been answered since the last one. -/
theorem State.hostAck_advances (hlt : s.host.acked < ack) (hle : ack ≤ s.host.nextOut) (hwait : s.host.waiting = [])
    (hq : s.host.queried = false) : (s.hostAck ack).host.acked = ack ∧
      (s.hostAck ack).host.window = s.host.window.filter (fun o => decide (ack ≤ o.seq)) ∧
      (s.hostAck ack).host.sent = s.host.sent ∧ (s.hostAck ack).host.lastAdvance = s.clock := by
  have hack : s.hostAck ack = State.acknowledge { s with host := { s.host with queried := false } } ack := by
    unfold State.hostAck
    rw [if_neg (by omega)]
    dsimp only
    rw [hq, decide_eq_false (by omega), Bool.or_false, if_neg Bool.false_ne_true]
    exact if_pos ⟨hlt, hle⟩
  rw [hack, State.acknowledge, hwait]
  exact ⟨rfl, rfl, rfl, rfl⟩

/-- An ACK that does not advance has the window sent again. -/
theorem State.hostAck_resends (hle : ack ≤ s.host.acked) (hle' : ack ≤ s.host.nextOut) :
    ∃ lost, s.hostAck ack = State.resend { s with host := { s.host with queried := false } } lost := by
  unfold State.hostAck
  rw [if_neg (by omega)]
  dsimp only
  rw [decide_eq_true hle, Bool.or_true, if_pos rfl]
  exact ⟨_, congrArg (State.resend · _) (State.takeAck_of_le hle)⟩

/-- The window stands as it stood when its messages have gone out again. -/
theorem State.resend_window (s : State) (lost : Bool) : (s.resend lost).host.window = s.host.window ∧
    (s.resend lost).host.lastAdvance = s.clock ∧ s.resend lost = { s with host := (s.resend lost).host } := by
  obtain ⟨sent, owes, h, -⟩ := s.resend_eq lost
  rw [h]
  exact ⟨rfl, rfl, rfl⟩

end

end Sys2Proof.Machine
end

section
namespace Sys2Proof.Laws

open Machine Claims

section
variable {s : State} {m : HostMsg}

/-! ## Messages without a number: ACK and QUERY (R105, R106) -/

section
variable (h : s.place = .host m) (hup : s.power = .up) (hok : m.ok = true)
include h hup hok

theorem plofoAck_advances (htyp : m.typ = 0) (hlt : s.host.acked < m.ack) (hle : m.ack ≤ s.host.nextOut) (hwait : s.host.waiting = [])
    (hq : s.host.queried = false) : Runs .plofoAck s (fun t => t.host.acked = m.ack ∧
      t.host.window = s.host.window.filter (fun o => decide (m.ack ≤ o.seq)) ∧ t.host.sent = s.host.sent ∧ t.host.lastAdvance = s.clock) := by
  refine runs_of_unsequenced h hup hok (by unfold exec execPlofoAck; rfl) (decide_eq_true htyp) (.inl htyp) ?_
  exact fun l => ⟨_, rfl, State.hostAck_advances (s := { s with host := { s.host with inbox := l } }) hlt hle hwait hq⟩

theorem plofoAck_resends (htyp : m.typ = 0) (hle : m.ack ≤ s.host.acked) (hle' : m.ack ≤ s.host.nextOut) :
    Runs .plofoAck s (fun t => t.host.window = s.host.window ∧ t.host.sent.take s.host.sent.length = s.host.sent ∧
      (t.host.sent.drop s.host.sent.length).map (fun o => (o.seq, o.body, o.ack)) =
        s.host.window.map (fun o => (o.seq, o.body, s.host.nextIn))) := by
  refine runs_of_unsequenced h hup hok (by unfold exec execPlofoAck; rfl) (decide_eq_true htyp) (.inl htyp) (fun l => ?_)
  obtain ⟨lost, hlost⟩ := State.hostAck_resends (s := { s with host := { s.host with inbox := l } }) hle hle'
  obtain ⟨hwindow, -, -⟩ := State.resend_window { s with host := { s.host with inbox := l, queried := false } } lost
  obtain ⟨htake, hdrop⟩ := State.resend_sent { s with host := { s.host with inbox := l, queried := false } } lost
  exact ⟨_, congrArg some hlost, hwindow, htake, hdrop⟩

theorem plofoQuery_answers (htyp : m.typ = 5) : Runs .plofoQuery s (fun t =>
    Tells t 0x81 m.ctx (completionBody 0 2 0 0 t.host.nextIn (t.host.nextOut - 1)) ∧ t.host.nextIn = s.host.nextIn ∧ t.mem = s.mem) := by
  refine runs_of_unsequenced h hup hok (by unfold exec execPlofoQuery; rfl) (decide_eq_true htyp) (.inr htyp) (fun l => ?_)
  have htaken := State.takeAck_relays { s with host := { s.host with inbox := l } } m.ack
  exact ⟨_, rfl, tells_sendPlain _ _ _ _, htaken.nextIn, htaken.mem⟩

end

/-! ## SIGNAL (R104) -/

section
variable {l : List (ℕ × Hit × ℕ)} {pa : ℕ} {t' : State} (h : Arrives s m 4) (hva : m.at_ 0 8 % 32 = 0)
  (hl : ((taken s m).hostWritable m.ctx (m.at_ 0 8) 32).hostReach m.ctx (m.at_ 0 8) 32 .read = .ok l)
  (hpa : l.head?.map (fun p => p.2.1.pa) = some pa)
  (hfit : ∀ p : ℕ × Hit × ℕ, p ∈ l → Pte.m p.2.1.leaf = false ∧ Pte.kv p.2.1.leaf = false)
  (hmark : m.ctx = 0xFFFF ∨ ∀ e ea big, ((taken s m).hostWritable m.ctx (m.at_ 0 8) 32).leafOf m.ctx (m.at_ 0 8) = some (e, ea, big) →
    Pte.c e = false)
include h hva hl hpa hfit hmark

theorem plofoSignalArrive_arrives (hop : m.at_ 8 1 = 0) (hlo : 1 ≤ m.at_ 16 8) (hhi : m.at_ 16 8 ≤ 65535)
    (hmode : Bar.mode.get (((taken s m).hostWritable m.ctx (m.at_ 0 8) 32).num pa 32) = 1)
    (hbar : ((taken s m).hostWritable m.ctx (m.at_ 0 8) 32).barPerform pa (.arrive (m.at_ 16 8)) = .ok t') :
    Runs .plofoSignalArrive s (fun t => t.mem = t'.mem) := by
  refine runs_of_performed (t := t') h (by unfold exec execPlofoSignalArrive; rfl) (by simp [h.typ, hop])
    (arrives_unsequenced h (by decide) (by decide)) ?_ rfl t'.answerAck_relays.mem
  exact (if_neg (by omega)).trans (congrArg some (State.signal_performs hva hl hpa hfit hmark hmode hbar))

theorem plofoSignalRaise_raises (hop : m.at_ 8 1 = 1)
    (hmode : Bar.mode.get (((taken s m).hostWritable m.ctx (m.at_ 0 8) 32).num pa 32) = 2)
    (hbar : ((taken s m).hostWritable m.ctx (m.at_ 0 8) 32).barPerform pa (.raise (m.at_ 16 8)) = .ok t') :
    Runs .plofoSignalRaise s (fun t => t.mem = t'.mem) := by
  refine runs_of_performed (t := t') h (by unfold exec execPlofoSignalRaise; rfl) (by simp [h.typ, hop])
    (arrives_unsequenced h (by decide) (by decide)) ?_ rfl t'.answerAck_relays.mem
  exact congrArg some (State.signal_performs hva hl hpa hfit hmark hmode hbar)

end

/-! ## Messages out of turn, and malformed ones (R104, R105) -/

section
variable (h : s.place = .host m) (hup : s.power = .up)
include h hup

theorem sequenced_elsewhere (hok : m.ok = true) (hu : m.unsequenced = false) (hseq : m.seq ≠ s.host.nextIn)
    (hh : s.host.inbox.head? ≠ some m) {i : Instr}
    (hi : i ∈ [Instr.plofoWrite, .plofoRead, .plofoLaunch, .plofoSignalArrive, .plofoSignalRaise]) :
    Runs i s (fun t => t.mem = s.mem ∧ t.host.nextIn = s.host.nextIn ∧ t.kernels = s.kernels) := by
  have hleaves {sel : HostMsg → Bool} {f : State → HostMsg → Option State} (hx : exec i s = hostMessage s sel f) :
      Runs i s (fun t => t.mem = s.mem ∧ t.host.nextIn = s.host.nextIn ∧ t.kernels = s.kernels) := by
    rcases hostMessage_other (sel := sel) (f := f) h hup hok hu hseq hh with ht | ht
    · exact ⟨s, hx.trans ht, rfl, rfl, rfl⟩
    · have hack := s.takeAck_relays m.ack
      exact ⟨_, hx.trans ht, hack.mem, hack.nextIn, hack.kernels⟩
  simp only [List.mem_cons, List.not_mem_nil, or_false] at hi
  rcases hi with rfl | rfl | rfl | rfl | rfl
  · exact hleaves (by unfold exec execPlofoWrite; rfl)
  · exact hleaves (by unfold exec execPlofoRead; rfl)
  · exact hleaves (by unfold exec execPlofoLaunch; rfl)
  · exact hleaves (by unfold exec execPlofoSignalArrive; rfl)
  · exact hleaves (by unfold exec execPlofoSignalRaise; rfl)

theorem sequenced_behind (hok : m.ok = true) (hu : m.unsequenced = false) (hseq : m.seq = s.host.nextIn) (hne : s.host.inbox ≠ [])
    (hh : s.host.inbox.head? ≠ some m) : Runs m.event s (fun t => t.mem = s.mem ∧ t.kernels = s.kernels ∧
      t.host.inbox = s.host.inbox ++ [m] ∧ t.host.nextIn = s.host.nextIn + 1) := by
  obtain ⟨sel, f, hx, hsel⟩ := exec_event s hok hu
  have hack := s.takeAck_relays m.ack
  have hkept := ((s.takeAck m.ack).consume.keepIn m).answerAck_relays
  refine ⟨_, hx.trans (hostMessage_behind h hup hok hu hseq hne hh hsel), hkept.mem.trans hack.mem, hkept.kernels.trans hack.kernels, ?_, ?_⟩
  · rw [hkept.inbox, ← hack.inbox]
    rfl
  · rw [hkept.nextIn, ← hack.nextIn]
    rfl

variable (hok : m.ok = false) (hinbox : s.host.inbox = [])
include hok hinbox

theorem plofoAck_malformed (htyp : m.typ = 0) : exec .plofoAck s = .next s := by
  unfold exec execPlofoAck
  exact (hostMessage_malformed h hup hok hinbox).1 htyp

theorem plofoWrite_malformed (htyp : m.typ ≠ 0) (hu : m.unsequenced = false) (hseq : m.seq = s.host.nextIn) :
    Runs .plofoWrite s (fun t => t.mem = s.mem ∧ t.host.nextIn = s.host.nextIn + 1 ∧ Tells t 0x81 m.ctx (completionBody m.seq 3 3 0 0 0)) := by
  have hx : exec .plofoWrite s = .next ((s.consume.hostFail m 3).answerAck) := by
    unfold exec execPlofoWrite
    exact (hostMessage_malformed h hup hok hinbox).2 htyp hu hseq
  have hsent := (s.consume.sendOrWait_relays 0x81 m.ctx (completionBody m.seq 3 3 0 0 0)).trans (State.answerAck_relays _)
  exact ⟨_, hx, hsent.mem, hsent.nextIn, tells_answerAck _ _ _ _⟩

end

end

/-! ## Frames, replays and telemetry (R102, R105, R430) -/

section
variable {s : State} (hup : s.power = .up)
include hup

theorem frameDrop_counts {x : EthFrame} (h : s.place = .frame x) (hx : s.accepts x = false) :
    exec .frameDrop s = .next { s with host := { s.host with dropped := s.host.dropped + 1 } } := by
  unfold exec execFrameDrop
  rw [h]
  exact if_pos ⟨hup, hx⟩

omit hup in
theorem frameDrop_of_accepts {x : EthFrame} (h : s.place = .frame x) (hx : s.accepts x ≠ false) : exec .frameDrop s = .next s := by
  unfold exec execFrameDrop
  rw [h]
  exact if_neg (fun hdrop => hx hdrop.2)

theorem replayResendTimeout_resends (hne : s.host.window ≠ []) (hdue : 150000 ≤ s.clock - s.host.lastAdvance) :
    Runs .replayResendTimeout s (fun t => t = { s with host := t.host } ∧ t.host.window = s.host.window ∧ t.host.lastAdvance = s.clock ∧
      t.host.sent.take s.host.sent.length = s.host.sent ∧
      (t.host.sent.drop s.host.sent.length).map (fun o => (o.seq, o.body, o.ack)) =
        s.host.window.map (fun o => (o.seq, o.body, s.host.nextIn))) := by
  have hx : exec .replayResendTimeout s = .next (s.resend false) := by
    unfold exec execReplayResendTimeout
    exact if_pos ⟨hup, by simpa using hne, hdue⟩
  obtain ⟨hwindow, hadvance, heq⟩ := s.resend_window false
  obtain ⟨htake, hdrop⟩ := s.resend_sent false
  exact ⟨_, hx, heq, hwindow, hadvance, htake, hdrop⟩

theorem telemetry_goes_out (hint : s.fld .power 0 Pwr.tint ≠ 0)
    (hdue : s.host.lastTelem + s.fld .power 0 Pwr.tint * 1500000 ≤ s.clock) : Runs .telemetry s (fun t =>
      t = { s with host := t.host } ∧ t.host.lastTelem = s.clock ∧
      (s.host.window.length < Config.replayWindow → t.host.window.length = s.host.window.length + 1 ∧
        ∃ o, t.host.sent.getLast? = some o ∧ o.typ = 0x84 ∧ o.seq = s.host.nextOut ∧ o.body = s.telemetryBody) ∧
      (Config.replayWindow ≤ s.host.window.length → t.host.sent = s.host.sent)) := by
  obtain ⟨u, hu⟩ : ∃ u, u = { s with host := { s.host with lastTelem := s.clock } } := ⟨_, rfl⟩
  have hfull : u.windowFull = decide (Config.replayWindow ≤ s.host.window.length) := by
    rw [hu]
    rfl
  have hx : exec .telemetry s = if u.windowFull then .next u else .next (u.sendSeq 0x84 0 u.telemetryBody) := by
    rw [hu]
    unfold exec execTelemetry
    exact if_pos (by simp [State.telemetryDue, hup, hint, hdue])
  rw [hfull] at hx
  subst hu
  by_cases hroom : s.host.window.length < Config.replayWindow
  · rw [decide_eq_false (Nat.not_le.mpr hroom), if_neg Bool.false_ne_true] at hx
    exact ⟨_, hx, rfl, rfl, fun _ => ⟨List.length_append, _, List.getLast?_concat, rfl, rfl, rfl⟩,
      fun hle => absurd hroom (Nat.not_lt.mpr hle)⟩
  · rw [decide_eq_true (Nat.not_lt.mp hroom), if_pos rfl] at hx
    exact ⟨_, hx, rfl, rfl, fun hlt => absurd hlt hroom, fun _ => rfl⟩

end

/-- Settles O47: messages of the host, its acknowledgements, and telemetry. -/
theorem hostMessages : Obligations.HostMessages := by
  unfold Obligations.HostMessages
  refine ⟨fun s m => ⟨?write, ?physical, ?read, ?launch, ?signal, ?ack, ?query, ?elsewhere, ?behind, ?malformed⟩,
    fun s hup => ⟨?frames, ?resend, ?telemetry⟩⟩
  case write =>
    intro h l hl
    refine ⟨fun hheld => Runs.mono (plofoWrite_writes h hl hheld) ?_, plofoWrite_waits h hl⟩
    rintro t ⟨hmem, horder, hnext⟩
    exact ⟨hmem, horder, by rw [hnext, State.host_of_aside (State.hostWritable_aside _ _ _ _)]⟩
  case physical => exact fun h hc hlo hhi hheld => plofoWrite_physical h hc hlo hhi hheld
  case read => exact fun h l hl hheld => plofoRead_answers h hl hheld
  case launch => exact fun h hc => ⟨fun k deps ht => plofoLaunch_posts h hc ht, fun st ht => plofoLaunch_refused h hc ht⟩
  case signal =>
    intro l pa t' w h hva hl hpa hfit hmark
    exact ⟨plofoSignalArrive_arrives h hva hl hpa hfit hmark, plofoSignalRaise_raises h hva hl hpa hfit hmark⟩
  case ack => exact fun h hup hok htyp => ⟨plofoAck_advances h hup hok htyp, plofoAck_resends h hup hok htyp⟩
  case query => exact fun h hup hok htyp => plofoQuery_answers h hup hok htyp
  case elsewhere => exact fun i hi h hup hok hu hseq hh => sequenced_elsewhere h hup hok hu hseq hh hi
  case behind => exact fun h hup hok hu hseq hne hh => sequenced_behind h hup hok hu hseq hne hh
  case malformed =>
    intro h hup hok hinbox
    exact ⟨plofoAck_malformed h hup hok hinbox, plofoWrite_malformed h hup hok hinbox⟩
  case frames =>
    intro x bad
    have hbad : s.accepts x = false ↔ bad := s.accepts_eq_false_iff x
    refine ⟨fun h => if_neg (ne_true_of_eq_false (hbad.mpr h)),
      fun h => if_pos ((Bool.eq_false_or_eq_true _).resolve_right (mt hbad.mp h)), fun h => ?_⟩
    exact ⟨fun hb => frameDrop_counts hup h (hbad.mpr hb), fun hb => frameDrop_of_accepts h (mt hbad.mp hb)⟩
  case resend => exact fun hne hdue => replayResendTimeout_resends hup hne hdue
  case telemetry => exact fun hint hdue => telemetry_goes_out hup hint hdue

end Sys2Proof.Laws
end

section
namespace Sys2Proof.Laws

open Machine

/-! ## A resident id with two entries (R131, R172) -/

/-- A crew in a trap handler all of whose lanes have exited. -/
def leavingCrew : Crew := { Crew.start 0 0 0 8 0 0#32 with handler := true, exited := 0xFFFF_FFFF#32, life := .active }

/-- A second entry of the same resident id: it waits for a timeline object. -/
def staleCrew : Crew := { Crew.start 0 0 0 8 0 0#32 with wait := .barrier 0x200_0000 0 0 2 }

/-- A table of crews whose keys do not rise: resident id 0 has two entries. The crew has a registration on a phase object, which its exit
orphans, as its context is being destroyed. -/
def doubleCrew : State :=
  { State.reset with
    place := .crew 0
    kernels := [(0, { Kernel.init with state := .running })]
    crews := [(0, leavingCrew), (0, staleCrew)]
    mem := [(0x200_0000, 1#8)]
    suspending := [(0, .destroy)]
    regns := [⟨0x200_0000, 0, 0, 0, .crew 0⟩] }

/-- The object's orphan marker has the second entry look again: it finds an object of another mode and traps, and its trap, of resident
id 0, is a double trap of the crew that exits. That one is trapped then, and keeps its place. -/
theorem crewExit_keeps_doubleCrew : ∃ t, exec .crewExit doubleCrew = .next t ∧ (t.crews.get? 0).isSome = true := by
  refine ⟨_, rfl, ?_⟩
  decide +kernel

/-- Refutes O51: a crew that exits with no result outstanding need not free its place where the table of crews, which the statement does not
bound, has a second entry of its resident id. -/
theorem not_crewEnds : ¬ Obligations.CrewEnds := by
  intro h
  obtain ⟨hends, -⟩ := h
  obtain ⟨hexit, -⟩ := hends doubleCrew 0 leavingCrew rfl rfl
  obtain ⟨t, ht, -, -, -, -, hfree, -⟩ := hexit (by decide) rfl (.inl ⟨rfl, rfl⟩)
  obtain ⟨u, hu, hkept⟩ := crewExit_keeps_doubleCrew
  have htu : u = t := by simpa using hu.symm.trans ht
  rw [htu, hfree rfl] at hkept
  exact absurd hkept (by decide)

end Sys2Proof.Laws
end

section
namespace Sys2Proof.Laws

open Machine Claims

/-! ## Bounding instructions that change something else and go on -/

section
variable {s : State} {rid : ℕ} {c : Crew}

/-- A bounding instruction that does what has nothing to do with the crews, and goes on with some cells written. -/
theorem finishes_of_uncrewed_finish {i : Instr} {k : Ctl} {e : Enc} {body : BBody} {f : State → State} {cells : List (ℕ × Word)}
    (hf : Uncrewed f) (he : enc i = some (k, e)) (h : Bounding s rid c i) (hx : exec i s = bounding i body s)
    (hb : body (begun s rid c) rid c = .ok ((f (begun s rid c)).finish rid k (goOn s rid c) cells)) :
    Finishes i s (f s) rid (goOn s rid c) cells := by
  have hbegun : f (begun s rid c) = (f s).withCrews (begun s rid c).crews (s.fresh + 1) := hf s _ _
  refine finishes_of_finish (u := f (begun s rid c)) (j := k) he h hx hb h.quiet rfl (hf.crews _) ?_ (hf.crews s)
  rw [hbegun]
  rfl

/-- A bounding instruction that leaves its crew asleep, whatever else it does that has nothing to do with the crews. -/
theorem sleeps_of_sleep {i : Instr} {k : Ctl} {e : Enc} {body : BBody} {s' t : State} {w : Wait} (he : enc i = some (k, e))
    (h : Bounding s rid c i) (hx : exec i s = bounding i body s) (hb : body (begun s rid c) rid c = .ok t)
    (ht : t.crews = ((begun s rid c).sleep rid k c w).crews) (hs : t = { s' with crews := t.crews, fresh := t.fresh, serial := t.serial })
    (hs' : s'.crews = s.crews) : Sleeps i s s' rid c w := by
  refine ⟨t, { c.issued k s.clock with skip := false, wait := w }, hx.trans (bounding_of_ok he h hb), ?_, ⟨hs, fun r hr => ?_⟩,
    rfl, rfl, rfl, rfl, rfl⟩
  · rw [ht, State.sleep]
    exact (State.setCrew_crew_self ..).trans (by rw [begun_crew h.crew]; rfl)
  · rw [ht, State.sleep, hs']
    exact (State.setCrew_crew_ne _ _ hr.symm).trans (begun_crew_ne c hr)

end

/-! ## LEAVE (R133) -/

section
variable {s : State} {rid : ℕ} {c : Crew} {k : Ctl} {d a : Reg} {x : ℕ}

theorem State.lowerLevel_uncrewed (b k g : ℕ) : Uncrewed (State.lowerLevel · b k g) := fun _ _ _ => rfl

theorem leave_above (h : Bounding s rid c (.leave k d a)) (hu : Uniform c 1 a x) (hx : 16 ≤ x) :
    Finishes (.leave k d a) s s rid (goOn s rid c) (inActive c d 4) :=
  finishes_of_result rfl h rfl (by simp [hu.1, uni_of_uniform hu, uval_of_uniform hu, hx])

theorem leave_not_above (h : Bounding s rid c (.leave k d a)) (hu : Uniform c 1 a x) (hx : x < 16) (hle : x ≤ s.level (ridBay rid) c.kernel) :
    Finishes (.leave k d a) s (s.lowerLevel (ridBay rid) c.kernel x) rid (goOn s rid c) (inActive c d 0) := by
  have hle' : x ≤ (begun s rid c).level (ridBay rid) c.kernel := hle
  exact finishes_of_uncrewed (State.lowerLevel_uncrewed _ _ _) rfl h rfl
    (by simp [hu.1, uni_of_uniform hu, uval_of_uniform hu, hx.not_ge, hle'])

/-- Request n of a LEAVE stands and has gone to the die's governor. -/
def leaveAsked (b k n x now : ℕ) (s : State) : State :=
  { s.onBayKernel b k (fun z => { z with openLeave := some n }) with gov := s.gov ++ [⟨dieOf b, .leave b k n x (x - now)⟩] }

theorem leaveAsked_asleep (b k n x now : ℕ) (s : State) (cs : Tbl Crew) (i j : ℕ) :
    leaveAsked b k n x now { s with crews := cs, fresh := i, serial := j } =
      { leaveAsked b k n x now s with crews := cs, fresh := i, serial := j } := rfl

theorem leave_asks (h : Bounding s rid c (.leave k d a)) (hu : Uniform c 1 a x) (hx : x < 16) (hlt : s.level (ridBay rid) c.kernel < x) :
    Sleeps (.leave k d a) s (leaveAsked (ridBay rid) c.kernel s.serial x (s.level (ridBay rid) c.kernel) s)
      rid c (.leaveAsk s.serial d.toNat (s.clock + 100)) := by
  have hlt' : (begun s rid c).level (ridBay rid) c.kernel < x := hlt
  have hsleep : (begun s rid c).sleep rid k c (.leaveAsk s.serial d.toNat (s.clock + 100)) = { s with
      crews := ((begun s rid c).sleep rid k c (.leaveAsk s.serial d.toNat (s.clock + 100))).crews
      fresh := s.fresh + 1
      serial := s.serial + 1 } := rfl
  refine sleeps_of_sleep (t := leaveAsked (ridBay rid) c.kernel s.serial x (s.level (ridBay rid) c.kernel)
    ((begun s rid c).sleep rid k c (.leaveAsk s.serial d.toNat (s.clock + 100)))) rfl h rfl ?_ ?_ ?_ rfl
  · simp only [if_neg hu.1, uni_of_uniform hu, uval_of_uniform hu, Bool.not_true, Bool.false_eq_true, if_false, if_neg hx.not_ge,
      if_neg hlt'.not_ge]
    rfl
  · rfl
  · rw [hsleep, leaveAsked_asleep]

end

/-! ## NOTIFY (R101, R103) -/

section
variable {s : State} {rid : ℕ} {c : Crew} {k : Ctl} {a b : Reg} {va x : ℕ}

theorem State.sendSeq_uncrewed (typ ctx : ℕ) (body : List Byte) : Uncrewed (State.sendSeq · typ ctx body) := fun _ _ _ => rfl

theorem notify_too_long (h : Bounding s rid c (.notify k a b)) (ha : Uniform c 2 a va) (hb : Uniform c 1 b x)
    (hx : slice 15 11 x ≠ 0 ∨ 1024 < x % 2 ^ 11) : TrapsNow (.notify k a b) s rid c 0x018 2 0 c.low :=
  trapsNow_of_error rfl h rfl (by
    simp only [ha.1, if_false, uni_of_uniform ha, uni_of_uniform hb, uval_of_uniform hb, Bool.not_true, Bool.or_self, Bool.false_eq_true,
      if_pos hx]
    rfl)

theorem notify_sends {bs : List Byte} (h : Bounding s rid c (.notify k a b)) (ha : Uniform c 2 a va) (hb : Uniform c 1 b x)
    (h0 : slice 15 11 x = 0) (hx : x % 2 ^ 11 ≤ 1024) (hp : (begun s rid c).payload rid c va (x % 2 ^ 11) = .ok bs)
    (hw : s.windowFull = false) (hq : s.host.waiting = []) :
    Finishes (.notify k a b) s (s.sendSeq 0x85 (c.ctx s) (s.notifyBody c (slice 31 16 x) bs)) rid (goOn s rid c) [] := by
  have hw' : (begun s rid c).windowFull = false := hw
  have hq' : (begun s rid c).host.waiting = [] := hq
  have hfits : ¬(slice 15 11 x ≠ 0 ∨ 1024 < x % 2 ^ 11) := not_or.mpr ⟨not_not.mpr h0, hx.not_gt⟩
  refine finishes_of_uncrewed_finish (State.sendSeq_uncrewed _ _ _) rfl h rfl ?_
  simp only [ha.1, if_false, uni_of_uniform ha, uni_of_uniform hb, uval_of_uniform ha, uval_of_uniform hb, Bool.not_true, Bool.or_self,
    Bool.false_eq_true, if_neg hfits, hp, hw', hq', List.isEmpty_nil]
  rfl

end

/-! ## The comparators (R391, R396, R397) -/

theorem State.setCmp_uncrewed (n v : ℕ) : Uncrewed (State.setCmp · n v) := fun _ _ _ => rfl

section
variable {s : State} {n : ℕ} (v : ℕ)

theorem SysTab.comparator_addr_inj {n m : ℕ} : SysTab.addr .comparator n = SysTab.addr .comparator m ↔ n = m := by
  simp [SysTab.addr, SysTab.bytes, SysTab.place]

theorem State.setCmp_rcd_self : (s.setCmp n v).rcd .comparator n = v := Tbl.getD_write_self ..

theorem State.setCmp_rcd_ne {m : ℕ} (h : m ≠ n) : (s.setCmp n v).rcd .comparator m = s.rcd .comparator m :=
  s.rcd_setRcd_of_addr_ne v (mt SysTab.comparator_addr_inj.mp h)

/-- What the other comparators were before their last change is kept. -/
theorem find?_filter_ne {l : List (ℕ × ℕ × ℕ)} {m clk : ℕ} (h : m ≠ n) :
    (l.filter (fun o => decide (o.1 ≠ n))).find? (fun o => decide (o.1 = m) && decide (o.2.2 = clk)) =
      l.find? (fun o => decide (o.1 = m) && decide (o.2.2 = clk)) := by
  rw [List.find?_filter]
  congr 1
  funext o
  by_cases ho : o.1 = m
  · simp [ho, h]
  · simp [ho]

/-- In the clk of a change an instruction is checked against what stood before it. -/
theorem State.setCmp_cmpRecord (m : ℕ) : (s.setCmp n v).cmpRecord m = s.cmpRecord m := by
  have hold : (s.setCmp n v).cmpOld = s.cmpOld.filter (fun o => decide (o.1 ≠ n)) ++ [(n, s.cmpRecord n, s.clock)] := rfl
  rw [State.cmpRecord, hold, List.find?_append]
  rcases eq_or_ne m n with rfl | hne
  · have hnone : (s.cmpOld.filter (fun o => decide (o.1 ≠ m))).find? (fun o => decide (o.1 = m) && decide (o.2.2 = s.clock)) = none := by
      refine List.find?_eq_none.mpr fun o ho => ?_
      simp [of_decide_eq_true (List.mem_filter.mp ho).2]
    have hlast : [(m, s.cmpRecord m, s.clock)].find? (fun o => decide (o.1 = m) && decide (o.2.2 = s.clock)) =
        some (m, s.cmpRecord m, s.clock) := by simp
    rw [show (s.setCmp m v).clock = s.clock from rfl, hnone, hlast]
    rfl
  · have hlast : [(n, s.cmpRecord n, s.clock)].find? (fun o => decide (o.1 = m) && decide (o.2.2 = s.clock)) = none := by
      simp [hne.symm]
    rw [show (s.setCmp n v).clock = s.clock from rfl, find?_filter_ne hne, hlast, Option.or_none, State.setCmp_rcd_ne v hne]
    rfl

/-- From the next clk on it is checked against what has been set. -/
theorem State.setCmp_cmpRecord_later {clk : ℕ} (h : s.clock < clk) : { s.setCmp n v with clock := clk }.cmpRecord n = v := by
  have hnone : (s.cmpOld.filter (fun o => decide (o.1 ≠ n)) ++ [(n, s.cmpRecord n, s.clock)]).find?
      (fun o => decide (o.1 = n) && decide (o.2.2 = clk)) = none := by
    refine List.find?_eq_none.mpr fun o ho => ?_
    rcases List.mem_append.mp ho with ho | ho
    · simp [of_decide_eq_true (List.mem_filter.mp ho).2]
    · rw [List.mem_singleton.mp ho]
      simp [h.ne]
  have hrec : ({ s.setCmp n v with clock := clk } : State).cmpRecord n =
      match (s.cmpOld.filter (fun o => decide (o.1 ≠ n)) ++ [(n, s.cmpRecord n, s.clock)]).find?
        (fun o => decide (o.1 = n) && decide (o.2.2 = clk)) with
      | some o => o.2.1
      | none => (s.setCmp n v).rcd .comparator n := rfl
  rw [hrec, hnone]
  exact State.setCmp_rcd_self v

end

/-- The record that BPSET makes of its operands (R391). -/
def cmpRec (ctx x bent m : ℕ) : ℕ :=
  setAll [(Cmp.ctx, ctx), (Cmp.queue, slice 43 32 x), (Cmp.bent, bent), (Cmp.slot, slice 15 12 x), (Cmp.pc, slice 11 0 x),
    (Cmp.bentf, m / 16 % 2), (Cmp.anyq, (m.testBit 3).toNat), (Cmp.en, 1)]

theorem slice_lt (hi lo x : ℕ) : slice hi lo x < 2 ^ (hi + 1 - lo) := Nat.mod_lt _ (by positivity)

/-- A field that is set, and after it only fields apart from it, reads as it was set. -/
theorem get_setAll {f : Fld} {v : ℕ} (pre post : List (Fld × ℕ)) (h : (post.map Prod.fst).all (fun g => g.apart f) = true) :
    f.get (setAll (pre ++ (f, v) :: post)) = v % 2 ^ f.w := by
  have hpost (r : ℕ) : f.get (post.foldl (fun x p => p.1.set x p.2) r) = f.get r := by
    induction post generalizing r with
    | nil => rfl
    | cons p post ih =>
      obtain ⟨hp, hrest⟩ := Bool.and_eq_true_iff.mp h
      exact (ih hrest _).trans (Fld.get_set_of_apart hp _ _)
  rw [setAll, List.foldl_append, List.foldl_cons, hpost, Fld.get_set_self]

theorem cmpRec_fields (ctx x m : ℕ) {bent : ℕ} (h : bent < 256) :
    Cmp.en.get (cmpRec ctx x bent m) = 1 ∧ Cmp.ctx.get (cmpRec ctx x bent m) = ctx % 2 ^ 10 ∧
      Cmp.pc.get (cmpRec ctx x bent m) = slice 11 0 x ∧ Cmp.slot.get (cmpRec ctx x bent m) = slice 15 12 x ∧
      Cmp.bent.get (cmpRec ctx x bent m) = bent ∧ Cmp.queue.get (cmpRec ctx x bent m) = slice 43 32 x ∧
      Cmp.bentf.get (cmpRec ctx x bent m) = m / 16 % 2 ∧ Cmp.anyq.get (cmpRec ctx x bent m) = m / 8 % 2 := by
  have hbit : (m.testBit 3).toNat = m / 8 % 2 := by rw [Nat.toNat_testBit]
  refine ⟨get_setAll [_, _, _, _, _, _, _] [] rfl, get_setAll [] [_, _, _, _, _, _, _] rfl,
    (get_setAll [_, _, _, _] [_, _, _] rfl).trans (Nat.mod_eq_of_lt (slice_lt 11 0 x)),
    (get_setAll [_, _, _] [_, _, _, _] rfl).trans (Nat.mod_eq_of_lt (slice_lt 15 12 x)),
    (get_setAll [_, _] [_, _, _, _, _] rfl).trans (Nat.mod_eq_of_lt h),
    (get_setAll [_] [_, _, _, _, _, _] rfl).trans (Nat.mod_eq_of_lt (slice_lt 43 32 x)),
    (get_setAll [_, _, _, _, _] [_, _] rfl).trans (Nat.mod_mod _ 2),
    (get_setAll [_, _, _, _, _, _] [_] rfl).trans ?_⟩
  rw [hbit]
  exact Nat.mod_mod _ 2

section
variable {s : State} {rid : ℕ} {c : Crew} {k : Ctl} {a b : Reg} {n : BitVec 14}

/-- A comparator that the caller may change. -/
def Changeable (s : State) (rid : ℕ) (c : Crew) (m : ℕ) : Prop :=
  Cmp.en.get (s.rcd .comparator (8 * ridBay rid + m)) = 1 → Cmp.ctx.get (s.rcd .comparator (8 * ridBay rid + m)) = c.ctx s ∨ c.ctx s = 0

theorem cmpOwned_of_changeable {m : ℕ} (h : Changeable s rid c m) : (begun s rid c).cmpOwned rid c m = none :=
  if_neg (fun ⟨hen, hctx, h0⟩ => (h hen).elim hctx h0)

theorem cmpOwned_of_enabled {m : ℕ} (hen : Cmp.en.get (s.rcd .comparator (8 * ridBay rid + m)) = 1)
    (hctx : Cmp.ctx.get (s.rcd .comparator (8 * ridBay rid + m)) ≠ c.ctx s) (h0 : c.ctx s ≠ 0) :
    (begun s rid c).cmpOwned rid c m = some (c.crewTrap 0x071 m) := if_pos ⟨hen, hctx, h0⟩

theorem comparator_owned {i : Instr} (hi : i = .bpset k a b n ∨ i = .bpclr k n) (h : Bounding s rid c i) (hem : c.em ≠ 0#32)
    (ho : (begun s rid c).cmpOwned rid c (n.toNat % 8) = some (c.crewTrap 0x071 (n.toNat % 8))) :
    TrapsNow i s rid c 0x071 (n.toNat % 8) 0 c.low := by
  rcases hi with rfl | rfl
  · exact trapsNow_of_error rfl h rfl (by simp only [hem, if_false, ho]; rfl)
  · exact trapsNow_of_error rfl h rfl (by simp only [hem, if_false, ho]; rfl)

theorem bpclr_disables (h : Bounding s rid c (.bpclr k n)) (hem : c.em ≠ 0#32) (hc : Changeable s rid c (n.toNat % 8)) (hn : n.toNat < 8) :
    Finishes (.bpclr k n) s (s.setCmp (8 * ridBay rid + n.toNat % 8) (Cmp.en.set (s.rcd .comparator (8 * ridBay rid + n.toNat % 8)) 0))
      rid (goOn s rid c) [] := by
  rw [Nat.mod_eq_of_lt hn] at hc ⊢
  have hown : (begun s rid c).cmpOwned rid c (n.toNat % 8) = none := by
    rw [Nat.mod_eq_of_lt hn]
    exact cmpOwned_of_changeable hc
  refine finishes_of_uncrewed_finish (State.setCmp_uncrewed _ _) rfl h rfl ?_
  simp only [hem, if_false, hown, if_neg hn.not_ge]
  rfl

theorem bpset_sets {x bent : ℕ} (h : Bounding s rid c (.bpset k a b n)) (hc : Changeable s rid c (n.toNat % 8)) (hn : n.toNat < 32)
    (hx : Uniform c 2 a x) (hb : Uniform c 1 b bent) (h16 : slice 31 16 x = 0) (h44 : slice 63 44 x = 0)
    (hq : n.toNat.testBit 3 = false → c.ctx s ≠ 0 ∧ s.ownsQueue (c.ctx s) (slice 43 32 x) = true) (hbent : bent < 256) :
    Finishes (.bpset k a b n) s (s.setCmp (8 * ridBay rid + n.toNat % 8) (cmpRec (c.ctx s) x bent n.toNat)) rid (goOn s rid c) [] := by
  have hq' : n.toNat.testBit 3 = false → c.ctx (begun s rid c) ≠ 0 ∧ (begun s rid c).ownsQueue (c.ctx (begun s rid c)) (slice 43 32 x) = true := hq
  have hown : ¬(slice 31 16 x ≠ 0 ∨ slice 63 44 x ≠ 0 ∨ (n.toNat.testBit 3 = false ∧
      (begun s rid c).ownsQueue (c.ctx (begun s rid c)) (slice 43 32 x) = false ∧ c.ctx (begun s rid c) ≠ 0)) := by
    rintro (hx | hx | ⟨hany, hno, -⟩)
    · exact hx h16
    · exact hx h44
    · exact absurd (hno.symm.trans (hq' hany).2) Bool.false_ne_true
  have hzero : ¬(n.toNat.testBit 3 = false ∧ c.ctx (begun s rid c) = 0) := fun ⟨hany, h0⟩ => (hq' hany).1 h0
  refine finishes_of_uncrewed_finish (State.setCmp_uncrewed _ _) rfl h rfl ?_
  simp only [hx.1, if_false, cmpOwned_of_changeable hc, uni_of_uniform hx, uni_of_uniform hb, uval_of_uniform hx, uval_of_uniform hb,
    Bool.not_true, Bool.or_self, Bool.false_eq_true, if_neg hn.not_ge, if_neg hown, if_neg hzero, if_neg hbent.not_ge]
  rfl

end

/-! ## STAMP and TRACE (R399, R400) -/

theorem State.onWindow_uncrewed (k idx : ℕ) (f : Window → Window) : Uncrewed (State.onWindow · k idx f) := by
  intro s cs m
  change (s.withCrews cs m).onWindow k idx f = (s.onWindow k idx f).withCrews cs m
  unfold State.onWindow
  rw [State.kern_withCrews]
  split
  · split <;> rfl
  · rfl

/-- The module after a STAMP, but for its crew. -/
def stamped (rid : ℕ) (c : Crew) (v n : ℕ) (s : State) : State :=
  ((s.closeWindow c.kernel c.idx (ridBay rid) true).setKern c.kernel (fun y => y.setKeep c.idx (fun e =>
    { e with stamps := n, windows := e.windows ++ [Window.open v (n % 2 ^ 32) s.clock (ridBay rid)] }))).post
    (.kernelCrew c.kernel c.idx) .stampRecordWrite

theorem stamped_uncrewed (rid : ℕ) (c : Crew) (v n : ℕ) : Uncrewed (stamped rid c v n) := by
  intro s cs m
  have h : (s.withCrews cs m).closeWindow c.kernel c.idx (ridBay rid) true =
      (s.closeWindow c.kernel c.idx (ridBay rid) true).withCrews cs m := State.onWindow_uncrewed _ _ _ s cs m
  unfold stamped
  rw [h]
  rfl

section
variable {s : State} {rid : ℕ} {c : Crew} {k : Ctl} {d a b : Reg}

theorem stamp_finishes {v : ℕ} (h : Bounding s rid c (.stamp k d a)) (hv : Gives c 2 a v) :
    Finishes (.stamp k d a) s (stamped rid c v (((s.kern c.kernel).keepOf c.idx).stamps + 1) s) rid (goOn s rid c)
      (inActive c d (((s.kern c.kernel).keepOf c.idx).stamps + 1)) := by
  have hw := (begun s rid c).onWindow_eq c.kernel c.idx (fun w => { w with closed := true, early := true, bay := ridBay rid })
  refine finishes_of_uncrewed_finish (stamped_uncrewed _ _ _ _) rfl h rfl ?_
  simp only [uni_of_gives hv, uval_of_gives hv, Bool.not_true, Bool.false_eq_true, if_false]
  unfold stamped State.closeWindow
  rw [hw]
  rfl

theorem trace_issues (hi : Issuing s rid c (.trace k a b)) (ht : Takes s rid c [] [] []) :
    Issues (.trace k a b) s s rid c (goOn s rid c) {} (if c.em = 0#32 then [] else
      [.trace (c.reg a.toNat c.low).toNat (c.reg b.toNat c.low).toNat (c.slot * 2 ^ 12 + c.pc) c.em c.tag]) := by
  have he : enc (.trace k a b) = some (k, encAB 0xF3 (modF 0) 1 1 a b) := rfl
  refine ordinary_issues (o := { crew := goOn s rid c, effs := if c.em = 0#32 then [] else
      [.trace (c.reg a.toNat c.low).toNat (c.reg b.toNat c.low).toNat (c.slot * 2 ^ 12 + c.pc) c.em c.tag] })
    he hi ht ?_ rfl rfl rfl rfl (around_plain rfl rfl rfl)
  by_cases hem : c.em = 0#32
  · simp only [if_pos hem]
    rfl
  · simp only [if_neg hem]
    rfl

end

/-- Settles O41: LEAVE, NOTIFY, the comparators, STAMP and TRACE. -/
theorem leaveNotifyDebug : Obligations.LeaveNotifyDebug := by
  unfold Obligations.LeaveNotifyDebug
  refine ⟨fun s rid c k d a b => ⟨fun x h hu => ⟨?above, ?lower, ?ask⟩, fun va x bs h ha hb => ⟨?long, ?send⟩⟩,
    fun s rid c k d a b => ⟨fun n i hi h hem => ⟨?owned, fun hfree => ⟨?clear, ?set⟩⟩, fun at_ v => ⟨?self, ?other, ?now, ?later⟩, ?stamp, ?trace⟩⟩
  case above => exact leave_above h hu
  case lower => exact leave_not_above h hu
  case ask => exact leave_asks h hu
  case long => exact notify_too_long h ha hb
  case send => exact notify_sends h ha hb
  case owned => exact fun hen hctx h0 => comparator_owned hi h hem (cmpOwned_of_enabled hen hctx h0)
  case clear =>
    rintro hn rfl
    exact bpclr_disables h hem hfree hn
  case set =>
    rintro x bent hn rfl hx hb h16 h44 hq hbent
    obtain ⟨hen, hctx, hpc, hslot, hbent', hqueue, hbentf, hanyq⟩ := cmpRec_fields (c.ctx s) x n.toNat hbent
    exact ⟨_, hen, hctx, hpc, hslot, hbent', hqueue, hbentf, hanyq, bpset_sets h hfree hn hx hb h16 h44 hq hbent⟩
  case self => exact State.setCmp_rcd_self v
  case other => exact fun m hm => State.setCmp_rcd_ne v hm
  case now => exact State.setCmp_cmpRecord v
  case later => exact fun clk hclk => State.setCmp_cmpRecord_later v hclk
  case stamp => exact fun v h hv => stamp_finishes h hv
  case trace => exact trace_issues

end Sys2Proof.Laws
end

section
namespace Sys2Proof.Machine

open Claims Laws

/-! ## Power, temperature and scrubs (R425 to R430) -/

theorem State.sets_setFld (s : State) (tab : SysTab) (n : ℕ) (f : Fld) (v : ℕ) : Sets s (s.setFld tab n f v) tab n [(f, v)] :=
  ⟨State.setFld_rcd_self .., fun _ _ hm => s.rcd_setRcd_of_addr_ne _ hm⟩

theorem State.setFld_records (s : State) (x : Tbl ℕ) (tab : SysTab) (n : ℕ) (f : Fld) (v : ℕ) :
    ∃ y, ({ s with sys := x } : State).setFld tab n f v = { s with sys := y } := ⟨_, rfl⟩

section
variable {s : State}

theorem exec_plimitWrite {v : BitVec 13} (hp : s.place = .plimit v) : exec .plimitWrite s = .next
    (((s.setFld .power 0 Pwr.plimit (max 2400 (min 4800 v.toNat))).setFld .power 0 Pwr.budget0
      (budgetAt (max 2400 (min 4800 v.toNat)))).setFld .power 0 Pwr.budget1 (budgetAt (max 2400 (min 4800 v.toNat)))).kick := by
  show execPlimitWrite s = _
  rw [execPlimitWrite, hp]

theorem plimitWrite_runs {v : BitVec 13} (hp : s.place = .plimit v) : Runs .plimitWrite s (fun t =>
    t = { s with sys := t.sys, agenda := s.agenda ++ [.event .none .coxChoose] } ∧ Sets s t .power 0
      [(Pwr.plimit, max 2400 (min 4800 v.toNat)), (Pwr.budget0, budgetAt (max 2400 (min 4800 v.toNat))),
        (Pwr.budget1, budgetAt (max 2400 (min 4800 v.toNat)))]) := by
  have hrun := exec_plimitWrite hp
  generalize max 2400 (min 4800 v.toNat) = w at hrun ⊢
  obtain ⟨x, hx⟩ := s.setFld_records s.sys .power 0 Pwr.plimit w
  obtain ⟨y, hy⟩ := s.setFld_records x .power 0 Pwr.budget0 (budgetAt w)
  obtain ⟨z, hz⟩ := s.setFld_records y .power 0 Pwr.budget1 (budgetAt w)
  refine ⟨_, hrun, by rw [hx, hy, hz]; rfl, ?_⟩
  have h0 := s.sets_setFld .power 0 Pwr.plimit w
  have h1 := (s.setFld .power 0 Pwr.plimit w).sets_setFld .power 0 Pwr.budget0 (budgetAt w)
  have h2 := ((s.setFld .power 0 Pwr.plimit w).setFld .power 0 Pwr.budget0 (budgetAt w)).sets_setFld .power 0 Pwr.budget1 (budgetAt w)
  exact Sets.of_sys (Sets.append (Sets.append h0 h1) h2) rfl

theorem exec_thermalTripSet {d x : ℕ} (hp : s.place = .thermal d x) : exec .thermalTripSet s =
    if 1050 < x ∧ d < 2 then .next ((s.setTemp d x).setFld .power 0 (tripFld d) 1) else .next s := by
  show execThermalTripSet s = _
  rw [execThermalTripSet, hp]

theorem exec_thermalTripClear {d x : ℕ} (hp : s.place = .thermal d x) : exec .thermalTripClear s =
    if x < 1000 ∧ d < 2 then .next ((s.setTemp d x).setFld .power 0 (tripFld d) 0) else .next s := by
  show execThermalTripClear s = _
  rw [execThermalTripClear, hp]

/-- A die's trip bit follows its temperature: the temperature is kept, and the bit alone changes in the record. -/
theorem State.trip_spec (s : State) (d x v : ℕ) :
    (s.setTemp d x).setFld .power 0 (tripFld d) v = { s with
      sys := ((s.setTemp d x).setFld .power 0 (tripFld d) v).sys
      temp0 := ((s.setTemp d x).setFld .power 0 (tripFld d) v).temp0
      temp1 := ((s.setTemp d x).setFld .power 0 (tripFld d) v).temp1 } ∧
    (if d = 0 then ((s.setTemp d x).setFld .power 0 (tripFld d) v).temp0 else ((s.setTemp d x).setFld .power 0 (tripFld d) v).temp1) = x ∧
    Sets s ((s.setTemp d x).setFld .power 0 (tripFld d) v) .power 0 [(if d = 0 then Pwr.trip0 else Pwr.trip1, v)] := by
  have hsets : Sets s ((s.setTemp d x).setFld .power 0 (tripFld d) v) .power 0 [(tripFld d, v)] :=
    Sets.of_sys_left (State.sets_setFld _ _ _ _ _) (by unfold State.setTemp; split <;> rfl)
  refine ⟨?_, ?_, hsets⟩
  · unfold State.setTemp
    split <;> rfl
  · by_cases hd : d = 0
    · rw [if_pos hd, State.setTemp, if_pos hd]
      rfl
    · rw [if_neg hd, State.setTemp, if_neg hd]
      rfl

theorem exec_scrub {i : Instr} {l : ℕ} {f : ScrubFinding} (hp : s.place = .scrub l f) (hi : i = .hbmPatrolScrub ∨ i = .sramScrub) :
    exec i s = .next (s.scrubbed l f) := by
  rcases hi with rfl | rfl
  · show execHbmPatrolScrub s = _
    rw [execHbmPatrolScrub, hp]
  · show execSramScrub s = _
    rw [execSramScrub, hp]

/-- An uncorrectable error counts, and its line is poisoned with every reduction to it dropped. -/
theorem State.scrubbed_uncorrectable (s : State) (l : ℕ) : l ∈ (s.scrubbed l .uncorrectable).poisoned ∧
    (s.scrubbed l .uncorrectable).mem = s.mem ∧ (s.scrubbed l .uncorrectable).host.uncorrectable = s.host.uncorrectable + 1 ∧
    (l ∉ s.poisoned → ∀ r ∈ (s.scrubbed l .uncorrectable).reds, lineOf r.pa ≠ l) := by
  have hs : s.scrubbed l .uncorrectable = s.errorFound.poisonLine l := rfl
  rw [hs]
  by_cases h : l ∈ s.poisoned
  · have hc : s.errorFound.poisoned.contains l = true := by simpa [State.errorFound] using h
    rw [State.poisonLine, hc, if_pos rfl]
    exact ⟨h, rfl, rfl, fun hn => absurd h hn⟩
  · obtain ⟨hreds, hpois, hhost⟩ := State.poisonLine_spec (s := s.errorFound) h
    refine ⟨?_, ?_, ?_, fun _ r hr => ?_⟩
    · rw [hpois]
      exact mem_addLines_self _
    · rw [State.poisonLine_mem, State.errorFound_mem]
    · rw [hhost]
      rfl
    · rw [hreds] at hr
      simpa using (List.mem_filter.mp hr).2

theorem exec_sramScrub_of_sram {f : ScrubFinding} (hp : s.place = .sram f) : exec .sramScrub s = .next { s with host := { s.host with
    correctable := s.host.correctable + (if f = .corrected then 1 else 0),
    uncorrectable := s.host.uncorrectable + (if f = .uncorrectable then 1 else 0) } } := by
  have h : exec .sramScrub s = .next (s.counted f) := by
    show execSramScrub s = _
    rw [execSramScrub, hp]
  exact h.trans (by cases f <;> rfl)

end

/-! ## What a bay keeps of a kernel, and the code of its crews -/

section
variable {s : State} {b k : ℕ} {x : BayKernel}

theorem State.level_of_get? (h : (s.bay b).kerns.get? k = some x) : s.level b k = x.level := by rw [State.level, h]

theorem State.onBayKernel_get?_self (s : State) (b k : ℕ) (f : BayKernel → BayKernel) :
    ((s.onBayKernel b k f).bay b).kerns.get? k = ((s.bay b).kerns.get? k).map f := by
  rw [State.onBayKernel, State.setBay_bay_self, Tbl.get?_modify_self]

/-- What leaves the slots of a kernel on a bay leaves its code. -/
theorem State.codeSlot_onBayKernel {f : BayKernel → BayKernel} (hf : ∀ x, (f x).slots = x.slots) (b' k' n : ℕ) :
    (s.onBayKernel b k f).codeSlot b' k' n = s.codeSlot b' k' n := by
  unfold State.codeSlot
  rcases eq_or_ne b b' with rfl | hb
  · rcases eq_or_ne k k' with rfl | hk
    · rw [State.onBayKernel_get?_self]
      cases (s.bay b).kerns.get? k with
      | none => rfl
      | some x =>
        show (f x).slots.getD n .empty = x.slots.getD n .empty
        rw [hf]
    · rw [State.onBayKernel, State.setBay_bay_self, Tbl.get?_modify_ne _ _ hk]
  · rw [State.onBayKernel, State.setBay_bay_ne (h := hb)]

theorem State.nextPc_onBayKernel {f : BayKernel → BayKernel} (hf : ∀ x, (f x).slots = x.slots) (rid : ℕ) (c : Crew) :
    (s.onBayKernel b k f).nextPc rid c = s.nextPc rid c := by
  rw [State.nextPc, State.nextPc, State.codeOf, State.codeOf, State.codeSlot_onBayKernel hf]

theorem State.nextPc_of_bays {t : State} (h : t.bays = s.bays) (rid : ℕ) (c : Crew) : t.nextPc rid c = s.nextPc rid c := by
  simp only [State.nextPc, State.codeOf, State.codeSlot, State.bay, h]

theorem State.level_of_bays {t : State} (h : t.bays = s.bays) (b k : ℕ) : t.level b k = s.level b k := by
  simp only [State.level, State.bay, h]

end

/-! ## Crews that look again, and crews that wait for leave no longer (R113) -/

/-- A burst that waited for leave goes on. -/
def woken (c : Crew) : Crew := { c with burst := true, wait := .none }

section
variable {s : State} {b k rid : ℕ} {c : Crew}

theorem Crew.leaveAgain_of_pipe (h : c.wait = .pipe) : c.leaveAgain = { c with wait := .none } := if_pos h

theorem Crew.leaveAgain_of_other (h : c.wait ≠ .pipe) : c.leaveAgain = c := if_neg h

theorem Crew.leaveAgain_kernel (c : Crew) : c.leaveAgain.kernel = c.kernel := by
  unfold Crew.leaveAgain
  split <;> rfl

theorem Crew.leaveAgain_wait_ne_pipe (c : Crew) : c.leaveAgain.wait ≠ .pipe := by
  unfold Crew.leaveAgain
  split
  · exact nofun
  · next h => exact h

/-- To look again changes nothing of a crew but a wait for the pipe. -/
theorem Crew.leaveAgain_wait_eq {w : Wait} (hp : w ≠ .pipe) (hn : w ≠ .none) : c.leaveAgain.wait = w ↔ c.wait = w := by
  by_cases h : c.wait = .pipe
  · rw [Crew.leaveAgain_of_pipe h, h]
    exact ⟨fun h => absurd h.symm hn, fun h => absurd h.symm hp⟩
  · rw [Crew.leaveAgain_of_other h]

/-- A crew after those of a bay, of one kernel or of any, have looked again. -/
def again (b : ℕ) (k : Option ℕ) (rid : ℕ) (c : Crew) : Crew := if ridBay rid = b ∧ (k = none ∨ k = some c.kernel) then c.leaveAgain else c

theorem again_none (b rid : ℕ) (c : Crew) : again b none rid c = if ridBay rid = b then c.leaveAgain else c := by simp [again]

theorem again_of_out {k : ℕ} (h : ridBay rid ≠ b ∨ c.kernel ≠ k) : again b (some k) rid c = c :=
  if_neg (by
    rintro ⟨hb, hk | hk⟩
    · exact nomatch hk
    · exact h.elim (· hb) (· (Option.some.inj hk).symm))

theorem again_of_in {k : ℕ} (hb : ridBay rid = b) (hk : c.kernel = k) : again b (some k) rid c = c.leaveAgain :=
  if_pos ⟨hb, .inr (by rw [hk])⟩

theorem State.leaveAgain_crews (s : State) (b : ℕ) (k : Option ℕ) :
    (s.leaveAgain b k).crews = s.crews.map (fun p => (p.1, again b k p.1 p.2)) := by
  refine List.map_congr_left fun p _ => ?_
  unfold again
  split <;> rfl

theorem State.leaveAgain_crew (s : State) (b : ℕ) (k : Option ℕ) (rid : ℕ) :
    (s.leaveAgain b k).crews.get? rid = (s.crews.get? rid).map (again b k rid) := by
  rw [State.leaveAgain_crews]
  exact Tbl.get?_map (again b k) _ _

/-! ### Asking for a raise -/

/-- What asks for a raise changes neither what the bays keep nor memory, and withdraws no raise. -/
structure Asks (s t : State) : Prop where
  bays : t.bays = s.bays
  mem : t.mem = s.mem
  raising : ∀ b k who, s.raising b k who = true → t.raising b k who = true

theorem Asks.refl (s : State) : Asks s s := ⟨rfl, rfl, fun _ _ _ h => h⟩

theorem Asks.trans {t u : State} (h : Asks s t) (g : Asks t u) : Asks s u :=
  ⟨g.bays.trans h.bays, g.mem.trans h.mem, fun b k who hr => g.raising b k who (h.raising b k who hr)⟩

theorem Asks.foldl {α : Type} {f : State → α → State} (hf : ∀ s a, Asks s (f s a)) (l : List α) (s : State) : Asks s (l.foldl f s) := by
  induction l generalizing s with
  | nil => exact Asks.refl s
  | cons a l ih => exact (hf s a).trans (ih _)

theorem State.askRaise_asks (s : State) (b k : ℕ) (who : RaiseFor) : Asks s (s.askRaise b k who) := by
  unfold State.askRaise
  split
  · exact Asks.refl s
  · refine ⟨rfl, rfl, fun b' k' who' hr => ?_⟩
    rw [State.raising, Bool.or_eq_true] at hr ⊢
    refine hr.imp (fun hg => ?_) id
    rw [List.any_append, hg, Bool.true_or]

theorem State.askRaise_raising (s : State) (b k : ℕ) (who : RaiseFor) : (s.askRaise b k who).raising b k who = true := by
  unfold State.askRaise
  split
  · next h => exact h
  · simp [State.raising]

theorem State.askForCmd_asks (s : State) (id : ℕ) : Asks s (s.askForCmd id) := by
  unfold State.askForCmd
  split
  · split
    · exact Asks.refl s
    · split
      · exact ⟨rfl, rfl, fun _ _ _ h => h⟩
      · exact s.askRaise_asks _ _ _
  · exact Asks.refl s

theorem State.askForCmd_crews (s : State) (id : ℕ) : (s.askForCmd id).crews = s.crews := by
  unfold State.askForCmd State.askRaise
  split
  · split
    · rfl
    · split
      · rfl
      · split <;> rfl
  · rfl

theorem State.foldl_askForCmd_crews (l : List Cmd) (s : State) : (l.foldl (fun s m => s.askForCmd m.id) s).crews = s.crews := by
  induction l generalizing s with
  | nil => rfl
  | cons m l ih => exact (ih _).trans (s.askForCmd_crews m.id)

theorem State.askForBurst_asks (s : State) (rid : ℕ) (c : Crew) : Asks s (s.askForBurst rid c) := by
  unfold State.askForBurst
  split
  · exact ⟨rfl, rfl, fun _ _ _ h => h⟩
  · exact s.askRaise_asks _ _ _

theorem State.askForBurst_crew (s : State) (r : ℕ) (d : Crew) (rid : ℕ) : (s.askForBurst r d).crews.get? rid =
    if r = rid ∧ s.level (ridBay r) d.kernel = 15 then (s.crews.get? rid).map woken else s.crews.get? rid := by
  unfold State.askForBurst
  by_cases hl : s.level (ridBay r) d.kernel = 15
  · rw [if_pos hl]
    rcases eq_or_ne r rid with rfl | hr
    · rw [if_pos ⟨rfl, hl⟩]
      exact State.setCrew_crew_self ..
    · rw [if_neg (fun h => hr h.1)]
      exact State.setCrew_crew_ne _ _ hr
  · rw [if_neg hl, if_neg (fun h => hl h.2), State.askRaise]
    split <;> rfl

/-- Several crews ask: one is woken where an entry of it is at level 15. -/
theorem State.foldl_askForBurst_crew (l : List (ℕ × Crew)) (s : State) (rid : ℕ) :
    (l.foldl (fun s p => s.askForBurst p.1 p.2) s).crews.get? rid =
      if ∃ p ∈ l, p.1 = rid ∧ s.level (ridBay p.1) p.2.kernel = 15 then (s.crews.get? rid).map woken else s.crews.get? rid := by
  induction l generalizing s with
  | nil => simp
  | cons p l ih =>
    have hlev (b k : ℕ) : (s.askForBurst p.1 p.2).level b k = s.level b k := State.level_of_bays (s.askForBurst_asks p.1 p.2).bays b k
    rw [List.foldl_cons, ih, State.askForBurst_crew]
    simp only [hlev, List.exists_mem_cons_iff]
    by_cases hp : p.1 = rid ∧ s.level (ridBay p.1) p.2.kernel = 15
    · rw [if_pos hp, if_pos (Or.inl hp)]
      split
      · cases s.crews.get? rid <;> rfl
      · rfl
    · simp only [hp, if_false, false_or]

theorem State.foldl_askForBurst_raising {l : List (ℕ × Crew)} {p : ℕ × Crew} (s : State) (hp : p ∈ l)
    (hl : s.level (ridBay p.1) p.2.kernel ≠ 15) :
    (l.foldl (fun s p => s.askForBurst p.1 p.2) s).raising (ridBay p.1) p.2.kernel (.burst p.1) = true := by
  induction l generalizing s with
  | nil => exact absurd hp List.not_mem_nil
  | cons q l ih =>
    rcases List.mem_cons.mp hp with rfl | hq
    · refine (Asks.foldl (fun s p => s.askForBurst_asks p.1 p.2) l _).raising _ _ _ ?_
      show (s.askForBurst p.1 p.2).raising _ _ _ = true
      have hask : s.askForBurst p.1 p.2 = s.askRaise (ridBay p.1) p.2.kernel (.burst p.1) := if_neg hl
      rw [hask]
      exact s.askRaise_raising _ _ _
    · exact ih _ hq (by rwa [State.level_of_bays (s.askForBurst_asks q.1 q.2).bays])

end

/-! ## A window of the leave unit begins (R113) -/

/-- A kernel's allowance begins anew. -/
def renewed (clk : ℕ) (x : BayKernel) : BayKernel := { x with window := windowOf clk, accepted := x.used clk, refused := none }

/-- The allowances of a bay begin anew. -/
def State.newWindow (s : State) (b : ℕ) : State :=
  s.setBay b (fun y => { y with kerns := y.kerns.map (fun p => (p.1, renewed s.clock p.2)) })

/-- The commands and the MMAs of a bay have looked again. -/
def State.lookedAgain (s : State) (b : ℕ) : State :=
  (((s.newWindow b).cmds.filter (fun m => decide (m.bay = b) && m.leave && decide (m.stage = .waiting))).foldl
    (fun s m => s.askForCmd m.id) (s.newWindow b)).leaveAgain b none

/-- The crews of a bay that wait for leave for a burst. -/
def State.bursts (s : State) (b : ℕ) : List (ℕ × Crew) := s.crews.filter (fun p => decide (ridBay p.1 = b) && decide (p.2.wait = .leave))

section
variable {s : State} {b k rid : ℕ} {c : Crew}

theorem exec_leaveWindow (hp : s.place = .bay b) :
    exec .leaveWindow s = .next (((s.lookedAgain b).bursts b).foldl (fun s p => s.askForBurst p.1 p.2) (s.lookedAgain b)) := by
  show execLeaveWindow s = _
  rw [execLeaveWindow, atBay, hp]
  rfl

theorem State.newWindow_get? (s : State) (b j : ℕ) :
    ((s.newWindow b).bay b).kerns.get? j = ((s.bay b).kerns.get? j).map (renewed s.clock) := by
  rw [State.newWindow, State.setBay_bay_self]
  exact Tbl.get?_map (fun _ x => renewed s.clock x) _ _

theorem State.newWindow_level (s : State) (b k : ℕ) : (s.newWindow b).level b k = s.level b k := by
  rw [State.level, State.newWindow_get?, State.level]
  cases (s.bay b).kerns.get? k <;> rfl

theorem State.lookedAgain_asks (s : State) (b : ℕ) : Asks (s.newWindow b) (s.lookedAgain b) := by
  obtain ⟨hbays, hmem, hr⟩ := Asks.foldl (fun (s : State) (m : Cmd) => s.askForCmd_asks m.id)
    ((s.newWindow b).cmds.filter (fun m => decide (m.bay = b) && m.leave && decide (m.stage = .waiting))) (s.newWindow b)
  exact ⟨hbays, hmem, hr⟩

/-- The crews of the bay have looked again, in their places. -/
theorem State.lookedAgain_crews (s : State) (b : ℕ) : (s.lookedAgain b).crews = s.crews.map (fun p => (p.1, again b none p.1 p.2)) := by
  rw [State.lookedAgain, State.leaveAgain_crews, State.foldl_askForCmd_crews]
  rfl

theorem State.lookedAgain_level (s : State) (b k : ℕ) : (s.lookedAgain b).level b k = s.level b k :=
  (State.level_of_bays (s.lookedAgain_asks b).bays b k).trans (s.newWindow_level b k)

theorem State.mem_bursts_lookedAgain {p : ℕ × Crew} : p ∈ (s.lookedAgain b).bursts b ↔ p ∈ s.crews ∧ ridBay p.1 = b ∧ p.2.wait = .leave := by
  rw [State.bursts, List.mem_filter, State.lookedAgain_crews, List.mem_map]
  simp only [Bool.and_eq_true, decide_eq_true_eq, again_none]
  constructor
  · rintro ⟨⟨q, hq, rfl⟩, hb, hw⟩
    have hb' : ridBay q.1 = b := hb
    rw [if_pos hb'] at hw ⊢
    have hwait : q.2.wait = .leave := (Crew.leaveAgain_wait_eq (w := .leave) nofun nofun).mp hw
    rw [Crew.leaveAgain_of_other (by rw [hwait]; exact nofun)]
    exact ⟨hq, hb, hwait⟩
  · rintro ⟨hq, hb, hw⟩
    refine ⟨⟨p, hq, ?_⟩, hb, hw⟩
    rw [if_pos hb, Crew.leaveAgain_of_other (by rw [hw]; exact nofun)]

theorem leaveWindow_crew (hc : s.crews.get? rid = some c) (hone : ∀ p ∈ s.crews, p.1 = rid → p.2 = c) :
    (((s.lookedAgain b).bursts b).foldl (fun s p => s.askForBurst p.1 p.2) (s.lookedAgain b)).crews.get? rid =
      some (if ridBay rid ≠ b then c else if c.wait = .pipe then { c with wait := .none } else
        if c.wait = .leave ∧ s.level b c.kernel = 15 then { c with burst := true, wait := .none } else c) := by
  have hget : (s.lookedAgain b).crews.get? rid = some (if ridBay rid = b then c.leaveAgain else c) := by
    rw [State.lookedAgain_crews, Tbl.get?_map (again b none), hc, Option.map_some, again_none]
  have hex : (∃ p ∈ (s.lookedAgain b).bursts b, p.1 = rid ∧ (s.lookedAgain b).level (ridBay p.1) p.2.kernel = 15) ↔
      ridBay rid = b ∧ c.wait = .leave ∧ s.level b c.kernel = 15 := by
    constructor
    · rintro ⟨p, hp, rfl, hl⟩
      obtain ⟨hmem, hb, hw⟩ := State.mem_bursts_lookedAgain.mp hp
      rw [hone p hmem rfl] at hw hl
      rw [hb, State.lookedAgain_level] at hl
      exact ⟨hb, hw, hl⟩
    · rintro ⟨hb, hw, hl⟩
      refine ⟨(rid, c), State.mem_bursts_lookedAgain.mpr ⟨Tbl.mem_of_get? hc, hb, hw⟩, rfl, ?_⟩
      rw [hb, State.lookedAgain_level, hl]
  rw [State.foldl_askForBurst_crew, hget]
  simp only [hex]
  by_cases hb : ridBay rid = b
  · simp only [hb, true_and, if_true, ne_eq, not_true, if_false]
    by_cases hw : c.wait = .pipe
    · rw [if_pos hw, Crew.leaveAgain_of_pipe hw, if_neg (by rw [hw]; exact fun h => nomatch h.1)]
    · rw [if_neg hw, Crew.leaveAgain_of_other hw]
      split <;> rfl
  · simp only [hb, false_and, if_false, ne_eq, not_false_eq_true, if_true]

theorem leaveWindow_runs (hp : s.place = .bay b) : Runs .leaveWindow s (fun t => t.mem = s.mem ∧
    (∀ rid c, s.crews.get? rid = some c → (∀ p ∈ s.crews, p.1 = rid → p.2 = c) →
      t.crews.get? rid = some (if ridBay rid ≠ b then c else if c.wait = .pipe then { c with wait := .none } else
        if c.wait = .leave ∧ s.level b c.kernel = 15 then { c with burst := true, wait := .none } else c) ∧
      (ridBay rid = b → c.wait = .leave → s.level b c.kernel ≠ 15 → t.raising b c.kernel (.burst rid) = true)) ∧
    ∀ j x, (s.bay b).kerns.get? j = some x → (t.bay b).kerns.get? j = some (renewed s.clock x)) := by
  have hasks := (s.lookedAgain_asks b).trans
    (Asks.foldl (fun (s : State) (p : ℕ × Crew) => s.askForBurst_asks p.1 p.2) ((s.lookedAgain b).bursts b) (s.lookedAgain b))
  refine ⟨_, exec_leaveWindow hp, hasks.mem, fun rid c hc hone => ⟨leaveWindow_crew hc hone, fun hb hw hl => ?_⟩, fun j x hx => ?_⟩
  · have hmem : (rid, c) ∈ (s.lookedAgain b).bursts b := State.mem_bursts_lookedAgain.mpr ⟨Tbl.mem_of_get? hc, hb, hw⟩
    have := State.foldl_askForBurst_raising (s.lookedAgain b) hmem (by rwa [hb, State.lookedAgain_level])
    rwa [hb] at this
  · rw [State.bay, hasks.bays]
    exact (s.newWindow_get? b j).trans (by rw [hx]; rfl)

end

/-! ## A level rises (R113) -/

section
variable {s : State} {b k n : ℕ} {x : BayKernel}

/-- A crew of a kernel on a bay after the level has risen there, full where it is 15 now. -/
def risen (b k : ℕ) (full : Prop) [Decidable full] (rid : ℕ) (c : Crew) : Crew :=
  if ridBay rid ≠ b ∨ c.kernel ≠ k then c else if c.wait = .pipe then { c with wait := .none }
    else if c.wait = .leave ∧ full then woken c else c

/-- At level 15 the commands of a kernel on a bay, and its bursts, wait for no leave. -/
def State.allWoken (s : State) (b k : ℕ) : State :=
  { s with
    cmds := s.cmds.map (fun m => if m.bay = b ∧ m.k = k then { m with leave := false } else m)
    crews := s.crews.map (fun (p : Nat × Crew) =>
      if ridBay p.1 = b ∧ p.2.kernel = k ∧ p.2.wait = Wait.leave then (p.1, { p.2 with burst := true, wait := .none }) else p) }

theorem State.levelRisen_of_full (h : s.level b k = 15) : s.levelRisen b k = (s.leaveAgain b (some k)).allWoken b k := if_pos h

theorem State.levelRisen_of_short (h : s.level b k ≠ 15) : s.levelRisen b k = s.leaveAgain b (some k) := if_neg h

/-- Only crews and commands see a level rise. -/
theorem State.levelRisen_rest (s : State) (b k : ℕ) :
    s.levelRisen b k = { s with crews := (s.levelRisen b k).crews, cmds := (s.levelRisen b k).cmds } := by
  by_cases h : s.level b k = 15
  · rw [State.levelRisen_of_full h]
    rfl
  · rw [State.levelRisen_of_short h]
    rfl

theorem State.allWoken_crew (s : State) (b k rid : ℕ) : (s.allWoken b k).crews.get? rid =
    (s.crews.get? rid).map (fun c => if ridBay rid = b ∧ c.kernel = k ∧ c.wait = .leave then woken c else c) := by
  have hmap : (s.allWoken b k).crews =
      s.crews.map (fun p => (p.1, if ridBay p.1 = b ∧ p.2.kernel = k ∧ p.2.wait = .leave then woken p.2 else p.2)) := by
    refine List.map_congr_left fun p _ => ?_
    split <;> rfl
  rw [hmap]
  exact Tbl.get?_map (fun rid (c : Crew) => if ridBay rid = b ∧ c.kernel = k ∧ c.wait = .leave then woken c else c) _ _

theorem risen_of_out {full : Prop} [Decidable full] {rid : ℕ} {c : Crew} (h : ridBay rid ≠ b ∨ c.kernel ≠ k) : risen b k full rid c = c :=
  if_pos h

theorem risen_of_in {full : Prop} [Decidable full] {rid : ℕ} {c : Crew} (hb : ridBay rid = b) (hk : c.kernel = k) :
    risen b k full rid c = if c.wait = .pipe then { c with wait := .none } else if c.wait = .leave ∧ full then woken c else c :=
  if_neg (not_or.mpr ⟨not_not.mpr hb, not_not.mpr hk⟩)

theorem State.levelRisen_crew (s : State) (b k rid : ℕ) :
    (s.levelRisen b k).crews.get? rid = (s.crews.get? rid).map (risen b k (s.level b k = 15) rid) := by
  by_cases hfull : s.level b k = 15
  · rw [State.levelRisen_of_full hfull, State.allWoken_crew, State.leaveAgain_crew, Option.map_map]
    refine congrArg (Option.map · _) (funext fun c => ?_)
    rw [Function.comp_apply]
    by_cases hin : ridBay rid = b ∧ c.kernel = k
    · obtain ⟨hb, hk⟩ := hin
      rw [again_of_in hb hk, risen_of_in hb hk]
      by_cases hp : c.wait = .pipe
      · rw [if_pos hp, Crew.leaveAgain_of_pipe hp]
        exact if_neg (fun h => nomatch h.2.2)
      · rw [if_neg hp, Crew.leaveAgain_of_other hp]
        by_cases hw : c.wait = .leave
        · rw [if_pos ⟨hb, hk, hw⟩, if_pos ⟨hw, hfull⟩]
        · rw [if_neg (fun h => hw h.2.2), if_neg (fun h => hw h.1)]
    · rw [again_of_out (not_and_or.mp hin), risen_of_out (not_and_or.mp hin), if_neg (fun h => hin ⟨h.1, h.2.1⟩)]
  · rw [State.levelRisen_of_short hfull, State.leaveAgain_crew]
    refine congrArg (Option.map · _) (funext fun c => ?_)
    by_cases hin : ridBay rid = b ∧ c.kernel = k
    · rw [again_of_in hin.1 hin.2, risen_of_in hin.1 hin.2, if_neg (fun h : c.wait = .leave ∧ s.level b k = 15 => hfull h.2)]
      rfl
    · rw [again_of_out (not_and_or.mp hin), risen_of_out (not_and_or.mp hin)]

theorem State.levelRisen_cmds (h : s.level b k = 15) : ∀ m ∈ (s.levelRisen b k).cmds, m.bay = b → m.k = k → m.leave = false := by
  rw [State.levelRisen_of_full h]
  intro m hm hb hk
  obtain ⟨y, -, rfl⟩ := List.mem_map.mp hm
  by_cases hy : y.bay = b ∧ y.k = k
  · rw [if_pos hy]
  · rw [if_neg hy] at hb hk
    exact absurd ⟨hb, hk⟩ hy

/-- The level of a kernel on a bay after n units have been granted. -/
def lifted (l n : ℕ) : ℕ := l + min n (15 - l)

theorem lifted_one_of_lt {l : ℕ} (h : l < 15) : lifted l 1 = l + 1 := by
  rw [lifted]
  omega

theorem lifted_one_eq_full {l : ℕ} : lifted l 1 = 15 ↔ l = 14 ∨ l = 15 := by
  rw [lifted]
  omega

/-- The units of a raise are counted on the bay and by the kernel, and those beyond level 15 go back. -/
def State.lift (s : State) (b k n : ℕ) : State :=
  ((s.onBayKernel b k (fun x => { x with level := x.level + min n (15 - s.level b k) })).setKern k
    (fun y => y.setHeld (dieOf b) (y.held (dieOf b) + min n (15 - s.level b k)))).returnUnits (dieOf b) (n - min n (15 - s.level b k))

theorem State.raiseLevel_eq (s : State) (b k n : ℕ) : s.raiseLevel b k n = (s.lift b k n).levelRisen b k := rfl

theorem State.lift_get? (h : (s.bay b).kerns.get? k = some x) :
    ((s.lift b k n).bay b).kerns.get? k = some { x with level := lifted x.level n } := by
  refine (State.onBayKernel_get?_self s b k _).trans ?_
  rw [h, State.level_of_get? h]
  rfl

theorem State.lift_level (h : (s.bay b).kerns.get? k = some x) : (s.lift b k n).level b k = lifted x.level n :=
  State.level_of_get? (State.lift_get? h)

theorem Kernel.held_setHeld (y : Kernel) (d n : ℕ) : (y.setHeld d n).held d = n := by
  unfold Kernel.held Kernel.setHeld
  by_cases h : d = 0 <;> simp [h]

theorem State.lift_held (s : State) (b k n : ℕ) :
    ((s.lift b k n).kern k).held (dieOf b) = (s.kern k).held (dieOf b) + min n (15 - s.level b k) := by
  have h : (s.lift b k n).kern k = ((s.onBayKernel b k (fun x => { x with level := x.level + min n (15 - s.level b k) })).setKern k
    (fun y => y.setHeld (dieOf b) (y.held (dieOf b) + min n (15 - s.level b k)))).kern k := rfl
  rw [h, State.setKern_kern_self, Kernel.held_setHeld]
  rfl

theorem State.lift_sets (s : State) (b k n : ℕ) : Sets s (s.lift b k n) .power 0
    [(heldFld (dieOf b), s.fld .power 0 (heldFld (dieOf b)) - (n - min n (15 - s.level b k)))] :=
  Sets.of_sys_left (State.sets_setFld _ _ _ _ _) rfl

theorem State.raiseLevel_bays (s : State) (b k n : ℕ) : (s.raiseLevel b k n).bays = (s.lift b k n).bays :=
  (congrArg State.bays ((s.lift b k n).levelRisen_rest b k)).trans rfl

theorem State.raiseLevel_kernels (s : State) (b k n : ℕ) : (s.raiseLevel b k n).kernels = (s.lift b k n).kernels :=
  (congrArg State.kernels ((s.lift b k n).levelRisen_rest b k)).trans rfl

theorem State.raiseLevel_sys (s : State) (b k n : ℕ) : (s.raiseLevel b k n).sys = (s.lift b k n).sys :=
  (congrArg State.sys ((s.lift b k n).levelRisen_rest b k)).trans rfl

theorem State.raiseLevel_answers (s : State) (b k n : ℕ) : (s.raiseLevel b k n).answers = s.answers :=
  (congrArg State.answers ((s.lift b k n).levelRisen_rest b k)).trans rfl

theorem State.raiseLevel_clock (s : State) (b k n : ℕ) : (s.raiseLevel b k n).clock = s.clock :=
  (congrArg State.clock ((s.lift b k n).levelRisen_rest b k)).trans rfl

theorem risen_congr {p q : Prop} [Decidable p] [Decidable q] (h : p ↔ q) : risen b k p = risen b k q := by
  funext rid c
  unfold risen
  simp only [h]

theorem State.raiseLevel_get? (h : (s.bay b).kerns.get? k = some x) :
    ((s.raiseLevel b k n).bay b).kerns.get? k = some { x with level := lifted x.level n } := by
  rw [State.bay, State.raiseLevel_bays]
  exact State.lift_get? h

theorem State.raiseLevel_crew (h : (s.bay b).kerns.get? k = some x) (r : ℕ) :
    (s.raiseLevel b k n).crews.get? r = (s.crews.get? r).map (risen b k (lifted x.level n = 15) r) := by
  rw [State.raiseLevel_eq, State.levelRisen_crew, risen_congr (Eq.congr_left (State.lift_level h))]
  rfl

theorem State.lift_nextPc (s : State) (b k n rid : ℕ) (c : Crew) : (s.lift b k n).nextPc rid c = s.nextPc rid c := by
  have hbays : (s.lift b k n).bays = (s.onBayKernel b k (fun x => { x with level := x.level + min n (15 - s.level b k) })).bays := rfl
  rw [State.nextPc_of_bays hbays]
  exact State.nextPc_onBayKernel (by intro; rfl) rid c

theorem State.raiseLevel_nextPc (s : State) (b k n rid : ℕ) (c : Crew) : (s.raiseLevel b k n).nextPc rid c = s.nextPc rid c :=
  (State.nextPc_of_bays (s.raiseLevel_bays b k n) rid c).trans (s.lift_nextPc b k n rid c)

end

/-! ## The answer to a raise (R113) -/

/-- The answer to a raise of a kernel on a bay. -/
def answersRaise (b k : ℕ) (a : GovReq × Bool) : Bool :=
  match a.1.what with
  | .raise b' k' _ => decide (b' = b) && decide (k' = k)
  | _ => false

section
variable {s : State} {b k die : ℕ} {who : RaiseFor} {ok : Bool} {x : BayKernel}

theorem exec_leaveRaiseAnswer (hp : s.place = .kernelBay k b)
    (h : s.answers.find? (answersRaise b k) = some (⟨die, .raise b k who⟩, ok)) :
    exec .leaveRaiseAnswer s = .next ((if ok then
      { s with answers := s.answers.erase (⟨die, .raise b k who⟩, ok) }.raiseLevel b k 1
      else { s with answers := s.answers.erase (⟨die, .raise b k who⟩, ok) }).raiseAnswered b k who ok) := by
  show execLeaveRaiseAnswer s = _
  rw [execLeaveRaiseAnswer, hp]
  dsimp only
  split
  · next r ok' h' =>
    obtain ⟨rfl, rfl⟩ := Prod.mk.inj (Option.some.inj (h'.symm.trans h))
    rfl
  · next h' => exact absurd (h'.symm.trans h) nofun

theorem State.raiseAnswered_granted (s : State) (b k : ℕ) (who : RaiseFor) : s.raiseAnswered b k who true =
    { s with crews := (s.raiseAnswered b k who true).crews, cmds := (s.raiseAnswered b k who true).cmds } := by
  cases who <;> rfl

theorem risen_not_pipe {full : Prop} [Decidable full] {rid : ℕ} {c : Crew} (hb : ridBay rid = b) (hk : c.kernel = k) :
    (risen b k full rid c).wait ≠ .pipe := by
  rw [risen_of_in hb hk]
  split
  · exact nofun
  · next hp =>
    split
    · exact nofun
    · exact hp

theorem risen_kernel {full : Prop} [Decidable full] (rid : ℕ) (c : Crew) : (risen b k full rid c).kernel = c.kernel := by
  unfold risen
  split
  · rfl
  · split
    · rfl
    · split <;> rfl

/-- A raise for an MMA or a command wakes no burst beyond what the level wakes. -/
theorem State.raiseAnswered_crew {full : Prop} [Decidable full] {t : State} (hw : ∀ r, who ≠ .burst r)
    (ht : ∀ r, t.crews.get? r = (s.crews.get? r).map (risen b k full r)) (r : ℕ) :
    (t.raiseAnswered b k who true).crews.get? r = (s.crews.get? r).map (risen b k full r) := by
  cases who with
  | mma =>
    have h : (t.raiseAnswered b k .mma true) = t.leaveAgain b (some k) := rfl
    rw [h, State.leaveAgain_crew, ht, Option.map_map]
    refine congrArg (Option.map · _) (funext fun c => ?_)
    rw [Function.comp_apply]
    by_cases hin : ridBay r = b ∧ c.kernel = k
    · rw [again_of_in hin.1 ((risen_kernel r c).trans hin.2), Crew.leaveAgain_of_other (risen_not_pipe hin.1 hin.2)]
    · rw [risen_of_out (not_and_or.mp hin), again_of_out (not_and_or.mp hin)]
  | cmd id => exact ht r
  | burst r' => exact absurd rfl (hw r')

theorem State.raiseAnswered_burst {r : ℕ} {c : Crew} {full : Prop} [Decidable full] {t : State}
    (ht : t.crews.get? r = (s.crews.get? r).map (risen b k full r)) (hc : s.crews.get? r = some c) (hk : c.kernel = k) (hl : c.wait = .leave) :
    (t.raiseAnswered b k (.burst r) true).crews.get? r = some (woken c) := by
  have h : (t.raiseAnswered b k (.burst r) true).crews.get? r =
      (t.crews.get? r).map (fun c => if c.kernel = k ∧ c.wait = Wait.leave then woken c else c) := State.setCrew_crew_self ..
  rw [h, ht, hc]
  refine congrArg some ?_
  have hr : risen b k full r c = c ∨ risen b k full r c = woken c := by
    unfold risen
    split
    · exact .inl rfl
    · rw [if_neg (by rw [hl]; exact nofun)]
      split
      · exact .inr rfl
      · exact .inl rfl
  rcases hr with hr | hr
  · dsimp only
    rw [hr, if_pos ⟨hk, hl⟩]
  · dsimp only
    rw [hr, if_neg (fun h => nomatch h.2)]

theorem State.raiseAnswered_cmds {t : State} (h : ∀ m ∈ t.cmds, m.bay = b → m.k = k → m.leave = false) :
    ∀ m ∈ (t.raiseAnswered b k who true).cmds, m.bay = b → m.k = k → m.leave = false := by
  cases who with
  | mma => exact h
  | burst r => exact h
  | cmd id =>
    intro m hm hb hk
    obtain ⟨y, hy, rfl⟩ := List.mem_map.mp hm
    by_cases hid : y.id = id
    · rw [if_pos hid]
    · rw [if_neg hid] at hb hk ⊢
      exact h y hy hb hk

theorem State.mapCmd_leave (t : State) (id : ℕ) : ∀ m ∈ (t.mapCmd id (fun m => { m with leave := false })).cmds, m.id = id → m.leave = false := by
  intro m hm hid
  obtain ⟨y, -, rfl⟩ := List.mem_map.mp hm
  by_cases hy : y.id = id
  · rw [if_pos hy]
  · rw [if_neg hy] at hid
    exact absurd hid hy

theorem leaveRaiseAnswer_runs (hp : s.place = .kernelBay k b) (hx : (s.bay b).kerns.get? k = some x)
    (h : s.answers.find? (answersRaise b k) = some (⟨die, .raise b k who⟩, ok)) : Runs .leaveRaiseAnswer s (fun t =>
      t.answers = s.answers.erase (⟨die, .raise b k who⟩, ok) ∧
      (ok = true → x.level < 15 → (t.bay b).kerns.get? k = some { x with level := x.level + 1 } ∧
        (t.kern k).held (dieOf b) = (s.kern k).held (dieOf b) + 1) ∧
      (ok = true → 15 ≤ x.level → (t.bay b).kerns.get? k = some x ∧
        Sets s t .power 0 [(heldFld (dieOf b), s.fld .power 0 (heldFld (dieOf b)) - 1)]) ∧
      (ok = false → (t.bay b).kerns.get? k =
        some { x with refused := if who = .mma then some (s.clock / 1500) else x.refused }) ∧
      ((∀ r, who ≠ .burst r) → ok = true → ∀ r c, s.crews.get? r = some c → t.crews.get? r =
        some (risen b k (x.level = 14 ∨ x.level = 15) r c)) ∧
      (ok = true → x.level = 14 ∨ x.level = 15 → ∀ m ∈ t.cmds, m.bay = b → m.k = k → m.leave = false) ∧
      (∀ id, who = .cmd id → ok = true → ∀ m ∈ t.cmds, m.id = id → m.leave = false) ∧
      (∀ r c, who = .burst r → ok = true → s.crews.get? r = some c → c.kernel = k → c.wait = .leave →
        t.crews.get? r = some { c with burst := true, wait := .none })) := by
  refine ⟨_, exec_leaveRaiseAnswer hp h, ?_⟩
  generalize hu : ({ s with answers := s.answers.erase (⟨die, .raise b k who⟩, ok) } : State) = u
  have hanswers : u.answers = s.answers.erase (⟨die, .raise b k who⟩, ok) := by rw [← hu]
  have hcrews : u.crews = s.crews := by rw [← hu]
  have hkern : u.kern k = s.kern k := by rw [← hu]; rfl
  have hsys : u.sys = s.sys := by rw [← hu]
  have hclock : u.clock = s.clock := by rw [← hu]
  have hux : (u.bay b).kerns.get? k = some x := by rw [← hu]; exact hx
  have hlevel : u.level b k = x.level := State.level_of_get? hux
  cases ok with
  | true =>
    have hcrew (r : ℕ) : (u.raiseLevel b k 1).crews.get? r = (s.crews.get? r).map (risen b k (x.level = 14 ∨ x.level = 15) r) := by
      rw [State.raiseLevel_crew hux, hcrews, risen_congr lifted_one_eq_full]
    have hrest := ((u.raiseLevel b k 1).raiseAnswered_granted b k who)
    have hget : (((u.raiseLevel b k 1).raiseAnswered b k who true).bay b).kerns.get? k = some { x with level := lifted x.level 1 } := by
      rw [State.bay, congrArg State.bays hrest]
      exact State.raiseLevel_get? hux
    rw [if_pos rfl]
    refine ⟨?_, fun _ hlt => ⟨?_, ?_⟩, fun _ hge => ⟨?_, ?_⟩, nofun, fun hw _ r c hc => ?_, fun _ hfull => ?_, fun id hid _ => ?_,
      fun r c hr _ hc hk hl => ?_⟩
    · exact (congrArg State.answers hrest).trans ((u.raiseLevel_answers b k 1).trans hanswers)
    · rw [hget, lifted_one_of_lt hlt]
    · rw [State.kern, congrArg State.kernels hrest]
      have hk := u.lift_held b k 1
      rw [State.kern, ← State.raiseLevel_kernels] at hk
      refine hk.trans ?_
      rw [hlevel, hkern, Nat.min_eq_left (by omega)]
    · rw [hget, lifted, Nat.sub_eq_zero_of_le hge, Nat.min_zero]
      rfl
    · have hs := u.lift_sets b k 1
      rw [hlevel, Nat.sub_eq_zero_of_le hge, Nat.min_zero, State.fld_congr hsys] at hs
      exact Sets.of_sys_left (Sets.of_sys hs ((congrArg State.sys hrest).trans (u.raiseLevel_sys b k 1))) hsys.symm
    · rw [State.raiseAnswered_crew hw hcrew, hc]
      rfl
    · refine State.raiseAnswered_cmds (State.levelRisen_cmds ((State.lift_level hux).trans ?_))
      exact lifted_one_eq_full.mpr hfull
    · subst hid
      exact State.mapCmd_leave _ id
    · subst hr
      exact State.raiseAnswered_burst (hcrew r) hc hk hl
  | false =>
    rw [if_neg Bool.false_ne_true]
    refine ⟨?_, fun h => absurd h nofun, fun h => absurd h nofun, fun _ => ?_, fun _ h => absurd h nofun, fun h => absurd h nofun,
      fun _ _ h => absurd h nofun, fun _ _ _ h => absurd h nofun⟩
    · cases who <;> exact hanswers
    · cases who with
      | mma => exact (State.onBayKernel_get?_self u b k _).trans (by rw [hux, hclock]; rfl)
      | cmd id => exact hux
      | burst r => exact hux

end

/-! ## The answer to a LEAVE (R133) -/

/-- The answer to a LEAVE of a kernel on a bay. -/
def answersLeave (b k : ℕ) (a : GovReq × Bool) : Bool :=
  match a.1.what with
  | .leave b' k' _ _ _ => decide (b' = b) && decide (k' = k)
  | _ => false

/-- A cell that is written with one value only reads as that value. -/
theorem writeCells_getD {cs : List (ℕ × Word)} {key : ℕ} {v : Word} (hv : ∀ p ∈ cs, p.1 = key → p.2 = v) :
    ∀ t : Tbl Word, t.getD key 0#32 = v ∨ (key, v) ∈ cs → (writeCells t cs).getD key 0#32 = v := by
  induction cs with
  | nil => exact fun t h => h.elim id (fun h => absurd h List.not_mem_nil)
  | cons p cs ih =>
    intro t h
    refine ih (fun q hq => hv q (List.mem_cons_of_mem _ hq)) _ ?_
    by_cases hp : p.1 = key
    · left
      show (Tbl.write 0#32 t p.1 p.2).getD key 0#32 = v
      rw [hp, Tbl.getD_write_self, hv p List.mem_cons_self hp]
    · refine h.imp (fun ht => ?_) (fun hm => ?_)
      · exact (Tbl.getD_write_ne _ _ _ _ hp).trans ht
      · exact (List.mem_cons.mp hm).resolve_left (fun he => hp (congrArg Prod.fst he).symm)

theorem Crew.putAll_reg {c : Crew} {n d v l : ℕ} (hl : l ∈ c.active) : (c.putAll n d v).reg d l = BitVec.ofNat 32 v := by
  refine writeCells_getD (cs := c.active.flatMap (fun l => cellsAt 1 d l v)) (fun p hp _ => ?_) _
    (.inr (List.mem_flatMap.mpr ⟨l, hl, List.mem_singleton_self _⟩))
  obtain ⟨j, -, hj⟩ := List.mem_flatMap.mp hp
  rw [List.mem_singleton.mp hj]

/-- A crew that a LEAVE has given v in register d. -/
def leaveGiven (s : State) (rid d v : ℕ) (c : Crew) : Crew := { c.putAll s.serial d v with pc := s.nextPc rid c, wait := .none, ready := none }

section
variable {s : State} {b k rid die n lvl units d v : ℕ} {ok : Bool} {x : BayKernel} {c : Crew}

theorem State.leaveResult_crew (s : State) (rid d v : ℕ) :
    (s.leaveResult rid d v).crews.get? rid = (s.crews.get? rid).map (leaveGiven s rid d v) := by
  rw [State.leaveResult, State.resumeNext, State.setCrew_crew_self, State.setCrew_crew_self, Option.map_map]
  rfl

theorem State.leaveResult_crew_ne {r : ℕ} (h : rid ≠ r) : (s.leaveResult rid d v).crews.get? r = s.crews.get? r :=
  (State.setCrew_crew_ne (h := h) ..).trans (State.setCrew_crew_ne (h := h) ..)

/-- What a crew receives stands in every active lane. -/
theorem leaveGiven_reg (hv : v < 2 ^ 32) : ∀ l ∈ c.active, ((leaveGiven s rid d v c).reg d l).toNat = v := by
  intro l hl
  have h : (leaveGiven s rid d v c).reg d l = BitVec.ofNat 32 v := Crew.putAll_reg (n := s.serial) hl
  rw [h, BitVec.toNat_ofNat, Nat.mod_eq_of_lt hv]

/-- A crew that waits for LEAVE request n. -/
def asker (n : ℕ) (p : ℕ × Crew) : Option (ℕ × ℕ × ℕ) :=
  match p.2.wait with
  | .leaveAsk m d u => if m = n then some (p.1, d, u) else none
  | _ => none

theorem State.leaveAsker_eq (s : State) (n : ℕ) : s.leaveAsker n = s.crews.findSome? (asker n) := rfl

/-- Crews that look again or are woken did not wait for a LEAVE. -/
theorem State.leaveAsker_of_map {t : State} {f : ℕ × Crew → ℕ × Crew} (ht : t.crews = s.crews.map f) (hf : ∀ p, asker n (f p) = asker n p) :
    t.leaveAsker n = s.leaveAsker n := by
  rw [State.leaveAsker_eq, State.leaveAsker_eq, ht, List.findSome?_map]
  exact congrArg (List.findSome? · s.crews) (funext hf)

theorem State.leaveAgain_leaveAsker (s : State) (b : ℕ) (k : Option ℕ) (n : ℕ) : (s.leaveAgain b k).leaveAsker n = s.leaveAsker n := by
  refine State.leaveAsker_of_map (s.leaveAgain_crews b k) fun p => ?_
  unfold again Crew.leaveAgain
  split
  · split
    · next hp => simp [asker, hp]
    · rfl
  · rfl

theorem State.levelRisen_leaveAsker (s : State) (b k n : ℕ) : (s.levelRisen b k).leaveAsker n = s.leaveAsker n := by
  by_cases h : s.level b k = 15
  · rw [State.levelRisen_of_full h, ← s.leaveAgain_leaveAsker b (some k) n]
    refine State.leaveAsker_of_map rfl fun p => ?_
    split
    · next hp => simp [asker, hp.2.2]
    · rfl
  · rw [State.levelRisen_of_short h, State.leaveAgain_leaveAsker]

theorem State.raiseLevel_leaveAsker (s : State) (b k m n : ℕ) : (s.raiseLevel b k m).leaveAsker n = s.leaveAsker n :=
  ((s.lift b k m).levelRisen_leaveAsker b k n).trans rfl

/-- The request that stood is closed, and a level that was granted is taken. -/
def State.leaveTaken (s : State) (b k units : ℕ) (ok : Bool) : State :=
  if ok then (s.onBayKernel b k (fun x => { x with openLeave := none })).raiseLevel b k units
  else s.onBayKernel b k (fun x => { x with openLeave := none })

theorem exec_leaveGrantArrive (hp : s.place = .kernelBay k b)
    (h : s.answers.find? (answersLeave b k) = some (⟨die, .leave b k n lvl units⟩, ok)) : exec .leaveGrantArrive s =
      .next ({ s with answers := s.answers.erase (⟨die, .leave b k n lvl units⟩, ok) }.leaveAnswered b k n units ok) := by
  show execLeaveGrantArrive s = _
  rw [execLeaveGrantArrive, hp]
  dsimp only
  split
  · next r ok' h' =>
    obtain ⟨rfl, rfl⟩ := Prod.mk.inj (Option.some.inj (h'.symm.trans h))
    rfl
  · next h' => exact absurd (h'.symm.trans h) nofun

theorem State.leaveAnswered_refused (hx : (s.bay b).kerns.get? k = some x) (ho : x.openLeave ≠ some n) :
    s.leaveAnswered b k n units false = s := by
  simp only [State.leaveAnswered, hx, ho, decide_false, Bool.not_false, if_true, Bool.false_eq_true, if_false]

theorem leaveGrantArrive_stale (hp : s.place = .kernelBay k b) (hx : (s.bay b).kerns.get? k = some x) (ho : x.openLeave ≠ some n)
    (h : s.answers.find? (answersLeave b k) = some (⟨die, .leave b k n lvl units⟩, false)) :
    exec .leaveGrantArrive s = .next { s with answers := s.answers.erase (⟨die, .leave b k n lvl units⟩, false) } :=
  (exec_leaveGrantArrive hp h).trans (congrArg Host.Outcome.next
    (State.leaveAnswered_refused (s := { s with answers := s.answers.erase (⟨die, .leave b k n lvl units⟩, false) }) hx ho))

theorem State.leaveAnswered_open (hx : (s.bay b).kerns.get? k = some x) (ho : x.openLeave = some n) :
    s.leaveAnswered b k n units ok = match (s.leaveTaken b k units ok).leaveAsker n with
      | some (rid, d, u) => (s.leaveTaken b k units ok).leaveResult rid d
          (if (s.leaveTaken b k units ok).clock ≤ u then (if ok then 0 else 0x0E) else 0x0D)
      | none => s.leaveTaken b k units ok := by
  rcases h : (s.leaveTaken b k units ok).leaveAsker n with _ | ⟨rid, d, u⟩
  · simp only [State.leaveTaken] at h ⊢
    simp only [State.leaveAnswered, hx, ho, decide_true, Bool.not_true, Bool.false_eq_true, if_false, h]
  · simp only [State.leaveTaken] at h ⊢
    simp only [State.leaveAnswered, hx, ho, decide_true, Bool.not_true, Bool.false_eq_true, if_false, h]
    exact (apply_ite _ _ _ _).symm

theorem State.leaveTaken_get? (hx : (s.bay b).kerns.get? k = some x) : ((s.leaveTaken b k units ok).bay b).kerns.get? k =
    some { x with openLeave := none, level := if ok then x.level + min units (15 - x.level) else x.level } := by
  have h1 : ((s.onBayKernel b k (fun x => { x with openLeave := none })).bay b).kerns.get? k = some { x with openLeave := none } :=
    (State.onBayKernel_get?_self s b k _).trans (by rw [hx]; rfl)
  cases ok with
  | true => exact State.raiseLevel_get? h1
  | false => exact h1

theorem State.leaveTaken_crew (hx : (s.bay b).kerns.get? k = some x) (r : ℕ) : (s.leaveTaken b k units ok).crews.get? r =
    (s.crews.get? r).map (if ok then risen b k (lifted x.level units = 15) r else id) := by
  have h1 : ((s.onBayKernel b k (fun x => { x with openLeave := none })).bay b).kerns.get? k = some { x with openLeave := none } :=
    (State.onBayKernel_get?_self s b k _).trans (by rw [hx]; rfl)
  cases ok with
  | true => exact State.raiseLevel_crew h1 r
  | false => exact (Option.map_id_apply ..).symm

theorem State.leaveTaken_nextPc (s : State) (b k units : ℕ) (ok : Bool) (rid : ℕ) (c : Crew) :
    (s.leaveTaken b k units ok).nextPc rid c = s.nextPc rid c := by
  cases ok with
  | true => exact (State.raiseLevel_nextPc _ b k units rid c).trans (State.nextPc_onBayKernel (by intro; rfl) rid c)
  | false => exact State.nextPc_onBayKernel (by intro; rfl) rid c

theorem State.leaveTaken_leaveAsker (s : State) (b k units : ℕ) (ok : Bool) (n : ℕ) :
    (s.leaveTaken b k units ok).leaveAsker n = s.leaveAsker n := by
  cases ok with
  | true => exact (State.raiseLevel_leaveAsker _ b k units n).trans rfl
  | false => rfl

theorem State.leaveTaken_clock (s : State) (b k units : ℕ) (ok : Bool) : (s.leaveTaken b k units ok).clock = s.clock := by
  cases ok with
  | true => exact (State.raiseLevel_clock _ b k units).trans rfl
  | false => rfl

/-- A level that rises changes of a crew its wait, and whether its burst may go on. -/
theorem risen_eq {full : Prop} [Decidable full] (rid : ℕ) (c : Crew) : ∃ w z, risen b k full rid c = { c with wait := w, burst := z } := by
  unfold risen
  split
  · exact ⟨c.wait, c.burst, rfl⟩
  · split
    · exact ⟨.none, c.burst, rfl⟩
    · split
      · exact ⟨.none, true, rfl⟩
      · exact ⟨c.wait, c.burst, rfl⟩

theorem State.leaveTaken_asker {e : Crew} (hx : (s.bay b).kerns.get? k = some x) (hc : s.crews.get? rid = some c)
    (he : (s.leaveTaken b k units ok).crews.get? rid = some e) : ∃ w z, e = { c with wait := w, burst := z } := by
  rw [State.leaveTaken_crew hx, hc] at he
  obtain rfl := Option.some.inj he
  cases ok with
  | true => exact risen_eq rid c
  | false => exact ⟨c.wait, c.burst, rfl⟩

theorem State.leaveTaken_pipe (hx : (s.bay b).kerns.get? k = some x) (hc : s.crews.get? rid = some c) (hb : ridBay rid = b)
    (hk : c.kernel = k) (hw : c.wait = .pipe) : (s.leaveTaken b k units true).crews.get? rid = some { c with wait := .none } := by
  rw [State.leaveTaken_crew hx, hc, if_pos rfl, Option.map_some, risen_of_in hb hk, if_pos hw]

theorem leaveGrantArrive_runs (hp : s.place = .kernelBay k b) (hx : (s.bay b).kerns.get? k = some x) (ho : x.openLeave = some n)
    (h : s.answers.find? (answersLeave b k) = some (⟨die, .leave b k n lvl units⟩, ok)) : Runs .leaveGrantArrive s (fun t =>
      (t.bay b).kerns.get? k = some { x with
        openLeave := none, level := if ok then x.level + min units (15 - x.level) else x.level } ∧
      (ok = true → ∀ r c, s.crews.get? r = some c → ridBay r = b → c.kernel = k → c.wait = .pipe → ∃ e, t.crews.get? r = some e ∧ e.wait = .none) ∧
      ∀ rid r u c, s.leaveAsker n = some (rid, r, u) → s.crews.get? rid = some c → ∃ e, t.crews.get? rid = some e ∧ e.wait = .none ∧
        e.pc = s.nextPc rid c ∧ ∀ l ∈ c.active, (e.reg r l).toNat = if u < s.clock then 0x0D else if ok then 0 else 0x0E) := by
  refine ⟨_, exec_leaveGrantArrive hp h, ?_⟩
  generalize hu : ({ s with answers := s.answers.erase (⟨die, .leave b k n lvl units⟩, ok) } : State) = v
  have hcrews : v.crews = s.crews := by rw [← hu]
  have hbays : v.bays = s.bays := by rw [← hu]
  have hclock : v.clock = s.clock := by rw [← hu]
  have hvx : (v.bay b).kerns.get? k = some x := by rw [State.bay, hbays]; exact hx
  rw [State.leaveAnswered_open hvx ho, State.leaveTaken_leaveAsker, State.leaveAsker_eq, hcrews, ← State.leaveAsker_eq, State.leaveTaken_clock,
    hclock]
  have hpipe (hok : ok = true) (r : ℕ) (c : Crew) (hc : s.crews.get? r = some c) (hb : ridBay r = b) (hk : c.kernel = k)
      (hw : c.wait = .pipe) : (v.leaveTaken b k units ok).crews.get? r = some { c with wait := .none } := by
    rw [hok]
    exact State.leaveTaken_pipe hvx (by rw [hcrews, hc]) hb hk hw
  cases hask : s.leaveAsker n with
  | none => exact ⟨State.leaveTaken_get? hvx, fun hok r c hc hb hk hw => ⟨_, hpipe hok r c hc hb hk hw, rfl⟩, fun _ _ _ _ h => absurd h nofun⟩
  | some a =>
    obtain ⟨rid, d, u⟩ := a
    refine ⟨State.leaveTaken_get? hvx, fun hok r c hc hb hk hw => ?_, ?_⟩
    · rcases eq_or_ne rid r with rfl | hr
      · exact ⟨_, (State.leaveResult_crew _ _ _ _).trans (congrArg (Option.map _) (hpipe hok rid c hc hb hk hw)), rfl⟩
      · exact ⟨_, (State.leaveResult_crew_ne hr).trans (hpipe hok r c hc hb hk hw), rfl⟩
    · intro rid' r' u' c ha hc
      obtain ⟨rfl, rfl, rfl⟩ : rid = rid' ∧ d = r' ∧ u = u' := by simpa using ha
      obtain ⟨e, he⟩ : ∃ e, (v.leaveTaken b k units ok).crews.get? rid = some e := by
        rw [State.leaveTaken_crew hvx, hcrews, hc]
        exact ⟨_, rfl⟩
      obtain ⟨w, z, rfl⟩ := State.leaveTaken_asker hvx (by rw [hcrews, hc]) he
      refine ⟨_, (State.leaveResult_crew _ _ _ _).trans (congrArg (Option.map _) he), rfl, ?_, fun l hl => ?_⟩
      · exact (State.leaveTaken_nextPc v b k units ok rid _).trans (State.nextPc_of_bays hbays rid _)
      · refine (leaveGiven_reg (s := v.leaveTaken b k units ok) (rid := rid) (c := { c with wait := w, burst := z }) ?_ l hl).trans ?_
        · split
          · split <;> decide
          · decide
        · by_cases hlate : u < s.clock
          · rw [if_neg hlate.not_ge, if_pos hlate]
          · rw [if_pos (not_lt.mp hlate), if_neg hlate]

/-! ### No answer within 100 clk -/

/-- A crew of a kernel on a bay whose LEAVE has had no answer for 100 clk receives 0x0D. -/
def State.giveUp (b k : ℕ) (s : State) (p : ℕ × Crew) : State :=
  match p.2.wait with
  | .leaveAsk _ d u => if ridBay p.1 = b ∧ p.2.kernel = k ∧ u < s.clock then s.leaveResult p.1 d 0x0D else s
  | _ => s

theorem exec_leaveGrantArrive_late (hp : s.place = .kernelBay k b) (h : s.answers.find? (answersLeave b k) = none) :
    exec .leaveGrantArrive s = .next (s.crews.foldl (State.giveUp b k) s) := by
  show execLeaveGrantArrive s = _
  rw [execLeaveGrantArrive, hp]
  dsimp only
  split
  · next r ok' h' => exact absurd (h'.symm.trans h) nofun
  · rfl

theorem find?_answersLeave_none (h : ∀ a ∈ s.answers, ∀ n lvl units, a.1.what ≠ .leave b k n lvl units) :
    s.answers.find? (answersLeave b k) = none := by
  refine List.find?_eq_none.mpr fun a ha hl => ?_
  unfold answersLeave at hl
  split at hl
  · next b' k' n lvl units hw =>
    obtain ⟨rfl, rfl⟩ : b' = b ∧ k' = k := by simpa using hl
    exact h a ha n lvl units hw
  · exact absurd hl nofun

theorem State.giveUp_of_asking {p : ℕ × Crew} {u : ℕ} (s : State) (hw : p.2.wait = .leaveAsk n d u) : State.giveUp b k s p =
    if ridBay p.1 = b ∧ p.2.kernel = k ∧ u < s.clock then s.leaveResult p.1 d 0x0D else s := by
  rw [State.giveUp, hw]

/-- What the crews before and after it receive leaves a crew, its code and the clk. -/
theorem State.giveUp_of_ne {p : ℕ × Crew} (s : State) (h : p.1 ≠ rid) : (State.giveUp b k s p).crews.get? rid = s.crews.get? rid := by
  unfold State.giveUp
  split
  · split
    · exact State.leaveResult_crew_ne h
    · rfl
  · rfl

theorem State.giveUp_bays (s : State) (p : ℕ × Crew) : (State.giveUp b k s p).bays = s.bays := by
  unfold State.giveUp
  split
  · split <;> rfl
  · rfl

theorem State.giveUp_clock (s : State) (p : ℕ × Crew) : (State.giveUp b k s p).clock = s.clock := by
  unfold State.giveUp
  split
  · split <;> rfl
  · rfl

theorem State.foldl_giveUp_of_ne {l : List (ℕ × Crew)} (hl : ∀ p ∈ l, p.1 ≠ rid) (s : State) :
    (l.foldl (State.giveUp b k) s).crews.get? rid = s.crews.get? rid ∧ (l.foldl (State.giveUp b k) s).bays = s.bays ∧
      (l.foldl (State.giveUp b k) s).clock = s.clock := by
  induction l generalizing s with
  | nil => exact ⟨rfl, rfl, rfl⟩
  | cons p l ih =>
    obtain ⟨hcrew, hbays, hclock⟩ := ih (fun q hq => hl q (List.mem_cons_of_mem _ hq)) (State.giveUp b k s p)
    exact ⟨hcrew.trans (s.giveUp_of_ne (hl p List.mem_cons_self)), hbays.trans (s.giveUp_bays p), hclock.trans (s.giveUp_clock p)⟩

theorem Tbl.get?_append_cons {α : Type} {k : ℕ} {v : α} {l₁ l₂ : Tbl α} (h : ∀ p ∈ l₁, p.1 ≠ k) :
    Tbl.get? (l₁ ++ (k, v) :: l₂) k = some v := by
  induction l₁ with
  | nil => exact if_pos rfl
  | cons p l ih => exact (if_neg (h p List.mem_cons_self)).trans (ih fun q hq => h q (List.mem_cons_of_mem _ hq))

theorem leaveGrantArrive_late {r u : ℕ} (hp : s.place = .kernelBay k b)
    (ha : ∀ a ∈ s.answers, ∀ n lvl units, a.1.what ≠ .leave b k n lvl units) (hone : s.crews.filter (fun p => decide (p.1 = rid)) = [(rid, c)])
    (hw : c.wait = .leaveAsk n r u) (hb : ridBay rid = b) (hk : c.kernel = k) (hlate : u < s.clock) : Runs .leaveGrantArrive s (fun t =>
      ∃ e, t.crews.get? rid = some e ∧ e.wait = .none ∧ e.pc = s.nextPc rid c ∧ ∀ l ∈ c.active, (e.reg r l).toNat = 0x0D) := by
  obtain ⟨l₁, l₂, hl, hbefore, -, hafter⟩ := List.filter_eq_cons_iff.mp hone
  have h₁ : ∀ p ∈ l₁, p.1 ≠ rid := fun p hq => by simpa using hbefore p hq
  have h₂ : ∀ p ∈ l₂, p.1 ≠ rid := fun p hq => by simpa using List.filter_eq_nil_iff.mp hafter p hq
  have hc : s.crews.get? rid = some c := by rw [hl, Tbl.get?_append_cons h₁]
  obtain ⟨hcrew, hbays, hclock⟩ := State.foldl_giveUp_of_ne (b := b) (k := k) h₁ s
  have hgive : State.giveUp b k (l₁.foldl (State.giveUp b k) s) (rid, c) = (l₁.foldl (State.giveUp b k) s).leaveResult rid r 0x0D :=
    (State.giveUp_of_asking _ hw).trans (if_pos ⟨hb, hk, by rwa [hclock]⟩)
  have hend : (s.crews.foldl (State.giveUp b k) s).crews.get? rid =
      some (leaveGiven (l₁.foldl (State.giveUp b k) s) rid r 0x0D c) := by
    rw [hl, List.foldl_append, List.foldl_cons, (State.foldl_giveUp_of_ne h₂ _).1, hgive, State.leaveResult_crew, hcrew, hc]
    rfl
  exact ⟨_, exec_leaveGrantArrive_late hp (find?_answersLeave_none ha), _, hend, rfl, State.nextPc_of_bays hbays rid c,
    leaveGiven_reg (by decide)⟩

end

end Sys2Proof.Machine
end

section
namespace Sys2Proof.Laws

open Machine Claims

/-- Settles O57: the leave unit, power limits, trips and scrubs. -/
theorem leaveAndPower : Obligations.LeaveAndPower := by
  unfold Obligations.LeaveAndPower
  refine ⟨fun s b k => ⟨?window, ?raise, ?leave, ?late⟩, fun s => ⟨?limit, ?trip, ?scrub, ?sram⟩⟩
  case window => exact fun hp => leaveWindow_runs hp
  case raise => exact fun die who ok x hp hx h => leaveRaiseAnswer_runs hp hx h
  case leave =>
    refine fun die n lvl units ok x hp hx h => ⟨fun ho hok => ?_, fun ho => leaveGrantArrive_runs hp hx ho h⟩
    subst hok
    exact leaveGrantArrive_stale hp hx ho h
  case late => exact fun rid c n r u hp ha hone hw hb hk hlate => leaveGrantArrive_late hp ha hone hw hb hk hlate
  case limit => exact fun v hp => plimitWrite_runs hp
  case trip =>
    refine fun d x hp hd => ⟨fun hx => ⟨_, (exec_thermalTripSet hp).trans (if_pos ⟨hx, hd⟩), s.trip_spec d x 1⟩, fun hx => ?_,
      fun hx => ⟨_, (exec_thermalTripClear hp).trans (if_pos ⟨hx, hd⟩), s.trip_spec d x 0⟩, fun hx => ?_⟩
    · exact (exec_thermalTripSet hp).trans (if_neg (fun h => h.1.not_ge hx))
    · exact (exec_thermalTripClear hp).trans (if_neg (fun h => h.1.not_ge hx))
  case scrub =>
    refine fun l f i hp hi => ⟨?_, ?_, ?_⟩
    · rintro rfl
      exact exec_scrub hp hi
    · rintro rfl
      exact exec_scrub hp hi
    · rintro rfl
      exact ⟨_, exec_scrub hp hi, s.scrubbed_uncorrectable l⟩
  case sram => exact fun f hp => exec_sramScrub_of_sram hp

end Sys2Proof.Laws
end


section
namespace Sys2Proof.Machine

open Claims Laws

/-! ## Dependences, ages and urgencies (R93, R109, R110, R114) -/

section
variable {s : State} {k : ℕ}

theorem exec_at_kernel {i : Instr} {f : ℕ → State} (hp : s.place = .kernel k) (hi : exec i s = atKernel s f) : exec i s = .next (f k) := by
  rw [hi, atKernel, hp]

theorem Kernel.tracked_of_waiting {y : Kernel} (h : y.state = .posted ∨ y.state = .blocked) : y.tracked = true := by
  unfold Kernel.tracked
  rcases h with h | h <;> rw [h]

/-- The dependences of a kernel that are not met. -/
def State.depsLeft (s : State) (k : ℕ) : List Dep := (s.kern k).deps.filter (fun d => decide (s.depHolds d ≠ some true))

theorem State.judgeKernel_eq (h : (s.kern k).state = .posted ∨ (s.kern k).state = .blocked) (he : (s.kern k).ending = none) :
    s.judgeKernel k =
      if (s.depsLeft k).any (fun d => s.depHolds d == some false) then
        (s.setKern k (fun y => { y with ending := some 1 })).post (.kernel k) .kernelRetire
      else if (s.depsLeft k).isEmpty then ((s.setKern k (fun y => { y with deps := s.depsLeft k })).recount (s.kern k).queue).readyKernel k
      else if (s.kern k).state = .posted then
        ((s.setKern k (fun y => { y with deps := s.depsLeft k })).recount (s.kern k).queue).setKState k .blocked
      else (s.setKern k (fun y => { y with deps := s.depsLeft k })).recount (s.kern k).queue := by
  unfold State.judgeKernel State.depsLeft
  simp only [Kernel.tracked_of_waiting h, he, Bool.not_true, Option.isSome_none, Bool.or_self, Bool.false_eq_true, if_false]
  rcases h with h | h
  · simp only [h, if_true]
  · simp only [h, reduceCtorEq, if_false]

theorem State.post_kern (s : State) (p : Place) (i : Instr) (j : ℕ) : (s.post p i).kern j = s.kern j := rfl

/-- Only kernels and records differ. -/
def KernelsOnly (s t : State) : Prop := ∃ ks y, t = { s with kernels := ks, sys := y }

theorem KernelsOnly.trans {t u : State} (h : KernelsOnly s t) (g : KernelsOnly t u) : KernelsOnly s u := by
  obtain ⟨_, _, rfl⟩ := h
  obtain ⟨_, _, rfl⟩ := g
  exact ⟨_, _, rfl⟩

theorem KernelsOnly.eq {t : State} (h : KernelsOnly s t) : t = { s with kernels := t.kernels, sys := t.sys } := by
  obtain ⟨_, _, rfl⟩ := h
  rfl

theorem State.setKern_only (s : State) (k : ℕ) (f : Kernel → Kernel) : KernelsOnly s (s.setKern k f) := ⟨_, _, rfl⟩

theorem KernelsOnly.crews {t : State} (h : KernelsOnly s t) : t.crews = s.crews := by
  obtain ⟨_, _, rfl⟩ := h
  rfl

theorem State.recount_only (s : State) (q : ℕ) : KernelsOnly s (s.recount q) := by
  obtain ⟨y, hy⟩ := s.setFld_records s.sys .queue q Que.nready
    (s.kernels.filter (fun p => decide (p.2.queue = q) && p.2.waitsReady)).length
  exact ⟨s.kernels, y, hy⟩

theorem State.setKState_only (s : State) (k : ℕ) (x : KState) : KernelsOnly s (s.setKState k x) :=
  (s.setKern_only k _).trans (State.recount_only _ _)

theorem State.recount_kern (s : State) (q j : ℕ) : (s.recount q).kern j = s.kern j := State.setFld_kern _ _ _ _ _ _

theorem State.kick_kern (s : State) (j : ℕ) : s.kick.kern j = s.kern j := rfl

theorem kernelDependenceMet_failed (hp : s.place = .kernel k) (h : (s.kern k).state = .posted ∨ (s.kern k).state = .blocked)
    (he : (s.kern k).ending = none) (hf : ∃ d ∈ s.depsLeft k, s.depHolds d = some false) : Runs .kernelDependenceMet s (fun t =>
      t = { s with kernels := t.kernels, agenda := s.agenda ++ [.event (.kernel k) .kernelRetire] } ∧ (t.kern k).ending = some 1 ∧
      (t.kern k).state = (s.kern k).state) := by
  have hany : (s.depsLeft k).any (fun d => s.depHolds d == some false) = true := by simpa using hf
  refine ⟨_, (exec_at_kernel hp rfl).trans (by rw [State.judgeKernel_eq h he, if_pos hany]), rfl, ?_⟩
  rw [State.post_kern, State.setKern_kern_self]
  exact ⟨rfl, rfl⟩

theorem kernelDependenceMet_blocked (hp : s.place = .kernel k) (h : (s.kern k).state = .posted ∨ (s.kern k).state = .blocked)
    (he : (s.kern k).ending = none) (hf : ∀ d ∈ s.depsLeft k, s.depHolds d ≠ some false) (hl : s.depsLeft k ≠ []) :
    Runs .kernelDependenceMet s (fun t =>
      t = { s with kernels := t.kernels, sys := t.sys } ∧ t.kern k = { s.kern k with deps := s.depsLeft k, state := .blocked }) := by
  have hany : ¬(s.depsLeft k).any (fun d => s.depHolds d == some false) = true := by simpa using hf
  have hne : ¬(s.depsLeft k).isEmpty = true := by simpa using hl
  have hrun := (exec_at_kernel (i := .kernelDependenceMet) hp rfl).trans
    (congrArg Host.Outcome.next ((State.judgeKernel_eq h he).trans ((if_neg hany).trans (if_neg hne))))
  by_cases hs : (s.kern k).state = .posted
  · refine ⟨_, hrun.trans (by rw [if_pos hs]), (((s.setKern_only k _).trans (State.recount_only _ _)).trans (State.setKState_only _ k _)).eq, ?_⟩
    rw [State.setKState_kern, State.setKern_kern_self, State.recount_kern, State.setKern_kern_self]
  · refine ⟨_, hrun.trans (by rw [if_neg hs]), ((s.setKern_only k _).trans (State.recount_only _ _)).eq, ?_⟩
    rw [State.recount_kern, State.setKern_kern_self, ← h.resolve_left hs]

/-- The fit test of a kernel changes of it only what it says of its fit, and when it became a candidate. -/
theorem State.judgeFit_kern (s : State) (k : ℕ) : ∃ u a c l,
    (s.judgeFit k).kern k = { s.kern k with unfit := u, aged := a, candidate := c, unfitLogged := l } := by
  unfold State.judgeFit
  extract_lets y unfit
  have hunfit : unfit.kern k = { s.kern k with unfit := true, aged := false, candidate := none } := State.setKern_kern_self ..
  split
  · exact ⟨_, _, _, _, rfl⟩
  · split
    · exact ⟨_, _, _, _, State.setKern_kern_self ..⟩
    · split
      · exact ⟨_, _, _, _, hunfit⟩
      · refine ⟨true, false, none, true, ?_⟩
        have hlog : (unfit.faultLog y.ctx (unfit.unfitRecord k)).kern k = unfit.kern k :=
          congrArg (fun p => (p.1.kern k : Kernel)) (unfit.faultLog_aside y.ctx (unfit.unfitRecord k))
        rw [State.setKern_kern_self, hlog, hunfit]

theorem State.judgeFit_crews (s : State) (k : ℕ) : (s.judgeFit k).crews = s.crews := by
  unfold State.judgeFit
  extract_lets y unfit
  split
  · rfl
  · split
    · rfl
    · split
      · rfl
      · exact (State.setKern_crews ..).trans ((State.crews_of_aside (unfit.faultLog_aside y.ctx (unfit.unfitRecord k))).trans rfl)

theorem State.readyKernel_kern (s : State) (k : ℕ) : ((s.readyKernel k).kern k).deps = (s.kern k).deps ∧ ((s.readyKernel k).kern k).stop = none := by
  unfold State.readyKernel
  extract_lets v
  obtain ⟨u, a, c, l, h⟩ := (v.setKState k .ready).judgeFit_kern k
  have hv : v.kern k = { s.kern k with candidate := none, aged := false, stop := none, messaged := false } := State.setKern_kern_self ..
  rw [State.kick_kern, h, State.setKState_kern, State.setKern_kern_self, hv]
  exact ⟨rfl, rfl⟩

/-- A kernel that becomes ready, before it is judged fit and the cox looks for it. -/
def State.madeReady (s : State) (k : ℕ) : State :=
  (s.setKern k (fun y => { y with candidate := none, aged := false, stop := none, messaged := false })).setKState k .ready

theorem State.readyKernel_eq (s : State) (k : ℕ) : s.readyKernel k = ((s.madeReady k).judgeFit k).kick := rfl

theorem State.madeReady_only (s : State) (k : ℕ) : KernelsOnly s (s.madeReady k) := (s.setKern_only k _).trans (State.setKState_only _ k _)

theorem State.kick_last (s : State) : s.kick.agenda.getLast? = some (.event .none .coxChoose) := List.getLast?_concat

theorem State.readyKernel_crews (s : State) (k : ℕ) : (s.readyKernel k).crews = s.crews := by
  rw [State.readyKernel_eq]
  exact (State.judgeFit_crews _ k).trans (s.madeReady_only k).crews

theorem kernelDependenceMet_ready (hp : s.place = .kernel k) (h : (s.kern k).state = .posted ∨ (s.kern k).state = .blocked)
    (he : (s.kern k).ending = none) (hl : s.depsLeft k = []) : Runs .kernelDependenceMet s (fun t =>
      (t.kern k).state = .ready ∧ (t.kern k).deps = [] ∧ (t.kern k).stop = none ∧
        t.agenda.getLast? = some (.event .none .coxChoose) ∧ t.crews = s.crews) := by
  have hany : ¬(s.depsLeft k).any (fun d => s.depHolds d == some false) = true := by simp [hl]
  have hrun := (exec_at_kernel (i := .kernelDependenceMet) hp rfl).trans
    (congrArg Host.Outcome.next ((State.judgeKernel_eq h he).trans ((if_neg hany).trans (if_pos (by rw [hl]; rfl)))))
  obtain ⟨hdeps, hstop⟩ := State.readyKernel_kern ((s.setKern k (fun y => { y with deps := s.depsLeft k })).recount (s.kern k).queue) k
  refine ⟨_, hrun, State.readyKernel_state _ k, ?_, hstop, ?_, ?_⟩
  · rw [hdeps, State.recount_kern, State.setKern_kern_self, hl]
  · rw [State.readyKernel_eq, State.kick_last]
  · exact (State.readyKernel_crews _ k).trans ((s.setKern_only k _).trans (State.recount_only _ _)).crews

theorem exec_candidateAged {c : ℕ} (hp : s.place = .kernel k) (hc : (s.kern k).candidate = some c) (ha : (s.kern k).aged = false) :
    exec .candidateAged s = .next (if s.time < c + 50000 then s else (s.setKern k (fun y => { y with aged := true })).kick) := by
  show execCandidateAged s = _
  rw [execCandidateAged, atKernel, hp]
  simp only [hc, ha, Bool.false_or, decide_eq_true_eq]

theorem exec_urgencyUpdate (hp : s.place = .kernel k) :
    exec .urgencyUpdate s = .next (s.setKern k (fun y => { y with urg := s.urgencyOf k })) := by
  show execUrgencyUpdate s = _
  rw [execUrgencyUpdate, atKernel, hp]

end

/-! ## The order of the candidates (R93) -/

theorem lexLe_total : ∀ l m : List ℕ, lexLe l m = true ∨ lexLe m l = true
  | [], _ => .inl rfl
  | _ :: _, [] => .inr rfl
  | x :: l, y :: m => by
    rcases lt_trichotomy x y with h | rfl | h
    · exact .inl (by simp [lexLe, h])
    · exact (lexLe_total l m).imp (fun h => by simp [lexLe, h]) (fun h => by simp [lexLe, h])
    · exact .inr (by simp [lexLe, h])

theorem lexLe_trans : ∀ {l m n : List ℕ}, lexLe l m = true → lexLe m n = true → lexLe l n = true
  | [], _, _, _, _ => rfl
  | x :: l, [], n, h, _ => absurd h nofun
  | x :: l, y :: m, [], _, h => absurd h nofun
  | x :: l, y :: m, z :: n, hxy, hyz => by
    simp only [lexLe, Bool.or_eq_true, Bool.and_eq_true, decide_eq_true_eq] at hxy hyz ⊢
    rcases hxy with h | ⟨rfl, h⟩
    · rcases hyz with g | ⟨rfl, -⟩
      · exact .inl (h.trans g)
      · exact .inl h
    · rcases hyz with g | ⟨rfl, g⟩
      · exact .inl g
      · exact .inr ⟨rfl, lexLe_trans h g⟩

section
variable (s : State)

theorem State.mem_insertRank {j k : ℕ} {l : List ℕ} : j ∈ s.insertRank k l ↔ j = k ∨ j ∈ l := by
  induction l with
  | nil => simp [State.insertRank]
  | cons x xs ih =>
    unfold State.insertRank
    split
    · rw [List.mem_cons, ih, List.mem_cons]
      exact or_left_comm
    · exact List.mem_cons

theorem State.insertRank_pairwise {k : ℕ} {l : List ℕ} (h : l.Pairwise (fun x y => lexLe (s.rank x) (s.rank y) = true)) :
    (s.insertRank k l).Pairwise (fun x y => lexLe (s.rank x) (s.rank y) = true) := by
  induction l with
  | nil => exact List.pairwise_singleton _ _
  | cons x xs ih =>
    obtain ⟨hx, hxs⟩ := List.pairwise_cons.mp h
    unfold State.insertRank
    split
    · next hk =>
      refine List.pairwise_cons.mpr ⟨fun y hy => ?_, ih hxs⟩
      rcases s.mem_insertRank.mp hy with rfl | hy
      · exact hk
      · exact hx y hy
    · next hk =>
      have hle : lexLe (s.rank k) (s.rank x) = true := (lexLe_total _ _).resolve_right hk
      refine List.pairwise_cons.mpr ⟨fun y hy => ?_, h⟩
      rcases List.mem_cons.mp hy with rfl | hy
      · exact hle
      · exact lexLe_trans hle (hx y hy)

theorem State.foldl_insertRank (ks : List ℕ) {l : List ℕ} (h : l.Pairwise (fun x y => lexLe (s.rank x) (s.rank y) = true)) :
    (ks.foldl (fun l k => s.insertRank k l) l).Pairwise (fun x y => lexLe (s.rank x) (s.rank y) = true) ∧
      ∀ k, k ∈ ks.foldl (fun l k => s.insertRank k l) l ↔ k ∈ l ∨ k ∈ ks := by
  induction ks generalizing l with
  | nil => exact ⟨h, fun k => by simp⟩
  | cons j ks ih =>
    obtain ⟨hsorted, hmem⟩ := ih (s.insertRank_pairwise (k := j) h)
    refine ⟨hsorted, fun k => (hmem k).trans ?_⟩
    rw [s.mem_insertRank, List.mem_cons, or_assoc, or_left_comm]

theorem State.candidates_pairwise : s.candidates.Pairwise (fun x y => lexLe (s.rank x) (s.rank y) = true) :=
  (s.foldl_insertRank _ List.Pairwise.nil).1

theorem Tbl.isSome_get?_iff {α : Type} {t : Tbl α} {k : ℕ} : (t.get? k).isSome = true ↔ ∃ v, (k, v) ∈ t := by
  induction t with
  | nil => simp [Tbl.get?]
  | cons p t ih =>
    obtain ⟨j, v⟩ := p
    rw [Tbl.get?_cons]
    by_cases h : j = k
    · simp [h]
    · rw [if_neg h, ih]
      simp [Ne.symm h]

theorem State.mem_candidates {k : ℕ} : k ∈ s.candidates ↔ (s.kernels.get? k).isSome = true ∧ s.isCandidate k = true := by
  rw [State.candidates, (s.foldl_insertRank _ List.Pairwise.nil).2 k, Tbl.isSome_get?_iff]
  constructor
  · rintro (h | h)
    · exact absurd h List.not_mem_nil
    · obtain ⟨⟨j, v⟩, hm, rfl⟩ := List.mem_map.mp h
      obtain ⟨hm, hc⟩ := List.mem_filter.mp hm
      exact ⟨⟨v, hm⟩, hc⟩
  · rintro ⟨⟨v, hm⟩, hc⟩
    exact .inr (List.mem_map.mpr ⟨(k, v), List.mem_filter.mpr ⟨hm, hc⟩, rfl⟩)

/-- Kernel j stands before kernel k among equals: it was posted before it, or at once and to a lower queue. -/
def sooner (s : State) (j k : ℕ) : Prop :=
  (s.kern j).posted < (s.kern k).posted ∨ (s.kern j).posted = (s.kern k).posted ∧ (s.kern j).queue < (s.kern k).queue

/-- The deadline of a kernel, none being the latest. -/
def dueBy (s : State) (k : ℕ) : ℕ := if s.lch k Lch.deadline = 0 then 2 ^ 64 - 1 else s.lch k Lch.deadline

/-- Kernel j goes before kernel k by the tests of R93 in turn. -/
def goesBefore (s : State) (j k : ℕ) : Prop :=
  s.qcfg (s.kern k).queue Que.cls < s.qcfg (s.kern j).queue Que.cls ∨
    s.qcfg (s.kern j).queue Que.cls = s.qcfg (s.kern k).queue Que.cls ∧
      ((s.kern j).aged = true ∧ (s.kern k).aged = false ∨
        (s.kern j).aged = true ∧ (s.kern k).aged = true ∧
          ((s.kern j).candidate.getD 0 < (s.kern k).candidate.getD 0 ∨
            (s.kern j).candidate.getD 0 = (s.kern k).candidate.getD 0 ∧ sooner s j k) ∨
        (s.kern j).aged = false ∧ (s.kern k).aged = false ∧ (dueBy s j < dueBy s k ∨ dueBy s j = dueBy s k ∧ sooner s j k))

theorem lexLe_cons {x y : ℕ} {l m : List ℕ} : lexLe (x :: l) (y :: m) = true ↔ x < y ∨ x = y ∧ lexLe l m = true := by
  simp [lexLe]

/-- A kernel that goes before another is not ranked at or behind it. -/
theorem not_goesBefore_of_lexLe {j k : ℕ} (h : lexLe (s.rank j) (s.rank k) = true) : ¬goesBefore s k j := by
  have hcls (q : ℕ) : s.qcfg q Que.cls ≤ 7 := Nat.le_of_lt_succ (Nat.mod_lt _ (by decide))
  have hj := hcls (s.kern j).queue
  have hk := hcls (s.kern k).queue
  have hnil : lexLe [] [] = true := rfl
  have hjk : lexLe [7 - s.qcfg (s.kern j).queue Que.cls, if (s.kern j).aged then 0 else 1,
      if (s.kern j).aged then (s.kern j).candidate.getD 0 else dueBy s j, (s.kern j).posted, (s.kern j).queue]
    [7 - s.qcfg (s.kern k).queue Que.cls, if (s.kern k).aged then 0 else 1,
      if (s.kern k).aged then (s.kern k).candidate.getD 0 else dueBy s k, (s.kern k).posted, (s.kern k).queue] = true := h
  simp only [lexLe_cons, hnil, and_true] at hjk
  unfold goesBefore sooner
  generalize s.qcfg (s.kern j).queue Que.cls = cj at *
  generalize s.qcfg (s.kern k).queue Que.cls = ck at *
  generalize dueBy s j = dj at *
  generalize dueBy s k = dk at *
  cases haj : (s.kern j).aged <;> cases hak : (s.kern k).aged <;>
    simp only [haj, hak, if_true, if_false, Bool.false_eq_true, reduceCtorEq, false_and, true_and, and_true, and_false, or_false, false_or] at hjk ⊢ <;>
    omega

theorem State.candidates_order : s.candidates.Pairwise (fun j k => ¬goesBefore s k j) :=
  s.candidates_pairwise.imp fun h => not_goesBefore_of_lexLe s h

end

/-! ## Choosing and admitting (R94, R112) -/

/-- The cox has gone on with other kernels: of kernel k at most its log number differs, crews stay, requests go behind those there were, and
nothing leaves the agenda. -/
structure GoesOver (k : ℕ) (s t : State) : Prop where
  kern : ∃ m, t.kern k = { s.kern k with knum := m }
  crews : t.crews = s.crews
  gov : ∃ l, t.gov = s.gov ++ l
  agenda : ∀ e ∈ s.agenda, e ∈ t.agenda

section
variable {s : State} {k j : ℕ}

theorem GoesOver.refl (k : ℕ) (s : State) : GoesOver k s s := ⟨⟨_, rfl⟩, rfl, ⟨[], (List.append_nil _).symm⟩, fun _ h => h⟩

theorem GoesOver.trans {t u : State} (h : GoesOver k s t) (g : GoesOver k t u) : GoesOver k s u := by
  obtain ⟨⟨m, hm⟩, hc, ⟨l, hl⟩, ha⟩ := h
  obtain ⟨⟨m', hm'⟩, hc', ⟨l', hl'⟩, ha'⟩ := g
  exact ⟨⟨m', by rw [hm', hm]⟩, hc'.trans hc, ⟨l ++ l', by rw [hl', hl, List.append_assoc]⟩, fun e h => ha' e (ha e h)⟩

/-- What leaves kernels, crews and requests, and only adds to the agenda. -/
theorem GoesOver.of_eq {t : State} (hk : t.kernels = s.kernels) (hc : t.crews = s.crews) (hg : t.gov = s.gov)
    (ha : ∃ l, t.agenda = s.agenda ++ l) : GoesOver k s t := by
  obtain ⟨l, hl⟩ := ha
  exact ⟨⟨(s.kern k).knum, by rw [State.kern, hk]; rfl⟩, hc, ⟨[], by rw [hg, List.append_nil]⟩, fun e h => by
    rw [hl]
    exact List.mem_append_left _ h⟩

theorem State.post_goesOver (s : State) (p : Place) (i : Instr) : GoesOver k s (s.post p i) := .of_eq rfl rfl rfl ⟨_, rfl⟩

theorem State.setFld_goesOver (s : State) (tab : SysTab) (n : ℕ) (f : Fld) (v : ℕ) : GoesOver k s (s.setFld tab n f v) :=
  .of_eq rfl rfl rfl ⟨[], (List.append_nil _).symm⟩

theorem State.setLog_goesOver (s : State) (ctx : ℕ) (f : CtxLog → CtxLog) : GoesOver k s (s.setLog ctx f) :=
  .of_eq rfl rfl rfl ⟨[], (List.append_nil _).symm⟩

theorem State.setKern_goesOver (s : State) {f : Kernel → Kernel} (hf : j = k → ∃ m, f (s.kern j) = { s.kern j with knum := m }) :
    GoesOver k s (s.setKern j f) := by
  refine ⟨?_, rfl, ⟨[], (List.append_nil _).symm⟩, fun _ h => h⟩
  rw [State.kern_setKern]
  split
  · next h =>
    subst h
    exact hf rfl
  · exact ⟨_, rfl⟩

theorem State.setKState_goesOver (s : State) (x : KState) (h : j ≠ k) : GoesOver k s (s.setKState j x) :=
  (s.setKern_goesOver (fun e => absurd e h)).trans (State.setFld_goesOver _ _ _ _ _)

theorem State.bindKnum_goesOver (s : State) (ctx entry : ℕ) : GoesOver k s (s.bindKnum ctx entry) := by
  unfold State.bindKnum
  dsimp only
  split
  · refine GoesOver.trans ?_ (State.setLog_goesOver _ _ _)
    split
    · exact (s.setFld_goesOver _ _ _ _).trans (State.setKern_goesOver _ (fun _ => ⟨_, rfl⟩))
    · exact s.setFld_goesOver _ _ _ _
  · exact .refl k s

theorem State.takeKnums_goesOver (ctx : ℕ) : ∀ (fuel : ℕ) (s : State), GoesOver k s (State.takeKnums ctx fuel s)
  | 0, s => .refl k s
  | fuel + 1, s => by
    unfold State.takeKnums
    dsimp only
    split
    · exact .refl k s
    · split
      · split
        · exact (s.bindKnum_goesOver ctx _).trans (State.takeKnums_goesOver ctx fuel _)
        · exact .refl k s
      · exact s.post_goesOver _ _

theorem State.admitReplay_goesOver (s : State) (j : ℕ) : GoesOver k s (s.admitReplay j) := by
  unfold State.admitReplay
  dsimp only
  split
  · exact (s.setLog_goesOver _ _).trans (State.takeKnums_goesOver _ _ _)
  · exact .refl k s

/-- A kernel that is admitted, before the replay and the cox hear of it. -/
def State.madeAdmitted (s : State) (k : ℕ) : State :=
  (s.setKern k (fun y => { y with begun := true, chosen := none, candidate := none, aged := false })).setKState k .admitted

theorem State.admitKernel_eq (s : State) (k : ℕ) :
    s.admitKernel k = (((s.madeAdmitted k).admitReplay k).post (.kernel k) .kernelPlacing).kick := rfl

theorem State.madeAdmitted_kern (s : State) (k : ℕ) : (s.madeAdmitted k).kern k =
    { s.kern k with begun := true, chosen := none, candidate := none, aged := false, state := .admitted } := by
  rw [State.madeAdmitted, State.setKState_kern, State.setKern_kern_self, State.setKern_kern_self]

theorem State.madeAdmitted_goesOver (s : State) (h : j ≠ k) : GoesOver k s (s.madeAdmitted j) :=
  (s.setKern_goesOver (fun e => absurd e h)).trans (State.setKState_goesOver _ _ h)

theorem State.admitKernel_goesOver (s : State) (h : j ≠ k) : GoesOver k s (s.admitKernel j) :=
  (((s.madeAdmitted_goesOver h).trans (State.admitReplay_goesOver _ j)).trans (State.post_goesOver _ _ _)).trans (State.post_goesOver _ _ _)

/-- But for its log number, a kernel that has been admitted. -/
theorem State.admitKernel_kern (s : State) (k : ℕ) : ∃ m, (s.admitKernel k).kern k =
    { s.kern k with begun := true, chosen := none, candidate := none, aged := false, state := .admitted, knum := m } := by
  obtain ⟨m, hm⟩ := ((s.madeAdmitted k).admitReplay_goesOver (k := k) k).kern
  refine ⟨m, ?_⟩
  rw [State.admitKernel_eq, State.kick_kern, State.post_kern, hm, State.madeAdmitted_kern]

theorem State.admitKernel_crews (s : State) (k : ℕ) : (s.admitKernel k).crews = s.crews :=
  ((s.madeAdmitted k).admitReplay_goesOver (k := k) k).crews.trans ((s.setKern_only k _).trans (State.setKState_only _ k _)).crews

theorem State.admitKernel_placing (s : State) (k : ℕ) : .event (.kernel k) .kernelPlacing ∈ (s.admitKernel k).agenda :=
  List.mem_append_left _ (List.mem_append_right _ (List.mem_singleton_self _))

/-- The dies from which a plan needs units. -/
def State.diesOf (s : State) (k : ℕ) (plan : List ℕ) : List ℕ := [0, 1].filter (fun d => decide (s.unitsOf k plan d ≠ 0))

/-- A kernel for which the cox has a plan. -/
def State.planned (s : State) (k : ℕ) (plan : List ℕ) : State :=
  s.setKern k (fun y => { y with attempt := (s.kern k).attempt + 1, plan := plan })

/-- Units are asked for from some dies. -/
def State.asked (s : State) (k : ℕ) (plan dies : List ℕ) : State :=
  { (s.planned k plan).setKern k (fun y => { y with chosen := some dies }) with
    gov := s.gov ++ dies.map (fun d => ⟨d, .admission k ((s.kern k).attempt + 1) (s.unitsOf k plan d)⟩) }

theorem State.asked_kern (s : State) (k : ℕ) (plan dies : List ℕ) (j : ℕ) :
    (s.asked k plan dies).kern j = ((s.planned k plan).setKern k (fun y => { y with chosen := some dies })).kern j := rfl

theorem State.unitsOf_planned (s : State) (k : ℕ) (plan plan' : List ℕ) (d : ℕ) : (s.planned k plan').unitsOf k plan d = s.unitsOf k plan d := by
  rw [State.unitsOf, State.lch, State.planned, State.setKern_kern_self]
  rfl

theorem State.choose_admits {plan : List ℕ} (h : s.diesOf k plan = []) : s.choose k plan = (s.planned k plan).admitKernel k := by
  have hdies : ([0, 1].filter (fun d => decide (s.unitsOf k plan d ≠ 0))).isEmpty = true := by
    rw [State.diesOf] at h
    rw [h]
    rfl
  unfold State.choose
  dsimp only
  rw [if_pos hdies]
  rfl

theorem State.choose_asks {plan : List ℕ} (h : s.diesOf k plan ≠ []) : s.choose k plan = s.asked k plan (s.diesOf k plan) := by
  have hdies : ¬([0, 1].filter (fun d => decide (s.unitsOf k plan d ≠ 0))).isEmpty = true := fun he => h (List.isEmpty_iff.mp he)
  have hunits : (fun d => (⟨d, .admission k ((s.kern k).attempt + 1) ((s.planned k plan).unitsOf k plan d)⟩ : GovReq)) =
      fun d => ⟨d, .admission k ((s.kern k).attempt + 1) (s.unitsOf k plan d)⟩ := by
    funext d
    rw [State.unitsOf_planned]
  unfold State.choose
  dsimp only
  rw [if_neg hdies]
  unfold State.asked
  rw [← hunits]
  rfl

theorem State.choose_goesOver (s : State) (plan : List ℕ) (h : j ≠ k) : GoesOver k s (s.choose j plan) := by
  by_cases hd : s.diesOf j plan = []
  · rw [State.choose_admits hd]
    exact (s.setKern_goesOver (fun e => absurd e h)).trans (State.admitKernel_goesOver _ h)
  · rw [State.choose_asks hd]
    refine ⟨?_, rfl, ⟨_, rfl⟩, fun _ he => he⟩
    have hk : (s.asked j plan (s.diesOf j plan)).kern k = s.kern k := by
      rw [State.asked_kern, State.setKern_kern_ne (h := h), State.planned, State.setKern_kern_ne (h := h)]
    exact ⟨(s.kern k).knum, hk⟩

/-! ### The candidates in turn -/

theorem State.tryAll_chosen {rest : List ℕ} (h : (s.kern k).chosen ≠ none) :
    State.tryAll (k :: rest) s = if (s.kern k).aged then s else State.tryAll rest s := by
  rw [State.tryAll]
  exact if_pos (Option.isSome_iff_ne_none.mpr h)

theorem State.tryAll_unfit {rest : List ℕ} (h : (s.kern k).chosen = none) (hp : s.planOf k = none) : State.tryAll (k :: rest) s =
    if s.someAwaited then s else if (s.kern k).aged then s.post (.kernel k) .coxPreempt else State.tryAll rest s := by
  rw [State.tryAll]
  simp only [h, hp, Option.isSome_none, Bool.false_eq_true, if_false]

/-- A kernel has been chosen. -/
def State.chose (s : State) (k : ℕ) (plan : List ℕ) : State := { s with fresh := s.fresh + 1 }.choose k plan

theorem State.tryAll_fits {rest plan : List ℕ} (h : (s.kern k).chosen = none) (hp : s.planOf k = some plan) : State.tryAll (k :: rest) s =
    if (s.kern k).aged = true ∧ ((s.chose k plan).kern k).chosen.isSome = true then s.chose k plan else State.tryAll rest (s.chose k plan) := by
  rw [State.tryAll]
  simp only [h, hp, Option.isSome_none, Bool.false_eq_true, if_false]
  rfl

theorem State.tryAll_goesOver : ∀ (rest : List ℕ) (s : State), k ∉ rest → GoesOver k s (State.tryAll rest s)
  | [], s, _ => .refl k s
  | j :: rest, s, h => by
    have hj := List.ne_of_not_mem_cons h
    have hrest := List.not_mem_of_not_mem_cons h
    by_cases hc : (s.kern j).chosen = none
    · cases hp : s.planOf j with
      | none =>
        rw [State.tryAll_unfit hc hp]
        split
        · exact .refl k s
        · split
          · exact s.post_goesOver _ _
          · exact State.tryAll_goesOver rest s hrest
      | some plan =>
        have hchose : GoesOver k s (s.chose j plan) :=
          (GoesOver.of_eq (s := s) (t := { s with fresh := s.fresh + 1 }) rfl rfl rfl ⟨[], (List.append_nil _).symm⟩).trans
            (State.choose_goesOver _ plan (Ne.symm hj))
        rw [State.tryAll_fits hc hp]
        split
        · exact hchose
        · exact hchose.trans (State.tryAll_goesOver rest _ hrest)
    · rw [State.tryAll_chosen hc]
      split
      · exact .refl k s
      · exact State.tryAll_goesOver rest s hrest

theorem State.fresh_diesOf (s : State) (n k : ℕ) (plan : List ℕ) : ({ s with fresh := n } : State).diesOf k plan = s.diesOf k plan := rfl

theorem State.diesOf_nil {plan : List ℕ} (h0 : s.unitsOf k plan 0 = 0) (h1 : s.unitsOf k plan 1 = 0) : s.diesOf k plan = [] := by
  simp [State.diesOf, h0, h1]

theorem State.diesOf_ne_nil {plan : List ℕ} (h : s.unitsOf k plan 0 ≠ 0 ∨ s.unitsOf k plan 1 ≠ 0) : s.diesOf k plan ≠ [] := by
  rcases h with h | h <;> simp [State.diesOf, List.filter_cons, h]
  split <;> simp

theorem State.chose_admits {plan : List ℕ} (h : s.diesOf k plan = []) : (∃ m, (s.chose k plan).kern k = { s.kern k with
      attempt := (s.kern k).attempt + 1, plan := plan, begun := true, chosen := none, candidate := none, aged := false, state := .admitted,
      knum := m }) ∧ (s.chose k plan).crews = s.crews ∧ .event (.kernel k) .kernelPlacing ∈ (s.chose k plan).agenda := by
  have hchose : s.chose k plan = (({ s with fresh := s.fresh + 1 } : State).planned k plan).admitKernel k :=
    State.choose_admits (s := { s with fresh := s.fresh + 1 }) h
  rw [hchose]
  obtain ⟨m, hm⟩ := (({ s with fresh := s.fresh + 1 } : State).planned k plan).admitKernel_kern k
  refine ⟨⟨m, ?_⟩, State.admitKernel_crews _ k, State.admitKernel_placing _ k⟩
  rw [hm, State.planned, State.setKern_kern_self]
  rfl

theorem State.chose_asks {plan : List ℕ} (h : s.diesOf k plan ≠ []) :
    (s.chose k plan).kern k = { s.kern k with attempt := (s.kern k).attempt + 1, plan := plan, chosen := some (s.diesOf k plan) } ∧
      (s.chose k plan).gov = s.gov ++ (s.diesOf k plan).map (fun d => ⟨d, .admission k ((s.kern k).attempt + 1) (s.unitsOf k plan d)⟩) := by
  have hchose : s.chose k plan = ({ s with fresh := s.fresh + 1 } : State).asked k plan (s.diesOf k plan) :=
    State.choose_asks (s := { s with fresh := s.fresh + 1 }) h
  rw [hchose]
  refine ⟨?_, rfl⟩
  rw [State.asked_kern, State.setKern_kern_self, State.planned, State.setKern_kern_self]
  rfl

end

section
variable {s : State} {k : ℕ} {rest plan : List ℕ}

theorem tryAll_admits (hk : k ∉ rest) (hc : (s.kern k).chosen = none) (hp : s.planOf k = some plan) (h0 : s.unitsOf k plan 0 = 0)
    (h1 : s.unitsOf k plan 1 = 0) : ((State.tryAll (k :: rest) s).kern k).state = .admitted ∧ ((State.tryAll (k :: rest) s).kern k).plan = plan ∧
      ((State.tryAll (k :: rest) s).kern k).candidate = none ∧ (State.tryAll (k :: rest) s).crews = s.crews ∧
      .event (.kernel k) .kernelPlacing ∈ (State.tryAll (k :: rest) s).agenda := by
  obtain ⟨⟨m, hm⟩, hcrews, hplacing⟩ := State.chose_admits (State.diesOf_nil h0 h1)
  have hgo : ¬((s.kern k).aged = true ∧ ((s.chose k plan).kern k).chosen.isSome = true) := by
    rw [hm]
    exact fun h => nomatch h.2
  rw [State.tryAll_fits hc hp, if_neg hgo]
  obtain ⟨⟨m', hm'⟩, hcrews', -, hagenda⟩ := State.tryAll_goesOver rest (s.chose k plan) hk
  rw [hm', hm]
  exact ⟨rfl, rfl, rfl, hcrews'.trans hcrews, hagenda _ hplacing⟩

theorem tryAll_asks (hk : k ∉ rest) (hc : (s.kern k).chosen = none) (hp : s.planOf k = some plan)
    (hu : s.unitsOf k plan 0 ≠ 0 ∨ s.unitsOf k plan 1 ≠ 0) : ((State.tryAll (k :: rest) s).kern k).chosen = some (s.diesOf k plan) ∧
      ((State.tryAll (k :: rest) s).kern k).plan = plan ∧ ∃ others, (State.tryAll (k :: rest) s).gov =
        s.gov ++ (s.diesOf k plan).map (fun d => ⟨d, .admission k ((s.kern k).attempt + 1) (s.unitsOf k plan d)⟩) ++ others ∧
          ((s.kern k).aged = true → others = []) := by
  obtain ⟨hkern, hgov⟩ := State.chose_asks (State.diesOf_ne_nil hu)
  rw [State.tryAll_fits hc hp]
  by_cases ha : (s.kern k).aged = true
  · have hstop : (s.kern k).aged = true ∧ ((s.chose k plan).kern k).chosen.isSome = true := ⟨ha, by rw [hkern]; rfl⟩
    rw [if_pos hstop, hkern]
    exact ⟨rfl, rfl, [], by rw [hgov, List.append_nil], fun _ => rfl⟩
  · rw [if_neg (fun h => ha h.1)]
    obtain ⟨⟨m, hm⟩, -, ⟨l, hl⟩, -⟩ := State.tryAll_goesOver rest (s.chose k plan) hk
    rw [hm, hkern]
    exact ⟨rfl, rfl, l, by rw [hl, hgov], fun h => absurd h ha⟩

end

/-! ## The stop for an aged candidate (R117) -/

/-- The better of two kernels to stop, that found so far and another. -/
def State.worse (s : State) (best : Option ℕ) (x : ℕ) : Option ℕ :=
  match best with
  | some y => if lexLe (s.victimRank y) (s.victimRank x) then some y else some x
  | none => some x

theorem State.foldl_worse_mem (s : State) {v : ℕ} : ∀ (l : List ℕ) (best : Option ℕ), l.foldl s.worse best = some v → best = some v ∨ v ∈ l
  | [], _, h => .inl h
  | x :: l, best, h => by
    rcases s.foldl_worse_mem l _ h with h | h
    · have hx : best = some v ∨ v = x := by
        unfold State.worse at h
        split at h
        · split at h
          · exact .inl h
          · exact .inr (Option.some.inj h).symm
        · exact .inr (Option.some.inj h).symm
      exact hx.imp_right (fun h => by rw [h]; exact List.mem_cons_self)
    · exact .inr (List.mem_cons_of_mem _ h)

section
variable {s : State} {k v : ℕ}

theorem victim_saves (h : s.victim k = some v) : s.lch v Lch.nsave ≠ 0 := by
  have hv : v ∈ (s.kernels.filter (fun p => decide (p.2.state = .running) && p.2.ending.isNone && decide (s.lch p.1 Lch.nsave ≠ 0) &&
      decide (s.qcfg p.2.queue Que.cls < s.qcfg (s.kern k).queue Que.cls))).map Prod.fst :=
    (s.foldl_worse_mem _ none h).resolve_left nofun
  obtain ⟨p, hp, rfl⟩ := List.mem_map.mp hv
  have hp' := (List.mem_filter.mp hp).2
  simp only [Bool.and_eq_true, decide_eq_true_eq] at hp'
  exact hp'.1.2

theorem coxPreempt_stops (hp : s.place = .kernel k) (hc : s.isCandidate k = true) (ha : (s.kern k).aged = true) (hn : s.planOf k = none)
    (hstop : ∀ p ∈ s.kernels, p.2.stop ≠ some .cox) (hv : s.victim k = some v) :
    Runs .coxPreempt s (fun t => (t.kern v).state = .stopping ∧ (t.kern v).stop = some .cox ∧ t.mem = s.mem) := by
  have hany : s.kernels.any (fun p => decide (p.2.stop = some .cox)) = false :=
    List.any_eq_false.mpr fun p hp => by simpa using hstop p hp
  have hrun : exec .coxPreempt s = .next (s.startStop v .cox) := by
    show execCoxPreempt s = _
    rw [execCoxPreempt, atKernel, hp]
    simp only [hc, ha, hn, hany, hv, Option.isNone_none, Bool.not_false, Bool.and_self, if_true]
  obtain ⟨hstate, hwho⟩ := s.stopKernels_stop (s.stopSet s.kernels.length [v]) .cox (s.mem_stopSet _ (List.mem_singleton.mpr rfl))
  exact ⟨_, hrun, hstate, hwho, State.startStop_mem v .cox⟩

end

/-! ## The governors and their answers (R94, R112, R426) -/

section
variable {s : State} {d : ℕ} {r : GovReq}

theorem governorRequest_runs (hp : s.place = .die d) (hr : s.gov.find? (fun r => decide (r.die = d)) = some r) :
    Runs .governorRequest s (fun t => t = { s with gov := s.gov.erase r, answers := t.answers, sys := t.sys } ∧
      (s.fld .power 0 (heldFld d) + r.what.units ≤ s.fld .power 0 (budgetFld d) → t.answers = s.answers ++ [(r, true)] ∧
        Sets s t .power 0 [(heldFld d, s.fld .power 0 (heldFld d) + r.what.units)]) ∧
      (s.fld .power 0 (budgetFld d) < s.fld .power 0 (heldFld d) + r.what.units → t.answers = s.answers ++ [(r, false)] ∧ t.sys = s.sys)) := by
  have hrun : exec .governorRequest s = .next (if s.fld .power 0 (heldFld d) + r.what.units ≤ s.fld .power 0 (budgetFld d) then
      { ({ s with gov := s.gov.erase r } : State).setFld .power 0 (heldFld d) (s.fld .power 0 (heldFld d) + r.what.units) with
        answers := s.answers ++ [(r, true)] }
      else { s with gov := s.gov.erase r, answers := s.answers ++ [(r, false)] }) := by
    show execGovernorRequest s = _
    rw [execGovernorRequest, atDie, hp]
    simp only [hr]
    rfl
  by_cases h : s.fld .power 0 (heldFld d) + r.what.units ≤ s.fld .power 0 (budgetFld d)
  · rw [if_pos h] at hrun
    refine ⟨_, hrun, ?_, fun _ => ⟨rfl, ?_⟩, fun hlt => absurd h hlt.not_ge⟩
    · obtain ⟨y, hy⟩ := ({ s with gov := s.gov.erase r } : State).setFld_records s.sys .power 0 (heldFld d)
        (s.fld .power 0 (heldFld d) + r.what.units)
      rw [hy]
    · exact Sets.of_sys (s.sets_setFld .power 0 (heldFld d) (s.fld .power 0 (heldFld d) + r.what.units)) rfl
  · rw [if_neg h] at hrun
    exact ⟨_, hrun, rfl, fun hle => absurd hle h, fun _ => ⟨rfl, rfl⟩⟩

end

/-- The answer for the admission of a kernel. -/
def answersAdmission (k : ℕ) (x : GovReq × Bool) : Bool :=
  match x.1.what with
  | .admission j _ _ => decide (j = k)
  | .raise .. => false
  | .leave .. => false

/-- The choice of a kernel for which a die was asked at some attempt stands. -/
def Kernel.standing (y : Kernel) (a die : ℕ) : Prop := y.attempt = a ∧ ∃ l, y.chosen = some l ∧ die ∈ l

section
variable {s : State} {k die a n : ℕ} {ok : Bool}

/-- Whether the choice of a kernel stands. -/
def Kernel.stands (y : Kernel) (a die : ℕ) : Bool :=
  decide (y.attempt = a) && (match y.chosen with | some l => l.contains die | none => false)

theorem Kernel.stands_iff {y : Kernel} : y.stands a die = true ↔ y.standing a die := by
  unfold Kernel.standing Kernel.stands
  cases y.chosen <;> simp

/-- The module when an answer for an admission has been taken. -/
def State.answered (s : State) (x : GovReq × Bool) : State := { s with answers := s.answers.erase x }

theorem State.answered_kern (s : State) (x : GovReq × Bool) (k : ℕ) : (s.answered x).kern k = s.kern k := rfl

/-- What an answer for an admission makes of a kernel. -/
def State.admissionAnswered (s : State) (k die a n : ℕ) (ok : Bool) : State :=
  if ok then (if (s.kern k).stands a die then s.granted k die n else (s.returnUnits die n).kick)
  else if (s.kern k).stands a die then (if (s.kern k).held0 + (s.kern k).held1 = 0 then s.withdraw k else (s.withdraw k).kick)
  else s

theorem exec_admissionGrant (hp : s.place = .kernel k)
    (h : s.answers.find? (answersAdmission k) = some (⟨die, .admission k a n⟩, ok)) : exec .admissionGrant s =
      .next ((s.answered (⟨die, .admission k a n⟩, ok)).admissionAnswered k die a n ok) := by
  refine (exec_at_kernel (i := .admissionGrant) hp rfl).trans ?_
  split
  · next r ok' h' =>
    obtain ⟨rfl, rfl⟩ := Prod.mk.inj (Option.some.inj (h'.symm.trans h))
    rfl
  · next h' => exact absurd (h'.symm.trans h) nofun

theorem Kernel.unchosen_of_chosen {y : Kernel} (h : y.chosen ≠ none) : y.unchosen = { y with held0 := 0, held1 := 0, chosen := none } :=
  if_pos (Option.isSome_iff_ne_none.mpr h)

/-- A choice that is withdrawn: nothing is held for it. -/
theorem State.withdraw_spec (h : (s.kern k).chosen ≠ none) : ((s.withdraw k).kern k).chosen = none ∧ ((s.withdraw k).kern k).held0 = 0 ∧
    ((s.withdraw k).kern k).held1 = 0 ∧ ((s.withdraw k).kern k).state = (s.kern k).state := by
  rw [State.withdraw_kern, if_pos rfl, Kernel.unchosen_of_chosen h]
  exact ⟨rfl, rfl, rfl, rfl⟩

theorem admissionGrant_refused (hp : s.place = .kernel k) (h : s.answers.find? (answersAdmission k) = some (⟨die, .admission k a n⟩, false))
    (hs : (s.kern k).standing a die) : Runs .admissionGrant s (fun t => (t.kern k).chosen = none ∧ (t.kern k).held0 = 0 ∧
      (t.kern k).held1 = 0 ∧ (t.kern k).state = (s.kern k).state) := by
  have hrun := exec_admissionGrant hp h
  rw [State.admissionAnswered, State.answered_kern, if_neg Bool.false_ne_true, if_pos (Kernel.stands_iff.mpr hs)] at hrun
  obtain ⟨-, l, hl, -⟩ := hs
  have hspec := State.withdraw_spec (s := s.answered (⟨die, .admission k a n⟩, false)) (k := k) (by
    show (s.kern k).chosen ≠ none
    rw [hl]
    exact nofun)
  refine ⟨_, hrun, ?_⟩
  split
  · exact hspec
  · exact hspec

theorem admissionGrant_gone (hp : s.place = .kernel k) (h : s.answers.find? (answersAdmission k) = some (⟨die, .admission k a n⟩, false))
    (hs : ¬(s.kern k).standing a die) : exec .admissionGrant s = .next (s.answered (⟨die, .admission k a n⟩, false)) := by
  rw [exec_admissionGrant hp h, State.admissionAnswered, State.answered_kern, if_neg Bool.false_ne_true, if_neg (mt Kernel.stands_iff.mp hs)]

theorem admissionGrant_returned (hp : s.place = .kernel k) (h : s.answers.find? (answersAdmission k) = some (⟨die, .admission k a n⟩, true))
    (hs : ¬(s.kern k).standing a die) : Runs .admissionGrant s (fun t => t.kernels = s.kernels ∧
      Sets s t .power 0 [(heldFld die, s.fld .power 0 (heldFld die) - n)]) := by
  have hrun := exec_admissionGrant hp h
  rw [State.admissionAnswered, State.answered_kern, if_pos rfl, if_neg (mt Kernel.stands_iff.mp hs)] at hrun
  exact ⟨_, hrun, rfl, Sets.of_sys (s.sets_setFld .power 0 (heldFld die) (s.fld .power 0 (heldFld die) - n)) rfl⟩

/-- The kernel once the answer has been counted. -/
def State.counts (s : State) (k die n : ℕ) (left : List ℕ) : State :=
  s.setKern k (fun y => { y.setHeld die (y.held die + n) with chosen := some left })

theorem State.counts_kern (s : State) (k die n : ℕ) (left : List ℕ) :
    (s.counts k die n left).kern k = { (s.kern k).setHeld die ((s.kern k).held die + n) with chosen := some left } := State.setKern_kern_self ..

/-- The first placement of a kernel fits on some bays. -/
def State.fitsOn (s : State) (k : ℕ) (plan : List ℕ) : Prop :=
  (s.lch k Lch.persistent = 1 → (s.baysTaking k plan (s.ncrews k) []).isSome = true) ∧
    (s.lch k Lch.persistent ≠ 1 → ∃ b ∈ plan, 0 < s.bayCrews b k)

/-- A candidate that comes before a kernel has aged. -/
def State.overtaken (s : State) (k : ℕ) : Prop :=
  ∃ p ∈ s.kernels, p.1 ≠ k ∧ p.2.aged = true ∧ s.isCandidate p.1 = true ∧ lexLe (s.rank p.1) (s.rank k) = true

theorem State.fitsOn_iff (s : State) (k : ℕ) (plan : List ℕ) : s.fitsOn k plan ↔
    (if s.lch k Lch.persistent = 1 then (s.baysTaking k plan (s.ncrews k) []).isSome
      else plan.any (fun b => decide (0 < s.bayCrews b k))) = true := by
  unfold State.fitsOn
  by_cases h : s.lch k Lch.persistent = 1 <;> simp [h]

theorem State.overtaken_iff (s : State) (k : ℕ) : s.overtaken k ↔ s.agedBefore k = true := by
  simp only [State.overtaken, State.agedBefore, List.any_eq_true, Bool.and_eq_true, decide_eq_true_eq, and_assoc]

/-- With the last grant a kernel is admitted, or passed over. -/
def State.decided (s : State) (k : ℕ) : State :=
  if (if s.lch k Lch.persistent = 1 then (s.baysTaking k (s.kern k).plan (s.ncrews k) []).isSome
      else (s.kern k).plan.any (fun b => decide (0 < s.bayCrews b k))) && s.isCandidate k && !s.agedBefore k
  then s.admitKernel k else (s.withdraw k).kick

/-- The dies whose answers are still to come once one has answered. -/
def Kernel.awaiting (y : Kernel) (die : ℕ) : List ℕ := (y.chosen.getD []).filter (fun x => decide (x ≠ die))

theorem State.counts_eq {l : List ℕ} (hl : (s.kern k).chosen = some l) : s.setKern k (fun y => { y.setHeld die (y.held die + n) with
    chosen := y.chosen.map (fun l => l.filter (fun x => decide (x ≠ die))) }) = s.counts k die n ((s.kern k).awaiting die) := by
  unfold State.counts State.setKern Kernel.awaiting
  dsimp only
  rw [hl]
  rfl

theorem State.granted_more {l : List ℕ} (hl : (s.kern k).chosen = some l) (h : (s.kern k).awaiting die ≠ []) :
    s.granted k die n = s.counts k die n ((s.kern k).awaiting die) := by
  unfold State.granted
  rw [State.counts_eq hl]
  refine if_neg ?_
  rw [State.counts_kern]
  exact fun hc => h (Option.some.inj hc)

theorem State.granted_last {l : List ℕ} (hl : (s.kern k).chosen = some l) (h : (s.kern k).awaiting die = []) :
    s.granted k die n = (s.counts k die n []).decided k := by
  unfold State.granted
  rw [State.counts_eq hl, h]
  refine if_pos ?_
  rw [State.counts_kern]

theorem State.decided_admits (hf : s.fitsOn k (s.kern k).plan) (hc : s.isCandidate k = true) (ho : ¬s.overtaken k) : s.decided k = s.admitKernel k := by
  have ha : s.agedBefore k = false := Bool.eq_false_iff.mpr (mt (s.overtaken_iff k).mpr ho)
  refine if_pos ?_
  rw [(s.fitsOn_iff k _).mp hf, hc, ha]
  rfl

theorem State.decided_passes (h : ¬s.fitsOn k (s.kern k).plan ∨ s.isCandidate k = false ∨ s.overtaken k) : s.decided k = (s.withdraw k).kick := by
  refine if_neg ?_
  rw [Bool.and_eq_true, Bool.and_eq_true, Bool.not_eq_true']
  rintro ⟨⟨hf, hc⟩, ha⟩
  rcases h with h | h | h
  · exact h ((s.fitsOn_iff k _).mpr hf)
  · exact Bool.false_ne_true (h.symm.trans hc)
  · exact Bool.false_ne_true (ha.symm.trans ((s.overtaken_iff k).mp h))

theorem Kernel.setHeld_state (y : Kernel) (d m : ℕ) : (y.setHeld d m).state = y.state := by
  unfold Kernel.setHeld
  split <;> rfl

theorem Kernel.setHeld_plan (y : Kernel) (d m : ℕ) : (y.setHeld d m).plan = y.plan := by
  unfold Kernel.setHeld
  split <;> rfl

/-- An answer that grants units for a choice that stands. -/
theorem admissionGrant_granted (hp : s.place = .kernel k) (h : s.answers.find? (answersAdmission k) = some (⟨die, .admission k a n⟩, true))
    (hs : (s.kern k).standing a die) :
    exec .admissionGrant s = .next ((s.answered (⟨die, .admission k a n⟩, true)).granted k die n) := by
  rw [exec_admissionGrant hp h, State.admissionAnswered, State.answered_kern, if_pos rfl, if_pos (Kernel.stands_iff.mpr hs)]

theorem admissionGrant_more (hp : s.place = .kernel k) (h : s.answers.find? (answersAdmission k) = some (⟨die, .admission k a n⟩, true))
    (hs : (s.kern k).standing a die) (hl : (s.kern k).awaiting die ≠ []) : Runs .admissionGrant s (fun t =>
      (t.kern k).chosen = some ((s.kern k).awaiting die) ∧ (t.kern k).held die = (s.kern k).held die + n ∧
        (t.kern k).state = (s.kern k).state) := by
  obtain ⟨l, hc, -⟩ := hs.2
  refine ⟨_, (admissionGrant_granted hp h hs).trans (congrArg Host.Outcome.next (State.granted_more hc hl)), ?_⟩
  beta_reduce
  rw [State.counts_kern]
  exact ⟨rfl, Kernel.held_setHeld _ _ _, Kernel.setHeld_state _ _ _⟩

/-- The module once the last die has granted its units. -/
def State.lastGrant (s : State) (k die a n : ℕ) : State := (s.answered (⟨die, .admission k a n⟩, true)).counts k die n []

theorem State.lastGrant_kern (s : State) (k die a n : ℕ) :
    (s.lastGrant k die a n).kern k = { (s.kern k).setHeld die ((s.kern k).held die + n) with chosen := some [] } := State.counts_kern ..

theorem State.lastGrant_plan (s : State) (k die a n : ℕ) : ((s.lastGrant k die a n).kern k).plan = (s.kern k).plan := by
  rw [State.lastGrant_kern]
  exact Kernel.setHeld_plan _ _ _

theorem admissionGrant_last (hp : s.place = .kernel k) (h : s.answers.find? (answersAdmission k) = some (⟨die, .admission k a n⟩, true))
    (hs : (s.kern k).standing a die) (hl : (s.kern k).awaiting die = []) :
    exec .admissionGrant s = .next ((s.lastGrant k die a n).decided k) := by
  obtain ⟨l, hc, -⟩ := hs.2
  exact (admissionGrant_granted hp h hs).trans (congrArg Host.Outcome.next (State.granted_last hc hl))

theorem admissionGrant_admits (hp : s.place = .kernel k) (h : s.answers.find? (answersAdmission k) = some (⟨die, .admission k a n⟩, true))
    (hs : (s.kern k).standing a die) (hl : (s.kern k).awaiting die = []) (hf : (s.lastGrant k die a n).fitsOn k (s.kern k).plan)
    (hc : (s.lastGrant k die a n).isCandidate k = true) (ho : ¬(s.lastGrant k die a n).overtaken k) : Runs .admissionGrant s (fun t =>
      (t.kern k).state = .admitted ∧ (t.kern k).held die = (s.kern k).held die + n) := by
  rw [← s.lastGrant_plan k die a n] at hf
  refine ⟨_, (admissionGrant_last hp h hs hl).trans (congrArg Host.Outcome.next (State.decided_admits hf hc ho)), ?_⟩
  obtain ⟨m, hm⟩ := (s.lastGrant k die a n).admitKernel_kern k
  rw [hm, State.lastGrant_kern]
  exact ⟨rfl, Kernel.held_setHeld (s.kern k) die ((s.kern k).held die + n)⟩

theorem admissionGrant_passes (hp : s.place = .kernel k) (h : s.answers.find? (answersAdmission k) = some (⟨die, .admission k a n⟩, true))
    (hs : (s.kern k).standing a die) (hl : (s.kern k).awaiting die = []) (hf : ¬(s.lastGrant k die a n).fitsOn k (s.kern k).plan ∨
      (s.lastGrant k die a n).isCandidate k = false ∨ (s.lastGrant k die a n).overtaken k) : Runs .admissionGrant s (fun t =>
      (t.kern k).chosen = none ∧ (t.kern k).held0 = 0 ∧ (t.kern k).held1 = 0 ∧ (t.kern k).state = (s.kern k).state) := by
  rw [← s.lastGrant_plan k die a n] at hf
  refine ⟨_, (admissionGrant_last hp h hs hl).trans (congrArg Host.Outcome.next (State.decided_passes hf)), ?_⟩
  obtain ⟨hchosen, h0, h1, hstate⟩ := State.withdraw_spec (s := s.lastGrant k die a n) (k := k) (by rw [State.lastGrant_kern]; exact nofun)
  rw [State.lastGrant_kern] at hstate
  exact ⟨hchosen, h0, h1, hstate.trans (Kernel.setHeld_state _ _ _)⟩

end

end Sys2Proof.Machine
end

section
namespace Sys2Proof.Laws

open Machine Claims

/-- Settles O48: which kernels are ready, chosen, granted and admitted. -/
theorem admission : Obligations.Admission := by
  unfold Obligations.Admission
  refine ⟨fun s k hp => ⟨fun hw he => ⟨?failed, ?blocked, ?ready⟩, ?aged, ?urgency⟩,
    fun s => ⟨?none, ⟨?order, ?listed⟩, ?all, ?turn, ?head, ?preempt⟩,
    fun s => ⟨?governor, fun k die a n ok hp h => ⟨?refused, ?gone, ?returned, ?more, ?admits, ?passes⟩⟩⟩
  case failed => exact kernelDependenceMet_failed hp hw he
  case blocked => exact kernelDependenceMet_blocked hp hw he
  case ready => exact kernelDependenceMet_ready hp hw he
  case aged =>
    refine fun c hc ha => ⟨fun hle => ⟨_, (exec_candidateAged hp hc ha).trans (by rw [if_neg hle.not_gt]), rfl, ?_, fun j hj => ?_⟩,
      fun hlt => (exec_candidateAged hp hc ha).trans (by rw [if_pos hlt])⟩
    · rw [State.kick_kern, State.setKern_kern_self]
    · rw [State.kick_kern, State.setKern_kern_ne (h := hj.symm)]
  case urgency =>
    refine ⟨_, exec_urgencyUpdate hp, rfl, fun j hj => State.setKern_kern_ne (h := hj.symm) .., ?_⟩
    rw [State.setKern_kern_self]
    rfl
  case none => exact fun h => congrArg (fun l => Host.Outcome.next (State.tryAll l s.refreshCandidates)) h
  case order => exact s.refreshCandidates.candidates_order
  case listed =>
    intro k
    rw [State.mem_candidates, State.refreshCandidates_get?, Option.isSome_map]
  case all => rfl
  case turn =>
    refine fun k rest w => ⟨fun hc ha => ?_, fun hc ha => ?_, fun hc hp hw => ?_, fun hc hp hw ha => ?_⟩
    · rw [State.tryAll_chosen hc, ha, if_neg Bool.false_ne_true]
    · rw [State.tryAll_chosen hc, ha, if_pos rfl]
    · rw [State.tryAll_unfit hc hp, hw, if_pos rfl]
    · rw [State.tryAll_unfit hc hp, hw, ha, if_neg Bool.false_ne_true, if_neg Bool.false_ne_true]
  case head =>
    intro k rest hl hk hc
    have hrun : exec .coxChoose s = .next (State.tryAll (k :: rest) s.refreshCandidates) :=
      congrArg (fun l => Host.Outcome.next (State.tryAll l s.refreshCandidates)) hl
    refine ⟨fun plan hp => ⟨fun h0 h1 => ⟨_, hrun, tryAll_admits hk hc hp h0 h1⟩, fun hu => ⟨_, hrun, tryAll_asks hk hc hp hu⟩⟩,
      fun hp hw => ?_, fun hp hw ha => ?_⟩
    · rw [hrun, State.tryAll_unfit hc hp, hw, if_pos rfl]
    · rw [hrun, State.tryAll_unfit hc hp, hw, ha, if_neg Bool.false_ne_true, if_pos rfl]
  case preempt => exact fun k v hp hc ha hn hstop hv => ⟨victim_saves hv, coxPreempt_stops hp hc ha hn hstop hv⟩
  case governor => exact fun d r hp hr => governorRequest_runs hp hr
  case refused =>
    rintro hs rfl
    exact admissionGrant_refused hp h hs
  case gone =>
    rintro hs rfl
    exact admissionGrant_gone hp h hs
  case returned =>
    rintro hs rfl
    exact admissionGrant_returned hp h hs
  case more =>
    rintro hs rfl
    exact admissionGrant_more hp h hs
  case admits =>
    rintro hs rfl hl hf
    exact admissionGrant_admits hp h hs hl hf
  case passes =>
    rintro hs rfl hl
    exact admissionGrant_passes hp h hs hl

end Sys2Proof.Laws
end


section
namespace Sys2Proof.Machine

open Claims Laws

/-! ## The registers of a crew at placement (R115) -/

theorem sext56_lt (x : ℕ) : sext56 x < 2 ^ 64 := by
  unfold sext56
  dsimp only
  have h : x % 2 ^ 56 < 2 ^ 56 := Nat.mod_lt _ (by decide)
  split <;> omega

theorem mem_startCells {arg : ℕ} {p : ℕ × Word} : p ∈ (List.range 32).flatMap (fun l => cellsAt 2 0 l arg) ↔
    ∃ l < 32, p = (l, BitVec.ofNat 32 arg) ∨ p = (32 + l, BitVec.ofNat 32 (arg / 2 ^ 32)) := by
  simp [List.mem_flatMap, cellsAt]

/-- v0:1 of every lane holds the argument. -/
theorem startRegs_arg {arg l : ℕ} (hl : l < 32) : (startRegs arg).getD (32 * 0 + l) 0#32 = BitVec.ofNat 32 arg ∧
    (startRegs arg).getD (32 * 1 + l) 0#32 = BitVec.ofNat 32 (arg / 2 ^ 32) := by
  constructor
  · refine writeCells_getD (fun p hp hk => ?_) _ (.inr (mem_startCells.mpr ⟨l, hl, .inl (by rw [Nat.mul_zero, Nat.zero_add])⟩))
    obtain ⟨j, -, rfl | rfl⟩ := mem_startCells.mp hp
    · rfl
    · exact absurd hk (by dsimp only; omega)
  · refine writeCells_getD (fun p hp hk => ?_) _ (.inr (mem_startCells.mpr ⟨l, hl, .inr (by rw [Nat.mul_one])⟩))
    obtain ⟨j, hj, rfl | rfl⟩ := mem_startCells.mp hp
    · exact absurd hk (by dsimp only; omega)
    · rfl

/-- Every other register is 0. -/
theorem startRegs_rest {arg l r : ℕ} (hr : 2 ≤ r) : (startRegs arg).getD (32 * r + l) 0#32 = 0#32 := by
  refine writeCells_getD (fun p hp hk => ?_) _ (.inl rfl)
  obtain ⟨j, hj, rfl | rfl⟩ := mem_startCells.mp hp <;> exact absurd hk (by dsimp only; omega)

theorem val_of_startRegs {c : Crew} {arg l : ℕ} (hc : c.regs = startRegs arg) (ha : arg < 2 ^ 64) (hl : l < 32) :
    c.val 2 0#8 l = arg ∧ ∀ r, 2 ≤ r → c.reg r l = 0#32 := by
  obtain ⟨h0, h1⟩ := startRegs_arg (arg := arg) hl
  refine ⟨?_, fun r hr => ?_⟩
  · show (c.reg 0 l).toNat + 2 ^ 32 * ((c.reg 1 l).toNat + 2 ^ 32 * 0) = arg
    rw [Crew.reg, Crew.reg, hc, h0, h1, BitVec.toNat_ofNat, BitVec.toNat_ofNat, Nat.mod_eq_of_lt (a := arg / 2 ^ 32) (by omega)]
    omega
  · rw [Crew.reg, hc]
    exact startRegs_rest hr

/-! ## Affinity (R115, R137) -/

section
variable {s : State} {k idx b d blocks : ℕ} {map : Option (List ℕ)}

theorem mem_affTrusses {truss : ℕ} : truss ∈ s.affTrusses k idx ↔ Near s k idx truss := by
  have haff (n : ℕ) : n ∈ (s.bentsOf k idx).filter (fun b => match (s.kern k).bents[b]? with | some x => x.aff | none => false) ↔
      ∃ x, (s.kern k).bents[n]? = some x ∧ x.aff = true ∧ s.member k n idx = true := by
    rw [List.mem_filter, State.bentsOf, List.mem_filter, List.mem_range]
    constructor
    · rintro ⟨⟨hn, hm⟩, ha⟩
      rw [List.getElem?_eq_getElem hn] at ha ⊢
      exact ⟨_, rfl, ha, hm⟩
    · rintro ⟨x, hx, ha, hm⟩
      refine ⟨⟨(List.getElem?_eq_some_iff.mp hx).1, hm⟩, ?_⟩
      rw [hx]
      exact ha
  unfold State.affTrusses Near
  simp only [List.mem_map, List.mem_filter, Bool.and_eq_true, decide_eq_true_eq, List.any_eq_true, List.contains_iff_mem]
  constructor
  · rintro ⟨p, ⟨hp, hk, n, hn, hx⟩, ht⟩
    exact ⟨p, hp, hk, ht, n, hx, (haff n).mp (List.mem_filter.mpr hn)⟩
  · rintro ⟨p, hp, hk, ht, n, hx, hn⟩
    exact ⟨p, ⟨hp, hk, n, List.mem_filter.mp ((haff n).mpr hn), hx⟩, ht⟩

theorem prefers_iff : s.prefers k idx b blocks map = true ↔ Claims.Prefers s k idx b blocks map := by
  unfold State.prefers Claims.Prefers
  simp only [Bool.or_eq_true, List.isEmpty_iff, List.eq_nil_iff_forall_not_mem, List.contains_iff_mem, mem_affTrusses, Bool.not_eq_true',
    List.any_eq_false, Bool.and_eq_true, not_and, Bool.not_eq_true]
  rw [or_assoc, or_left_comm]

/-! ## A free slot of a side (R115) -/

theorem mem_freeSlots {i : ℕ} : i ∈ s.freeSlots b d ↔ i < 32 ∧ s.crews.get? (sideRid b d i) = none := by
  rw [State.freeSlots, List.mem_filter, List.mem_range, Option.isNone_iff_eq_none]
  rfl

/-- The slot that a placement takes. -/
def State.slotTaken (s : State) (b d : ℕ) : ℕ := ((s.freeSlots b d)[s.choice 0 % max (s.freeSlots b d).length 1]?).getD 0

theorem slotTaken_mem (h : s.freeSlots b d ≠ []) : s.slotTaken b d ∈ s.freeSlots b d := by
  have hpos : 0 < (s.freeSlots b d).length := List.length_pos_iff.mpr h
  have hlt : s.choice 0 % max (s.freeSlots b d).length 1 < (s.freeSlots b d).length := by
    rw [Nat.max_eq_left hpos]
    exact Nat.mod_lt _ hpos
  rw [State.slotTaken, List.getElem?_eq_getElem hlt]
  exact List.getElem_mem hlt

/-- A side that has room for a crew has a free slot: 32 crews of it would fill it. -/
theorem freeSlots_ne_nil (h : 0 < s.sideRoom b d blocks) : s.freeSlots b d ≠ [] := by
  intro hfull
  have htaken : (List.range 32).map (sideRid b d) ⊆ (s.crewsAt b d).map Prod.fst := by
    intro rid hr
    obtain ⟨i, hi, rfl⟩ := List.mem_map.mp hr
    have hi' : i < 32 := List.mem_range.mp hi
    obtain ⟨c, hc⟩ : ∃ c, s.crews.get? (sideRid b d i) = some c := by
      refine Option.ne_none_iff_exists'.mp fun hn => ?_
      have hmem : i ∈ s.freeSlots b d := mem_freeSlots.mpr ⟨hi', hn⟩
      rw [hfull] at hmem
      exact absurd hmem List.not_mem_nil
    refine List.mem_map.mpr ⟨(sideRid b d i, c), List.mem_filter.mpr ⟨Tbl.mem_of_get? hc, ?_⟩, rfl⟩
    rw [decide_eq_true_eq, sideRid]
    omega
  have hnodup : ((List.range 32).map (sideRid b d)).Nodup :=
    List.Nodup.map (fun i j h => by unfold sideRid at h; omega) List.nodup_range
  have hlen := (hnodup.subperm htaken).length_le
  rw [List.length_map, List.length_range, List.length_map] at hlen
  have hroom : s.sideRoom b d blocks ≤ 32 - (s.crewsAt b d).length := Nat.min_le_left _ _
  omega

theorem freeSlots_of_canHost (h : s.canHost k b d blocks map = true) : s.freeSlots b d ≠ [] := by
  refine freeSlots_ne_nil (blocks := blocks) ?_
  simp only [State.canHost, Bool.and_eq_true, decide_eq_true_eq] at h
  exact h.1.1.2

/-! ## A crew takes its place (R115, R135) -/

/-- To enter a bay changes the bays only. -/
theorem State.enterBay_bays (s : State) (b k : ℕ) (map : Option (List ℕ)) : ∃ y, s.enterBay b k map = { s with bays := y } := by
  unfold State.enterBay
  extract_lets launch u
  have hu : ∃ y, u = { s with bays := y } := by
    simp only [u]
    split
    · exact ⟨_, rfl⟩
    · exact ⟨_, rfl⟩
  obtain ⟨y, hy⟩ := hu
  rw [hy]
  split
  · exact ⟨_, rfl⟩
  · exact ⟨_, rfl⟩

theorem State.askForCmd_kernels (s : State) (id : ℕ) : (s.askForCmd id).kernels = s.kernels := by
  unfold State.askForCmd State.askRaise
  split
  · split
    · rfl
    · split
      · rfl
      · split <;> rfl
  · rfl

theorem State.unpause_crews (s : State) (k idx b : ℕ) : (s.unpause k idx b).crews = s.crews :=
  (State.foldl_askForCmd_crews _ _).trans rfl

theorem State.foldl_askForCmd_kernels (l : List Cmd) (s : State) : (l.foldl (fun s m => s.askForCmd m.id) s).kernels = s.kernels := by
  induction l generalizing s with
  | nil => rfl
  | cons m l ih => exact (ih _).trans (s.askForCmd_kernels m.id)

theorem State.unpause_kernels (s : State) (k idx b : ℕ) : (s.unpause k idx b).kernels = s.kernels :=
  (State.foldl_askForCmd_kernels _ _).trans rfl

/-- A crew as it is put into its slot. -/
def seated (s : State) (k idx : ℕ) (c : Crew) : Crew :=
  { c with bents := s.bentsOf k idx, debug := (s.debugSeg k).isSome, doomed := c.doomed.or (s.tagDoom (s.kern k).ctx c.tag) }

/-- A kernel one of whose crews has been put into a slot of a bay. -/
def Kernel.seats (y : Kernel) (idx b : ℕ) : Kernel :=
  { y.setKeep idx (fun e => { e with
      placed := true, save := none, bay := b, mma := none, restAt := none, fresh := false, diverged := none, doomed := none }) with
    nextCrew := max y.nextCrew (idx + 1) }

theorem State.seat_crews (s : State) (k idx b d slot : ℕ) (c : Crew) :
    (s.seat k idx b d slot c).crews = s.crews.set (sideRid b d slot) (seated s k idx c) := by
  unfold State.seat
  extract_lets c' first u v w
  have hw : w.crews = s.crews.set (sideRid b d slot) (seated s k idx c) := State.unpause_crews v k idx b
  split
  · exact hw
  · exact hw

theorem State.seat_kern (s : State) (k idx b d slot : ℕ) (c : Crew) : (s.seat k idx b d slot c).kern k = (s.kern k).seats idx b := by
  unfold State.seat
  extract_lets c' first u v w
  have hw : w.kern k = (s.kern k).seats idx b := by
    rw [State.kern, State.unpause_kernels]
    exact State.setKern_kern_self ..
  split
  · exact hw
  · exact hw

theorem Kernel.seats_keep (y : Kernel) (idx b : ℕ) : ((y.seats idx b).keepOf idx).placed = true ∧ ((y.seats idx b).keepOf idx).save = none := by
  have h : (y.seats idx b).keepOf idx = { y.keepOf idx with
      placed := true, save := none, bay := b, mma := none, restAt := none, fresh := false, diverged := none, doomed := none } := by
    show (Tbl.set y.keep idx _).getD idx {} = _
    rw [Tbl.getD, Tbl.get?_set_self]
    rfl
  rw [h]
  exact ⟨rfl, rfl⟩

/-- A crew takes its place on a side. -/
def State.settleOn (s : State) (k idx b d : ℕ) (map : Option (List ℕ)) (c : Crew) : State :=
  (s.enterBay b k map).seat k idx b d (s.slotTaken b d) c

/-- The crew stands in its slot with its bents and its tag judged, no other crew has changed, and its kernel has placed it. -/
theorem State.settleOn_spec (s : State) (k idx b d : ℕ) (map : Option (List ℕ)) (c : Crew) :
    (∃ l e x, (s.settleOn k idx b d map c).crews.get? (sideRid b d (s.slotTaken b d)) = some { c with bents := l, debug := e, doomed := x }) ∧
    (∀ r, r ≠ sideRid b d (s.slotTaken b d) → (s.settleOn k idx b d map c).crews.get? r = s.crews.get? r) ∧
    (s.settleOn k idx b d map c).kern k = (s.kern k).seats idx b ∧ (s.settleOn k idx b d map c).mem = s.mem := by
  obtain ⟨y, hy⟩ := s.enterBay_bays b k map
  refine ⟨⟨(s.enterBay b k map).bentsOf k idx, ((s.enterBay b k map).debugSeg k).isSome,
    c.doomed.or ((s.enterBay b k map).tagDoom ((s.enterBay b k map).kern k).ctx c.tag), ?_⟩, fun r hr => ?_, ?_, ?_⟩
  · rw [State.settleOn, State.seat_crews, Tbl.get?_set_self]
    rfl
  · rw [State.settleOn, State.seat_crews, Tbl.get?_set_ne _ _ hr.symm, hy]
  · rw [State.settleOn, State.seat_kern, hy]
    rfl
  · rw [State.settleOn, State.seat_mem, hy]

/-! ## The place of the next crew (R115, R122) -/

theorem State.placeOn_fresh (h : s.nextCrewOf k = some (idx, none)) : s.placeOn k b d =
    if s.canHost k b d (s.lch k Lch.allot + 1) none && s.prefers k idx b (s.lch k Lch.allot + 1) none then
      some (s.settleOn k idx b d none (s.started k idx)) else none := by
  rw [State.placeOn, h]
  rfl

theorem State.placeOn_saved {sv : ℕ} {l : List (ℕ × Hit × ℕ)} (h : s.nextCrewOf k = some (idx, some sv))
    (hl : s.saveReach k sv .read = .ok l) : s.placeOn k b d =
      if s.canHost k b d (s.blocksOf k sv l) (some (s.savedMap k sv l)) && s.fuTakes b d k sv l &&
          s.prefers k idx b (s.blocksOf k sv l) (some (s.savedMap k sv l)) then
        some (s.settleOn k idx b d (some (s.savedMap k sv l)) (s.resumed k idx sv l)) else none := by
  rw [State.placeOn, h]
  dsimp only
  rw [hl]
  rfl

theorem State.placeOn_bad {sv cause : ℕ} (h : s.nextCrewOf k = some (idx, some sv)) (hl : s.saveReach k sv .read = .bad cause) :
    s.placeOn k b d = some (s.ctxFault (s.kern k).ctx cause) := by
  rw [State.placeOn, h]
  dsimp only
  rw [hl]

theorem State.placeOn_none (h : s.nextCrewOf k = none) : s.placeOn k b d = none := by rw [State.placeOn, h]

theorem exec_crewPlace_side (hp : s.place = .kernelSide k b d) (hk : s.places k = true) (h0 : s.lch k Lch.persistent = 0) :
    exec .crewPlace s = .next ((s.placeOn k b d).getD s) := by
  show execCrewPlace s = _
  rw [execCrewPlace, hp]
  simp only [hk, h0, decide_true, Bool.and_self, if_true]

/-- A side that cannot take the next crew, or that affinity passes over, or whose function unit is full. -/
theorem State.placeOn_refuses {sv : Option ℕ} (h : s.nextCrewOf k = some (idx, sv))
    (hfresh : sv = none → blocks = s.lch k Lch.allot + 1 ∧ map = none)
    (hsaved : ∀ x, sv = some x → ∃ l, s.saveReach k x .read = .ok l ∧ blocks = s.blocksOf k x l ∧ map = some (s.savedMap k x l))
    (hno : s.canHost k b d blocks map = false ∨ ¬Claims.Prefers s k idx b blocks map ∨
      (∃ x l, sv = some x ∧ s.saveReach k x .read = .ok l ∧ s.fuTakes b d k x l = false)) : s.placeOn k b d = none := by
  cases sv with
  | none =>
    obtain ⟨rfl, rfl⟩ := hfresh rfl
    rw [State.placeOn_fresh h]
    refine if_neg ?_
    rw [Bool.and_eq_true]
    rintro ⟨hc, hp⟩
    rcases hno with hno | hno | ⟨x, l, hx, -⟩
    · exact Bool.false_ne_true (hno.symm.trans hc)
    · exact hno (prefers_iff.mp hp)
    · exact nomatch hx
  | some sv =>
    obtain ⟨l, hl, rfl, rfl⟩ := hsaved sv rfl
    rw [State.placeOn_saved h hl]
    refine if_neg ?_
    rw [Bool.and_eq_true, Bool.and_eq_true]
    rintro ⟨⟨hc, hf⟩, hp⟩
    rcases hno with hno | hno | ⟨x, l', hx, hl', hfu⟩
    · exact Bool.false_ne_true (hno.symm.trans hc)
    · exact hno (prefers_iff.mp hp)
    · obtain rfl := Option.some.inj hx
      obtain rfl : l = l' := by
        have hll := hl.symm.trans hl'
        exact Reach.ok.inj hll
      exact Bool.false_ne_true (hfu.symm.trans hf)

theorem State.placeOn_starts (h : s.nextCrewOf k = some (idx, none)) (hc : s.canHost k b d (s.lch k Lch.allot + 1) none = true)
    (hp : Claims.Prefers s k idx b (s.lch k Lch.allot + 1) none) :
    s.placeOn k b d = some (s.settleOn k idx b d none (s.started k idx)) := by
  rw [State.placeOn_fresh h, hc, prefers_iff.mpr hp]
  rfl

theorem State.placeOn_resumes {sv : ℕ} {l : List (ℕ × Hit × ℕ)} (h : s.nextCrewOf k = some (idx, some sv))
    (hl : s.saveReach k sv .read = .ok l) (hc : s.canHost k b d (s.blocksOf k sv l) (some (s.savedMap k sv l)) = true)
    (hf : s.fuTakes b d k sv l = true) (hp : Claims.Prefers s k idx b (s.blocksOf k sv l) (some (s.savedMap k sv l))) :
    s.placeOn k b d = some (s.settleOn k idx b d (some (s.savedMap k sv l)) (s.resumed k idx sv l)) := by
  rw [State.placeOn_saved h hl, hc, hf, prefers_iff.mpr hp]
  rfl

/-! ### All the crews of a persistent kernel -/

theorem State.placeFirst_none (h : s.nextCrewOf k = none) : ∀ l : List (ℕ × ℕ), s.placeFirst k l = none
  | [] => rfl
  | (b, d) :: rest => by
    rw [State.placeFirst, State.placeOn_none h]
    exact State.placeFirst_none h rest

/-- Where some side takes the crew, the first one that does takes it. -/
theorem State.placeFirst_of_mem {t : State} : ∀ {l : List (ℕ × ℕ)}, (b, d) ∈ l → s.placeOn k b d = some t →
    ∃ b' d' t', (b', d') ∈ l ∧ s.placeFirst k l = some t' ∧ s.placeOn k b' d' = some t'
  | (b₀, d₀) :: rest, hm, ht => by
    rw [State.placeFirst]
    cases h₀ : s.placeOn k b₀ d₀ with
    | some t₀ => exact ⟨b₀, d₀, t₀, List.mem_cons_self, rfl, h₀⟩
    | none =>
      have hrest : (b, d) ∈ rest := by
        refine (List.mem_cons.mp hm).resolve_left fun he => ?_
        obtain ⟨rfl, rfl⟩ := Prod.mk.inj he
        exact nomatch h₀.symm.trans ht
      obtain ⟨b', d', t', hm', hf, ho⟩ := State.placeFirst_of_mem hrest ht
      exact ⟨b', d', t', List.mem_cons_of_mem _ hm', hf, ho⟩

/-- One more crew of a persistent kernel is placed. -/
def placeOne (k : ℕ) (o : Option State) : Option State := o.bind (fun a => a.placeFirst k (a.planSides k))

theorem placeOne_iterate_none (k : ℕ) : ∀ n, (placeOne k)^[n] none = none
  | 0 => rfl
  | n + 1 => placeOne_iterate_none k n

theorem State.placeAll_of_placed {n fuel : ℕ} {t : State} (hn : n ≤ fuel) (h : (placeOne k)^[n] (some s) = some t) (ht : t.nextCrewOf k = none) :
    State.placeAll k fuel s = some t := by
  induction n generalizing s fuel with
  | zero =>
    obtain rfl : s = t := Option.some.inj h
    cases fuel <;> rw [State.placeAll, ht] <;> rfl
  | succ n ih =>
    obtain ⟨fuel, rfl⟩ : ∃ f, fuel = f + 1 := ⟨fuel - 1, by omega⟩
    have h' : (placeOne k)^[n] (s.placeFirst k (s.planSides k)) = some t := h
    cases hf : s.placeFirst k (s.planSides k) with
    | none =>
      rw [hf, placeOne_iterate_none] at h'
      exact nomatch h'
    | some u =>
      have hnext : s.nextCrewOf k ≠ none := fun hnone => nomatch (State.placeFirst_none hnone _).symm.trans hf
      rw [State.placeAll, if_neg (mt Option.isNone_iff_eq_none.mp hnext), hf]
      rw [hf] at h'
      exact ih (Nat.le_of_succ_le_succ hn) h'

theorem State.placeAll_of_stuck {n fuel : ℕ} {t : State} (hn : n < fuel) (h : (placeOne k)^[n] (some s) = some t)
    (ht : t.nextCrewOf k ≠ none) (hstuck : t.placeFirst k (t.planSides k) = none) : State.placeAll k fuel s = none := by
  induction n generalizing s fuel with
  | zero =>
    obtain rfl : s = t := Option.some.inj h
    obtain ⟨fuel, rfl⟩ : ∃ f, fuel = f + 1 := ⟨fuel - 1, by omega⟩
    rw [State.placeAll, if_neg (mt Option.isNone_iff_eq_none.mp ht), hstuck]
  | succ n ih =>
    obtain ⟨fuel, rfl⟩ : ∃ f, fuel = f + 1 := ⟨fuel - 1, by omega⟩
    have h' : (placeOne k)^[n] (s.placeFirst k (s.planSides k)) = some t := h
    cases hf : s.placeFirst k (s.planSides k) with
    | none =>
      rw [hf, placeOne_iterate_none] at h'
      exact nomatch h'
    | some u =>
      have hnext : s.nextCrewOf k ≠ none := fun hnone => nomatch (State.placeFirst_none hnone _).symm.trans hf
      rw [State.placeAll, if_neg (mt Option.isNone_iff_eq_none.mp hnext), hf]
      rw [hf] at h'
      exact ih (Nat.lt_of_succ_lt_succ hn) h'

theorem exec_crewPlace_kernel (hp : s.place = .kernel k) (hk : s.places k = true) (h1 : s.lch k Lch.persistent = 1) :
    exec .crewPlace s = match s.saveBad k with
      | some cause => .next (s.ctxFault (s.kern k).ctx cause)
      | none => .next ((State.placeAll k (s.ncrews k) s).getD s) := by
  show execCrewPlace s = _
  rw [execCrewPlace, hp]
  simp only [hk, h1, decide_true, Bool.and_self, if_true] <;> rfl

end
/-! ### The crew that is placed -/

section
variable {s : State} {k idx b d : ℕ}

/-- The crews in the other slots are as they were. -/
def OthersStay (s t : State) (rid : ℕ) : Prop := ∀ r, r ≠ rid → t.crews.get? r = s.crews.get? r

/-- A fresh crew as it stands in its slot (R115). -/
def StartsAs (s : State) (k idx : ℕ) (c : Crew) : Prop :=
  c.kernel = k ∧ c.idx = idx ∧
    c.life = .placed ∧ c.fresh = true ∧ c.em = 0xFFFF_FFFF#32 ∧ c.exited = 0#32 ∧ c.flags = 0#12 ∧ c.stack = [] ∧ c.strokes = [] ∧
    c.handler = false ∧ c.allot = 8 * (s.lch k Lch.allot + 1) ∧
    c.tag = (if s.lch k Lch.tagged = 1 then BitVec.ofNat 32 (s.lch k Lch.tag) else 0#32) ∧
    ∀ l, l < 32 → c.val 2 0#8 l = sext56 (s.lch k Lch.argva) ∧ ∀ r, 2 ≤ r → c.reg r l = 0#32

theorem State.started_startsAs (l : List ℕ) (e : Bool) (x : Option ℕ) :
    StartsAs s k idx { s.started k idx with bents := l, debug := e, doomed := x } :=
  ⟨rfl, rfl, rfl, rfl, rfl, rfl, rfl, rfl, rfl, rfl, rfl, rfl, fun _ hl => val_of_startRegs rfl (sext56_lt _) hl⟩

/-- A crew that comes back stands as its save slot and its kernel's record have it (R122, R226). -/
def ResumesAs (s : State) (k idx sv : ℕ) (l : List (ℕ × Hit × ℕ)) (c : Crew) : Prop :=
  let h := s.saved k sv l 0 64
  c.kernel = k ∧ c.idx = idx ∧
    c.life = .placed ∧ c.fresh = ((s.kern k).keepOf idx).fresh ∧ c.restAt = ((s.kern k).keepOf idx).restAt ∧ c.pc = Frm.pc.get h ∧
    c.slot = Frm.slot.get h ∧ c.exited = BitVec.ofNat 32 (Frm.exited.get h) ∧
    c.em = BitVec.ofNat 32 (Frm.em.get h) &&& ~~~c.exited ∧ c.flags = BitVec.ofNat 12 (Frm.flags.get h) ∧
    c.tag = BitVec.ofNat 32 (Frm.tag.get h) ∧ c.handler = ((s.kern k).keepOf idx).handler ∧
    c.srStroke = 0 ∧ c.progress = slice 127 96 (s.saved k sv l 0x1000 64) ∧ c.mma = ((s.kern k).keepOf idx).mma

theorem State.resumed_resumesAs (sv : ℕ) (l : List (ℕ × Hit × ℕ)) (bents : List ℕ) (e : Bool) (x : Option ℕ) :
    ResumesAs s k idx sv l { s.resumed k idx sv l with bents := bents, debug := e, doomed := x } :=
  ⟨rfl, rfl, rfl, rfl, rfl, rfl, rfl, rfl, rfl, rfl, rfl, rfl, rfl, rfl, rfl⟩

/-- A fresh crew is placed. -/
theorem exec_crewPlace_starts (hp : s.place = .kernelSide k b d) (hk : s.places k = true) (h0 : s.lch k Lch.persistent = 0)
    (hfree : s.freeSlots b d ≠ []) (hn : s.nextCrewOf k = some (idx, none)) (hc : s.canHost k b d (s.lch k Lch.allot + 1) none = true)
    (hpref : Claims.Prefers s k idx b (s.lch k Lch.allot + 1) none) : Runs .crewPlace s (fun t =>
      ∃ slot ∈ s.freeSlots b d, ∃ c, t.crews.get? (sideRid b d slot) = some c ∧ OthersStay s t (sideRid b d slot) ∧
        StartsAs s k idx c ∧ (t.kern k).nextCrew = max (s.kern k).nextCrew (idx + 1) ∧ ((t.kern k).keepOf idx).placed = true ∧
        t.mem = s.mem) := by
  refine ⟨s.settleOn k idx b d none (s.started k idx), ?_, s.slotTaken b d, slotTaken_mem hfree, ?_⟩
  · rw [exec_crewPlace_side hp hk h0, State.placeOn_starts hn hc hpref]
    rfl
  · obtain ⟨⟨l, e, x, hcrew⟩, hothers, hkern, hmem⟩ := s.settleOn_spec k idx b d none (s.started k idx)
    exact ⟨_, hcrew, hothers, State.started_startsAs l e x, by rw [hkern]; rfl, by rw [hkern]; exact (Kernel.seats_keep _ _ _).1, hmem⟩

/-- A crew that was saved is placed again. -/
theorem exec_crewPlace_resumes (hp : s.place = .kernelSide k b d) (hk : s.places k = true) (h0 : s.lch k Lch.persistent = 0)
    (hfree : s.freeSlots b d ≠ []) {sv : ℕ} {l : List (ℕ × Hit × ℕ)} (hn : s.nextCrewOf k = some (idx, some sv))
    (hl : s.saveReach k sv .read = .ok l) (hc : s.canHost k b d (s.blocksOf k sv l) (some (s.savedMap k sv l)) = true)
    (hf : s.fuTakes b d k sv l = true) (hpref : Claims.Prefers s k idx b (s.blocksOf k sv l) (some (s.savedMap k sv l))) :
    Runs .crewPlace s (fun t =>
      ∃ slot ∈ s.freeSlots b d, ∃ c, t.crews.get? (sideRid b d slot) = some c ∧ OthersStay s t (sideRid b d slot) ∧
        ResumesAs s k idx sv l c ∧ ((t.kern k).keepOf idx).save = none ∧ t.mem = s.mem) := by
  refine ⟨s.settleOn k idx b d (some (s.savedMap k sv l)) (s.resumed k idx sv l), ?_, s.slotTaken b d, slotTaken_mem hfree, ?_⟩
  · rw [exec_crewPlace_side hp hk h0, State.placeOn_resumes hn hl hc hf hpref]
    rfl
  · obtain ⟨⟨bents, e, x, hcrew⟩, hothers, hkern, hmem⟩ :=
      s.settleOn_spec k idx b d (some (s.savedMap k sv l)) (s.resumed k idx sv l)
    exact ⟨_, hcrew, hothers, State.resumed_resumesAs sv l bents e x, by rw [hkern]; exact (Kernel.seats_keep _ _ _).2, hmem⟩

/-- A crew of a persistent kernel goes to a side that can take it, where there is one. -/
theorem State.placeFirst_starts (hn : s.nextCrewOf k = some (idx, none)) (hm : (b, d) ∈ s.planSides k)
    (hc : s.canHost k b d (s.lch k Lch.allot + 1) none = true) (hpref : Claims.Prefers s k idx b (s.lch k Lch.allot + 1) none) :
    ∃ t rid c, s.placeFirst k (s.planSides k) = some t ∧ s.crews.get? rid = none ∧ t.crews.get? rid = some c ∧ StartsAs s k idx c ∧
      (t.kern k).nextCrew = max (s.kern k).nextCrew (idx + 1) ∧ OthersStay s t rid := by
  obtain ⟨b', d', t', -, hfirst, ht'⟩ := State.placeFirst_of_mem hm (State.placeOn_starts hn hc hpref)
  rw [State.placeOn_fresh hn] at ht'
  split at ht'
  · next hcan =>
    rw [Bool.and_eq_true] at hcan
    obtain rfl := Option.some.inj ht'
    have hslot := slotTaken_mem (freeSlots_of_canHost hcan.1)
    obtain ⟨⟨l, e, x, hcrew⟩, hothers, hkern, -⟩ := s.settleOn_spec k idx b' d' none (s.started k idx)
    exact ⟨_, sideRid b' d' (s.slotTaken b' d'), _, hfirst, (mem_freeSlots.mp hslot).2, hcrew, State.started_startsAs l e x,
      by rw [hkern]; rfl, hothers⟩
  · exact nomatch ht'

end

/-! ### Where no crew is placed, and the crews of a persistent kernel -/

section
variable {s : State} {k : ℕ}

theorem exec_crewPlace_refuses {idx b d blocks : ℕ} {map : Option (List ℕ)} {sv : Option ℕ} (hp : s.place = .kernelSide k b d)
    (hk : s.places k = true) (h0 : s.lch k Lch.persistent = 0) (h : s.nextCrewOf k = some (idx, sv))
    (hfresh : sv = none → blocks = s.lch k Lch.allot + 1 ∧ map = none)
    (hsaved : ∀ x, sv = some x → ∃ l, s.saveReach k x .read = .ok l ∧ blocks = s.blocksOf k x l ∧ map = some (s.savedMap k x l))
    (hno : s.canHost k b d blocks map = false ∨ ¬Claims.Prefers s k idx b blocks map ∨
      (∃ x l, sv = some x ∧ s.saveReach k x .read = .ok l ∧ s.fuTakes b d k x l = false)) : exec .crewPlace s = .next s := by
  rw [exec_crewPlace_side hp hk h0, State.placeOn_refuses h hfresh hsaved hno]
  rfl

theorem exec_crewPlace_bad {idx b d x cause : ℕ} (hp : s.place = .kernelSide k b d)
    (hk : s.places k = true) (h0 : s.lch k Lch.persistent = 0) (h : s.nextCrewOf k = some (idx, some x))
    (hl : s.saveReach k x .read = .bad cause) : exec .crewPlace s = .next (s.ctxFault (s.kern k).ctx cause) := by
  rw [exec_crewPlace_side hp hk h0, State.placeOn_bad h hl]
  rfl

theorem exec_crewPlace_kernel_bad {cause : ℕ} (hp : s.place = .kernel k) (hk : s.places k = true) (h1 : s.lch k Lch.persistent = 1)
    (hb : s.saveBad k = some cause) : exec .crewPlace s = .next (s.ctxFault (s.kern k).ctx cause) := by
  rw [exec_crewPlace_kernel hp hk h1, hb]

theorem exec_crewPlace_all (hp : s.place = .kernel k) (hk : s.places k = true) (h1 : s.lch k Lch.persistent = 1)
    (hb : s.saveBad k = none) {n : ℕ} {t : State} (hn : n ≤ s.ncrews k) (hplaced : (placeOne k)^[n] (some s) = some t)
    (ht : t.nextCrewOf k = none) : exec .crewPlace s = .next t := by
  rw [exec_crewPlace_kernel hp hk h1, hb, State.placeAll_of_placed hn hplaced ht]
  rfl

theorem exec_crewPlace_stuck (hp : s.place = .kernel k) (hk : s.places k = true) (h1 : s.lch k Lch.persistent = 1)
    (hb : s.saveBad k = none) {n : ℕ} {t : State} (hn : n < s.ncrews k) (hplaced : (placeOne k)^[n] (some s) = some t)
    (ht : t.nextCrewOf k ≠ none) (hstuck : t.placeFirst k (t.planSides k) = none) : exec .crewPlace s = .next s := by
  rw [exec_crewPlace_kernel hp hk h1, hb, State.placeAll_of_stuck hn hplaced ht hstuck]
  rfl

end

/-! ## What a bay keeps for kernels, through the logs

A record of the fault log may need a page copied, and the copy drops TLB entries of the bays; what the bays keep for kernels stays. -/

/-- What each bay keeps for kernels. -/
def State.kernTabs (s : State) (b : ℕ) : Tbl BayKernel := (s.bay b).kerns

section
variable {α : Type} {s t : State}

theorem State.kernTabs_of_bays (h : t.bays = s.bays) : t.kernTabs = s.kernTabs := by
  funext b
  rw [State.kernTabs, State.kernTabs, State.bay, State.bay, h]

theorem State.foldl_kernTabs {f : State → α → State} (hf : ∀ s a, (f s a).kernTabs = s.kernTabs) (as : List α) :
    (as.foldl f s).kernTabs = s.kernTabs := by
  induction as generalizing s with
  | nil => rfl
  | cons a as ih => exact ih.trans (hf s a)

/-- A bay without the TLB entries of a page. -/
def Bay.tlbWithout (ctx va : ℕ) (y : Bay) : Bay :=
  { y with tlb := y.tlb.filter (fun t =>
      !(decide (t.ctx = ctx) && decide (t.va = (if t.big then va / 2 ^ 21 * 2 ^ 21 else va / 2 ^ 16 * 2 ^ 16)))) }

@[simp] theorem State.tlbDrop_kernTabs (ctx va : ℕ) : (s.tlbDrop ctx va).kernTabs = s.kernTabs := by
  funext b
  have h : (s.tlbDrop ctx va).bays.get? b = (s.bays.get? b).map (Bay.tlbWithout ctx va) :=
    Tbl.get?_map (fun _ => Bay.tlbWithout ctx va) s.bays b
  rw [State.kernTabs, State.kernTabs, State.bay, State.bay, Tbl.getD, Tbl.getD, h]
  cases s.bays.get? b <;> rfl

@[simp] theorem State.setRcd_kernTabs (tab : SysTab) (m v : ℕ) : (s.setRcd tab m v).kernTabs = s.kernTabs :=
  State.kernTabs_of_bays rfl

@[simp] theorem State.setFld_kernTabs (tab : SysTab) (m : ℕ) (f : Fld) (v : ℕ) : (s.setFld tab m f v).kernTabs = s.kernTabs :=
  State.kernTabs_of_bays rfl

@[simp] theorem State.post_kernTabs (p : Place) (x : Instr) : (s.post p x).kernTabs = s.kernTabs := rfl

@[simp] theorem State.ctxFault_kernTabs (ctx cause : ℕ) : (s.ctxFault ctx cause).kernTabs = s.kernTabs := rfl

theorem State.sysEffect_bays (tab : SysTab) (m old new cmd : ℕ) : (s.sysEffect tab m old new cmd).bays = s.bays := by
  unfold State.sysEffect
  cases tab <;> dsimp only <;> (repeat' split) <;> rfl

theorem State.sysWrite_bays (fuel pa : ℕ) (bs : List Byte) : (s.sysWrite fuel pa bs).bays = s.bays := by
  induction fuel generalizing s pa bs with
  | zero => rfl
  | succ f ih =>
    cases bs with
    | nil => rfl
    | cons b bs =>
      unfold State.sysWrite
      split
      · exact (ih _ _).trans (State.sysEffect_bays _ _ _ _ _)
      · exact ih _ _

@[simp] theorem State.write_kernTabs (pa : ℕ) (bs : List Byte) : (s.write pa bs).kernTabs = s.kernTabs := by
  unfold State.write
  split
  · exact State.kernTabs_of_bays (State.sysWrite_bays _ _ _)
  · rfl

@[simp] theorem State.writeNum_kernTabs (pa m v : ℕ) : (s.writeNum pa m v).kernTabs = s.kernTabs := State.write_kernTabs _ _

theorem State.supply_kernTabs (ctx k : ℕ) {r : List ℕ × State} (e : s.supply ctx k = .ok r) : r.2.kernTabs = s.kernTabs := by
  -- the search is a variable here, so that no check of the case split runs it
  obtain ⟨look, hl⟩ : ∃ look, look = State.supplyLook := ⟨_, rfl⟩
  rw [State.supply, ← hl] at e
  dsimp only at e
  (repeat' split at e) <;> cases e
  · rfl
  · simp

theorem State.takeSupply_kernTabs {t : State} (ctx k : ℕ) {q : Option (List ℕ)} (e : s.takeSupply ctx k = (q, t)) :
    t.kernTabs = s.kernTabs := by
  unfold State.takeSupply at e
  split at e
  · next hs => cases e; exact State.supply_kernTabs ctx k hs
  · cases e; rfl
  · cases e; rfl

@[simp] theorem State.countDec_kernTabs (ctx pa : ℕ) : (s.countDec ctx pa).kernTabs = s.kernTabs := by
  unfold State.countDec
  dsimp only
  (repeat' split) <;> rfl

@[simp] theorem State.kvCopy_kernTabs (ctx va : ℕ) : (s.kvCopy ctx va).2.kernTabs = s.kernTabs := by
  unfold State.kvCopy
  split
  · rfl
  · dsimp only
    split
    · rfl
    · split
      · next hq => simp [State.takeSupply_kernTabs _ _ hq]
      · next hq => exact State.takeSupply_kernTabs _ _ hq

@[simp] theorem State.snapshotPut_kernTabs (va : ℕ) (as : List (ℕ × ℕ × ℕ)) : (s.snapshotPut va as).kernTabs = s.kernTabs :=
  State.foldl_kernTabs (fun _ _ => State.writeNum_kernTabs _ _ _) as

@[simp] theorem State.ckptCopy_kernTabs (ctx va : ℕ) : (s.ckptCopy ctx va).2.kernTabs = s.kernTabs := by
  unfold State.ckptCopy
  dsimp only
  split
  · rfl
  · split
    · rfl
    · split
      · rfl
      · rfl
      · split
        · next hq => simp [State.foldl_kernTabs, State.takeSupply_kernTabs _ _ hq]
        · next hq => exact State.takeSupply_kernTabs _ _ hq

@[simp] theorem State.makeWritable_kernTabs (ctx va : ℕ) : (s.makeWritable ctx va).kernTabs = s.kernTabs := by
  have hcopy (t : State) (copy : ℕ) : (t.pageCopy ctx va copy).2.kernTabs = t.kernTabs := by
    unfold State.pageCopy
    (repeat' split) <;> simp
  unfold State.makeWritable
  dsimp only
  (repeat' split) <;> simp [hcopy]

theorem State.faultLost_kernTabs (ctx : ℕ) : (s.faultLost ctx).kernTabs = s.kernTabs := State.setFld_kernTabs _ _ _ _

@[simp] theorem State.faultLog_kernTabs (ctx : ℕ) (r : FaultRec) : (s.faultLog ctx r).kernTabs = s.kernTabs := by
  unfold State.faultLog
  dsimp only
  split
  · exact State.faultLost_kernTabs _
  · split
    · exact (State.setFld_kernTabs _ _ _ _).trans ((State.writeNum_kernTabs _ _ _).trans (State.makeWritable_kernTabs _ _))
    · exact (State.faultLost_kernTabs _).trans (State.makeWritable_kernTabs _ _)
    · exact (State.ctxFault_kernTabs _ _).trans ((State.faultLost_kernTabs _).trans (State.makeWritable_kernTabs _ _))

theorem State.faultLog_kernels (ctx : ℕ) (r : FaultRec) : (s.faultLog ctx r).kernels = s.kernels :=
  congrArg (fun p => p.1.kernels) (State.faultLog_aside (s := s) ctx r)

theorem State.faultLog_crews (ctx : ℕ) (r : FaultRec) : (s.faultLog ctx r).crews = s.crews :=
  congrArg (fun p => p.1.crews) (State.faultLog_aside (s := s) ctx r)

theorem KernelsOnly.bays (h : KernelsOnly s t) : t.bays = s.bays := by
  obtain ⟨_, _, rfl⟩ := h
  rfl

/-- A kernel that faults leaves the bays' kernels and the crews as they are. -/
theorem State.faultKernel_spec (k kind bay addr aux : ℕ) : ((s.faultKernel k kind bay addr aux).kern k).state = .faulted ∧
    (s.faultKernel k kind bay addr aux).kernTabs = s.kernTabs ∧ (s.faultKernel k kind bay addr aux).crews = s.crews := by
  unfold State.faultKernel
  split
  · next h => exact ⟨h, rfl, rfl⟩
  · generalize hu : s.faultLog (s.kern k).ctx _ = u
    have htabs : u.kernTabs = s.kernTabs := by rw [← hu, State.faultLog_kernTabs]
    have hcrews : u.crews = s.crews := by rw [← hu, State.faultLog_crews]
    have hset : KernelsOnly u (u.setKState k .faulted) := State.setKState_only u k .faulted
    refine ⟨?_, (State.kernTabs_of_bays ?_).trans htabs, (State.kick_crews (s := u.setKState k .faulted)).trans (hset.crews.trans hcrews)⟩
    · rw [State.kick_kern, State.setKState_state]
    · rw [State.kick_bays, hset.bays]

end

/-! ## The fetch of a segment into a kernel slot (R122 to R124) -/

section
variable {s : State} {k b n va lines : ℕ}

theorem State.codeSlot_of_kernTabs {t : State} (h : t.kernTabs = s.kernTabs) (b k n : ℕ) : t.codeSlot b k n = s.codeSlot b k n := by
  have hb : (t.bay b).kerns = (s.bay b).kerns := congrFun h b
  rw [State.codeSlot, State.codeSlot, hb]

theorem State.codeSlot_setSlot_self (v : CodeSlot) (h : ∃ x, (s.bay b).kerns.get? k = some x) :
    (s.setSlot b k n v).codeSlot b k n = v := by
  obtain ⟨x, hx⟩ := h
  simp [State.codeSlot, State.setSlot, hx, Tbl.getD]

theorem State.codeSlot_setSlot_ne (v : CodeSlot) {m : ℕ} (h : n ≠ m) : (s.setSlot b k n v).codeSlot b k m = s.codeSlot b k m := by
  simp only [State.codeSlot, State.setSlot, State.setBay_bay_self, Tbl.get?_modify_self]
  cases (s.bay b).kerns.get? k with
  | none => rfl
  | some x => simp [Tbl.getD, Tbl.get?_set_ne _ _ h]

theorem coxFills_filling (h : (n, va, lines) ∈ s.coxFills b k) : ∃ x, (s.bay b).kerns.get? k = some x := by
  refine Option.ne_none_iff_exists'.mp fun hnone => ?_
  have hempty (i : ℕ) : s.codeSlot b k i = .empty := by rw [State.codeSlot, hnone]
  obtain ⟨i, -, hi⟩ := List.mem_filterMap.mp h
  rw [hempty i] at hi
  exact nomatch hi

theorem exec_launchSegmentFetched (hp : s.place = .kernelBay k b) (hf : s.coxFills b k = [(n, va, lines)]) :
    exec .launchSegmentFetched s = .next (s.fillSlot b k n va lines) := by
  show execLaunchSegmentFetched s = _
  rw [execLaunchSegmentFetched, hp]
  dsimp only
  rw [hf]
  rfl

theorem launchSegment_found (hp : s.place = .kernelBay k b) (hf : s.coxFills b k = [(n, va, lines)]) {ws : List Word}
    (hws : s.segment (s.kern k).ctx va lines = .ok ws) : Runs .launchSegmentFetched s (fun t => t = { s with bays := t.bays } ∧
      t.codeSlot b k n = .full va lines ws ∧ ∀ m, m ≠ n → t.codeSlot b k m = s.codeSlot b k m) := by
  refine ⟨s.setSlot b k n (.full va lines ws), ?_, rfl, ?_, fun m hm => ?_⟩
  · rw [exec_launchSegmentFetched hp hf, State.fillSlot, hws]
  · exact State.codeSlot_setSlot_self _ (coxFills_filling (by rw [hf]; exact List.mem_cons_self))
  · exact State.codeSlot_setSlot_ne _ hm.symm

theorem launchSegment_malformed (hp : s.place = .kernelBay k b) (hf : s.coxFills b k = [(n, va, lines)]) {aux addr : ℕ}
    (hws : s.segment (s.kern k).ctx va lines = .malformed aux addr) : Runs .launchSegmentFetched s (fun t =>
      t.codeSlot b k n = .empty ∧ (t.kern k).state = .faulted ∧ ((s.kern k).state = .faulted → t = { s with bays := t.bays })) := by
  obtain ⟨hstate, htabs, -⟩ := (s.setSlot b k n .empty).faultKernel_spec k 0x002 b addr aux
  refine ⟨(s.setSlot b k n .empty).faultKernel k 0x002 b addr aux, ?_, ?_, hstate, fun hfaulted => ?_⟩
  · rw [exec_launchSegmentFetched hp hf, State.fillSlot, hws]
  · rw [State.codeSlot_of_kernTabs htabs]
    exact State.codeSlot_setSlot_self _ (coxFills_filling (by rw [hf]; exact List.mem_cons_self))
  · have hkeep : (s.setSlot b k n .empty).faultKernel k 0x002 b addr aux = s.setSlot b k n .empty := if_pos hfaulted
    rw [hkeep]
    rfl

end

/-! ## Crews become resident (R115, R123, R135, R395) -/

section
variable {s : State} {rid : ℕ} {c : Crew}

theorem exec_crewResident (hp : s.place = .crew rid) (hc : s.crews.get? rid = some c) : exec .crewResident s = .next
    (match (s.codeSlot (ridBay rid) c.kernel 0).code? with
    | some (ws, lines) => if s.residable rid c then s.makeResident rid c (4 * (firstFrom ws lines 0).getD 0) else s
    | none => s) := by
  show execCrewResident s = _
  rw [execCrewResident, atCrew, hp]
  dsimp only
  rw [hc] <;> rfl

/-- A crew of a kernel slot 0 that is full, where it has its debug handler's code too if it has one. -/
theorem residable_iff (hl : c.life = .placed) {x : List Word × ℕ} (h0 : (s.codeSlot (ridBay rid) c.kernel 0).code? = some x) :
    s.residable rid c = true ↔ (c.debug = false ∨ (∃ x, (s.codeSlot (ridBay rid) c.kernel 15).code? = some x)) ∧
      (((s.kern c.kernel).keepOf c.idx).savedTrapped = true ∨ (s.side (ridBay rid) (ridSide rid)).pending.length < 24) := by
  simp only [State.residable, hl, h0, decide_true, Option.isSome_some, Bool.true_and, Bool.and_eq_true, Bool.or_eq_true,
    Bool.not_eq_true', decide_eq_true_eq, Option.isSome_iff_exists]
  rfl

/-- A crew that cannot become resident stays where it is. -/
theorem crewResident_stays (hp : s.place = .crew rid) (hc : s.crews.get? rid = some c) (h : ¬s.residable rid c = true) :
    exec .crewResident s = .next s := by
  rw [exec_crewResident hp hc]
  split
  · rw [if_neg h]
  · rfl

theorem crewResident_absent (hp : s.place = .crew rid) (hc : s.crews.get? rid = some c)
    (h : c.life ≠ .placed ∨ (s.codeSlot (ridBay rid) c.kernel 0).code? = none) : exec .crewResident s = .next s := by
  refine crewResident_stays hp hc fun hr => ?_
  simp only [State.residable, Bool.and_eq_true, decide_eq_true_eq] at hr
  obtain ⟨⟨⟨hlife, hfull⟩, -⟩, -⟩ := hr
  rcases h with h | h
  · exact h hlife
  · rw [h] at hfull
    exact nomatch hfull

theorem Bay.setSide_const (y : Bay) (d : ℕ) (f : Side → Side) : y.setSide d f = y.setSide d (fun _ => f (y.side d)) := by
  by_cases h : d = 0 <;> simp [Bay.setSide, Bay.side, h]

/-- A change of one side leaves the bays' other parts. -/
theorem State.setSide_only (s : State) (b d : ℕ) (f : Side → Side) :
    OnlySide s (s.setSide b d f) b d ∧ (s.setSide b d f).side b d = f (s.side b d) := by
  have hside : (s.setSide b d f).side b d = f (s.side b d) := by
    show ((s.setBay b (fun y => y.setSide d f)).bay b).side d = _
    rw [State.setBay_bay_self, Bay.setSide_side_self]
    rfl
  refine ⟨⟨fun b' hb => State.setBay_bay_ne _ _ hb.symm, ?_⟩, hside⟩
  rw [hside]
  show (s.setBay b (fun y => y.setSide d f)).bay b = _
  rw [State.setBay_bay_self]
  exact Bay.setSide_const _ _ _

variable {ws : List Word} {lines : ℕ}

theorem crewResident_pending (hp : s.place = .crew rid) (hc : s.crews.get? rid = some c) (hl : c.life = .placed)
    (h0 : (s.codeSlot (ridBay rid) c.kernel 0).code? = some (ws, lines))
    (h15 : c.debug = false ∨ (∃ x, (s.codeSlot (ridBay rid) c.kernel 15).code? = some x))
    (ht : ((s.kern c.kernel).keepOf c.idx).savedTrapped = false) (hroom : (s.side (ridBay rid) (ridSide rid)).pending.length < 24) :
    Runs .crewResident s (fun t =>
        t = { s with crews := t.crews, bays := t.bays } ∧ OnlySide s t (ridBay rid) (ridSide rid) ∧
        (t.side (ridBay rid) (ridSide rid)).pending = (s.side (ridBay rid) (ridSide rid)).pending ++ [ridSlot rid] ∧
        t.crews.get? rid = some { c with
          life := .pending, fresh := false, pc := if c.fresh then 4 * (firstFrom ws lines 0).getD 0 else c.pc }) := by
  let u := s.setCrew rid (fun y => { y with
    life := .pending, fresh := false, pc := if y.fresh then 4 * (firstFrom ws lines 0).getD 0 else y.pc })
  obtain ⟨honly, hside⟩ := u.setSide_only (ridBay rid) (ridSide rid) (fun x => { x with pending := x.pending ++ [ridSlot rid] })
  refine ⟨u.setSide (ridBay rid) (ridSide rid) (fun x => { x with pending := x.pending ++ [ridSlot rid] }), ?_, rfl, honly, ?_, ?_⟩
  · rw [exec_crewResident hp hc, h0]
    dsimp only
    rw [if_pos ((residable_iff hl h0).mpr ⟨h15, .inr hroom⟩), State.makeResident, ht]
    rfl
  · rw [hside]
    rfl
  · show (Tbl.modify s.crews rid _).get? rid = _
    rw [Tbl.get?_modify_self, hc]
    rfl

theorem crewResident_trapped (hp : s.place = .crew rid) (hc : s.crews.get? rid = some c) (hl : c.life = .placed)
    (h0 : (s.codeSlot (ridBay rid) c.kernel 0).code? = some (ws, lines))
    (h15 : c.debug = false ∨ (∃ x, (s.codeSlot (ridBay rid) c.kernel 15).code? = some x))
    (ht : ((s.kern c.kernel).keepOf c.idx).savedTrapped = true) : Runs .crewResident s (fun t =>
        t = { s with crews := t.crews, kernels := t.kernels } ∧ t.crews.get? rid = some { c with life := .trapped } ∧
        ((t.kern c.kernel).keepOf c.idx).savedTrapped = false) := by
  refine ⟨(s.setCrew rid (fun c => { c with life := .trapped })).setKern c.kernel
    (fun y => y.setKeep c.idx (fun e => { e with savedTrapped := false })), ?_, rfl, ?_, ?_⟩
  · rw [exec_crewResident hp hc, h0]
    dsimp only
    rw [if_pos ((residable_iff hl h0).mpr ⟨h15, .inl ht⟩), State.makeResident, ht]
    rfl
  · show (Tbl.modify s.crews rid _).get? rid = _
    rw [Tbl.get?_modify_self, hc]
    rfl
  · rw [State.setKern_kern_self, Kernel.keepOf, Kernel.setKeep, Tbl.getD, Tbl.get?_set_self]
    rfl

end

end Sys2Proof.Machine

namespace Sys2Proof.Laws

open Machine Claims

/-- Settles O50, from what one placement does (`State.settleOn_spec`), iterated for a persistent kernel, from the frame of the fault log for
a malformed segment, and from the conditions of residence (`residable_iff`). -/
theorem placement : Obligations.Placement := by
  unfold Obligations.Placement
  refine ⟨fun s k hk => ⟨fun b d idx hp h0 hfree => ⟨?_, ?_, ?_, ?_⟩, ?_, ?_, ?_⟩, fun s => ⟨?_, ?_, ?_⟩⟩
  · intro sv blocks map hn hfresh hsaved hno
    exact exec_crewPlace_refuses hp hk h0 hn hfresh hsaved hno
  · intro x cause hn hbad
    exact exec_crewPlace_bad hp hk h0 hn hbad
  · intro hn hc hpref
    obtain ⟨t, hrun, slot, hslot, c, hcrew, hothers, hc, hrest⟩ := exec_crewPlace_starts hp hk h0 hfree hn hc hpref
    obtain ⟨h1, h2, h3, h4, h5, h6, h7, h8, h9, h10, h11, h12, h13⟩ := hc
    exact ⟨t, hrun, slot, hslot, c, hcrew, hothers, h1, h2, h3, h4, h5, h6, h7, h8, h9, h10, h11, h12, h13, hrest⟩
  · intro sv l hn hl hc hf hpref
    obtain ⟨t, hrun, slot, hslot, c, hcrew, hothers, hc, hrest⟩ := exec_crewPlace_resumes hp hk h0 hfree hn hl hc hf hpref
    obtain ⟨h1, h2, h3, h4, h5, h6, h7, h8, h9, h10, h11, h12, h13, h14, h15⟩ := hc
    exact ⟨t, hrun, slot, hslot, c, hcrew, hothers, h1, h2, h3, h4, h5, h6, h7, h8, h9, h10, h11, h12, h13, h14, h15, hrest⟩
  · intro cause hp h1 hbad
    exact exec_crewPlace_kernel_bad hp hk h1 hbad
  · intro hp h1 hb
    exact ⟨fun n t hn hplaced ht => exec_crewPlace_all hp hk h1 hb hn hplaced ht,
      fun n t hn hplaced ht hstuck => exec_crewPlace_stuck hp hk h1 hb hn hplaced ht hstuck⟩
  · intro idx b d hn hm _ hc hpref
    obtain ⟨t, rid, c, hfirst, hnone, hcrew, hc, hnext, hothers⟩ := State.placeFirst_starts hn hm hc hpref
    obtain ⟨hkernel, hidx, hlife, -⟩ := hc
    exact ⟨t, rid, c, hfirst, hnone, hcrew, hkernel, hidx, hlife, hnext, hothers⟩
  · intro k b n va lines hp hf
    exact ⟨fun ws hws => launchSegment_found hp hf hws, fun aux addr hws => launchSegment_malformed hp hf hws⟩
  · intro rid c ws lines hp hc hl h0
    refine ⟨fun ⟨hdebug, h15⟩ => ?_, fun h15 => ⟨fun ht hfull => ?_, fun ht hroom => ?_, fun ht => ?_⟩⟩
    · refine crewResident_stays hp hc fun hr => ?_
      rcases ((residable_iff hl h0).mp hr).1 with h | ⟨x, h⟩
      · exact Bool.false_ne_true (h.symm.trans hdebug)
      · exact nomatch h.symm.trans h15
    · refine crewResident_stays hp hc fun hr => ?_
      rcases ((residable_iff hl h0).mp hr).2 with h | h
      · exact Bool.false_ne_true (ht.symm.trans h)
      · exact absurd hfull (Nat.not_le_of_lt h)
    · exact crewResident_pending hp hc hl h0 h15 ht hroom
    · exact crewResident_trapped hp hc hl h0 h15 ht
  · intro rid c hp hc h
    exact crewResident_absent hp hc h

end Sys2Proof.Laws
end


section
namespace Sys2Proof.Machine

open Claims Laws

/-! ## What the end of a kernel leaves of its generation and its units (R90, R111, R112)

The operations on objects, logs and bays that a retirement does keep every kernel's generation and the units that it holds. -/

/-- The generation of each kernel, and the units that it holds on each die. -/
def State.tenure (s : State) (k : ℕ) : ℕ × ℕ × ℕ := ((s.kern k).gen, (s.kern k).held0, (s.kern k).held1)

section
variable {α : Type} {s t : State}

theorem State.tenure_of_kernels (h : t.kernels = s.kernels) : t.tenure = s.tenure := by
  funext k
  simp only [State.tenure, State.kern, h]

theorem State.kernels_of_aside (h : t.aside = s.aside) : t.kernels = s.kernels := congrArg (fun p => p.1.kernels) h

theorem State.tenure_of_aside (h : t.aside = s.aside) : t.tenure = s.tenure := State.tenure_of_kernels (State.kernels_of_aside h)

theorem State.foldl_tenure {f : State → α → State} (hf : ∀ s a, (f s a).tenure = s.tenure) (as : List α) :
    (as.foldl f s).tenure = s.tenure := by
  induction as generalizing s with
  | nil => rfl
  | cons a as ih => exact ih.trans (hf s a)

theorem State.ite_tenure {p : Prop} [Decidable p] (h : t.tenure = s.tenure) : (if p then t else s).tenure = s.tenure := by
  split
  · exact h
  · rfl

/-! ### Records, kernels and the agenda -/

theorem State.setFld_tenure (tab : SysTab) (m : ℕ) (f : Fld) (v : ℕ) : (s.setFld tab m f v).tenure = s.tenure :=
  State.tenure_of_kernels (State.setFld_kernels ..)

/-- A change of a kernel's other fields. -/
theorem State.setKern_tenure (k : ℕ) {f : Kernel → Kernel}
    (hf : ∀ y, (f y).gen = y.gen ∧ (f y).held0 = y.held0 ∧ (f y).held1 = y.held1 := by exact fun _ => ⟨rfl, rfl, rfl⟩) :
    (s.setKern k f).tenure = s.tenure := by
  funext j
  obtain ⟨hgen, h0, h1⟩ := hf (s.kern k)
  simp only [State.tenure]
  rcases eq_or_ne k j with rfl | hne
  · rw [State.setKern_kern_self, hgen, h0, h1]
  · rw [State.setKern_kern_ne s f hne]

theorem State.setKeep_tenure (k idx : ℕ) (f : Keep → Keep) : (s.setKern k (fun y => y.setKeep idx f)).tenure = s.tenure :=
  State.setKern_tenure k

theorem State.setKState_tenure (k : ℕ) (x : KState) : (s.setKState k x).tenure = s.tenure :=
  calc (s.setKState k x).tenure
    _ = (s.setKern k (fun y => { y with state := x })).tenure := funext fun j => by rw [State.tenure, State.tenure, State.setKState_kern]
    _ = s.tenure := State.setKern_tenure k

theorem State.recount_tenure (q : ℕ) : (s.recount q).tenure = s.tenure := 
  funext fun j => by rw [State.tenure, State.tenure, State.recount_kern]

theorem State.post_tenure (p : Place) (x : Instr) : (s.post p x).tenure = s.tenure := State.tenure_of_kernels rfl

/-! ### Waiters of an object -/

theorem State.enterTrap_kernels (rid : ℕ) (x : Trap) : (s.enterTrap rid x).kernels = s.kernels := by
  have hlog (u : State) (ctx : ℕ) (r : FaultRec) : (u.faultLog ctx r).kernels = u.kernels := State.kernels_of_aside (State.faultLog_aside _ _)
  have hcopy (u : State) (ctx va : ℕ) : (u.makeWritable ctx va).kernels = u.kernels := State.kernels_of_aside (State.makeWritable_aside _ _)
  have hframe (u : State) (rid : ℕ) (c : Crew) (x : Trap) (pa : ℕ) : (u.writeFrame rid c x pa).kernels = u.kernels :=
    State.kernels_of_aside (State.writeFrame_aside _ _ _ _)
  have hdrop (u : State) : (((u.dropLatch rid).dropMmaFlags rid).setCrew rid Crew.captured).kernels = u.kernels := rfl
  have htrapped (u : State) : (u.becomeTrapped rid x.kind).kernels = u.kernels := rfl
  have hwaits (u : State) (ctx cause : ℕ) : ((u.ctxFault ctx cause).setCrew rid (fun c => { c with
    trap := some x, wait := .ctxFault })).kernels = u.kernels := rfl
  unfold State.enterTrap
  split
  · rfl
  · split
    · exact (htrapped _).trans (hlog ..)
    · extract_lets ctx c' u
      have hu : u.kernels = s.kernels := hcopy ..
      split
      · next pa _ =>
        extract_lets v
        have hv : v.kernels = s.kernels := (hdrop _).trans ((hframe ..).trans hu)
        split
        · exact (State.setCrew_kernels ..).trans hv
        · exact (htrapped _).trans ((hlog ..).trans hv)
      · exact (hwaits ..).trans hu
      · exact (hwaits ..).trans hu

theorem State.takeTrap_tenure (rid : ℕ) (x : Trap) : (s.takeTrap rid x).tenure = s.tenure := by
  refine State.tenure_of_kernels ?_
  unfold State.takeTrap
  extract_lets u
  split
  · rfl
  · split
    · exact State.enterTrap_kernels rid x
    · rfl

theorem State.waitEnds_tenure (k idx : ℕ) : (s.waitEnds k idx).tenure = s.tenure := by
  unfold State.waitEnds State.onWindow
  split
  · split
    · rfl
    · exact State.setKeep_tenure ..
  · rfl

theorem State.retest_tenure (pa o rid : ℕ) (c : Crew) : (s.retest pa o rid c).tenure = s.tenure := by
  unfold State.retest
  split
  · split
    · rfl
    · split
      · exact (State.takeTrap_tenure ..).trans (State.waitEnds_tenure ..)
      · split
        · exact State.waitEnds_tenure ..
        · split
          · exact (State.takeTrap_tenure ..).trans (State.waitEnds_tenure ..)
          · rfl
  · rfl

theorem State.judgeDeps_tenure (pa o k : ℕ) : (s.judgeDeps pa o k).tenure = s.tenure := by
  unfold State.judgeDeps
  extract_lets y left judged
  have hjudged : judged.tenure = s.tenure := (State.recount_tenure _).trans (State.setKern_tenure k)
  split
  · rfl
  · split
    · exact (State.post_tenure ..).trans (State.setKern_tenure k)
    · exact (State.ite_tenure (State.post_tenure ..)).trans hjudged

theorem State.touch_tenure (pa : ℕ) : (s.touch pa).tenure = s.tenure :=
  (State.foldl_tenure (fun _ _ => State.judgeDeps_tenure ..) _).trans (State.foldl_tenure (fun _ _ => State.retest_tenure ..) _)

/-! ### Operations on objects -/

theorem State.writeNum_tenure (pa m v : ℕ) : (s.writeNum pa m v).tenure = s.tenure := State.tenure_of_aside (State.writeNum_aside ..)

theorem State.barPerform_tenure (pa : ℕ) (op : BarOp) (e : s.barPerform pa op = .ok t) : t.tenure = s.tenure := by
  unfold State.barPerform at e
  split at e
  · cases e
    exact (State.touch_tenure _).trans (State.writeNum_tenure ..)
  · cases e

theorem State.barWrite_tenure (ctx va pa : ℕ) (op : BarOp) (e : s.barWrite ctx va pa op = .ok t) : t.tenure = s.tenure := by
  unfold State.barWrite at e
  split at e
  · split at e
    · cases e
      rfl
    · cases e
  · exact State.barPerform_tenure pa op e

theorem State.orphan_tenure (r : Regn) : (s.orphan r).tenure = s.tenure := by
  have hnow : (s.orphanNow r.obj).tenure = s.tenure := by
    unfold State.orphanNow
    extract_lets o
    split
    · split
      · rfl
      · exact (State.touch_tenure _).trans (State.writeNum_tenure ..)
    · rfl
  unfold State.orphan
  split
  · rfl
  · exact hnow

theorem State.endRegn_tenure (r : Regn) : (s.endRegn r).tenure = s.tenure := by
  have hended (u : State) : (u.regEnded r).tenure = u.tenure := by
    unfold State.regEnded
    extract_lets o
    split
    · exact State.orphan_tenure r
    · split
      · exact State.ite_tenure (State.orphan_tenure r)
      · exact State.ite_tenure (State.orphan_tenure r)
      · rfl
  unfold State.endRegn
  exact State.ite_tenure ((hended _).trans rfl)

theorem State.endRegns_tenure (rs : List Regn) : (s.endRegns rs).tenure = s.tenure := State.foldl_tenure (fun _ _ => State.endRegn_tenure _) rs

theorem State.raiseBinds_tenure (eng : Bool) (k idx m : ℕ) (binds : List (ℕ × ℕ)) :
    (State.raiseBinds eng k idx m binds s).tenure = s.tenure := by
  induction binds generalizing s with
  | nil => rfl
  | cons p rest ih =>
    unfold State.raiseBinds
    extract_lets last v raised ended
    clear_value last v
    have hraised : raised.tenure = s.tenure := by
      unfold raised
      split
      · split
        · next e => exact State.barWrite_tenure _ _ _ _ e
        · rfl
      · rfl
    have hended : ended.tenure = raised.tenure := by
      unfold ended
      split
      · exact State.ite_tenure (State.foldl_tenure (fun _ _ => State.endRegn_tenure _) _)
      · rfl
    exact (ih (s := ended)).trans (hended.trans hraised)

theorem State.writeStamps_tenure (k idx : ℕ) : (s.writeStamps k idx).tenure = s.tenure := by
  unfold State.writeStamps
  extract_lets done
  split
  · rfl
  · exact (State.setKeep_tenure ..).trans (State.foldl_tenure (fun _ _ => State.tenure_of_aside (State.stampLog_aside ..)) _)

theorem State.settleKeeps_tenure (k : ℕ) : (s.settleKeeps k).tenure = s.tenure := by
  have hadvance (u : State) (eng : Bool) (idx : ℕ) : (u.advance eng k idx).tenure = u.tenure :=
    (State.setKeep_tenure ..).trans (State.raiseBinds_tenure ..)
  refine State.foldl_tenure (fun u p => ?_) _
  exact (State.writeStamps_tenure ..).trans ((hadvance ..).trans (hadvance ..))

/-! ### Bays and messages -/

theorem State.returnUnits_tenure (d m : ℕ) : (s.returnUnits d m).tenure = s.tenure := State.setFld_tenure ..

theorem State.dropRaises_tenure (k : ℕ) : (s.dropRaises k).tenure = s.tenure := by
  unfold State.dropRaises
  refine (State.foldl_tenure (fun u a => ?_) _).trans (State.tenure_of_kernels rfl)
  exact State.ite_tenure (State.returnUnits_tenure ..)

theorem State.leaveBay_tenure (b k : ℕ) : (s.leaveBay b k).tenure = s.tenure := State.tenure_of_kernels rfl

theorem State.leaveBays_tenure (k : ℕ) : (s.leaveBays k).tenure = s.tenure :=
  calc (s.leaveBays k).tenure
    _ = (((s.dropRaises k).bays.filter (fun p => (p.2.kerns.get? k).isSome)).foldl (fun s p => s.leaveBay p.1 k)
          (s.dropRaises k)).tenure := State.tenure_of_kernels rfl
    _ = (s.dropRaises k).tenure := State.foldl_tenure (fun _ _ => State.leaveBay_tenure ..) _
    _ = s.tenure := State.dropRaises_tenure k

theorem State.complete_tenure (ctx echo kind status handle value value2 : ℕ) :
    (s.complete ctx echo kind status handle value value2).tenure = s.tenure := by
  unfold State.complete State.sendOrWait
  split <;> rfl

theorem State.sendStops_tenure : s.sendStops.tenure = s.tenure := by
  unfold State.sendStops
  refine State.foldl_tenure (fun u k => ?_) _
  split
  · rfl
  · exact (State.post_tenure ..).trans (State.setKern_tenure k)

/-! ### Retirement -/

/-- A kernel that retires keeps its generation, and its units have gone back. -/
theorem State.retire_tenure (s : State) (k cause : ℕ) : (s.retire k cause).tenure k = ((s.kern k).gen, 0, 0) := by
  unfold State.retire
  extract_lets y q left told regns posted done dl late sent retired h woken
  have hleft : left.tenure k = ((s.kern k).gen, 0, 0) := by
    have hgen : (((s.settleKeeps k).withdraw k).kern k).gen = (s.kern k).gen := by
      rw [State.withdraw_kern, if_pos rfl]
      have hunchosen (z : Kernel) : z.unchosen.gen = z.gen := by
        unfold Kernel.unchosen
        split <;> rfl
      rw [hunchosen]
      exact congrArg Prod.fst (congrFun (s.settleKeeps_tenure k) k)
    rw [show left.tenure = _ from State.leaveBays_tenure k, State.tenure, State.releaseUnits_kern, if_pos rfl, hgen]
  have hregns : regns.tenure = left.tenure := (State.endRegns_tenure _).trans rfl
  have hdone : done.tenure = regns.tenure := (State.setFld_tenure ..).trans (State.setFld_tenure ..)
  have hlate : late.tenure = done.tenure := State.ite_tenure (State.setFld_tenure ..)
  have hsent : sent.tenure = late.tenure := State.ite_tenure (State.complete_tenure ..)
  have hretired : retired.tenure = sent.tenure := (State.setKState_tenure ..).trans (State.setKern_tenure k)
  have hwoken : woken.tenure = retired.tenure := by
    refine State.foldl_tenure (fun u p => ?_) _
    split <;> rfl
  have hall : woken.sendStops.kick.tenure = left.tenure :=
    State.sendStops_tenure.trans (hwoken.trans (hretired.trans (hsent.trans (hlate.trans (hdone.trans hregns)))))
  rw [hall, hleft]

theorem State.retire_kern (s : State) (k cause : ℕ) : ((s.retire k cause).kern k).state = .retired ∧ ((s.retire k cause).kern k).cause = cause := by
  obtain ⟨u, -, hu⟩ := s.retire_works k cause
  have hk := congrFun (congrArg Prod.snd hu) k
  have hkern : ((u.setKern k (Kernel.over cause)).setKState k .retired).kern k = { Kernel.over cause (u.kern k) with state := .retired } := by
    rw [State.setKState_kern, State.setKern_kern_self, State.setKern_kern_self]
  simp only [State.outline, hkern] at hk
  exact ⟨congrArg Prod.fst hk, congrArg (fun p => p.2.1) hk⟩

end

section
variable {s : State} {k : ℕ}

theorem exec_kernelRetire (hp : s.place = .kernel k) : exec .kernelRetire s = .next (s.tryRetire k) := exec_at_kernel hp rfl

theorem kernelRetire_stays (hp : s.place = .kernel k) (h : s.workDone k = false ∨ (s.kern k).state = .retired) :
    exec .kernelRetire s = .next s := by
  have hnone : s.retireCause k = none := by
    unfold State.retireCause
    refine if_pos ?_
    rcases h with h | h
    · simp [h]
    · simp [h]
  rw [exec_kernelRetire hp, State.tryRetire, hnone]

theorem kernelRetire_retires (hp : s.place = .kernel k) {cause : ℕ} (hs : (s.kern k).state ≠ .retired) (hw : s.workDone k = true)
    (h : (s.kern k).ending = some cause ∧ (s.kern k).killLater = false ∨
      (s.kern k).ending = none ∧ s.ncrews k ≤ (s.kern k).nextCrew ∧ s.ncrews k ≤ (s.kern k).exited ∧
        ((s.kern k).state = .running ∧ cause = 0 ∨ (s.kern k).state = .trapped ∧ cause = 3)) :
    Runs .kernelRetire s (fun t => (t.kern k).state = .retired ∧ (t.kern k).cause = cause ∧ (t.kern k).gen = (s.kern k).gen ∧
        (t.kern k).held0 = 0 ∧ (t.kern k).held1 = 0) := by
  have hcause : s.retireCause k = some cause := by
    unfold State.retireCause
    dsimp only
    rw [if_neg (by simp [hw, hs])]
    rcases h with ⟨he, hl⟩ | ⟨he, hn, hx, ⟨hst, rfl⟩ | ⟨hst, rfl⟩⟩
    · rw [he, hl]
      rfl
    · rw [he, hst]
      simp [hn, hx]
    · rw [he, hst]
      simp [hn, hx]
  obtain ⟨hstate, hend⟩ := s.retire_kern k cause
  have htenure := s.retire_tenure k cause
  refine ⟨s.retire k cause, ?_, hstate, hend, congrArg Prod.fst htenure, congrArg (fun p => p.2.1) htenure,
    congrArg (fun p => p.2.2) htenure⟩
  rw [exec_kernelRetire hp, State.tryRetire, hcause]

end

/-! ## From admission to placing (R110, R138) -/

section
variable {s : State} {k : ℕ}

theorem exec_kernelPlacing (hp : s.place = .kernel k) (hs : (s.kern k).state = .admitted) (he : (s.kern k).ending = none) :
    exec .kernelPlacing s = .next (match s.bentTable k with
      | .ok (some l) =>
        let t := (s.setKern k (fun y => { y with bents := l })).setKState k .placing
        if t.ncrews k ≤ (t.kern k).exited then ((t.setKState k .running).post (.kernel k) .kernelRetire).kick else t
      | .ok none => s.faultKernel k 0x001 0 0 0
      | .unreadable => s.faultKernel k 0x001 0 0 0
      | .bad cause => (s.ctxFault (s.kern k).ctx cause).kick) := by
  refine (exec_at_kernel hp rfl).trans ?_
  rw [if_neg (by simp [hs, he])] <;> rfl

theorem kernelPlacing_stays (hp : s.place = .kernel k) (h : (s.kern k).state ≠ .admitted ∨ (s.kern k).ending ≠ none) :
    exec .kernelPlacing s = .next s := by
  refine (exec_at_kernel hp rfl).trans ?_
  rw [if_pos (h.imp_right Option.isSome_iff_ne_none.mpr)]

theorem kernelPlacing_reads (hp : s.place = .kernel k) (hs : (s.kern k).state = .admitted) (he : (s.kern k).ending = none) {l : List Bent}
    (hl : s.bentTable k = .ok (some l)) (hx : (s.kern k).exited < s.ncrews k) : Runs .kernelPlacing s (fun t =>
      t = { s with kernels := t.kernels, sys := t.sys } ∧ t.kern k = { s.kern k with bents := l, state := .placing } ∧
      ∀ j, j ≠ k → t.kern j = s.kern j) := by
  let t := (s.setKern k (fun y => { y with bents := l })).setKState k .placing
  have hkern : t.kern k = { s.kern k with bents := l, state := .placing } := by
    rw [State.setKState_kern, State.setKern_kern_self, State.setKern_kern_self]
  have hcrews : ¬t.ncrews k ≤ (t.kern k).exited := by
    rw [State.ncrews, State.lch, hkern]
    exact Nat.not_le_of_lt hx
  refine ⟨t, ?_, ((s.setKern_only k _).trans (State.setKState_only _ k _)).eq, hkern, fun j hj => ?_⟩
  · rw [exec_kernelPlacing hp hs he, hl]
    exact congrArg Host.Outcome.next (if_neg hcrews)
  · rw [State.setKState_kern, State.setKern_kern_ne _ _ hj.symm, State.setKern_kern_ne _ _ hj.symm]

theorem kernelPlacing_malformed (hp : s.place = .kernel k) (hs : (s.kern k).state = .admitted) (he : (s.kern k).ending = none)
    (hl : s.bentTable k = .ok none) : Runs .kernelPlacing s (fun t => (t.kern k).state = .faulted ∧ t.crews = s.crews) := by
  obtain ⟨hstate, -, hcrews⟩ := s.faultKernel_spec k 0x001 0 0 0
  exact ⟨_, by rw [exec_kernelPlacing hp hs he, hl], hstate, hcrews⟩

/-! ## The cut of a stopping kernel is complete (R110, R112, R117) -/

theorem State.leaveBays_kernTabs (s : State) (k b : ℕ) : ((s.leaveBays k).kernTabs b).get? k = none := by
  unfold State.leaveBays
  extract_lets dropped left
  have h : Tbl.get? (left.bays.map (fun p => (p.1, { p.2 with kerns := p.2.kerns.erase k }))) b =
      (left.bays.get? b).map (fun y => { y with kerns := y.kerns.erase k }) :=
    Tbl.get?_map (fun _ (y : Bay) => { y with kerns := y.kerns.erase k }) left.bays b
  rw [State.kernTabs, State.bay, Tbl.getD]
  dsimp only
  rw [h]
  cases left.bays.get? b with
  | none => rfl
  | some y => exact Tbl.get?_erase_self _ _

theorem State.foldl_crews {α : Type} {f : State → α → State} (hf : ∀ s a, (f s a).crews = s.crews) (as : List α) (s : State) :
    (as.foldl f s).crews = s.crews := by
  induction as generalizing s with
  | nil => rfl
  | cons a as ih => exact (ih _).trans (hf s a)

theorem State.returnUnits_crews (s : State) (d m : ℕ) : (s.returnUnits d m).crews = s.crews := State.setFld_crews ..

theorem State.leaveBay_crews (s : State) (b k : ℕ) : (s.leaveBay b k).crews = s.crews := rfl

theorem State.leaveBays_crews (s : State) (k : ℕ) : (s.leaveBays k).crews = s.crews := by
  have hdropped : (s.dropRaises k).crews = s.crews := by
    unfold State.dropRaises
    refine (State.foldl_crews (fun u a => ?_) _ _).trans rfl
    split
    · exact State.returnUnits_crews ..
    · rfl
  exact (State.foldl_crews (fun u (p : ℕ × Bay) => u.leaveBay_crews p.1 k) _ (s.dropRaises k)).trans hdropped

theorem State.releaseUnits_crews (s : State) (k : ℕ) : (s.releaseUnits k).crews = s.crews := by
  unfold State.releaseUnits
  exact (State.setKern_crews ..).trans ((State.returnUnits_crews ..).trans (State.returnUnits_crews ..))

theorem State.sendStops_only (s : State) : s.sendStops.crews = s.crews ∧ s.sendStops.bays = s.bays := by
  unfold State.sendStops
  generalize s.stoppings = l
  suffices h : ∀ (ks : List ℕ) (t : State), (ks.foldl (fun t k =>
      if (s.kern k).messaged || l.any (s.stopsAfter k) then t
      else (t.setKern k (fun y => { y with messaged := true })).post (.kernel k) .kernelStopMessage) t).crews = t.crews ∧
      (ks.foldl (fun t k =>
      if (s.kern k).messaged || l.any (s.stopsAfter k) then t
      else (t.setKern k (fun y => { y with messaged := true })).post (.kernel k) .kernelStopMessage) t).bays = t.bays from h l s
  intro ks
  induction ks with
  | nil => exact fun _ => ⟨rfl, rfl⟩
  | cons j ks ih =>
    intro t
    obtain ⟨hc, hb⟩ := ih (if (s.kern j).messaged || l.any (s.stopsAfter j) then t
      else (t.setKern j (fun y => { y with messaged := true })).post (.kernel j) .kernelStopMessage)
    refine ⟨hc.trans ?_, hb.trans ?_⟩ <;> split <;> rfl

theorem State.judgeFit_kernTabs (s : State) (k : ℕ) : (s.judgeFit k).kernTabs = s.kernTabs := by
  unfold State.judgeFit
  extract_lets y unfit
  have hunfit : unfit.kernTabs = s.kernTabs := State.kernTabs_of_bays rfl
  split
  · rfl
  · split
    · exact State.kernTabs_of_bays rfl
    · split
      · exact hunfit
      · exact (State.kernTabs_of_bays (State.setKern_bays ..)).trans ((State.faultLog_kernTabs ..).trans hunfit)

theorem State.judgeFit_tenure (s : State) (k : ℕ) : (s.judgeFit k).tenure = s.tenure := by
  unfold State.judgeFit
  extract_lets y unfit
  have hunfit : unfit.tenure = s.tenure := State.setKern_tenure k
  split
  · rfl
  · split
    · exact State.setKern_tenure k
    · split
      · exact hunfit
      · exact (State.setKern_tenure k).trans ((State.tenure_of_aside (State.faultLog_aside ..)).trans hunfit)

theorem State.readyKernel_kernTabs (s : State) (k : ℕ) : (s.readyKernel k).kernTabs = s.kernTabs := by
  rw [State.readyKernel_eq]
  exact (State.kernTabs_of_bays (State.kick_bays ..)).trans ((State.judgeFit_kernTabs _ k).trans
    (State.kernTabs_of_bays (s.madeReady_only k).bays))

theorem State.readyKernel_tenure (s : State) (k : ℕ) : (s.readyKernel k).tenure = s.tenure := by
  rw [State.readyKernel_eq]
  exact (State.tenure_of_kernels (State.kick_kernels ..)).trans ((State.judgeFit_tenure _ k).trans
    ((State.setKState_tenure k .ready).trans (State.setKern_tenure k)))

/-- A kernel has left its bays with no units. -/
def State.cut (s : State) (k : ℕ) : State := ((s.releaseUnits k).leaveBays k).setKern k (fun y => { y with stop := none, messaged := false })

theorem State.cut_tenure (s : State) (k : ℕ) : (s.cut k).tenure k = ((s.kern k).gen, 0, 0) := by
  have h : (s.cut k).tenure = (s.releaseUnits k).tenure := (State.setKern_tenure k).trans (State.leaveBays_tenure k)
  rw [h, State.tenure, State.releaseUnits_kern, if_pos rfl]

theorem State.cut_crews (s : State) (k : ℕ) : (s.cut k).crews = s.crews :=
  (State.setKern_crews ..).trans ((State.leaveBays_crews _ k).trans (s.releaseUnits_crews k))

theorem State.cut_kernTabs (s : State) (k b : ℕ) : ((s.cut k).kernTabs b).get? k = none := by
  have h : (s.cut k).kernTabs = ((s.releaseUnits k).leaveBays k).kernTabs := State.kernTabs_of_bays (State.setKern_bays ..)
  rw [h]
  exact State.leaveBays_kernTabs _ k b

/-- The state of a kernel after its cut. -/
def State.afterCut (s : State) (k : ℕ) : State :=
  if (s.kern k).stop = some .kstop then (s.cut k).setKState k .stopped else (s.cut k).readyKernel k

theorem State.afterCut_spec (s : State) (k : ℕ) :
    ((s.afterCut k).kern k).state = (if (s.kern k).stop = some .kstop then .stopped else .ready) ∧
      (s.afterCut k).tenure = (s.cut k).tenure ∧ (s.afterCut k).kernTabs = (s.cut k).kernTabs ∧ (s.afterCut k).crews = s.crews := by
  unfold State.afterCut
  split
  · have honly := (s.cut k).setKState_only k .stopped
    exact ⟨State.setKState_state .., State.setKState_tenure .., State.kernTabs_of_bays honly.bays, honly.crews.trans (s.cut_crews k)⟩
  · exact ⟨State.readyKernel_state .., State.readyKernel_tenure .., State.readyKernel_kernTabs ..,
      (State.readyKernel_crews ..).trans (s.cut_crews k)⟩

theorem stopCutComplete_stays (hp : s.place = .kernel k) (h : s.cutDone k = false) : exec .stopCutComplete s = .next s := by
  refine (exec_at_kernel hp rfl).trans ?_
  rw [if_neg (by simp [h])]

theorem stopCutComplete_cuts (hp : s.place = .kernel k) (h : s.cutDone k = true) : Runs .stopCutComplete s (fun t =>
      (t.kern k).state = (if (s.kern k).stop = some .kstop then .stopped else .ready) ∧ (t.kern k).held0 = 0 ∧ (t.kern k).held1 = 0 ∧
      t.crews = s.crews ∧ ∀ b, (t.bay b).kerns.get? k = none) := by
  obtain ⟨hstate, htenure, htabs, hcrews⟩ := s.afterCut_spec k
  obtain ⟨hcrews', hbays'⟩ := (s.afterCut k).sendStops_only
  have hten : (s.afterCut k).sendStops.kick.tenure k = ((s.kern k).gen, 0, 0) := by
    rw [State.tenure_of_kernels (State.kick_kernels ..), State.sendStops_tenure, htenure, State.cut_tenure]
  have htab (b : ℕ) : ((s.afterCut k).sendStops.kick.kernTabs b).get? k = none := by
    rw [State.kernTabs_of_bays (State.kick_bays ..), State.kernTabs_of_bays hbays', htabs]
    exact s.cut_kernTabs k b
  refine ⟨(s.afterCut k).sendStops.kick, ?_, ?_, congrArg (fun p => p.2.1) hten, congrArg (fun p => p.2.2) hten, ?_, htab⟩
  · refine (exec_at_kernel hp rfl).trans ?_
    rw [if_pos h]
    rfl
  · rw [State.kern_state_of_outline (State.kick_outline.trans State.sendStops_outline), hstate]
  · rw [State.kick_crews, hcrews', hcrews]

end

/-! ## The stop message (R117, R118) -/

/-- Every crew in its place is still there, as a relation says. -/
def Crewwise (R : Crew → Crew → Prop) (s t : State) : Prop := ∀ r c, s.crews.get? r = some c → ∃ d, t.crews.get? r = some d ∧ R c d

/-- A crew is its kernel's as before, and one that is stopping goes on stopping. -/
def Crew.Heeds (c d : Crew) : Prop := d.kernel = c.kernel ∧ (c.stopping = true → d.stopping = true)

/-- Nor has its MMA, its progress or a flag of it changed. -/
def Crew.Rests (c d : Crew) : Prop := c.Heeds d ∧ d.progress = c.progress ∧ d.mmaRun = c.mmaRun ∧ d.flags = c.flags

theorem Crew.Heeds.refl (c : Crew) : c.Heeds c := ⟨rfl, id⟩

theorem Crew.Heeds.trans {c d e : Crew} (h : c.Heeds d) (g : d.Heeds e) : c.Heeds e := ⟨g.1.trans h.1, fun x => g.2 (h.2 x)⟩

theorem Crew.Rests.refl (c : Crew) : c.Rests c := ⟨.refl c, rfl, rfl, rfl⟩

theorem Crew.Rests.trans {c d e : Crew} (h : c.Rests d) (g : d.Rests e) : c.Rests e := by
  obtain ⟨hh, hp, hm, hf⟩ := h
  obtain ⟨gh, gp, gm, gf⟩ := g
  exact ⟨hh.trans gh, gp.trans hp, gm.trans hm, gf.trans hf⟩

section
variable {R : Crew → Crew → Prop} {s t u : State}

theorem Crewwise.of_crews (hr : ∀ c, R c c) (h : t.crews = s.crews) : Crewwise R s t := fun _ c hc => ⟨c, by rw [h, hc], hr c⟩

theorem Crewwise.trans (ht : ∀ {c d e}, R c d → R d e → R c e) (h : Crewwise R s t) (g : Crewwise R t u) : Crewwise R s u :=
  fun r c hc => by
    obtain ⟨d, hd, hcd⟩ := h r c hc
    obtain ⟨e, he, hde⟩ := g r d hd
    exact ⟨e, he, ht hcd hde⟩

theorem Crewwise.foldl {α : Type} {f : State → α → State} (hr : ∀ c, R c c) (ht : ∀ {c d e}, R c d → R d e → R c e)
    (hf : ∀ s a, Crewwise R s (f s a)) (as : List α) (s : State) : Crewwise R s (as.foldl f s) := by
  induction as generalizing s with
  | nil => exact .of_crews hr rfl
  | cons a as ih => exact (hf s a).trans ht (ih _)

theorem Crewwise.mono {Q : Crew → Crew → Prop} (h : Crewwise R s t) (hq : ∀ {c d}, R c d → Q c d) : Crewwise Q s t := fun r c hc => by
  obtain ⟨d, hd, hcd⟩ := h r c hc
  exact ⟨d, hd, hq hcd⟩

theorem State.setCrew_get?_self (s : State) (rid : ℕ) (f : Crew → Crew) : (s.setCrew rid f).crews.get? rid = (s.crews.get? rid).map f :=
  Tbl.get?_modify_self _ _ _

theorem State.setCrew_get?_ne (s : State) {rid r : ℕ} (f : Crew → Crew) (h : r ≠ rid) : (s.setCrew rid f).crews.get? r = s.crews.get? r :=
  Tbl.get?_modify_ne _ _ h.symm

theorem State.setCrew_crewwise (hr : ∀ c, R c c) (s : State) (rid : ℕ) {f : Crew → Crew}
    (hf : ∀ c, s.crews.get? rid = some c → R c (f c)) : Crewwise R s (s.setCrew rid f) := fun r c hc => by
  rcases eq_or_ne r rid with rfl | hne
  · exact ⟨f c, by rw [State.setCrew_get?_self, hc]; rfl, hf c hc⟩
  · exact ⟨c, by rw [State.setCrew_get?_ne _ _ hne, hc], hr c⟩

end

section
variable {s : State} {k rid : ℕ}

theorem Crew.clearFlag_heeds (c : Crew) (f : Option (Fin 12)) : c.Heeds (c.clearFlag f) := by
  unfold Crew.clearFlag
  split <;> exact ⟨rfl, id⟩

theorem Crew.foldl_clearFlag_heeds (ps : List Pend) (c : Crew) : c.Heeds (ps.foldl (fun c q => c.clearFlag q.flag) c) := by
  induction ps generalizing c with
  | nil => exact .refl c
  | cons p ps ih => exact (c.clearFlag_heeds p.flag).trans (ih _)

theorem State.squashFrom_heeds (s : State) (rid i : ℕ) : Crewwise Crew.Heeds s (s.squashFrom rid i) := by
  unfold State.squashFrom
  split
  · exact .of_crews .refl rfl
  · next c hc =>
    split
    · exact .of_crews .refl rfl
    · extract_lets gone lost p c' c''
      refine (s.setCrew_crewwise .refl rid (f := fun _ => c'') fun d hd => ?_).trans .trans (.of_crews .refl rfl)
      obtain rfl := Option.some.inj (hc.symm.trans hd)
      exact Crew.foldl_clearFlag_heeds gone c'

/-- The MMA of a crew, its run taken from the crew, after so many of its blocks. -/
def Crew.mmaCut (r : MmaRun) (n : ℕ) (back : Bool) (job : MmaJob) (c : Crew) : Crew :=
  let c := { c.clearFlag r.job.flag with progress := n, resumed := none, mmaRun := none }
  if back then { c with pc := r.pc, restAt := some (r.slot, r.pc) } else { c with mma := some job, restAt := none }

theorem Crew.mmaCut_spec (r : MmaRun) (n : ℕ) (back : Bool) (job : MmaJob) (c : Crew) : c.Heeds (c.mmaCut r n back job) ∧
    (c.mmaCut r n back job).progress = n ∧ (c.mmaCut r n back job).mmaRun = none ∧
      (c.mmaCut r n back job).flags = (c.clearFlag r.job.flag).flags := by
  have h := c.clearFlag_heeds r.job.flag
  unfold Crew.mmaCut
  cases back <;> exact ⟨h, rfl, rfl, rfl⟩

/-- The stop of an MMA that has blocks left. -/
theorem State.stopMma_eq {c : Crew} {r : MmaRun} (hc : s.crews.get? rid = some c) (hr : c.mmaRun = some r) (hn : r.blocksBy s.clock < 16) :
    ∃ fs back job, s.stopMma rid = { s with
        reds := s.reds.filter (fun x => !(decide (x.mma = some r.id) && decide (r.blocksBy s.clock ≤ x.block)))
        mmaFlags := fs
        crews := s.crews.modify rid (Crew.mmaCut r (r.blocksBy s.clock) back job) } := by
  unfold State.stopMma
  rw [hc]
  dsimp only
  rw [hr]
  dsimp only
  rw [if_pos hn]
  exact ⟨_, _, _, rfl⟩

theorem State.stopMma_heeds (s : State) (rid : ℕ) : Crewwise Crew.Heeds s (s.stopMma rid) := by
  rcases hc : s.crews.get? rid with _ | c
  · exact .of_crews .refl (by rw [State.stopMma, hc])
  · rcases hr : c.mmaRun with _ | r
    · exact .of_crews .refl (by rw [State.stopMma, hc]; dsimp only; rw [hr])
    · by_cases hn : r.blocksBy s.clock < 16
      · obtain ⟨fs, back, job, h⟩ := State.stopMma_eq hc hr hn
        rw [h]
        exact s.setCrew_crewwise .refl rid fun c _ => (c.mmaCut_spec r _ back job).1
      · have h : s.stopMma rid = s.setCrew rid (fun c => { c with mmaRun := none }) := by
          rw [State.stopMma, hc]
          dsimp only
          rw [hr]
          exact if_neg hn
        rw [h]
        exact s.setCrew_crewwise .refl rid fun c _ => ⟨rfl, id⟩

theorem State.waitEnds_crews (s : State) (k idx : ℕ) : (s.waitEnds k idx).crews = s.crews := by
  unfold State.waitEnds State.onWindow
  (repeat' split) <;> rfl

theorem State.redsChanged_rests (s : State) : Crewwise Crew.Rests s s.redsChanged := by
  unfold State.redsChanged
  refine (Crewwise.of_crews .refl (t := s.sweepStash) rfl).trans .trans (.foldl .refl .trans (fun t p => ?_) _ _)
  split
  · exact t.setCrew_crewwise .refl _ fun _ _ => ⟨⟨rfl, id⟩, rfl, rfl, rfl⟩
  · split
    · exact t.setCrew_crewwise .refl _ fun _ _ => ⟨⟨rfl, id⟩, rfl, rfl, rfl⟩
    · exact .of_crews .refl rfl
  · exact .of_crews .refl rfl

/-- What a stop does after a crew's strokes are squashed and its MMA has stopped: its waits are abandoned and its commands paused. -/
def State.abandons (s : State) (rid : ℕ) (c : Crew) : State :=
  let s := match c.wait with | .barrier .. => s.waitEnds c.kernel c.idx | _ => s
  let s := (s.cmds.filter (fun m => decide (m.k = c.kernel) && decide (m.crew = c.idx) && m.kind.moves)).foldl
    (fun s m => (s.fqAbandon (.cmd m.id)).mapCmd m.id Cmd.paused) s
  s.fqAbandon (.crew rid)

/-- A crew that has received the stop message. -/
def Crew.stopped (c : Crew) : Crew :=
  { c with stopping := true, trap := none, fault := none, mma := c.leftMma, drain := none, heldReady := c.heldReady && !c.strokes.isEmpty,
           granted := c.granted && !c.strokes.isEmpty, burst := false, gateSince := c.gateSince,
           wait := if c.wait.stays then c.wait else .none }

/-- What a stop leaves of the strokes of a crew. -/
def State.stopStrokes (s : State) (rid : ℕ) (c : Crew) : State :=
  let whole := (s.suspending.get? (c.ctx s)).isSome || (s.kern c.kernel).barred || (s.kern c.kernel).parted
  match c.strokes.findIdx? (fun st => (st.closed.isNone || whole) && (!st.held || decide (c.wait = .ctxFault))) with
  | some i => s.squashFrom rid i
  | none => s

theorem State.stopCrew_eq {c : Crew} (hc : s.crews.get? rid = some c) : s.stopCrew rid =
    ((((s.stopStrokes rid c).stopMma rid).abandons rid c).setCrew rid Crew.stopped).redsChanged := by
  rw [State.stopCrew, hc]
  rfl

theorem State.stopStrokes_heeds (s : State) (rid : ℕ) (c : Crew) : Crewwise Crew.Heeds s (s.stopStrokes rid c) := by
  unfold State.stopStrokes
  extract_lets whole
  split
  · exact s.squashFrom_heeds rid _
  · exact .of_crews .refl rfl

theorem State.abandons_frame (s : State) (rid : ℕ) (c : Crew) : (s.abandons rid c).crews = s.crews ∧ (s.abandons rid c).reds = s.reds := by
  unfold State.abandons
  extract_lets waited paused
  have hwaited : waited.crews = s.crews ∧ waited.reds = s.reds := by
    unfold waited
    split
    · refine ⟨s.waitEnds_crews _ _, ?_⟩
      unfold State.waitEnds State.onWindow
      (repeat' split) <;> rfl
    · exact ⟨rfl, rfl⟩
  have hpaused (l : List Cmd) (t : State) : (l.foldl (fun s m => (s.fqAbandon (.cmd m.id)).mapCmd m.id Cmd.paused) t).crews = t.crews ∧
      (l.foldl (fun s m => (s.fqAbandon (.cmd m.id)).mapCmd m.id Cmd.paused) t).reds = t.reds := by
    induction l generalizing t with
    | nil => exact ⟨rfl, rfl⟩
    | cons m l ih =>
      obtain ⟨h1, h2⟩ := ih ((t.fqAbandon (.cmd m.id)).mapCmd m.id Cmd.paused)
      exact ⟨h1.trans rfl, h2.trans rfl⟩
  obtain ⟨h1, h2⟩ := hpaused (waited.cmds.filter (fun m => decide (m.k = c.kernel) && decide (m.crew = c.idx) && m.kind.moves)) waited
  exact ⟨h1.trans hwaited.1, h2.trans hwaited.2⟩

theorem State.stopCrew_heeds (s : State) (rid : ℕ) : Crewwise Crew.Heeds s (s.stopCrew rid) := by
  rcases hc : s.crews.get? rid with _ | c
  · exact .of_crews .refl (by rw [State.stopCrew, hc])
  · rw [State.stopCrew_eq hc]
    have h1 := (s.stopStrokes_heeds rid c).trans .trans (State.stopMma_heeds _ rid)
    have h2 := h1.trans .trans (.of_crews .refl (State.abandons_frame _ rid c).1)
    have h3 := h2.trans .trans (State.setCrew_crewwise .refl _ rid (f := Crew.stopped) fun _ _ => ⟨rfl, fun _ => rfl⟩)
    exact h3.trans .trans ((State.redsChanged_rests _).mono And.left)

/-- The crew that receives the stop message is stopping. -/
theorem State.stopCrew_stops {c : Crew} (hc : s.crews.get? rid = some c) : ∃ d, (s.stopCrew rid).crews.get? rid = some d ∧
    d.kernel = c.kernel ∧ d.stopping = true := by
  rw [State.stopCrew_eq hc]
  obtain ⟨d, hd, hk, -⟩ := ((s.stopStrokes_heeds rid c).trans .trans (State.stopMma_heeds _ rid)).trans .trans
    (.of_crews .refl (State.abandons_frame _ rid c).1) rid c hc
  have hset : ((((s.stopStrokes rid c).stopMma rid).abandons rid c).setCrew rid Crew.stopped).crews.get? rid = some d.stopped := by
    rw [State.setCrew_get?_self, hd]
    rfl
  obtain ⟨e, he, ⟨hk', hs'⟩, -⟩ := State.redsChanged_rests _ rid _ hset
  exact ⟨e, he, hk'.trans hk, hs' rfl⟩

/-- Every crew of the list is stopping after the fold. -/
theorem State.foldl_stopCrew (l : List ℕ) (s : State) {c : Crew} (hc : s.crews.get? rid = some c) (h : rid ∈ l ∨ c.stopping = true) :
    ∃ d, (l.foldl State.stopCrew s).crews.get? rid = some d ∧ d.stopping = true ∧ d.kernel = c.kernel := by
  induction l generalizing s c with
  | nil => exact ⟨c, hc, h.resolve_left List.not_mem_nil, rfl⟩
  | cons j l ih =>
    obtain ⟨d, hd, hk, hs⟩ := s.stopCrew_heeds j rid c hc
    have hd' : rid ∈ l ∨ d.stopping = true := by
      rcases h with h | h
      · rcases List.mem_cons.mp h with rfl | h
        · obtain ⟨e, he, -, hstop⟩ := State.stopCrew_stops hc
          obtain rfl := Option.some.inj (hd.symm.trans he)
          exact .inr hstop
        · exact .inl h
      · exact .inr (hs h)
    obtain ⟨e, he, hstop, hk'⟩ := ih _ hd hd'
    exact ⟨e, he, hstop, hk'.trans hk⟩

theorem State.foldl_stopCrew_mem (l : List ℕ) (s : State) : (l.foldl State.stopCrew s).mem = s.mem := by
  induction l generalizing s with
  | nil => rfl
  | cons j l ih => exact (ih _).trans (State.stopCrew_mem j)

theorem kernelStopMessage_stops (hp : s.place = .kernel k) (hs : (s.kern k).state = .stopping) (hm : (s.kern k).messaged = true)
    (he : (s.kern k).ending = none) : Runs .kernelStopMessage s (fun t =>
      t.agenda.getLast? = some (.event (.kernel k) .stopCutComplete) ∧ t.mem = s.mem ∧
        ∀ rid c, s.crews.get? rid = some c → c.kernel = k → ∃ d, t.crews.get? rid = some d ∧ d.stopping = true ∧ d.kernel = k) := by
  refine ⟨((s.ridsOf k).foldl State.stopCrew s).post (.kernel k) .stopCutComplete, ?_, List.getLast?_concat, ?_, fun rid c hc hk => ?_⟩
  · refine (exec_at_kernel hp rfl).trans ?_
    rw [if_pos ⟨hs, hm, he⟩]
  · exact State.foldl_stopCrew_mem _ s
  · have hmem : rid ∈ s.ridsOf k :=
      List.mem_map.mpr ⟨(rid, c), List.mem_filter.mpr ⟨Tbl.mem_of_get? hc, decide_eq_true hk⟩, rfl⟩
    obtain ⟨d, hd, hstop, hkernel⟩ := State.foldl_stopCrew (s.ridsOf k) s hc (.inl hmem)
    exact ⟨d, hd, hstop, hkernel.trans hk⟩

theorem Crew.clearFlag_clear (c : Crew) (f : Fin 12) : (c.clearFlag (some f)).flags.getLsbD f.val = false := by
  simp [Crew.clearFlag]

/-- An MMA in the pipe ends after its current block (R118, R294). -/
theorem State.stopCrew_mma {c : Crew} {r : MmaRun} (hc : s.crews.get? rid = some c) (hr : c.mmaRun = some r) (hs : c.strokes = [])
    (hn : r.blocksBy s.clock < 16) : ∃ d, (s.stopCrew rid).crews.get? rid = some d ∧ d.progress = r.blocksBy s.clock ∧ d.mmaRun = none ∧
      (s.stopCrew rid).reds = s.reds.filter (fun x => decide (¬(x.mma = some r.id ∧ r.blocksBy s.clock ≤ x.block))) ∧
      ∀ f, r.job.flag = some f → d.flags.getLsbD f.val = false := by
  have hstrokes : s.stopStrokes rid c = s := by
    unfold State.stopStrokes
    rw [hs]
    rfl
  obtain ⟨fs, back, job, hmma⟩ := State.stopMma_eq hc hr hn
  obtain ⟨-, hprog, hrun, hflags⟩ := c.mmaCut_spec r (r.blocksBy s.clock) back job
  obtain ⟨hcrews, hreds⟩ := (s.stopMma rid).abandons_frame rid c
  have hcut : ((s.stopMma rid).abandons rid c).crews.get? rid = some (c.mmaCut r (r.blocksBy s.clock) back job) := by
    rw [hcrews, hmma]
    dsimp only
    rw [Tbl.get?_modify_self, hc]
    rfl
  have hset : (((s.stopMma rid).abandons rid c).setCrew rid Crew.stopped).crews.get? rid =
      some (c.mmaCut r (r.blocksBy s.clock) back job).stopped := by
    rw [State.setCrew_get?_self, hcut]
    rfl
  rw [State.stopCrew_eq hc, hstrokes]
  obtain ⟨d, hd, -, hprog', hrun', hflags'⟩ := State.redsChanged_rests _ rid _ hset
  refine ⟨d, hd, hprog'.trans hprog, hrun'.trans hrun, ?_, fun f hf => ?_⟩
  · have hkept (u : State) : u.redsChanged.reds = u.reds := u.redsChanged_sameReds.1
    rw [hkept, show (((s.stopMma rid).abandons rid c).setCrew rid Crew.stopped).reds = _ from hreds, hmma]
    refine List.filter_congr fun x _ => ?_
    rw [decide_not, Bool.decide_and]
  · rw [hflags', show (c.mmaCut r (r.blocksBy s.clock) back job).stopped.flags = _ from hflags, hf]
    exact c.clearFlag_clear f

end

/-! ## A drained crew is saved (R118, R120) -/

section
variable {s : State} {rid slot : ℕ} {c : Crew}

/-- The copies that a write of a save slot needs first. -/
def State.saveReady (s : State) (slot : ℕ) (c : Crew) : State :=
  (pieces (s.saveVa c.kernel slot) 40960).foldl (fun s p => s.makeWritable (c.ctx s) p.1) s

theorem State.saveReady_aside (s : State) (slot : ℕ) (c : Crew) : (s.saveReady slot c).aside = s.aside :=
  State.foldl_aside (fun _ _ => State.makeWritable_aside _ _) _

/-- A crew leaves its slot: no other does, and no kernel has part in it. -/
theorem State.unseat_frame (s : State) (rid : ℕ) : (s.unseat rid).crews = s.crews.erase rid ∧ (s.unseat rid).kernels = s.kernels := ⟨rfl, rfl⟩

theorem State.tidy_frame (s : State) (k : ℕ) : (s.tidy k).crews = s.crews ∧ (s.tidy k).kernels = s.kernels := by
  have hfold (l : List (ℕ × Bay)) (t : State) : (l.foldl (fun s p => s.leaveBay p.1 k) t).crews = t.crews ∧
      (l.foldl (fun s p => s.leaveBay p.1 k) t).kernels = t.kernels := by
    induction l generalizing t with
    | nil => exact ⟨rfl, rfl⟩
    | cons p l ih =>
      obtain ⟨h1, h2⟩ := ih (t.leaveBay p.1 k)
      exact ⟨h1.trans rfl, h2.trans rfl⟩
  unfold State.tidy
  extract_lets bays
  split
  · exact ⟨rfl, rfl⟩
  · obtain ⟨h1, h2⟩ := hfold bays s
    exact ⟨(State.kick_crews ..).trans h1, (State.kick_kernels ..).trans h2⟩

/-- The save of a crew whose liveness entry can be read. -/
theorem State.saveCrew_eq {l : List (ℕ × Hit × ℕ)} {blocks : ℕ} (hl : (s.saveReady slot c).saveReach c.kernel slot .write = .ok l)
    (hb : (s.saveReady slot c).liveBlocks rid c = .ok blocks) : s.saveCrew rid slot c =
      ((((((s.saveReady slot c).writePieces l ((s.saveReady slot c).saveBytes rid c blocks)).setKern c.kernel
        (fun y => y.setKeep c.idx (fun e => e.saving c slot))).unseat rid).tidy c.kernel).kick).post (.kernel c.kernel) .stopCutComplete := by
  rw [State.saveCrew]
  dsimp only
  rw [← State.saveReady, hl]
  dsimp only
  rw [hb]

theorem crewSave_saves (hp : s.place = .save rid slot) (hc : s.crews.get? rid = some c) (hs : (s.kern c.kernel).state = .stopping)
    (he : (s.kern c.kernel).ending = none) (hd : s.drained c = true) (hf : s.saveFree c.kernel slot = true) {l : List (ℕ × Hit × ℕ)}
    {blocks : ℕ} (hl : (s.saveReady slot c).saveReach c.kernel slot .write = .ok l)
    (hb : (s.saveReady slot c).liveBlocks rid c = .ok blocks) : Runs .crewSave s (fun t =>
      t.mem = ((s.saveReady slot c).writePieces l ((s.saveReady slot c).saveBytes rid c blocks)).mem ∧ t.crews.get? rid = none ∧
      (∀ r, r ≠ rid → t.crews.get? r = s.crews.get? r) ∧ ((t.kern c.kernel).keepOf c.idx).save = some slot ∧
      ((t.kern c.kernel).keepOf c.idx).savedTrapped = (decide (c.life = .trapped) ||
        ((s.kern c.kernel).keepOf c.idx).savedTrapped && decide (c.life = .placed)) ∧ (t.kern c.kernel).state = .stopping) := by
  let w := (s.saveReady slot c).writePieces l ((s.saveReady slot c).saveBytes rid c blocks)
  let kept := w.setKern c.kernel (fun y => y.setKeep c.idx (fun e => e.saving c slot))
  let t := (((kept.unseat rid).tidy c.kernel).kick).post (.kernel c.kernel) .stopCutComplete
  have hw : w.aside = s.aside := (State.writePieces_aside ..).trans (s.saveReady_aside slot c)
  obtain ⟨hucrews, hukernels⟩ := kept.unseat_frame rid
  obtain ⟨htcrews, htkernels⟩ := (kept.unseat rid).tidy_frame c.kernel
  have hcrews : t.crews = s.crews.erase rid :=
    calc t.crews
      _ = ((kept.unseat rid).tidy c.kernel).crews := (State.post_crews ..).trans (State.kick_crews ..)
      _ = kept.crews.erase rid := htcrews.trans hucrews
      _ = s.crews.erase rid := by rw [show kept.crews = w.crews from State.setKern_crews .., State.crews_of_aside hw]
  have hkernels : t.kernels = kept.kernels :=
    calc t.kernels
      _ = ((kept.unseat rid).tidy c.kernel).kernels := (State.post_kernels ..).trans (State.kick_kernels ..)
      _ = kept.kernels := htkernels.trans hukernels
  have hkern : t.kern c.kernel = (s.kern c.kernel).setKeep c.idx (fun e => e.saving c slot) := by
    have hwk : w.kern c.kernel = s.kern c.kernel := by rw [State.kern, State.kern, State.kernels_of_aside hw]
    rw [State.kern, hkernels]
    exact (State.setKern_kern_self ..).trans (by rw [hwk])
  have hkeep : (t.kern c.kernel).keepOf c.idx = ((s.kern c.kernel).keepOf c.idx).saving c slot := by
    rw [hkern, Kernel.keepOf, Kernel.setKeep, Tbl.getD, Tbl.get?_set_self]
    rfl
  refine ⟨t, ?_, ?_, ?_, fun r hr => ?_, ?_, ?_, ?_⟩
  · show execCrewSave s = _
    rw [execCrewSave, hp]
    dsimp only
    rw [hc]
    dsimp only
    rw [if_pos ⟨hs, he, hd, hf⟩, State.saveCrew_eq hl hb]
  · calc t.mem
      _ = ((kept.unseat rid).tidy c.kernel).mem := (State.post_mem ..).trans (State.kick_mem ..)
      _ = (kept.unseat rid).mem := State.tidy_mem _
      _ = w.mem := (State.unseat_mem rid).trans (State.setKern_mem ..)
  · rw [hcrews, Tbl.get?_erase_self]
  · rw [hcrews, Tbl.get?_erase_ne _ hr.symm]
  · rw [hkeep]
    rfl
  · rw [hkeep]
    rfl
  · rw [hkern]
    exact hs

end

end Sys2Proof.Machine

namespace Sys2Proof.Laws

open Machine Claims

/-- Settles O49: what a retirement and a cut leave, from the frames of their steps (`State.retire_tenure`, `State.afterCut_spec`), and the
crews under a stop, step by step (`Crewwise`). -/
theorem kernelStates : Obligations.KernelStates := by
  unfold Obligations.KernelStates
  refine ⟨fun s k hp => ⟨fun hs he => ⟨fun l hl hx => ?_, fun hl => ?_⟩, fun h => ?_, fun h => ?_, fun h => ?_,
    fun cause hs hw h => ?_, fun h => ?_⟩, fun s => ⟨fun k hp hs hm he => ?_, fun rid c r hc hr hs hn => ?_,
      fun rid slot c l blocks hp hc hs he hd hf hl hb => ?_⟩⟩
  · exact kernelPlacing_reads hp hs he hl hx
  · exact kernelPlacing_malformed hp hs he hl
  · exact kernelPlacing_stays hp h
  · exact stopCutComplete_stays hp h
  · exact stopCutComplete_cuts hp h
  · exact kernelRetire_retires hp hs hw h
  · exact kernelRetire_stays hp h
  · exact kernelStopMessage_stops hp hs hm he
  · exact State.stopCrew_mma hc hr hs hn
  · exact crewSave_saves hp hc hs he hd hf hl hb

end Sys2Proof.Laws
end
